-- ==== Sys2Proof/Word.lean ====
section
/-! DEFINITION. The word types of the machine: bytes, 64-bit scalars, 1,024-bit vectors, addresses and
instruction targets. -/

namespace Sys2Proof

/-- One byte of memory (R1). -/
abbrev Byte := BitVec 8

/-- A 64-bit scalar: G and S registers, special registers, scalar tokens (R154, R163). -/
abbrev Word := BitVec 64

/-- A 1,024-bit vector: V registers and vector tokens (R163, R186). -/
abbrev Vec := BitVec 1024

/-- The 9-bit target of an instruction (R131). -/
abbrev Target := BitVec 9

/-- The 8-bit target of format G (R132). -/
abbrev GTarget := BitVec 8

/-- The timestamp ⊤, which means never (R4). -/
def timeTop : Word := 0xFFFFFFFFFFFFFFFF#64

/-- A 64-bit word from a natural number, modulo 2^64. -/
abbrev word (n : Nat) : Word := BitVec.ofNat 64 n

end Sys2Proof
end

