-- ==== Sys2Proof/Syntax.lean ====
section
/-! DEFINITION. The instructions of the machine: the 141 encoded instructions with their operand
fields, and the 142 events with the data each one carries. -/

namespace Sys2Proof

/-! ### Operand fields of the encoded instructions -/

/-- The predicate mode pm (R135); the code 01 is no mode. -/
inductive Pred | always | onFalse | onTrue
  deriving DecidableEq, Repr

/-- TYPE of the integer instructions (R179). -/
inductive IntType | i64 | i32 | i16 | i8 | n64 | n32 | n16 | n8
  deriving DecidableEq, Repr

/-- MODE of ADD, SUB, MUL and of VADD, VSUB, VMUL (R179, R193). -/
inductive SatMode | wrap | sat
  deriving DecidableEq, Repr

/-- The condition of CMP and VCMP (R179, R196). -/
inductive Cond | eq | ne | lt | ge
  deriving DecidableEq, Repr

/-- The scale of LEA, n = 0 to 4 (R183). -/
inductive LeaScale | s0 | s1 | s2 | s3 | s4
  deriving DecidableEq, Repr

/-- The value SLICE delivers (R184). -/
inductive SliceSel | base | ext | step
  deriving DecidableEq, Repr

/-- The operation of BITS (R185). -/
inductive BitsOp | ext | sext | clz | ctz | popc
  deriving DecidableEq, Repr

/-- The operation of AMO (R241). -/
inductive AmoOp | add | min | max | and | or | swp | cas
  deriving DecidableEq, Repr

/-- The type of AMO (R241). -/
inductive AmoType | i64 | n64 | i32 | n32
  deriving DecidableEq, Repr

/-- VT, the element type of a vector instruction (R187). -/
inductive VecType | fp32 | bf16 | fp16 | i32 | n32 | i16 | n16
  deriving DecidableEq, Repr

/-- The element types of VFMA (R195). -/
inductive FloatType | fp32 | bf16 | fp16
  deriving DecidableEq, Repr

/-- The sign form of VFMA (R193): a×b+c, a×b−c, −(a×b)+c. -/
inductive FmaMode | plain | ms | nma
  deriving DecidableEq, Repr

/-- The selection of VSHF (R200). -/
inductive ShufMode | idx | hidx | rot | xor | hrot
  deriving DecidableEq, Repr

/-- The source of VBCST (R201). -/
inductive BcastMode | lane | half | s16
  deriving DecidableEq, Repr

/-- The element and extension of VEXT (R203). -/
inductive ExtMode | n32 | i32 | n16 | i16
  deriving DecidableEq, Repr

/-- The conversions of VCVT, destination then source (R205). -/
inductive CvtCode
  | bf16Fp32 | fp16Fp32 | fp32Bf16 | fp32Fp16 | fp16Bf16 | bf16Fp16 | i32Fp32 | n32Fp32
  | fp32I32 | fp32N32 | t8Fp32 | t6Fp32 | fp32T8 | fp32T6 | i8Fp32 | fp32I8
  | i16I32 | n16N32 | i32I16 | n32N16 | i8I32 | i32I8
  deriving DecidableEq, Repr

/-- The operation of VRED (R208). -/
inductive RedMode | add | max | min | bits
  deriving DecidableEq, Repr

/-- The function of VUN (R199). -/
inductive UnMode | neg | abs | sqrt | flr
  deriving DecidableEq, Repr

/-- The mode of MMOV (R298). -/
inductive MmovMode | aa | am | ma | wm | mw
  deriving DecidableEq, Repr

/-- A scope (R324). -/
inductive Scope | slot | core | region | die | mod | fab
  deriving DecidableEq, Repr

/-- The kind of a FENCE (R330). -/
inductive FenceKind | rel | acq | ar
  deriving DecidableEq, Repr

/-- A rounding mode (R59). -/
inductive RoundMode | rne | rtz | rup | rdn | rna
  deriving DecidableEq, Repr

/-- The VAL of a STREAM hint (R142). -/
inductive StreamHint | none | readOnce | lastUse
  deriving DecidableEq, Repr

/-- KIND and VAL of an HNT (R142). -/
inductive Hint
  | slack (v : BitVec 8)
  | round (m : RoundMode)
  | stream (h : StreamHint)
  deriving DecidableEq, Repr

/-- reg9 of format G: class and number (R134). -/
structure RegSel where
  cls : BitVec 3
  num : BitVec 6
  deriving DecidableEq, Repr

/-! ### Tokens -/

/-- A token (R154): Null, a scalar, or a vector with 64 live bits (R186). -/
inductive Token
  | null
  | scalar (v : Word)
  | vec (data : Vec) (live : Word)
  deriving DecidableEq, Repr

/-! ### What the events carry -/

/-- One instruction of one execution of a block: core, slot, the number of the execution and the index. -/
structure ExecId where
  core : Nat
  slot : Nat
  gen : Nat
  idx : Nat
  deriving DecidableEq, Repr

/-- What a request does at its owner (R234, R241, R242). -/
inductive AccOp
  | read
  | lds
  | sts (v : Word)
  | amo (op : AmoOp) (ty : AmoType) (b c : Word)
  | bump (n : Nat)
  deriving DecidableEq, Repr

/-- Who asks: a thread or an engine of this module, a thread of another node's module, or a node with the tag of its transaction
(R218). -/
inductive Asker
  | own
  | peer (node : Nat)
  | host (node tag : Nat)
  deriving DecidableEq, Repr

/-- A unit that asks for memory beside the threads of the cores: a siphon or a core's matrix unit with the number of its command
(R256, R285), a walker with its die, ASID and page (R224), the load of a block with its slot and number (R126), a launch unit that
adds to a signal word, with its die and the number of the report (R416). -/
inductive Engine
  | siphon (n cmd : Nat)
  | matrix (core cmd : Nat)
  | walker (die asid page : Nat)
  | loader (core slot n : Nat)
  | adder (die seq : Nat)
  deriving DecidableEq, Repr

/-- What such a unit is answered: bytes from a physical address up, the result of a BUMP, the acknowledgement of a store word, or that
bytes cannot be reached (R323, R428). -/
inductive EngAnswer
  | bytes (pa : Nat) (data : List Byte)
  | bumped (v : Word)
  | written (pa : Nat)
  | failed (pas : List Nat)
  deriving DecidableEq, Repr

/-- A request to the owner of its bytes: each byte is (offset in the access, physical address); `eng` is the unit that asks, none for
a thread. -/
structure Req where
  id : ExecId
  op : AccOp
  bytes : List (Nat × Nat)
  slack : Nat
  exh : Bool
  stream : StreamHint
  asker : Asker
  eng : Option Engine
  deriving DecidableEq, Repr

/-- A store word (R230): an aligned 8-byte word, the bytes it writes by their place in the word, its virtual
address, the release scope it carries (R338), and the unit that sent it, none for a thread. -/
structure StoreWord where
  core : Nat
  slot : Nat
  sid : Nat
  va : Word
  word : Nat
  bytes : List (Nat × Byte)
  slack : Nat
  exh : Bool
  tag : Option Scope
  asker : Asker
  eng : Option Engine
  deriving DecidableEq, Repr

/-- A FILL or WAKE on its way (R366, R367): `sel` is the register selector of a FILL, none for a WAKE; `fault` is set in the WAKE that a
core makes for the handler of a service fault of the slot `srcSlot` (R388). -/
structure TaskMsg where
  src : Nat
  srcSlot : Nat
  core : Nat
  slot : Nat
  inc : Nat
  ack : Bool
  aword : Nat
  sel : Option Nat
  value : Token
  time : Word
  sheaf : Option Nat
  slack : Nat
  exh : Bool
  col : Bool
  fault : Bool
  deriving DecidableEq, Repr

/-- The operation of a cell instruction with its operands (R349-R357); `close` is what the commit of a CCMT or CSET leaves to
the home core, which counts down OPENS for a CCMT (R353, R354). -/
inductive CellOp
  | crd
  | crel (addr : Word)
  | cwr (t : Word)
  | ccmt (t : Word)
  | cset (t : Word) (data : Vec) (live : Word)
  | cbind (off : Nat) (t : Word)
  | cunb (t : Word)
  | cstat (n : Nat) (clr : Bool)
  | close (t : Word) (opens : Bool)
  deriving DecidableEq, Repr

/-- The request of a cell instruction to the home core (R343): the issuer, its time, sheaf and incarnation, and the
recalculation task it serves; `came` is the cycle of its arrival there (R312). -/
structure CellReq where
  id : ExecId
  op : CellOp
  cell : Word
  time : Word
  sheaf : Option Nat
  inc : Nat
  task : Option (Nat × Word)
  pins : Nat
  slack : Nat
  exh : Bool
  came : Nat
  deriving DecidableEq, Repr

/-- The reply of a cell instruction: the status and the other result. -/
structure CellReply where
  id : ExecId
  status : Nat
  other : Token
  deriving DecidableEq, Repr

/-- What TOKEN_DELIVERY brings (R154): results at c + 7, the reply of a request, or a cell decision. -/
inductive Delivery
  | tokens (id : ExecId) (a b : Token)
  | bytes (id : ExecId) (data : List (Nat × Byte))
  | taken (id : ExecId) (op : AccOp) (v : Word)
  | cell (r : CellReply)
  | noMemory (id : ExecId) (off : Nat)
  | engine (e : Engine) (a : EngAnswer)
  deriving DecidableEq, Repr

/-- A steal request on its way round, or the reply of a victim (R115): an entry is 32 bytes as four words. -/
structure Steal where
  thief : Nat
  position : Nat
  entry : Option (Word × Word × Word × Nat)
  col : Bool
  deriving DecidableEq, Repr

/-- A mark (R31) on its way to a dependant's home: the source cell, the edge's summary index, the dependant, the time,
the sheaf, and the thread that waits. -/
structure MarkMsg where
  source : Nat
  summary : Nat
  cell : Nat
  time : Word
  sheaf : Nat
  core : Nat
  slot : Nat
  inc : Nat
  counted : Bool
  slack : Nat
  exh : Bool
  col : Bool
  deriving DecidableEq, Repr

/-- A net delta of the outstanding-time counts: sheaf, time, amount (R80). -/
structure Delta where
  sheaf : Nat
  time : Word
  net : Int
  deriving DecidableEq, Repr

/-- What a core, or a unit of the tree for the cores below it, reports for a sweep with its batch (R83, R86): the number of the sweep,
the items of the old colour sent and received, and the cores that have flipped. -/
structure SweepReport where
  sweep : Nat
  sent : Nat
  received : Nat
  flips : Nat
  deriving DecidableEq, Repr

/-- A delta batch as it travels up the tree (R80, R81): its deltas, what it reports for a sweep, and whether its counts are those of
a fenced core, which the frontier unit of the die records (R427). -/
structure DeltaBatch where
  deltas : List Delta
  report : Option SweepReport
  fenced : Bool
  deriving DecidableEq, Repr

/-- The levels of the reduction tree above a core (R82). -/
inductive TreeLevel | region | die | module
  deriving DecidableEq, Repr

/-- A firmware image (R423): header fields, signature and body. -/
structure FwImage where
  magic : Nat
  version : Nat
  length : Nat
  reserved : Nat
  digest : List Byte
  sig : List Byte
  body : List Byte
  deriving DecidableEq, Repr

/-- A message of the MULTI protocol between modules (R101): the gang, the sending module, the module that it is for, the tick that it
tells, the ERR of an abort, the packet's NMOD and STARTT, and the regions of each module's part as (node, NREG). `unit` is the die whose
launch unit has the part, none while the message is for a leader. -/
structure MultiMsg where
  gang : Nat
  node : Nat
  dest : Nat
  unit : Option Nat
  tick : Nat
  err : Nat
  nmod : Nat
  start : Nat
  parts : List (Nat × Nat)
  deriving DecidableEq, Repr

/-- A message of a node's units to those of another (R82, R83, R96, R101, R102, R416, R424): a report record for an address, 1 added to a
signal word, a time message, the MULTI protocol, delta batches, announcements and sweeps, firmware images. Batches and the reports of
sweeps carry their node and their number among those that the node has sent (log entry 136). -/
inductive NodeMsg
  | report (addr : Nat) (bytes : List Byte)
  | signal (addr : Nat)
  | sync (master : Nat)
  | ready (m : MultiMsg)
  | commit (m : MultiMsg)
  | abort (m : MultiMsg)
  | batch (node seq : Nat) (ds : List Delta)
  | announce (sheaf : Nat) (front : Word)
  | sweep (node n : Nat)
  | swept (node seq n : Nat)
  | image (img : FwImage)
  | imageRequest (node die : Nat)
  deriving DecidableEq, Repr

/-- What a port has received for a unit of the module: a read or a write of the control window, or a message to its units (R14,
R306, R323). -/
inductive PortMsg
  | read (r : Req)
  | write (w : StoreWord)
  | node (m : NodeMsg)
  deriving DecidableEq, Repr

/-- A message that crosses the network between cores, wellheads and ports; `unit` is one of the module's own units, which stands in
State until it arrives; `fromPort` is one that a port has received for a unit. -/
inductive Msg
  | access (r : Req)
  | deliver (d : Delivery)
  | refused (r : Req)
  | store (w : StoreWord)
  | storeAck (core slot sid : Nat)
  | missed (w : StoreWord)
  | task (m : TaskMsg)
  | report (core aword : Nat) (applied : Bool)
  | stealAsk (s : Steal)
  | stealReply (s : Steal)
  | cell (r : CellReq)
  | mark (m : MarkMsg)
  | markAck (core slot inc : Nat)
  | sysWrite (core slot sid : Nat) (off : Nat) (v : Word) (slack : Nat) (exh : Bool)
  | nodeReply (tag : Nat) (data : List (Nat × Byte))
  | node (m : NodeMsg)
  | fromPort (p : Nat) (m : PortMsg)
  | unit (id : Nat)
  deriving DecidableEq, Repr

/-- LEASE_RENEWAL (R97): a leader's turn to renew, or what it tells a die: the leader, the epoch and the expiry. -/
inductive LeaseEvent
  | renew (die : Nat)
  | told (die leader epoch expiry : Nat)
  deriving DecidableEq, Repr

/-- Who has started the read that has met an uncorrectable error (R427). -/
inductive EccReader
  | unknown
  | thread (id : ExecId)
  | engine (e : Engine)
  deriving DecidableEq, Repr

/-- Where an uncorrectable error lies (R427, R428): in a cistern, in a GDDR7 read, in a frontier unit, in a firmware SRAM. -/
inductive EccSource
  | cistern (r : EccReader)
  | gddr (r : EccReader)
  | frontier
  | firmware
  deriving DecidableEq, Repr

/-- A queue record (R92); `version` and `aidx` as the record holds them. -/
structure QueueRec where
  aidx : Nat
  inflt : Nat
  errcnt : Nat
  waitval : Word
  waddr : Nat
  version : Nat
  host : Nat
  wridx : Nat
  rdidx : Nat
  base : Nat
  logsz : Nat
  owner : Nat
  prio : Nat
  state : Nat
  age : Nat
  bfen : Bool
  bfq : Nat
  deriving DecidableEq, Repr

/-- Who writes a register: the leader's firmware, the side-band, a node of the fabric, or a service thread. -/
inductive Writer
  | firmware
  | sideband
  | node (n : Nat)
  | thread (core slot : Nat)
  deriving DecidableEq, Repr

/-- A packet as a data flit carries it between nodes (R218, R318). -/
inductive FabricMsg
  | write (node addr : Nat) (bytes : List Byte) (slack : Nat) (exh : Bool)
  | read (node addr n tag slack : Nat) (exh : Bool)
  | access (node : Nat) (r : Req)
  | store (node : Nat) (w : StoreWord)
  | msg (slack : Nat) (exh : Bool) (m : Msg)
  deriving DecidableEq, Repr

/-- A flit (R318): the fields of its header, its 232 body bytes as they stand on the line, the packets that the body of a data flit
carries or the numbers of a control flit, and whether it was sent again after a retraining, so that its timestamps are void
(R322). -/
structure Flit where
  seq : Nat
  ackseq : Nat
  vc : Nat
  kind : Nat
  freed : List Nat
  crc : Nat
  bytes : List Byte
  body : List FabricMsg
  data : List Nat
  void : Bool
  deriving DecidableEq, Repr

/-! ### The instructions -/

/-- The instructions: one constructor per row of the opcode table. -/
inductive Instr
  /-- BR (R174) -/
  | br (p : Pred) (e : BitVec 3) (off20 : BitVec 20)
  /-- BRI (R174) -/
  | bri (p : Pred) (e : BitVec 3)
  /-- CALL (R175) -/
  | call (p : Pred) (e : BitVec 3) (off20 : BitVec 20)
  /-- CALLI (R175) -/
  | calli (p : Pred) (e : BitVec 3)
  /-- RET (R174) -/
  | ret (p : Pred) (e : BitVec 3)
  /-- LPB (R170) -/
  | lpb (level : BitVec 2) (exitOff : BitVec 12) (ta : Target)
  /-- LPX (R172) -/
  | lpx (p : Pred) (e : BitVec 3) (off20 : BitVec 20)
  /-- HNT (R142) -/
  | hnt (hint : Hint)
  /-- GENC (R177) -/
  | genc (imm16 : BitVec 16) (ta : Target)
  /-- APP (R177) -/
  | app (imm16 : BitVec 16) (ta : Target)
  /-- MOV (R177) -/
  | mov (p : Pred) (tb : Target) (ta : Target)
  /-- NUL (R177) -/
  | nul (p : Pred) (tb : Target) (ta : Target)
  /-- RD (R164) -/
  | rd (reg : RegSel) (tb8 : GTarget) (ta8 : GTarget)
  /-- RDT (R164) -/
  | rdt (reg : RegSel) (tb8 : GTarget) (ta8 : GTarget)
  /-- WR (R165) -/
  | wr (reg : RegSel)
  /-- ADD (R180) -/
  | add (p : Pred) (ty : IntType) (mode : SatMode) (tb : Target) (ta : Target)
  /-- SUB (R180) -/
  | sub (p : Pred) (ty : IntType) (mode : SatMode) (tb : Target) (ta : Target)
  /-- MUL (R180) -/
  | mul (p : Pred) (ty : IntType) (mode : SatMode) (tb : Target) (ta : Target)
  /-- MULH (R180) -/
  | mulh (p : Pred) (ty : IntType) (tb : Target) (ta : Target)
  /-- DIV (R180) -/
  | div (p : Pred) (ty : IntType) (tb : Target) (ta : Target)
  /-- REM (R180) -/
  | rem (p : Pred) (ty : IntType) (tb : Target) (ta : Target)
  /-- AND (R180) -/
  | andI (p : Pred) (ty : IntType) (tb : Target) (ta : Target)
  /-- OR (R180) -/
  | orI (p : Pred) (ty : IntType) (tb : Target) (ta : Target)
  /-- XOR (R180) -/
  | xorI (p : Pred) (ty : IntType) (tb : Target) (ta : Target)
  /-- SHL (R180) -/
  | shl (p : Pred) (ty : IntType) (tb : Target) (ta : Target)
  /-- SHR (R180) -/
  | shr (p : Pred) (ty : IntType) (tb : Target) (ta : Target)
  /-- SAR (R180) -/
  | sar (p : Pred) (ty : IntType) (tb : Target) (ta : Target)
  /-- MIN (R180) -/
  | minI (p : Pred) (ty : IntType) (tb : Target) (ta : Target)
  /-- MAX (R180) -/
  | maxI (p : Pred) (ty : IntType) (tb : Target) (ta : Target)
  /-- CMP (R180) -/
  | cmp (p : Pred) (ty : IntType) (cond : Cond) (tb : Target) (ta : Target)
  /-- SEL (R181) -/
  | sel (tb : Target) (ta : Target)
  /-- ADDI (R182) -/
  | addi (p : Pred) (imm14 : BitVec 14) (ta : Target)
  /-- MULI (R182) -/
  | muli (p : Pred) (imm14 : BitVec 14) (ta : Target)
  /-- ANDI (R182) -/
  | andi (p : Pred) (imm14 : BitVec 14) (ta : Target)
  /-- ORI (R182) -/
  | ori (p : Pred) (imm14 : BitVec 14) (ta : Target)
  /-- XORI (R182) -/
  | xori (p : Pred) (imm14 : BitVec 14) (ta : Target)
  /-- SHLI (R182) -/
  | shli (p : Pred) (sh6 : BitVec 6) (ta : Target)
  /-- SHRI (R182) -/
  | shri (p : Pred) (sh6 : BitVec 6) (ta : Target)
  /-- SARI (R182) -/
  | sari (p : Pred) (sh6 : BitVec 6) (ta : Target)
  /-- CEQI (R182) -/
  | ceqi (p : Pred) (imm14 : BitVec 14) (ta : Target)
  /-- CNEI (R182) -/
  | cnei (p : Pred) (imm14 : BitVec 14) (ta : Target)
  /-- CLTI (R182) -/
  | clti (p : Pred) (imm14 : BitVec 14) (ta : Target)
  /-- CGEI (R182) -/
  | cgei (p : Pred) (imm14 : BitVec 14) (ta : Target)
  /-- LEA (R183) -/
  | lea (p : Pred) (scale : LeaScale) (tb : Target) (ta : Target)
  /-- SLICE (R184) -/
  | slice (p : Pred) (slsel : SliceSel) (tb : Target) (ta : Target)
  /-- BITS (R185) -/
  | bits (p : Pred) (bop : BitsOp) (tb : Target) (ta : Target)
  /-- LD_N8 (R238) -/
  | ldN8 (p : Pred) (lsid : BitVec 5) (imm9 : BitVec 9) (ta : Target)
  /-- LD_I8 (R238) -/
  | ldI8 (p : Pred) (lsid : BitVec 5) (imm9 : BitVec 9) (ta : Target)
  /-- LD_N16 (R238) -/
  | ldN16 (p : Pred) (lsid : BitVec 5) (imm9 : BitVec 9) (ta : Target)
  /-- LD_I16 (R238) -/
  | ldI16 (p : Pred) (lsid : BitVec 5) (imm9 : BitVec 9) (ta : Target)
  /-- LD_N32 (R238) -/
  | ldN32 (p : Pred) (lsid : BitVec 5) (imm9 : BitVec 9) (ta : Target)
  /-- LD_I32 (R238) -/
  | ldI32 (p : Pred) (lsid : BitVec 5) (imm9 : BitVec 9) (ta : Target)
  /-- LD_64 (R238) -/
  | ld64 (p : Pred) (lsid : BitVec 5) (imm9 : BitVec 9) (ta : Target)
  /-- ST_8 (R238) -/
  | st8 (p : Pred) (lsid : BitVec 5) (imm18 : BitVec 18)
  /-- ST_16 (R238) -/
  | st16 (p : Pred) (lsid : BitVec 5) (imm18 : BitVec 18)
  /-- ST_32 (R238) -/
  | st32 (p : Pred) (lsid : BitVec 5) (imm18 : BitVec 18)
  /-- ST_64 (R238) -/
  | st64 (p : Pred) (lsid : BitVec 5) (imm18 : BitVec 18)
  /-- LDS (R234) -/
  | lds (p : Pred) (lsid : BitVec 5) (imm9 : BitVec 9) (ta : Target)
  /-- STS (R234) -/
  | sts (p : Pred) (lsid : BitVec 5) (imm18 : BitVec 18)
  /-- AMO (R241) -/
  | amo (p : Pred) (aop : AmoOp) (aty : AmoType) (tb : Target) (ta : Target)
  /-- BUMP (R242) -/
  | bump (p : Pred) (tb : Target) (ta : Target)
  /-- PREF (R243) -/
  | pref (p : Pred) (imm9 : BitVec 9)
  /-- VADD (R194) -/
  | vadd (p : Pred) (vt : VecType) (mode : SatMode) (tb : Target) (ta : Target)
  /-- VSUB (R194) -/
  | vsub (p : Pred) (vt : VecType) (mode : SatMode) (tb : Target) (ta : Target)
  /-- VMUL (R194) -/
  | vmul (p : Pred) (vt : VecType) (mode : SatMode) (tb : Target) (ta : Target)
  /-- VFMA (R195) -/
  | vfma (fvt : FloatType) (fmode : FmaMode) (tb : Target) (ta : Target)
  /-- VMIN (R194) -/
  | vmin (p : Pred) (vt : VecType) (tb : Target) (ta : Target)
  /-- VMAX (R194) -/
  | vmax (p : Pred) (vt : VecType) (tb : Target) (ta : Target)
  /-- VCMP (R196) -/
  | vcmp (p : Pred) (vt : VecType) (cond : Cond) (tb : Target) (ta : Target)
  /-- VSEL (R197) -/
  | vsel (half : Bool) (tb : Target) (ta : Target)
  /-- VAND (R198) -/
  | vand (p : Pred) (tb : Target) (ta : Target)
  /-- VOR (R198) -/
  | vor (p : Pred) (tb : Target) (ta : Target)
  /-- VXOR (R198) -/
  | vxor (p : Pred) (tb : Target) (ta : Target)
  /-- VSHF (R200) -/
  | vshf (p : Pred) (shf : ShufMode) (tb : Target) (ta : Target)
  /-- VBCST (R201) -/
  | vbcst (p : Pred) (bc : BcastMode) (tb : Target) (ta : Target)
  /-- VINS (R202) -/
  | vins (half : Bool) (tb : Target) (ta : Target)
  /-- VEXT (R203) -/
  | vext (p : Pred) (vx : ExtMode) (tb : Target) (ta : Target)
  /-- VMSK (R204) -/
  | vmsk (p : Pred) (half : Bool) (tb : Target) (ta : Target)
  /-- VCVT (R205) -/
  | vcvt (p : Pred) (cvt : CvtCode) (tb : Target) (ta : Target)
  /-- VRED (R208) -/
  | vred (p : Pred) (vt : VecType) (red : RedMode) (tb : Target) (ta : Target)
  /-- VEXP2 (R209) -/
  | vexp2 (p : Pred) (tb : Target) (ta : Target)
  /-- VRCP (R209) -/
  | vrcp (p : Pred) (tb : Target) (ta : Target)
  /-- VRSQ (R209) -/
  | vrsq (p : Pred) (tb : Target) (ta : Target)
  /-- TLD (R211) -/
  | tld (p : Pred) (buf : BitVec 2) (tb : Target) (ta : Target)
  /-- TLI (R213) -/
  | tli (p : Pred) (buf : BitVec 2) (tb : Target) (ta : Target)
  /-- VUN (R199) -/
  | vun (p : Pred) (vt : VecType) (unop : UnMode) (tb : Target) (ta : Target)
  /-- VLD (R244) -/
  | vld (p : Pred) (lsid : BitVec 5) (imm9 : BitVec 9) (ta : Target)
  /-- VST (R244) -/
  | vst (p : Pred) (lsid : BitVec 5) (imm18 : BitVec 18)
  /-- VLDX (R245) -/
  | vldx (p : Pred) (half : Bool) (tb : Target) (ta : Target)
  /-- VSTX (R246) -/
  | vstx (lsid : BitVec 5)
  /-- MPROG (R292) -/
  | mprog (p : Pred) (tb : Target) (ta : Target)
  /-- MLW (R293) -/
  | mlw (p : Pred)
  /-- MLW_S (R293) -/
  | mlwS
  /-- MMA (R294) -/
  | mma (p : Pred)
  /-- MMA_S (R294) -/
  | mmaS
  /-- MST (R295) -/
  | mst (p : Pred)
  /-- MZR (R296) -/
  | mzr (p : Pred)
  /-- MSTG (R297) -/
  | mstg (p : Pred) (stg : BitVec 2) (tb : Target) (ta : Target)
  /-- MSTG_S (R297) -/
  | mstgS (stg : BitVec 2) (tb : Target) (ta : Target)
  /-- MRES (R299) -/
  | mres (p : Pred)
  /-- MRES_DROP (R299) -/
  | mresDrop (p : Pred)
  /-- MMOV (R298) -/
  | mmov (p : Pred) (mmode : MmovMode)
  /-- CPY (R254) -/
  | cpy (p : Pred) (tb : Target) (ta : Target)
  /-- CPY_DEAL (R258) -/
  | cpyDeal (p : Pred) (tb : Target) (ta : Target)
  /-- CPY_GATH (R259) -/
  | cpyGath (p : Pred) (tb : Target) (ta : Target)
  /-- CPY_BIN (R260) -/
  | cpyBin (p : Pred) (tb : Target) (ta : Target)
  /-- CPY_X (R261) -/
  | cpyX (p : Pred) (tb : Target) (ta : Target)
  /-- SACQ (R266) -/
  | sacq (p : Pred) (tb : Target) (ta : Target)
  /-- SACQP (R266) -/
  | sacqp (p : Pred) (tb : Target) (ta : Target)
  /-- SLPT (R267) -/
  | slpt (p : Pred) (tb : Target) (ta : Target)
  /-- CHB (R277) -/
  | chb (p : Pred) (q : BitVec 3) (tb : Target) (ta : Target)
  /-- CHU (R277) -/
  | chu (p : Pred) (q : BitVec 3)
  /-- STR (R277) -/
  | str (p : Pred) (q : BitVec 3) (vecS : Bool) (tb : Target) (ta : Target)
  /-- FENCE (R330) -/
  | fence (p : Pred) (scope : Scope) (fkind : FenceKind)
  /-- TADV (R358) -/
  | tadv (p : Pred) (level : BitVec 2) (tb : Target) (ta : Target)
  /-- TSET (R359) -/
  | tset (p : Pred) (tb : Target) (ta : Target)
  /-- FWAIT (R360) -/
  | fwait (p : Pred) (tb : Target) (ta : Target)
  /-- JOIN (R363) -/
  | join (p : Pred) (tb : Target) (ta : Target)
  /-- LEAVE (R364) -/
  | leave (p : Pred) (exit : Bool) (tb : Target) (ta : Target)
  /-- SPAWN (R365) -/
  | spawn (tb : Target) (ta : Target)
  /-- SPAWN_AT (R365) -/
  | spawnAt (tb : Target) (ta : Target)
  /-- FILL (R367) -/
  | fill (p : Pred) (fsel : BitVec 5)
  /-- PARK (R369) -/
  | park (p : Pred)
  /-- WAKE (R367) -/
  | wake (p : Pred)
  /-- YLD (R369) -/
  | yld (p : Pred)
  /-- CBIND (R355) -/
  | cbind (tb : Target) (ta : Target)
  /-- CUNB (R355) -/
  | cunb (p : Pred) (tb : Target) (ta : Target)
  /-- CRD (R350) -/
  | crd (p : Pred) (tb : Target) (ta : Target)
  /-- CREL (R351) -/
  | crel (p : Pred) (tb : Target) (ta : Target)
  /-- CWR (R352) -/
  | cwr (p : Pred) (tb : Target) (ta : Target)
  /-- CCMT (R353) -/
  | ccmt (p : Pred) (tb : Target) (ta : Target)
  /-- CSET (R354) -/
  | cset (tb : Target) (ta : Target)
  /-- RFENCE (R356) -/
  | rfence (p : Pred) (tb : Target) (ta : Target)
  /-- CSTAT (R357) -/
  | cstat (p : Pred) (clr : Bool) (tb : Target) (ta : Target)
  /-- TRAP (R405) -/
  | trap (p : Pred)
  /-- TRET (R405) -/
  | tret (p : Pred)
  /-- TRET_RETRY (R405) -/
  | tretRetry (p : Pred)
  /-- PPT (R406) -/
  | ppt (p : Pred)
  /-- HALT (R407) -/
  | halt (p : Pred)
  /-- SYSR (R404) -/
  | sysr (p : Pred) (tb : Target) (ta : Target)
  /-- SYSW (R404) -/
  | sysw (p : Pred) (ta : Target)
  /-- POWER_ON_RESET (R420) -/
  | powerOnReset
  /-- STRETCH_END (R430) -/
  | stretchEnd (die : Nat)
  /-- DIE_FENCE (R428) -/
  | dieFence (die : Nat)
  /-- LEASE_RENEWAL (R97) -/
  | leaseRenewal (e : LeaseEvent)
  /-- LEASE_EXPIRY (R98) -/
  | leaseExpiry (die : Nat)
  /-- LEASE_CLAIM (R98) -/
  | leaseClaim (die claimant epoch : Nat)
  /-- LEASE_GRANT (R98) -/
  | leaseGrant (claimant epoch granter : Nat)
  /-- QUEUE_DOORBELL (R88) -/
  | queueDoorbell (q node : Nat) (wr : Nat)
  /-- RECORD_UPDATE (R93) -/
  | recordUpdate (die q : Nat) (r : QueueRec)
  /-- ROOT_PACKET (R113) -/
  | rootPacket (q : Nat)
  /-- GANG_PACKET (R121) -/
  | gangPacket (q : Nat)
  /-- PLACEMENT_PASS (R124) -/
  | placementPass (die : Nat)
  /-- RESERVE (R122) -/
  | reserve (core layer q : Nat)
  /-- RESERVE_ACK (R122) -/
  | reserveAck (die core : Nat) (ok : Bool)
  /-- MULTI_READY (R101) -/
  | multiReady (m : MultiMsg)
  /-- MULTI_COMMIT (R101) -/
  | multiCommit (m : MultiMsg)
  /-- MULTI_ABORT (R101) -/
  | multiAbort (m : MultiMsg)
  /-- MULTI_READY_TIMEOUT (R101) -/
  | multiReadyTimeout (gang : Nat)
  /-- TIMER_WHEEL_RELEASE (R104) -/
  | timerWheelRelease (die : Nat)
  /-- WAIT_POLL (R105) -/
  | waitPoll (q : Nat)
  /-- WATCHDOG_PERIOD (R108) -/
  | watchdogPeriod (die : Nat)
  /-- STEAL_REQUEST (R115) -/
  | stealRequest (victim : Nat) (s : Steal)
  /-- STEAL_REPLY (R115) -/
  | stealReply (s : Steal)
  /-- STEAL_BACKOFF (R115) -/
  | stealBackoff (core : Nat)
  /-- BLOCK_LOAD (R140) -/
  | blockLoad (core slot : Nat)
  /-- TOKEN_DELIVERY (R154) -/
  | tokenDelivery (d : Delivery)
  /-- BLOCK_COMMIT (R157) -/
  | blockCommit (core slot gen : Nat)
  /-- FILL_ARRIVAL (R166) -/
  | fillArrival (m : TaskMsg)
  /-- WAKE_ARRIVAL (R367) -/
  | wakeArrival (m : TaskMsg)
  /-- REPORT_WORD_ADD (R368) -/
  | reportWordAdd (core aword : Nat) (applied : Bool)
  /-- OWNER_ACCESS (R232) -/
  | ownerAccess (r : Req)
  /-- STORE_WORD_APPLY (R230) -/
  | storeWordApply (w : StoreWord)
  /-- STORE_ACKNOWLEDGEMENT (R326) -/
  | storeAcknowledgement (core slot sid : Nat)
  /-- LDS_STS_REFUSAL (R234) -/
  | ldsStsRefusal (r : Req)
  /-- LDS_STS_RESEND (R234) -/
  | ldsStsResend (r : Req)
  /-- PAGE_WALK (R224) -/
  | pageWalk (die asid page : Nat)
  /-- WELLHEAD_REQUEST (R228) -/
  | wellheadRequest (well : Nat)
  /-- INVALIDATION_COMPLETE (R227) -/
  | invalidationComplete
  /-- COMMAND_HANDOVER (R248) -/
  | commandHandover (core : Nat)
  /-- SIPHON_START (R269) -/
  | siphonStart (siphon : Nat)
  /-- COPY_COMPLETION (R256) -/
  | copyCompletion (siphon : Nat)
  /-- FOLLOW_ON_START (R297) -/
  | followOnStart (core : Nat)
  /-- MATRIX_HANDOVER (R282) -/
  | matrixHandover (core : Nat)
  /-- MPROG_INSTALL (R292) -/
  | mprogInstall (core : Nat)
  /-- MLW_EXECUTION (R293) -/
  | mlwExecution (core : Nat)
  /-- MMA_EXECUTION (R294) -/
  | mmaExecution (core : Nat)
  /-- MST_EXECUTION (R295) -/
  | mstExecution (core : Nat)
  /-- MZR_EXECUTION (R296) -/
  | mzrExecution (core : Nat)
  /-- MMOV_EXECUTION (R298) -/
  | mmovExecution (core : Nat)
  /-- MRES_EXECUTION (R299) -/
  | mresExecution (core : Nat)
  /-- PROMISE_MISSED (R266) -/
  | promiseMissed (core slot : Nat)
  /-- SLPT_WAKE (R267) -/
  | slptWake (core slot : Nat)
  /-- YLD_EXPIRY (R369) -/
  | yldExpiry (core slot : Nat)
  /-- STANDPIPE_PUSH (R274): from a register of a core to one of another -/
  | standpipePush (src dst : Nat × Nat) (tok : Token) (sheaf : Option Nat) (time : Word) (slack : Nat) (col : Bool)
  /-- CREDIT_RETURN (R275) -/
  | creditReturn (core q : Nat)
  /-- STREAM_READ_AHEAD (R276) -/
  | streamReadAhead (core q : Nat)
  /-- ROUTER_GRANT (R311) -/
  | routerGrant (router out : Nat)
  /-- SLACK_DECREMENT (R310) -/
  | slackDecrement (buffer pkt : Nat)
  /-- ROUTER_POWER_DOWN (R316) -/
  | routerPowerDown (router : Nat)
  /-- ROUTER_WAKE (R316) -/
  | routerWake (router : Nat)
  /-- DATA_FLIT (R319) -/
  | dataFlit (port : Nat) (f : Flit)
  /-- IDLE_FLIT (R318) -/
  | idleFlit (port : Nat) (f : Flit)
  /-- REPLAY_FLIT (R319) -/
  | replayFlit (port : Nat) (f : Flit)
  /-- AUDIT_INSERTION (R321) -/
  | auditInsertion (port : Nat)
  /-- AUDIT_FLIT (R321): SENT with FSEEN, and AVAIL, of each channel, as its body tells them -/
  | auditFlit (port : Nat) (f : Flit) (used : List (Nat × Nat)) (avail : List Nat)
  /-- RESTITUTION_FLIT (R321): the channel and the units that its body grants -/
  | restitutionFlit (port : Nat) (f : Flit) (grant : Nat × Nat)
  /-- CLAMP_FLIT (R321): the channel and the units expected of it, as its body tells them -/
  | clampFlit (port : Nat) (f : Flit) (expected : Nat × Nat)
  /-- PORT_RETRAIN (R322) -/
  | portRetrain (port : Nat)
  /-- RESTART_FLIT (R322): the SEQ that the other end expects and the free entries of each channel, as its body tells them -/
  | restartFlit (port : Nat) (f : Flit) (told : Nat × List Nat)
  /-- RETRAIN_TIMEOUT (R322) -/
  | retrainTimeout (port : Nat)
  /-- SCOPE_MISS (R339) -/
  | scopeMiss (w : StoreWord)
  /-- BATCH_AGE_EXPIRY (R80) -/
  | batchAgeExpiry (core : Nat)
  /-- DELTA_BATCH (R80) -/
  | deltaBatch (core : Nat)
  /-- BATCH_APPLY (R81) -/
  | batchApply (level : TreeLevel) (unit : Nat) (ds : DeltaBatch) (sent : Nat)
  /-- SWEEP_REQUEST (R83) -/
  | sweepRequest (core : Nat) (n : Nat) (cut : Bool)
  /-- SWEEP_COMPLETE (R83) -/
  | sweepComplete
  /-- FRONTIER_ANNOUNCEMENT (R83) -/
  | frontierAnnouncement (core sheaf : Nat) (front : Word)
  /-- LAUNCH_END (R416) -/
  | launchEnd (sheaf : Nat)
  /-- REPORT_TIMEOUT (R416) -/
  | reportTimeout (seq : Nat)
  /-- HELD_DECISION (R343) -/
  | heldDecision (r : CellReq)
  /-- MARK (R31) -/
  | mark (m : MarkMsg)
  /-- MARK_ACK (R31) -/
  | markAck (core slot inc : Nat)
  /-- TASK_DISPATCH (R35) -/
  | taskDispatch (core : Nat)
  /-- FACK_RETRY (R390) -/
  | fackRetry (core slot : Nat)
  /-- FACK_TRAP (R390) -/
  | fackTrap (core slot : Nat)
  /-- FACK_END (R390) -/
  | fackEnd (core slot : Nat)
  /-- PARK_TIMEOUT (R397) -/
  | parkTimeout (core : Nat)
  /-- PREEMPT_TIMEOUT (R397) -/
  | preemptTimeout (core slot since : Nat)
  /-- SWAP_OUT (R396) -/
  | swapOut (core slot : Nat)
  /-- RESTORE (R398) -/
  | restore (core entry : Nat)
  /-- CTXOUT (R399) -/
  | ctxout (core entry : Nat)
  /-- RESUME (R399) -/
  | resume (core addr : Nat)
  /-- CUT_MARKER (R401) -/
  | cutMarker (core q : Nat)
  /-- CELL_INSTALL (R402) -/
  | cellInstall (core entry : Nat)
  /-- CELL_REMOVE (R402) -/
  | cellRemove (core entry : Nat)
  /-- REGISTER_WRITE (R5) -/
  | registerWrite (off : Nat) (v : Word) (by_ : Writer)
  /-- RECORD_FETCH_REPLY (R93) -/
  | recordFetchReply (die q : Nat) (r : Option QueueRec)
  /-- RECOVERY_IMAGE_REPLY (R424) -/
  | recoveryImageReply (die : Nat) (img : FwImage)
  /-- FWSTAGE_GO (R424) -/
  | fwstageGo
  /-- DEVMODE_WRITE (R420) -/
  | devmodeWrite (v : Word) (by_ : Writer)
  /-- SUPPLY_SAG (R430) -/
  | supplySag (die : Nat)
  /-- JUNCTION_TEMPERATURE (R430) -/
  | junctionTemperature (die temp : Nat)
  /-- UNCORRECTABLE_ECC (R427) -/
  | uncorrectableEcc (core : Nat) (src : EccSource)
  /-- IEEE_1588_SYNC (R102) -/
  | ieee1588Sync (master : Nat)
  /-- TICK_LOCK_LOSS (R102) -/
  | tickLockLoss
  /-- ADMQHOST_ENABLE (R91) -/
  | admqhostEnable (v : Word) (by_ : Writer)
  /-- ADMQHOST_DISABLE (R91) -/
  | admqhostDisable (v : Word) (by_ : Writer)
  /-- REPORT_ACKNOWLEDGEMENT (R416) -/
  | reportAcknowledgement (seq : Nat)
  /-- QCREATE (R105) -/
  | qcreate
  /-- QDESTROY (R106) -/
  | qdestroy
  /-- WAIT (R105) -/
  | wait (q : Nat)
  /-- XINVC_WRITE (R227) -/
  | xinvcWrite (v : Word)
  /-- STTAIL_WRITE (R236) -/
  | sttailWrite (core : Nat) (v : Word)
  /-- ALIGNMENT_LOSS (R322) -/
  | alignmentLoss (port : Nat)
  /-- PREQ_WRITE (R397) -/
  | preqWrite (core : Nat) (v : Word)
  /-- SVCCFG_WRITE (R403) -/
  | svccfgWrite (core : Nat) (v : Word)
  /-- CUTCTL_GO (R400) -/
  | cutctlGo (v : Word)
  /-- CUTCTL_RESUME (R401) -/
  | cutctlResume
  /-- HRPTCFG_WRITE (R417) -/
  | hrptcfgWrite (v : Word)
  /-- NODEID_WRITE (R323) -/
  | nodeidWrite (v : Word) (by_ : Writer)
  /-- SFLAGS_CLEAR (R70) -/
  | sflagsClear (sheaf : Nat) (v : Word)
  /-- READ_CLEAR (R5) -/
  | readClear (off : Nat) (reader : Writer)
  /-- READ_CONTROL_WINDOW (R431) -/
  | readControlWindow (off : Nat)
  /-- WRITE_CONTROL_WINDOW (R431) -/
  | writeControlWindow (off : Nat) (v : Word)
  /-- ATTESTATION (R425) -/
  | attestation (nonce : List Byte)
  /-- FENCE_DIE (R428) -/
  | fenceDie (d : Nat)
  /-- READ_CERTIFICATE (R426) -/
  | readCertificate
  /-- SET_RECOVERY_LIST (R424) -/
  | setRecoveryList (n : Nat) (ids : List Nat)
  /-- READ_RECOVERY_LIST (R431) -/
  | readRecoveryList
  /-- UNKNOWN_COMMAND (R431) -/
  | unknownCommand (cmd : Nat)
  /-- ENTDAA (R431) -/
  | entdaa (addr : Nat)
  /-- SETDASA (R431) -/
  | setdasa (static_ addr : Nat)
  /-- RSTDAA (R431) -/
  | rstdaa
  /-- GETPID (R431) -/
  | getpid
  /-- GETBCR (R431) -/
  | getbcr
  /-- GETDCR (R431) -/
  | getdcr
  /-- GETSTATUS (R431) -/
  | getstatus
  /-- ENEC (R431) -/
  | enec (events : Nat)
  /-- DISEC (R431) -/
  | disec (events : Nat)
  /-- RSTACT (R431) -/
  | rstact (action : Nat)
  /-- CORRECTED_ECC_ERROR (R419) -/
  | correctedEccError (core : Nat)
  /-- POWER_LOSS (R424) -/
  | powerLoss (duringFlashWrite : Bool)
  deriving DecidableEq, Repr

end Sys2Proof
end

