-- ==== Sys2Proof/Config.lean ====
section
/-! DEFINITION. What the spec leaves to the implementation: open constants and free values without a body, so
that nothing can be proved of their value. -/

namespace Sys2Proof

/-- Whether a fused multiply-add of 0 × ∞ and a quiet NaN raises INV (left open by IEEE 754-2019, which R63
follows). DESIGN CHOICE: an open constant. -/
opaque Config.fmaInvalidWithQuietNan : Bool

/-- A byte of the memory of another node of the fabric, which no part of the state holds: the byte that the draw with the
first number finds at the fabric address. A free value (log entry 15). -/
opaque Config.fabricByte : Nat → Nat → Byte

/-- The word that CHSAVEn holds for a bound register, from the kind of the binding and its fields: the spec gives no layout
of it. A free value (log entry 33). -/
opaque Config.channelWord : List Nat → Word

/-- The root and the seed of the vendor public key that a hash fused into the die names (R423, log entry 12). -/
opaque Config.vendorRoot : List Byte
opaque Config.vendorSeed : List Byte

/-- The bytes of the identity key's signature after its index, from the index and the message (R425, R426, log entry 12). -/
opaque Config.identitySignature : Nat → List Byte → List Byte

/-- The root and the seed of the identity public key, and the vendor key's signature over that key and the serial (R426, log entry
12). -/
opaque Config.identityRoot : List Byte
opaque Config.identitySeed : List Byte
opaque Config.certificateSignature : List Byte

/-- The module serial as fused (R426, log entry 12). -/
opaque Config.serial : Nat

/-- The provisioned ID, bus and device characteristics and status word of the side-band target (R431, log entry 13). -/
opaque Config.provisionedId : Nat
opaque Config.busCharacteristics : Nat
opaque Config.deviceCharacteristics : Nat
opaque Config.targetStatus : Nat

/-- The body bytes of a flit from its KIND, its packets and the numbers of a control flit: the spec gives no layout of them (R318,
log entry 87). -/
opaque Config.flitBytes : Nat → List FabricMsg → List Nat → List Byte

/-- The field polynomial of the lanes' code without its leading term, and the exponent of the first root of its generator (R317, log
entry 129). -/
opaque Config.gfPolynomial : Nat
opaque Config.rsFirstRoot : Nat

/-- Whether the mesh of a fenced die cannot carry transit (R428, log entry 130). -/
opaque Config.meshDead : Nat → Bool

end Sys2Proof
end

