-- ==== Sys2Proof/Machine/Flags.lean ====
section
/-! DEFINITION. The numeric flags and how they join `%flags` and the flags of a sheaf (R66-R70). -/

namespace Sys2Proof.Machine

/-- The flags OF, INV and UF (R66). -/
structure NumFlags where
  of : Bool
  inv : Bool
  uf : Bool
  deriving DecidableEq, Repr

/-- No flag. -/
def noFlags : NumFlags := ⟨false, false, false⟩
/-- Overflow alone. -/
def flagOf : NumFlags := ⟨true, false, false⟩
/-- Invalid alone, when the condition holds. -/
def flagInv (b : Bool) : NumFlags := ⟨false, b, false⟩
/-- Underflow alone. -/
def flagUf : NumFlags := ⟨false, false, true⟩
/-- The union of two sets of flags. -/
def NumFlags.or (a b : NumFlags) : NumFlags := ⟨a.of || b.of, a.inv || b.inv, a.uf || b.uf⟩
/-- The flags as bits 2:0 of `%flags` (R67). -/
def NumFlags.bits (f : NumFlags) : Word :=
  word ((if f.of then 1 else 0) + (if f.inv then 2 else 0) + (if f.uf then 4 else 0))

/-- Flags ORed into a register: `%flags` of a thread or SFLAGS of a sheaf (R68, R69). -/
def mergeFlags (reg : Word) (f : NumFlags) : Word := reg ||| f.bits

/-- `%flags` after a commit that writes it with v while its block raised f (R68): the value written, without the
reserved bits, ORed with the flags raised. -/
def writeFlags (v : Word) (f : NumFlags) : Word := (v &&& 0x107#64) ||| f.bits

/-- NANTRAP, bit 8 of `%flags` (R67). -/
def nanTrap (reg : Word) : Bool := reg.getLsbD 8

end Sys2Proof.Machine
end

