-- ==== Sys2Proof/Machine/Float.lean ====
section
/-! DEFINITION. Floating arithmetic: the IEEE layouts of R49, exact values as a sign, a natural number and a
power of two,
and one rounding per operation (R61, R63). -/

namespace Sys2Proof.Machine

/-! ### Layouts -/

/-- A binary layout: exponent and fraction widths (R49, R58). -/
structure FloatFmt where
  eb : Nat
  fb : Nat
  deriving DecidableEq, Repr

def fp32 : FloatFmt := ⟨8, 23⟩
def bf16 : FloatFmt := ⟨8, 7⟩
def fp16 : FloatFmt := ⟨5, 10⟩
/-- the internal format W24 (R58) -/
def w24 : FloatFmt := ⟨8, 15⟩

def FloatFmt.bias (f : FloatFmt) : Nat := 2 ^ (f.eb - 1) - 1
def FloatFmt.signBit (f : FloatFmt) : Nat := 2 ^ (f.eb + f.fb)
def FloatFmt.infBits (f : FloatFmt) : Nat := (2 ^ f.eb - 1) * 2 ^ f.fb
/-- The largest finite magnitude. -/
def FloatFmt.maxBits (f : FloatFmt) : Nat := f.infBits - 1
/-- The canonical quiet NaN (R50). -/
def FloatFmt.nan (f : FloatFmt) : Nat := f.infBits + 2 ^ (f.fb - 1)
/-- The exponent of the last fraction bit of a subnormal. -/
def FloatFmt.emin (f : FloatFmt) : Int := 1 - (f.bias : Int) - (f.fb : Int)
def signed (f : FloatFmt) (neg : Bool) (mag : Nat) : Nat := if neg then f.signBit + mag else mag

/-- The value of an encoding: a NaN with its kind, an infinity, or (−1)^neg × m × 2^e. -/
inductive FVal
  | nan (signalling : Bool)
  | inf (neg : Bool)
  | fin (neg : Bool) (m : Nat) (e : Int)
  deriving DecidableEq, Repr

/-- The value of the low bits of x under a layout (R49). -/
def FloatFmt.value (f : FloatFmt) (x : Nat) : FVal :=
  let frac := x % 2 ^ f.fb
  let ex := x / 2 ^ f.fb % 2 ^ f.eb
  let neg := x / 2 ^ (f.fb + f.eb) % 2 == 1
  if ex = 2 ^ f.eb - 1 then
    if frac = 0 then .inf neg else .nan (frac / 2 ^ (f.fb - 1) % 2 == 0)
  else if ex = 0 then .fin neg frac f.emin
  else .fin neg (2 ^ f.fb + frac) (f.emin + (ex : Int) - 1)

def FVal.isNan : FVal → Bool
  | .nan _ => true
  | _ => false
def FVal.isSig : FVal → Bool
  | .nan s => s
  | _ => false
def FVal.isZero : FVal → Bool
  | .fin _ 0 _ => true
  | _ => false
def FVal.neg? : FVal → Bool
  | .nan _ => false
  | .inf n => n
  | .fin n _ _ => n
def FVal.negate : FVal → FVal
  | .nan s => .nan s
  | .inf n => .inf (!n)
  | .fin n m e => .fin (!n) m e

/-! ### Rounding -/

/-- Whether a magnitude with quotient q and remainder r of 2^s is rounded up (R59). -/
def roundsUp (mode : RoundMode) (neg : Bool) (q r s : Nat) : Bool :=
  match mode with
  | .rne => decide (2 * r > 2 ^ s) || (decide (2 * r = 2 ^ s) && q % 2 == 1)
  | .rtz => false
  | .rup => !neg && decide (r ≠ 0)
  | .rdn => neg && decide (r ≠ 0)
  | .rna => decide (2 * r ≥ 2 ^ s) && decide (r ≠ 0)

/-- m × 2^e as a multiple of 2^q: the rounded multiple, and whether that is inexact. -/
def roundAt (mode : RoundMode) (neg : Bool) (m : Nat) (e q : Int) : Nat × Bool :=
  if q ≤ e then (m * 2 ^ (e - q).toNat, false)
  else
    let s := (q - e).toNat
    let quo := m / 2 ^ s
    let r := m % 2 ^ s
    (if roundsUp mode neg quo r s then quo + 1 else quo, decide (r ≠ 0))

/-- A rounded result: its encoding, overflow, and tiny and inexact (tininess after rounding, R63). -/
structure Rounded where
  bits : Nat
  ovf : Bool
  tinyInexact : Bool
  inexact : Bool
  deriving DecidableEq, Repr

/-- The result of an overflow under each mode (R61). -/
def overflowBits (f : FloatFmt) (mode : RoundMode) (neg : Bool) : Nat :=
  signed f neg (match mode, neg with
    | .rne, _ | .rna, _ => f.infBits
    | .rtz, _ => f.maxBits
    | .rup, false => f.infBits
    | .rup, true => f.maxBits
    | .rdn, false => f.maxBits
    | .rdn, true => f.infBits)

/-- (−1)^neg × m × 2^e rounded once to the layout under the mode. -/
def roundFin (f : FloatFmt) (mode : RoundMode) (neg : Bool) (m : Nat) (e : Int) : Rounded :=
  if m = 0 then ⟨signed f neg 0, false, false, false⟩
  else
    let len : Int := (Nat.log2 m : Int) + 1
    let qFree := e + len - (f.fb + 1 : Nat)
    let q := max qFree f.emin
    let (sig, inexact) := roundAt mode neg m e q
    -- a carry out of the significand is the next power of two: the encoding adds up
    let mag := if sig < 2 ^ f.fb then sig else sig + ((q - f.emin).toNat) * 2 ^ f.fb
    let free := roundAt mode neg m e qFree
    let tiny := decide (qFree < f.emin) &&
      !(decide (qFree + 1 = f.emin) && decide (free.1 = 2 ^ (f.fb + 1)))
    if mag ≥ f.infBits then ⟨overflowBits f mode neg, true, false, true⟩
    else ⟨signed f neg mag, false, tiny && inexact, inexact⟩

/-- The flags of a rounding: OF on overflow, UF when tiny and inexact (R63, R66). -/
def Rounded.flags (r : Rounded) : NumFlags := ⟨r.ovf, false, r.tinyInexact⟩

/-- A value rounded under RNE to a layout, with its flags. -/
def roundVal (f : FloatFmt) (v : FVal) : Nat × NumFlags :=
  match v with
  | .nan s => (f.nan, flagInv s)
  | .inf n => (signed f n f.infBits, noFlags)
  | .fin n m e => let r := roundFin f .rne n m e; (r.bits, r.flags)

/-! ### Exact values -/

/-- The exact sum of two finite values; an exact zero sum of opposite signs is +0 (RNE, R63). -/
def addFin (n1 : Bool) (m1 : Nat) (e1 : Int) (n2 : Bool) (m2 : Nat) (e2 : Int) : FVal :=
  let e := min e1 e2
  let a := m1 * 2 ^ (e1 - e).toNat
  let b := m2 * 2 ^ (e2 - e).toNat
  if n1 = n2 then .fin n1 (a + b) e
  else if a > b then .fin n1 (a - b) e
  else if b > a then .fin n2 (b - a) e
  else .fin false 0 e

/-- The exact sum, with whether the operation is invalid (∞ − ∞). -/
def addExact : FVal → FVal → FVal × Bool
  | .nan _, _ | _, .nan _ => (.nan false, false)
  | .inf a, .inf b => if a = b then (.inf a, false) else (.nan false, true)
  | .inf a, .fin _ _ _ => (.inf a, false)
  | .fin _ _ _, .inf b => (.inf b, false)
  | .fin n1 m1 e1, .fin n2 m2 e2 => (addFin n1 m1 e1 n2 m2 e2, false)

/-- The exact product, with whether the operation is invalid (0 × ∞). -/
def mulExact : FVal → FVal → FVal × Bool
  | .nan _, _ | _, .nan _ => (.nan false, false)
  | .inf a, .inf b => (.inf (xor a b), false)
  | .inf a, .fin n m _ | .fin n m _, .inf a =>
      if m = 0 then (.nan false, true) else (.inf (xor a n), false)
  | .fin n1 m1 e1, .fin n2 m2 e2 => (.fin (xor n1 n2) (m1 * m2) (e1 + e2), false)

/-- Round an exact result, adding INV for a signalling operand or an invalid operation. -/
def finish (f : FloatFmt) (sig : Bool) (r : FVal × Bool) : Nat × NumFlags :=
  let (x, fl) := roundVal f r.1
  (x, fl.or (flagInv (sig || r.2)))

/-- a + b on values, rounded once (R63). -/
def addV (f : FloatFmt) (a b : FVal) : Nat × NumFlags :=
  finish f (a.isSig || b.isSig) (addExact a b)
/-- a × b on values, rounded once (R63). -/
def mulV (f : FloatFmt) (a b : FVal) : Nat × NumFlags :=
  finish f (a.isSig || b.isSig) (mulExact a b)
/-- a × b + c on values, rounded once (R63, R195). Whether 0 × ∞ + quiet NaN is invalid is left to the
implementation by IEEE 754-2019: an open constant of Config. DESIGN CHOICE: see the assumption log. -/
def fmaV (f : FloatFmt) (a b c : FVal) : Nat × NumFlags :=
  let p := mulExact a b
  let r := addExact p.1 c
  let invMul := p.2 && (!c.isNan || Config.fmaInvalidWithQuietNan)
  finish f (a.isSig || b.isSig || c.isSig) (r.1, invMul || r.2)

def fAdd (f : FloatFmt) (a b : Nat) : Nat × NumFlags := addV f (f.value a) (f.value b)
def fSub (f : FloatFmt) (a b : Nat) : Nat × NumFlags := addV f (f.value a) (f.value b).negate
def fMul (f : FloatFmt) (a b : Nat) : Nat × NumFlags := mulV f (f.value a) (f.value b)

/-- The integer square root by Newton's iteration from above, with fuel. -/
def isqrtFrom : Nat → Nat → Nat → Nat
  | 0, _, x => x
  | fuel + 1, n, x =>
    let y := (x + n / x) / 2
    if y < x then isqrtFrom fuel n y else x

/-- The integer square root. -/
def isqrt (n : Nat) : Nat :=
  if n = 0 then 0 else isqrtFrom (Nat.log2 n + 8) n (2 ^ (Nat.log2 n / 2 + 1))

/-- √a rounded once with RNE (R199). The root is taken with more bits than the result needs, and a lost part is
kept as a last bit 1, which no rounding can tell from the exact root. -/
def fSqrt (f : FloatFmt) (a : Nat) : Nat × NumFlags :=
  match f.value a with
  | .nan s => (f.nan, flagInv s)
  | .inf false => (f.infBits, noFlags)
  | .inf true => (f.nan, flagInv true)
  | .fin n m e =>
    if m = 0 then (signed f n 0, noFlags)
    else if n then (f.nan, flagInv true)
    else
      let m2 := if e % 2 = 0 then m * 2 ^ 80 else m * 2 ^ 81
      let e2 : Int := if e % 2 = 0 then e - 80 else e - 81
      let r := isqrt m2
      let sticky := if r * r = m2 then 0 else 1
      let x := roundFin f .rne false (2 * r + sticky) (e2 / 2 - 1)
      (x.bits, x.flags)

/-! ### Comparison -/

/-- a < b for two magnitudes m × 2^e. -/
def ltMag (m1 : Nat) (e1 : Int) (m2 : Nat) (e2 : Int) : Bool :=
  let e := min e1 e2
  decide (m1 * 2 ^ (e1 - e).toNat < m2 * 2 ^ (e2 - e).toNat)

/-- a < b by value; −0 equals +0; false when either is a NaN. -/
def ltV : FVal → FVal → Bool
  | .nan _, _ | _, .nan _ => false
  | .inf a, .inf b => a && !b
  | .inf a, .fin _ _ _ => a
  | .fin _ _ _, .inf b => !b
  | .fin n1 m1 e1, .fin n2 m2 e2 =>
    match n1, n2 with
    | false, false => ltMag m1 e1 m2 e2
    | true, true => ltMag m2 e2 m1 e1
    | true, false => !(m1 == 0 && m2 == 0)
    | false, true => false

/-- a = b by value; false when either is a NaN. -/
def eqV (a b : FVal) : Bool := !a.isNan && !b.isNan && !ltV a b && !ltV b a

/-- A comparison of VCMP on floating elements (R196). -/
def fCmp (f : FloatFmt) (c : Cond) (a b : Nat) : Bool × NumFlags :=
  let x := f.value a
  let y := f.value b
  let nan := x.isNan || y.isNan
  (match c with
    | .eq => eqV x y
    | .ne => nan || !eqV x y
    | .lt => ltV x y
    | .ge => !nan && !ltV x y,
   flagInv (x.isSig || y.isSig))

/-- The IEEE 754-2019 minimum: a NaN operand gives the canonical NaN, −0 orders below +0 (R194). -/
def fMin (f : FloatFmt) (a b : Nat) : Nat × NumFlags :=
  let x := f.value a
  let y := f.value b
  if x.isNan || y.isNan then (f.nan, flagInv (x.isSig || y.isSig))
  else if ltV x y || (eqV x y && x.neg?) then (a % (2 * f.signBit), noFlags)
  else (b % (2 * f.signBit), noFlags)

/-- The IEEE 754-2019 maximum (R194). -/
def fMax (f : FloatFmt) (a b : Nat) : Nat × NumFlags :=
  let x := f.value a
  let y := f.value b
  if x.isNan || y.isNan then (f.nan, flagInv (x.isSig || y.isSig))
  else if ltV y x || (eqV x y && !x.neg?) then (a % (2 * f.signBit), noFlags)
  else (b % (2 * f.signBit), noFlags)

/-! ### One-operand functions (R199) -/

def fNeg (f : FloatFmt) (a : Nat) : Nat × NumFlags :=
  match f.value a with
  | .nan s => (f.nan, flagInv s)
  | v => (signed f (!v.neg?) (a % f.signBit), noFlags)

def fAbs (f : FloatFmt) (a : Nat) : Nat × NumFlags :=
  match f.value a with
  | .nan s => (f.nan, flagInv s)
  | _ => (a % f.signBit, noFlags)

/-- The largest integral value ≤ a. A signalling NaN raises INV (R66). -/
def fFloor (f : FloatFmt) (a : Nat) : Nat × NumFlags :=
  match f.value a with
  | .nan s => (f.nan, flagInv s)
  | .inf n => (signed f n f.infBits, noFlags)
  | .fin n m e =>
    if m = 0 then (signed f n 0, noFlags)
    else if e ≥ 0 then (a % (2 * f.signBit), noFlags)
    else
      let (k, _) := roundAt .rdn n m e 0
      ((roundFin f .rne n k 0).bits, noFlags)

/-! ### Conversions between floating and integer formats (R61, R62) -/

/-- Whether the magnitude m × 2^e lies beyond the finite range of a layout. -/
def beyond (f : FloatFmt) (m : Nat) (e : Int) : Bool :=
  ltMag (2 ^ (f.fb + 1) - 1) (f.emin + (2 ^ f.eb : Nat) - 3) m e

/-- A narrowing of a value under a mode: bits, flags, saturations counted (R61). A finite operand beyond the
destination's finite range counts one saturation, also where it rounds to the largest finite value. DEDUCED:
see the assumption log. -/
def narrow (f : FloatFmt) (mode : RoundMode) (v : FVal) : Nat × NumFlags × Nat :=
  match v with
  | .nan s => (f.nan, flagInv s, 0)
  | .inf n => (signed f n f.infBits, noFlags, 0)
  | .fin n m e =>
    let r := roundFin f mode n m e
    (r.bits, r.flags, if beyond f m e then 1 else 0)

/-- A conversion of a value to an integer of a range under a mode (R62). -/
def toInteger (mode : RoundMode) (lo hi : Int) (v : FVal) : Int × NumFlags × Nat :=
  match v with
  | .nan _ => (0, flagInv true, 0)
  | .inf n => (if n then lo else hi, flagInv true, 1)
  | .fin n m e =>
    let (k, _) := roundAt mode n m e 0
    let i : Int := if n then -(k : Int) else k
    if i < lo then (lo, flagInv true, 1)
    else if i > hi then (hi, flagInv true, 1)
    else (i, noFlags, 0)

/-- The exact value of an integer. -/
def intValue (i : Int) : FVal := .fin (decide (i < 0)) i.natAbs 0

/-- A clamp of an integer into a narrower range (R62). -/
def clampInt (lo hi i : Int) : Int × NumFlags × Nat :=
  if i < lo then (lo, flagOf, 1) else if i > hi then (hi, flagOf, 1) else (i, noFlags, 0)

end Sys2Proof.Machine
end

