-- ==== Sys2Proof/Machine/Formats.lean ====
section
/-! DEFINITION. The element formats: format codes (R47), the tapered formats T8 and T6 (R53-R55), the block scale
S10 (R56), decoding to W24 (R58) and the conversion of elements between formats. -/

namespace Sys2Proof.Machine

/-! ### Tapered formats (R54, R55) -/

/-- A tapered format: m magnitude bits and es exponent bits. -/
structure TaperFmt where
  m : Nat
  es : Nat
  deriving DecidableEq, Repr

def t8 : TaperFmt := ⟨7, 1⟩
def t6 : TaperFmt := ⟨5, 0⟩

/-- The length of the run of bits equal to lead from bit i−1 of mag downward. -/
def runLen (mag lead : Nat) : Nat → Nat
  | 0 => 0
  | i + 1 => if mag / 2 ^ i % 2 = lead then runLen mag lead i + 1 else 0

/-- DecodeT of R54. -/
def decodeT (t : TaperFmt) (w : Nat) : FVal :=
  let sign := w / 2 ^ t.m % 2 == 1
  let mag := w % 2 ^ t.m
  if mag = 0 then (if sign then .nan false else .fin false 0 0)
  else
    let lead := mag / 2 ^ (t.m - 1) % 2
    let n := runLen mag lead t.m
    let k : Int := if lead = 1 then (n : Int) - 1 else -(n : Int)
    let r := t.m - n - 1
    let rest := mag % 2 ^ r
    let hasE := t.es = 1 && decide (r ≥ 1)
    let ebit := if hasE then rest / 2 ^ (r - 1) else 0
    let fw := if hasE then r - 1 else r
    let f := rest % 2 ^ fw
    .fin sign (2 ^ fw + f) ((2 ^ t.es : Nat) * k + (ebit : Int) - (fw : Int))

/-- The largest and smallest magnitudes of R55 as m × 2^e: 4096 and 2⁻¹² in T8, 16 and 2⁻⁴ in T6. -/
def TaperFmt.top (t : TaperFmt) : Int := if t.es = 1 then 12 else 4

/-- The magnitude of encoding w in units of 2^−12: every T8 and T6 value is a whole number of them. -/
def taperUnits (t : TaperFmt) (w : Nat) : Nat :=
  match decodeT t w with
  | .fin _ m e => if e + 12 ≥ 0 then m * 2 ^ (e + 12).toNat else m / 2 ^ (-(e + 12)).toNat
  | _ => 0

/-- The magnitude encoding nearest to m × 2^e among w, w−1, …, 1: walking down, w is chosen when the value is
above the midpoint of w−1 and w, or on it and w is even (R55). -/
def nearestT (t : TaperFmt) (m : Nat) (e : Int) : Nat → Nat
  | 0 => 0
  | 1 => 1
  | w + 1 =>
    let mid := taperUnits t w + taperUnits t (w + 1)
    if ltMag mid (-13) m e || (!ltMag m e mid (-13) && (w + 1) % 2 == 0) then w + 1
    else nearestT t m e w

/-- Conversion into T8 or T6 (R55): bits, flags, saturations. -/
def toTaper (t : TaperFmt) (v : FVal) : Nat × NumFlags × Nat :=
  let sgn (n : Bool) (mag : Nat) := if n then 2 ^ t.m + mag else mag
  let biggest := 2 ^ t.m - 1
  match v with
  | .nan s => (2 ^ t.m, flagInv s, 0)
  | .inf n => (sgn n biggest, flagOf, 1)
  | .fin n m e =>
    if m = 0 then (0, noFlags, 0)
    else if ltMag 1 t.top m e then (sgn n biggest, flagOf, 1)
    else if ltMag m e 1 (-t.top - 1) then (0, flagUf, 0)
    else if ltMag m e 1 (-t.top) then (sgn n 1, noFlags, 0)
    else (sgn n (nearestT t m e biggest), noFlags, 0)

/-! ### Scales and W24 (R56, R58) -/

/-- The scale of an S10 container; none for a NaN scale. Bits 15:10 are ignored. -/
def scaleS10 (c : Nat) : Option FVal :=
  let e := c / 4 % 256
  if e = 255 then none else some (.fin false (4 + c % 4) ((e : Int) - 129))

/-- The encoding of an exact value in W24; a NaN keeps its kind (R58). DESIGN CHOICE (log entry 144): a signalling NaN has sign 0 and
fraction 1. -/
def toW24 (v : FVal) : Nat :=
  match v with
  | .nan true => w24.infBits + 1
  | v => (roundVal w24 v).1

/-- The decode of a matrix operand element to W24, with its flags (R58). `scale` is none for an unscaled format. -/
def decodeW24 (v : FVal) (scale : Option (Option FVal)) : Nat × NumFlags :=
  match scale with
  | none => (toW24 v, noFlags)
  | some none => (w24.nan, noFlags)
  | some (some sc) =>
    match v with
    | .nan _ => (w24.nan, noFlags)
    | v => roundVal w24 (mulExact v sc).1

/-! ### Format codes (R47) -/

/-- The element formats of R47. -/
inductive Fmt
  | fp32 | bf16 | fp16 | t8 | t6 | t8s | t6s | i8 | i16 | i32 | i64 | n8 | n16 | n32 | n64
  deriving DecidableEq, Repr

def fmtOf : Nat → Option Fmt
  | 0 => some .fp32 | 1 => some .bf16 | 2 => some .fp16 | 3 => some .t8 | 4 => some .t6
  | 5 => some .t8s | 6 => some .t6s | 7 => some .i8 | 8 => some .i16 | 9 => some .i32
  | 10 => some .i64 | 11 => some .n8 | 12 => some .n16 | 13 => some .n32 | 14 => some .n64
  | _ => none

/-- Whether the format packs four elements in 3 bytes. -/
def Fmt.sixBit : Fmt → Bool
  | .t6 | .t6s => true
  | _ => false

/-- Bytes of one element; 0 for the six-bit formats. -/
def Fmt.bytes : Fmt → Nat
  | .fp32 | .i32 | .n32 => 4
  | .bf16 | .fp16 | .i16 | .n16 => 2
  | .t8 | .t8s | .i8 | .n8 => 1
  | .t6 | .t6s => 0
  | .i64 | .n64 => 8

/-- Whether R47 allows the format as a matrix operand. -/
def Fmt.matrixOperand : Fmt → Bool
  | .bf16 | .fp16 | .t8 | .t6 | .t8s | .t6s | .i8 => true
  | _ => false

/-- Whether the format carries S10 scales. -/
def Fmt.scaled : Fmt → Bool
  | .t8s | .t6s => true
  | _ => false

def Fmt.isFloat : Fmt → Bool
  | .fp32 | .bf16 | .fp16 | .t8 | .t6 | .t8s | .t6s => true
  | _ => false

/-- ElemOffset of R184 for a format code: bytes from the start of a row to element n. -/
def elemOffset (code n : Nat) : Nat :=
  match fmtOf code with
  | none => 0
  | some f => if f.sixBit then 3 * (n / 4) else n * f.bytes

/-- Signed reading of the low w bits. -/
def sintOf (w x : Nat) : Int :=
  let y := x % 2 ^ w
  if y < 2 ^ (w - 1) then (y : Int) else (y : Int) - (2 ^ w : Nat)

/-- The low w bits of an integer. -/
def bitsOfInt (w : Nat) (i : Int) : Nat := (i % (2 ^ w : Nat)).toNat

/-- The width and signedness of an integer format. -/
def Fmt.intWidth : Fmt → Option (Nat × Bool)
  | .i8 => some (8, true) | .i16 => some (16, true) | .i32 => some (32, true) | .i64 => some (64, true)
  | .n8 => some (8, false) | .n16 => some (16, false) | .n32 => some (32, false)
  | .n64 => some (64, false)
  | _ => none

/-- The value of a raw element of a floating or tapered format. -/
def Fmt.floatValue (f : Fmt) (raw : Nat) : FVal :=
  match f with
  | .fp32 => Machine.fp32.value raw
  | .bf16 => Machine.bf16.value raw
  | .fp16 => Machine.fp16.value raw
  | .t8 | .t8s => decodeT Machine.t8 raw
  | .t6 | .t6s => decodeT Machine.t6 raw
  | .i8 => intValue (sintOf 8 raw)
  | .i16 => intValue (sintOf 16 raw)
  | .i32 => intValue (sintOf 32 raw)
  | .i64 => intValue (sintOf 64 raw)
  | .n8 => intValue (raw % 2 ^ 8 : Nat)
  | .n16 => intValue (raw % 2 ^ 16 : Nat)
  | .n32 => intValue (raw % 2 ^ 32 : Nat)
  | .n64 => intValue (raw % 2 ^ 64 : Nat)

/-- The range of an integer width. -/
def intRange (w : Nat) (sgn : Bool) : Int × Int :=
  if sgn then (-(2 ^ (w - 1) : Nat), (2 ^ (w - 1) : Nat) - 1) else (0, (2 ^ w : Nat) - 1)

/-- A value narrowed into a floating or tapered format under a mode (R55, R61). An integer format is converted to
by R62. -/
def Fmt.ofFloat (f : Fmt) (mode : RoundMode) (v : FVal) : Nat × NumFlags × Nat :=
  match f with
  | .fp32 => narrow Machine.fp32 mode v
  | .bf16 => narrow Machine.bf16 mode v
  | .fp16 => narrow Machine.fp16 mode v
  | .t8 | .t8s => toTaper Machine.t8 v
  | .t6 | .t6s => toTaper Machine.t6 v
  | .i8 => let (i, r) := toInteger mode (-128) 127 v; (bitsOfInt 8 i, r)
  | .i16 => let (i, r) := toInteger mode (-(2 ^ 15)) (2 ^ 15 - 1) v; (bitsOfInt 16 i, r)
  | .i32 => let (i, r) := toInteger mode (-(2 ^ 31)) (2 ^ 31 - 1) v; (bitsOfInt 32 i, r)
  | .i64 => let (i, r) := toInteger mode (-(2 ^ 63)) (2 ^ 63 - 1) v; (bitsOfInt 64 i, r)
  | .n8 => let (i, r) := toInteger mode 0 255 v; (bitsOfInt 8 i, r)
  | .n16 => let (i, r) := toInteger mode 0 (2 ^ 16 - 1) v; (bitsOfInt 16 i, r)
  | .n32 => let (i, r) := toInteger mode 0 (2 ^ 32 - 1) v; (bitsOfInt 32 i, r)
  | .n64 => let (i, r) := toInteger mode 0 (2 ^ 64 - 1) v; (bitsOfInt 64 i, r)

/-- A raw element of one format converted to another (R54, R55, R60-R62): bits, flags, saturations. Integers
narrow by clamping; an integer becomes a floating value exactly or rounded under the mode. -/
def convertElem (src dst : Fmt) (mode : RoundMode) (raw : Nat) : Nat × NumFlags × Nat :=
  match src.intWidth, dst.intWidth with
  | some (w, s), some (w2, s2) =>
    let i : Int := if s then sintOf w raw else (raw % 2 ^ w : Nat)
    let (lo, hi) := intRange w2 s2
    let (j, r) := clampInt lo hi i
    (bitsOfInt w2 j, r)
  | _, _ => dst.ofFloat mode (src.floatValue raw)

end Sys2Proof.Machine
end

