-- ==== Sys2Proof/Machine/Approx.lean ====
section
/-! DEFINITION. The table approximations VEXP2, VRCP and VRSQ (R209) and the interpolation of TLI (R213). The
tables are computed from the real values that R209 states, each rounded once to FP32. -/

namespace Sys2Proof.Machine

/-- A real given by its floor in units of 2^−n, and whether that floor is exact, rounded once to FP32. The sign
is given apart. A lost part is kept as a last bit 1 (R209: each entry is the real value rounded once). -/
def roundReal (neg : Bool) (floor : Nat) (exact : Bool) (n : Nat) : Nat :=
  (roundFin fp32 .rne neg (2 * floor + if exact then 0 else 1) (-(n : Int) - 1)).bits

/-- The number of fraction bits to which the real values of the tables are taken. -/
def tableBits : Nat := 128

/-- ⌊2^(j/64) × 2^tableBits⌋: six square roots of 2^(j + 64 × tableBits). -/
def exp2Floor (j : Nat) : Nat :=
  isqrt (isqrt (isqrt (isqrt (isqrt (isqrt (2 ^ (j + 64 * tableBits)))))))

/-- EA[j] = 2^(j/64) -/
def tableEA (j : Nat) : Nat := roundReal false (exp2Floor j) (j % 64 == 0) tableBits
/-- EB[j] = 64 × (2^((j+1)/64) − 2^(j/64)) -/
def tableEB (j : Nat) : Nat :=
  roundReal false (64 * (exp2Floor (j + 1) - exp2Floor j)) false tableBits

/-- CA[j] = 1/(1 + j/64) = 64/(64 + j) -/
def tableCA (j : Nat) : Nat :=
  roundReal false (64 * 2 ^ tableBits / (64 + j)) (64 * 2 ^ tableBits % (64 + j) == 0) tableBits
/-- CB[j] = 64 × (CA-exact(j+1) − CA-exact(j)) = −4096/((64 + j)(65 + j)) -/
def tableCB (j : Nat) : Nat :=
  let d := (64 + j) * (65 + j)
  roundReal true (4096 * 2 ^ tableBits / d) (4096 * 2 ^ tableBits % d == 0) tableBits

/-- ⌊2^tableBits/√(1 + j/32)⌋ -/
def rsqFloor (j : Nat) : Nat := isqrt (32 * 2 ^ (2 * tableBits) / (32 + j))
/-- QA[j] = 1/√(1 + j/32) -/
def tableQA (j : Nat) : Nat :=
  let r := rsqFloor j
  roundReal false r (r * r * (32 + j) == 32 * 2 ^ (2 * tableBits)) tableBits
/-- QB[j] = 32 × (QA-exact(j+1) − QA-exact(j)), which is negative -/
def tableQB (j : Nat) : Nat :=
  roundReal true (32 * (rsqFloor j - rsqFloor (j + 1))) false tableBits

/-- Round(A + Round(d × B)) of R209: two roundings whose flags are dropped. -/
def interp (a b : Nat) (d : FVal) : FVal :=
  let p := (mulV fp32 d (fp32.value b)).1
  fp32.value (addV fp32 (fp32.value a) (fp32.value p)).1

/-- A value times 2^k. -/
def FVal.scale (v : FVal) (k : Int) : FVal :=
  match v with
  | .fin n m e => .fin n m (e + k)
  | v => v

/-- VEXP2 of R209 on FP32 bits. -/
def vexp2 (x : Nat) : Nat × NumFlags :=
  match fp32.value x with
  | .nan s => (fp32.nan, flagInv s)
  | .inf false => (fp32.infBits, noFlags)
  | .inf true => (0, noFlags)
  | .fin neg m e =>
    if !neg && !ltMag m e 128 0 then (fp32.infBits, flagOf)
    else if neg && ltMag 151 0 m e then (0, flagUf)
    else
      -- x = i × 2^e with e ≤ 0 after alignment; n = floor(x), f = x − n
      let e0 := min e 0
      let i : Int := (if neg then -(m : Int) else (m : Int)) * (2 ^ (e - e0).toNat : Nat)
      let unit : Nat := 2 ^ (-e0).toNat
      let n : Int := i / (unit : Int)
      let f : Nat := (i % (unit : Int)).toNat
      let j := 64 * f / unit
      let d : FVal := .fin false (64 * f % unit) (e0 - 6)
      roundVal fp32 ((interp (tableEA j) (tableEB j) d).scale n)

/-- VRCP of R209 on FP32 bits. -/
def vrcp (x : Nat) : Nat × NumFlags :=
  match fp32.value x with
  | .nan s => (fp32.nan, flagInv s)
  | .inf n => (signed fp32 n 0, noFlags)
  | .fin neg m e =>
    if m = 0 then (signed fp32 neg fp32.infBits, noFlags)
    else
      let l := Nat.log2 m
      let rest := m - 2 ^ l              -- m − 1 = rest / 2^l
      let j := 64 * rest / 2 ^ l
      let d : FVal := .fin false (64 * rest % 2 ^ l) (-(l : Int) - 6)
      let q := interp (tableCA j) (tableCB j) d
      let (b, fl) := roundVal fp32 (q.scale (-(e + (l : Int))))
      (signed fp32 neg b, fl)

/-- VRSQ of R209 on FP32 bits. -/
def vrsq (x : Nat) : Nat × NumFlags :=
  match fp32.value x with
  | .nan s => (fp32.nan, flagInv s)
  | .inf true => (fp32.nan, flagInv true)
  | .inf false => (0, noFlags)
  | .fin neg m e =>
    if m = 0 then (signed fp32 neg fp32.infBits, noFlags)
    else if neg then (fp32.nan, flagInv true)
    else
      let l := Nat.log2 m
      let ex : Int := e + (l : Int)
      let odd := ex % 2 ≠ 0
      let m2 := if odd then 2 * m else m           -- over 2^l: 1 ≤ m2/2^l < 4
      let ex2 := if odd then ex - 1 else ex
      let rest := m2 - 2 ^ l
      let j := 32 * rest / 2 ^ l
      let d : FVal := .fin false (32 * rest % 2 ^ l) (-(l : Int) - 5)
      let q := interp (tableQA j) (tableQB j) d
      roundVal fp32 (q.scale (-(ex2 / 2)))

/-- A table buffer (R210): FP32 left end, segment width exponent, the two modes (true = extend), knots and
differences. -/
structure TableBuf where
  lo : Nat
  wlog : Int
  lowExtend : Bool
  highExtend : Bool
  y : List Nat
  d : List Nat
  deriving DecidableEq, Repr

/-- The buffer after power-on reset (R210): all zero, both modes clamp. The lists are empty and an absent knot or
difference reads as +0. -/
def TableBuf.zero : TableBuf := ⟨0, 0, false, false, [], []⟩

def TableBuf.knot (t : TableBuf) (j : Nat) : Nat := t.y.getD j 0
def TableBuf.diff (t : TableBuf) (j : Nat) : Nat := t.d.getD j 0

/-- D[j] = Round(FP32, Y[j+1] − Y[j], RNE) for j = 0..63 (R210). -/
def tableDiffs : List Nat → List Nat
  | a :: b :: rest => (fSub fp32 b a).1 :: tableDiffs (b :: rest)
  | _ => []

/-- The last step of TLI: Y[j] + d × D[j], the flags of the last rounding and INV of any invalid step. -/
def tliAt (t : TableBuf) (inv : Bool) (j : Nat) (d : FVal) : Nat × NumFlags :=
  let (p, f1) := mulV fp32 d (fp32.value (t.diff j))
  let (r, f2) := addV fp32 (fp32.value (t.knot j)) (fp32.value p)
  (r, f2.or (flagInv (inv || f1.inv)))

/-- TLI of R213 at one FP32 lane. -/
def tliLane (t : TableBuf) (x : Nat) : Nat × NumFlags :=
  let (s, f1) := fSub fp32 x t.lo
  let (u, _) := roundVal fp32 ((fp32.value s).scale (-t.wlog))
  match fp32.value u with
  | .nan _ => (fp32.nan, flagInv f1.inv)
  | .inf true =>
    if t.lowExtend then tliAt t f1.inv 0 (.inf true) else (t.knot 0, flagInv f1.inv)
  | .inf false =>
    if t.highExtend then tliAt t f1.inv 63 (.inf false) else (t.knot 64, flagInv f1.inv)
  | .fin neg m e =>
    if neg && m ≠ 0 then
      if t.lowExtend then tliAt t f1.inv 0 (.fin neg m e) else (t.knot 0, flagInv f1.inv)
    else if !ltMag m e 64 0 then
      if t.highExtend then
        tliAt t f1.inv 63 (fp32.value (addV fp32 (.fin false m e) (.fin true 63 0)).1)
      else (t.knot 64, flagInv f1.inv)
    else
      let j := if e ≥ 0 then m * 2 ^ e.toNat else m / 2 ^ (-e).toNat
      let d : FVal := if e ≥ 0 then .fin neg 0 0 else .fin neg (m % 2 ^ (-e).toNat) e
      tliAt t f1.inv j d

end Sys2Proof.Machine
end

