-- ==== Sys2Proof/Machine/Sparse.lean ====
section
/-! DEFINITION. Sparse maps from numbers: a list of keys and values in one canonical form, keys strictly rising and no
value equal to what an unlisted key reads as. -/

namespace Sys2Proof.Machine

/-- A sparse map. -/
abbrev Map (α : Type) := List (Nat × α)

/-- The value at a key; an unlisted key reads as d. -/
def mget {α : Type} (d : α) : Map α → Nat → α
  | [], _ => d
  | (a, v) :: m, k => if a = k then v else mget d m k

/-- A map without a key. -/
def mdel {α : Type} : Map α → Nat → Map α
  | [], _ => []
  | (a, v) :: m, k => if a = k then mdel m k else (a, v) :: mdel m k

/-- A map with a key put in its place; the key must not be listed. -/
def mins {α : Type} : Map α → Nat → α → Map α
  | [], k, x => [(k, x)]
  | (a, v) :: m, k, x => if k < a then (k, x) :: (a, v) :: m else (a, v) :: mins m k x

/-- A map with the value at a key changed; the value an unlisted key reads as removes the entry. -/
def mset {α : Type} [DecidableEq α] (d : α) (m : Map α) (k : Nat) (x : α) : Map α :=
  if x = d then mdel m k else mins (mdel m k) k x

/-- Keys strictly rising, all at least lo. -/
def mrising {α : Type} : Nat → Map α → Bool
  | _, [] => true
  | lo, (a, _) :: m => decide (lo ≤ a) && mrising (a + 1) m

/-- The canonical form of a map. -/
def mwf {α : Type} [DecidableEq α] (d : α) (m : Map α) : Bool :=
  mrising 0 m && m.all fun e => decide (e.2 ≠ d)

end Sys2Proof.Machine
end

