-- ==== Sys2Proof/Machine/State.lean ====
section
/-! DEFINITION. The state of the machine: everything the spec gives it, as plain data, and the state after reset. -/

namespace Sys2Proof.Machine

/-! ### Threads (R163, R167, R346) -/

/-- A loop frame (R170). -/
structure LoopFrame where
  count : BitVec 32
  level : BitVec 2
  start : Word
  exit : Word
  deriving DecidableEq, Repr

/-- A taken value in a latch (R161): instruction index, token, the opcode that took it, and the sheaf and time of a popped
item whose −1 is still to be recorded (R275). -/
structure Taken where
  idx : Nat
  tok : Token
  op : Nat
  pop : Option (Option Nat × Word)
  deriving DecidableEq, Repr

/-- A retry or trap latch (R161, R386): block address, `%ltime` at load, the executions whose replies it takes, the
values taken, and the indices of the taking operations still under way. -/
structure Latch where
  addr : Word
  ltime : Word
  gens : List Nat
  vals : List Taken
  out : List Nat
  deriving DecidableEq, Repr

/-- What a thread that does not issue waits for (R151, R395). -/
inductive Wait
  | nothing
  | register (cls num : Nat)
  | semaphore (m n : Nat) (promise : Option Word)
  | command
  | channel (q : Nat)
  | binding (q : Nat)
  | parked
  | sleep (tick : Word)
  | frontier (t : Word)
  | held
  | retry
  | yielding (until_ : Nat)
  | marks (n : Nat)
  | release
  | table
  | spill
  | fault
  | swapping
  deriving DecidableEq, Repr

/-- How an access ends in a token once its bytes are there. -/
inductive AccKind
  | load (size : Nat) (sgn : Bool)
  | vload
  | gather (half : Bool) (live : List Nat)
  | table (buf : Nat)
  | slice (sel : SliceSel) (rank nrank : Nat)
  | copy (mode tick backlog : Nat)
  | atomic
  | store (lsid : Nat)
  | stream (q : Nat)
  deriving DecidableEq, Repr

/-- An access of a thread (R226): its kind, its operation at the owner, the permission it needs, and its parts in
checking order, each (offset of its first byte in the access, virtual address, size). Stores and output streams hold
their data by offset. -/
structure Access where
  idx : Nat
  kind : AccKind
  op : AccOp
  write : Bool
  align : Nat
  parts : List (Nat × Word × Nat)
  data : List (Nat × Byte)
  slack : Nat
  stream : StreamHint
  forward : Option Nat
  deriving DecidableEq, Repr

/-- An access that has passed its checks: the bytes still to be asked for as (offset, physical address), the bytes that
have come, how many requests are out, and how many refusals have come (R234). -/
structure Pending where
  acc : Access
  ask : List (Nat × Nat)
  got : List (Nat × Byte)
  out : Nat
  refusals : Nat
  deriving DecidableEq, Repr

/-- A fault or trap: cause, reason, index and information (R383, R384). -/
structure FaultInfo where
  cause : Nat
  reason : Nat
  index : Nat
  info : Word
  deriving DecidableEq, Repr

/-- The kinds of engine command (R254, R291). -/
inductive CmdKind
  | copy (mode : Nat)
  | mprog
  | mlw (scaled : Bool)
  | mma (scaled : Bool)
  | mst
  | mzr
  | mres (drop : Bool)
  | mmov (mode : MmovMode)
  deriving DecidableEq, Repr

/-- An engine command with the context its commit gives it (R247, R254, R282): operands, copy record, time, sheaf,
issuing thread, rounding mode, NANTRAP, slack, the ranks of a DEAL, bytes counted in the backlog, the cycle of the
commit, the device mode at its handover (R421); once it has started, the two shape records that it has read, or the fault
that it has met there (R256). -/
structure Cmd where
  id : Nat
  kind : CmdKind
  l : Word
  r : Word
  p : Word
  record : List Byte
  time : Word
  sheaf : Option Nat
  core : Nat
  slot : Nat
  inc : Nat
  asid : Nat
  nrank : Nat
  round : RoundMode
  nanTrap : Bool
  slack : Nat
  stream : StreamHint
  backlog : Nat
  commit : Nat
  mode : Nat
  shapes : List Byte
  stop : Option FaultInfo
  col : Bool
  deriving DecidableEq, Repr

/-- A run of bytes in a command's address space: the place of the first, how many, and the physical address of the first. -/
structure Stretch where
  place : Nat
  len : Nat
  pa : Nat
  deriving DecidableEq, Repr

/-- What has come of a copy so far (R253, R256, R257): flags, saturations, bytes read, whether an element was clipped, the groups of
four six-bit elements read, the bytes to be written by physical address with the last one first, the fault that stopped it, how many
BUMPs it has used, and the header whose BUMP it waits for (R260). -/
structure Moved where
  flags : NumFlags
  sats : Nat
  short : Nat
  clip : Bool
  groups : List Nat
  writes : List (Nat × Byte)
  stop : Option FaultInfo
  used : Nat
  ask : Option Nat
  deriving DecidableEq, Repr

/-- The accesses of a command in progress: where the bytes that it reads and those that it writes lie, those that it cannot read or
write, how many runs it has asked for, what has come, the results of its BUMPs, the requests and store words not yet answered, the
addresses that could not be reached after all (R322), the pages whose walks have failed with cause and reason (R224), its result once
its store words have left (R256), and whether its data is withheld (R427). -/
structure Xfer where
  reads : List Stretch
  dests : List Stretch
  badReads : List (Nat × FaultInfo)
  badDests : List (Nat × FaultInfo)
  asked : Nat
  got : List (Nat × List Byte)
  bumps : List Word
  out : Nat
  lost : List Nat
  walked : List (Nat × Nat × Nat)
  result : Option Moved
  withheld : Bool
  deriving DecidableEq, Repr

/-- An effect that an instruction holds for the commit of its block (R157). -/
inductive Eff
  | writeG (n : Nat) (v : Word)
  | writeV (n : Nat) (d : Vec) (live : Word)
  | writeS (n : Nat) (v : Word)
  | writeSpecial (n : Nat) (v : Word)
  | takeReg (cls n : Nat)
  | call (ret : Word)
  | store (lsid : Nat) (slack : Nat) (bytes : List (Nat × Word × Byte))
  | streamOut (q base stride count next : Nat) (vec : Bool) (data : List (Nat × Byte))
  | push (q : Nat) (dst : Nat × Nat) (tok : Token) (slack : Nat)
  | unbound
  | command (c : Cmd)
  | stage (n : Nat) (c : Cmd)
  | loop (level : BitVec 2) (count : BitVec 32) (exit : Word)
  | fence (s : Scope) (k : FenceKind)
  | advance (t : Word)
  | setTime (t : Word)
  | recalcFence (t : Word)
  | joinSheaf (n : Nat)
  | leaveSheaf (exit : Bool)
  | spawn (entry arg t : Word)
  | spawnAt (entry arg tick : Word)
  | message (m : TaskMsg)
  | park
  | yield (n : Nat)
  | cell (r : CellReq) (ok : Bool)
  | pinErr
  | loadTable (b : Nat) (t : TableBuf)
  | bindPipe (q dir remote : Nat)
  | unbindChannel (q : Nat)
  | bindStream (q : Nat) (base stride count : Nat) (vec : Bool)
  | acquire (m n : Nat)
  | masks (live sem : Word)
  | halt
  | trapReturn (retry : Bool)
  | readReduce (off : Nat) (v : Word)
  | systemWrite (off : Nat) (v : Word)
  | saturations (n : Nat)
  deriving DecidableEq, Repr

/-- The exit of a block that has fired (R156): the index, whether it is LPX, and its target. -/
structure ExitFired where
  idx : Nat
  lpx : Bool
  target : Word
  deriving DecidableEq, Repr

/-- A reservation of an undecided block at another unit, to be undone at a discard (R343); `precs` are the precedents of a CBIND
as its decision has read them, with their summaries (R355). -/
structure CellResv where
  idx : Nat
  req : CellReq
  buffer : Bool
  old : Word
  precs : List (Nat × Nat)
  deriving DecidableEq, Repr

/-- An instruction that has fired: its index, its cycle, and the slots its two results go to, as 9-bit targets (R131). -/
structure Fired where
  idx : Nat
  cycle : Nat
  ta : Nat
  tb : Nat
  deriving DecidableEq, Repr

/-- A block in a slot (R126, R153-R157): the words read at load, the instructions fired, the tokens
delivered with the index of their producer, the exit fired, and the effects held for the commit; `asked` are the cell instructions whose
requests are still to be answered, each with the home core (R343, R390). -/
structure Block where
  gen : Nat
  addr : Word
  header : BitVec 32
  words : List (BitVec 32)
  sheaf : Option Nat
  fired : List Fired
  done : List (Nat × Token × Token)
  exit : Option ExitFired
  effs : List (Nat × Eff)
  flags : NumFlags
  pend : List (Nat × Pending)
  jobs : List Access
  resv : List CellResv
  asked : List (Nat × Nat)
  stopped : Bool
  deriving DecidableEq, Repr

/-- A thread: the state that is saved and restored with it (R163, R167, R346, R394). `taskPins` are the versions that a
recalculation pinned at its dispatch (R35), `ending` is set once the commit that ends it waits only for its marks, `owed` are the
−1s that are recorded once those marks have landed (R81), `waits` are the waits that follow the one it is in, `resumeWaits` those
that go on after its resume handler (R399), `parkedOn` is what it waited for when it was to leave its slot (R395),
`tableSince` the tick since which a full table holds its commit (R108), `fetch` what has come of the next block from another node
(R323). -/
structure Thread where
  g : Map (Word × Bool)
  v : Map (Vec × Bool)
  rank : Word
  nrank : Word
  sheaf : Nat
  noSheaf : Bool
  incarn : BitVec 16
  ltime : Word
  slack : Word
  round : Word
  flags : Word
  trapcause : Word
  trapinfo0 : Word
  trapinfo1 : Word
  mbox : Map Word
  frames : List LoopFrame
  retry : Option Latch
  trap : Option Latch
  pins : Nat
  opens : Nat
  engs : Nat
  wakep : Bool
  hndl : Bool
  livemask : Word
  semmask : Word
  asid : Nat
  next : Word
  task : Option (Nat × Word)
  taskPins : List (Nat × Bool)
  ending : Bool
  owed : List (Option Nat × Word)
  service : Bool
  parkedOn : Wait
  wait : Wait
  waits : List Wait
  resumeWaits : List Wait
  since : Nat
  tableSince : Nat
  fetch : Xfer
  block : Option Block
  deriving DecidableEq, Repr

/-- The states of a slot (R109). -/
inductive SlotState | free | reserved | running | service
  deriving DecidableEq, Repr

/-- What a fault has put aside for its cycle (R387): the cycle, the fault's index, the thread as it would stand without the fault, the
words of its FREC before it, and the accesses that waited for pages. -/
structure Undo where
  cycle : Nat
  index : Nat
  thread : Thread
  frec : List Word
  jobs : List Access
  deriving DecidableEq, Repr

/-- A thread slot of a core; `starts` counts the incarnations that have been taken (R111). A fault of a lower index in the same cycle
takes the place of the one in `undo` (R387). -/
structure Slot where
  state : SlotState
  incarn : BitVec 16
  starts : Nat
  lastIssue : Option Nat
  gens : Nat
  thread : Option Thread
  freedAt : Nat
  undo : Option Undo
  deriving DecidableEq, Repr

/-! ### Cells (R23, R24) -/

/-- A directory entry: valid bit, writer tag and the fields of the descriptor, staged while the valid bit is clear (R402). -/
structure CellEntry where
  valid : Bool
  writer : Option (Nat × Nat × Nat)
  fromB : Word
  fromA : Word
  brecB : BitVec 15
  brecA : BitVec 15
  shape : BitVec 15
  deps : BitVec 18
  stale : Word
  timeY : Word
  timeX : Word
  pinY : BitVec 16
  pinX : BitVec 16
  addrX : BitVec 32
  cur : Bool
  home : Bool
  bvb : Bool
  bva : Bool
  wopen : Bool
  fmt : BitVec 4
  sheaf : BitVec 12
  satcnt : BitVec 32
  deriving DecidableEq, Repr

/-- A queued recalculation (R31-R34): directory index, time, whether it is held (R43), the record of the CBIND that has
released it, when one has (R43), and its creator's colour (R86). -/
structure RecalcTask where
  cell : Nat
  time : Word
  held : Bool
  rebind : Option Nat
  col : Bool
  deriving DecidableEq, Repr

/-! ### Engines (R262-R304) -/

/-- A semaphore (R262). -/
structure Sem where
  count : BitVec 32
  covf : Bool
  fovf : Bool
  clip : Bool
  short : BitVec 48
  fault : Word
  deriving DecidableEq, Repr

/-- A range-lock entry (R268): DST or SRC, first and last cistern offset, command. -/
structure RangeLock where
  dst : Bool
  first : Nat
  last : Nat
  cmd : Nat
  deriving DecidableEq, Repr

/-- An entry of a standpipe buffer (R273) with its creator's colour (R86). -/
structure PipeEntry where
  tok : Token
  sheaf : Option Nat
  time : Word
  slack : Nat
  col : Bool
  deriving DecidableEq, Repr

/-- The binding of a channel register (R271). -/
inductive Binding
  | none
  | pipe (dir remote : Nat)
  | stream (base stride count next : Nat) (vec : Bool)
  deriving DecidableEq, Repr

/-- A channel register (R271-R276): binding, the sheaf of the thread that bound it (R401), buffered or read-ahead entries, credits of an
output on their way back, whether a marker has come (R401), and entries preloaded by a restore (R399). -/
structure Channel where
  bind : Binding
  sheaf : Option Nat
  buf : List PipeEntry
  ahead : List (Nat × Token)
  returning : Nat
  marker : Bool
  preload : List PipeEntry
  deriving DecidableEq, Repr

/-- A staged slot (R278, R297): a staged MMA, and whether a copy has started it. -/
structure Staged where
  cmd : Option Cmd
  started : Bool
  deriving DecidableEq, Repr

/-- A resume record (R303). -/
structure ResumeRec where
  valid : Bool
  scaled : Bool
  prog : Nat
  addr : Word
  ctl : Word
  scale : Word
  deriving DecidableEq, Repr

/-- The matrix unit of a core (R278, R282): the weight latch by 32k + j, WFMT, program, constants, accumulator rows,
staged slots, queue. -/
structure MatrixUnit where
  latch : Map Nat
  wfmt : Nat
  prog : Word
  k0 : Nat
  k1 : Nat
  acc : Map Vec
  staged : Map Staged
  resume : Map ResumeRec
  queue : List Cmd
  busy : Bool
  xfer : Xfer
  deriving DecidableEq, Repr

/-- A siphon (R248): its queue, the head being the command in progress once started. -/
structure Siphon where
  queue : List Cmd
  started : Bool
  xfer : Xfer
  deriving DecidableEq, Repr

/-! ### Cores -/

/-- A deque entry (R116) with its creator's colour (R86). -/
structure DequeEntry where
  entry : Word
  ltime : Word
  arg : Word
  sheaf : Nat
  col : Bool
  deriving DecidableEq, Repr

/-- A cached leaf translation (R222, R224): ASID, first virtual page number of 64 KiB, pages of 64 KiB, physical base and
the permission bits. -/
structure TlbEntry where
  asid : Nat
  page : Nat
  npages : Nat
  pa : Nat
  r : Bool
  w : Bool
  x : Bool
  cell : Bool
  deriving DecidableEq, Repr

/-- A thread held in the context cache (R393, R395): the thread, the slot it left, the core of the swap-out, the cycle of
the swap-out and the frontier announced then, whether a cut that resumes restores it (R401), its matrix resume record
(R303), and the incarnations that its slot had taken then (R111). -/
structure Cached where
  thread : Thread
  slot : Nat
  core : Nat
  since : Nat
  front : Word
  forced : Bool
  record : ResumeRec
  starts : Nat
  deriving DecidableEq, Repr

/-- The steal state of a core (R115). -/
structure StealState where
  position : Nat
  asked : Bool
  backoff : Option Nat
  deriving DecidableEq, Repr

/-- A store word that has left at a commit and is not acknowledged (R326, R331): the incarnation of its thread, the cycle
of the commit, whether it has been sent or still waits for an older word (R231), whether it has come back as a scope-miss,
and whether it has been sent again since (R339). A SYSW to another core is one with no bytes (R404). -/
structure SentWord where
  inc : Nat
  commit : Nat
  word : StoreWord
  going : Bool
  missed : Bool
  again : Bool
  deriving DecidableEq, Repr

/-- A unit of the reduction tree (R82): its table of net counts, the batches that wait for room in it, each with the
unit below it that sent it and the cycle in which it left its core, and the reports for the sweep in progress by the units below. -/
structure TreeUnit where
  table : List Delta
  waiting : List (Nat × DeltaBatch × Nat)
  reports : List (Nat × SweepReport)
  deriving DecidableEq, Repr

/-- A delta batch that a core has formed and that waits for the acknowledgements of R336, with its cycle. -/
structure Batch where
  batch : DeltaBatch
  formed : Nat
  deriving DecidableEq, Repr

/-- A core; `preqSince` holds the cycle in which each bit of PREQ was set (R397), `spillCols` the colours of the entries in the spill
ring, the oldest first (R86), `busy` the cycles that are no bubbles or are bubbles that have been read and cleared (R419), `late` the
counts that wait for room in the full outstanding-time table (R80). -/
structure Core where
  s : Map (Word × Bool)
  regs : Map Word
  busy : Nat
  lastIssue : Option Nat
  cells : Map CellEntry
  tasks : List RecalcTask
  held : List CellReq
  sems : Map Sem
  cmds : List (Nat × Cmd)
  backlog : Nat
  locks : List RangeLock
  chans : Map Channel
  tables : Map TableBuf
  mu : MatrixUnit
  deque : List DequeEntry
  spillHead : Nat
  spillCount : Nat
  spillCols : List Bool
  steal : StealState
  counts : List Delta
  countsSince : Option Nat
  batches : List Batch
  late : List Delta
  fronts : Map Word
  colour : Bool
  cutSeen : Bool
  flipped : Bool
  sent0 : Nat
  received0 : Nat
  sent1 : Nat
  received1 : Nat
  cutStopped : Bool
  fills : List (Nat × TaskMsg)
  sent : List SentWord
  cache : Map Cached
  preqSince : Map Nat
  tlb : List TlbEntry
  deriving DecidableEq, Repr

/-! ### Dies and the module -/

/-- What waits for a page walk: an access of a block, the load of the block at an address, or a prefetch (R224, R243). -/
inductive WalkUse
  | access
  | load (addr : Word)
  | prefetch (id : ExecId) (va : Word) (slack : Nat) (stream : StreamHint)
  | engine (e : Engine)
  deriving DecidableEq, Repr

/-- A page walk (R224): ASID, page number of 64 KiB, what waits for it by core and slot, whether it has one of the die's 384
walkers, whether an invalidation has named its page since it started, and whether it started before the invalidation that runs
(R227); the entries that it has read by their addresses, none where the table could not be reached, and whether it waits for one. -/
structure Walk where
  asid : Nat
  page : Nat
  waiters : List (Nat × Nat × WalkUse)
  going : Bool
  stale : Bool
  before : Bool
  entries : List (Nat × Option Nat)
  asking : Bool
  deriving DecidableEq, Repr

/-- What the timer wheel holds (R104): the start of a member in its slot with its queue, entry block and rank, or a timed
task. -/
inductive WheelItem
  | start (slot q : Nat) (entry : Word) (rank : Nat)
  | task (e : DequeEntry)
  deriving DecidableEq, Repr

/-- An armed entry of the timer wheel: release tick, core, item, the time, sheaf and colour of its count. -/
structure WheelEntry where
  tick : Nat
  core : Nat
  item : WheelItem
  time : Word
  sheaf : Nat
  col : Bool
  deriving DecidableEq, Repr

/-- A ROOT or GANG packet being placed (R113, R122): the launch's fields as the launch unit read them, the layer or slot, the
member cores in the order of their ranks, the cores that have acknowledged, whether one has refused, and whether its queue has been
destroyed meanwhile (R106). -/
structure Launch where
  queue : Nat
  idx : Nat
  sheaf : Nat
  entry : Word
  ltime : Word
  atTick : Bool
  startTick : Nat
  args : List Byte
  shapes : List Byte
  nshape : Nat
  caddr : Nat
  multi : Bool
  gang : Nat
  nmod : Nat
  leadMod : Nat
  layer : Nat
  cores : List Nat
  acks : List Nat
  refused : Bool
  dropped : Bool
  deriving DecidableEq, Repr

/-- What the leader of a LEADMOD knows of a MULTI gang (R101): the modules that are ready with their ticks and the regions of
their parts, NMOD, STARTT, the tick of the first ready, and the ERR of an abort or 0. -/
structure Gang where
  ready : List (Nat × Nat)
  parts : List (Nat × Nat)
  nmod : Nat
  start : Nat
  first : Nat
  err : Nat
  deriving DecidableEq, Repr

/-- A lease record (R97) with the die's own claim in progress (R98). -/
structure Lease where
  leader : Option Nat
  epoch : Nat
  expiry : Nat
  granted : Nat
  claim : Nat
  grants : List Nat
  deriving DecidableEq, Repr

/-- A die: walkers, launch unit, firmware core, timer wheel with its overflow list, each entry with the tick at which it is
examined again (R104), queue replicas, sensors; `asked` counts the sources that it has
asked for an image (R424), `normalSince` is the first cycle after the last bad reading of its sensors, `skips` is set in a cycle in which its
clock stands still, and `lag` counts those cycles (R430). -/
structure Die where
  walks : List Walk
  running : Bool
  image : Bool
  lease : Lease
  recs : Map QueueRec
  known : Map Nat
  launch : Option Launch
  todo : List Nat
  barred : List (Nat × Option Nat)
  wheel : List WheelEntry
  wheelWait : List WheelEntry
  overflow : List (Nat × WheelEntry)
  multi : List Launch
  watch : List (Nat × Word × Nat)
  tree : TreeUnit
  stretched : Bool
  skips : Bool
  lag : Nat
  sag : Bool
  hot : Bool
  temp : Nat
  normalSince : Nat
  asked : Nat
  deriving DecidableEq, Repr

/-- The destination of a packet (R305, R306, R323): a core, a wellhead of the module, or a fabric port on the way to
another node. -/
inductive Dest
  | core (c : Nat)
  | well (w : Nat)
  | port (p n : Nat)
  deriving DecidableEq, Repr

/-- A packet (R309): slack, EXH, issuing core and slot, the output of its router that it is bound for, the cycle it
entered its buffer, the cycle since which it is presented with SLACK 0. -/
structure Packet where
  id : Nat
  dst : Dest
  slack : Nat
  exh : Bool
  core : Nat
  slot : Option Nat
  msg : Msg
  out : Nat
  entered : Nat
  overdue : Option Nat
  deriving DecidableEq, Repr

/-- A packet that waits for a permit (R228): the pool that it draws on, the router that it will enter, and the cycle since which it
waits. -/
structure WaitReq where
  pool : Nat
  router : Nat
  packet : Packet
  since : Nat
  deriving DecidableEq, Repr

/-- A wellhead (R228): requests that hold a permit in arrival order, each with the cycle of its arrival, packets waiting for
one, the pools of the permits that are held, the granules in its buffer. -/
structure Wellhead where
  queue : List (Msg × Nat)
  waiting : List WaitReq
  held : List Nat
  buffer : List Nat
  stopped : Bool
  deriving DecidableEq, Repr

/-- A router (R305, R311, R316): the packets of its inputs as (input, packet) in order of arrival, the packets that wait in front
of an input while it is down, the rotation pointers of its outputs, the first cycle after the last grant of each output, the cycle
since which it is idle, and whether it is down or waking. -/
structure Router where
  packets : List (Nat × Packet)
  offered : List (Nat × Packet)
  pointers : Map Nat
  free : Map Nat
  idleSince : Nat
  down : Bool
  waking : Bool
  deriving DecidableEq, Repr

/-- A fabric port (R317-R322): the replay buffer as (SEQ, VC, packets), the packets that each taken entry of the receive window
still holds as (VC, their numbers), the flits since the last alignment marker; `seenUp` is set once it has come up. -/
structure Port where
  up : Bool
  training : Bool
  txSeq : Nat
  rxSeq : Nat
  acked : Nat
  replay : List (Nat × Nat × List FabricMsg)
  queue : List Packet
  sent : List Nat
  fseen : List Nat
  avail : List Nat
  freed : List Nat
  window : List Nat
  spares : List Nat
  holding : List (Nat × List Nat)
  period : List Flit
  crcRun : Nat
  sinceAudit : Nat
  usedSinceAudit : List Nat
  trainingSince : Option Nat
  timedOut : Bool
  seenUp : Bool
  deriving DecidableEq, Repr

/-- A sheaf (R76, R77, R418) and what the launch unit keeps of its launch (R96, R117); `members` is the core of each rank, 2304 for a rank
on another module (R120); `moved` is the tick in which its announced frontier moved last or a member committed a block (R108); `lead` is
the node whose root counts the sheaf when that is another one, and `nodes` are the other modules of a sheaf that this one counts (R82). -/
structure Sheaf where
  live : Bool
  flags : Word
  errEvents : Word
  front : Word
  paths : List Nat
  queue : Nat
  idx : Nat
  caddr : Nat
  args : List Byte
  shapes : List Byte
  nshape : Nat
  members : List Nat
  created : Nat
  moved : Nat
  ending : Bool
  lead : Option Nat
  nodes : List Nat
  deriving DecidableEq, Repr

/-- The root of the reduction tree (R82, R83): the net counts, the sweep in progress with the cycle in which it started, the previous
sweep's candidates with the counts up to them, whether the next sweep request carries the cut flag, and how many successive sweeps have
agreed on the cut; `pending` are the nodes of its sheaves that have not yet swept for it, `asks` the nodes that have asked this module for
a sweep, with its number and the cycle (R82, R83); `told` are the numbers of the next message to each node, `heard` those of the next from
each, and `early` the messages that have come before their turn, by node and number (R81). -/
structure Root where
  tree : TreeUnit
  sweep : Nat
  started : Nat
  before : List (Nat × Word × List Delta)
  cutFlag : Bool
  cutAgree : Nat
  pending : List Nat
  asks : List (Nat × Nat × Nat)
  told : Map Nat
  heard : Map Nat
  early : List (Nat × Nat × NodeMsg)
  deriving DecidableEq, Repr

/-- A message of the module's units on its way (R10, R309): the routers it leaves and goes to, the phase and place of its event, the
event, and whether it has come through the network. -/
structure Mail where
  id : Nat
  src : Nat
  dst : Nat
  phase : Nat
  place : Nat
  ev : Instr
  here : Bool
  deriving DecidableEq, Repr

/-- What has left the module: flits, the alignment markers and parity of the eight lanes of a port, side-band replies, interrupts,
and the request for an image through the side-band. -/
inductive Out
  | flit (port : Nat) (f : Flit)
  | marker (port : Nat) (lanes : List (List Byte))
  | sideband (ack : Bool) (bytes : List Byte)
  | interrupt (kind : Nat)
  | imageRequest (die : Nat)
  deriving DecidableEq, Repr

/-- A report record sent and not yet settled (R416, R417): its SEQ, the deadline, and the sheaf that ends after it; `adding` is set
while 1 is being added to its signal word, `added` once that is done. -/
structure Report where
  seq : Nat
  deadline : Nat
  sheaf : Option Nat
  caddr : Nat
  kind : Nat
  queue : Nat
  adding : Bool
  added : Bool
  deriving DecidableEq, Repr

/-- What is kept over power-on reset (R423-R426): the flash image, recovery list, rollback floor, signature index. -/
structure Flash where
  image : FwImage
  recovery : List Nat
  floor : Nat
  keyIndex : Nat
  deriving DecidableEq, Repr

/-- The side-band target (R431). -/
structure Sideband where
  straps : Nat
  dynamic : Option Nat
  events : Bool
  resetAction : Nat
  deriving DecidableEq, Repr

/-- The core, slot and instruction index that the step fires. -/
structure Ctx where
  core : Nat
  slot : Nat
  idx : Nat
  deriving DecidableEq, Repr

/-- No gang (R101). -/
def Gang.none : Gang := ⟨[], [], 0, 0, 0, 0⟩

/-- The state of the module; `issueOver` is set once the events of a cycle that follow its issue have begun (R151); `slewLast` is the tick
of the last correction (R102); `images` are the threads whose context images CTXOUT has written, by the address of the image. -/
structure State where
  cycle : Nat
  issueOver : Bool
  tick : Nat
  tickFrac : Nat
  slew : Int
  slewLast : Nat
  everLocked : Bool
  locked : Bool
  lastSync : Nat
  agenda : List (Nat × Instr)
  timers : List (Nat × Instr)
  delays : List Nat
  ctx : Ctx
  nextId : Nat
  freeCount : Nat
  startup : Bool
  mem : List Host.Cell
  empty : List Nat
  mregs : Map Word
  qerr : Map Nat
  slots : Map Slot
  cores : Map Core
  tlb2 : Map (List TlbEntry)
  dies : Map Die
  siphons : Map Siphon
  wells : Map Wellhead
  routers : Map Router
  ports : Map Port
  mail : List Mail
  sheaves : Map Sheaf
  regions : Map TreeUnit
  root : Root
  gangs : Map Gang
  images : Map (Option Thread)
  reports : List Report
  stretchLast : Nat
  stretchSince : Nat
  cutReports : List Nat
  badRows : Map Nat
  flash : Flash
  side : Sideband
  out : List Out
  deriving DecidableEq, Repr

/-! ### Reset values -/

/-- The accesses of a command that has made none. -/
def Xfer.none : Xfer :=
  { reads := [], dests := [], badReads := [], badDests := [], asked := 0, got := [], bumps := [], out := 0, lost := [],
    walked := [], result := .none, withheld := false }

/-- A thread as it starts (R163, R167, R346): every G and V register full and 0, both frames and both latches
empty. -/
def Thread.fresh : Thread :=
  { g := [], v := [], rank := 0, nrank := 0, sheaf := 0, noSheaf := false, incarn := 0, ltime := 0,
    slack := 0x80, round := 0, flags := 0, trapcause := 0, trapinfo0 := 0, trapinfo1 := 0, mbox := [],
    frames := [], retry := none, trap := none, pins := 0, opens := 0, engs := 0, wakep := false,
    hndl := false, livemask := 0, semmask := 0, asid := 0, next := 0, task := none, taskPins := [], ending := false,
    owed := [], service := false, parkedOn := .nothing, wait := .nothing, waits := [], resumeWaits := [],
    since := 0, tableSince := 0, fetch := Xfer.none, block := none }

/-- A slot after reset: Free, incarnation 0 (R111). -/
def Slot.reset : Slot :=
  { state := .free, incarn := 0, starts := 0, lastIssue := none, gens := 0, thread := none, freedAt := 0, undo := none }

/-- A directory entry after reset (R24): times ⊤, the rest 0, not valid. -/
def CellEntry.reset : CellEntry :=
  { valid := false, writer := none, fromB := timeTop, fromA := timeTop, brecB := 0, brecA := 0,
    shape := 0, deps := 0, stale := timeTop, timeY := timeTop, timeX := timeTop, pinY := 0, pinX := 0,
    addrX := 0, cur := false, home := false, bvb := false, bva := false, wopen := false, fmt := 0,
    sheaf := 0, satcnt := 0 }

/-- A semaphore after reset (R262). -/
def Sem.reset : Sem :=
  { count := 0, covf := false, fovf := false, clip := false, short := 0, fault := 0 }

/-- A channel register after reset: unbound (R271). -/
def Channel.reset : Channel :=
  { bind := .none, sheaf := none, buf := [], ahead := [], returning := 0, marker := false, preload := [] }

/-- A staged slot after reset: empty (R278). -/
def Staged.reset : Staged := { cmd := none, started := false }

/-- A resume record after reset: invalid, 0 (R281, R303). -/
def ResumeRec.reset : ResumeRec :=
  { valid := false, scaled := false, prog := 0, addr := 0, ctl := 0, scale := 0 }

/-- The program word of the default microprogram (R290). -/
def defaultProgram : Word := 0x000100000021C050#64

/-- The matrix unit after reset (R278): every weight +0, WFMT BF16, the default program, k0 = k1 = +0, every element +0. -/
def MatrixUnit.reset : MatrixUnit :=
  { latch := [], wfmt := 1, prog := defaultProgram, k0 := 0, k1 := 0, acc := [], staged := [],
    resume := [], queue := [], busy := false, xfer := Xfer.none }

/-- A siphon after reset. -/
def Siphon.reset : Siphon := { queue := [], started := false, xfer := Xfer.none }

/-- The reset value of each core register of system space that holds a value of its own, by offset (R237, R281, R315,
R403). -/
def coreRegReset (off : Nat) : Word :=
  match off with
  | 0x0200 => 0x1000
  | 0x0C40 => 0xFFFFFFFF
  | 0x0C90 => 0x400
  | 0x0F20 => 0x10000
  | 0x0F30 => 0x4000
  | _ => 0

/-- A core after reset. -/
def Core.reset : Core :=
  { s := [], regs := [], busy := 0, lastIssue := none, cells := [], tasks := [], held := [], sems := [],
    cmds := [], backlog := 0, locks := [], chans := [], tables := [], mu := MatrixUnit.reset, deque := [],
    spillHead := 0, spillCount := 0, spillCols := [], steal := ⟨0, false, none⟩, counts := [], countsSince := none,
    batches := [], late := [],
    fronts := [], colour := false, cutSeen := false, flipped := false, sent0 := 0, received0 := 0, sent1 := 0, received1 := 0,
    cutStopped := false, fills := [], sent := [], cache := [], preqSince := [], tlb := [] }

/-- A queue record after reset: Free (R92). -/
def QueueRec.reset : QueueRec :=
  { aidx := 0, inflt := 0, errcnt := 0, waitval := 0, waddr := 0, version := 0, host := 0, wridx := 0,
    rdidx := 0, base := 0, logsz := 0, owner := 0, prio := 0, state := 0, age := 0, bfen := false,
    bfq := 0 }

/-- A die after reset: start-up, no image accepted yet, lease record at log entry 8's values. -/
def Die.reset : Die :=
  { walks := [], running := false, image := false, lease := ⟨none, 0, 0, 0, 0, []⟩, recs := [], known := [],
    launch := none, todo := [], barred := [], wheel := [], wheelWait := [], overflow := [], multi := [],
    watch := [], tree := ⟨[], [], []⟩, stretched := false, skips := false, lag := 0, sag := false,
    hot := false, temp := 0, normalSince := 0, asked := 0 }

def Wellhead.reset : Wellhead :=
  { queue := [], waiting := [], held := [], buffer := [], stopped := false }

def Router.reset : Router :=
  { packets := [], offered := [], pointers := [], free := [], idleSince := 0, down := false, waking := false }

/-- A port after reset: not up, not training (R323), 64 units of each VC (log entry 10). -/
def Port.reset : Port :=
  { up := false, training := false, txSeq := 0, rxSeq := 0, acked := 0, replay := [], queue := [],
    sent := [0, 0, 0, 0], fseen := [0, 0, 0, 0], avail := [64, 64, 64, 64], freed := [0, 0, 0, 0],
    window := [64, 64, 64, 64], spares := [4, 4, 4, 4], holding := [], period := [], crcRun := 0, sinceAudit := 0,
    usedSinceAudit := [0, 0, 0, 0], trainingSince := none, timedOut := false,
    seenUp := false }

/-- A sheaf record after reset (R418). -/
def Sheaf.reset : Sheaf :=
  { live := false, flags := 0, errEvents := 0, front := 0, paths := [], queue := 0, idx := 0, caddr := 0,
    args := [], shapes := [], nshape := 0, members := [], created := 0, moved := 0, ending := false,
    lead := none, nodes := [] }

/-- The reset value of each module register, by offset (R90, R227, R237, R323, R347, R400, R417). -/
def modRegReset (off : Nat) : Word :=
  match off with
  | 0x0400 => 0x186A0
  | _ => 0

/-- The root after reset. -/
def Root.reset : Root :=
  { tree := ⟨[], [], []⟩, sweep := 0, started := 0, before := [],
    cutFlag := false, cutAgree := 0, pending := [], asks := [], told := [], heard := [], early := [] }

/-- The image in the boot flash of the part as shipped. It stands for an image whose body, digest and signature the spec does not
give (log entry 12). -/
def FwImage.shipped : FwImage :=
  { magic := 0x47504846, version := 1, length := 2 ^ 20, reserved := 0, digest := [], sig := [], body := [] }

def Flash.shipped : Flash := { image := FwImage.shipped, recovery := [], floor := 0, keyIndex := 0 }

def Sideband.reset : Sideband := { straps := 0, dynamic := none, events := true, resetAction := 0 }

/-- The phases of a cycle in which the pending events of one cycle run. -/
def phases : Nat := 8
/-- The places within a phase. -/
def places : Nat := 65536

/-- The key of an event in the agenda: cycle, phase, place. -/
def agendaKey (cycle phase place : Nat) : Nat := (cycle * phases + phase) * places + place

/-- The module right after reset: every field at the value the spec states, the start-up steps of POWER_ON_RESET
still to run (R420, log entry 1). -/
def State.reset : State :=
  { cycle := 0, issueOver := false, tick := 0, tickFrac := 0, slew := 0, slewLast := 0, everLocked := false, locked := false, lastSync := 0,
    agenda := [(agendaKey 0 6 0, .powerOnReset)], timers := [], delays := [], ctx := ⟨0, 0, 0⟩,
    nextId := 0, freeCount := 0, startup := true, mem := [], empty := [], mregs := [], qerr := [],
    slots := [], cores := [], tlb2 := [], dies := [], siphons := [], wells := [], routers := [],
    ports := [], mail := [], sheaves := [], regions := [], root := Root.reset, gangs := [], images := [], reports := [], stretchLast := 0,
    stretchSince := 0, cutReports := [], badRows := [], flash := Flash.shipped, side := Sideband.reset,
    out := [] }

/-- Where a step stops for want of a state that the machine can be in. -/
inductive Fault
  /-- Raised by the meaning of an encoded instruction when the slot that fires it holds no block, or the block has
  no word at the index fired. No run reaches such a state. Safe: the machine stops where the hardware has no
  behaviour at all. -/
  | noContext
  /-- Raised by step when the word to be fired is no instruction. The check at load (R140) lets no such block run, so no run
  reaches it. Safe: the machine stops where the hardware has no behaviour at all. -/
  | undecoded
  deriving DecidableEq, Repr

/-- Why an instruction has no meaning. -/
inductive Refusal
  /-- Raised by an arm of the dispatcher for an instruction that the model has not reached. Safe: nothing can be proved
  of what such an instruction does. -/
  | notModelled (mnemonic : String)
  deriving DecidableEq, Repr

end Sys2Proof.Machine
end

