-- ==== Sys2Proof/WellFormed.lean ====
section
/-! DEFINITION. The well-formed instructions: those of which a block may hold the word, as far as one word shows it
(R131, R132, R134, R135, R138). -/

namespace Sys2Proof

/-- A 9-bit target that is not reserved (R131). -/
def targetOk (t : Target) : Bool := decide (t.toNat < 384) || decide (t = 511#9)

/-- An 8-bit target that is not reserved (R132). -/
def gTargetOk (t : GTarget) : Bool := decide (t ≠ 128#8)

/-- A register that RD may read (R134, R167). -/
def isReadable (r : RegSel) : Bool :=
  match r.cls.toNat with
  | 0 => true
  | 1 => decide (r.num.toNat < 16)
  | 2 => decide (r.num.toNat < 16)
  | 3 => decide (r.num.toNat < 4)
  | 4 => decide (r.num.toNat < 0x18)
  | _ => false

/-- A register that RDT may read: no Q register (R134). -/
def isTestable (r : RegSel) : Bool := isReadable r && decide (r.cls.toNat ≠ 3)

/-- A register that WR may write (R134, R167). -/
def isWritable (r : RegSel) : Bool :=
  match r.cls.toNat with
  | 0 => true
  | 1 => decide (r.num.toNat < 16)
  | 2 => decide (r.num.toNat < 16)
  | 3 => decide (4 ≤ r.num.toNat) && decide (r.num.toNat < 8)
  | 4 => (decide (0x08 ≤ r.num.toNat) && decide (r.num.toNat ≤ 0x0A)) ||
      (decide (0x0D ≤ r.num.toNat) && decide (r.num.toNat < 0x18))
  | _ => false

/-- `.SAT` only for integer VT (R193, R194). -/
def satAllowed (vt : VecType) (m : SatMode) : Bool :=
  match vt, m with
  | .fp32, .sat | .bf16, .sat | .fp16, .sat => false
  | _, _ => true

/-- The functions that VUN has for each VT (R199). -/
def unAllowed (vt : VecType) (m : UnMode) : Bool :=
  match vt, m with
  | .n32, _ | .n16, _ => false
  | .i32, .sqrt | .i32, .flr | .i16, .sqrt | .i16, .flr => false
  | _, _ => true

/-- `.BITS` requires VT 000 (R208). -/
def redAllowed (vt : VecType) (m : RedMode) : Bool :=
  match vt, m with
  | .fp32, .bits => true
  | _, .bits => false
  | _, _ => true

/-- CAS is three-input and carries no predicate (R135, R241). -/
def casAllowed (p : Pred) (o : AmoOp) : Bool :=
  match p, o with
  | .always, _ => true
  | _, .cas => false
  | _, _ => true

/-- The well-formed instructions; an event has no word and is none. -/
def wellFormed : Instr → Bool
  | .br _ _ _ => true
  | .bri _ _ => true
  | .call _ _ _ => true
  | .calli _ _ => true
  | .ret _ _ => true
  | .lpb _ _ ta => targetOk ta
  | .lpx _ _ _ => true
  | .hnt _ => true
  | .genc _ ta => targetOk ta
  | .app _ ta => targetOk ta
  | .mov _ tb ta => targetOk tb && targetOk ta
  | .nul _ tb ta => targetOk tb && targetOk ta
  | .rd reg tb8 ta8 => isReadable reg && gTargetOk tb8 && gTargetOk ta8
  | .rdt reg tb8 ta8 => isTestable reg && gTargetOk tb8 && gTargetOk ta8
  | .wr reg => isWritable reg
  | .add _ _ _ tb ta => targetOk tb && targetOk ta
  | .sub _ _ _ tb ta => targetOk tb && targetOk ta
  | .mul _ _ _ tb ta => targetOk tb && targetOk ta
  | .mulh _ _ tb ta => targetOk tb && targetOk ta
  | .div _ _ tb ta => targetOk tb && targetOk ta
  | .rem _ _ tb ta => targetOk tb && targetOk ta
  | .andI _ _ tb ta => targetOk tb && targetOk ta
  | .orI _ _ tb ta => targetOk tb && targetOk ta
  | .xorI _ _ tb ta => targetOk tb && targetOk ta
  | .shl _ _ tb ta => targetOk tb && targetOk ta
  | .shr _ _ tb ta => targetOk tb && targetOk ta
  | .sar _ _ tb ta => targetOk tb && targetOk ta
  | .minI _ _ tb ta => targetOk tb && targetOk ta
  | .maxI _ _ tb ta => targetOk tb && targetOk ta
  | .cmp _ _ _ tb ta => targetOk tb && targetOk ta
  | .sel tb ta => targetOk tb && targetOk ta
  | .addi _ _ ta => targetOk ta
  | .muli _ _ ta => targetOk ta
  | .andi _ _ ta => targetOk ta
  | .ori _ _ ta => targetOk ta
  | .xori _ _ ta => targetOk ta
  | .shli _ _ ta => targetOk ta
  | .shri _ _ ta => targetOk ta
  | .sari _ _ ta => targetOk ta
  | .ceqi _ _ ta => targetOk ta
  | .cnei _ _ ta => targetOk ta
  | .clti _ _ ta => targetOk ta
  | .cgei _ _ ta => targetOk ta
  | .lea _ _ tb ta => targetOk tb && targetOk ta
  | .slice _ _ tb ta => targetOk tb && targetOk ta
  | .bits _ _ tb ta => targetOk tb && targetOk ta
  | .ldN8 _ _ _ ta => targetOk ta
  | .ldI8 _ _ _ ta => targetOk ta
  | .ldN16 _ _ _ ta => targetOk ta
  | .ldI16 _ _ _ ta => targetOk ta
  | .ldN32 _ _ _ ta => targetOk ta
  | .ldI32 _ _ _ ta => targetOk ta
  | .ld64 _ _ _ ta => targetOk ta
  | .st8 _ _ _ => true
  | .st16 _ _ _ => true
  | .st32 _ _ _ => true
  | .st64 _ _ _ => true
  | .lds _ _ _ ta => targetOk ta
  | .sts _ _ _ => true
  | .amo p aop _ tb ta => casAllowed p aop && targetOk tb && targetOk ta
  | .bump _ tb ta => targetOk tb && targetOk ta
  | .pref _ _ => true
  | .vadd _ vt mode tb ta => satAllowed vt mode && targetOk tb && targetOk ta
  | .vsub _ vt mode tb ta => satAllowed vt mode && targetOk tb && targetOk ta
  | .vmul _ vt mode tb ta => satAllowed vt mode && targetOk tb && targetOk ta
  | .vfma _ _ tb ta => targetOk tb && targetOk ta
  | .vmin _ _ tb ta => targetOk tb && targetOk ta
  | .vmax _ _ tb ta => targetOk tb && targetOk ta
  | .vcmp _ _ _ tb ta => targetOk tb && targetOk ta
  | .vsel _ tb ta => targetOk tb && targetOk ta
  | .vand _ tb ta => targetOk tb && targetOk ta
  | .vor _ tb ta => targetOk tb && targetOk ta
  | .vxor _ tb ta => targetOk tb && targetOk ta
  | .vshf _ _ tb ta => targetOk tb && targetOk ta
  | .vbcst _ _ tb ta => targetOk tb && targetOk ta
  | .vins _ tb ta => targetOk tb && targetOk ta
  | .vext _ _ tb ta => targetOk tb && targetOk ta
  | .vmsk _ _ tb ta => targetOk tb && targetOk ta
  | .vcvt _ _ tb ta => targetOk tb && targetOk ta
  | .vred _ vt red tb ta => redAllowed vt red && targetOk tb && targetOk ta
  | .vexp2 _ tb ta => targetOk tb && targetOk ta
  | .vrcp _ tb ta => targetOk tb && targetOk ta
  | .vrsq _ tb ta => targetOk tb && targetOk ta
  | .tld _ _ tb ta => targetOk tb && targetOk ta
  | .tli _ _ tb ta => targetOk tb && targetOk ta
  | .vun _ vt unop tb ta => unAllowed vt unop && targetOk tb && targetOk ta
  | .vld _ _ _ ta => targetOk ta
  | .vst _ _ _ => true
  | .vldx _ _ tb ta => targetOk tb && targetOk ta
  | .vstx _ => true
  | .mprog _ tb ta => targetOk tb && targetOk ta
  | .mlw _ => true
  | .mlwS => true
  | .mma _ => true
  | .mmaS => true
  | .mst _ => true
  | .mzr _ => true
  | .mstg _ _ tb ta => targetOk tb && targetOk ta
  | .mstgS _ tb ta => targetOk tb && targetOk ta
  | .mres _ => true
  | .mresDrop _ => true
  | .mmov _ _ => true
  | .cpy _ tb ta => targetOk tb && targetOk ta
  | .cpyDeal _ tb ta => targetOk tb && targetOk ta
  | .cpyGath _ tb ta => targetOk tb && targetOk ta
  | .cpyBin _ tb ta => targetOk tb && targetOk ta
  | .cpyX _ tb ta => targetOk tb && targetOk ta
  | .sacq _ tb ta => targetOk tb && targetOk ta
  | .sacqp _ tb ta => targetOk tb && targetOk ta
  | .slpt _ tb ta => targetOk tb && targetOk ta
  | .chb _ _ tb ta => targetOk tb && targetOk ta
  | .chu _ _ => true
  | .str _ _ _ tb ta => targetOk tb && targetOk ta
  | .fence _ _ _ => true
  | .tadv _ _ tb ta => targetOk tb && targetOk ta
  | .tset _ tb ta => targetOk tb && targetOk ta
  | .fwait _ tb ta => targetOk tb && targetOk ta
  | .join _ tb ta => targetOk tb && targetOk ta
  | .leave _ _ tb ta => targetOk tb && targetOk ta
  | .spawn tb ta => targetOk tb && targetOk ta
  | .spawnAt tb ta => targetOk tb && targetOk ta
  | .fill _ _ => true
  | .park _ => true
  | .wake _ => true
  | .yld _ => true
  | .cbind tb ta => targetOk tb && targetOk ta
  | .cunb _ tb ta => targetOk tb && targetOk ta
  | .crd _ tb ta => targetOk tb && targetOk ta
  | .crel _ tb ta => targetOk tb && targetOk ta
  | .cwr _ tb ta => targetOk tb && targetOk ta
  | .ccmt _ tb ta => targetOk tb && targetOk ta
  | .cset tb ta => targetOk tb && targetOk ta
  | .rfence _ tb ta => targetOk tb && targetOk ta
  | .cstat _ _ tb ta => targetOk tb && targetOk ta
  | .trap _ => true
  | .tret _ => true
  | .tretRetry _ => true
  | .ppt _ => true
  | .halt _ => true
  | .sysr _ tb ta => targetOk tb && targetOk ta
  | .sysw _ ta => targetOk ta
  | .powerOnReset
  | .stretchEnd _
  | .dieFence _
  | .leaseRenewal _
  | .leaseExpiry _
  | .leaseClaim _ _ _
  | .leaseGrant _ _ _
  | .queueDoorbell _ _ _
  | .recordUpdate _ _ _
  | .rootPacket _
  | .gangPacket _
  | .placementPass _
  | .reserve _ _ _
  | .reserveAck _ _ _
  | .multiReady _
  | .multiCommit _
  | .multiAbort _
  | .multiReadyTimeout _
  | .timerWheelRelease _
  | .waitPoll _
  | .watchdogPeriod _
  | .stealRequest _ _
  | .stealReply _
  | .stealBackoff _
  | .blockLoad _ _
  | .tokenDelivery _
  | .blockCommit _ _ _
  | .fillArrival _
  | .wakeArrival _
  | .reportWordAdd _ _ _
  | .ownerAccess _
  | .storeWordApply _
  | .storeAcknowledgement _ _ _
  | .ldsStsRefusal _
  | .ldsStsResend _
  | .pageWalk _ _ _
  | .wellheadRequest _
  | .invalidationComplete
  | .commandHandover _
  | .siphonStart _
  | .copyCompletion _
  | .followOnStart _
  | .matrixHandover _
  | .mprogInstall _
  | .mlwExecution _
  | .mmaExecution _
  | .mstExecution _
  | .mzrExecution _
  | .mmovExecution _
  | .mresExecution _
  | .promiseMissed _ _
  | .slptWake _ _
  | .yldExpiry _ _
  | .standpipePush _ _ _ _ _ _ _
  | .creditReturn _ _
  | .streamReadAhead _ _
  | .routerGrant _ _
  | .slackDecrement _ _
  | .routerPowerDown _
  | .routerWake _
  | .dataFlit _ _
  | .idleFlit _ _
  | .replayFlit _ _
  | .auditInsertion _
  | .auditFlit _ _ _ _
  | .restitutionFlit _ _ _
  | .clampFlit _ _ _
  | .portRetrain _
  | .restartFlit _ _ _
  | .retrainTimeout _
  | .scopeMiss _
  | .batchAgeExpiry _
  | .deltaBatch _
  | .batchApply _ _ _ _
  | .sweepRequest _ _ _
  | .sweepComplete
  | .frontierAnnouncement _ _ _
  | .launchEnd _
  | .reportTimeout _
  | .heldDecision _
  | .mark _
  | .markAck _ _ _
  | .taskDispatch _
  | .fackRetry _ _
  | .fackTrap _ _
  | .fackEnd _ _
  | .parkTimeout _
  | .preemptTimeout _ _ _
  | .swapOut _ _
  | .restore _ _
  | .ctxout _ _
  | .resume _ _
  | .cutMarker _ _
  | .cellInstall _ _
  | .cellRemove _ _
  | .registerWrite _ _ _
  | .reportAcknowledgement _
  | .recoveryImageReply _ _
  | .fwstageGo
  | .devmodeWrite _ _
  | .supplySag _
  | .junctionTemperature _ _
  | .uncorrectableEcc _ _
  | .ieee1588Sync _
  | .tickLockLoss
  | .admqhostEnable _ _
  | .admqhostDisable _ _
  | .recordFetchReply _ _ _
  | .qcreate
  | .qdestroy
  | .wait _
  | .xinvcWrite _
  | .sttailWrite _ _
  | .alignmentLoss _
  | .preqWrite _ _
  | .svccfgWrite _ _
  | .cutctlGo _
  | .cutctlResume
  | .hrptcfgWrite _
  | .nodeidWrite _ _
  | .sflagsClear _ _
  | .readClear _ _
  | .readControlWindow _
  | .writeControlWindow _ _
  | .attestation _
  | .fenceDie _
  | .readCertificate
  | .setRecoveryList _ _
  | .readRecoveryList
  | .unknownCommand _
  | .entdaa _
  | .setdasa _ _
  | .rstdaa
  | .getpid
  | .getbcr
  | .getdcr
  | .getstatus
  | .enec _
  | .disec _
  | .rstact _
  | .correctedEccError _
  | .powerLoss _ => false

end Sys2Proof
end

