-- ==== Sys2Proof/Decode.lean ====
section
/-! DEFINITION. The decoder of an instruction word, total on all words and rejecting by name, and the
encoder, both from the formats of R129 and the encoding tables of the spec. -/

namespace Sys2Proof

/-- Why a word is no instruction: the reasons of R140 that concern one word alone. -/
inductive Reject
  /-- reason 3: opcode 0x00, 0x7F or unassigned (R138) -/
  | opcode
  /-- reason 4: a reserved xop or field value (R138) -/
  | field
  /-- reason 5: pm = 01, or pm ≠ 00 on a three-input instruction (R135) -/
  | predicate
  /-- reason 6: a reserved target value (R131, R132) -/
  | target
  /-- reason 10: an illegal register selector (R134) -/
  | register
  /-- reason 15: an HNT whose ta is not 0x1FF (R142, R173) -/
  | hint
  deriving DecidableEq, Repr

/-- The reason number of R140. -/
def Reject.reason : Reject → Nat
  | .opcode => 3
  | .field => 4
  | .predicate => 5
  | .target => 6
  | .register => 10
  | .hint => 15

/-! ### Fields of a word (R129) -/

/-- bits 31:25 -/
def opOf (w : Nat) : Nat := w / 2 ^ 25 % 128
/-- bits 24:23 -/
def pmOf (w : Nat) : Nat := w / 2 ^ 23 % 4
/-- bits 22:20 -/
def xhiOf (w : Nat) : Nat := w / 2 ^ 20 % 8
/-- bits 19:18 -/
def xloOf (w : Nat) : Nat := w / 2 ^ 18 % 4
/-- bits 22:18 -/
def xopOf (w : Nat) : Nat := w / 2 ^ 18 % 32
/-- bits 17:9 -/
def tbOf (w : Nat) : Nat := w / 2 ^ 9 % 512
/-- bits 8:0 -/
def taOf (w : Nat) : Nat := w % 512
/-- bits 22:9, imm14 -/
def imm14Of (w : Nat) : Nat := w / 2 ^ 9 % 2 ^ 14
/-- bits 24:9, imm16 -/
def imm16Of (w : Nat) : Nat := w / 2 ^ 9 % 2 ^ 16
/-- bits 17:0, imm18 -/
def imm18Of (w : Nat) : Nat := w % 2 ^ 18
/-- bits 19:0, off20 -/
def off20Of (w : Nat) : Nat := w % 2 ^ 20

/-! ### Field codes -/

/-- pm (R135) -/
def decPred : Nat → Option Pred
  | 0 => some .always | 2 => some .onFalse | 3 => some .onTrue | _ => none
def encPred : Pred → Nat
  | .always => 0 | .onFalse => 2 | .onTrue => 3

/-- TYPE (R179) -/
def decIntType : Nat → Option IntType
  | 0 => some .i64 | 1 => some .i32 | 2 => some .i16 | 3 => some .i8
  | 4 => some .n64 | 5 => some .n32 | 6 => some .n16 | 7 => some .n8 | _ => none
def encIntType : IntType → Nat
  | .i64 => 0 | .i32 => 1 | .i16 => 2 | .i8 => 3 | .n64 => 4 | .n32 => 5 | .n16 => 6 | .n8 => 7

/-- MODE (R179) -/
def decSatMode : Nat → Option SatMode
  | 0 => some .wrap | 1 => some .sat | _ => none
def encSatMode : SatMode → Nat
  | .wrap => 0 | .sat => 1

/-- the condition of CMP and VCMP (R179, R193) -/
def decCond : Nat → Option Cond
  | 0 => some .eq | 1 => some .ne | 2 => some .lt | 3 => some .ge | _ => none
def encCond : Cond → Nat
  | .eq => 0 | .ne => 1 | .lt => 2 | .ge => 3

/-- `.S0` to `.S4` (R183) -/
def decLeaScale : Nat → Option LeaScale
  | 0 => some .s0 | 1 => some .s1 | 2 => some .s2 | 3 => some .s3 | 4 => some .s4 | _ => none
def encLeaScale : LeaScale → Nat
  | .s0 => 0 | .s1 => 1 | .s2 => 2 | .s3 => 3 | .s4 => 4

/-- R184 -/
def decSliceSel : Nat → Option SliceSel
  | 0 => some .base | 1 => some .ext | 2 => some .step | _ => none
def encSliceSel : SliceSel → Nat
  | .base => 0 | .ext => 1 | .step => 2

/-- R185 -/
def decBitsOp : Nat → Option BitsOp
  | 0 => some .ext | 1 => some .sext | 2 => some .clz | 3 => some .ctz | 4 => some .popc | _ => none
def encBitsOp : BitsOp → Nat
  | .ext => 0 | .sext => 1 | .clz => 2 | .ctz => 3 | .popc => 4

/-- R241 -/
def decAmoOp : Nat → Option AmoOp
  | 0 => some .add | 1 => some .min | 2 => some .max | 3 => some .and | 4 => some .or
  | 5 => some .swp | 6 => some .cas | _ => none
def encAmoOp : AmoOp → Nat
  | .add => 0 | .min => 1 | .max => 2 | .and => 3 | .or => 4 | .swp => 5 | .cas => 6

/-- R241 -/
def decAmoType : Nat → Option AmoType
  | 0 => some .i64 | 1 => some .n64 | 2 => some .i32 | 3 => some .n32 | _ => none
def encAmoType : AmoType → Nat
  | .i64 => 0 | .n64 => 1 | .i32 => 2 | .n32 => 3

/-- VT (R187) -/
def decVecType : Nat → Option VecType
  | 0 => some .fp32 | 1 => some .bf16 | 2 => some .fp16 | 3 => some .i32 | 4 => some .n32
  | 5 => some .i16 | 6 => some .n16 | _ => none
def encVecType : VecType → Nat
  | .fp32 => 0 | .bf16 => 1 | .fp16 => 2 | .i32 => 3 | .n32 => 4 | .i16 => 5 | .n16 => 6

/-- VT 000 to 010 (R195) -/
def decFloatType : Nat → Option FloatType
  | 0 => some .fp32 | 1 => some .bf16 | 2 => some .fp16 | _ => none
def encFloatType : FloatType → Nat
  | .fp32 => 0 | .bf16 => 1 | .fp16 => 2

/-- R193 -/
def decFmaMode : Nat → Option FmaMode
  | 0 => some .plain | 1 => some .ms | 2 => some .nma | _ => none
def encFmaMode : FmaMode → Nat
  | .plain => 0 | .ms => 1 | .nma => 2

/-- lanes or halves (R193) and other one-bit selections of bits 22:20 -/
def decFlag : Nat → Option Bool
  | 0 => some false | 1 => some true | _ => none
def encFlag : Bool → Nat
  | false => 0 | true => 1

/-- R200 -/
def decShufMode : Nat → Option ShufMode
  | 0 => some .idx | 1 => some .hidx | 2 => some .rot | 3 => some .xor | 4 => some .hrot | _ => none
def encShufMode : ShufMode → Nat
  | .idx => 0 | .hidx => 1 | .rot => 2 | .xor => 3 | .hrot => 4

/-- R201 -/
def decBcastMode : Nat → Option BcastMode
  | 0 => some .lane | 1 => some .half | 2 => some .s16 | _ => none
def encBcastMode : BcastMode → Nat
  | .lane => 0 | .half => 1 | .s16 => 2

/-- R203 -/
def decExtMode : Nat → Option ExtMode
  | 0 => some .n32 | 1 => some .i32 | 2 => some .n16 | 3 => some .i16 | _ => none
def encExtMode : ExtMode → Nat
  | .n32 => 0 | .i32 => 1 | .n16 => 2 | .i16 => 3

/-- R205 -/
def decCvtCode : Nat → Option CvtCode
  | 0 => some .bf16Fp32 | 1 => some .fp16Fp32 | 2 => some .fp32Bf16 | 3 => some .fp32Fp16
  | 4 => some .fp16Bf16 | 5 => some .bf16Fp16 | 6 => some .i32Fp32 | 7 => some .n32Fp32
  | 8 => some .fp32I32 | 9 => some .fp32N32 | 10 => some .t8Fp32 | 11 => some .t6Fp32
  | 12 => some .fp32T8 | 13 => some .fp32T6 | 14 => some .i8Fp32 | 15 => some .fp32I8
  | 16 => some .i16I32 | 17 => some .n16N32 | 18 => some .i32I16 | 19 => some .n32N16
  | 20 => some .i8I32 | 21 => some .i32I8 | _ => none
def encCvtCode : CvtCode → Nat
  | .bf16Fp32 => 0 | .fp16Fp32 => 1 | .fp32Bf16 => 2 | .fp32Fp16 => 3
  | .fp16Bf16 => 4 | .bf16Fp16 => 5 | .i32Fp32 => 6 | .n32Fp32 => 7
  | .fp32I32 => 8 | .fp32N32 => 9 | .t8Fp32 => 10 | .t6Fp32 => 11
  | .fp32T8 => 12 | .fp32T6 => 13 | .i8Fp32 => 14 | .fp32I8 => 15
  | .i16I32 => 16 | .n16N32 => 17 | .i32I16 => 18 | .n32N16 => 19
  | .i8I32 => 20 | .i32I8 => 21

/-- R193 -/
def decRedMode : Nat → Option RedMode
  | 0 => some .add | 1 => some .max | 2 => some .min | 3 => some .bits | _ => none
def encRedMode : RedMode → Nat
  | .add => 0 | .max => 1 | .min => 2 | .bits => 3

/-- R193 -/
def decUnMode : Nat → Option UnMode
  | 0 => some .neg | 1 => some .abs | 2 => some .sqrt | 3 => some .flr | _ => none
def encUnMode : UnMode → Nat
  | .neg => 0 | .abs => 1 | .sqrt => 2 | .flr => 3

/-- R298 -/
def decMmovMode : Nat → Option MmovMode
  | 0 => some .aa | 1 => some .am | 2 => some .ma | 3 => some .wm | 4 => some .mw | _ => none
def encMmovMode : MmovMode → Nat
  | .aa => 0 | .am => 1 | .ma => 2 | .wm => 3 | .mw => 4

/-- the scope code of R324 -/
def decScope : Nat → Option Scope
  | 0 => some .slot | 1 => some .core | 2 => some .region | 3 => some .die | 4 => some .mod
  | 5 => some .fab | _ => none
def encScope : Scope → Nat
  | .slot => 0 | .core => 1 | .region => 2 | .die => 3 | .mod => 4 | .fab => 5

/-- R330 -/
def decFenceKind : Nat → Option FenceKind
  | 1 => some .rel | 2 => some .acq | 3 => some .ar | _ => none
def encFenceKind : FenceKind → Nat
  | .rel => 1 | .acq => 2 | .ar => 3

/-- MODE of `%round` (R59) -/
def decRoundMode : Nat → Option RoundMode
  | 0 => some .rne | 1 => some .rtz | 2 => some .rup | 3 => some .rdn | 4 => some .rna | _ => none
def encRoundMode : RoundMode → Nat
  | .rne => 0 | .rtz => 1 | .rup => 2 | .rdn => 3 | .rna => 4

/-- VAL of a STREAM hint (R142) -/
def decStream : Nat → Option StreamHint
  | 0 => some .none | 1 => some .readOnce | 2 => some .lastUse | _ => none
def encStream : StreamHint → Nat
  | .none => 0 | .readOnce => 1 | .lastUse => 2

/-- KIND in bits 15:12 and VAL in bits 11:0 of HNT's imm16 (R142) -/
def decHint (v : Nat) : Option Hint :=
  match v / 4096 with
  | 0 => if v % 4096 < 256 then some (.slack (BitVec.ofNat 8 v)) else none
  | 1 => (decRoundMode (v % 4096)).map .round
  | 2 => (decStream (v % 4096)).map .stream
  | _ => none
def encHint : Hint → Nat
  | .slack v => v.toNat
  | .round m => 4096 + encRoundMode m
  | .stream h => 8192 + encStream h

/-! ### Decoding -/

/-- Reason 4 unless the condition holds. -/
def needs (ok : Bool) (k : Except Reject Instr) : Except Reject Instr :=
  if ok then k else .error .field

/-- Reason 4 unless the code has a meaning. -/
def withCode {α : Type} (c : Option α) (k : α → Except Reject Instr) : Except Reject Instr :=
  match c with
  | some a => k a
  | none => .error .field

/-- The predicate of a predicable form, or reason 5 (R135). -/
def withPred (w : Nat) (k : Pred → Instr) : Except Reject Instr :=
  match decPred (pmOf w) with
  | some p => .ok (k p)
  | none => .error .predicate

/-- A three-input form carries pm 00, or reason 5 (R135). -/
def threeInput (w : Nat) (i : Instr) : Except Reject Instr :=
  if pmOf w = 0 then .ok i else .error .predicate

def bv9 (n : Nat) : BitVec 9 := BitVec.ofNat 9 n

/-- The register selector of format G (R134). -/
def regOf (w : Nat) : RegSel := ⟨BitVec.ofNat 3 (w / 2 ^ 22), BitVec.ofNat 6 (w / 2 ^ 16)⟩
def tb8Of (w : Nat) : GTarget := BitVec.ofNat 8 (w / 2 ^ 8)
def ta8Of (w : Nat) : GTarget := BitVec.ofNat 8 w

/-- Two targets of format A with no field of xop (xop = 0). -/
def aForm (w : Nat) (k : Pred → Target → Target → Instr) : Except Reject Instr :=
  needs (xopOf w == 0) (withPred w fun p => k p (bv9 (tbOf w)) (bv9 (taOf w)))

/-- A form without targets: ta = tb = 0x1FF. -/
def noTargets (w : Nat) : Bool := tbOf w == 511 && taOf w == 511

/-- An integer form with TYPE in bits 22:20 and 00 in bits 19:18 (R179). -/
def intForm (w : Nat) (k : Pred → IntType → Target → Target → Instr) : Except Reject Instr :=
  withCode (decIntType (xhiOf w)) fun ty => needs (xloOf w == 0)
    (withPred w fun p => k p ty (bv9 (tbOf w)) (bv9 (taOf w)))

/-- An integer form with TYPE and MODE (R179). -/
def satForm (w : Nat) (k : Pred → IntType → SatMode → Target → Target → Instr) : Except Reject Instr :=
  withCode (decIntType (xhiOf w)) fun ty => withCode (decSatMode (xloOf w)) fun m =>
    withPred w fun p => k p ty m (bv9 (tbOf w)) (bv9 (taOf w))

/-- An immediate form (format I). -/
def immForm (w : Nat) (k : Pred → BitVec 14 → Target → Instr) : Except Reject Instr :=
  withPred w fun p => k p (BitVec.ofNat 14 (imm14Of w)) (bv9 (taOf w))

/-- A shift by an immediate: imm14 bits 13:6 are 0 (R182). -/
def shiftForm (w : Nat) (k : Pred → BitVec 6 → Target → Instr) : Except Reject Instr :=
  needs (imm14Of w < 64) (withPred w fun p => k p (BitVec.ofNat 6 (imm14Of w)) (bv9 (taOf w)))

/-- A load (format M). -/
def loadForm (w : Nat) (k : Pred → BitVec 5 → BitVec 9 → Target → Instr) : Except Reject Instr :=
  withPred w fun p => k p (BitVec.ofNat 5 (xopOf w)) (bv9 (tbOf w)) (bv9 (taOf w))

/-- A store (format S). -/
def storeForm (w : Nat) (k : Pred → BitVec 5 → BitVec 18 → Instr) : Except Reject Instr :=
  withPred w fun p => k p (BitVec.ofNat 5 (xopOf w)) (BitVec.ofNat 18 (imm18Of w))

/-- A branch of format B. -/
def branchForm (w : Nat) (k : Pred → BitVec 3 → BitVec 20 → Instr) : Except Reject Instr :=
  withPred w fun p => k p (BitVec.ofNat 3 (xhiOf w)) (BitVec.ofNat 20 (off20Of w))

/-- An exit of format A: exit ID in bits 22:20, no targets (R173). -/
def exitForm (w : Nat) (k : Pred → BitVec 3 → Instr) : Except Reject Instr :=
  needs (xloOf w == 0 && noTargets w) (withPred w fun p => k p (BitVec.ofNat 3 (xhiOf w)))

def vecForm (w : Nat) (k : Pred → VecType → Target → Target → Instr) : Except Reject Instr :=
  withCode (decVecType (xhiOf w)) fun vt => needs (xloOf w == 0)
    (withPred w fun p => k p vt (bv9 (tbOf w)) (bv9 (taOf w)))

def vecSatForm (w : Nat) (k : Pred → VecType → SatMode → Target → Target → Instr) :
    Except Reject Instr :=
  withCode (decVecType (xhiOf w)) fun vt => withCode (decSatMode (xloOf w)) fun m =>
    needs (satAllowed vt m) (withPred w fun p => k p vt m (bv9 (tbOf w)) (bv9 (taOf w)))

/-- A form with one code in bits 22:20, 00 in bits 19:18 and two targets. -/
def codeForm {α : Type} (w : Nat) (c : Option α) (k : Pred → α → Target → Target → Instr) :
    Except Reject Instr :=
  withCode c fun a => needs (xloOf w == 0) (withPred w fun p => k p a (bv9 (tbOf w)) (bv9 (taOf w)))

/-- The table buffer of TLD and TLI in bits 22:21 (R193). -/
def bufForm (w : Nat) (k : Pred → BitVec 2 → Target → Target → Instr) : Except Reject Instr :=
  needs (xopOf w % 8 == 0)
    (withPred w fun p => k p (BitVec.ofNat 2 (xopOf w / 8)) (bv9 (tbOf w)) (bv9 (taOf w)))

/-- A predicable form with no operand field and no targets. -/
def bareForm (w : Nat) (k : Pred → Instr) : Except Reject Instr :=
  needs (xloOf w == 0 && noTargets w) (withPred w k)

/-- The `.S` form of MLW and MMA: three-input, no targets (R291). -/
def bareThree (w : Nat) (i : Instr) : Except Reject Instr :=
  needs (xloOf w == 0 && noTargets w) (threeInput w i)

/-- Two targets, the whole of bits 19:18 zero, bits 22:20 already read. -/
def subForm (w : Nat) (k : Pred → Target → Target → Instr) : Except Reject Instr :=
  needs (xloOf w == 0) (withPred w fun p => k p (bv9 (tbOf w)) (bv9 (taOf w)))

def subThree (w : Nat) (k : Target → Target → Instr) : Except Reject Instr :=
  needs (xloOf w == 0) (threeInput w (k (bv9 (tbOf w)) (bv9 (taOf w))))

/-- The instruction whose fields a word holds, or the lowest reason of R140 that its opcode, codes and predicate show; its targets
and its register selector are taken as they stand. -/
def readFields (w : Nat) : Except Reject Instr :=
  match opOf w with
  | 0x01 => branchForm w .br
  | 0x02 => exitForm w .bri
  | 0x03 => branchForm w .call
  | 0x04 => exitForm w .calli
  | 0x05 => exitForm w .ret
  | 0x06 => needs (pmOf w == 0)
      (.ok (.lpb (BitVec.ofNat 2 (imm14Of w / 4096)) (BitVec.ofNat 12 (imm14Of w)) (bv9 (taOf w))))
  | 0x07 => branchForm w .lpx
  | 0x08 => withCode (decHint (imm16Of w)) fun h =>
      if taOf w = 511 then .ok (.hnt h) else .error .hint
  | 0x09 => .ok (.genc (BitVec.ofNat 16 (imm16Of w)) (bv9 (taOf w)))
  | 0x0A => .ok (.app (BitVec.ofNat 16 (imm16Of w)) (bv9 (taOf w)))
  | 0x0B => aForm w .mov
  | 0x0C => aForm w .nul
  | 0x0D => .ok (.rd (regOf w) (tb8Of w) (ta8Of w))
  | 0x0E => .ok (.rdt (regOf w) (tb8Of w) (ta8Of w))
  | 0x0F => needs (w % 2 ^ 16 == 0) (.ok (.wr (regOf w)))
  | 0x10 => satForm w .add
  | 0x11 => satForm w .sub
  | 0x12 => satForm w .mul
  | 0x13 => intForm w .mulh
  | 0x14 => intForm w .div
  | 0x15 => intForm w .rem
  | 0x16 => intForm w .andI
  | 0x17 => intForm w .orI
  | 0x18 => intForm w .xorI
  | 0x19 => intForm w .shl
  | 0x1A => intForm w .shr
  | 0x1B => intForm w .sar
  | 0x1C => intForm w .minI
  | 0x1D => intForm w .maxI
  | 0x1E => withCode (decIntType (xhiOf w)) fun ty => withCode (decCond (xloOf w)) fun c =>
      withPred w fun p => .cmp p ty c (bv9 (tbOf w)) (bv9 (taOf w))
  | 0x1F => needs (xopOf w == 0) (threeInput w (.sel (bv9 (tbOf w)) (bv9 (taOf w))))
  | 0x20 => immForm w .addi
  | 0x21 => immForm w .muli
  | 0x22 => immForm w .andi
  | 0x23 => immForm w .ori
  | 0x24 => immForm w .xori
  | 0x25 => shiftForm w .shli
  | 0x26 => shiftForm w .shri
  | 0x27 => shiftForm w .sari
  | 0x28 => immForm w .ceqi
  | 0x29 => immForm w .cnei
  | 0x2A => immForm w .clti
  | 0x2B => immForm w .cgei
  | 0x2C => codeForm w (decLeaScale (xhiOf w)) .lea
  | 0x2D => codeForm w (decSliceSel (xhiOf w)) .slice
  | 0x2E => codeForm w (decBitsOp (xhiOf w)) .bits
  | 0x30 => loadForm w .ldN8
  | 0x31 => loadForm w .ldI8
  | 0x32 => loadForm w .ldN16
  | 0x33 => loadForm w .ldI16
  | 0x34 => loadForm w .ldN32
  | 0x35 => loadForm w .ldI32
  | 0x36 => loadForm w .ld64
  | 0x37 => storeForm w .st8
  | 0x38 => storeForm w .st16
  | 0x39 => storeForm w .st32
  | 0x3A => storeForm w .st64
  | 0x3B => loadForm w .lds
  | 0x3C => storeForm w .sts
  | 0x3D => withCode (decAmoOp (xhiOf w)) fun o => withCode (decAmoType (xloOf w)) fun t =>
      if o = .cas then threeInput w (.amo .always o t (bv9 (tbOf w)) (bv9 (taOf w)))
      else withPred w fun p => .amo p o t (bv9 (tbOf w)) (bv9 (taOf w))
  | 0x3E => aForm w .bump
  | 0x3F => needs (xopOf w == 0 && taOf w == 511) (withPred w fun p => .pref p (bv9 (tbOf w)))
  | 0x40 => vecSatForm w .vadd
  | 0x41 => vecSatForm w .vsub
  | 0x42 => vecSatForm w .vmul
  | 0x43 => withCode (decFloatType (xhiOf w)) fun vt => withCode (decFmaMode (xloOf w)) fun m =>
      threeInput w (.vfma vt m (bv9 (tbOf w)) (bv9 (taOf w)))
  | 0x44 => vecForm w .vmin
  | 0x45 => vecForm w .vmax
  | 0x46 => withCode (decVecType (xhiOf w)) fun vt => withCode (decCond (xloOf w)) fun c =>
      withPred w fun p => .vcmp p vt c (bv9 (tbOf w)) (bv9 (taOf w))
  | 0x47 => withCode (decFlag (xhiOf w)) fun h => subThree w (.vsel h)
  | 0x48 => aForm w .vand
  | 0x49 => aForm w .vor
  | 0x4A => aForm w .vxor
  | 0x4B => codeForm w (decShufMode (xhiOf w)) .vshf
  | 0x4C => codeForm w (decBcastMode (xhiOf w)) .vbcst
  | 0x4D => withCode (decFlag (xhiOf w)) fun h => subThree w (.vins h)
  | 0x4E => codeForm w (decExtMode (xhiOf w)) .vext
  | 0x4F => codeForm w (decFlag (xhiOf w)) .vmsk
  | 0x50 => withCode (decCvtCode (xopOf w)) fun c =>
      withPred w fun p => .vcvt p c (bv9 (tbOf w)) (bv9 (taOf w))
  | 0x51 => withCode (decVecType (xhiOf w)) fun vt => withCode (decRedMode (xloOf w)) fun m =>
      needs (redAllowed vt m) (withPred w fun p => .vred p vt m (bv9 (tbOf w)) (bv9 (taOf w)))
  | 0x52 => aForm w .vexp2
  | 0x53 => aForm w .vrcp
  | 0x54 => aForm w .vrsq
  | 0x55 => bufForm w .tld
  | 0x56 => bufForm w .tli
  | 0x57 => withCode (decVecType (xhiOf w)) fun vt => withCode (decUnMode (xloOf w)) fun m =>
      needs (unAllowed vt m) (withPred w fun p => .vun p vt m (bv9 (tbOf w)) (bv9 (taOf w)))
  | 0x58 => loadForm w .vld
  | 0x59 => storeForm w .vst
  | 0x5A => codeForm w (decFlag (xhiOf w)) .vldx
  | 0x5B => needs (noTargets w) (threeInput w (.vstx (BitVec.ofNat 5 (xopOf w))))
  | 0x60 => aForm w .mprog
  | 0x61 => match xhiOf w with
    | 0 => bareForm w .mlw
    | 1 => bareThree w .mlwS
    | _ => .error .field
  | 0x62 => match xhiOf w with
    | 0 => bareForm w .mma
    | 1 => bareThree w .mmaS
    | _ => .error .field
  | 0x63 => needs (xhiOf w == 0) (bareForm w .mst)
  | 0x64 => needs (xhiOf w == 0) (bareForm w .mzr)
  | 0x65 => match xhiOf w with
    | 0 => withPred w fun p => .mstg p (BitVec.ofNat 2 (xloOf w)) (bv9 (tbOf w)) (bv9 (taOf w))
    | 1 => threeInput w (.mstgS (BitVec.ofNat 2 (xloOf w)) (bv9 (tbOf w)) (bv9 (taOf w)))
    | _ => .error .field
  | 0x66 => match xhiOf w with
    | 0 => bareForm w .mres
    | 1 => bareForm w .mresDrop
    | _ => .error .field
  | 0x67 => withCode (decMmovMode (xhiOf w)) fun m => bareForm w fun p => .mmov p m
  | 0x68 => match xhiOf w with
    | 0 => subForm w .cpy
    | 1 => subForm w .cpyDeal
    | 2 => subForm w .cpyGath
    | 3 => subForm w .cpyBin
    | 4 => subForm w .cpyX
    | _ => .error .field
  | 0x69 => aForm w .sacq
  | 0x6A => aForm w .sacqp
  | 0x6B => aForm w .slpt
  | 0x6C => subForm w fun p => .chb p (BitVec.ofNat 3 (xhiOf w))
  | 0x6D => bareForm w fun p => .chu p (BitVec.ofNat 3 (xhiOf w))
  | 0x6E => withCode (decFlag (xloOf w)) fun v =>
      withPred w fun p => .str p (BitVec.ofNat 3 (xhiOf w)) v (bv9 (tbOf w)) (bv9 (taOf w))
  | 0x70 => withCode (decScope (xhiOf w)) fun s => withCode (decFenceKind (xloOf w)) fun k =>
      needs (noTargets w) (withPred w fun p => .fence p s k)
  | 0x71 => needs (xhiOf w == 0)
      (withPred w fun p => .tadv p (BitVec.ofNat 2 (xloOf w)) (bv9 (tbOf w)) (bv9 (taOf w)))
  | 0x72 => aForm w .tset
  | 0x73 => aForm w .fwait
  | 0x74 => match xhiOf w with
    | 0 => subForm w .join
    | 1 => withCode (decFlag (xloOf w)) fun x =>
        withPred w fun p => .leave p x (bv9 (tbOf w)) (bv9 (taOf w))
    | _ => .error .field
  | 0x75 => match xhiOf w with
    | 0 => subThree w .spawn
    | 1 => subThree w .spawnAt
    | _ => .error .field
  | 0x76 => needs (noTargets w) (withPred w fun p => .fill p (BitVec.ofNat 5 (xopOf w)))
  | 0x77 => match xhiOf w with
    | 0 => bareForm w .park
    | 1 => bareForm w .wake
    | 2 => bareForm w .yld
    | _ => .error .field
  | 0x78 => match xhiOf w with
    | 0 => subThree w .cbind
    | 1 => subForm w .cunb
    | _ => .error .field
  | 0x79 => match xhiOf w with
    | 0 => subForm w .crd
    | 1 => subForm w .crel
    | _ => .error .field
  | 0x7A => match xhiOf w with
    | 0 => subForm w .cwr
    | 1 => subForm w .ccmt
    | 2 => subThree w .cset
    | _ => .error .field
  | 0x7B => match xhiOf w with
    | 0 => subForm w .rfence
    | 1 => withCode (decFlag (xloOf w)) fun c =>
        withPred w fun p => .cstat p c (bv9 (tbOf w)) (bv9 (taOf w))
    | _ => .error .field
  | 0x7C => match xhiOf w with
    | 0 => bareForm w .trap
    | 1 => withCode (decFlag (xloOf w)) fun r =>
        needs (noTargets w) (withPred w fun p => if r then .tretRetry p else .tret p)
    | _ => .error .field
  | 0x7D => match xhiOf w with
    | 0 => bareForm w .ppt
    | 1 => bareForm w .halt
    | _ => .error .field
  | 0x7E => match xhiOf w with
    | 0 => subForm w .sysr
    | 1 => needs (xloOf w == 0 && tbOf w == 511) (withPred w fun p => .sysw p (bv9 (taOf w)))
    | _ => .error .field
  | _ => .error .opcode

/-- Why an instruction that a word holds is not well-formed: a reserved target before an illegal register (R141). -/
def illFormed : Instr → Reject
  | .rd _ tb8 ta8 => if gTargetOk tb8 && gTargetOk ta8 then .register else .target
  | .rdt _ tb8 ta8 => if gTargetOk tb8 && gTargetOk ta8 then .register else .target
  | .wr _ => .register
  | _ => .target

/-- The instruction of a word, or the lowest reason of R140 that the word alone shows. -/
def decodeNat (w : Nat) : Except Reject Instr :=
  match readFields w with
  | .error e => .error e
  | .ok i => if wellFormed i then .ok i else .error (illFormed i)

/-- The instruction of a 32-bit word. -/
def decode (w : BitVec 32) : Except Reject Instr := decodeNat w.toNat

/-! ### Encoding -/

/-- format A: op, pm, xop, tb, ta (R129) -/
def encA (op pm xop tb ta : Nat) : Nat :=
  op * 2 ^ 25 + pm * 2 ^ 23 + xop * 2 ^ 18 + tb * 2 ^ 9 + ta
/-- format I: op, pm, imm14, ta -/
def encI (op pm imm ta : Nat) : Nat := op * 2 ^ 25 + pm * 2 ^ 23 + imm * 2 ^ 9 + ta
/-- format K: op, imm16, ta -/
def encK (op imm ta : Nat) : Nat := op * 2 ^ 25 + imm * 2 ^ 9 + ta
/-- format M: op, pm, lsid, imm9, ta -/
def encM (op pm lsid imm ta : Nat) : Nat := encA op pm lsid imm ta
/-- format S: op, pm, lsid, imm18 -/
def encS (op pm lsid imm : Nat) : Nat := op * 2 ^ 25 + pm * 2 ^ 23 + lsid * 2 ^ 18 + imm
/-- format B: op, pm, exit, off20 -/
def encB (op pm e off : Nat) : Nat := op * 2 ^ 25 + pm * 2 ^ 23 + e * 2 ^ 20 + off
/-- format G: op, class, number, tb8, ta8 -/
def encG (op cls num tb ta : Nat) : Nat :=
  op * 2 ^ 25 + cls * 2 ^ 22 + num * 2 ^ 16 + tb * 2 ^ 8 + ta

/-- The word of an encoded instruction; an event has none. -/
def encodeNat : Instr → Option Nat
  | .br p e off20 => some (encB 0x01 (encPred p) e.toNat off20.toNat)
  | .bri p e => some (encA 0x02 (encPred p) (e.toNat * 4) 511 511)
  | .call p e off20 => some (encB 0x03 (encPred p) e.toNat off20.toNat)
  | .calli p e => some (encA 0x04 (encPred p) (e.toNat * 4) 511 511)
  | .ret p e => some (encA 0x05 (encPred p) (e.toNat * 4) 511 511)
  | .lpb level exitOff ta => some (encI 0x06 0 (level.toNat * 4096 + exitOff.toNat) ta.toNat)
  | .lpx p e off20 => some (encB 0x07 (encPred p) e.toNat off20.toNat)
  | .hnt hint => some (encK 0x08 (encHint hint) 511)
  | .genc imm16 ta => some (encK 0x09 imm16.toNat ta.toNat)
  | .app imm16 ta => some (encK 0x0A imm16.toNat ta.toNat)
  | .mov p tb ta => some (encA 0x0B (encPred p) 0 tb.toNat ta.toNat)
  | .nul p tb ta => some (encA 0x0C (encPred p) 0 tb.toNat ta.toNat)
  | .rd reg tb8 ta8 => some (encG 0x0D reg.cls.toNat reg.num.toNat tb8.toNat ta8.toNat)
  | .rdt reg tb8 ta8 => some (encG 0x0E reg.cls.toNat reg.num.toNat tb8.toNat ta8.toNat)
  | .wr reg => some (encG 0x0F reg.cls.toNat reg.num.toNat 0 0)
  | .add p ty mode tb ta => some (encA 0x10 (encPred p) ((encIntType ty) * 4 + (encSatMode mode)) tb.toNat ta.toNat)
  | .sub p ty mode tb ta => some (encA 0x11 (encPred p) ((encIntType ty) * 4 + (encSatMode mode)) tb.toNat ta.toNat)
  | .mul p ty mode tb ta => some (encA 0x12 (encPred p) ((encIntType ty) * 4 + (encSatMode mode)) tb.toNat ta.toNat)
  | .mulh p ty tb ta => some (encA 0x13 (encPred p) ((encIntType ty) * 4) tb.toNat ta.toNat)
  | .div p ty tb ta => some (encA 0x14 (encPred p) ((encIntType ty) * 4) tb.toNat ta.toNat)
  | .rem p ty tb ta => some (encA 0x15 (encPred p) ((encIntType ty) * 4) tb.toNat ta.toNat)
  | .andI p ty tb ta => some (encA 0x16 (encPred p) ((encIntType ty) * 4) tb.toNat ta.toNat)
  | .orI p ty tb ta => some (encA 0x17 (encPred p) ((encIntType ty) * 4) tb.toNat ta.toNat)
  | .xorI p ty tb ta => some (encA 0x18 (encPred p) ((encIntType ty) * 4) tb.toNat ta.toNat)
  | .shl p ty tb ta => some (encA 0x19 (encPred p) ((encIntType ty) * 4) tb.toNat ta.toNat)
  | .shr p ty tb ta => some (encA 0x1A (encPred p) ((encIntType ty) * 4) tb.toNat ta.toNat)
  | .sar p ty tb ta => some (encA 0x1B (encPred p) ((encIntType ty) * 4) tb.toNat ta.toNat)
  | .minI p ty tb ta => some (encA 0x1C (encPred p) ((encIntType ty) * 4) tb.toNat ta.toNat)
  | .maxI p ty tb ta => some (encA 0x1D (encPred p) ((encIntType ty) * 4) tb.toNat ta.toNat)
  | .cmp p ty cond tb ta => some (encA 0x1E (encPred p) ((encIntType ty) * 4 + (encCond cond)) tb.toNat ta.toNat)
  | .sel tb ta => some (encA 0x1F 0 0 tb.toNat ta.toNat)
  | .addi p imm14 ta => some (encI 0x20 (encPred p) imm14.toNat ta.toNat)
  | .muli p imm14 ta => some (encI 0x21 (encPred p) imm14.toNat ta.toNat)
  | .andi p imm14 ta => some (encI 0x22 (encPred p) imm14.toNat ta.toNat)
  | .ori p imm14 ta => some (encI 0x23 (encPred p) imm14.toNat ta.toNat)
  | .xori p imm14 ta => some (encI 0x24 (encPred p) imm14.toNat ta.toNat)
  | .shli p sh6 ta => some (encI 0x25 (encPred p) sh6.toNat ta.toNat)
  | .shri p sh6 ta => some (encI 0x26 (encPred p) sh6.toNat ta.toNat)
  | .sari p sh6 ta => some (encI 0x27 (encPred p) sh6.toNat ta.toNat)
  | .ceqi p imm14 ta => some (encI 0x28 (encPred p) imm14.toNat ta.toNat)
  | .cnei p imm14 ta => some (encI 0x29 (encPred p) imm14.toNat ta.toNat)
  | .clti p imm14 ta => some (encI 0x2A (encPred p) imm14.toNat ta.toNat)
  | .cgei p imm14 ta => some (encI 0x2B (encPred p) imm14.toNat ta.toNat)
  | .lea p scale tb ta => some (encA 0x2C (encPred p) ((encLeaScale scale) * 4) tb.toNat ta.toNat)
  | .slice p slsel tb ta => some (encA 0x2D (encPred p) ((encSliceSel slsel) * 4) tb.toNat ta.toNat)
  | .bits p bop tb ta => some (encA 0x2E (encPred p) ((encBitsOp bop) * 4) tb.toNat ta.toNat)
  | .ldN8 p lsid imm9 ta => some (encM 0x30 (encPred p) lsid.toNat imm9.toNat ta.toNat)
  | .ldI8 p lsid imm9 ta => some (encM 0x31 (encPred p) lsid.toNat imm9.toNat ta.toNat)
  | .ldN16 p lsid imm9 ta => some (encM 0x32 (encPred p) lsid.toNat imm9.toNat ta.toNat)
  | .ldI16 p lsid imm9 ta => some (encM 0x33 (encPred p) lsid.toNat imm9.toNat ta.toNat)
  | .ldN32 p lsid imm9 ta => some (encM 0x34 (encPred p) lsid.toNat imm9.toNat ta.toNat)
  | .ldI32 p lsid imm9 ta => some (encM 0x35 (encPred p) lsid.toNat imm9.toNat ta.toNat)
  | .ld64 p lsid imm9 ta => some (encM 0x36 (encPred p) lsid.toNat imm9.toNat ta.toNat)
  | .st8 p lsid imm18 => some (encS 0x37 (encPred p) lsid.toNat imm18.toNat)
  | .st16 p lsid imm18 => some (encS 0x38 (encPred p) lsid.toNat imm18.toNat)
  | .st32 p lsid imm18 => some (encS 0x39 (encPred p) lsid.toNat imm18.toNat)
  | .st64 p lsid imm18 => some (encS 0x3A (encPred p) lsid.toNat imm18.toNat)
  | .lds p lsid imm9 ta => some (encM 0x3B (encPred p) lsid.toNat imm9.toNat ta.toNat)
  | .sts p lsid imm18 => some (encS 0x3C (encPred p) lsid.toNat imm18.toNat)
  | .amo p aop aty tb ta => some (encA 0x3D (encPred p) ((encAmoOp aop) * 4 + (encAmoType aty)) tb.toNat ta.toNat)
  | .bump p tb ta => some (encA 0x3E (encPred p) 0 tb.toNat ta.toNat)
  | .pref p imm9 => some (encM 0x3F (encPred p) 0 imm9.toNat 511)
  | .vadd p vt mode tb ta => some (encA 0x40 (encPred p) ((encVecType vt) * 4 + (encSatMode mode)) tb.toNat ta.toNat)
  | .vsub p vt mode tb ta => some (encA 0x41 (encPred p) ((encVecType vt) * 4 + (encSatMode mode)) tb.toNat ta.toNat)
  | .vmul p vt mode tb ta => some (encA 0x42 (encPred p) ((encVecType vt) * 4 + (encSatMode mode)) tb.toNat ta.toNat)
  | .vfma fvt fmode tb ta => some (encA 0x43 0 ((encFloatType fvt) * 4 + (encFmaMode fmode)) tb.toNat ta.toNat)
  | .vmin p vt tb ta => some (encA 0x44 (encPred p) ((encVecType vt) * 4) tb.toNat ta.toNat)
  | .vmax p vt tb ta => some (encA 0x45 (encPred p) ((encVecType vt) * 4) tb.toNat ta.toNat)
  | .vcmp p vt cond tb ta => some (encA 0x46 (encPred p) ((encVecType vt) * 4 + (encCond cond)) tb.toNat ta.toNat)
  | .vsel half tb ta => some (encA 0x47 0 ((encFlag half) * 4) tb.toNat ta.toNat)
  | .vand p tb ta => some (encA 0x48 (encPred p) 0 tb.toNat ta.toNat)
  | .vor p tb ta => some (encA 0x49 (encPred p) 0 tb.toNat ta.toNat)
  | .vxor p tb ta => some (encA 0x4A (encPred p) 0 tb.toNat ta.toNat)
  | .vshf p shf tb ta => some (encA 0x4B (encPred p) ((encShufMode shf) * 4) tb.toNat ta.toNat)
  | .vbcst p bc tb ta => some (encA 0x4C (encPred p) ((encBcastMode bc) * 4) tb.toNat ta.toNat)
  | .vins half tb ta => some (encA 0x4D 0 ((encFlag half) * 4) tb.toNat ta.toNat)
  | .vext p vx tb ta => some (encA 0x4E (encPred p) ((encExtMode vx) * 4) tb.toNat ta.toNat)
  | .vmsk p half tb ta => some (encA 0x4F (encPred p) ((encFlag half) * 4) tb.toNat ta.toNat)
  | .vcvt p cvt tb ta => some (encA 0x50 (encPred p) (encCvtCode cvt) tb.toNat ta.toNat)
  | .vred p vt red tb ta => some (encA 0x51 (encPred p) ((encVecType vt) * 4 + (encRedMode red)) tb.toNat ta.toNat)
  | .vexp2 p tb ta => some (encA 0x52 (encPred p) 0 tb.toNat ta.toNat)
  | .vrcp p tb ta => some (encA 0x53 (encPred p) 0 tb.toNat ta.toNat)
  | .vrsq p tb ta => some (encA 0x54 (encPred p) 0 tb.toNat ta.toNat)
  | .tld p buf tb ta => some (encA 0x55 (encPred p) (buf.toNat * 8) tb.toNat ta.toNat)
  | .tli p buf tb ta => some (encA 0x56 (encPred p) (buf.toNat * 8) tb.toNat ta.toNat)
  | .vun p vt unop tb ta => some (encA 0x57 (encPred p) ((encVecType vt) * 4 + (encUnMode unop)) tb.toNat ta.toNat)
  | .vld p lsid imm9 ta => some (encM 0x58 (encPred p) lsid.toNat imm9.toNat ta.toNat)
  | .vst p lsid imm18 => some (encS 0x59 (encPred p) lsid.toNat imm18.toNat)
  | .vldx p half tb ta => some (encA 0x5A (encPred p) ((encFlag half) * 4) tb.toNat ta.toNat)
  | .vstx lsid => some (encA 0x5B 0 lsid.toNat 511 511)
  | .mprog p tb ta => some (encA 0x60 (encPred p) 0 tb.toNat ta.toNat)
  | .mlw p => some (encA 0x61 (encPred p) 0 511 511)
  | .mlwS  => some (encA 0x61 0 4 511 511)
  | .mma p => some (encA 0x62 (encPred p) 0 511 511)
  | .mmaS  => some (encA 0x62 0 4 511 511)
  | .mst p => some (encA 0x63 (encPred p) 0 511 511)
  | .mzr p => some (encA 0x64 (encPred p) 0 511 511)
  | .mstg p stg tb ta => some (encA 0x65 (encPred p) (stg.toNat) tb.toNat ta.toNat)
  | .mstgS stg tb ta => some (encA 0x65 0 (4 + stg.toNat) tb.toNat ta.toNat)
  | .mres p => some (encA 0x66 (encPred p) 0 511 511)
  | .mresDrop p => some (encA 0x66 (encPred p) 4 511 511)
  | .mmov p mmode => some (encA 0x67 (encPred p) ((encMmovMode mmode) * 4) 511 511)
  | .cpy p tb ta => some (encA 0x68 (encPred p) 0 tb.toNat ta.toNat)
  | .cpyDeal p tb ta => some (encA 0x68 (encPred p) 4 tb.toNat ta.toNat)
  | .cpyGath p tb ta => some (encA 0x68 (encPred p) 8 tb.toNat ta.toNat)
  | .cpyBin p tb ta => some (encA 0x68 (encPred p) 12 tb.toNat ta.toNat)
  | .cpyX p tb ta => some (encA 0x68 (encPred p) 16 tb.toNat ta.toNat)
  | .sacq p tb ta => some (encA 0x69 (encPred p) 0 tb.toNat ta.toNat)
  | .sacqp p tb ta => some (encA 0x6A (encPred p) 0 tb.toNat ta.toNat)
  | .slpt p tb ta => some (encA 0x6B (encPred p) 0 tb.toNat ta.toNat)
  | .chb p q tb ta => some (encA 0x6C (encPred p) (q.toNat * 4) tb.toNat ta.toNat)
  | .chu p q => some (encA 0x6D (encPred p) (q.toNat * 4) 511 511)
  | .str p q vecS tb ta => some (encA 0x6E (encPred p) (q.toNat * 4 + (encFlag vecS)) tb.toNat ta.toNat)
  | .fence p scope fkind => some (encA 0x70 (encPred p) ((encScope scope) * 4 + (encFenceKind fkind)) 511 511)
  | .tadv p level tb ta => some (encA 0x71 (encPred p) (level.toNat) tb.toNat ta.toNat)
  | .tset p tb ta => some (encA 0x72 (encPred p) 0 tb.toNat ta.toNat)
  | .fwait p tb ta => some (encA 0x73 (encPred p) 0 tb.toNat ta.toNat)
  | .join p tb ta => some (encA 0x74 (encPred p) 0 tb.toNat ta.toNat)
  | .leave p exit tb ta => some (encA 0x74 (encPred p) (4 + (encFlag exit)) tb.toNat ta.toNat)
  | .spawn tb ta => some (encA 0x75 0 0 tb.toNat ta.toNat)
  | .spawnAt tb ta => some (encA 0x75 0 4 tb.toNat ta.toNat)
  | .fill p fsel => some (encA 0x76 (encPred p) fsel.toNat 511 511)
  | .park p => some (encA 0x77 (encPred p) 0 511 511)
  | .wake p => some (encA 0x77 (encPred p) 4 511 511)
  | .yld p => some (encA 0x77 (encPred p) 8 511 511)
  | .cbind tb ta => some (encA 0x78 0 0 tb.toNat ta.toNat)
  | .cunb p tb ta => some (encA 0x78 (encPred p) 4 tb.toNat ta.toNat)
  | .crd p tb ta => some (encA 0x79 (encPred p) 0 tb.toNat ta.toNat)
  | .crel p tb ta => some (encA 0x79 (encPred p) 4 tb.toNat ta.toNat)
  | .cwr p tb ta => some (encA 0x7A (encPred p) 0 tb.toNat ta.toNat)
  | .ccmt p tb ta => some (encA 0x7A (encPred p) 4 tb.toNat ta.toNat)
  | .cset tb ta => some (encA 0x7A 0 8 tb.toNat ta.toNat)
  | .rfence p tb ta => some (encA 0x7B (encPred p) 0 tb.toNat ta.toNat)
  | .cstat p clr tb ta => some (encA 0x7B (encPred p) (4 + (encFlag clr)) tb.toNat ta.toNat)
  | .trap p => some (encA 0x7C (encPred p) 0 511 511)
  | .tret p => some (encA 0x7C (encPred p) 4 511 511)
  | .tretRetry p => some (encA 0x7C (encPred p) (4 + 1) 511 511)
  | .ppt p => some (encA 0x7D (encPred p) 0 511 511)
  | .halt p => some (encA 0x7D (encPred p) 4 511 511)
  | .sysr p tb ta => some (encA 0x7E (encPred p) 0 tb.toNat ta.toNat)
  | .sysw p ta => some (encA 0x7E (encPred p) 4 511 ta.toNat)
  | .powerOnReset
  | .stretchEnd _
  | .dieFence _
  | .leaseRenewal _
  | .leaseExpiry _
  | .leaseClaim _ _ _
  | .leaseGrant _ _ _
  | .queueDoorbell _ _ _
  | .recordUpdate _ _ _
  | .rootPacket _
  | .gangPacket _
  | .placementPass _
  | .reserve _ _ _
  | .reserveAck _ _ _
  | .multiReady _
  | .multiCommit _
  | .multiAbort _
  | .multiReadyTimeout _
  | .timerWheelRelease _
  | .waitPoll _
  | .watchdogPeriod _
  | .stealRequest _ _
  | .stealReply _
  | .stealBackoff _
  | .blockLoad _ _
  | .tokenDelivery _
  | .blockCommit _ _ _
  | .fillArrival _
  | .wakeArrival _
  | .reportWordAdd _ _ _
  | .ownerAccess _
  | .storeWordApply _
  | .storeAcknowledgement _ _ _
  | .ldsStsRefusal _
  | .ldsStsResend _
  | .pageWalk _ _ _
  | .wellheadRequest _
  | .invalidationComplete
  | .commandHandover _
  | .siphonStart _
  | .copyCompletion _
  | .followOnStart _
  | .matrixHandover _
  | .mprogInstall _
  | .mlwExecution _
  | .mmaExecution _
  | .mstExecution _
  | .mzrExecution _
  | .mmovExecution _
  | .mresExecution _
  | .promiseMissed _ _
  | .slptWake _ _
  | .yldExpiry _ _
  | .standpipePush _ _ _ _ _ _ _
  | .creditReturn _ _
  | .streamReadAhead _ _
  | .routerGrant _ _
  | .slackDecrement _ _
  | .routerPowerDown _
  | .routerWake _
  | .dataFlit _ _
  | .idleFlit _ _
  | .replayFlit _ _
  | .auditInsertion _
  | .auditFlit _ _ _ _
  | .restitutionFlit _ _ _
  | .clampFlit _ _ _
  | .portRetrain _
  | .restartFlit _ _ _
  | .retrainTimeout _
  | .scopeMiss _
  | .batchAgeExpiry _
  | .deltaBatch _
  | .batchApply _ _ _ _
  | .sweepRequest _ _ _
  | .sweepComplete
  | .frontierAnnouncement _ _ _
  | .launchEnd _
  | .reportTimeout _
  | .heldDecision _
  | .mark _
  | .markAck _ _ _
  | .taskDispatch _
  | .fackRetry _ _
  | .fackTrap _ _
  | .fackEnd _ _
  | .parkTimeout _
  | .preemptTimeout _ _ _
  | .swapOut _ _
  | .restore _ _
  | .ctxout _ _
  | .resume _ _
  | .cutMarker _ _
  | .cellInstall _ _
  | .cellRemove _ _
  | .registerWrite _ _ _
  | .reportAcknowledgement _
  | .recoveryImageReply _ _
  | .fwstageGo
  | .devmodeWrite _ _
  | .supplySag _
  | .junctionTemperature _ _
  | .uncorrectableEcc _ _
  | .ieee1588Sync _
  | .tickLockLoss
  | .admqhostEnable _ _
  | .admqhostDisable _ _
  | .recordFetchReply _ _ _
  | .qcreate
  | .qdestroy
  | .wait _
  | .xinvcWrite _
  | .sttailWrite _ _
  | .alignmentLoss _
  | .preqWrite _ _
  | .svccfgWrite _ _
  | .cutctlGo _
  | .cutctlResume
  | .hrptcfgWrite _
  | .nodeidWrite _ _
  | .sflagsClear _ _
  | .readClear _ _
  | .readControlWindow _
  | .writeControlWindow _ _
  | .attestation _
  | .fenceDie _
  | .readCertificate
  | .setRecoveryList _ _
  | .readRecoveryList
  | .unknownCommand _
  | .entdaa _
  | .setdasa _ _
  | .rstdaa
  | .getpid
  | .getbcr
  | .getdcr
  | .getstatus
  | .enec _
  | .disec _
  | .rstact _
  | .correctedEccError _
  | .powerLoss _ => none

/-- The 32-bit word of an encoded instruction. -/
def encode (i : Instr) : Option (BitVec 32) := (encodeNat i).map (BitVec.ofNat 32)

/-- The instruction of a table row whose bits are w (the table gives 32 bits to each encoded row and none
to an event). -/
def decodeTableWord (nbits w : Nat) : Option Instr :=
  if nbits = 32 then (decodeNat (w % 2 ^ 32)).toOption else none

end Sys2Proof
end

