-- ==== Sys2Proof/Machine/Words.lean ====
section
/-! DEFINITION. Instruction words as they stand in a block: formats, targets, operand slots and the classes of
instruction that the limits of a block name (R129, R131-R135, R139). -/

namespace Sys2Proof.Machine

open Sys2Proof

/-- The formats of R129. -/
inductive Format | a | i | k | m | s | b | g
  deriving DecidableEq, Repr

/-- The format of each assigned opcode (R136). -/
def opFormat (op : Nat) : Option Format :=
  if op = 0 || op = 0x2F || op = 0x5C || op = 0x5D || op = 0x5E || op = 0x5F || op = 0x6F ||
    op ≥ 0x7F then none
  else if op = 0x01 || op = 0x03 || op = 0x07 then some .b
  else if op = 0x06 || (0x20 ≤ op && op ≤ 0x2B) then some .i
  else if 0x08 ≤ op && op ≤ 0x0A then some .k
  else if 0x0D ≤ op && op ≤ 0x0F then some .g
  else if (0x30 ≤ op && op ≤ 0x36) || op = 0x3B || op = 0x3F || op = 0x58 then some .m
  else if (0x37 ≤ op && op ≤ 0x3A) || op = 0x3C || op = 0x59 then some .s
  else some .a

/-- The operand slots `.l`, `.r`, `.p` as numbers 0, 1, 2. -/
abbrev SlotKind := Nat

/-- A target field (R131, R132): none, a reserved value, or a slot of an instruction. -/
inductive TargetField
  | none
  | reserved
  | slot (index : Nat) (kind : SlotKind)
  deriving DecidableEq, Repr

/-- A 9-bit target (R131). -/
def target9 (t : Nat) : TargetField :=
  if t / 128 = 3 then (if t = 511 then .none else .reserved) else .slot (t % 128) (t / 128)

/-- An 8-bit target of format G (R132). -/
def target8 (t : Nat) : TargetField :=
  if t = 0 then .none else if t = 128 then .reserved else .slot (t % 128) (t / 128)

/-- The target fields of a word, ta first. -/
def wordTargets (w : Nat) : List TargetField :=
  match opFormat (opOf w) with
  | some .a => [target9 (taOf w), target9 (tbOf w)]
  | some .i | some .k | some .m => [target9 (taOf w)]
  | some .g => [target8 (w % 256), target8 (w / 256 % 256)]
  | _ => []

/-- The data slots that the entry of an instruction gives it, by opcode and xop. -/
def dataSlots (w : Nat) : List SlotKind :=
  let op := opOf w
  let x := xhiOf w
  if op = 0x02 || op = 0x04 || op = 0x05 || op = 0x06 || op = 0x0A || op = 0x0B || op = 0x0F then [0]
  else if 0x10 ≤ op && op ≤ 0x1E then [0, 1]
  else if op = 0x1F then [0, 1, 2]
  else if 0x20 ≤ op && op ≤ 0x2B then [0]
  else if op = 0x2C || op = 0x2D then [0, 1]
  else if op = 0x2E then (if x < 2 then [0, 1] else [0])
  else if 0x30 ≤ op && op ≤ 0x36 then [0]
  else if 0x37 ≤ op && op ≤ 0x3A then [0, 1]
  else if op = 0x3B || op = 0x3F then [0]
  else if op = 0x3C || op = 0x3E then [0, 1]
  else if op = 0x3D then (if x = 6 then [0, 1, 2] else [0, 1])
  else if op = 0x43 || op = 0x47 || op = 0x4D || op = 0x5B then [0, 1, 2]
  else if op = 0x4C then (if x = 2 then [0] else [0, 1])
  else if 0x40 ≤ op && op ≤ 0x4F then [0, 1]
  else if 0x50 ≤ op && op ≤ 0x58 then [0]
  else if op = 0x59 || op = 0x5A then [0, 1]
  else if op = 0x60 || op = 0x63 || op = 0x64 || op = 0x67 then [0, 1]
  else if op = 0x61 || op = 0x62 || op = 0x65 then (if x = 1 then [0, 1, 2] else [0, 1])
  else if op = 0x66 then [0]
  else if op = 0x68 || op = 0x6A || op = 0x6E then [0, 1]
  else if op = 0x69 || op = 0x6B || op = 0x6C then [0]
  else if 0x71 ≤ op && op ≤ 0x73 then [0]
  else if op = 0x74 then (if x = 0 then [0] else [])
  else if op = 0x75 then (if x < 2 then [0, 1, 2] else [])
  else if op = 0x76 then [0, 1]
  else if op = 0x77 then (if x = 1 || x = 2 then [0] else [])
  else if op = 0x78 then (if x = 0 then [0, 1, 2] else if x = 1 then [0, 1] else [])
  else if op = 0x79 then (if x = 0 then [0] else if x = 1 then [0, 1] else [])
  else if op = 0x7A then (if x < 2 then [0, 1] else if x = 2 then [0, 1, 2] else [])
  else if op = 0x7B then (if x = 0 then [0] else if x = 1 then [0, 1] else [])
  else if op = 0x7C then (if x = 0 || (x = 1 && xloOf w = 0) then [0] else [])
  else if op = 0x7D then (if x = 0 then [0, 1] else [])
  else if op = 0x7E then (if x = 0 then [0] else if x = 1 then [0, 1] else [])
  else []

/-- Whether a format carries a predicate field (R129). -/
def hasPredicateField (w : Nat) : Bool :=
  match opFormat (opOf w) with
  | some .k | some .g | none => false
  | _ => opOf w != 0x06

/-- Whether the instruction is predicated: pm 10 or 11 (R135). -/
def isPredicated (w : Nat) : Bool := hasPredicateField w && decide (2 ≤ pmOf w)

/-- Every slot that an instruction uses (R133). -/
def usedSlots (w : Nat) : List SlotKind :=
  let d := dataSlots w
  if isPredicated w && !d.contains 2 then d ++ [2] else d

/-- Whether a word names slot k of instruction i. -/
def namesSlot (w i : Nat) (k : SlotKind) : Bool := (wordTargets w).contains (.slot i k)

/-! ### Classes of instruction (R139) -/

def isExit (w : Nat) : Bool :=
  let op := opOf w
  (0x01 ≤ op && op ≤ 0x05) || op = 0x07 || (op = 0x7C && xhiOf w = 1)

/-- The engine commands (R139, R282; MSTG is none, R297). -/
def isEngine (w : Nat) : Bool :=
  let op := opOf w
  (0x60 ≤ op && op ≤ 0x64) || op = 0x66 || op = 0x67 || op = 0x68

/-- reg9 of format G: class and number. -/
def regClass (w : Nat) : Nat := w / 2 ^ 22 % 8
def regNum (w : Nat) : Nat := w / 2 ^ 16 % 64

def isRead (w : Nat) : Bool := opOf w = 0x0D || opOf w = 0x0E
def isWr (w : Nat) : Bool := opOf w = 0x0F

/-- The taking operations (R161, R242). -/
def isTaking (w : Nat) : Bool :=
  let op := opOf w
  op = 0x3B || op = 0x3C || op = 0x3D || op = 0x3E || (isRead w && regClass w = 3 && regNum w < 4)

/-- The loads that carry an LSID (R229). -/
def isLoadOp (op : Nat) : Bool := (0x30 ≤ op && op ≤ 0x36) || op = 0x58
/-- The stores that carry an LSID and forward, STS aside (R229, R240). -/
def isStoreOp (op : Nat) : Bool := (0x37 ≤ op && op ≤ 0x3A) || op = 0x59 || op = 0x5B

/-- The LSID of a load or store (R139). -/
def wordLsid (w : Nat) : Option Nat :=
  let op := opOf w
  if isLoadOp op || isStoreOp op || op = 0x3B || op = 0x3C then some (xopOf w) else none

/-- Whether the LSID stands in the store mask (R126, R240, R246). -/
def inStoreMask (w : Nat) : Bool := isStoreOp (opOf w) || opOf w = 0x3C

/-- The instructions whose entry defines a vector result (R139). -/
def hasVectorResult (w : Nat) : Bool :=
  let op := opOf w
  (0x40 ≤ op && op ≤ 0x4D) || op = 0x4F || op = 0x50 || (0x52 ≤ op && op ≤ 0x54) || op = 0x56 ||
    op = 0x57 || op = 0x58 || op = 0x5A || (isRead w && regClass w = 1)

/-- TADV, TSET, RFENCE, JOIN, LEAVE (R361). -/
def isTime (w : Nat) : Bool :=
  let op := opOf w
  op = 0x71 || op = 0x72 || op = 0x74 || (op = 0x7B && xhiOf w = 0)

def isHint (w : Nat) : Bool := opOf w = 0x08
/-- KIND of an HNT (R142). -/
def hintKind (w : Nat) : Nat := imm16Of w / 2 ^ 12

/-- Whether the entry of an instruction accepts a hint of that kind: 0 SLACK, 1 ROUND, 2 STREAM (R192, R239,
R254, R345). -/
def acceptsHint (w kind : Nat) : Bool :=
  let op := opOf w
  let mem := (0x30 ≤ op && op ≤ 0x3F) || (0x58 ≤ op && op ≤ 0x5B)
  match kind with
  | 0 => mem || op = 0x55 || op = 0x68 || op = 0x76 || (op = 0x77 && xhiOf w = 1)
  | 1 => op = 0x50 || op = 0x68
  | 2 => mem || op = 0x55 || op = 0x68
  | _ => false

end Sys2Proof.Machine
end

