-- ==== Sys2Proof/Machine/Clock.lean ====
section
/-! DEFINITION. Where things are (R11-R14, R218), and the clocks of the dies: a die whose clock is stretched skips every other cycle
(R430). -/

namespace Sys2Proof.Machine

open Sys2Proof

/-! ### Where things are (R11-R14) -/

/-- The die of a core. -/
def dieOf (c : Nat) : Nat := c / 576
/-- The row and column of a core on its die (R11). -/
def rowOf (c : Nat) : Nat := c % 576 / 24
def colOf (c : Nat) : Nat := c % 24
def coreNum (die row col : Nat) : Nat := die * 576 + row * 24 + col
/-- The region of a core (R12). -/
def regionOf (c : Nat) : Nat := dieOf c * 72 + rowOf c / 2 * 6 + colOf c / 4
/-- The eight cores of a region, in ascending core number (R12). -/
def regionCores (r : Nat) : List Nat :=
  let d := r / 72
  let b := r % 72 / 6
  let a := r % 6
  (List.range 8).map fun i => coreNum d (2 * b + i / 4) (4 * a + i % 4)

/-! ### Owners and homes (R21, R218) -/

/-- The owner of a physical address (R218, R325). -/
inductive Owner
  | gddr (die well : Nat)
  | cistern (core off : Nat)
  | control (off : Nat)
  | fabric (node addr : Nat)
  | nothing
  deriving DecidableEq, Repr

def gddrTop : Nat := 0x30_0000_0000
def cisternBase : Nat := 0x40_0000_0000
def cisternSize : Nat := 0x14_0000
def controlBase : Nat := 0x48_0000_0000

/-- The owner of a physical address below the fabric window. -/
def localOwner (pa : Nat) : Owner :=
  if pa < gddrTop then .gddr (pa / 0xC_0000_0000) (pa % 0xC_0000_0000 / 256 % 48)
  else if cisternBase ≤ pa && pa < cisternBase + 0x20_0000 * 2304 then
    let c := (pa - cisternBase) / 0x20_0000
    let o := (pa - cisternBase) % 0x20_0000
    if o < cisternSize then .cistern c o else .nothing
  else if controlBase ≤ pa && pa < controlBase + 0x1000_0000 then .control (pa - controlBase)
  else .nothing

/-- The home core and directory index of a cell ID (R21); none when the core-in-die exceeds 575. -/
def cellHome (id : Nat) : Option (Nat × Nat) :=
  let d := id / 65536 % 4
  let o := id / 64 % 1024
  if o < 576 then some (d * 576 + o, id % 64) else none
/-- The cell that `.l` of a cell instruction names: none when bits 63:18 are not 0 (R343). -/
def cellNamed (l : Word) : Option (Nat × Nat) := if l.toNat < 2 ^ 18 then cellHome l.toNat else none

/-! ### What the clock of a die drives (R15, R430) -/

/-- The core that a delivery goes to. -/
def deliveryDie : Delivery → Nat
  | .tokens id _ _ | .bytes id _ | .taken id _ _ | .noMemory id _ => dieOf id.core
  | .cell r => dieOf r.id.core
  | .engine e _ => match e with
    | .siphon n _ => n / 16
    | .matrix c _ | .loader c _ _ => dieOf c
    | .walker d _ _ | .adder d _ => d

/-- The die of the core that owns a physical address. -/
def cisternDie (pa : Nat) : Option Nat :=
  match localOwner pa with
  | .cistern c _ => some (dieOf c)
  | _ => none

/-- The die of the home core of a cell. -/
def homeDie (l : Word) : Option Nat := (cellNamed l).map fun h => dieOf h.1

/-- The die whose arithmetic clock an event waits for: those of its cores, its routers, its siphons and its matrix units (R15). -/
def eventDie (e : Instr) : Option Nat :=
  match e with
  | .stretchEnd d => some d
  | .reserve c _ _ | .stealRequest c _ | .stealBackoff c | .blockLoad c _ | .blockCommit c _ _ | .reportWordAdd c _ _
  | .storeAcknowledgement c _ _ | .commandHandover c | .followOnStart c | .matrixHandover c | .mprogInstall c | .mlwExecution c
  | .mmaExecution c | .mstExecution c | .mzrExecution c | .mmovExecution c | .mresExecution c | .promiseMissed c _ | .slptWake c _
  | .yldExpiry c _ | .creditReturn c _ | .streamReadAhead c _ | .routerGrant c _ | .routerPowerDown c | .routerWake c
  | .batchAgeExpiry c | .deltaBatch c | .frontierAnnouncement c _ _ | .markAck c _ _ | .taskDispatch c | .fackRetry c _
  | .fackTrap c _ | .fackEnd c _ | .parkTimeout c | .preemptTimeout c _ _ | .swapOut c _ | .restore c _ | .ctxout c _ | .resume c _
  | .cutMarker c _ | .cellInstall c _ | .cellRemove c _ | .sttailWrite c _ | .preqWrite c _ | .svccfgWrite c _ => some (dieOf c)
  | .sweepRequest c _ _ | .slackDecrement c _ => if c < 2304 then some (dieOf c) else none
  | .stealReply s => some (dieOf s.thief)
  | .tokenDelivery d => some (deliveryDie d)
  | .fillArrival m | .wakeArrival m => some (dieOf m.core)
  | .ownerAccess r => cisternDie (r.bytes.headD (0, 0)).2
  | .storeWordApply w => cisternDie (w.word * 8)
  | .ldsStsRefusal r | .ldsStsResend r => some (dieOf r.id.core)
  | .scopeMiss w => some (dieOf w.core)
  | .siphonStart n | .copyCompletion n => some (n / 16)
  | .standpipePush _ dst _ _ _ _ _ => some (dieOf dst.1)
  | .heldDecision r => homeDie r.cell
  | .mark m => homeDie (word m.cell)
  | _ => none

/-- Whether the clock of a die stands still in this cycle. -/
def dieSkips (s : State) (d : Nat) : Bool := (mget Die.reset s.dies d).skips
def eventSkips (s : State) (e : Instr) : Bool := (eventDie e).elim false (dieSkips s)

/-- The cycles that a core has had: those of the module less those that its die has skipped. -/
def coreCycle (s : State) (c : Nat) : Nat := s.cycle - (mget Die.reset s.dies (dieOf c)).lag

/-! ### A skipped cycle (R430)

What counts cycles of a die's clock moves on by one cycle with it, so that no time passes for it. -/

def shiftWait : Wait → Wait
  | .yielding n => .yielding (n + 1)
  | w => w

def shiftThread (t : Thread) : Thread :=
  { t with
    since := t.since + 1, wait := shiftWait t.wait, waits := t.waits.map shiftWait, resumeWaits := t.resumeWaits.map shiftWait,
    parkedOn := shiftWait t.parkedOn,
    block := t.block.map fun b => { b with fired := b.fired.map fun f => { f with cycle := f.cycle + 1 } } }

def shiftSlot (x : Slot) : Slot :=
  { x with
    lastIssue := x.lastIssue.map (· + 1), freedAt := x.freedAt + 1, thread := x.thread.map shiftThread,
    undo := x.undo.map fun u => { u with cycle := u.cycle + 1, thread := shiftThread u.thread } }

def shiftCore (x : Core) : Core :=
  { x with
    lastIssue := x.lastIssue.map (· + 1), steal := { x.steal with backoff := x.steal.backoff.map (· + 1) },
    countsSince := x.countsSince.map (· + 1), held := x.held.map fun r => { r with came := r.came + 1 },
    cache := x.cache.map fun e => (e.1, { e.2 with since := e.2.since + 1, thread := shiftThread e.2.thread }),
    preqSince := x.preqSince.map fun e => (e.1, e.2 + 1) }

def shiftPacket (e : Nat × Packet) : Nat × Packet :=
  (e.1, { e.2 with entered := e.2.entered + 1, overdue := e.2.overdue.map (· + 1) })

def shiftRouter (x : Router) : Router :=
  { x with
    packets := x.packets.map shiftPacket, offered := x.offered.map shiftPacket, free := x.free.map fun e => (e.1, e.2 + 1),
    idleSince := x.idleSince + 1 }

/-- An event with the cycle that it names one later. -/
def shiftEvent : Instr → Instr
  | .preemptTimeout c k n => .preemptTimeout c k (n + 1)
  | .heldDecision r => .heldDecision { r with came := r.came + 1 }
  | e => e

/-- A pending event put in its place: behind every event of the same or a lower key. -/
def putEvent (key : Nat) (e : Instr) : List (Nat × Instr) → List (Nat × Instr)
  | [] => [(key, e)]
  | (k, x) :: rest => if key < k then (key, e) :: (k, x) :: rest else (k, x) :: putEvent key e rest

/-- The pending events when the dies of a list skip a cycle. -/
def shiftAgenda (ds : List Nat) (l : List (Nat × Instr)) : List (Nat × Instr) :=
  l.foldl (fun m e =>
    if (eventDie e.2).elim false ds.contains then putEvent (e.1 + phases * places) (shiftEvent e.2) m else putEvent e.1 e.2 m) []

/-- The dies whose clocks skip the next cycle: those stretched that have not skipped this one. -/
def skipNext (s : State) : List Nat := (s.dies.filter fun d => d.2.stretched && !d.2.skips).map (·.1)

/-- What a die keeps of its clock as a cycle begins. -/
def skipDie (ds : List Nat) (d : Nat) (x : Die) : Die :=
  if ds.contains d then { x with skips := true, lag := x.lag + 1, normalSince := x.normalSince + 1 } else { x with skips := false }

/-- The entries of a map that satisfy p, each changed. -/
def mapWhere {α : Type} [DecidableEq α] (d : α) (p : Nat → Bool) (f : α → α) (m : Map α) : Map α :=
  m.foldl (fun l e => if p e.1 then mset d l e.1 (f e.2) else l) m

/-- The state as some dies skip a cycle. -/
def skipCycle (ds : List Nat) (s : State) : State :=
  if ds.isEmpty && !(s.dies.any fun d => d.2.skips) then s else
    { s with
      agenda := shiftAgenda ds s.agenda,
      slots := mapWhere Slot.reset (fun k => ds.contains (dieOf (k / 16))) shiftSlot s.slots,
      cores := mapWhere Core.reset (fun c => ds.contains (dieOf c)) shiftCore s.cores,
      routers := mapWhere Router.reset (fun r => ds.contains (dieOf r)) shiftRouter s.routers,
      dies := s.dies.foldl (fun l e => mset Die.reset l e.1 (skipDie ds e.1 e.2)) s.dies }

end Sys2Proof.Machine
end

