-- ==== Sys2Proof/Machine/Operands.lean ====
section
/-! DEFINITION. Tokens and operand slots: scalars, vectors with live halves, Null (R154, R186), how several tokens
meet at one slot (R154, R189) and how a token is read by a scalar or a vector operand (R188). -/

namespace Sys2Proof.Machine

/-- Every half live. -/
def allLive : Word := 0xFFFFFFFFFFFFFFFF#64

/-- A vector token; one whose halves are all null is Null (R186). -/
def tokVec (data : Vec) (live : Word) : Token := if live = 0 then .null else .vec data live

/-- 32 lanes of a 32-bit value. -/
def splat32 (v : Nat) : Vec := BitVec.ofNat 1024 (v % 2 ^ 32 * ((2 ^ 1024 - 1) / (2 ^ 32 - 1)))

/-- The token as a vector operand (R188): data and live bits; Null has every half null. -/
def asVec : Token → Vec × Word
  | .null => (0, 0)
  | .scalar v => (splat32 v.toNat, allLive)
  | .vec d l => (d, l)

/-- The token as a scalar operand (R188): bits 63:0 of a vector, Null if any of halves 0 to 3 is null. -/
def asScalar : Token → Option Word
  | .null => none
  | .scalar v => some v
  | .vec d l => if l &&& 0xF#64 = 0xF#64 then some (d.setWidth 64) else none

/-- Whether the token is a non-null vector. -/
def tokIsVec : Token → Bool
  | .vec _ _ => true
  | _ => false

def tokIsNull : Token → Bool
  | .null => true
  | _ => false

/-- The 16-bit mask of the live bits, one bit of `live` widened to the 16 bits of its half. -/
def liveMask (live : Word) : Nat → Nat
  | 0 => 0
  | n + 1 => liveMask live n + if live.getLsbD n then 65535 * 2 ^ (16 * n) else 0

/-- The halves of the higher producer where it has them live, else those of the lower one (R189). -/
def mergeVec (lo hi : Vec × Word) : Vec × Word :=
  let m := BitVec.ofNat 1024 (liveMask hi.2 64)
  ((lo.1 &&& ~~~m) ||| (hi.1 &&& m), lo.2 ||| hi.2)

/-- The token that an operand slot holds, from the tokens of its producers in ascending producer index
(R154, R189). -/
def mergeTokens (ts : List Token) : Token :=
  if ts.any tokIsVec then
    let r := ts.foldl (fun acc t => mergeVec acc (asVec t)) ((0 : Vec), (0 : Word))
    tokVec r.1 r.2
  else ts.foldl (fun acc t => if tokIsNull t then acc else t) .null

/-- Lane i of vector data. -/
def laneOf (d : Vec) (i : Nat) : Nat := d.toNat / 2 ^ (32 * i) % 2 ^ 32
/-- Half h of vector data. -/
def halfOf (d : Vec) (h : Nat) : Nat := d.toNat / 2 ^ (16 * h) % 2 ^ 16
/-- A lane is live only when both of its halves are (R186). -/
def laneLive (l : Word) (i : Nat) : Bool := l.getLsbD (2 * i) && l.getLsbD (2 * i + 1)
/-- Lane i when it is live. -/
def liveLane (v : Vec × Word) (i : Nat) : Option Nat :=
  if laneLive v.2 i then some (laneOf v.1 i) else none
/-- Half h when it is live. -/
def liveHalf (v : Vec × Word) (h : Nat) : Option Nat :=
  if v.2.getLsbD h then some (halfOf v.1 h) else none

/-- Data and live bits from a list of elements of w bits, lowest first; each element covers k halves. -/
def packElems (w : Nat) (k : Nat) : List (Option Nat) → Nat × Nat
  | [] => (0, 0)
  | e :: rest =>
    let (d, l) := packElems w k rest
    match e with
    | some v => (d * 2 ^ w + v % 2 ^ w, l * 2 ^ k + (2 ^ k - 1))
    | none => (d * 2 ^ w, l * 2 ^ k)

/-- A vector token from 32 lanes. -/
def ofLanes (es : List (Option Nat)) : Token :=
  let (d, l) := packElems 32 2 es
  tokVec (BitVec.ofNat 1024 d) (BitVec.ofNat 64 l)

/-- A vector token from 64 halves. -/
def ofHalves (es : List (Option Nat)) : Token :=
  let (d, l) := packElems 16 1 es
  tokVec (BitVec.ofNat 1024 d) (BitVec.ofNat 64 l)

/-- A vector register after a WR of vector data: the live halves replaced (R191). -/
def mergeReg (old : Vec) (v : Vec × Word) : Vec := (mergeVec (old, allLive) v).1

end Sys2Proof.Machine
end

