-- ==== Sys2Proof/Machine/Ops.lean ====
section
/-! DEFINITION. The updates a step is made of, and the named operations over memory, registers, threads, counts and
the list of pending events; taking a trap or a service fault, and ending a thread. -/

namespace Sys2Proof.Machine

/-! ### Updates -/

/-- One change of the state. A step is a list of these, so that what a step can do to a component is read off this
type once. -/
inductive Upd
  | mem (pa : Nat) (b : Byte)
  | wordEmpty (w : Nat)
  | wordFull (w : Nat)
  | mreg (off : Nat) (v : Word)
  | qerr (q n : Nat)
  | slot (c k : Nat) (x : Slot)
  | core (c : Nat) (x : Core)
  | tlb2 (r : Nat) (l : List TlbEntry)
  | die (d : Nat) (x : Die)
  | siphon (i : Nat) (x : Siphon)
  | well (w : Nat) (x : Wellhead)
  | router (r : Nat) (x : Router)
  | port (p : Nat) (x : Port)
  | mail (l : List Mail)
  | sheaf (n : Nat) (x : Sheaf)
  | region (r : Nat) (x : TreeUnit)
  | root (x : Root)
  | gang (n : Nat) (x : Gang)
  | image (pa : Nat) (x : Option Thread)
  | reports (l : List Report)
  | flash (x : Flash)
  | side (x : Sideband)
  | cutReports (l : List Nat)
  | sched (key : Nat) (e : Instr)
  | timer (tick : Nat) (e : Instr)
  | dropDelay
  | ctx (x : Ctx)
  | newId
  | newFree
  | sync (ever locked : Bool) (last : Nat) (slew : Int)
  | tick (t : Nat)
  | startup (b : Bool)
  | stretch (last since : Nat)
  | out (o : Out)
  | powerOn
  deriving DecidableEq, Repr

/-- A number put into a strictly rising list. -/
def putNat (n : Nat) : List Nat → List Nat
  | [] => [n]
  | m :: rest => if n < m then n :: m :: rest else if n = m then m :: rest else m :: putNat n rest

/-- What power-on reset keeps (R423-R426, R431): the flash, the strap pins, and what has left the module. -/
def afterPowerOn (s : State) : State :=
  { State.reset with
    flash := s.flash, badRows := s.badRows, out := s.out, delays := s.delays,
    side := { Sideband.reset with straps := s.side.straps } }

/-- The state after one change. -/
def applyUpd (u : Upd) (s : State) : State :=
  match u with
  | .mem pa b => { s with mem := mset 0 s.mem pa b }
  | .wordEmpty w => { s with empty := putNat w s.empty }
  | .wordFull w => { s with empty := s.empty.filter fun x => decide (x ≠ w) }
  | .mreg off v => { s with mregs := mset (modRegReset off) s.mregs off v }
  | .qerr q n => { s with qerr := mset 0 s.qerr q n }
  | .slot c k x => { s with slots := mset Slot.reset s.slots (c * 16 + k) x }
  | .core c x => { s with cores := mset Core.reset s.cores c x }
  | .tlb2 r l => { s with tlb2 := mset [] s.tlb2 r l }
  | .die d x => { s with dies := mset Die.reset s.dies d x }
  | .siphon i x => { s with siphons := mset Siphon.reset s.siphons i x }
  | .well w x => { s with wells := mset Wellhead.reset s.wells w x }
  | .router r x => { s with routers := mset Router.reset s.routers r x }
  | .port p x => { s with ports := mset Port.reset s.ports p x }
  | .mail l => { s with mail := l }
  | .sheaf n x => { s with sheaves := mset Sheaf.reset s.sheaves n x }
  | .region r x => { s with regions := mset ⟨[], [], []⟩ s.regions r x }
  | .root x => { s with root := x }
  | .gang n x => { s with gangs := mset Gang.none s.gangs n x }
  | .image pa x => { s with images := mset none s.images pa x }
  | .reports l => { s with reports := l }
  | .flash x => { s with flash := x }
  | .side x => { s with side := x }
  | .cutReports l => { s with cutReports := l }
  | .sched key e => { s with agenda := putEvent key e s.agenda }
  | .timer t e => { s with timers := putEvent t e s.timers }
  | .dropDelay => { s with delays := s.delays.drop 1 }
  | .ctx x => { s with ctx := x }
  | .newId => { s with nextId := s.nextId + 1 }
  | .newFree => { s with freeCount := s.freeCount + 1 }
  | .sync ever l last d => { s with everLocked := ever, locked := l, lastSync := last, slew := d }
  | .tick t => { s with tick := t }
  | .startup b => { s with startup := b }
  | .stretch last since => { s with stretchLast := last, stretchSince := since }
  | .out o => { s with out := s.out ++ [o] }
  | .powerOn => afterPowerOn s

/-- The changes of a list, applied from its end to its head. -/
def applyAll : List Upd → State → State
  | [], s => s
  | u :: us, s => applyUpd u (applyAll us s)

/-- A step in progress: the state so far and the changes made, the last one first. -/
structure Run where
  st : State
  ups : List Upd

/-- An action: it reads the state so far and adds changes to it. -/
abbrev Act (α : Type) := StateM Run α

/-- One more change. -/
def emit (u : Upd) : Act Unit := fun r => ((), ⟨applyUpd u r.st, u :: r.ups⟩)

/-- A look at the state so far. -/
def look {α : Type} (f : State → α) : Act α := fun r => (f r.st, r)

/-- The state after an action. -/
def run (a : Act Unit) (s : State) : State := applyAll (a ⟨s, []⟩).2.ups s

/-- An action for each member of a list, in order. -/
def each {α : Type} : List α → (α → Act Unit) → Act Unit
  | [], _ => pure ()
  | x :: xs, f => do f x; each xs f

/-- An action under a condition. -/
def onlyIf (c : Bool) (a : Act Unit) : Act Unit := if c then a else pure ()

/-! ### Components -/

def slotAt (s : State) (c k : Nat) : Slot := mget Slot.reset s.slots (c * 16 + k)
def coreAt (s : State) (c : Nat) : Core := mget Core.reset s.cores c
def dieAt (s : State) (d : Nat) : Die := mget Die.reset s.dies d
def siphonAt (s : State) (i : Nat) : Siphon := mget Siphon.reset s.siphons i
def wellAt (s : State) (w : Nat) : Wellhead := mget Wellhead.reset s.wells w
def routerAt (s : State) (r : Nat) : Router := mget Router.reset s.routers r
def portAt (s : State) (p : Nat) : Port := mget Port.reset s.ports p
def sheafAt (s : State) (n : Nat) : Sheaf := mget Sheaf.reset s.sheaves n
def threadAt (s : State) (c k : Nat) : Option Thread := (slotAt s c k).thread
def blockAt (s : State) (c k : Nat) : Option Block := (threadAt s c k).bind (·.block)
/-- A core register of system space (R237, R281, R315, R403, R419). -/
def creg (s : State) (c off : Nat) : Word := mget (coreRegReset off) (coreAt s c).regs off
/-- A module register (R90, R227, R237, R323, R347, R400, R417). -/
def mreg (s : State) (off : Nat) : Word := mget (modRegReset off) s.mregs off

def modSlot (c k : Nat) (f : Slot → Slot) : Act Unit := do
  let x ← look (slotAt · c k)
  emit (.slot c k (f x))
/-- A slot with its thread changed, and with it the one that a fault of this cycle has put aside (R387). -/
def mapThread (f : Thread → Thread) (x : Slot) : Slot :=
  { x with thread := x.thread.map f, undo := x.undo.map fun u => { u with thread := f u.thread } }
/-- A thread changes. -/
def modThread (c k : Nat) (f : Thread → Thread) : Act Unit := modSlot c k (mapThread f)
def modBlock (c k : Nat) (f : Block → Block) : Act Unit :=
  modThread c k fun t => { t with block := t.block.map f }
def modCore (c : Nat) (f : Core → Core) : Act Unit := do
  let x ← look (coreAt · c)
  emit (.core c (f x))
def modDie (d : Nat) (f : Die → Die) : Act Unit := do
  let x ← look (dieAt · d)
  emit (.die d (f x))
def modSheaf (n : Nat) (f : Sheaf → Sheaf) : Act Unit := do
  let x ← look (sheafAt · n)
  emit (.sheaf n (f x))
def modRouter (r : Nat) (f : Router → Router) : Act Unit := do
  let x ← look (routerAt · r)
  emit (.router r (f x))
def modWell (w : Nat) (f : Wellhead → Wellhead) : Act Unit := do
  let x ← look (wellAt · w)
  emit (.well w (f x))
def modPort (p : Nat) (f : Port → Port) : Act Unit := do
  let x ← look (portAt · p)
  emit (.port p (f x))
def modSiphon (i : Nat) (f : Siphon → Siphon) : Act Unit := do
  let x ← look (siphonAt · i)
  emit (.siphon i (f x))
def modRoot (f : Root → Root) : Act Unit := do
  let x ← look (·.root)
  emit (.root (f x))

/-- A core register written. -/
def setCreg (c off : Nat) (v : Word) : Act Unit :=
  modCore c fun x => { x with regs := mset (coreRegReset off) x.regs off v }

/-- A counter that stops at the largest 64-bit value (R419). -/
def addSat64 (v : Word) (n : Nat) : Word := if v.toNat + n ≥ 2 ^ 64 then timeTop else v + word n

/-- n added to a counter of a core. -/
def countReg (c off n : Nat) : Act Unit := do
  let v ← look (creg · c off)
  onlyIf (decide (n ≠ 0)) (setCreg c off (addSat64 v n))
/-- n added to a counter of the module. -/
def countMreg (off n : Nat) : Act Unit := do
  let v ← look (mreg · off)
  onlyIf (decide (n ≠ 0)) (emit (.mreg off (addSat64 v n)))

/-- CORESTAT.FENCED of a core (R419, R427). -/
def isFenced (s : State) (c : Nat) : Bool := (creg s c 0x0EC8).getLsbD 0
/-- Bit d of FENCESTAT (R417). -/
def dieFenced (s : State) (d : Nat) : Bool := (mreg s 0x0920).getLsbD d

/-- A channel register of a core (R271). -/
def chanAt (x : Core) (q : Nat) : Channel := mget Channel.reset x.chans q
def modChan (c q : Nat) (f : Channel → Channel) : Act Unit :=
  modCore c fun x => { x with chans := mset Channel.reset x.chans q (f (chanAt x q)) }
/-- A semaphore of a core (R262). -/
def semAt (x : Core) (m : Nat) : Sem := mget Sem.reset x.sems m
def modSem (c m : Nat) (f : Sem → Sem) : Act Unit :=
  modCore c fun x => { x with sems := mset Sem.reset x.sems m (f (semAt x m)) }
/-- A directory entry of a core (R23, R24). -/
def cellAt (x : Core) (i : Nat) : CellEntry := mget CellEntry.reset x.cells i
def modCell (c i : Nat) (f : CellEntry → CellEntry) : Act Unit :=
  modCore c fun x => { x with cells := mset CellEntry.reset x.cells i (f (cellAt x i)) }

/-! ### Pending events -/

/-- The cycle in which an event that is to come n cycles from now comes: one for a die that skips this cycle waits for the next
(R430). -/
def dueCycle (s : State) (n : Nat) (e : Instr) : Nat := s.cycle + (if eventSkips s e then max 1 n else n)

/-- An event in cycle now + n, in a phase and place of that cycle. -/
def later (n phase place : Nat) (e : Instr) : Act Unit := do
  let c ← look (dueCycle · n e)
  emit (.sched (agendaKey c phase place) e)

/-- An event in a given cycle, or in this one if that has passed. -/
def atCycle (t phase place : Nat) (e : Instr) : Act Unit := do
  let c ← look (·.cycle)
  emit (.sched (agendaKey (max c t) phase place) e)

/-- Whether a cycle is at its end but for the events of its last phase from a place on: its issue is over, and nothing else
is due in it before that place. -/
def isCycleEnd (s : State) (place : Nat) : Bool :=
  s.issueOver && s.agenda.all fun e => decide (agendaKey s.cycle 7 place ≤ e.1)

/-- An event that takes effect at the end of its cycle: before that, it is put there (R124, R429). -/
def atCycleEnd (place : Nat) (e : Instr) (a : Act Unit) : Act Unit := do
  let s ← look id
  if isCycleEnd s place then a else later 0 7 place e

/-- An event at a device tick. -/
def onTick (t : Nat) (e : Instr) : Act Unit := emit (.timer t e)

/-- The next entry of `delays`: extra cycles that the spec leaves open (log entry 3). -/
def takeDelay : Act Nat := do
  let n ← look (·.delays.headD 0)
  emit .dropDelay
  pure n

/-- A number never given before. -/
def freshId : Act Nat := do
  let n ← look (·.nextId)
  emit .newId
  pure n

/-- The index of a value that the spec leaves open (log entry 5). -/
def freshFree : Act Nat := do
  let n ← look (·.freeCount)
  emit .newFree
  pure n

/-! ### The clock (R3, R15, R102, R430) -/

/-- Sevenths of a tick in a cycle: the arithmetic clock has 1.4 GHz and the tick 1 ns (R3); in start-up it has 0.7 GHz
(R421, log entry 2). -/
def cycleSevenths (s : State) : Nat := if (mreg s 0x0900).toNat % 4 = 0 then 10 else 5

/-- The ticks that pass in a number of sevenths, and the correction that is left: the slew adds or holds back one tick, and no
other within 10,000 ticks of the last one (R102). -/
def slewTick (since sevenths : Nat) (slew : Int) : Nat × Int :=
  let n := sevenths / 7
  if slew = 0 ∨ n = 0 ∨ since < 10000 then (n, slew)
  else if 0 < slew then (n + 1, slew - 1)
  else (n - 1, slew + 1)

/-- The ticks that pass in this cycle, and the correction that is left after it. -/
def passingTicks (s : State) : Nat × Int :=
  slewTick ((s.tick + 2 ^ 64 - s.slewLast) % 2 ^ 64) (s.tickFrac + cycleSevenths s) s.slew

/-- The tick of the next cycle: a counter of 64 bits (R15). -/
def nextTick (s : State) : Nat := (s.tick + (passingTicks s).1) % 2 ^ 64

/-! ### Memory (R217-R220, R233) -/

/-- The node ID of the module (R323). -/
def nodeId (s : State) : Nat := (mreg s 0x0410).toNat % 4096

/-- A fabric address of this module's own node is served as its bits 38:0 (R218). -/
def localPa (s : State) (pa : Nat) : Nat :=
  if 2 ^ 51 ≤ pa && pa / 2 ^ 39 % 4096 = nodeId s then pa % 2 ^ 39 else pa

/-- The owner of a physical address (R218). -/
def ownerOf (s : State) (pa : Nat) : Owner :=
  let a := localPa s pa
  if 2 ^ 51 ≤ a then .fabric (a / 2 ^ 39 % 4096) (a % 2 ^ 39) else localOwner a

/-- The physical address of a cistern offset (R218). -/
def cisternPa (c off : Nat) : Nat := cisternBase + 0x20_0000 * c + off
/-- The physical address of an offset in the launch page of slot k (R117, R219). -/
def launchPa (c k off : Nat) : Nat := cisternPa c (0x13_0000 + 0x1000 * k + off)

/-- The byte at a physical address; a byte that nothing has written reads as 0 (R219 for the cisterns, log entry 6
for GDDR7). -/
def byteAt (s : State) (pa : Nat) : Byte := mget 0 s.mem pa
/-- The n bytes from a physical address. -/
def bytesAt (s : State) (pa n : Nat) : List Byte := (List.range n).map fun i => byteAt s (pa + i)
/-- The little-endian number that bytes hold (R1). -/
def leNat : List Byte → Nat
  | [] => 0
  | b :: bs => b.toNat + 256 * leNat bs
/-- The n little-endian bytes of a number (R1). -/
def leBytes (v : Nat) : Nat → List Byte
  | 0 => []
  | n + 1 => BitVec.ofNat 8 v :: leBytes (v / 256) n
def natAt (s : State) (pa n : Nat) : Nat := leNat (bytesAt s pa n)
def word64At (s : State) (pa : Nat) : Word := word (natAt s pa 8)

/-- The place in a cycle of the messages of the MULTI protocol. -/
def multiPlace : Nat := 55500

/-- The waits for signal words among n bytes that the device writes are tested (R105). -/
def pokeWaits (pa n : Nat) : Act Unit := do
  let s ← look id
  let a := localPa s pa
  each ((s.dies.flatMap fun d => d.2.recs.filter fun r =>
      decide (r.2.state = 2) && decide (a < localPa s (r.2.waddr * 8) + 8) &&
        decide (localPa s (r.2.waddr * 8) < a + n)).map (·.1)).dedup fun q =>
    later 0 5 (56000 + q) (.waitPoll q)

/-- Bytes put in memory from a physical address up. -/
def putBytes (pa : Nat) : List Byte → Act Unit
  | [] => pure ()
  | b :: bs => do emit (.mem pa b); putBytes (pa + 1) bs
/-- Bytes written from a physical address up. -/
def writeBytes (pa : Nat) (bs : List Byte) : Act Unit := do
  putBytes pa bs
  pokeWaits pa bs.length
def writeNat (pa n v : Nat) : Act Unit := writeBytes pa (leBytes v n)
def write64 (pa : Nat) (v : Word) : Act Unit := writeNat pa 8 v.toNat

/-- The full/empty bit of the aligned word that holds a byte (R233). -/
def isFull (s : State) (pa : Nat) : Bool := !s.empty.contains (pa / 8)
def inCistern (pa : Nat) : Bool :=
  match localOwner pa with
  | .cistern _ _ => true
  | _ => false
/-- The aligned word that holds a byte becomes full, if it lies in a cistern (R233). -/
def fillWord (pa : Nat) : Act Unit := onlyIf (inCistern pa) (emit (.wordFull (pa / 8)))

/-! ### Time and counts (R71-R86) -/

/-- Advance of R72. -/
def advanceTime (t : Word) (k n : Nat) : Word :=
  if t = timeTop then timeTop
  else
    let v := t.toNat / 2 ^ (16 * k) * 2 ^ (16 * k) + n * 2 ^ (16 * k)
    if v > 0xFFFFFFFFFFFFFFFE then timeTop else word v

/-- Entry i of a path-summary table applied to a time (R77, R78). -/
def applySummary (paths : List Nat) (i : Nat) (t : Word) : Word :=
  let e := paths.getD i 0
  if e % 2 ^ 14 = 0 then t else advanceTime t (e / 2 ^ 14 % 4) (e % 2 ^ 14)

/-- Whether an entry is zero-advance (R78). -/
def zeroAdvance (paths : List Nat) (i : Nat) : Bool := paths.getD i 0 % 2 ^ 14 = 0

/-- A delta joined to a table of counts: entries of one sheaf and time are one entry, and an entry of 0 is none. -/
def addDelta (d : Delta) : List Delta → List Delta
  | [] => if d.net = 0 then [] else [d]
  | e :: rest =>
    if e.sheaf = d.sheaf && e.time = d.time then
      if e.net + d.net = 0 then rest else { e with net := e.net + d.net } :: rest
    else e :: addDelta d rest

def addDeltas (ds tab : List Delta) : List Delta := ds.foldl (fun t d => addDelta d t) tab

/-- A counted item of a colour leaves a core for another unit (R86). -/
def colourSent (c : Nat) (col : Bool) : Act Unit :=
  modCore c fun x => if col then { x with sent1 := x.sent1 + 1 } else { x with sent0 := x.sent0 + 1 }
/-- A counted item of a colour arrives (R86). -/
def colourReceived (c : Nat) (col : Bool) : Act Unit :=
  modCore c fun x => if col then { x with received1 := x.received1 + 1 } else { x with received0 := x.received0 + 1 }

/-- The sum of a list of numbers. -/
def sumOf (l : List Nat) : Nat := l.foldl (· + ·) 0

/-- The deltas of a core's batches that its region's aggregator has not yet accepted (R82). -/
def heldAbove (s : State) (c : Nat) : Nat :=
  sumOf (((mget ⟨[], [], []⟩ s.regions (regionOf c)).waiting.filter fun w => decide (w.1 = c)).map fun w => w.2.1.deltas.length)

/-- The entries in use in a core's outstanding-time table: the open ones, those of batches that wait for their stores (R336)
and those of batches that wait for room above (R82). -/
def tableUse (s : State) (c : Nat) : Nat :=
  let x := coreAt s c
  x.counts.length + sumOf (x.batches.map fun b => b.batch.deltas.length) + heldAbove s c

/-- Whether a count stays in the signed 24-bit range (R80). -/
def inRange24 (n : Int) : Bool := decide (-0x800000 ≤ n) && decide (n < 0x800000)

/-- Whether the counts of a table stay in their range. -/
def inRange (t : List Delta) : Bool := t.all fun d => inRange24 d.net

/-- Whether a core's table of 64 entries has room for deltas; a table that a delta would take out of its range leaves first
as a batch, and its entries stay in use until it has left (R80). -/
def roomFor (s : State) (c : Nat) (ds : List Delta) : Bool :=
  let x := coreAt s c
  let t := addDeltas ds x.counts
  if inRange t then
    decide (t.length ≤ x.counts.length) || decide (tableUse s c + (t.length - x.counts.length) ≤ 64)
  else decide (tableUse s c + (addDeltas ds []).length ≤ 64)

/-- Whether a commit can record its counts: there is room, and no earlier count waits for it (R80). -/
def countsFit (s : State) (c : Nat) (ds : List Delta) : Bool := (coreAt s c).late.isEmpty && roomFor s c ds

/-- A core forms a batch of its whole table and clears it (R80). -/
def formBatch (c : Nat) : Act Unit := do
  let now ← look (·.cycle)
  modCore c fun x =>
    if x.counts.isEmpty then x
    else { x with batches := x.batches ++ [⟨⟨x.counts, none, false⟩, now⟩], counts := [], countsSince := none }

/-- Deltas recorded in a core's table in one step (R79, R80); the table leaves before a delta would take it out of its range,
when it is full, and 256 cycles after its oldest delta. -/
def recordCounts (c : Nat) (ds : List Delta) : Act Unit :=
  onlyIf (!ds.isEmpty) (do
    let now ← look (·.cycle)
    let x ← look (coreAt · c)
    onlyIf (!inRange (addDeltas ds x.counts)) (formBatch c)
    let y ← look (coreAt · c)
    onlyIf y.countsSince.isNone (later 256 5 (30000 + c) (.batchAgeExpiry c))
    modCore c fun x =>
      let t := addDeltas ds x.counts
      { x with counts := t, countsSince := if t.isEmpty then none else some (x.countsSince.getD now) }
    let n ← look (tableUse · c)
    onlyIf (decide (64 ≤ n) || !inRange (addDeltas ds x.counts)) (later 0 7 c (.deltaBatch c)))

/-- The counts that wait for room are recorded in their order while there is room (log entry 22). -/
def takeLate (c : Nat) : List Delta → Act Unit
  | [] => pure ()
  | d :: ds => do
    let s ← look id
    if roomFor s c [d] then do
      modCore c fun x => { x with late := x.late.drop 1 }
      recordCounts c [d]
      takeLate c ds
    else pure ()

/-- A count of a fenced core, recorded by the frontier unit of its die (R427): it travels behind every count of the core that has not
left yet (R81). An item at ⊤ was never counted (R72). -/
def countDie (c : Nat) (sheaf : Option Nat) (t : Word) (n : Int) : Act Unit := do
  match sheaf with
  | none => pure ()
  | some sh => onlyIf (decide (t ≠ timeTop)) (do
      let now ← look (·.cycle)
      formBatch c
      modCore c fun x =>
        let l := if x.late.isEmpty then [] else [⟨⟨addDeltas x.late [], none, false⟩, now⟩]
        { x with batches := x.batches ++ l ++ [⟨⟨[⟨sh, t, n⟩], none, true⟩, now⟩], late := [] }
      later 0 7 c (.deltaBatch c))

/-- A count of a unit recorded at a core (R79, R80); one that finds no entry free waits behind the counts that wait already.
An item at ⊤ is discarded: its +1 counts in TOVFCNT only (R72). The counts of a fenced core are its die's (R427). -/
def countAt (c : Nat) (sheaf : Option Nat) (t : Word) (n : Int) : Act Unit := do
  match sheaf with
  | none => pure ()
  | some sh =>
    if t = timeTop then onlyIf (decide (n > 0)) (countReg c 0x0E88 1)
    else do
      let s ← look id
      if isFenced s c then countDie c sheaf t n
      else if countsFit s c [⟨sh, t, n⟩] then recordCounts c [⟨sh, t, n⟩]
      else do
        modCore c fun x => { x with late := x.late ++ [⟨sh, t, n⟩] }
        later 0 7 c (.deltaBatch c)

/-- Whether an item of a sheaf would be created at ⊤: it is discarded, and its +1 counts in TOVFCNT only (R72). -/
def isDiscarded (sheaf : Option Nat) (t : Word) : Bool := sheaf.isSome && decide (t = timeTop)

/-- The sheaf of a cut that is stopping or has stopped (R400); the restraint ends with RESUME (R401). -/
def cutSheaf (s : State) : Option Nat :=
  let v := (mreg s 0x0820).toNat
  if v / 2 ^ 16 % 4 = 1 ∨ v / 2 ^ 16 % 4 = 2 then some (v % 4096) else none

/-- The frontier last announced for a sheaf at a core (R83, R84). -/
def frontierAt (s : State) (c sheaf : Nat) : Word := mget 0 (coreAt s c).fronts sheaf

/-- An error event of a sheaf (R418). -/
def errorEvent (sheaf : Nat) : Act Unit :=
  modSheaf sheaf fun x => { x with errEvents := addSat64 x.errEvents 1 }

/-- Flags merged into a sheaf (R68, R69). -/
def mergeSheaf (sheaf : Option Nat) (f : NumFlags) : Act Unit :=
  match sheaf with
  | none => pure ()
  | some n => onlyIf (decide (f ≠ noFlags)) (modSheaf n fun x => { x with flags := mergeFlags x.flags f })

/-- The sheaf of a thread, none under NONE (R362). -/
def sheafOf (t : Thread) : Option Nat := if t.noSheaf then none else some t.sheaf

/-! ### Registers of a thread and of its core (R163-R169) -/

def gReg (t : Thread) (n : Nat) : Word × Bool := mget (0, true) t.g n
def vReg (t : Thread) (n : Nat) : Vec × Bool := mget (0, true) t.v n
def sReg (x : Core) (n : Nat) : Word × Bool := mget (0, true) x.s n
def setG (n : Nat) (v : Word) (full : Bool) (t : Thread) : Thread := { t with g := mset (0, true) t.g n (v, full) }
def setV (n : Nat) (v : Vec) (full : Bool) (t : Thread) : Thread := { t with v := mset (0, true) t.v n (v, full) }
def setS (n : Nat) (v : Word) (full : Bool) (x : Core) : Core := { x with s := mset (0, true) x.s n (v, full) }

/-- A special register as RD reads it (R167, R169, R362). -/
def specialReg (s : State) (c k : Nat) (t : Thread) (n : Nat) : Word :=
  match n with
  | 0x00 => word k
  | 0x01 => word c
  | 0x02 => t.rank
  | 0x03 => t.nrank
  | 0x04 => word (t.sheaf + if t.noSheaf then 4096 else 0)
  | 0x05 => t.incarn.setWidth 64
  | 0x06 => t.ltime
  | 0x07 => word s.tick
  | 0x08 => t.slack
  | 0x09 => t.round
  | 0x0A => t.flags
  | 0x0B => match t.frames with
    | f :: _ => f.count.setWidth 64
    | [] => 0
  | 0x0C => match t.frames with
    | _ :: f :: _ => f.count.setWidth 64
    | _ => 0
  | 0x0D => t.trapcause
  | 0x0E => t.trapinfo0
  | 0x0F => t.trapinfo1
  | n => mget 0 t.mbox (n - 0x10)

/-- What a register keeps of a value written to it: its reserved bits ignore the write and read 0 (R5, R59, R67, R168,
R384). -/
def specialMask (n : Nat) : Word :=
  match n with
  | 0x08 => 0xFF#64
  | 0x09 => 0x7#64
  | 0x0A => 0x107#64
  | 0x0D => 0x80FFFFFF#64
  | _ => timeTop

/-- A special register written by a commit (R165, R167). -/
def setSpecial (n : Nat) (v : Word) (t : Thread) : Thread :=
  let w := v &&& specialMask n
  match n with
  | 0x08 => { t with slack := w }
  | 0x09 => { t with round := if w.toNat ≤ 4 then w else 0 }
  | 0x0A => { t with flags := w }
  | 0x0D => { t with trapcause := w }
  | 0x0E => { t with trapinfo0 := w }
  | 0x0F => { t with trapinfo1 := w }
  | n => if 0x10 ≤ n && n < 0x18 then { t with mbox := mset 0 t.mbox (n - 0x10) w } else t

/-- The rounding mode in `%round` (R59). -/
def roundOf (w : Word) : RoundMode :=
  match w.toNat % 8 with
  | 1 => .rtz
  | 2 => .rup
  | 3 => .rdn
  | 4 => .rna
  | _ => .rne

/-! ### Blocks: firing state and operands (R153-R155) -/

/-- Whether the instruction at an index has fired. -/
def hasFired (b : Block) (i : Nat) : Bool := b.fired.any fun f => f.idx = i
/-- The tokens that instruction i has delivered, once it has. -/
def doneOf (b : Block) (i : Nat) : Option (Token × Token) :=
  (b.done.find? fun d => decide (d.1 = i)).map (·.2)
/-- The word of instruction i. -/
def wordOf (b : Block) (i : Nat) : Nat := (b.words.getD i 0).toNat
/-- The indices of the block. -/
def indices (b : Block) : List Nat := List.range b.words.length

/-- The tokens that slot (i, kind) has received, in ascending producer index (R154, R189). -/
def slotTokens (b : Block) (i : Nat) (kind : SlotKind) : List Token :=
  (indices b).flatMap fun j =>
    match b.fired.find? (fun f => decide (f.idx = j)), doneOf b j with
    | some f, some d =>
      (if f.ta = kind * 128 + i then [d.1] else []) ++ (if f.tb = kind * 128 + i then [d.2] else [])
    | _, _ => []

/-- The token in an operand slot. -/
def operand (b : Block) (i : Nat) (kind : SlotKind) : Token := mergeTokens (slotTokens b i kind)

/-- Whether slot (i, kind) has a token from every producer that targets it (R153). -/
def slotFilled (b : Block) (i : Nat) (kind : SlotKind) : Bool :=
  (indices b).all fun j => !namesSlot (wordOf b j) i kind || (doneOf b j).isSome

/-- Whether the block holds an instruction of a class that has not fired. -/
def unfired (b : Block) (p : Nat → Bool) : Bool :=
  (indices b).any fun j => p (wordOf b j) && !hasFired b j

def isLpx (w : Nat) : Bool := opOf w = 0x07
def isFence (w : Nat) : Bool := opOf w = 0x70
/-- The cell instructions (R343). -/
def isCellOp (w : Nat) : Bool :=
  let op := opOf w
  op = 0x78 || op = 0x79 || op = 0x7A || (op = 0x7B && xhiOf w = 1)
def isHalt (w : Nat) : Bool := opOf w = 0x7D && xhiOf w = 1
/-- LOOPEND of a header (R126). -/
def isLoopEnd (b : Block) : Bool := b.header.getLsbD 14

/-- The widest scope among the fences of a property that fired (R330), by their codes. -/
def fenceScope (b : Block) (p : FenceKind → Bool) : Option Nat :=
  b.effs.foldl (fun m e =>
    match e.2 with
    | .fence s k => if p k then some (max (m.getD 0) (encScope s)) else m
    | _ => m) none
def isRelease : FenceKind → Bool
  | .rel | .ar => true
  | .acq => false
def isAcquire : FenceKind → Bool
  | .acq | .ar => true
  | .rel => false
def isBoth : FenceKind → Bool
  | .ar => true
  | _ => false

/-- The reach of an access from a core to an owner: the smallest scope within which the owner lies (R324, R325), by
its code. -/
def reachOf (c : Nat) : Owner → Nat
  | .cistern o _ =>
    if o = c then 1 else if regionOf o = regionOf c then 2 else if dieOf o = dieOf c then 3 else 4
  | .gddr d _ => if d = dieOf c then 3 else 4
  | .control _ => 4
  | .nothing => 4
  | .fabric _ _ => 5

/-- The unacknowledged store words of the thread in slot k. -/
def sentBy (x : Core) (k : Nat) (t : Thread) : List SentWord :=
  x.sent.filter fun w => decide (w.word.slot = k) && decide (w.inc = t.incarn.toNat)

/-- The release condition at a scope (R331): every store word that the thread has sent within it is acknowledged. -/
def releaseHolds (s : State) (c k : Nat) (t : Thread) (scope : Nat) : Bool :=
  (sentBy (coreAt s c) k t).all fun w => decide (scope < reachOf c (ownerOf s (w.word.word * 8)))

/-- The rules that keep an instruction with its operands there from being ready yet: LPB beside LPX in a loop-end block (R170;
DESIGN CHOICE, log entry 147: once none of its exits is left to fire it is ready, and R156 faults the block), STS, AMO and BUMP behind fences
(R331), loads of an `.AR` block (R333), HALT behind cell instructions (R407). -/
def heldBack (s : State) (c k : Nat) (t : Thread) (b : Block) (i : Nat) : Bool :=
  let w := wordOf b i
  let op := opOf w
  let isLoad := isLoadOp op || op = 0x3B || op = 0x5A || op = 0x55 || op = 0x2D
  let release := (fenceScope b isRelease).elim true (releaseHolds s c k t)
  let both := (fenceScope b isBoth).elim true (releaseHolds s c k t)
  (op = 0x06 && isLoopEnd b && (indices b).any (fun j => isLpx (wordOf b j)) && b.exit.isNone &&
      unfired b isExit) ||
    ((op = 0x3C || op = 0x3D || op = 0x3E) && (unfired b isFence || !release)) ||
    (isLoad && (unfired b (fun v => isFence v && xloOf v = 3) || !both)) ||
    (isHalt w && (indices b).any fun j => isCellOp (wordOf b j) && (doneOf b j).isNone)

/-- Whether instruction i is ready (R153). -/
def isReady (s : State) (c k : Nat) (t : Thread) (b : Block) (i : Nat) : Bool :=
  !hasFired b i && (usedSlots (wordOf b i)).all (slotFilled b i) && !heldBack s c k t b i

/-- The lowest-indexed ready instruction (R153). -/
def nextReady (s : State) (c k : Nat) (t : Thread) (b : Block) : Option Nat :=
  (indices b).find? (isReady s c k t b)

/-! ### The instruction that the step fires -/

/-- The instruction that fires: where, its thread and block, its word, and its operands. -/
structure Fire where
  c : Nat
  k : Nat
  i : Nat
  th : Thread
  b : Block
  l : Token
  r : Token
  p : Token
  deriving DecidableEq, Repr

/-- The instruction at `ctx`, when its slot holds a block with that index. -/
def fireAt (s : State) : Option Fire :=
  match threadAt s s.ctx.core s.ctx.slot with
  | none => none
  | some t =>
    match t.block with
    | none => none
    | some b =>
      if s.ctx.idx < b.words.length then
        some { c := s.ctx.core, k := s.ctx.slot, i := s.ctx.idx, th := t, b := b,
               l := operand b s.ctx.idx 0, r := operand b s.ctx.idx 1, p := operand b s.ctx.idx 2 }
      else none

/-- The execution that an instruction belongs to. -/
def Fire.id (f : Fire) : ExecId := ⟨f.c, f.k, f.b.gen, f.i⟩

/-- Whether a predicate lets the instruction fire (R135, R155, R188). -/
def predicateHolds (p : Pred) (f : Fire) : Bool :=
  match p with
  | .always => true
  | .onFalse => match asScalar f.p with
    | some v => !v.getLsbD 0
    | none => false
  | .onTrue => match asScalar f.p with
    | some v => v.getLsbD 0
    | none => false

/-- The words of the HNTs that stand directly before instruction i (R142). -/
def hintsBefore (b : Block) : Nat → List Nat
  | 0 => []
  | i + 1 => if isHint (wordOf b i) then wordOf b i :: hintsBefore b i else []

/-- The value of the hint of a kind that applies to instruction i (R142). -/
def hintOf (b : Block) (i kind : Nat) : Option Nat :=
  ((hintsBefore b i).find? fun w => decide (hintKind w = kind)).map fun w => imm16Of w % 4096

/-- The slack of the packets of an instruction: its hint, or `%slack` before the block (R168, R309). -/
def slackOf (f : Fire) : Nat := (hintOf f.b f.i 0).getD (f.th.slack.toNat % 256)
/-- The rounding mode of an instruction: its hint, or `%round` before the block (R60, R168). -/
def roundingOf (f : Fire) : RoundMode :=
  match hintOf f.b f.i 1 with
  | some n => roundOf (word n)
  | none => roundOf f.th.round
/-- The STREAM hint of an instruction (R239). -/
def streamOf (f : Fire) : StreamHint :=
  match hintOf f.b f.i 2 with
  | some 1 => .readOnce
  | some 2 => .lastUse
  | _ => .none

/-- A 9-bit target as a number. -/
def t9 (t : Target) : Nat := t.toNat
/-- An 8-bit target of format G as the 9-bit target of the same slot (R132). -/
def t8code (t : GTarget) : Nat := if t = 0 then 511 else t.toNat

/-- The thread after the turn of an instruction: it has fired, raised flags and holds effects for the commit. -/
def turnThread (now : Nat) (f : Fire) (ta tb : Nat) (fl : NumFlags) (effs : List Eff) : Thread :=
  { f.th with
    wait := .nothing,
    block := some { f.b with
      fired := f.b.fired ++ [⟨f.i, now, ta, tb⟩],
      flags := f.b.flags.or fl,
      effs := f.b.effs ++ effs.map fun e => (f.i, e) } }

/-- The changes of a turn on the barrel (R150, R419): the slot and the core have issued, and the cycle is no bubble. -/
def turnUpds (s : State) (f : Fire) (ta tb : Nat) (fl : NumFlags) (effs : List Eff) : List Upd :=
  let x := coreAt s f.c
  [.slot f.c f.k { slotAt s f.c f.k with
      lastIssue := some s.cycle, thread := some (turnThread s.cycle f ta tb fl effs) },
   .core f.c { x with
      lastIssue := some s.cycle,
      regs := mset 0 x.regs 0x0EA0 (addSat64 (creg s f.c 0x0EA0) 1), busy := x.busy + 1 }]

/-- The delivery of an instruction's tokens at the end of cycle c + 7 (R154). -/
def deliverUpd (s : State) (f : Fire) (a b : Token) : Upd :=
  .sched (agendaKey (s.cycle + 7) 2 (f.c * 16 + f.k)) (.tokenDelivery (.tokens f.id a b))

/-- An instruction that fires and delivers two tokens: the whole change. -/
def completeUpds (s : State) (f : Fire) (ta tb : Nat) (a b : Token) (fl : NumFlags) (effs : List Eff) :
    List Upd :=
  deliverUpd s f a b :: (turnUpds s f ta tb fl effs).reverse

/-- The state after such an instruction. -/
def complete (s : State) (f : Fire) (ta tb : Nat) (a b : Token) (fl : NumFlags) (effs : List Eff) : State :=
  applyAll (completeUpds s f ta tb a b fl effs) s

/-- The instruction fires and emits Null: no other effect, no flag (R155). -/
def completeNull (s : State) (f : Fire) (ta tb : Nat) : State := complete s f ta tb .null .null noFlags []

/-- The turn alone, within an action. -/
def takeTurn (f : Fire) (ta tb : Nat) (fl : NumFlags) (effs : List Eff) : Act Unit := do
  let s ← look id
  each (turnUpds s f ta tb fl effs) emit

/-- The turn and the delivery at c + 7, within an action. -/
def completeAct (f : Fire) (ta tb : Nat) (a b : Token) (fl : NumFlags) (effs : List Eff) : Act Unit := do
  takeTurn f ta tb fl effs
  let s ← look id
  emit (deliverUpd s f a b)

/-- The outcome of an encoded instruction: a change of the state, or a fault when `ctx` names no instruction. -/
def fire (s : State) (k : Fire → State) : Host.Outcome State Fault Refusal :=
  match fireAt s with
  | none => .fault .noContext
  | some f => .next (k f)

/-- The outcome of an encoded instruction whose effect is an action. -/
def fireAct (s : State) (k : Fire → Act Unit) : Host.Outcome State Fault Refusal :=
  fire s fun f => run (k f) s

/-- The instruction does not fire and its thread parks (R151). -/
def parkOn (f : Fire) (w : Wait) : Act Unit := do
  let now ← look (·.cycle)
  modThread f.c f.k fun t => { t with wait := w, since := if t.wait = w then t.since else now }

/-! ### Claims and reservations of blocks that have not committed (R247, R250, R264, R274) -/

/-- The effects that the block in a slot holds; a block stopped by a fault holds none (log entry 20). -/
def liveEffs (s : State) (c k : Nat) : List (Nat × Eff) :=
  match blockAt s c k with
  | some b => if b.stopped then [] else b.effs
  | none => []
/-- The effects held on a core. -/
def coreEffs (s : State) (c : Nat) : List (Nat × Eff) := (List.range 16).flatMap (liveEffs s c)

/-- The amount of a semaphore reserved by acquires that have fired and not committed (R264). -/
def reservedOf (s : State) (c m : Nat) : Nat :=
  (coreEffs s c).foldl (fun n e =>
    match e.2 with
    | .acquire m' a => if m' = m then n + a else n
    | _ => n) 0
/-- The available amount of a semaphore (R264). -/
def available (s : State) (c m : Nat) : Nat := (semAt (coreAt s c) m).count.toNat - reservedOf s c m

/-- Whether an effect is an engine command that holds a command-buffer entry. -/
def isCommand : Eff → Bool
  | .command _ => true
  | _ => false
/-- The command-buffer entries of slot k that are free and not claimed (R247). -/
def freeEntries (s : State) (c k : Nat) : Nat :=
  2 - ((coreAt s c).cmds.filter fun e => decide (e.1 / 2 = k)).length -
    ((liveEffs s c k).filter fun e => isCommand e.2).length

/-- The core next to a core in a direction (0 N, 1 E, 2 S, 3 W) on the same die (R273). -/
def neighbour (c d : Nat) : Option Nat :=
  match d with
  | 0 => if rowOf c = 0 then none else some (c - 24)
  | 1 => if colOf c = 23 then none else some (c + 1)
  | 2 => if rowOf c = 23 then none else some (c + 24)
  | _ => if colOf c = 0 then none else some (c - 1)
/-- The direction opposite a direction. -/
def opposite (d : Nat) : Nat := (d + 2) % 4

/-- The other end of a matched standpipe (R273): core and register. -/
def matchedPeer (s : State) (c q : Nat) : Option (Nat × Nat) :=
  match (chanAt (coreAt s c) q).bind with
  | .pipe d j =>
    match neighbour c d with
    | some o => if (chanAt (coreAt s o) j).bind = .pipe (opposite d) q then some (o, j) else none
    | none => none
  | _ => none

/-- Credits of an output claimed by blocks of the core that have not committed (R274). -/
def claimedCredits (s : State) (c q : Nat) : Nat :=
  ((coreEffs s c).filter fun e =>
    match e.2 with
    | .push q' _ _ _ => decide (q' = q)
    | _ => false).length
/-- Those of them that a pipe's other end will get. -/
def claimsOn (s : State) (c q : Nat) (dst : Nat × Nat) : Nat :=
  ((coreEffs s c).filter fun e =>
    match e.2 with
    | .push q' d _ _ => decide (q' = q) && decide (d = dst)
    | _ => false).length
/-- The pushes on their way into an input. -/
def pushesOnWay (s : State) (o j : Nat) : Nat :=
  (s.agenda.filter fun e => match e.2 with
    | .standpipePush _ dst _ _ _ _ _ => decide (dst = (o, j))
    | _ => false).length
/-- The free credits of an output: 8 less the entries in the buffer and on their way, the credits on their way back and the
credits claimed; none when unmatched (R274). -/
def freeCredits (s : State) (c q : Nat) : Nat :=
  match matchedPeer s c q with
  | some (o, j) =>
    8 - (chanAt (coreAt s o) j).buf.length - pushesOnWay s o j - (chanAt (coreAt s c) q).returning - claimsOn s c q (o, j)
  | none => 0

/-- The cistern offset of entry i of a stream, when the entry lies wholly in 0x1000 to 0x12_6FFF (R276). -/
def streamAddr (base stride i : Nat) (vec : Bool) : Option Nat :=
  let a : Int := (base : Int) + (i : Int) * ((BitVec.ofNat 32 stride).toInt)
  let n : Int := if vec then 128 else 8
  if 0x1000 ≤ a ∧ a + n ≤ 0x12_7000 then some a.toNat else none

/-- Whether a pop of an input can be served, or needs nothing (R272, R275, R276). -/
def popReady (x : Channel) : Bool :=
  !x.preload.isEmpty ||
    (match x.bind with
    | .none => true
    | .pipe _ _ => !x.buf.isEmpty
    | .stream base stride count next vec =>
      !x.ahead.isEmpty || decide (count ≤ next) || (streamAddr base stride next vec).isNone)

/-- Whether a register is full (R163). -/
def isRegFull (s : State) (c : Nat) (t : Thread) (cls n : Nat) : Bool :=
  match cls with
  | 0 => (gReg t n).2
  | 1 => (vReg t n).2
  | 2 => (sReg (coreAt s c) n).2
  | _ => true

/-- Whether what a parked thread waits for on the barrel is there (R151, R164, R247, R266, R274, R275, R277). The waits
that an event ends stay until that event. -/
def waitOver (s : State) (c k : Nat) (t : Thread) : Wait → Bool
  | .nothing => true
  | .register cls n => isRegFull s c t cls n
  | .semaphore m n _ => decide (n ≤ available s c m)
  | .command => decide (0 < freeEntries s c k)
  | .channel q =>
    let x := chanAt (coreAt s c) q
    if q < 4 then popReady x
    else
      match x.bind with
      | .pipe _ _ => decide (0 < freeCredits s c q)
      | _ => true
  | .binding q => decide (claimedCredits s c q = 0)
  | _ => false

/-- The instruction that a slot issues in this cycle if it is able (R150, R153). -/
def ableIdx (s : State) (c k : Nat) : Option Nat :=
  let x := slotAt s c k
  match x.thread with
  | none => none
  | some t =>
    let spaced := match x.lastIssue with
      | none => true
      | some n => decide (n + 8 ≤ s.cycle)
    match t.block with
    | none => none
    | some b =>
      if spaced && !b.stopped && !isFenced s c && waitOver s c k t t.wait then nextReady s c k t b else none

/-! ### Cells of other cores that a block has reserved (R343) -/


/-- The place in the sixth phase of a cycle in which a core fills its slots: behind the reservations of the cycle and behind all that
frees a slot in it (R112). -/
def dispatchPlace (c : Nat) : Nat := 50000 + c

/-- The requests held at a home core decide again in the next cycle (R343), and its eligible recalculations are dispatched
(R34). -/
def pokeHeld (h : Nat) : Act Unit := do
  later 0 6 (dispatchPlace h) (.taskDispatch h)
  let x ← look (coreAt · h)
  onlyIf (!x.held.isEmpty) (do
    each x.held fun r => later 1 5 (40000 + h) (.heldDecision r)
    modCore h fun x => { x with held := [] })

/-- The time of a buffer of a cell, Y for true. -/
def bufTime (e : CellEntry) (y : Bool) : Word := if y then e.timeY else e.timeX
def setBufTime (y : Bool) (t : Word) (e : CellEntry) : CellEntry :=
  if y then { e with timeY := t } else { e with timeX := t }
def bufPins (e : CellEntry) (y : Bool) : Nat := if y then e.pinY.toNat else e.pinX.toNat
def setPins (y : Bool) (n : Nat) (e : CellEntry) : CellEntry :=
  if y then { e with pinY := BitVec.ofNat 16 n } else { e with pinX := BitVec.ofNat 16 n }

/-- A reservation undone (R343, R350, R352). -/
def undoResv (r : CellResv) : Act Unit :=
  match cellNamed r.req.cell with
  | none => pure ()
  | some (h, i) => do
    match r.req.op with
    | .crd => modCell h i fun e => setPins r.buffer (bufPins e r.buffer - 1) e
    | .cwr _ | .cset _ _ _ =>
      modCell h i fun e => { setBufTime r.buffer r.old e with wopen := false, writer := none }
    | _ => pure ()
    pokeHeld h

/-- The claims and reservations of the block in a slot are released (R250, R343). -/
def releaseBlock (c k : Nat) : Act Unit := do
  let b ← look (blockAt · c k)
  match b with
  | none => pure ()
  | some b =>
    onlyIf (!b.stopped) (do
      each b.resv undoResv
      countReg c 0x0EB8 1
      modBlock c k fun b => { b with stopped := true, effs := [], resv := [], jobs := [] }
      each (b.asked.map (·.2)).dedup pokeHeld)

/-! ### Threads by their incarnation -/

/-- The thread that started in a slot with an incarnation changes, resident or held in a context cache (R69, R393). -/
def onThread (c k inc : Nat) (f : Thread → Thread) : Act Unit := do
  let up := fun (t : Thread) => if t.incarn.toNat = inc then f t else t
  modThread c k up
  let s ← look id
  each s.cores fun x => each x.2.cache fun e =>
    onlyIf (decide (e.2.core = c) && decide (e.2.slot = k) && decide (e.2.thread.incarn.toNat = inc))
      (modCore x.1 fun y => { y with cache := y.cache.map fun z =>
        if z.1 = e.1 then (z.1, { z.2 with thread := f z.2.thread }) else z })

/-- Whether a wait is over by itself when a thread comes to it (R45, R369). -/
def passed? (s : State) (c : Nat) (t : Thread) : Wait → Bool
  | .parked => t.wakep
  | .frontier u => decide (u.toNat < (frontierAt s c t.sheaf).toNat)
  | .yielding n => decide (n ≤ s.cycle)
  | .marks n => decide (n = 0)
  | _ => false

/-- The waits of a thread from the first that is not over; a PARK that finds WAKEP set clears it (R369). -/
def nextWaits (s : State) (c : Nat) (t : Thread) : List Wait → Thread
  | [] => { t with wait := .nothing, waits := [] }
  | w :: ws =>
    if passed? s c t w then nextWaits s c (if w = .parked then { t with wakep := false } else t) ws
    else { t with wait := w, waits := ws, since := s.cycle }

/-- What the commit of an acquire block does to a core (R276, R332): unpopped read-ahead entries are discarded and read
again. -/
def acquireCommit (c : Nat) : Act Unit := do
  let x ← look (coreAt · c)
  each x.chans fun q => match q.2.bind with
    | .stream _ _ _ _ _ => do
      modChan c q.1 fun y => { y with ahead := [] }
      later 1 5 (33000 + c) (.streamReadAhead c q.1)
    | _ => pure ()

/-- Whether the waits that a thread passes as it goes on hold the wait of an RFENCE, whose end is an acquire (R45, R336). -/
def passesFence (s : State) (c : Nat) (t : Thread) : Bool :=
  let u := nextWaits s c t t.waits
  (t.waits.take (t.waits.length - u.waits.length - (if u.wait = .nothing then 0 else 1))).any fun w => match w with
    | .frontier _ => true
    | _ => false

/-- The wait that a thread is in is over: it goes on to the next one, or its next block is loaded (R160). -/
def goOn (c k : Nat) : Act Unit := do
  let s ← look id
  onlyIf ((threadAt s c k).elim false (passesFence s c)) (acquireCommit c)
  modThread c k fun t => nextWaits s c t t.waits
  let t ← look (threadAt · c k)
  onlyIf (t.elim false fun t => decide (t.wait = .nothing)) (later 0 4 (c * 16 + k) (.blockLoad c k))

/-! ### Taking a trap or a fault (R382-R391) -/

/-- `%trapcause` and word 0 of a FREC (R384). -/
def causeWord (svc : Bool) (index reason cause : Nat) : Word :=
  word ((if svc then 2 ^ 31 else 0) + index % 256 * 65536 + reason % 256 * 256 + cause % 256)

/-- The address of the block that a fault concerns: the loaded block, or the one being loaded. -/
def faultAddr (t : Thread) : Word :=
  match t.block with
  | some b => b.addr
  | none => t.next

/-- A WAKE made by the core itself (R388): it sets WAKEP or ends a PARK. -/
def wakeLocal (c k : Nat) : Act Unit := do
  let t ← look (threadAt · c k)
  match t with
  | none => pure ()
  | some t => if t.wait = .parked then goOn c k else modThread c k fun t => { t with wakep := true }

/-- A service fault is acknowledged (R390): its bit of FPEND is cleared. -/
def clearPending (c k : Nat) : Act Unit := do
  let p ← look (creg · c 0x0F10)
  setCreg c 0x0F10 (p &&& ~~~(word (2 ^ k)))

/-- The handlers of a fault on a core in the order of R391: core and slot of a service thread. -/
def handlersOf (s : State) (c : Nat) : List (Nat × Nat) :=
  let cfg := creg s c 0x0F00
  let reg := (regionCores (regionOf c)).getD (cfg.toNat / 4 % 8) 0
  (if cfg.getLsbD 0 then [(c, 15)] else []) ++
    (if cfg.getLsbD 1 && (creg s reg 0x0F00).getLsbD 0 then [(reg, 15)] else [])

/-- Whether a slot holds a service thread. -/
def holdsService (s : State) (c k : Nat) : Bool := (threadAt s c k).elim false (·.service)

/-- The WAKE that a core makes for the handler of a service fault (R388). -/
def faultWake (s : State) (c k : Nat) (h : Nat × Nat) : TaskMsg :=
  { src := c, srcSlot := k, core := h.1, slot := h.2, inc := (slotAt s h.1 h.2).incarn.toNat, ack := false, aword := 0, sel := none,
    value := .null, time := 0, sheaf := none, slack := 0, exh := false, col := false, fault := true }

/-- The handler of a service fault is woken in the next cycle (R388, R391); without one the firmware core ends the thread (R391). -/
def tellHandler (c k : Nat) : Act Unit := do
  let s ← look id
  match (handlersOf s c).find? fun h => holdsService s h.1 h.2 && decide (h ≠ (c, k)) with
  | some h => later 1 4 (h.1 * 16 + h.2) (.wakeArrival (faultWake s c k h))
  | none => later 1 5 (c * 16 + k) (.fackEnd c k)

/-- A service fault (R388, R389): the block stays held in the retry latch, one that was being loaded included, FREC and FPEND record the
fault, and the handler of R391 is told; what a thread without a block waited for it waits for again afterwards. Without a handler the
firmware core ends the thread (R391). A scope-miss wakes no one (R390). -/
def serviceFault (c k cause reason index : Nat) (info : Word) : Act Unit := do
  let t ← look (threadAt · c k)
  match t with
  | none => pure ()
  | some t =>
    onlyIf (decide (t.wait ≠ .fault)) (do
      releaseBlock c k
      let now ← look (·.cycle)
      modThread c k fun t =>
        { t with
          retry := if t.block.isNone && t.retry.isNone && decide (t.wait = .nothing) then some ⟨t.next, t.ltime, [], [], []⟩ else t.retry,
          wait := .fault, since := now,
          waits := if t.block.isNone && decide (t.wait ≠ .nothing) && decide (t.wait ≠ .swapping) then t.wait :: t.waits else t.waits }
      setCreg c (0x1000 + 32 * k) (causeWord false index reason cause)
      setCreg c (0x1008 + 32 * k) (faultAddr t)
      setCreg c (0x1010 + 32 * k) info
      setCreg c (0x1018 + 32 * k) t.ltime
      let p ← look (creg · c 0x0F10)
      setCreg c 0x0F10 (p ||| word (2 ^ k))
      onlyIf (decide (cause ≠ 0x15)) (tellHandler c k))

/-- A user trap (R386): with a handler and HNDL 0, the block is discarded, its taken values go to the trap latch, the
trap registers are set and the handler block is next; otherwise it is service fault 0x16. -/
def userTrap (c k cause reason index : Nat) (info : Word) (svc : Bool) : Act Unit := do
  let t ← look (threadAt · c k)
  match t with
  | none => pure ()
  | some t =>
    let vec ← look (word64At · (launchPa c k 0x80))
    if t.hndl || vec = 0 then serviceFault c k 0x16 cause index info
    else do
      releaseBlock c k
      modThread c k fun t =>
        { t with
          trap := t.retry, retry := none, trapcause := causeWord svc index reason cause,
          trapinfo0 := faultAddr t, trapinfo1 := info, hndl := true, next := vec, block := none,
          wait := .nothing }
      later 0 4 (c * 16 + k) (.blockLoad c k)

/-- A fault or trap of R383 by its cause: causes below 0x10 are user traps. -/
def takeFault (c k : Nat) (f : FaultInfo) : Act Unit :=
  if f.cause < 0x10 then userTrap c k f.cause f.reason f.index f.info false
  else serviceFault c k f.cause f.reason f.index f.info

/-- Whether a slot holds an execution that has raised nothing. -/
def raisedNothing (s : State) (c k : Nat) : Bool :=
  ((blockAt s c k).elim true fun b => !b.stopped) && (threadAt s c k).elim false fun t => decide (t.wait ≠ .fault)

/-- What a fault of this cycle in a slot has put aside, when a fault of index n comes before it (R387). -/
def beforeFault (s : State) (c k n : Nat) : Option Undo :=
  match (slotAt s c k).undo with
  | some u => if u.cycle = s.cycle ∧ n < u.index ∧ (threadAt s c k).isSome then some u else none
  | none => none

/-- The words of FRECn of a slot. -/
def frecAt (s : State) (c k : Nat) : List Word := (List.range 4).map fun i => creg s c (0x1000 + 32 * k + 8 * i)

/-- The first trap or fault raised within an execution decides, and of those raised in one cycle the one of the lowest
instruction index, which undoes what the other has recorded (R387). -/
def raise (c k : Nat) (f : FaultInfo) : Act Unit := do
  let s ← look id
  if raisedNothing s c k then do
    releaseBlock c k
    let t ← look (threadAt · c k)
    takeFault c k f
    modSlot c k fun x => { x with undo := t.map fun t =>
      ⟨s.cycle, f.index, t, frecAt s c k, (blockAt s c k).elim [] (·.jobs)⟩ }
  else match beforeFault s c k f.index with
    | none => pure ()
    | some u => do
      clearPending c k
      each ((List.range 4).zip u.frec) fun w => setCreg c (0x1000 + 32 * k + 8 * w.1) w.2
      modSlot c k fun x => { x with thread := some u.thread }
      takeFault c k f
      modSlot c k fun x => { x with undo := some { u with index := f.index } }

/-- The execution that a fault of this cycle stopped, or the one in the slot. -/
def faultedGen (s : State) (c k : Nat) : Option Nat :=
  match blockAt s c k, (slotAt s c k).undo with
  | some b, _ => some b.gen
  | none, some u => if u.cycle = s.cycle then u.thread.block.map (·.gen) else none
  | none, none => none

/-- A fault raised by an execution: nothing when the execution has ended. -/
def raiseFor (id : ExecId) (cause reason : Nat) (info : Word) : Act Unit := do
  let g ← look fun s => faultedGen s id.core id.slot
  onlyIf (decide (g = some id.gen)) (raise id.core id.slot ⟨cause, reason, id.idx, info⟩)

/-- The −1 of every pop in a latch that is cleared (R275). -/
def countPops (c : Nat) (l : Option Latch) : Act Unit :=
  match l with
  | none => pure ()
  | some l => each l.vals fun v =>
    match v.pop with
    | some (sh, t) => countAt c sh t (-1)
    | none => pure ()

/-- The thread after the return of a trap handler (R405): HNDL is cleared; TRET clears the trap latch, TRET.RETRY makes it
the retry latch, of a block that runs at `%ltime` as it now stands (R74, R162). -/
def afterTrapReturn (retry : Bool) (t : Thread) : Thread :=
  if retry then { t with hndl := false, retry := t.trap.map fun l => { l with ltime := t.ltime }, trap := none }
  else { t with hndl := false, trap := none }

/-- The held block is loaded again at the latched address and `%ltime`, and what the thread waited for without a block it
waits for again (R162, R390). -/
def retryHeld (c k : Nat) : Act Unit := do
  modThread c k fun t =>
    match t.retry with
    | some l => { t with next := l.addr, ltime := l.ltime, block := none }
    | none => { t with block := none }
  goOn c k

/-! ### Ending a thread (R415) -/

/-- The slots of a core are filled at the end of this cycle (R112). -/
def pokeSlots (c : Nat) : Act Unit := later 0 6 (dispatchPlace c) (.taskDispatch c)

/-- A slot loses its thread: it becomes Free (R109), or stays the service slot (R391); its bit of PREQ is cleared (R397). -/
def vacate (c k : Nat) : Act Unit := do
  let now ← look (·.cycle)
  let svc ← look fun s => decide (k = 15) && (creg s c 0x0F00).getLsbD 0 && decide ((slotAt s c k).state = .service)
  modSlot c k fun x =>
    { x with state := if svc then .service else .free, thread := none, freedAt := now }
  let p ← look (creg · c 0x0F28)
  setCreg c 0x0F28 (p &&& ~~~(word (2 ^ k)))
  pokeSlots c

/-- A thread leaves its slot for good (R415): its claims and reservations, the −1 of the pops in its latches, what it still owes
(R81), its pending fault, and its slot. -/
def removeThread (c k : Nat) : Act Unit := do
  let t ← look (threadAt · c k)
  match t with
  | none => pure ()
  | some t =>
    releaseBlock c k
    countPops c t.retry
    countPops c t.trap
    each t.owed fun d => countAt c d.1 d.2 (-1)
    clearPending c k
    vacate c k

/-- A thread ends in one step (R415), its own −1 at the given time; that of a thread whose end has committed is among what it
owes. -/
def endThread (c k : Nat) (time : Word) : Act Unit := do
  let t ← look (threadAt · c k)
  match t with
  | none => pure ()
  | some t =>
    onlyIf (!t.ending) (countAt c (sheafOf t) time (-1))
    removeThread c k

end Sys2Proof.Machine
end

