-- ==== Sys2Proof/Machine/Flits.lean ====
section
/-! DEFINITION. The bytes of a flit and of the lanes of a port (R317, R318): header, CRC, striping, alignment markers and
parity. -/

namespace Sys2Proof.Machine

open Sys2Proof

/-! ### The CRC (R318) -/

/-- One bit of the CRC-32 of IEEE 802.3, least significant bit first. -/
def crcBit (x : Nat) : Nat := if x % 2 = 1 then x / 2 ^^^ 0xEDB88320 else x / 2

/-- A byte taken into the register. -/
def crcByte (x : Nat) (b : Byte) : Nat := (List.range 8).foldl (fun y _ => crcBit y) (x ^^^ b.toNat)

/-- CRC-32 with the IEEE 802.3 polynomial, its register starting at all ones and complemented at the end (PRESUMED, log entry
129). -/
def crc32 (bs : List Byte) : Nat := bs.foldl crcByte 0xFFFFFFFF ^^^ 0xFFFFFFFF

/-! ### Flits (R318) -/

/-- Bytes 0x00 to 0x0F of the header. -/
def flitHeader (f : Flit) : List Byte :=
  leBytes (f.seq % 2 ^ 16 + f.ackseq % 2 ^ 16 * 2 ^ 16 + f.vc % 4 * 2 ^ 32 + f.kind % 16 * 2 ^ 34) 8 ++
    leBytes ((List.range 4).foldl (fun n v => n + f.freed.getD v 0 % 2 ^ 16 * 2 ^ (16 * v)) 0) 8

/-- Bytes 0x18 to 0xFF: 232 bytes, unused ones 0. -/
def flitBody (f : Flit) : List Byte := (List.range 232).map fun i => f.bytes.getD i 0

/-- The CRC that a flit's other bytes have. -/
def flitCrc (f : Flit) : Nat := crc32 (flitHeader f ++ flitBody f)

/-- The 256 bytes of a flit. -/
def flitImage (f : Flit) : List Byte := flitHeader f ++ leBytes (f.crc % 2 ^ 32) 8 ++ flitBody f

/-- Whether a flit passes its check: its CRC holds and its KIND is not reserved. -/
def flitGood (f : Flit) : Bool := decide (f.kind ≤ 6) && decide (f.crc = flitCrc f)

/-- A flit with its CRC. -/
def sealFlit (f : Flit) : Flit := { f with crc := flitCrc f }

/-! ### Lanes (R317) -/

/-- What lane l carries of a flit: bytes 32l to 32l + 31. -/
def laneSlice (f : Flit) (l : Nat) : List Byte := ((flitImage f).drop (32 * l)).take 32

/-- Twice an element of GF(2^8). -/
def gfTwice (x : Nat) : Nat := if x < 128 then 2 * x else (2 * x - 256) ^^^ (Config.gfPolynomial % 256)

/-- The product of two elements: the multiples of a by the powers of 2 that b holds. -/
def gfMul (a b : Nat) : Nat :=
  ((List.range 8).foldl (fun (r : Nat × Nat) i => (if b.testBit i then r.1 ^^^ r.2 else r.1, gfTwice r.2)) (0, a)).1

/-- A power of the element 2. -/
def gfPower : Nat → Nat
  | 0 => 1
  | n + 1 => gfTwice (gfPower n)

/-- The generator with 23 roots, highest coefficient first and its leading 1 left out. -/
def rsGenerator : List Nat :=
  ((List.range 23).foldl (fun (g : List Nat) i =>
    let root := gfPower (Config.rsFirstRoot + i)
    (List.range (g.length + 1)).map fun j => g.getD j 0 ^^^ (if j = 0 then 0 else gfMul root (g.getD (j - 1) 0))) [1]).drop 1

/-- The 23 check bytes of the 200 data bytes of a codeword of RS(223,200). -/
def rsParity (data : List Byte) : List Byte :=
  (data.foldl (fun (r : List Nat) b =>
    let k := b.toNat ^^^ r.headD 0
    ((r.drop 1 ++ [0]).zip rsGenerator).map fun (e : Nat × Nat) => e.1 ^^^ gfMul k e.2) (List.replicate 23 0)).map (BitVec.ofNat 8)

/-- The 800 bytes that a lane has carried of 25 flits. -/
def laneBytes (fs : List Flit) (l : Nat) : List Byte := fs.flatMap fun f => laneSlice f l

/-- Codeword j of a lane's 800 bytes, which are interleaved byte by byte. -/
def codeword (bs : List Byte) (j : Nat) : List Byte := (List.range 200).map fun i => bs.getD (4 * i + j) 0

/-- What a lane sends after 25 slices: the alignment marker, then the parity of the four codewords in their order. -/
def laneMarker (fs : List Flit) (l : Nat) : List Byte :=
  leBytes 0x4EA5719C 4 ++ (List.range 4).flatMap fun j => rsParity (codeword (laneBytes fs l) j)

end Sys2Proof.Machine
end

