-- ==== Sys2Proof/Machine/Net.lean ====
section
/-! DEFINITION. How messages travel: the ports of the routers and the routes (R305-R307), packets and their slack
(R309, R310, R314), permits in front of the wellheads (R228), the fabric ports (R317-R323), and what arrives at the end of a
route. -/

namespace Sys2Proof.Machine

open Sys2Proof

/-! ### Ports and routes. Ports are numbered in the order of R305: 0 N, 1 S, 2 E, 3 W, 4 skip-E, 5 skip-W, 6 local. -/

/-- The router that a route ends at, and its last output (R306, R14). -/
def destRouter : Dest → Nat × Nat
  | .core c => (c, 6)
  | .well w =>
    let d := w / 48
    let i := w % 48
    if i < 24 then (coreNum d 0 i, 0) else (coreNum d 23 (i - 24), 1)
  | .port p _ => (coreNum (p / 4) (if p % 4 < 2 then 0 else 23) (if p % 2 = 0 then 0 else 23), 6)

/-- The router behind an output (R305, R306): a bridge behind E of column 23 and W of column 0. -/
def nextRouter (r out : Nat) : Nat :=
  match out with
  | 0 => r - 24
  | 1 => r + 24
  | 2 => if colOf r = 23 then coreNum (dieOf r + 1) (rowOf r) 0 else r + 1
  | 3 => if colOf r = 0 then coreNum (dieOf r - 1) (rowOf r) 23 else r - 1
  | 4 => r + 4
  | _ => r - 4

/-- The input of the next router that an output joins. -/
def facingInput (out : Nat) : Nat :=
  match out with
  | 0 => 1
  | 1 => 0
  | 2 => 3
  | 3 => 2
  | 4 => 5
  | _ => 4

/-- The packets in one input of a router. -/
def inputLoad (s : State) (r input : Nat) : Nat :=
  ((routerAt s r).packets.filter fun e => decide (e.1 = input)).length

/-- The output of a list with the fewest packets behind it, the first one of equals. -/
def leastLoaded (s : State) (r : Nat) : List Nat → Nat
  | [] => 6
  | [o] => o
  | o :: rest =>
    let b := leastLoaded s r rest
    if inputLoad s (nextRouter r o) (facingInput o) ≤ inputLoad s (nextRouter r b) (facingInput b) then o else b

/-- The productive outputs at a router toward another router, in the order of R307. -/
def productive (r dst : Nat) : List Nat :=
  let g := dieOf r * 24 + colOf r
  let h := dieOf dst * 24 + colOf dst
  if h < g then
    let dist := if dieOf dst = dieOf r then colOf r - colOf dst else colOf r
    [if 4 ≤ dist then 5 else 3]
  else
    (if g < h then
      let dist := if dieOf dst = dieOf r then colOf dst - colOf r else 23 - colOf r
      [if 4 ≤ dist then 4 else 2]
    else []) ++
      (if rowOf dst < rowOf r then [0] else if rowOf r < rowOf dst then [1] else [])

/-- The output that a packet takes at a router (R307). -/
def chooseOut (s : State) (r : Nat) (d : Dest) : Nat :=
  let (dst, last) := destRouter d
  match productive r dst with
  | [] => last
  | outs => leastLoaded s r outs

/-- The place in the last phase of a cycle in which a router looks whether it powers down: behind all that may offer it a packet
(R316). -/
def downPlace : Nat := 65535

/-- The place in the last phase of a cycle in which steals act at a core: behind the work that the cores take themselves, since the
owner of a deque comes first (R115). -/
def stealPlace (c : Nat) : Nat := 61600 + c

/-- A router that is down is woken by a packet offered to it (R316). -/
def wakeRouter (r : Nat) : Act Unit := do
  let x ← look (routerAt · r)
  onlyIf (x.down && !x.waking) (do
    modRouter r fun x => { x with waking := true }
    later 32 5 r (.routerWake r))

/-- A packet enters an input of a router in the next cycle (R310): it chooses its output, and its wait for the output begins. While
the router is down it waits in front of the input, and wakes the router (R316). -/
def enterRouter (r input : Nat) (p : Packet) : Act Unit := do
  let s ← look id
  let out := chooseOut s r p.dst
  let q := { p with out := out, entered := s.cycle + 1, overdue := none }
  later 8 6 (r * 8 + input) (.slackDecrement r p.id)
  if (routerAt s r).down then do
    modRouter r fun x => { x with offered := x.offered ++ [(input, q)] }
    wakeRouter r
  else do
    modRouter r fun x => { x with packets := x.packets ++ [(input, q)] }
    later 1 5 (4096 + r * 7 + out) (.routerGrant r out)

/-- An exhausted-slack event at the issuing core, and in SLKTHRn while SLKCTL.REPORT is 1 (R314); that of a packet of another
module is counted there. -/
def slackEventAt (core : Nat) (slot : Option Nat) : Act Unit :=
  onlyIf (decide (core < 2304)) (do
    countReg core 0x0C88 1
    let rep ← look fun s => (creg s core 0x0C80).getLsbD 0
    match slot with
    | some k => onlyIf rep (countReg core (0x0E00 + 8 * k) 1)
    | none => pure ())
def slackEvent (p : Packet) : Act Unit := slackEventAt p.core p.slot

/-- The buffers whose packets lose slack by SLACK_DECREMENT (R310): the inputs of router r have the number r, the fills that
wait at core c 2304 + c, the queue of fabric port p 4608 + p, and the packets that wait for a permit of wellhead w 4624 + w. -/
def fillBuffer (c : Nat) : Nat := 2304 + c
def portBuffer (p : Nat) : Nat := 4608 + p
def permitBuffer (w : Nat) : Nat := 4624 + w

/-- A message enters the network at an input of a router as a packet (R309). -/
def sendFrom (src input : Nat) (dst : Dest) (slack : Nat) (exh : Bool) (core : Nat) (slot : Option Nat) (m : Msg) :
    Act Unit := do
  let id ← freshId
  enterRouter src input ⟨id, dst, slack, exh, core, slot, m, 6, 0, none⟩

/-- A message leaves a core as a packet. -/
def sendMsg (src : Nat) (dst : Dest) (slack : Nat) (exh : Bool) (core : Nat) (slot : Option Nat) (m : Msg) :
    Act Unit := sendFrom src 6 dst slack exh core slot m

/-- A message leaves a wellhead as a packet (R306). -/
def sendFromWell (w : Nat) (dst : Dest) (slack : Nat) (exh : Bool) (core : Nat) (slot : Option Nat) (m : Msg) :
    Act Unit := sendFrom (destRouter (.well w)).1 (destRouter (.well w)).2 dst slack exh core slot m

/-- A message of a unit goes from the router `src` to the router `dst` as a packet with SLACK 32 (R309), while its event stands in
`mail`; within one router it arrives in the next cycle. `core` is the core that issues it, 2304 for a unit of the module (R314). -/
def unitSendBy (core src dst phase place : Nat) (e : Instr) : Act Unit :=
  if src = dst then later 1 phase place e
  else do
    let id ← freshId
    let l ← look (·.mail)
    emit (.mail (l ++ [⟨id, src, dst, phase, place, e, false⟩]))
    sendMsg src (.core dst) 32 false core none (.unit id)
def unitSend (src dst phase place : Nat) (e : Instr) : Act Unit := unitSendBy 2304 src dst phase place e

/-- Whether a message of a unit may take effect among those of the same two routers: it has come, and every earlier one has. -/
def mailDue (l : List Mail) (m : Mail) : Bool := m.here && l.all fun x => x.here || decide (m.id < x.id)

/-- A message of a unit has come through the network: the messages between two routers take effect in the order in which they were
sent (log entry 63). -/
def takeMail (id : Nat) : Act Unit := do
  let old ← look (·.mail)
  match old.find? fun m => decide (m.id = id) with
  | none => pure ()
  | some x => do
    let all := old.map fun m => if m.id = id then { m with here := true } else m
    let l := all.filter fun m => decide (m.src = x.src) && decide (m.dst = x.dst)
    let due := l.filter (mailDue l)
    emit (.mail (all.filter fun m => !due.any fun d => decide (d.id = m.id)))
    each due fun m => later 1 m.phase m.place m.ev

/-- The router at which the units of a die stand: its launch unit, frontier unit and firmware core at the north-west corner (log
entry 63). -/
def unitRouter (d : Nat) : Nat := d * 576

/-- The router at which the aggregator of a region stands: that of the region's first core (R12, log entry 63). -/
def regionRouter (r : Nat) : Nat := coreNum (r / 72) (r % 72 / 6 * 2) (r % 72 % 6 * 4)

/-- The slack and EXH that a message carries on from its packet (R312). -/
def msgWith (m : Msg) (slack : Nat) (exh : Bool) : Msg :=
  match m with
  | .access r => .access { r with slack := slack, exh := exh }
  | .refused r => .refused { r with slack := slack, exh := exh }
  | .store w => .store { w with slack := slack, exh := exh }
  | .missed w => .missed { w with slack := slack, exh := exh }
  | .task t => .task { t with slack := slack, exh := exh }
  | .cell r => .cell { r with slack := slack, exh := exh }
  | .mark t => .mark { t with slack := slack, exh := exh }
  | .sysWrite c k sid off v _ _ => .sysWrite c k sid off v slack exh
  | .fromPort p (.read r) => .fromPort p (.read { r with slack := slack, exh := exh })
  | .fromPort p (.write w) => .fromPort p (.write { w with slack := slack, exh := exh })
  | m => m

/-! ### Wellheads and permits (R13, R228) -/

/-- The wellhead of the module that serves a GDDR7 address (R220). -/
def wellOf (die w : Nat) : Nat := die * 48 + w

/-- The die of a wellhead of the module, the ×8 channel that it fronts, that channel's device on the die, and the device's number in
the module (R13). -/
def wellDie (w : Nat) : Nat := w / 48
def wellChannel (w : Nat) : Nat := w % 48 % 4
def wellDevice (w : Nat) : Nat := w % 48 / 4
def deviceNum (w : Nat) : Nat := wellDie w * 12 + wellDevice w

/-- Slack after a wait of n cycles in one buffer (R310). -/
def slackAfter (slack n : Nat) : Nat := slack - n / 8

/-- The slack and EXH that a request carries. -/
def msgSlack : Msg → Nat × Bool
  | .access r => (r.slack, r.exh)
  | .store w => (w.slack, w.exh)
  | _ => (32, false)

/-- The pools of permits (R228): that of a core's threads has the core's number; those of the fabric, of the siphons, which the matrix
units share (R285), and of the walkers of a die follow. -/
def fabricPool : Nat := 2304
def siphonPool : Nat := 2305
def walkerPool (d : Nat) : Nat := 2306 + d
/-- The pool of permits that a request draws on (R228). -/
def poolFor (a : Asker) (e : Option Engine) (core : Nat) : Nat :=
  match a, e with
  | .own, none => core
  | .own, some (.walker d _ _) => walkerPool d
  | .own, some (.loader c _ _) => c
  | .own, some _ => siphonPool
  | _, _ => fabricPool
def poolOf : Msg → Option Nat
  | .access r => match r.eng with
    | some (.adder _ _) => none
    | e => some (poolFor r.asker e r.id.core)
  | .store w => some (poolFor w.asker w.eng w.core)
  | _ => none
def poolSize (q : Nat) : Nat :=
  if q = fabricPool ∨ q = siphonPool then 64 else if fabricPool < q then 8 else 2

/-- A request enters the router `r` toward a wellhead with a permit of its pool, or waits for one while its slack goes on (R228,
R310). R228 names no pool for the launch units, whose adds to signal words enter without a permit (log entry 17). -/
def askWell (w r : Nat) (p : Packet) : Act Unit := do
  match poolOf p.msg with
  | none => enterRouter r 6 p
  | some q => do
    let s ← look id
    if ((wellAt s w).held.filter fun h => decide (h = q)).length < poolSize q then do
      modWell w fun x => { x with held := x.held ++ [q] }
      enterRouter r 6 p
    else do
      modWell w fun x => { x with waiting := x.waiting ++ [⟨q, r, p, s.cycle⟩] }
      later 7 6 (27000 + w) (.slackDecrement (permitBuffer w) p.id)

/-- A permit of a pool returns (R228): the first packet that waits for one of that pool takes it and enters its router; PERMWAIT
counts the wait at the core that has issued the request. -/
def returnPermit (w q : Nat) : Act Unit := do
  modWell w fun x => { x with held := x.held.erase q }
  let s ← look id
  match (wellAt s w).waiting.find? fun e => decide (e.pool = q) with
  | none => pure ()
  | some e => do
    modWell w fun x => { x with waiting := x.waiting.erase e, held := x.held ++ [q] }
    onlyIf (decide (e.packet.core < 2304)) (countReg e.packet.core 0x0230 (s.cycle - e.since))
    enterRouter e.router 6 e.packet

/-- The permit that a message holds at a wellhead returns. -/
def permitBack (w : Nat) (m : Msg) : Act Unit :=
  match poolOf m with
  | some q => returnPermit w q
  | none => pure ()

/-! ### Messages to owners and their replies -/

/-- The ports that lead toward a node and are not given up (R322, R323). -/
def routePorts (s : State) (n : Nat) : List Nat :=
  (List.range 16).filter fun p => (mreg s (0x30000 + 8 * n)).getLsbD p && !(portAt s p).timedOut

/-- The mesh hops from a core to a port (R323): rows, and columns with the skip links. -/
def hopsTo (c p : Nat) : Nat :=
  let r := (destRouter (.port p 0)).1
  let rows := max (rowOf c) (rowOf r) - min (rowOf c) (rowOf r)
  let seg := fun (a b : Nat) => (max a b - min a b) / 4 + (max a b - min a b) % 4
  let cols :=
    if dieOf c = dieOf r then seg (colOf c) (colOf r)
    else if dieOf c < dieOf r then
      seg (colOf c) 23 + (dieOf r - dieOf c) + (dieOf r - dieOf c - 1) * seg 0 23 + seg 0 (colOf r)
    else
      seg 0 (colOf c) + (dieOf c - dieOf r) + (dieOf c - dieOf r - 1) * seg 0 23 + seg (colOf r) 23
  rows + cols

/-- The port of a list nearest a core, the lowest of equals (R323). -/
def nearestPort (c : Nat) : List Nat → Option Nat
  | [] => none
  | p :: rest =>
    match nearestPort c rest with
    | none => some p
    | some q => if hopsTo c p ≤ hopsTo c q then some p else some q

/-- Whether the owner of an address can be reached: no fenced die (R428), and a port toward another node (R323). -/
def reachable (s : State) : Owner → Bool
  | .gddr d _ => !dieFenced s d
  | .cistern c _ => !dieFenced s (dieOf c)
  | .fabric n _ => !(routePorts s n).isEmpty
  | .control _ => true
  | .nothing => false

/-- The die at which the owner of an address is reached. -/
def ownerDie (s : State) (c : Nat) : Owner → Option Nat
  | .gddr d _ => some d
  | .cistern d _ => some (dieOf d)
  | .fabric n _ => (nearestPort c (routePorts s n)).map fun p => p / 4
  | _ => none

/-- Whether a die lies between two others and carries nothing across (R10, R428). -/
def transitBlocked (s : State) (a b : Nat) : Bool :=
  (List.range 4).any fun d =>
    decide (min a b < d) && decide (d < max a b) && dieFenced s d && Config.meshDead d

/-- Whether a core's access reaches the owner of an address: the owner can be reached, and no die on the way is in its way (R428). -/
def reaches (s : State) (c : Nat) (o : Owner) : Bool :=
  reachable s o && !((ownerDie s c o).elim false fun d => transitBlocked s (dieOf c) d)

/-- A message on behalf of slot k of core c goes from the router `src` to the owner of an address: the router's own memory port at
once, another core or a wellhead through the mesh, another node through the nearest port (R323). -/
def sendFromTo (src c : Nat) (k : Option Nat) (o : Owner) (slack : Nat) (exh : Bool) (m : Msg) (own : Act Unit) : Act Unit := do
  match o with
  | .cistern d _ => if d = src then own else sendMsg src (.core d) slack exh c k m
  | .gddr d w => do
    let id ← freshId
    askWell (wellOf d w) src ⟨id, .well (wellOf d w), slack, exh, c, k, m, 6, 0, none⟩
  | .fabric n _ => do
    let s ← look id
    match nearestPort src (routePorts s n) with
    | some p => sendMsg src (.port p n) slack exh c k m
    | none => pure ()
  | .control _ => own
  | .nothing => pure ()

/-- A message of a core's thread goes to the owner of an address. -/
def sendToOwner (c k : Nat) (o : Owner) (slack : Nat) (exh : Bool) (m : Msg) (own : Act Unit) : Act Unit :=
  sendFromTo c c (some k) o slack exh m own

/-! ### Engines and walkers: where they stand and what they are answered (R224, R256, R285) -/

/-- The router at which a unit that asks for memory stands (log entry 139): siphon i of a die at row 0, column 8 + i; the matrix unit
at its core; the walkers with the other units of the die. -/
def engineRouter : Engine → Nat
  | .siphon n _ => coreNum (n / 16) 0 (8 + n % 16)
  | .matrix c _ => c
  | .walker d _ _ => unitRouter d
  | .loader c _ _ => c
  | .adder d _ => unitRouter d

/-- The execution of a matrix command (R292-R299). -/
def matrixEvent (core : Nat) : CmdKind → Instr
  | .mprog => .mprogInstall core
  | .mlw _ => .mlwExecution core
  | .mma _ => .mmaExecution core
  | .mst => .mstExecution core
  | .mzr => .mzrExecution core
  | .mmov _ => .mmovExecution core
  | .mres _ => .mresExecution core
  | .copy _ => .mprogInstall core

/-- An event in the next cycle, unless it is to come already. -/
def againSoon (phase place : Nat) (e : Instr) : Act Unit := do
  let on ← look fun s => s.agenda.any fun x => decide (x.2 = e)
  onlyIf (!on) (later 1 phase place e)

/-- The accesses of a command change, while the command is the one in progress at its unit. -/
def modXfer (e : Engine) (f : Xfer → Xfer) : Act Unit :=
  match e with
  | .siphon n cmd => modSiphon n fun y =>
      if y.queue.head?.map (·.id) = some cmd then { y with xfer := f y.xfer } else y
  | .matrix c cmd => modCore c fun x =>
      if x.mu.queue.head?.map (·.id) = some cmd then { x with mu := { x.mu with xfer := f x.mu.xfer } } else x
  | _ => pure ()

/-- The accesses of the command in progress at a unit. -/
def xferAt (s : State) : Engine → Xfer
  | .siphon n _ => (siphonAt s n).xfer
  | .matrix c _ => (coreAt s c).mu.xfer
  | _ => Xfer.none

/-- The place in a cycle of what concerns a slot. -/
def slotPlace (c k : Nat) : Nat := c * 16 + k

/-- A unit goes on in the next cycle. -/
def pokeEngine (e : Engine) : Act Unit := do
  let s ← look id
  match e with
  | .siphon n _ =>
    if (siphonAt s n).started then againSoon 5 (21100 + n) (.copyCompletion n) else againSoon 5 (21000 + n) (.siphonStart n)
  | .matrix c _ => match (coreAt s c).mu.queue with
    | x :: _ => againSoon 5 (44000 + c) (matrixEvent c x.kind)
    | [] => pure ()
  | .walker d asid page => againSoon 1 65535 (.pageWalk d asid page)
  | .loader c k _ => againSoon 4 (slotPlace c k) (.blockLoad c k)
  | .adder _ seq => later 1 5 55000 (.reportTimeout seq)

/-- The accesses of a command after an answer. -/
def noteAnswer (a : EngAnswer) (x : Xfer) : Xfer :=
  let y := { x with out := x.out - 1 }
  match a with
  | .bytes pa data => { y with got := y.got ++ [(pa, data)] }
  | .bumped v => { y with bumps := y.bumps ++ [v] }
  | .written _ => y
  | .failed pas => { y with lost := y.lost ++ pas }

/-- A walk after an answer: the entry that it has read, or that its table cannot be reached. -/
def noteEntry (a : EngAnswer) (w : Walk) : Walk :=
  match a with
  | .bytes pa data => { w with asking := false, entries := w.entries ++ [(pa, some (leNat data))] }
  | .failed pas => { w with asking := false, entries := w.entries ++ [(pas.headD 0, none)] }
  | _ => w

/-- The waits for signal words of another node among 8 bytes that this module has written are tested (R105). -/
def pokeForeign (pa : Nat) : Act Unit := do
  let s ← look id
  match ownerOf s pa with
  | .fabric _ _ => pokeWaits pa 8
  | _ => pure ()

/-- What an answer to a unit says of memory: a word of another node that has been written. -/
def noteWritten (a : EngAnswer) : Act Unit :=
  match a with
  | .written pa => pokeForeign pa
  | _ => pure ()

/-- An answer has come to a unit that has asked for memory; it goes on once nothing that it has asked for is outstanding. -/
def engineAnswer (e : Engine) (a : EngAnswer) : Act Unit := do
  match e with
  | .walker d asid page => do
    modDie d fun x => { x with walks := x.walks.map fun w =>
      if w.asid = asid ∧ w.page = page ∧ w.asking then noteEntry a w else w }
    pokeEngine e
  | .loader c k n => do
    modThread c k fun t => if t.fetch.asked = n then { t with fetch := noteAnswer a t.fetch } else t
    let s ← look id
    onlyIf ((threadAt s c k).elim false fun t => decide (t.fetch.asked = n) && decide (t.fetch.out = 0)) (pokeEngine e)
  | .adder _ seq => do
    let l ← look (·.reports)
    emit (.reports (l.map fun r => if r.seq = seq then { r with added := true } else r))
    pokeEngine e
  | _ => do
    noteWritten a
    modXfer e (noteAnswer a)
    let x ← look (xferAt · e)
    onlyIf (decide (x.out = 0)) (pokeEngine e)

/-- The answer of a request that reads, or of one that cannot be served. -/
def engBytes (r : Req) (data : List Byte) : EngAnswer := .bytes (r.bytes.headD (0, 0)).2 data
def engFailed (r : Req) : EngAnswer := .failed (r.bytes.map (·.2))

/-- The answer to a request whose owner cannot be reached. -/
def noMemoryFor (r : Req) : Delivery :=
  match r.eng with
  | some e => .engine e (engFailed r)
  | none => .noMemory r.id (r.bytes.headD (0, 0)).1

/-- The acknowledgement of a store word (R230). -/
def ackOf (w : StoreWord) : Msg :=
  match w.eng with
  | some e => .deliver (.engine e (.written (w.word * 8)))
  | none => .storeAck w.core w.slot w.sid

/-- A reply goes back to a core from the router `src` (R312), or at once on the same core, never before cycle `first`. -/
def replyTo (src c : Nat) (slot : Option Nat) (slack : Nat) (exh : Bool) (first : Nat) (place : Nat) (m : Msg)
    (e : Instr) : Act Unit :=
  if src = c then atCycle first 2 place e else sendMsg src (.core c) slack exh c slot m

/-- The cycle before which no reply of an execution is delivered: seven after its instruction fired (R154). -/
def firstDelivery (s : State) (id : ExecId) : Nat :=
  match blockAt s id.core id.slot with
  | some b => match b.fired.find? fun f => decide (f.idx = id.idx) with
    | some f => f.cycle + 7
    | none => s.cycle
  | none => s.cycle

/-- The execution that a delivery is for. -/
def deliveryId : Delivery → ExecId
  | .tokens id _ _ => id
  | .bytes id _ => id
  | .taken id _ _ => id
  | .cell r => r.id
  | .noMemory id _ => id
  | .engine _ _ => ⟨0, 0, 0, 0⟩

/-- A delivery is due in this cycle, or at c + 7 of its instruction, or at the start of the next cycle when it brings a
fault (log entry 1). -/
def deliverNow (d : Delivery) : Act Unit := do
  let s ← look id
  let id := deliveryId d
  match d with
  | .noMemory _ _ => later 1 1 id.idx (.tokenDelivery d)
  | .engine e a => engineAnswer e a
  | _ => atCycle (firstDelivery s id) 2 (slotPlace id.core id.slot) (.tokenDelivery d)

/-- The message to another node's units leaves by the port nearest the router `src`, with SLACK 32 (R309, R323); a node to which no
port leads gets none. -/
def sendNode (src n : Nat) (m : NodeMsg) : Act Unit := do
  let s ← look id
  match nearestPort src (routePorts s n) with
  | some p => sendMsg src (.port p n) 32 false 2304 none (.node m)
  | none => pure ()

/-- The answer of a plain read of a node: its tag and the bytes. -/
def hostReply (tag : Nat) : Msg → Option Msg
  | .deliver (.bytes _ d) => some (.nodeReply tag d)
  | .deliver _ => some (.nodeReply tag [])
  | _ => none

/-- An answer goes back to who asked (R312): to a core of this module, or to the node through the nearest of its ports; it enters the
router `src` at `input`. A plain write of a node has no answer. -/
def sendBack (src input : Nat) (a : Asker) (core : Nat) (slot : Nat) (slack : Nat) (exh : Bool) (m : Msg) : Act Unit := do
  let s ← look id
  let away := fun (n : Nat) (m : Msg) => match nearestPort src (routePorts s n) with
    | some p => sendFrom src input (.port p n) slack exh 2304 none m
    | none => pure ()
  let to_ := match m with
    | .deliver (.engine e _) => engineRouter e
    | _ => core
  match a with
  | .own => sendFrom src input (.core to_) slack exh core (some slot) m
  | .peer n => away n m
  | .host n tag => match hostReply tag m with
    | some m => away n m
    | none => pure ()

/-- A message to an owner that cannot be reached is answered with the permission fault of reason 3 at its issuer (R323,
R428); the −1 of an item is recorded, with its colour (R86). -/
def unreachableMsg (m : Msg) : Act Unit := do
  match m with
  | .access r | .refused r => deliverNow (noMemoryFor r)
  | .deliver (.engine e (.bytes pa data)) => engineAnswer e (.failed ((List.range data.length).map (pa + ·)))
  | .deliver (.engine e a) => engineAnswer e a
  | .deliver d => later 1 1 (deliveryId d).idx (.tokenDelivery (.noMemory (deliveryId d) 0))
  | .store w | .missed w =>
    match w.eng with
    | some e => engineAnswer e (.failed [w.word * 8])
    | none => do
      modCore w.core fun x => { x with sent := x.sent.filter fun e => decide (e.word.sid ≠ w.sid) }
      raise w.core w.slot ⟨0x11, 3, 0xFF, w.va⟩
  | .storeAck c k sid => do
    let l ← look fun s => (coreAt s c).sent.filter fun e => decide (e.word.sid = sid)
    modCore c fun x => { x with sent := x.sent.filter fun e => decide (e.word.sid ≠ sid) }
    each l fun e => raise c k ⟨0x11, 3, 0xFF, e.word.va⟩
  | .task t => onlyIf t.sel.isSome (do
      colourReceived t.src t.col
      countAt t.src t.sheaf t.time (-1))
  | .cell r => later 1 1 r.id.idx (.tokenDelivery (.noMemory r.id 0))
  | .mark t => do
    onlyIf t.counted (do
      colourReceived t.core t.col
      countAt t.core (some t.sheaf) t.time (-1))
    later 1 5 t.core (.markAck t.core t.slot t.inc)
  | .markAck o k inc => later 1 5 o (.markAck o k inc)
  | .stealAsk t => later 1 7 (stealPlace t.thief) (.stealReply { t with entry := none })
  | .stealReply t => match t.entry with
    | some e => do
      colourReceived t.thief t.col
      countAt t.thief (some e.2.2.2) e.2.1 (-1)
    | none => pure ()
  | .sysWrite o k sid _ _ _ _ => later 1 1 (slotPlace o k) (.storeAcknowledgement o k sid)
  | .unit id => do
    let l ← look (·.mail)
    emit (.mail (l.filter fun m => decide (m.id ≠ id)))
  | _ => pure ()

/-- A message that stops at the router `src` because its owner cannot be reached: one of another node is answered there. -/
def unreachableAt (src : Nat) (m : Msg) : Act Unit :=
  match m with
  | .access r => if r.asker = .own then unreachableMsg m
    else sendBack src 6 r.asker r.id.core r.id.slot r.slack r.exh (.deliver (noMemoryFor r))
  | .store w => if w.asker = .own then unreachableMsg m
    else sendBack src 6 w.asker w.core w.slot w.slack w.exh (ackOf w)
  | .fromPort _ (.read r) => sendBack src 6 r.asker r.id.core r.id.slot r.slack r.exh (.deliver (noMemoryFor r))
  | .fromPort _ (.write w) => sendBack src 6 w.asker w.core w.slot w.slack w.exh (ackOf w)
  | m => unreachableMsg m

/-- A message that no port can carry to its node (R322): one of this module is answered with reason 3 at its issuer; an answer to the
other node is lost. -/
def unreachableOut (src : Nat) (m : Msg) : Act Unit :=
  match m with
  | .deliver _ | .refused _ | .storeAck _ _ _ | .nodeReply _ _ => pure ()
  | m => unreachableAt src m

/-- What a fenced core does with a message (R427): it is dropped, and the −1 of an item is recorded with its colour (R86); its cells
answer that they have Failed (R30, R36, R43), its store words still come to their end, its memory still serves the engine commands that go
on (R415, log entry 140), and a fenced die answers accesses (R428). -/
def arriveAtFenced (c : Nat) (m : Msg) : Act Unit := do
  let s ← look id
  match m with
  | .task t => onlyIf t.sel.isSome (do
      colourReceived c t.col
      countAt c t.sheaf t.time (-1))
  | .mark t => do
    onlyIf t.counted (do
      colourReceived c t.col
      countAt c (some t.sheaf) t.time (-1))
    sendMsg c (.core t.core) t.slack t.exh t.core (some t.slot) (.markAck t.core t.slot t.inc)
  | .stealReply t => match t.entry with
    | some e => do
      colourReceived c t.col
      countAt c (some e.2.2.2) e.2.1 (-1)
    | none => pure ()
  | .cell r => later 1 5 (40000 + c) (.heldDecision { r with came := s.cycle })
  | .storeAck o k sid => later 1 1 (slotPlace o k) (.storeAcknowledgement o k sid)
  | .missed w => modCore c fun x => { x with sent := x.sent.filter fun e => decide (e.word.sid ≠ w.sid) }
  | .access r =>
    if dieFenced s (dieOf c) then unreachableAt c (.access r)
    else onlyIf r.eng.isSome (later 1 1 (slotPlace r.id.core r.id.slot) (.ownerAccess r))
  | .store w =>
    if dieFenced s (dieOf c) then unreachableAt c (.store w)
    else onlyIf w.eng.isSome (later 1 1 (slotPlace w.core w.slot) (.storeWordApply w))
  | .unit n => takeMail n
  | _ => pure ()

/-- What a core that is not fenced does with a message. -/
def serveAtCore (c : Nat) (m : Msg) : Act Unit := do
  let s ← look id
  match m with
  | .access r => later 1 1 (slotPlace r.id.core r.id.slot) (.ownerAccess r)
  | .deliver d => deliverNow d
  | .refused r => later 1 1 r.id.idx (.ldsStsRefusal r)
  | .store w => later 1 1 (slotPlace w.core w.slot) (.storeWordApply w)
  | .storeAck o k sid => later 1 1 (slotPlace o k) (.storeAcknowledgement o k sid)
  | .missed w => later 1 1 300 (.scopeMiss w)
  | .task t => later 1 4 (slotPlace t.core t.slot) (if t.sel.isSome then .fillArrival t else .wakeArrival t)
  | .report o aw ap => later 1 4 o (.reportWordAdd o aw ap)
  | .stealAsk t => later 1 7 (stealPlace c) (.stealRequest c t)
  | .stealReply t => later 1 7 (stealPlace c) (.stealReply t)
  | .cell r => later 1 5 (40000 + c) (.heldDecision { r with came := s.cycle })
  | .mark t => later 1 5 c (.mark t)
  | .markAck o k inc => later 1 5 o (.markAck o k inc)
  | .sysWrite o k sid off v slack exh => do
    later 1 5 c (.registerWrite off v (.thread o k))
    sendMsg c (.core o) slack exh o (some k) (.storeAck o k sid)
  | .unit n => takeMail n
  | .nodeReply _ _ | .node _ | .fromPort _ _ => pure ()

/-- A message has reached the router it was sent to: a unit that stands there has its answer, or the core takes it. -/
def arriveAtCore (c : Nat) (m : Msg) : Act Unit := do
  let s ← look id
  match m with
  | .deliver (.engine e a) => engineAnswer e a
  | m => if isFenced s c then arriveAtFenced c m else serveAtCore c m

/-- A message has reached a wellhead (R228): it is served in arrival order. A wellhead of a fenced die has stopped (R428). -/
def arriveAtWell (w : Nat) (m : Msg) : Act Unit := do
  let s ← look id
  if (wellAt s w).stopped then unreachableAt (destRouter (.well w)).1 m
  else do
    let extra ← takeDelay
    modWell w fun x => { x with queue := x.queue ++ [(m, s.cycle)] }
    later (1 + extra) 3 w (.wellheadRequest w)

/-! ### Fabric ports: sending (R317-R322) -/

/-- The virtual channel of a message: requests, replies, system, or time (R318). -/
def channelOf : Msg → Nat
  | .access _ | .store _ | .task _ | .cell _ | .mark _ | .stealAsk _ => 0
  | .node (.sync _) => 3
  | .node _ | .sysWrite _ _ _ _ _ _ _ => 2
  | _ => 1

/-- A list of numbers with entry i changed. -/
def onNth (i : Nat) (f : Nat → Nat) (l : List Nat) : List Nat :=
  (List.range l.length).map fun j => if j = i then f (l.getD j 0) else l.getD j 0

/-- A packet as it leaves for another node: requests carry the node of this module (R218). -/
def fabricMsg (node : Nat) (k : Packet) : FabricMsg :=
  match msgWith k.msg k.slack k.exh with
  | .access r => .access node r
  | .store w => .store node w
  | .node (.report addr bytes) => .write node addr bytes k.slack k.exh
  | m => .msg k.slack k.exh m

/-- A flit of a port, with the header that it has now (R318): the SEQ expected from the other end, less 1, is the last received in
order. -/
def flitOf (x : Port) (kind vc seq : Nat) (body : List FabricMsg) (data : List Nat) (void : Bool) : Flit :=
  sealFlit
    { seq := seq, ackseq := (x.rxSeq + 2 ^ 16 - 1) % 2 ^ 16, vc := vc, kind := kind, freed := x.freed, crc := 0,
      bytes := if body.isEmpty && data.isEmpty then [] else Config.flitBytes kind body data, body := body, data := data, void := void }

/-- A flit leaves a port. After 25 flits each lane sends its alignment marker and parity (R317). -/
def emitFlit (p : Nat) (f : Flit) : Act Unit := do
  emit (.out (.flit p f))
  let x ← look (portAt · p)
  let l := x.period ++ [f]
  modPort p fun y => { y with period := if l.length < 25 then l else [], sinceAudit := y.sinceAudit + 1 }
  onlyIf (decide (25 ≤ l.length)) (emit (.out (.marker p ((List.range 8).map (laneMarker l)))))

/-- After 4,096 flits an audit flit leaves a port that is up, with SENT, FSEEN and AVAIL as they stand (R321). -/
def insertAudit (p : Nat) : Act Unit := do
  let x ← look (portAt · p)
  onlyIf (x.up && !x.training && decide (4096 ≤ x.sinceAudit)) (do
    emitFlit p (flitOf x 2 2 x.txSeq [] (x.sent ++ x.fseen ++ x.avail) false)
    modPort p fun x => { x with sinceAudit := 0, usedSinceAudit := [0, 0, 0, 0] })

/-- A flit leaves a port, and an audit behind the 4,096th (R321). -/
def putFlit (p : Nat) (f : Flit) : Act Unit := do
  emitFlit p f
  insertAudit p

/-- A control flit of a KIND on VC 2. -/
def putControl (p kind : Nat) (data : List Nat) : Act Unit := do
  let x ← look (portAt · p)
  putFlit p (flitOf x kind 2 x.txSeq [] data false)

/-- The first packet of a port's queue whose channel has a unit to use. -/
def sendable (x : Port) : Option Packet := x.queue.find? fun p => decide (0 < x.avail.getD (channelOf p.msg) 0)

/-- A data flit leaves a port: it takes the next SEQ and one unit of its channel, and stays in the replay buffer
until it is acknowledged (R319, R320). -/
def sendFlit (p vc : Nat) (body : List FabricMsg) : Act Unit := do
  let x ← look (portAt · p)
  modPort p fun y =>
    { y with
      txSeq := (y.txSeq + 1) % 2 ^ 16, replay := y.replay ++ [(x.txSeq, vc, body)],
      sent := onNth vc (fun n => (n + 1) % 2 ^ 16) y.sent, avail := onNth vc (· - 1) y.avail,
      usedSinceAudit := onNth vc (· + 1) y.usedSinceAudit }
  putFlit p (flitOf x 0 vc x.txSeq body [] false)

/-- A port that is up sends what waits in its queue while it has units and room in its replay buffer of 512 flits; at most
`fuel` packets. -/
def pumpPort (p : Nat) : Nat → Act Unit
  | 0 => pure ()
  | fuel + 1 => do
    let s ← look id
    let x := portAt s p
    if x.up && !x.training && decide (x.replay.length < 512) then
      match sendable x with
      | none => pure ()
      | some k => do
        modPort p fun y => { y with queue := y.queue.erase k }
        sendFlit p (channelOf k.msg) [fabricMsg (nodeId s) k]
        pumpPort p fuel
    else pure ()

/-- A port sends while it can. -/
def pumpAll (p : Nat) : Act Unit := do
  let n ← look fun s => (portAt s p).queue.length
  pumpPort p n

/-- A port tells what it has received and freed: by the data flits that it can send, else by an idle flit (R318). -/
def tellPort (p : Nat) : Act Unit := do
  let x ← look (portAt · p)
  onlyIf (x.up && !x.training) (do
    pumpAll p
    let y ← look (portAt · p)
    onlyIf (decide (y.txSeq = x.txSeq)) (putControl p 1 []))

/-- A packet has reached the fabric port it leaves by (R322): it waits in the port's queue until a flit takes it, and its slack
goes on (R310). A port that has passed its limit sends it on by another port toward its node, or it is answered. -/
def arriveAtPort (p : Nat) (k : Packet) : Act Unit := do
  let s ← look id
  let r := (destRouter (.port p 0)).1
  if (portAt s p).timedOut then
    match k.dst with
    | .port _ n => match nearestPort r (routePorts s n) with
      | some q => sendMsg r (.port q n) k.slack k.exh k.core k.slot k.msg
      | none => unreachableOut r k.msg
    | _ => pure ()
  else do
    onlyIf (decide (k.slack = 0) && !k.exh) (slackEvent k)
    let q := { k with entered := s.cycle + 1, exh := k.exh || decide (k.slack = 0) }
    modPort p fun x => { x with queue := x.queue ++ [q] }
    later 8 6 (26000 + p) (.slackDecrement (portBuffer p) k.id)
    pumpPort p 1

/-! ### Fabric ports: the entries of the receive window (R320) -/

/-- Entries whose packets have all gone on are free again: a spare is returned first, and each adds 1 to FREED. -/
def freeWindow (p : Nat) : Act Unit := do
  let x ← look (portAt · p)
  let done := x.holding.filter fun e => e.2.isEmpty
  onlyIf (!done.isEmpty) (do
    modPort p fun y => { y with holding := y.holding.filter fun e => !e.2.isEmpty }
    each done fun e => modPort p fun y =>
      { y with
        spares := if y.spares.getD e.1 0 < 4 then onNth e.1 (· + 1) y.spares else y.spares,
        window := if y.spares.getD e.1 0 < 4 then y.window else onNth e.1 (· + 1) y.window,
        freed := onNth e.1 (fun n => (n + 1) % 2 ^ 16) y.freed })

/-- The ports at a router. -/
def portsAt (r : Nat) : List Nat := (List.range 16).filter fun p => decide ((destRouter (.port p 0)).1 = r)

/-- A packet has left the local input of a router: the entry of the port that brought it gives it up, and the port tells of an entry
that this frees. -/
def leaveEntry (r id : Nat) : Act Unit :=
  each (portsAt r) fun p => do
    let x ← look (portAt · p)
    onlyIf (x.holding.any fun e => e.2.contains id) (do
      modPort p fun y => { y with holding := y.holding.map fun e => (e.1, e.2.filter fun n => decide (n ≠ id)) }
      let y ← look (portAt · p)
      freeWindow p
      onlyIf (y.holding.any fun e => e.2.isEmpty) (tellPort p))

end Sys2Proof.Machine
end

