-- ==== Sys2Proof/Machine/Arith.lean ====
section
/-! DEFINITION. The results of the integer, immediate and bit-field instructions on their operand values
(R179-R185, R52). -/

namespace Sys2Proof.Machine

/-- The width of a TYPE (R179). -/
def intWidth : IntType → Nat
  | .i64 | .n64 => 64
  | .i32 | .n32 => 32
  | .i16 | .n16 => 16
  | .i8 | .n8 => 8

/-- Whether a TYPE is signed. -/
def intSigned : IntType → Bool
  | .i64 | .i32 | .i16 | .i8 => true
  | _ => false

/-- An operand: the low w bits of its token, read as signed or unsigned (R180). -/
def intOperand (ty : IntType) (x : Word) : Int :=
  if intSigned ty then sintOf (intWidth ty) x.toNat
  else (x.toNat % 2 ^ intWidth ty : Nat)

/-- The low w bits of an exact result, extended to 64 bits by the type (IntResult of R180). -/
def intExtend (ty : IntType) (x : Int) : Word :=
  let w := intWidth ty
  if intSigned ty then (BitVec.ofInt w x).signExtend 64 else (BitVec.ofInt w x).setWidth 64

/-- The limits of a TYPE. -/
def intLimits (ty : IntType) : Int × Int := intRange (intWidth ty) (intSigned ty)

/-- IntResult of R180: wrapping, or clamped with OF. -/
def intResult (ty : IntType) (mode : SatMode) (x : Int) : Word × NumFlags :=
  let (lo, hi) := intLimits ty
  match mode with
  | .wrap => (intExtend ty x, noFlags)
  | .sat =>
    if x < lo then (intExtend ty lo, flagOf)
    else if x > hi then (intExtend ty hi, flagOf)
    else (intExtend ty x, noFlags)

/-- The quotient of R52: all bits set for a divisor 0, the minimum for the minimum ÷ −1, else truncated toward 0. -/
def intQuotient (a b : Int) : Int := if b = 0 then -1 else a.tdiv b

/-- The remainder of R52: the dividend for a divisor 0, else the sign of the dividend. -/
def intRemainder (a b : Int) : Int := if b = 0 then a else a.tmod b

/-- The shift amount: `.r` bits log₂(w)−1:0, unsigned (R180). -/
def shiftAmount (ty : IntType) (r : Word) : Nat := r.toNat % intWidth ty

/-- The low w bits of a token as an unsigned number. -/
def lowBits (ty : IntType) (x : Word) : Nat := x.toNat % 2 ^ intWidth ty

/-- The condition of CMP on two operands. -/
def condHolds (c : Cond) (a b : Int) : Bool :=
  match c with
  | .eq => decide (a = b)
  | .ne => decide (a ≠ b)
  | .lt => decide (a < b)
  | .ge => decide (a ≥ b)

/-- A truth value as a scalar. -/
def boolWord (b : Bool) : Word := if b then 1 else 0

/-- imm14 sign-extended (R182). -/
def immS (i : BitVec 14) : Word := i.signExtend 64

/-- The number of trailing zeros among the low n bits of x, counting up from bit i. -/
def trailingZeros (x : Nat) : Nat → Nat → Nat
  | 0, i => i
  | n + 1, i => if x / 2 ^ i % 2 = 1 then i else trailingZeros x n (i + 1)

/-- The number of 1 bits among the low n bits of x. -/
def popCount (x : Nat) : Nat → Nat
  | 0 => 0
  | n + 1 => popCount x n + x / 2 ^ n % 2

/-- The result of BITS (R185). -/
def bitsResult (op : BitsOp) (l r : Word) : Word :=
  let p := r.toNat % 64
  let len := r.toNat / 256 % 64 + 1
  let fld := l.toNat / 2 ^ p % 2 ^ len
  match op with
  | .ext => word fld
  | .sext => BitVec.ofInt 64 (sintOf len fld)
  | .clz => if l = 0 then 64 else word (63 - Nat.log2 l.toNat)
  | .ctz => word (trailingZeros l.toNat 64 0)
  | .popc => word (popCount l.toNat 64)

/-- n of LEA (R183). -/
def leaShift : LeaScale → Nat
  | .s0 => 0 | .s1 => 1 | .s2 => 2 | .s3 => 3 | .s4 => 4

end Sys2Proof.Machine
end

