-- ==== Sys2Proof/Machine/VecOps.lean ====
section
/-! DEFINITION. The results of the vector instructions on their operand tokens (R186-R213). -/

namespace Sys2Proof.Machine

/-- A result token with the flags its live elements raised. -/
abbrev VRes := Token × NumFlags

/-- Union of the flags of live elements. -/
def unionFlags (es : List (Option (Nat × NumFlags))) : NumFlags :=
  es.foldl (fun f e => match e with | some (_, g) => f.or g | none => f) noFlags

/-- The values of elements, without their flags. -/
def elemVals (es : List (Option (Nat × NumFlags))) : List (Option Nat) := es.map (·.map Prod.fst)

/-- A result of 32 lanes. -/
def lanesRes (f : Nat → Option (Nat × NumFlags)) : VRes :=
  let es := (List.range 32).map f
  (ofLanes (elemVals es), unionFlags es)

/-- A result of 64 halves. -/
def halvesRes (f : Nat → Option (Nat × NumFlags)) : VRes :=
  let es := (List.range 64).map f
  (ofHalves (elemVals es), unionFlags es)

/-- Whether the element of a VT is a half (R187). -/
def vtHalf : VecType → Bool
  | .bf16 | .fp16 | .i16 | .n16 => true
  | _ => false

/-- The float layout of a floating VT. -/
def vtFloat : VecType → Option FloatFmt
  | .fp32 => some fp32
  | .bf16 => some bf16
  | .fp16 => some fp16
  | _ => none

/-- Width and signedness of an integer VT. -/
def vtInt : VecType → Nat × Bool
  | .i32 => (32, true)
  | .n32 => (32, false)
  | .i16 => (16, true)
  | _ => (16, false)

/-- Apply a function to each element of one operand (R190). -/
def mapElems (half : Bool) (a : Vec × Word) (f : Nat → Nat × NumFlags) : VRes :=
  if half then halvesRes fun h => (liveHalf a h).map f
  else lanesRes fun i => (liveLane a i).map f

/-- Apply a function to each pair of elements (R190): null when either input element is null. -/
def mapElems2 (half : Bool) (a b : Vec × Word) (f : Nat → Nat → Nat × NumFlags) : VRes :=
  if half then halvesRes fun h => (liveHalf a h).bind fun x => (liveHalf b h).map (f x)
  else lanesRes fun i => (liveLane a i).bind fun x => (liveLane b i).map (f x)

/-- An integer element under a VT. -/
def vecInt (vt : VecType) (x : Nat) : Int :=
  let (w, s) := vtInt vt
  if s then sintOf w x else (x % 2 ^ w : Nat)

/-- An exact integer result under a VT: wrapping, or clamped with OF (R194). -/
def vecIntResult (vt : VecType) (mode : SatMode) (x : Int) : Nat × NumFlags :=
  let (w, s) := vtInt vt
  let (lo, hi) := intRange w s
  match mode with
  | .wrap => (bitsOfInt w x, noFlags)
  | .sat =>
    if x < lo then (bitsOfInt w lo, flagOf)
    else if x > hi then (bitsOfInt w hi, flagOf)
    else (bitsOfInt w x, noFlags)

/-- A two-operand arithmetic element: the floating function or the exact integer function (R194). -/
def arithElem (vt : VecType) (mode : SatMode) (ff : FloatFmt → Nat → Nat → Nat × NumFlags)
    (fi : Int → Int → Int) (a b : Nat) : Nat × NumFlags :=
  match vtFloat vt with
  | some f => ff f a b
  | none => vecIntResult vt mode (fi (vecInt vt a) (vecInt vt b))

/-- VADD, VSUB, VMUL, VMIN, VMAX (R194). -/
def vecArith (vt : VecType) (mode : SatMode) (ff : FloatFmt → Nat → Nat → Nat × NumFlags)
    (fi : Int → Int → Int) (a b : Token) : VRes :=
  mapElems2 (vtHalf vt) (asVec a) (asVec b) (arithElem vt mode ff fi)

/-- The layout of VFMA's element type. -/
def floatFmt : FloatType → FloatFmt
  | .fp32 => Machine.fp32
  | .bf16 => Machine.bf16
  | .fp16 => Machine.fp16

/-- VFMA (R195). -/
def vecFma (vt : FloatType) (mode : FmaMode) (a b c : Token) : VRes :=
  let f := floatFmt vt
  let va := (asVec a)
  let vb := (asVec b)
  let vc := (asVec c)
  let op (x y z : Nat) : Nat × NumFlags :=
    let x := f.value x
    let y := f.value y
    let z := f.value z
    match mode with
    | .plain => fmaV f x y z
    | .ms => fmaV f x y z.negate
    | .nma => fmaV f x.negate y z
  match vt with
  | .fp32 => lanesRes fun i => (liveLane va i).bind fun x => (liveLane vb i).bind fun y =>
      (liveLane vc i).map fun z => op x y z
  | _ => halvesRes fun h => (liveHalf va h).bind fun x => (liveHalf vb h).bind fun y =>
      (liveHalf vc h).map fun z => op x y z

/-- VCMP: all ones where the condition holds, else zero (R196). -/
def vecCmp (vt : VecType) (c : Cond) (a b : Token) : VRes :=
  let ones := if vtHalf vt then 0xFFFF else 0xFFFFFFFF
  mapElems2 (vtHalf vt) (asVec a) (asVec b) fun x y =>
    match vtFloat vt with
    | some f => let r := fCmp f c x y; (if r.1 then ones else 0, r.2)
    | none => (if condHolds c (vecInt vt x) (vecInt vt y) then ones else 0, noFlags)

/-- VSEL (R197). -/
def vecSel (half : Bool) (l r p : Token) : Token :=
  let vl := (asVec l)
  let vr := (asVec r)
  let vp := (asVec p)
  if half then ofHalves ((List.range 64).map fun h =>
    (liveHalf vp h).bind fun c => if c ≠ 0 then liveHalf vl h else liveHalf vr h)
  else ofLanes ((List.range 32).map fun i =>
    (liveLane vp i).bind fun c => if c ≠ 0 then liveLane vl i else liveLane vr i)

/-- VAND, VOR, VXOR: bitwise; a half is null when either input half is null (R198). -/
def vecBitwise (f : Vec → Vec → Vec) (a b : Token) : Token :=
  tokVec (f (asVec a).1 (asVec b).1) ((asVec a).2 &&& (asVec b).2)

/-- One element of VUN (R199). -/
def unElem (vt : VecType) (m : UnMode) (x : Nat) : Nat × NumFlags :=
  match vtFloat vt with
  | some f => match m with
    | .neg => fNeg f x
    | .abs => fAbs f x
    | .sqrt => fSqrt f x
    | .flr => fFloor f x
  | none => match m with
    | .neg => vecIntResult vt .wrap (-(vecInt vt x))
    | _ => vecIntResult vt .wrap (vecInt vt x).natAbs

/-- VUN (R199). -/
def vecUn (vt : VecType) (m : UnMode) (a : Token) : VRes :=
  mapElems (vtHalf vt) (asVec a) (unElem vt m)

/-- VSHF (R200). A lane with one null half is a null element (R186, R187). -/
def vecShuffle (m : ShufMode) (l r : Token) : Token :=
  let v := (asVec l)
  let n := ((asScalar r).getD 0).toNat
  match m with
  | .idx => ofLanes ((List.range 32).map fun i =>
      (liveLane (asVec r) i).bind fun k => liveLane v (k % 32))
  | .hidx => ofHalves ((List.range 64).map fun h =>
      (liveHalf (asVec r) h).bind fun k => liveHalf v (k % 64))
  | .rot => ofLanes ((List.range 32).map fun i => liveLane v ((i + n % 32) % 32))
  | .xor => ofLanes ((List.range 32).map fun i => liveLane v (i ^^^ (n % 32)))
  | .hrot => ofHalves ((List.range 64).map fun h => liveHalf v ((h + n % 64) % 64))

/-- Every lane one value. -/
def splatLane (v : Nat) : Token := .vec (splat32 v) allLive
/-- Every half one value. -/
def splatHalf (v : Nat) : Token := splatLane (v % 65536 * 65537)

/-- VBCST (R201); `.r` is given as its scalar value. -/
def vecBcast (m : BcastMode) (l : Token) (r : Word) : Token :=
  match m with
  | .lane => match liveLane (asVec l) (r.toNat % 32) with
    | some v => splatLane v
    | none => .null
  | .half => match liveHalf (asVec l) (r.toNat % 64) with
    | some v => splatHalf v
    | none => .null
  | .s16 => match (asScalar l) with
    | some v => splatHalf v.toNat
    | none => .null

/-- VINS (R202): one element replaced and made live; every other element of `.l` stays as it is, a lane with one live half being
null as an element (R186, R187). -/
def vecInsert (half : Bool) (l : Token) (r p : Word) : Token :=
  let v := (asVec l)
  if half then
    let n := p.toNat % 64
    ofHalves ((List.range 64).map fun h => if h = n then some (r.toNat % 65536) else liveHalf v h)
  else
    let n := p.toNat % 32
    ofLanes ((List.range 32).map fun i => if i = n then some (r.toNat % 2 ^ 32) else liveLane v i)

/-- VEXT (R203). -/
def vecExtract (m : ExtMode) (l : Token) (r : Word) : Token :=
  let v := (asVec l)
  match m with
  | .n32 => match liveLane v (r.toNat % 32) with
    | some x => .scalar (word x)
    | none => .null
  | .i32 => match liveLane v (r.toNat % 32) with
    | some x => .scalar (BitVec.ofInt 64 (sintOf 32 x))
    | none => .null
  | .n16 => match liveHalf v (r.toNat % 64) with
    | some x => .scalar (word x)
    | none => .null
  | .i16 => match liveHalf v (r.toNat % 64) with
    | some x => .scalar (BitVec.ofInt 64 (sintOf 16 x))
    | none => .null

/-- VMSK (R204): an element stays live where its mask bit is 1; a lane with one live half is null already (R186, R187). -/
def vecMask (half : Bool) (l : Token) (r : Word) : Token :=
  let v := (asVec l)
  if half then ofHalves ((List.range 64).map fun h => if r.getLsbD h then liveHalf v h else none)
  else ofLanes ((List.range 32).map fun i => if r.getLsbD i then liveLane v i else none)

/-! ### Conversions (R205-R207) -/

/-- The layouts of R206. -/
inductive CvtLayout | pack | unpack | halves | lanes
  deriving DecidableEq, Repr

/-- Source format, destination format and layout of a code (R205); an in-lane element is a lane. -/
def cvtSpec : CvtCode → Fmt × Fmt × CvtLayout
  | .bf16Fp32 => (.fp32, .bf16, .pack)
  | .fp16Fp32 => (.fp32, .fp16, .pack)
  | .fp32Bf16 => (.bf16, .fp32, .unpack)
  | .fp32Fp16 => (.fp16, .fp32, .unpack)
  | .fp16Bf16 => (.bf16, .fp16, .halves)
  | .bf16Fp16 => (.fp16, .bf16, .halves)
  | .i32Fp32 => (.fp32, .i32, .lanes)
  | .n32Fp32 => (.fp32, .n32, .lanes)
  | .fp32I32 => (.i32, .fp32, .lanes)
  | .fp32N32 => (.n32, .fp32, .lanes)
  | .t8Fp32 => (.fp32, .t8, .lanes)
  | .t6Fp32 => (.fp32, .t6, .lanes)
  | .fp32T8 => (.t8, .fp32, .lanes)
  | .fp32T6 => (.t6, .fp32, .lanes)
  | .i8Fp32 => (.fp32, .i8, .lanes)
  | .fp32I8 => (.i8, .fp32, .lanes)
  | .i16I32 => (.i32, .i16, .pack)
  | .n16N32 => (.n32, .n16, .pack)
  | .i32I16 => (.i16, .i32, .unpack)
  | .n32N16 => (.n16, .n32, .unpack)
  | .i8I32 => (.i32, .i8, .lanes)
  | .i32I8 => (.i8, .i32, .lanes)

/-- VCVT: the result, its flags and the saturations counted (R205-R207). -/
def vecConvert (c : CvtCode) (mode : RoundMode) (a : Token) : Token × NumFlags × Nat :=
  let (src, dst, lay) := cvtSpec c
  let v := (asVec a)
  let conv (x : Option Nat) : Option (Nat × NumFlags × Nat) := x.map (convertElem src dst mode)
  let es := match lay with
    | .pack => (List.range 64).map fun h => if h < 32 then conv (liveLane v h) else none
    | .unpack => (List.range 32).map fun i => conv (liveHalf v i)
    | .halves => (List.range 64).map fun h => conv (liveHalf v h)
    | .lanes => (List.range 32).map fun i => conv (liveLane v i)
  let vals := es.map (·.map Prod.fst)
  let tok := match lay with
    | .pack | .halves => ofHalves vals
    | .unpack | .lanes => ofLanes vals
  (tok, unionFlags (es.map (·.map fun x => (x.1, x.2.1))),
    es.foldl (fun n e => match e with | some x => n + x.2.2 | none => n) 0)

/-! ### Reductions (R65, R208) -/

/-- One level of the tree: neighbours combined; a node with one null input passes the other through. -/
def treeLevel (f : Nat → Nat → Nat × NumFlags) :
    List (Option Nat) → List (Option Nat) × NumFlags
  | a :: b :: rest =>
    let (r, fl) := treeLevel f rest
    match a, b with
    | some x, some y => let z := f x y; (some z.1 :: r, fl.or z.2)
    | some x, none => (some x :: r, fl)
    | none, y => (y :: r, fl)
  | es => (es, noFlags)

/-- The tree of R65 of n levels. -/
def treeReduce (f : Nat → Nat → Nat × NumFlags) : Nat → List (Option Nat) → Option Nat × NumFlags
  | 0, es => (es.headD none, noFlags)
  | n + 1, es =>
    let (r, f1) := treeLevel f es
    let (x, f2) := treeReduce f n r
    (x, f1.or f2)

/-- A half widened exactly to FP32, with INV for a signalling NaN (R61, R66). -/
def widenHalf (f : FloatFmt) (x : Nat) : Nat × NumFlags :=
  let r := narrow fp32 .rne (f.value x)
  (r.1, r.2.1)

/-- The operation of a floating reduction node. -/
def redOp : RedMode → Nat → Nat → Nat × NumFlags
  | .max => fMax fp32
  | .min => fMin fp32
  | _ => fAdd fp32

/-- VRED (R208). -/
def vecReduce (vt : VecType) (m : RedMode) (a : Token) : VRes :=
  let v := (asVec a)
  match m with
  | .bits =>
    if (List.range 32).all (fun i => !laneLive v.2 i) then (.null, noFlags)
    else (.scalar (word ((List.range 32).foldl (fun n i =>
      match liveLane v i with
      | some x => n + x / 2 ^ 31 % 2 * 2 ^ i
      | none => n) 0)), noFlags)
  | m =>
    match vtFloat vt with
    | some f =>
      let (es, n, f0) :=
        if vtHalf vt then
          let hs := (List.range 64).map fun h => (liveHalf v h).map (widenHalf f)
          (elemVals hs, 6, unionFlags hs)
        else ((List.range 32).map (liveLane v), 5, noFlags)
      let (r, fl) := treeReduce (redOp m) n es
      match r with
      | some x => (.scalar (word x), f0.or fl)
      | none => (.null, noFlags)
    | none =>
      let es := if vtHalf vt then (List.range 64).map (liveHalf v) else (List.range 32).map (liveLane v)
      let xs := (es.filterMap id).map (vecInt vt)
      match xs with
      | [] => (.null, noFlags)
      | x :: rest =>
        let r := match m with
          | .max => rest.foldl max x
          | .min => rest.foldl min x
          | _ => rest.foldl (· + ·) x
        (.scalar (if (vtInt vt).2 then (BitVec.ofInt 32 r).signExtend 64
          else (BitVec.ofInt 32 r).setWidth 64), noFlags)

/-- A table approximation or interpolation on each FP32 lane. -/
def vecTable (f : Nat → Nat × NumFlags) (a : Token) : VRes := mapElems false (asVec a) f

/-! ### Table images (R211) -/

/-- A little-endian number of n bytes at offset k of an image. -/
def imageNat (img : List Byte) (k n : Nat) : Nat :=
  ((img.drop k).take n).foldr (fun b acc => acc * 256 + b.toNat) 0

/-- The buffer that a table image of 276 bytes loads, or none when a field is out of range or a reserved bit is
set (R211, status 1). -/
def tableOfImage (img : List Byte) : Option TableBuf :=
  let lo := imageNat img 0 4
  let c := imageNat img 4 4
  let wlog := sintOf 8 c
  let lowMode := c / 256 % 4
  let highMode := c / 1024 % 4
  let loBad := match fp32.value lo with
    | .fin _ _ _ => false
    | _ => true
  if loBad || wlog < -20 || wlog > 20 || lowMode ≥ 2 || highMode ≥ 2 || c / 4096 ≠ 0
      || imageNat img 8 8 ≠ 0 then none
  else
    let y := (List.range 65).map fun j => imageNat img (16 + 4 * j) 4
    some ⟨lo, wlog, lowMode == 1, highMode == 1, y, tableDiffs y⟩

end Sys2Proof.Machine
end

