-- ==== Sys2Proof/Machine/Shapes.lean ====
section
/-! DEFINITION. Shape records (R118), slices (R119, R184), and the buffers of cells (R25). -/

namespace Sys2Proof.Machine

open Sys2Proof

/-- A shape record (R118). -/
structure Shape where
  base : Word
  sbase : Word
  fmt : Nat
  ndim : Nat
  pdim : Nat
  part : Bool
  pad : Bool
  reserved : Bool
  blk : Nat
  cyc : Nat
  ext : List Nat
  str : List Nat
  deriving DecidableEq, Repr

/-- The record that 64 bytes hold (R118). -/
def shapeOf (img : List Byte) : Shape :=
  let w := imageNat img 0x10 4
  { base := word (imageNat img 0 8), sbase := word (imageNat img 8 8),
    fmt := w % 16, ndim := w / 16 % 4, pdim := w / 64 % 4, part := w / 256 % 2 = 1, pad := w / 512 % 2 = 1,
    reserved := decide (w / 1024 ≠ 0) || decide (imageNat img 0x1A 6 ≠ 0),
    blk := imageNat img 0x14 4, cyc := imageNat img 0x18 2,
    ext := (List.range 4).map fun d => imageNat img (0x20 + 4 * d) 4,
    str := (List.range 4).map fun d => imageNat img (0x30 + 4 * d) 4 }

def Shape.extent (sh : Shape) (d : Nat) : Nat := sh.ext.getD d 0
def Shape.stride (sh : Shape) (d : Nat) : Nat := sh.str.getD d 0

/-- ElemOffset of R184: 0 for code 0xF. -/
def Shape.offset (sh : Shape) (n : Nat) : Nat := elemOffset sh.fmt n

/-- The element size in bytes; 3 for T6 and T6S, the bytes of a group (R25, R257). DESIGN CHOICE (log entry 124): 0 for code 0xF, so
that the tile of a cell whose shape record carries it is 0 bytes. -/
def elemBytes (code : Nat) : Nat :=
  match fmtOf code with
  | some f => if f.sixBit then 3 else f.bytes
  | none => 0

/-- The extent of the slice of rank r among P ranks: full blocks, the last one cut (R119). -/
def sliceExtent (e b p r : Nat) : Nat :=
  let n := (e + b - 1) / b
  if p ≤ r || n ≤ r then 0
  else
    let owned := (n - 1 - r) / p + 1
    owned * b - (if (n - 1 - r) % p = 0 then n * b - e else 0)

/-- The value that SLICE delivers for rank r of nrank (R119, R184). -/
def sliceValue (sh : Shape) (sel : SliceSel) (r nrank : Nat) : Word :=
  let p := if sh.cyc = 0 then nrank else sh.cyc
  let e := sh.extent sh.pdim
  let bad := sh.part && (decide (sh.blk = 0) || decide (sh.ndim < sh.pdim))
  let none_ := bad || (sh.part && (decide (p ≤ r) || decide ((e + sh.blk - 1) / sh.blk ≤ r)))
  match sel with
  | .base =>
    if !sh.part || none_ then sh.base
    else sh.base + word (sh.offset (r * sh.blk * sh.stride sh.pdim))
  | .ext => if bad then 0 else if !sh.part then word e else word (sliceExtent e sh.blk p r)
  | .step => if !sh.part || none_ then 0 else word (p * sh.blk * sh.stride sh.pdim)

/-! ### Cell buffers (R25, R29) -/

/-- The tile size under a shape record (R25): the byte span, by the FMT of the record. -/
def tileSpan (sh : Shape) : Nat :=
  let dims := List.range (sh.ndim + 1)
  if dims.any fun d => sh.extent d = 0 then 0
  else
    let o := (dims.map fun d => (sh.extent d - 1) * sh.stride d).foldl (· + ·) 0
    sh.offset o + elemBytes sh.fmt

/-- The shape record of a cell (R24, R25). -/
def cellShape (s : State) (h : Nat) (e : CellEntry) : Shape :=
  shapeOf (bytesAt s (cisternPa h (64 * e.shape.toNat)) 64)

/-- The tile size of a cell of core h. -/
def tileSize (s : State) (h : Nat) (e : CellEntry) : Nat := tileSpan (cellShape s h e)

/-- The physical address of a buffer of a cell, Y for true (R24, R25). -/
def bufferPa (s : State) (h : Nat) (e : CellEntry) (y : Bool) : Nat :=
  let x := if e.home then e.addrX.toNat * 256 else cisternPa h e.addrX.toNat
  if y then x + (tileSize s h e + 255) / 256 * 256 else x

/-- Every directory entry: core, index, entry. -/
def allCells (s : State) : List (Nat × Nat × CellEntry) :=
  s.cores.flatMap fun x => x.2.cells.map fun e => (x.1, e.1, e.2)

/-- Whether n bytes from pa lie wholly within the buffer that a thread holds open (R30, R35, R226). -/
def inOpenBuffer (s : State) (who : Nat × Nat × Nat) (pas : List Nat) : Bool :=
  (allCells s).any fun x =>
    x.2.2.valid && x.2.2.wopen && decide (x.2.2.writer = some who) &&
      (let lo := bufferPa s x.1 x.2.2 (!x.2.2.cur)
       let hi := lo + tileSize s x.1 x.2.2
       pas.all fun p => decide (lo ≤ p) && decide (p < hi))

/-- Whether a byte lies in a buffer of a valid cell of a list (R38). -/
def inCells (s : State) (cells : List (Nat × Nat × CellEntry)) (pa : Nat) : Bool :=
  cells.any fun x =>
    x.2.2.valid &&
      (let n := tileSize s x.1 x.2.2
       [false, true].any fun y =>
         let lo := bufferPa s x.1 x.2.2 y
         decide (lo ≤ pa) && decide (pa < lo + n))

/-- The cells of a core's own directory whose buffers lie in its cistern. -/
def ownCistern (s : State) (c : Nat) : List (Nat × Nat × CellEntry) :=
  (allCells s).filter fun x => decide (x.1 = c) && !x.2.2.home

end Sys2Proof.Machine
end

