-- ==== Sys2Proof/Machine/Access.lean ====
section
/-! DEFINITION. Translation and the checks of an access (R217-R227), and how an access of a thread is sent once it may be
(R229, R231, R265). -/

namespace Sys2Proof.Machine

open Sys2Proof

/-! ### Translation (R217, R221-R223) -/

/-- What an access needs of a leaf: R, W, X. -/
structure Needs where
  r : Bool
  w : Bool
  x : Bool

/-- Where a virtual address lies: its physical address, how many bytes follow in the same mapping, whether the page has
CELL = 1, and whether it came through the local window. -/
structure Span where
  pa : Nat
  len : Nat
  cell : Bool
  loc : Bool

/-- The result of a translation. -/
inductive Xlat
  | span (x : Span)
  | miss (page : Nat)
  | bad (cause reason : Nat)

/-- The 64 KiB page number of a virtual address. -/
def pageOf (va : Nat) : Nat := va / 0x10000

def localTop : Nat := 0x14_0000

/-- The leaf translation of a page that a core holds, in its own TLB or its region's (R224). -/
def findTlb (s : State) (c asid page : Nat) : Option TlbEntry :=
  ((coreAt s c).tlb ++ mget [] s.tlb2 (regionOf c)).find? fun e =>
    decide (e.asid = asid) && decide (e.page ≤ page) && decide (page < e.page + e.npages)

/-- The permission reason of a leaf for an access, if one denies it (R223). -/
def denied (e : TlbEntry) (n : Needs) : Option Nat :=
  if n.r && !e.r then some 0 else if n.w && !e.w then some 1 else if n.x && !e.x then some 2 else none

/-- The virtual address of an access of slot k (R217, R223). -/
def translate (s : State) (c k asid : Nat) (n : Needs) (va : Nat) : Xlat :=
  if 2 ^ 56 ≤ va then .bad 0x10 0
  else if va < 0x1000 then .span ⟨launchPa c k va, 0x1000 - va, false, true⟩
  else if va < localTop then .span ⟨cisternPa c va, localTop - va, false, true⟩
  else
    match findTlb s c asid (pageOf va) with
    | none => .miss (pageOf va)
    | some e =>
      match denied e n with
      | some r => .bad 0x11 r
      | none =>
        let off := va - e.page * 0x10000
        .span ⟨e.pa + off, e.npages * 0x10000 - off, e.cell, false⟩

/-- The permission reason of n bytes at a physical address: no memory, an area no thread reaches, or a word without a
full/empty bit of this module (R219, R223, R323). -/
def paDenied (s : State) (x : Span) (n : Nat) (fullEmpty : Bool) (launch : Bool) : Option Nat :=
  let at_ := fun p => ownerOf s p
  let ps := [x.pa, x.pa + n - 1]
  if ps.any fun p => match at_ p with
    | .nothing => true
    | .fabric m _ => (mreg s (0x30000 + 8 * m)).toNat % 65536 = 0
    | _ => false
  then some 3
  else if ps.any fun p => match at_ p with
    | .control _ => true
    | .cistern _ o => decide (0x12_7000 ≤ o) && !launch
    | _ => false
  then some 4
  else if fullEmpty && ps.any fun p => match at_ p with
    | .cistern _ _ => false
    | _ => true
  then some 5
  else none

/-! ### The checks of an access (R226) -/

/-- What an access needs (R222). -/
def accNeeds (a : Access) : Needs :=
  match a.op with
  | .read => ⟨!a.write, a.write, false⟩
  | .lds => ⟨true, false, false⟩
  | .sts _ => ⟨false, true, false⟩
  | _ => ⟨true, true, false⟩

/-- Whether an access is one of the stores of R226 step 3 and R270. -/
def isStoring (a : Access) : Bool :=
  match a.op with
  | .read => a.write
  | .lds => false
  | _ => true

def usesFullEmpty (a : Access) : Bool :=
  match a.op with
  | .lds | .sts _ => true
  | _ => false

/-- The result of the checks: the bytes as (offset, physical address), a miss on a page, or a fault or trap. -/
inductive Checked
  | ok (bytes : List (Nat × Nat))
  | miss (page : Nat) (va : Word)
  | bad (cause reason : Nat) (va : Word)

/-- The range-lock trap of bytes in the issuing core's own cistern (R270): its REASON. -/
def lockHit (s : State) (c : Nat) (storing : Bool) (pas : List Nat) : Option Nat :=
  let offs := pas.filterMap fun p => match localOwner (localPa s p) with
    | .cistern o x => if o = c then some x else none
    | _ => none
  let hits := fun (dst : Bool) => (coreAt s c).locks.any fun l =>
    decide (l.dst = dst) && offs.any fun o => decide (l.first ≤ o) && decide (o ≤ l.last)
  if hits true then some 1 else if storing && hits false then some 0 else none

/-- The cell-protection trap of a store (R226 step 3). -/
def cellTrap (s : State) (c : Nat) (who : Nat × Nat × Nat) (x : Span) (pas : List Nat) : Bool :=
  (x.cell || (x.loc && pas.any (inCells s (ownCistern s c)))) && !pas.isEmpty && !inOpenBuffer s who pas

/-- The bytes of an access from offset `off`, n of them, that it reads or writes: a store its data, another all. -/
def usedBytes (a : Access) (off n pa : Nat) : List (Nat × Nat) :=
  if isStoring a && decide (a.op = .read) then
    (a.data.filter fun d => decide (off ≤ d.1) && decide (d.1 < off + n)).map fun d => (d.1, pa + (d.1 - off))
  else (List.range n).map fun i => (off + i, pa + i)

/-- The checks of n bytes at `va`, which may cross into further mappings (R225): at most `fuel` of them. -/
def checkPart (s : State) (c k : Nat) (t : Thread) (a : Access) : Nat → Nat → Nat → Nat → Checked
  | 0, _, _, _ => .ok []
  | fuel + 1, off, va, n =>
    match translate s c k t.asid (accNeeds a) (va % 2 ^ 64) with
    | .miss p => .miss p (word va)
    | .bad cause reason => .bad cause reason (word va)
    | .span x =>
      let m := min n x.len
      match paDenied s x m (usesFullEmpty a) (x.loc && decide (va % 2 ^ 64 < 0x1000)) with
      | some r => .bad 0x11 r (word va)
      | none =>
        let bytes := usedBytes a off m (localPa s x.pa)
        let pas := bytes.map (·.2)
        match lockHit s c (isStoring a) pas with
        | some r => .bad 0x03 r (word va)
        | none =>
          if isStoring a && cellTrap s c (c, k, t.incarn.toNat) x pas then .bad 0x06 0 (word va)
          else if n ≤ m then .ok bytes
          else
            match checkPart s c k t a fuel (off + m) (va + m) (n - m) with
            | .ok more => .ok (bytes ++ more)
            | r => r

/-- The checks of the parts of an access in their order, alignment first in each (R223, R225, R245). -/
def checkParts (s : State) (c k : Nat) (t : Thread) (a : Access) : List (Nat × Word × Nat) → Checked
  | [] => .ok []
  | (off, va, n) :: rest =>
    if va.toNat % a.align ≠ 0 then .bad 0x11 6 va
    else
      match checkPart s c k t a 4 off va.toNat n with
      | .ok bytes =>
        match checkParts s c k t a rest with
        | .ok more => .ok (bytes ++ more)
        | r => r
      | r => r

/-! ### Walks (R224) -/

/-- The walkers of a die (R16, R224). -/
def walkers : Nat := 384

/-- A walk takes a walker (R224). -/
def startWalk (d asid page : Nat) : Act Unit := do
  let extra ← takeDelay
  later (1 + extra) 1 65535 (.pageWalk d asid page)

/-- A miss of slot k joins the walk of its page; or it takes a walker, or waits for one in arrival order (R224). -/
def joinWalk (c asid page k : Nat) (use : WalkUse) : Act Unit := do
  let d := dieOf c
  let x ← look (dieAt · d)
  let who := (c, k, use)
  if x.walks.any fun w => decide (w.asid = asid) && decide (w.page = page) then
    modDie d fun x => { x with walks := x.walks.map fun w =>
      if w.asid = asid ∧ w.page = page then { w with waiters := w.waiters ++ (if w.waiters.contains who then [] else [who]) }
      else w }
  else do
    let free := decide ((x.walks.filter (·.going)).length < walkers)
    modDie d fun x => { x with walks := x.walks ++ [⟨asid, page, [who], free, false, false, [], false⟩] }
    onlyIf free (startWalk d asid page)

/-- A walker is free: the walk that has waited longest takes it. -/
def nextWalker (d : Nat) : Act Unit := do
  let x ← look (dieAt · d)
  match x.walks.find? fun w => !w.going with
  | none => pure ()
  | some w => onlyIf (decide ((x.walks.filter (·.going)).length < walkers)) (do
    modDie d fun x => { x with walks := x.walks.map fun y => if y = w then { y with going := true } else y }
    startWalk d w.asid w.page)

/-! ### Sending (R229, R231, R265) -/

/-- The bytes of a list of effects that a load of LSID n at index i takes from stores of its own block (R229): the highest
LSID that writes the byte. -/
def forwardByte (effs : List (Nat × Eff)) (i n pa : Nat) : Option Byte :=
  (effs.foldl (fun (best : Option (Nat × Byte)) e =>
    match e.2 with
    | .store m _ bytes =>
      if e.1 < i && m < n then
        bytes.foldl (fun (best : Option (Nat × Byte)) x =>
          if x.1 = pa && (best.elim true fun b => decide (b.1 ≤ m)) then some (m, x.2.2) else best) best
      else best
    | _ => best) none).map (·.2)

/-- Whether an acquire of the block has not fired (R265). -/
def acquiresPending (b : Block) : Bool := unfired b fun w => opOf w = 0x69 || opOf w = 0x6A

/-- Whether a byte range overlaps an unacknowledged store word of the thread (R231). -/
def overlapsSent (sent : List SentWord) (pas : List Nat) : Bool :=
  sent.any fun w => pas.any fun p => decide (p / 8 = w.word.word) && w.word.bytes.any fun b => decide (b.1 = p % 8)

/-- Whether an access that has passed its checks may send its requests now. -/
def maySend (s : State) (c k : Nat) (t : Thread) (b : Block) (a : Access) (ask : List (Nat × Nat)) : Bool :=
  let stores := match a.forward with
    | some n => (indices b).all fun j =>
      decide (a.idx ≤ j) || !isStoreOp (opOf (wordOf b j)) || decide (n ≤ (wordLsid (wordOf b j)).getD 0) ||
        (hasFired b j && !b.jobs.any fun x => decide (x.idx = j))
    | none => true
  let acquires := match a.kind with
    | .slice _ _ _ | .copy _ _ _ => true
    | _ => (match a.op with | .sts _ => true | _ => false) || !acquiresPending b
  stores && acquires && !overlapsSent (sentBy (coreAt s c) k t) (ask.map (·.2))

/-- The unit that serves a byte: bytes of one unit travel in one request. -/
def unitOf (s : State) (pa : Nat) : Nat × Nat :=
  match ownerOf s pa with
  | .cistern c _ => (0, c)
  | .gddr _ _ => (1, pa / 256)
  | .fabric n a => (2 + n, a / 256)
  | .control _ => (1, 0)
  | .nothing => (1, 1)

/-- A byte put behind the bytes of its unit, or into a group of its own behind the others. -/
def putUnit (s : State) (b : Nat × Nat) : List (List (Nat × Nat)) → List (List (Nat × Nat))
  | [] => [[b]]
  | g :: gs => if g.any fun x => decide (unitOf s x.2 = unitOf s b.2) then (g ++ [b]) :: gs else g :: putUnit s b gs

/-- The bytes of an access by the units that serve them: every byte of an aligned word travels in one request, and is served in one
step (R232). -/
def groupBytes (s : State) (bs : List (Nat × Nat)) : List (List (Nat × Nat)) := bs.foldl (fun gs b => putUnit s b gs) []

/-- A request to the owner of its first byte; one to the core's own cistern acts in this cycle, one whose owner cannot be
reached is answered at its issuer (R323, R428). -/
def sendReq (r : Req) : Act Unit := do
  let s ← look id
  let c := r.id.core
  let pa := (r.bytes.headD (0, 0)).2
  let o := ownerOf s pa
  if reaches s c o then
    onlyIf (decide (r.op ≠ .read)) (pokeForeign pa)
    sendToOwner c r.id.slot o r.slack r.exh (.access r) (later 0 1 (slotPlace c r.id.slot) (.ownerAccess r))
  else deliverNow (noMemoryFor r)

/-- The pending access of an index. -/
def pendOf (b : Block) (i : Nat) : Option Pending := (b.pend.find? fun p => decide (p.1 = i)).map (·.2)
def setPend (i : Nat) (p : Pending) (b : Block) : Block :=
  { b with pend := b.pend.map fun x => if x.1 = i then (i, p) else x }
def dropPend (i : Nat) (b : Block) : Block := { b with pend := b.pend.filter fun x => decide (x.1 ≠ i) }

/-- Whether an access is a taking operation (R161, R242). -/
def isTakingAcc (a : Access) : Bool := decide (a.op ≠ .read)

/-- An access that may be sent is: bytes forwarded inside the block are taken, the others asked for. -/
def sendPend (c k i : Nat) : Act Unit := do
  let s ← look id
  match threadAt s c k with
  | none => pure ()
  | some t =>
    match t.block with
    | none => pure ()
    | some b =>
      match pendOf b i with
      | none => pure ()
      | some p =>
        onlyIf (!p.ask.isEmpty && maySend s c k t b p.acc p.ask) (do
          let fwd := p.ask.filterMap fun x =>
            p.acc.forward.bind fun n => (forwardByte b.effs i n x.2).map fun v => (x.1, v)
          let rest := p.ask.filter fun x => !fwd.any fun y => decide (y.1 = x.1)
          let reqs := groupBytes s rest
          let id : ExecId := ⟨c, k, b.gen, i⟩
          modBlock c k (setPend i { p with ask := [], got := fwd, out := max 1 reqs.length })
          onlyIf (isTakingAcc p.acc) (modThread c k fun t =>
            { t with retry := t.retry.map fun l => { l with out := l.out ++ [i] } })
          if reqs.isEmpty then
            atCycle (firstDelivery s id) 2 (slotPlace c k) (.tokenDelivery (.bytes id []))
          else each reqs fun g => sendReq ⟨id, p.acc.op, g, p.acc.slack, false, p.acc.stream, .own, none⟩)

/-- Every access of a slot's block that may now be sent is. -/
def sendReady (c k : Nat) : Act Unit := do
  let b ← look (blockAt · c k)
  match b with
  | none => pure ()
  | some b => onlyIf (!b.stopped) (each (b.pend.map (·.1)) (sendPend c k))

/-! ### An access that has fired -/

/-- The virtual address of an offset of an access. -/
def vaAt (a : Access) (off : Nat) : Word :=
  match a.parts.find? fun p => decide (p.1 ≤ off) && decide (off < p.1 + p.2.2) with
  | some p => p.2.1 + word (off - p.1)
  | none => 0

/-- The data of a store as bytes with their physical and virtual addresses. -/
def storeBytes (a : Access) (bytes : List (Nat × Nat)) : List (Nat × Word × Byte) :=
  bytes.filterMap fun x =>
    (a.data.find? fun d => decide (d.1 = x.1)).map fun d => (x.2, vaAt a x.1, d.2)

/-- An access that has passed its checks: a store holds its bytes for the commit, another access is to be sent. -/
def passed (c k : Nat) (a : Access) (bytes : List (Nat × Nat)) : Act Unit := do
  match a.kind with
  | .store lsid => do
    modBlock c k fun b => { b with effs := b.effs ++ [(a.idx, .store lsid a.slack (storeBytes a bytes))] }
    sendReady c k
  | .stream q => do
    let x ← look fun s => chanAt (coreAt s c) q
    match x.bind with
    | .stream base stride count next vec =>
      modBlock c k fun b => { b with effs := b.effs ++ [(a.idx, .streamOut q base stride count next vec a.data)] }
    | _ => modBlock c k fun b => { b with effs := b.effs ++ [(a.idx, .unbound)] }
  | _ => do
    modBlock c k fun b => { b with pend := b.pend ++ [(a.idx, ⟨a, bytes, [], 0, 0⟩)] }
    sendPend c k a.idx

/-- The checks of an access that has fired (R226): a fault or a trap, a wait for a walk, or on to its owner. -/
def tryAccess (c k : Nat) (a : Access) : Act Unit := do
  let s ← look id
  match threadAt s c k with
  | none => pure ()
  | some t =>
    match checkParts s c k t a a.parts with
    | .ok bytes => passed c k a bytes
    | .bad cause reason va => raise c k ⟨cause, reason, a.idx, va⟩
    | .miss page _ => do
      modBlock c k fun b => { b with jobs := b.jobs ++ [a] }
      joinWalk c t.asid page k .access

/-- An instruction fires an access: its turn, then the checks. -/
def fireAccess (f : Fire) (ta tb : Nat) (effs : List Eff) (a : Access) : Act Unit := do
  takeTurn f ta tb noFlags effs
  tryAccess f.c f.k a

/-! ### Store words on their way (R230, R231, R326, R338) -/

/-- Whether two store words write a common byte. -/
def wordsOverlap (a b : StoreWord) : Bool :=
  decide (a.word = b.word) && a.bytes.any fun x => b.bytes.any fun y => decide (x.1 = y.1)

/-- A store word of the thread in slot k leaves: it is missed at once under CORE scope (R338), and answered at its issuer
when its owner cannot be reached (R323, R428). -/
def launchWord (w : StoreWord) : Act Unit := do
  let s ← look id
  let c := w.core
  modCore c fun x => { x with sent := x.sent.map fun e => if e.word.sid = w.sid then { e with going := true } else e }
  let o := ownerOf s (w.word * 8)
  if w.tag = some .core then later 1 1 300 (.scopeMiss { w with tag := none })
  else if reaches s c o then sendToOwner c w.slot o w.slack w.exh (.store w) (pure ())
  else do
    modCore c fun x => { x with sent := x.sent.filter fun e => decide (e.word.sid ≠ w.sid) }
    raise c w.slot ⟨0x11, 3, 0xFF, w.va⟩

/-- The store words of a list that wait for no older word of their thread (R231), with those before them. -/
def freeWords : List SentWord → List SentWord → List StoreWord
  | _, [] => []
  | older, w :: rest =>
    let clear := older.all fun e =>
      decide (e.word.slot ≠ w.word.slot) || decide (e.inc ≠ w.inc) || !wordsOverlap e.word w.word
    (if !w.going && clear then [w.word] else []) ++ freeWords (older ++ [w]) rest

/-- Every store word of a core that may leave does. -/
def sendWords (c : Nat) : Act Unit := do
  let ws ← look fun s => freeWords [] (coreAt s c).sent
  each ws launchWord

/-! ### Completion (R156) -/

/-- Whether every instruction has fired and every token has been delivered, and no access is under way. -/
def isComplete (b : Block) : Bool :=
  (indices b).all (fun i => hasFired b i && (doneOf b i).isSome) && b.jobs.isEmpty && b.pend.isEmpty

/-- A complete block goes on to its commit in this cycle, or raises the no-exit fault (R156). -/
def checkComplete (c k : Nat) : Act Unit := do
  let b ← look (blockAt · c k)
  match b with
  | none => pure ()
  | some b =>
    let on ← look fun s => s.agenda.any fun e => decide (e.2 = .blockCommit c k b.gen)
    onlyIf (isComplete b && !b.stopped && !on)
      (if b.exit.isNone then raise c k ⟨0x13, 0, 0xFF, 0⟩
      else later 0 3 (slotPlace c k) (.blockCommit c k b.gen))

end Sys2Proof.Machine
end

