-- ==== Sys2Proof/Machine/Control.lean ====
section
/-! DEFINITION. The control and constant instructions (R170-R177), and the shapes of instruction that the integer and
vector families share. -/

namespace Sys2Proof.Machine

open Sys2Proof

/-! ### Shapes (R154, R155) -/

/-- An instruction of one scalar operand, `.l`, with one result to both targets. -/
def scalar1 (p : Pred) (ta tb : Nat) (s : State) (k : Word → Word × NumFlags) :
    Host.Outcome State Fault Refusal :=
  fire s fun f =>
    match predicateHolds p f, asScalar f.l with
    | true, some a => complete s f ta tb (.scalar (k a).1) (.scalar (k a).1) (k a).2 []
    | _, _ => completeNull s f ta tb

/-- An instruction of two scalar operands, `.l` and `.r`, with one result to both targets. -/
def scalar2 (p : Pred) (ta tb : Nat) (s : State) (k : Word → Word → Word × NumFlags) :
    Host.Outcome State Fault Refusal :=
  fire s fun f =>
    match predicateHolds p f, asScalar f.l, asScalar f.r with
    | true, some a, some b => complete s f ta tb (.scalar (k a b).1) (.scalar (k a b).1) (k a b).2 []
    | _, _, _ => completeNull s f ta tb

/-- An instruction whose result is a function of its operand tokens. -/
def tokenOp (p : Pred) (ta tb : Nat) (s : State) (k : Fire → Token × NumFlags) :
    Host.Outcome State Fault Refusal :=
  fire s fun f =>
    if predicateHolds p f then complete s f ta tb (k f).1 (k f).1 (k f).2 []
    else completeNull s f ta tb

/-! ### Exits (R156, R174, R175) -/

/-- The block of a thread after an exit has fired. -/
def withExit (x : ExitFired) (t : Thread) : Thread :=
  { t with block := t.block.map fun b => { b with exit := some x } }

/-- An exit fires and names the next block; a second exit raises the multi-exit fault (R156). -/
def fireExit (f : Fire) (lpx : Bool) (target : Word) (effs : List Eff) : Act Unit := do
  takeTurn f 511 511 noFlags effs
  if f.b.exit.isSome then raise f.c f.k ⟨0x14, 0, f.i, 0⟩
  else do
    modThread f.c f.k (withExit ⟨f.i, lpx, target⟩)
    let s ← look id
    emit (deliverUpd s f .null .null)

/-- An exit instruction without an operand. -/
def exitPlain (p : Pred) (lpx : Bool) (s : State) (target : Fire → Word) (effs : Fire → List Eff) :
    Host.Outcome State Fault Refusal :=
  fire s fun f =>
    if predicateHolds p f then run (fireExit f lpx (target f) (effs f)) s else completeNull s f 511 511

/-- An exit instruction whose target is its `.l` token. -/
def exitToken (p : Pred) (s : State) (effs : Fire → List Eff) : Host.Outcome State Fault Refusal :=
  fire s fun f =>
    match predicateHolds p f, asScalar f.l with
    | true, some a => run (fireExit f false a (effs f)) s
    | _, _ => completeNull s f 511 511

/-- The target of a B-format branch (R128). -/
def branchTarget (f : Fire) (off20 : BitVec 20) : Word := f.b.addr + off20.signExtend 64 * 4

/-- The return address of CALL and CALLI (R175). -/
def returnAddress (f : Fire) : Word :=
  f.b.addr + word ((12 + 4 * (f.b.words.length - 1) + 7) / 8 * 8)

/-- BR (R174). -/
def execBr (p : Pred) (_e : BitVec 3) (off20 : BitVec 20) (s : State) : Host.Outcome State Fault Refusal :=
  exitPlain p false s (fun f => branchTarget f off20) fun _ => []

/-- BRI (R174). -/
def execBri (p : Pred) (_e : BitVec 3) (s : State) : Host.Outcome State Fault Refusal :=
  exitToken p s fun _ => []

/-- CALL (R175). -/
def execCall (p : Pred) (_e : BitVec 3) (off20 : BitVec 20) (s : State) : Host.Outcome State Fault Refusal :=
  exitPlain p false s (fun f => branchTarget f off20) fun f => [.call (returnAddress f)]

/-- CALLI (R175). -/
def execCalli (p : Pred) (_e : BitVec 3) (s : State) : Host.Outcome State Fault Refusal :=
  exitToken p s fun f => [.call (returnAddress f)]

/-- RET (R174): its results are those of BRI. -/
def execRet (p : Pred) (_e : BitVec 3) (s : State) : Host.Outcome State Fault Refusal :=
  exitToken p s fun _ => []

/-- LPX (R172). -/
def execLpx (p : Pred) (_e : BitVec 3) (off20 : BitVec 20) (s : State) : Host.Outcome State Fault Refusal :=
  exitPlain p true s (fun f => branchTarget f off20) fun _ => []

/-! ### Loop frames (R170) -/

/-- The frames that will stand after the loop-end step of a block (R170, R171). -/
def framesAfter (f : Fire) : List LoopFrame :=
  if isLoopEnd f.b then
    match f.th.frames with
    | [] => []
    | x :: rest =>
      if f.b.exit.elim false (·.lpx) || decide (x.count = 1) then rest else { x with count := x.count - 1 } :: rest
  else f.th.frames

/-- The frames that LPBs of a block that have fired will push. -/
def pushesIn (b : Block) : Nat :=
  (b.effs.filter fun e => match e.2 with
    | .loop _ count _ => decide (count ≠ 0)
    | _ => false).length

/-- LPB (R170): it tells the outcome that the commit will apply. A push that is refused and a count of 0 leave a frame
count of 0 in its effect. -/
def execLpb (level : BitVec 2) (exitOff : BitVec 12) (ta : Target) (s : State) :
    Host.Outcome State Fault Refusal :=
  fire s fun f =>
    match asScalar f.l with
    | some a =>
      let count := a.setWidth 32
      let exit := f.b.addr + exitOff.signExtend 64 * 8
      let refused := decide (count ≠ 0) && decide (2 ≤ (framesAfter f).length + pushesIn f.b)
      let tok := .scalar (boolWord !refused)
      complete s f (t9 ta) 511 tok .null noFlags [.loop level (if refused then 0 else count) exit]
    | none => completeNull s f (t9 ta) 511

/-! ### Hints and constants (R176, R177) -/

/-- HNT (R176): it takes its turn and delivers nothing; its modifier is read by the instruction it stands before. -/
def execHnt (_hint : Hint) (s : State) : Host.Outcome State Fault Refusal :=
  fire s fun f => completeNull s f 511 511

/-- GENC (R177). -/
def execGenc (imm16 : BitVec 16) (ta : Target) (s : State) : Host.Outcome State Fault Refusal :=
  tokenOp .always (t9 ta) 511 s fun _ => (.scalar (imm16.setWidth 64), noFlags)

/-- APP (R177). -/
def execApp (imm16 : BitVec 16) (ta : Target) (s : State) : Host.Outcome State Fault Refusal :=
  scalar1 .always (t9 ta) 511 s fun a => ((a <<< 16) ||| imm16.setWidth 64, noFlags)

/-- MOV (R177). -/
def execMov (p : Pred) (tb ta : Target) (s : State) : Host.Outcome State Fault Refusal :=
  tokenOp p (t9 ta) (t9 tb) s fun f => (f.l, noFlags)

/-- NUL (R155, R177). -/
def execNul (p : Pred) (tb ta : Target) (s : State) : Host.Outcome State Fault Refusal :=
  tokenOp p (t9 ta) (t9 tb) s fun _ => (.null, noFlags)

end Sys2Proof.Machine
end

