-- ==== Sys2Proof/Machine/Memory.lean ====
section
/-! DEFINITION. The memory instructions (R238-R246), SLICE (R184) and TLD (R211). -/

namespace Sys2Proof.Machine

open Sys2Proof

/-! ### Loads and stores -/

/-- The address of a form with an immediate (R130, R238). -/
def memAddr (a : Word) (imm : Word) (size : Nat) : Word := a + imm * word size

/-- A read of n bytes at an address, by an instruction that has fired. -/
def readOf (f : Fire) (kind : AccKind) (align n : Nat) (a : Word) (forward : Option Nat) : Access :=
  { idx := f.i, kind := kind, op := .read, write := false, align := align, parts := [(0, a, n)], data := [],
    slack := slackOf f, stream := streamOf f, forward := forward }

/-- A load (R229, R238, R244). -/
def loadWith (p : Pred) (lsid : BitVec 5) (imm9 : BitVec 9) (ta : Target) (s : State) (kind : AccKind)
    (align size : Nat) : Host.Outcome State Fault Refusal :=
  fireAct s fun f =>
    match predicateHolds p f, asScalar f.l with
    | true, some a =>
      fireAccess f (t9 ta) 511 [] (readOf f kind align size (memAddr a (imm9.signExtend 64) size) (some lsid.toNat))
    | _, _ => completeAct f (t9 ta) 511 .null .null noFlags []

/-- LD.N8 (R238). -/
def execLdN8 (p : Pred) (lsid : BitVec 5) (imm9 : BitVec 9) (ta : Target) (s : State) :
    Host.Outcome State Fault Refusal := loadWith p lsid imm9 ta s (.load 1 false) 1 1
/-- LD.I8 (R238). -/
def execLdI8 (p : Pred) (lsid : BitVec 5) (imm9 : BitVec 9) (ta : Target) (s : State) :
    Host.Outcome State Fault Refusal := loadWith p lsid imm9 ta s (.load 1 true) 1 1
/-- LD.N16 (R238). -/
def execLdN16 (p : Pred) (lsid : BitVec 5) (imm9 : BitVec 9) (ta : Target) (s : State) :
    Host.Outcome State Fault Refusal := loadWith p lsid imm9 ta s (.load 2 false) 2 2
/-- LD.I16 (R238). -/
def execLdI16 (p : Pred) (lsid : BitVec 5) (imm9 : BitVec 9) (ta : Target) (s : State) :
    Host.Outcome State Fault Refusal := loadWith p lsid imm9 ta s (.load 2 true) 2 2
/-- LD.N32 (R238). -/
def execLdN32 (p : Pred) (lsid : BitVec 5) (imm9 : BitVec 9) (ta : Target) (s : State) :
    Host.Outcome State Fault Refusal := loadWith p lsid imm9 ta s (.load 4 false) 4 4
/-- LD.I32 (R238). -/
def execLdI32 (p : Pred) (lsid : BitVec 5) (imm9 : BitVec 9) (ta : Target) (s : State) :
    Host.Outcome State Fault Refusal := loadWith p lsid imm9 ta s (.load 4 true) 4 4
/-- LD.64 (R238). -/
def execLd64 (p : Pred) (lsid : BitVec 5) (imm9 : BitVec 9) (ta : Target) (s : State) :
    Host.Outcome State Fault Refusal := loadWith p lsid imm9 ta s (.load 8 false) 8 8
/-- VLD (R244). -/
def execVld (p : Pred) (lsid : BitVec 5) (imm9 : BitVec 9) (ta : Target) (s : State) :
    Host.Outcome State Fault Refusal := loadWith p lsid imm9 ta s .vload 2 128

/-- A store fires (R226, R238): it is checked, and written at the commit; a store that emits Null cancels its LSID, and
loads behind it may go on (R155, R229). -/
def fireStore (f : Fire) (lsid : Nat) (align : Nat) (parts : List (Nat × Word × Nat)) (data : List (Nat × Byte)) :
    Act Unit := do
  completeAct f 511 511 .null .null noFlags []
  tryAccess f.c f.k
    { idx := f.i, kind := .store lsid, op := .read, write := true, align := align, parts := parts, data := data,
      slack := slackOf f, stream := streamOf f, forward := none }

/-- A store that emits Null. -/
def cancelStore (f : Fire) : Act Unit := do
  completeAct f 511 511 .null .null noFlags []
  sendReady f.c f.k

/-- Bytes with their offsets. -/
def numbered : Nat → List Byte → List (Nat × Byte)
  | _, [] => []
  | n, b :: bs => (n, b) :: numbered (n + 1) bs

/-- A scalar store of n bytes (R238). -/
def storeWith (p : Pred) (lsid : BitVec 5) (imm18 : BitVec 18) (s : State) (n : Nat) :
    Host.Outcome State Fault Refusal :=
  fireAct s fun f =>
    match predicateHolds p f, asScalar f.l, asScalar f.r with
    | true, some a, some v =>
      fireStore f lsid.toNat n [(0, memAddr a (imm18.signExtend 64) n, n)] (numbered 0 (leBytes v.toNat n))
    | _, _, _ => cancelStore f

/-- ST.8 (R238). -/
def execSt8 (p : Pred) (lsid : BitVec 5) (imm18 : BitVec 18) (s : State) : Host.Outcome State Fault Refusal :=
  storeWith p lsid imm18 s 1
/-- ST.16 (R238). -/
def execSt16 (p : Pred) (lsid : BitVec 5) (imm18 : BitVec 18) (s : State) : Host.Outcome State Fault Refusal :=
  storeWith p lsid imm18 s 2
/-- ST.32 (R238). -/
def execSt32 (p : Pred) (lsid : BitVec 5) (imm18 : BitVec 18) (s : State) : Host.Outcome State Fault Refusal :=
  storeWith p lsid imm18 s 4
/-- ST.64 (R238). -/
def execSt64 (p : Pred) (lsid : BitVec 5) (imm18 : BitVec 18) (s : State) : Host.Outcome State Fault Refusal :=
  storeWith p lsid imm18 s 8

/-- The bytes of the live halves of a vector, with their offsets (R244). -/
def liveBytes (v : Vec × Word) : List (Nat × Byte) :=
  (List.range 64).flatMap fun h =>
    match liveHalf v h with
    | some x => [(2 * h, BitVec.ofNat 8 x), (2 * h + 1, BitVec.ofNat 8 (x / 256))]
    | none => []

/-- VST (R244). -/
def execVst (p : Pred) (lsid : BitVec 5) (imm18 : BitVec 18) (s : State) : Host.Outcome State Fault Refusal :=
  fireAct s fun f =>
    match predicateHolds p f && !tokIsNull f.r, asScalar f.l with
    | true, some a =>
      fireStore f lsid.toNat 2 [(0, memAddr a (imm18.signExtend 64) 128, 128)] (liveBytes (asVec f.r))
    | _, _ => cancelStore f

/-- The address of a gathered or scattered element (R245, R246). -/
def elemAddr (a : Word) (w idx : Nat) : Word := a + word w * BitVec.ofInt 64 (sintOf (8 * w) idx)

/-- VLDX (R245). -/
def execVldx (p : Pred) (half : Bool) (tb ta : Target) (s : State) : Host.Outcome State Fault Refusal :=
  fireAct s fun f =>
    let v := asVec f.r
    let n := if half then 64 else 32
    let w := if half then 2 else 4
    let get := fun i => if half then liveHalf v i else liveLane v i
    match predicateHolds p f, asScalar f.l with
    | true, some a =>
      let parts := (List.range n).filterMap fun i => (get i).map fun x => (w * i, elemAddr a w x, w)
      if parts.isEmpty then completeAct f (t9 ta) (t9 tb) .null .null noFlags []
      else
        fireAccess f (t9 ta) (t9 tb) []
          { readOf f (.gather half ((List.range n).filter fun i => (get i).isSome)) w w a none with parts := parts }
    | _, _ => completeAct f (t9 ta) (t9 tb) .null .null noFlags []

/-- VSTX (R246). -/
def execVstx (lsid : BitVec 5) (s : State) : Host.Outcome State Fault Refusal :=
  fireAct s fun f =>
    let lanes := (List.range 32).filterMap fun i =>
      (liveLane (asVec f.r) i).bind fun x => (liveLane (asVec f.p) i).map fun d => (i, x, d)
    match asScalar f.l, lanes with
    | some a, _ :: _ =>
      fireStore f lsid.toNat 4 (lanes.map fun x => (4 * x.1, elemAddr a 4 x.2.1, 4))
        (lanes.flatMap fun x => numbered (4 * x.1) (leBytes x.2.2 4))
    | _, _ => cancelStore f

/-! ### Taking operations (R161, R162, R234, R241, R242) -/

/-- The value that the retry latch holds for an index (R162). -/
def latched (t : Thread) (i : Nat) : Option Taken :=
  t.retry.bind fun l => l.vals.find? fun v => decide (v.idx = i)

/-- Whether a taking of an earlier execution is still under way for an index. -/
def takingOut (t : Thread) (i : Nat) : Bool := t.retry.elim false fun l => l.out.contains i

/-- A taking operation that emits Null discards what the latch holds for it; the taking stands (R162). -/
def dropLatched (i : Nat) (t : Thread) : Thread :=
  { t with retry := t.retry.map fun l =>
      { l with vals := l.vals.filter fun v => decide (v.idx ≠ i), out := l.out.filter fun j => decide (j ≠ i) } }

/-- A taking operation fires: it delivers the latched token, waits for the taking under way, or acts at the owner. -/
def fireTaking (f : Fire) (ta tb : Nat) (a : Access) : Act Unit :=
  match latched f.th f.i with
  | some v => completeAct f ta tb v.tok v.tok noFlags []
  | none =>
    if takingOut f.th f.i then do
      takeTurn f ta tb noFlags []
      modBlock f.c f.k fun b => { b with pend := b.pend ++ [(f.i, ⟨a, [], [], 1, 0⟩)] }
    else fireAccess f ta tb [] a

/-- A taking operation that emits Null. -/
def nullTaking (f : Fire) (ta tb : Nat) : Act Unit := do
  completeAct f ta tb .null .null noFlags []
  modThread f.c f.k (dropLatched f.i)

/-- An access of a taking operation. -/
def takingOf (f : Fire) (op : AccOp) (n : Nat) (a : Word) : Access :=
  { readOf f .atomic n n a none with op := op }

/-- LDS (R234, R240). -/
def execLds (p : Pred) (lsid : BitVec 5) (imm9 : BitVec 9) (ta : Target) (s : State) :
    Host.Outcome State Fault Refusal :=
  fireAct s fun f =>
    let _ := lsid
    match predicateHolds p f, asScalar f.l with
    | true, some a => fireTaking f (t9 ta) 511 (takingOf f .lds 8 (memAddr a (imm9.signExtend 64) 8))
    | _, _ => nullTaking f (t9 ta) 511

/-- STS (R234, R240). -/
def execSts (p : Pred) (lsid : BitVec 5) (imm18 : BitVec 18) (s : State) : Host.Outcome State Fault Refusal :=
  fireAct s fun f =>
    let _ := lsid
    match predicateHolds p f, asScalar f.l, asScalar f.r with
    | true, some a, some v => fireTaking f 511 511 (takingOf f (.sts v) 8 (memAddr a (imm18.signExtend 64) 8))
    | _, _, _ => nullTaking f 511 511

/-- The width of an AMO in bytes (R241). -/
def amoBytes : AmoType → Nat
  | .i64 | .n64 => 8
  | _ => 4

/-- AMO (R241): `.CAS` alone uses `.p` as an operand. -/
def execAmo (p : Pred) (aop : AmoOp) (aty : AmoType) (tb ta : Target) (s : State) :
    Host.Outcome State Fault Refusal :=
  fireAct s fun f =>
    let third := match aop with
      | .cas => asScalar f.p
      | _ => some 0
    match predicateHolds p f, asScalar f.l, asScalar f.r, third with
    | true, some a, some b, some c =>
      fireTaking f (t9 ta) (t9 tb) (takingOf f (.amo aop aty b c) (amoBytes aty) a)
    | _, _, _, _ => nullTaking f (t9 ta) (t9 tb)

/-- BUMP (R242). -/
def execBump (p : Pred) (tb ta : Target) (s : State) : Host.Outcome State Fault Refusal :=
  fireAct s fun f =>
    match predicateHolds p f, asScalar f.l, asScalar f.r with
    | true, some a, some n =>
      fireTaking f (t9 ta) (t9 tb) (takingOf f (.bump (n.toNat % 2 ^ 32)) 8 a)
    | _, _, _ => nullTaking f (t9 ta) (t9 tb)

/-! ### PREF, SLICE, TLD -/

/-- A prefetch (R243): translation starts, and once it is there a granule of GDDR7 is asked for; a failure drops it. -/
def prefetch (e : ExecId) (asid : Nat) (a : Word) (slack : Nat) (st : StreamHint) : Act Unit := do
  let s ← look (fun s => s)
  match translate s e.core e.slot asid ⟨true, false, false⟩ a.toNat with
  | .bad _ _ => pure ()
  | .miss page => joinWalk e.core asid page e.slot (.prefetch e a slack st)
  | .span x =>
    match paDenied s x 1 false true, ownerOf s x.pa with
    | none, .gddr d w =>
      onlyIf (reaches s e.core (.gddr d w))
        (sendToOwner e.core e.slot (.gddr d w) slack false (.access ⟨e, .read, [(0, x.pa)], slack, false, st, .own, none⟩) (pure ()))
    | _, _ => pure ()

/-- PREF (R243). -/
def execPref (p : Pred) (imm9 : BitVec 9) (s : State) : Host.Outcome State Fault Refusal :=
  fireAct s fun f => do
    completeAct f 511 511 .null .null noFlags []
    match predicateHolds p f, asScalar f.l with
    | true, some a => prefetch f.id f.th.asid (memAddr a (imm9.signExtend 64) 256) (slackOf f) (streamOf f)
    | _, _ => pure ()

/-- SLICE (R184): bits 5:0 of the record's address are ignored. -/
def execSlice (p : Pred) (slsel : SliceSel) (tb ta : Target) (s : State) : Host.Outcome State Fault Refusal :=
  fireAct s fun f =>
    match predicateHolds p f, asScalar f.l, asScalar f.r with
    | true, some a, some r =>
      fireAccess f (t9 ta) (t9 tb) []
        (readOf f (.slice slsel r.toNat f.th.nrank.toNat) 1 64 (a &&& ~~~(63#64)) none)
    | _, _, _ => completeAct f (t9 ta) (t9 tb) .null .null noFlags []

/-- TLD (R211): status 2 is decided from the address alone. -/
def execTld (p : Pred) (buf : BitVec 2) (tb ta : Target) (s : State) : Host.Outcome State Fault Refusal :=
  fireAct s fun f =>
    match predicateHolds p f, asScalar f.l with
    | true, some a =>
      if a.toNat % 16 ≠ 0 then completeAct f (t9 ta) (t9 tb) (.scalar 2) (.scalar 2) noFlags []
      else fireAccess f (t9 ta) (t9 tb) [] (readOf f (.table buf.toNat) 1 276 a none)
    | _, _ => completeAct f (t9 ta) (t9 tb) .null .null noFlags []

end Sys2Proof.Machine
end

