-- ==== Sys2Proof/Machine/MemEvents.lean ====
section
/-! DEFINITION. What happens to accesses at their owners and on the way back: owner accesses, store words,
acknowledgements, refusals, page walks, wellheads (R224, R228, R230-R236, R241, R242). -/

namespace Sys2Proof.Machine

open Sys2Proof

/-! ### Acts at the owner (R232-R234, R241, R242) -/

/-- The new value of an AMO on w bits (R241). -/
def amoNew (op : AmoOp) (ty : AmoType) (old b c : Nat) : Nat :=
  let w := 8 * amoBytes ty
  let sgn := match ty with
    | .i64 | .i32 => true
    | _ => false
  let le := fun (x y : Nat) => if sgn then decide (sintOf w x ≤ sintOf w y) else decide (x ≤ y)
  match op with
  | .add => (old + b) % 2 ^ w
  | .min => if le old b then old else b
  | .max => if le old b then b else old
  | .and => old &&& b
  | .or => old ||| b
  | .swp => b
  | .cas => if old = b then c else old

/-- The old value as AMO delivers it. -/
def amoExtend (ty : AmoType) (old : Nat) : Word :=
  match ty with
  | .i32 => BitVec.ofInt 64 (sintOf 32 old)
  | _ => word old

/-- BUMP on a counter word (R242): the new word and the result. -/
def bumpWord (w : Nat) (n : Nat) : Nat × Word :=
  let count := w % 2 ^ 32
  let cap := w / 2 ^ 32 % 2 ^ 16
  let ovf := w / 2 ^ 48 % 2 ^ 16
  if count + n ≤ cap then (w - count + (count + n), word count)
  else (w - ovf * 2 ^ 48 + min (ovf + 1) 0xFFFF * 2 ^ 48, word (2 ^ 63 + ovf))

/-- An entry of the store-trace ring of core h (R236): word offset, byte mask, source. -/
def traceStore (h off mask src slot kind : Nat) : Act Unit := do
  let s ← look id
  let ctl := (creg s h 0x0208).toNat
  let lo := (creg s h 0x0210).toNat
  let hi := (creg s h 0x0218).toNat
  let at_ := off / 8 * 8
  onlyIf (decide (ctl % 2 = 1) && (decide (ctl / 2 % 2 = 0) || (decide (lo ≤ at_) && decide (at_ ≤ hi)))) (do
    let n := (creg s h 0x0220).toNat % 2 ^ 32
    let tail := (creg s h 0x0240).toNat % 2 ^ 32
    let base := cisternPa h (0x12_7000 + 16 * (n % 256))
    write64 base (word s.tick)
    writeNat (base + 8) 8
      (off / 8 % 2 ^ 18 + mask % 256 * 2 ^ 18 + src % 4096 * 2 ^ 26 + slot % 16 * 2 ^ 38 + kind % 4 * 2 ^ 42 +
        n % 2 ^ 20 * 2 ^ 44)
    setCreg h 0x0220 (word ((n + 1) % 2 ^ 32))
    onlyIf (decide ((n + 2 ^ 32 - 256 + 2 ^ 32 - tail) % 2 ^ 32 < 256)) (countReg h 0x0228 1))

/-- The node that an access comes from. -/
def askerNode (s : State) : Asker → Nat
  | .own => nodeId s
  | .peer n => n
  | .host n _ => n

/-- Whether an address lies in the ring of a queue that is not Free, and the writer's node is not its host (R87): the record is that
of the die that the ring lies on. -/
def ringBarred (s : State) (a : Asker) (pa : Nat) : Bool :=
  match localOwner pa with
  | .gddr d _ => (dieAt s d).recs.any fun e =>
      decide (e.2.state ≠ 0) && decide (e.2.host ≠ askerNode s a) && decide (e.2.base * 4096 ≤ pa) &&
        decide (pa < e.2.base * 4096 + 64 * 2 ^ e.2.logsz)
  | _ => false

/-- Bytes that the device itself writes from a physical address up; those in the ring of a queue are its host's alone (R87). -/
def writeOwn (pa : Nat) (bs : List Byte) : Act Unit := do
  let s ← look id
  each ((List.range bs.length).zip bs) fun b => onlyIf (!ringBarred s .own (pa + b.1)) (emit (.mem (pa + b.1) b.2))
  pokeWaits pa bs.length

/-- The core and slot that the trace of a write names: 0xFFF for another module's, slot 0 for that and a siphon's (R236). -/
def traceCore (a : Asker) (core : Nat) : Nat := if a = .own then core else 0xFFF
def isSiphon : Option Engine → Bool
  | some (.siphon _ _) => true
  | _ => false
def traceSlot (a : Asker) (e : Option Engine) (slot : Nat) : Nat := if a = .own ∧ !isSiphon e then slot else 0

/-- Whether a write is the add of a launch unit to a signal word, which no trace names (R236). -/
def isAdder : Option Engine → Bool
  | some (.adder _ _) => true
  | _ => false

/-- A write that reaches a cistern from another core, another module or a siphon is traced (R236). -/
def traceAt (pa mask : Nat) (a : Asker) (e : Option Engine) (core slot kind : Nat) : Act Unit :=
  match localOwner pa with
  | .cistern h off =>
    onlyIf (!isAdder e && (decide (h ≠ traceCore a core) || isSiphon e)) (traceStore h off mask (traceCore a core) (traceSlot a e slot) kind)
  | _ => pure ()

/-- n bytes written by a request that acts on memory; the ring of a queue stays as it is for all but its host (R87, log entry 79). -/
def writeFor (r : Req) (pa n v : Nat) : Act Unit := do
  let b ← look fun s => ringBarred s r.asker pa
  onlyIf (!b) (writeNat pa n v)

/-- The value that a request brings back to who asked. -/
def valueFor (r : Req) (v : Word) : Delivery :=
  match r.eng with
  | some e => .engine e (.bumped v)
  | none => .taken r.id r.op v

/-- What a request does at its owner: its reply, or none where it is refused (R234). -/
def serveReq (r : Req) : Act (Option Delivery) := do
  let s ← look id
  let pa := (r.bytes.headD (0, 0)).2
  let trace := fun (mask kind : Nat) => traceAt pa mask r.asker r.eng r.id.core r.id.slot kind
  match r.op with
  | .read => pure (some (match r.eng with
    | some e => .engine e (engBytes r (r.bytes.map fun b => byteAt s b.2))
    | none => .bytes r.id (r.bytes.map fun b => (b.1, byteAt s b.2))))
  | .lds =>
    if isFull s pa then do
      emit (.wordEmpty (pa / 8))
      pure (some (.taken r.id r.op (word64At s pa)))
    else pure none
  | .sts v =>
    if isFull s pa then pure none
    else do
      write64 pa v
      fillWord pa
      trace 255 2
      pure (some (.taken r.id r.op 0))
  | .amo op ty b c => do
    let n := amoBytes ty
    let old := natAt s pa n
    writeFor r pa n (amoNew op ty old (b.toNat % 2 ^ (8 * n)) (c.toNat % 2 ^ (8 * n)))
    fillWord pa
    trace ((2 ^ n - 1) * 2 ^ (pa % 8)) 1
    pure (some (valueFor r (amoExtend ty old)))
  | .bump n => do
    let (w, v) := bumpWord (natAt s pa 8) n
    writeFor r pa 8 w
    fillWord pa
    trace 255 1
    pure (some (valueFor r v))

/-- The message that carries the answer of a request. -/
def answer (r : Req) : Option Delivery → Msg
  | some d => .deliver d
  | none => .refused r

/-- OWNER_ACCESS (R232): a request acts at the memory port of the core that owns its bytes, and its answer leaves. -/
def execOwnerAccess (r : Req) (s : State) : Host.Outcome State Fault Refusal :=
  .next (run (do
    let d ← serveReq r
    let c := r.id.core
    match localOwner (r.bytes.headD (0, 0)).2 with
    | .cistern h _ =>
      if h = c ∧ r.asker = .own ∧ r.eng = none then
        match d with
        | some d => deliverNow d
        | none => later 1 1 r.id.idx (.ldsStsRefusal r)
      else sendBack h 6 r.asker c r.id.slot r.slack r.exh (answer r d)
    | _ => pure ()) s)

/-! ### Store words (R230, R326) -/

/-- A store word is written in one step, and leaves its word full (R230, R233); one that lies in the ring of a queue is its host's
alone (R87, log entry 79). -/
def applyWord (w : StoreWord) : Act Unit := do
  let b ← look fun s => ringBarred s w.asker (w.word * 8)
  onlyIf (!b) (do
    each w.bytes fun b => emit (.mem (w.word * 8 + b.1) b.2)
    fillWord (w.word * 8)
    pokeWaits (w.word * 8) 8
    traceAt (w.word * 8) (w.bytes.foldl (fun m b => m + 2 ^ b.1) 0) w.asker w.eng w.core w.slot (if isSiphon w.eng then 3 else 0))

/-- STORE_WORD_APPLY (R230): the owning core applies a store word and acknowledges it. -/
def execStoreWordApply (w : StoreWord) (s : State) : Host.Outcome State Fault Refusal :=
  .next (run (do
    applyWord w
    match localOwner (w.word * 8) with
    | .cistern h _ => sendBack h 6 w.asker w.core w.slot w.slack w.exh (ackOf w)
    | _ => pure ()) s)

/-! ### Refusals (R234, R235) -/

/-- Whether an execution is the one that its slot runs. -/
def isCurrent (s : State) (id : ExecId) : Bool :=
  match blockAt s id.core id.slot with
  | some b => decide (b.gen = id.gen) && !b.stopped
  | none => false

/-- Whether the thread in a slot is leaving it: its retries are abandoned (R235). -/
def isLeaving (s : State) (c k : Nat) : Bool := (threadAt s c k).elim false fun t => decide (t.wait = .swapping)

/-- The taking of an execution is no longer under way. -/
def takingEnds (id : ExecId) : Act Unit :=
  let drop := fun (l : Latch) =>
    if l.gens.contains id.gen then { l with out := l.out.filter fun j => decide (j ≠ id.idx) } else l
  modThread id.core id.slot fun t => { t with retry := t.retry.map drop, trap := t.trap.map drop }

/-- A refused taking of an execution that has stopped takes nothing; a later execution that waits for it sends its own
request (R235). -/
def takeAnew (id : ExecId) : Act Unit := do
  let s ← look (fun s => s)
  let b ← look (blockAt · id.core id.slot)
  match b with
  | none => pure ()
  | some b =>
    match pendOf b id.idx with
    | some p =>
      onlyIf (decide (p.acc.op ≠ .read))
        (if b.stopped || isLeaving s id.core id.slot then modBlock id.core id.slot (setPend id.idx { p with out := 0 })
        else do
          modBlock id.core id.slot (dropPend id.idx)
          tryAccess id.core id.slot p.acc)
    | none => pure ()

/-- LDS_STS_REFUSAL (R234): the refusal is counted, and the request is sent again 64 cycles later unless the limit is
reached or the execution has stopped (R235). -/
def execLdsStsRefusal (r : Req) (s : State) : Host.Outcome State Fault Refusal :=
  .next (run (do
    let c := r.id.core
    let k := r.id.slot
    countReg c 0x0238 1
    if isCurrent s r.id && !isLeaving s c k then do
      let limit := (creg s c 0x0200).toNat % 65536
      let p := (blockAt s c k).bind (pendOf · r.id.idx)
      match p with
      | none => pure ()
      | some p =>
        modBlock c k (setPend r.id.idx { p with refusals := p.refusals + 1 })
        if limit ≠ 0 ∧ limit ≤ p.refusals + 1 then do
          takingEnds r.id
          raise c k ⟨0x05, if r.op = .lds then 0 else 1, r.id.idx, vaAt p.acc 0⟩
        else later 64 1 (slotPlace c k) (.ldsStsResend r)
    else do
      takingEnds r.id
      takeAnew r.id) s)

/-- LDS_STS_RESEND (R234). -/
def execLdsStsResend (r : Req) (s : State) : Host.Outcome State Fault Refusal :=
  .next (run (
    if isCurrent s r.id && !isLeaving s r.id.core r.id.slot then sendReq r
    else do takingEnds r.id; takeAnew r.id) s)

/-! ### Page walks (R221-R224) -/

/-- What a walk finds: a leaf, a fault with its cause and reason, or that it needs the entry at an address. -/
inductive WalkEnd
  | leaf (e : TlbEntry)
  | bad (cause reason : Nat)
  | more (pa : Nat)

/-- The levels of a walk below a table, highest first, as the shift of the index and the number of entries (R222). -/
def walkLevels : List (Nat × Nat × Nat) := [(4, 48, 256), (3, 39, 512), (2, 30, 512), (1, 21, 512), (0, 16, 32)]

/-- The entry at an address among those that a walk has read: none when it has not, none inside when its table could not be reached. -/
def entryRead (l : List (Nat × Option Nat)) (pa : Nat) : Option (Option Nat) := (l.find? fun e => decide (e.1 = pa)).map (·.2)

/-- A walk from a table with the entries that it has read (R222, R223). -/
def walkFrom (l : List (Nat × Option Nat)) (asid va : Nat) : List (Nat × Nat × Nat) → Nat → WalkEnd
  | [], _ => .bad 0x10 2
  | (lev, shift, n) :: rest, table =>
    if gddrTop ≤ table then .bad 0x10 4
    else
      match entryRead l (table + va / 2 ^ shift % n * 8) with
      | none => .more (table + va / 2 ^ shift % n * 8)
      | some none => .bad 0x11 3
      | some (some e) =>
        let addr := e / 2 ^ 12 % 2 ^ 40 * 2 ^ 12
        let leaf := e / 2 % 2 = 1
        if e % 2 = 0 then .bad 0x10 1
        else if leaf && decide (2 ≤ lev) then .bad 0x10 2
        else if !leaf && decide (lev = 0) then .bad 0x10 2
        else if leaf then
          if addr % 2 ^ shift ≠ 0 then .bad 0x10 3
          else
            let pages := 2 ^ (shift - 16)
            .leaf { asid := asid, page := va / 0x10000 / pages * pages, npages := pages, pa := addr,
                    r := e / 8 % 2 = 1, w := e / 16 % 2 = 1, x := e / 32 % 2 = 1, cell := e / 64 % 2 = 1 }
        else walkFrom l asid va rest addr

/-- The walk of a page of an address space from its root (R221). -/
def walkPage (s : State) (l : List (Nat × Option Nat)) (asid page : Nat) : WalkEnd :=
  let root := (mreg s (0x1000 + 8 * asid)).toNat
  if root % 2 = 0 then .bad 0x10 1 else walkFrom l asid (page * 0x10000) walkLevels (root / 2 ^ 12 % 2 ^ 40 * 2 ^ 12)

/-- A walker asks the wellhead of an entry for it (R224, R228); the packet has SLACK 32 (log entry 139). -/
def askEntry (d asid page pa : Nat) : Act Unit := do
  let s ← look id
  let e := Engine.walker d asid page
  let r : Req := ⟨⟨2304, 0, 0, 0⟩, .read, (List.range 8).map fun i => (i, pa + i), 32, false, .none, .own, some e⟩
  modDie d fun x => { x with walks := x.walks.map fun w => if w.asid = asid ∧ w.page = page then { w with asking := true } else w }
  if reaches s (unitRouter d) (localOwner pa) then
    sendFromTo (unitRouter d) 2304 none (localOwner pa) 32 false (.access r) (pure ())
  else engineAnswer e (engFailed r)

/-- The set of a second-level TLB that an entry lies in: 256 sets of 8 ways (R224, log entry 7). -/
def tlbSet (e : TlbEntry) : Nat := e.page / e.npages % 256

/-- A second-level TLB with a new entry: when the 8 ways of its set are taken, the oldest entry of the set leaves. -/
def fillSet (e : TlbEntry) (l : List TlbEntry) : List TlbEntry :=
  let ways := l.filter fun x => decide (tlbSet x = tlbSet e)
  e :: (if ways.length < 8 then l else l.filter fun x => decide (some x ≠ ways.getLast?))

/-- A leaf is kept in the TLBs of the cores that waited for it and of their regions (R224); which entry it replaces
decides only timing: the oldest. -/
def fillTlbs (e : TlbEntry) (c : Nat) : Act Unit := do
  modCore c fun x => if x.tlb.contains e then x else { x with tlb := (e :: x.tlb).take 128 }
  let l ← look fun s => mget [] s.tlb2 (regionOf c)
  onlyIf (!l.contains e) (emit (.tlb2 (regionOf c) (fillSet e l)))

/-- The load of a block that waits for a page is tried again; where the walk failed, it faults. -/
def loadWalked (c k : Nat) (asid page : Nat) (addr : Word) (w : WalkEnd) : Act Unit := do
  let t ← look (threadAt · c k)
  match t with
  | none => pure ()
  | some t =>
    onlyIf (decide (t.asid = asid) && t.block.isNone && decide (t.wait = .nothing) && decide (t.next = addr))
      (match w with
      | .leaf _ => later 0 4 (slotPlace c k) (.blockLoad c k)
      | .bad cause r => raise c k ⟨cause, r, 0xFF, if pageOf addr.toNat = page then addr else word (page * 0x10000)⟩
      | .more _ => pure ())

/-- A walk that fails in the cycle of a fault raises that of an access of a lower index, which takes the other's place (R387). -/
def failedJobs (c k asid page : Nat) (w : WalkEnd) : Act Unit := do
  let s ← look id
  match (slotAt s c k).undo, w with
  | some u, .bad cause r => onlyIf (decide (u.cycle = s.cycle)) (each u.jobs fun a =>
      match checkParts s c k { u.thread with asid := asid } a a.parts with
      | .miss p va => onlyIf (decide (p = page)) (raise c k ⟨cause, r, a.idx, va⟩)
      | _ => pure ())
  | _, _ => pure ()

/-- The accesses of a slot that wait for a page are checked again; where the walk failed, they fault. -/
def walkDone (c k : Nat) (asid page : Nat) (w : WalkEnd) : Act Unit := do
  let s ← look id
  match threadAt s c k with
  | none => pure ()
  | some t =>
    onlyIf (decide (t.asid = asid)) (failedJobs c k asid page w)
    onlyIf (decide (t.asid = asid) && decide (t.wait ≠ .fault))
      (match t.block with
      | none => pure ()
      | some b =>
        each b.jobs fun a => do
          let s ← look id
          match checkParts s c k t a a.parts, w with
          | .miss p va, .bad cause r => onlyIf (decide (p = page)) (raise c k ⟨cause, r, a.idx, va⟩)
          | .miss _ _, _ => pure ()
          | _, _ => do
            modBlock c k fun b => { b with jobs := b.jobs.filter fun x => decide (x ≠ a) }
            tryAccess c k a)

/-- Jobs whose page is not there yet start the walk they need next (R225). -/
def nextWalks (c k : Nat) : Act Unit := do
  let s ← look id
  match threadAt s c k with
  | none => pure ()
  | some t =>
    match t.block with
    | none => pure ()
    | some b => each b.jobs fun a => do
      let s ← look id
      match checkParts s c k t a a.parts with
      | .miss p _ => joinWalk c t.asid p k .access
      | _ => pure ()

/-- What a walk that has ended does for one that waited for it (R224, R243). -/
def walkAnswer (asid page : Nat) (w : WalkEnd) (x : Nat × Nat × WalkUse) : Act Unit :=
  match x.2.2 with
  | .access => do
    walkDone x.1 x.2.1 asid page w
    nextWalks x.1 x.2.1
    checkComplete x.1 x.2.1
  | .load addr => loadWalked x.1 x.2.1 asid page addr w
  | .prefetch e va slack st => match w with
    | .leaf _ => prefetch e asid va slack st
    | _ => pure ()
  | .engine e => do
    match w with
    | .bad cause r => modXfer e fun x => { x with walked := x.walked ++ [(page, cause, r)] }
    | _ => pure ()
    pokeEngine e

/-- A walk ends (R224): its leaf goes into the TLBs, its walker takes the next walk that waits, and what has waited for it goes on. -/
def endWalk (die asid page : Nat) (w : Walk) (e : WalkEnd) : Act Unit := do
  modDie die fun x => { x with walks := x.walks.filter fun y => decide (y ≠ w) }
  match e with
  | .leaf l => each w.waiters fun x => fillTlbs l x.1
  | _ => pure ()
  nextWalker die
  each w.waiters (walkAnswer asid page e)

/-- PAGE_WALK (R224): a walk reads its next entry through a wellhead, or ends. One that an invalidation has overtaken starts again
(R227). -/
def execPageWalk (die asid page : Nat) (s : State) : Host.Outcome State Fault Refusal :=
  .next (run (do
    match (dieAt s die).walks.find? fun w => decide (w.asid = asid) && decide (w.page = page) with
    | none => pure ()
    | some w =>
      onlyIf (w.going && !w.asking)
        (if w.stale then do
          modDie die fun x => { x with walks := x.walks.map fun y =>
            if y.asid = asid ∧ y.page = page then { y with stale := false, before := false, entries := [] } else y }
          later 1 1 65535 (.pageWalk die asid page)
        else match walkPage s w.entries asid page with
          | .more pa => askEntry die asid page pa
          | e => endWalk die asid page w e)) s)

/-! ### Wellheads (R228, R239) -/

/-- The memory-side buffer of a wellhead after a read of a granule (R239). -/
def bufferAfter (h : StreamHint) (g : Nat) (l : List Nat) : List Nat :=
  match h with
  | .none => if l.contains g then l else l ++ [g]
  | .readOnce => l
  | .lastUse => l.filter fun x => decide (x ≠ g)

/-- A request or a store word that has come to a wellhead acts, its answer leaves, and its permit returns (R228). -/
def wellServe (w : Nat) (m : Msg) : Act Unit :=
  match m with
  | .access r => do
    let d ← serveReq r
    modWell w fun x => { x with buffer := bufferAfter r.stream ((r.bytes.headD (0, 0)).2 / 256) x.buffer }
    sendBack (destRouter (.well w)).1 (destRouter (.well w)).2 r.asker r.id.core r.id.slot r.slack r.exh (answer r d)
    permitBack w m
  | .store x => do
    applyWord x
    sendBack (destRouter (.well w)).1 (destRouter (.well w)).2 x.asker x.core x.slot x.slack x.exh (ackOf x)
    permitBack w m
  | _ => pure ()

/-- WELLHEAD_REQUEST (R228): the oldest request that has arrived is served, its reply leaves with the slack that its wait has
left it (R312), and its permit returns. A wellhead of a fenced die has stopped (R428). -/
def execWellheadRequest (well : Nat) (s : State) : Host.Outcome State Fault Refusal :=
  .next (run (do
    match (wellAt s well).queue with
    | [] => pure ()
    | (m, n) :: rest =>
      onlyIf (!(wellAt s well).stopped) (do
        modWell well fun x => { x with queue := rest }
        wellServe well (msgWith m (slackAfter (msgSlack m).1 (s.cycle - n)) (msgSlack m).2))) s)

end Sys2Proof.Machine
end

