-- ==== Sys2Proof/Machine/Engine.lean ====
section
/-! DEFINITION. What siphons and matrix units share: how an engine reaches memory (R38, R222-R226, R285, R334), range locks
(R268-R270), and the completion of a command (R69, R79, R256, R262-R264). -/

namespace Sys2Proof.Machine

open Sys2Proof

/-! ### Where the bytes of a command lie (R38, R222-R226, R258) -/

/-- A fault of an engine's command: CAUSE and REASON of SEMF, and the failing address (R262, R300). -/
def engFault (cause reason va : Nat) : FaultInfo := ⟨cause, reason, 0, word va⟩

/-- The place of a byte that a command reaches: in its own address space, or in the local window of a rank's core (R258). -/
def placeOf (rank : Option Nat) (va : Nat) : Nat := rank.elim 0 (· + 1) * 2 ^ 64 + va % 2 ^ 64

/-- The physical address of a place among runs. -/
def stretchPa (l : List Stretch) (place : Nat) : Option Nat :=
  (l.find? fun x => decide (x.place ≤ place) && decide (place < x.place + x.len)).map fun x => x.pa + (place - x.place)

/-- A byte put behind runs; the first `keep` of them stay as they are. -/
def addByte (keep place pa : Nat) (l : List Stretch) : List Stretch :=
  match l.getLast? with
  | some x =>
    if keep < l.length ∧ x.place + x.len = place ∧ x.pa + x.len = pa then l.dropLast ++ [{ x with len := x.len + 1 }]
    else l ++ [⟨place, 1, pa⟩]
  | none => [⟨place, 1, pa⟩]

/-- The physical addresses of runs. -/
def stretchPas (l : List Stretch) : List Nat := l.flatMap fun x => (List.range x.len).map (x.pa + ·)

def readNeed : Needs := ⟨true, false, false⟩
def writeNeed : Needs := ⟨false, true, false⟩

/-- Where a byte of a command is found: at a physical address, behind a fault, or behind the walk of a page. -/
inductive Reach
  | here (pa : Nat)
  | bad (f : FaultInfo)
  | miss (page : Nat)

/-- A byte that a command reaches through its thread's address space: a translation fault is cause 1, a permission fault cause 2, cell
protection of a write cause 5 (R38, R262, R300). -/
def engReach (s : State) (u : Engine) (c : Cmd) (x : Xfer) (n : Needs) (va : Nat) : Reach :=
  match translate s c.core c.slot c.asid n (va % 2 ^ 64) with
  | .bad cause reason => .bad (engFault (cause - 0xF) reason va)
  | .miss page =>
    match x.walked.find? fun w => decide (w.1 = page) with
    | some (_, cause, reason) => .bad (engFault (cause - 0xF) reason va)
    | none => .miss page
  | .span y =>
    match paDenied s y 1 false (y.loc && decide (va % 2 ^ 64 < 0x1000)) with
    | some r => .bad (engFault 2 r va)
    | none =>
      if !reaches s (engineRouter u) (ownerOf s y.pa) then .bad (engFault 2 3 va)
      else if n.w && cellTrap s c.core (c.core, c.slot, c.inc) y [localPa s y.pa] then .bad (engFault 5 0 va)
      else .here (localPa s y.pa)

/-- A byte that a command writes, in its address space or in the local window of a rank's core (R258). -/
def destReach (s : State) (u : Engine) (c : Cmd) (x : Xfer) (rank : Option Nat) (va : Nat) : Reach :=
  match rank with
  | none => engReach s u c x writeNeed va
  | some o =>
    if !reaches s (engineRouter u) (.cistern o va) then .bad (engFault 2 3 va)
    else if cellTrap s o (c.core, c.slot, c.inc) ⟨cisternPa o va, 1, false, true⟩ [cisternPa o va] then .bad (engFault 5 0 va)
    else .here (cisternPa o va)

/-- A page put among those that a command misses. -/
def addPage (p : Nat) (l : List Nat) : List Nat := if l.contains p then l else l ++ [p]

/-- A byte that a command reads joins its accesses, or its page those that are missed. -/
def locateRead (s : State) (u : Engine) (c : Cmd) (a : Xfer × List Nat) (va : Nat) : Xfer × List Nat :=
  let p := placeOf none va
  if (stretchPa a.1.reads p).isSome || a.1.badReads.any fun b => decide (b.1 = p) then a
  else match engReach s u c a.1 readNeed va with
    | .here pa => ({ a.1 with reads := addByte a.1.asked p pa a.1.reads }, a.2)
    | .bad f => ({ a.1 with badReads := a.1.badReads ++ [(p, f)] }, a.2)
    | .miss page => (a.1, addPage page a.2)

/-- A byte that a command writes joins its accesses, or its page those that are missed. -/
def locateDest (s : State) (u : Engine) (c : Cmd) (a : Xfer × List Nat) (d : Option Nat × Nat) : Xfer × List Nat :=
  let p := placeOf d.1 d.2
  if (stretchPa a.1.dests p).isSome || a.1.badDests.any fun b => decide (b.1 = p) then a
  else match destReach s u c a.1 d.1 d.2 with
    | .here pa => ({ a.1 with dests := addByte 0 p pa a.1.dests }, a.2)
    | .bad f => ({ a.1 with badDests := a.1.badDests ++ [(p, f)] }, a.2)
    | .miss page => (a.1, addPage page a.2)

/-- The bytes of virtual ranges. -/
def rangeBytes (rs : List (Nat × Nat)) : List Nat := rs.flatMap fun r => (List.range r.2).map (r.1 + ·)
def destBytes (ds : List (Option Nat × Nat × Nat)) : List (Option Nat × Nat) :=
  ds.flatMap fun d => (List.range d.2.2).map fun i => (d.1, d.2.1 + i)

/-- The accesses of a command with the bytes of ranges that it reads and of those that it writes, and the pages that it misses. -/
def located (s : State) (u : Engine) (c : Cmd) (rs : List (Nat × Nat)) (ds : List (Option Nat × Nat × Nat)) : Xfer × List Nat :=
  (destBytes ds).foldl (locateDest s u c) ((rangeBytes rs).foldl (locateRead s u c) (xferAt s u, []))

/-- The bytes of a command are located; its misses take walkers, and it goes on when they have ended (R224). The answer is whether all
are located. -/
def locate (u : Engine) (c : Cmd) (rs : List (Nat × Nat)) (ds : List (Option Nat × Nat × Nat)) : Act Bool := do
  let s ← look id
  let r := located s u c rs ds
  modXfer u fun _ => r.1
  each r.2 fun p => joinWalk c.core c.asid p c.slot (.engine u)
  pure r.2.isEmpty

/-! ### Requests and store words of a command (R228, R256, R285, R309, R334) -/

/-- Whether a store word of the issuing thread that left at or before the commit of the command, and is not acknowledged,
overlaps bytes that the command reads (R285, R334). -/
def storesAhead (s : State) (c : Cmd) (pas : List Nat) : Bool :=
  overlapsSent ((coreAt s c.core).sent.filter fun w =>
    decide (w.word.slot = c.slot) && decide (w.inc = c.inc) && decide (w.commit ≤ c.commit)) pas

/-- A run of n bytes cut at the granules of 256 bytes; at most `fuel` pieces. -/
def granulesOf : Nat → Nat → Nat → List (Nat × Nat)
  | 0, _, _ => []
  | fuel + 1, pa, n =>
    if n = 0 then [] else
      let m := min n (256 - pa % 256)
      (pa, m) :: granulesOf fuel (pa + m) (n - m)

/-- The requests for runs, one for each granule of each. -/
def requestsFor (l : List Stretch) : List (Nat × Nat) := l.flatMap fun x => granulesOf (x.len + 1) x.pa x.len

/-- A request of a command (R309): n bytes from an address, with the slack and the STREAM hint of the command (R239, R254). -/
def engReq (u : Engine) (c : Cmd) (op : AccOp) (pa n : Nat) : Req :=
  ⟨⟨c.core, c.slot, 0, 0⟩, op, (List.range n).map fun i => (i, pa + i), c.slack, false, c.stream, .own, some u⟩

/-- A request served at the memory port beside the unit. -/
def serveHere (r : Req) : Act Unit := do
  match ← serveReq r with
  | some (.engine e a) => engineAnswer e a
  | _ => pure ()

/-- A request of a command goes to the owner of its bytes. -/
def sendEng (u : Engine) (c : Cmd) (r : Req) : Act Unit := do
  let s ← look id
  let o := ownerOf s (r.bytes.headD (0, 0)).2
  if reaches s (engineRouter u) o then sendFromTo (engineRouter u) c.core (some c.slot) o c.slack false (.access r) (serveHere r)
  else engineAnswer u (engFailed r)

/-- The bytes that a command has located and not yet asked for are asked for, once no store of its thread is ahead of them (R334). The
answer is whether everything has come. -/
def askBytes (u : Engine) (c : Cmd) : Act Bool := do
  let s ← look id
  let x := xferAt s u
  let new := x.reads.drop x.asked
  if storesAhead s c (stretchPas new) then do
    pokeEngine u
    pure false
  else do
    let reqs := requestsFor new
    modXfer u fun x => { x with asked := x.reads.length, out := x.out + reqs.length }
    each reqs fun q => sendEng u c (engReq u c .read q.1 q.2)
    let y ← look (xferAt · u)
    pure (decide (y.out = 0))

/-- The bytes of virtual ranges are located, asked for and there. -/
def fetch (u : Engine) (c : Cmd) (rs : List (Nat × Nat)) : Act Bool := do
  if ← locate u c rs [] then askBytes u c else pure false

/-- A store word of a command leaves for its owner (R256, R309); beside the unit it is written at once. -/
def sendStore (u : Engine) (c : Cmd) (w : Nat) (bytes : List (Nat × Byte)) : Act Unit := do
  let s ← look id
  let sid ← freshId
  let x : StoreWord := ⟨c.core, c.slot, sid, 0, w, bytes, c.slack, false, none, .own, some u⟩
  let o := ownerOf s (w * 8)
  if reaches s (engineRouter u) o then
    sendFromTo (engineRouter u) c.core (some c.slot) o c.slack false (.store x) (do
      applyWord x
      engineAnswer u (.written (w * 8)))
  else engineAnswer u (.failed [w * 8])

/-- A byte put among the words that a command writes; the bytes come with the last one first, and the last of one address stands. -/
def putWord (b : Nat × Byte) : List (Nat × List (Nat × Byte)) → List (Nat × List (Nat × Byte))
  | [] => [(b.1 / 8, [(b.1 % 8, b.2)])]
  | (w, l) :: rest =>
    if w = b.1 / 8 then (w, if l.any fun x => decide (x.1 = b.1 % 8) then l else (b.1 % 8, b.2) :: l) :: rest
    else (w, l) :: putWord b rest

/-- The aligned words that a command writes, each once with its final bytes. -/
def wordsWritten (writes : List (Nat × Byte)) : List (Nat × List (Nat × Byte)) := writes.foldl (fun ws b => putWord b ws) []

/-- The store words of a command leave, and its result stands until they are all acknowledged (R256). -/
def sendResult (u : Engine) (c : Cmd) (m : Moved) : Act Unit := do
  let ws := wordsWritten m.writes
  modXfer u fun x => { x with result := some { m with writes := [] }, out := x.out + ws.length }
  each ws fun w => sendStore u c w.1 w.2

/-- The fault of a store word whose owner could not be reached after all (R322, R323): permission reason 3 at its first byte. -/
def lateFault (x : Xfer) : Option FaultInfo :=
  x.dests.findSome? fun d =>
    ((List.range d.len).find? fun i => x.lost.contains ((d.pa + i) / 8 * 8)).map fun i => engFault 2 3 ((d.place + i) % 2 ^ 64)

/-! ### What a command has read -/

/-- The byte at a physical address as a command has read it, or as it has written it since. -/
def gotPa (x : Xfer) (writes : List (Nat × Byte)) (pa : Nat) : Byte :=
  match writes.find? fun w => decide (w.1 = pa) with
  | some w => w.2
  | none =>
    match x.got.find? fun g => decide (g.1 ≤ pa) && decide (pa < g.1 + g.2.length) with
    | some g => g.2.getD (pa - g.1) 0
    | none => 0

/-- A byte of a command's source, or the fault that stands in its way. -/
def gotByte (x : Xfer) (writes : List (Nat × Byte)) (va : Nat) : Except FaultInfo Byte :=
  match x.badReads.find? fun b => decide (b.1 = placeOf none va) with
  | some b => .error b.2
  | none =>
    match stretchPa x.reads (placeOf none va) with
    | none => .error (engFault 2 3 va)
    | some pa => if x.lost.contains pa then .error (engFault 2 3 va) else .ok (gotPa x writes pa)

/-- n bytes of a command's source, or the fault of the first that fails. -/
def gotBytes (x : Xfer) (writes : List (Nat × Byte)) (va : Nat) : Nat → Except FaultInfo (List Byte)
  | 0 => .ok []
  | n + 1 =>
    match gotByte x writes va with
    | .error f => .error f
    | .ok b => (gotBytes x writes (va + 1) n).map (b :: ·)

/-- The physical address of a byte of a command's destination, or the fault that stands in its way. -/
def destPa (x : Xfer) (rank : Option Nat) (va : Nat) : Except FaultInfo Nat :=
  match x.badDests.find? fun b => decide (b.1 = placeOf rank va) with
  | some b => .error b.2
  | none =>
    match stretchPa x.dests (placeOf rank va) with
    | none => .error (engFault 2 3 va)
    | some pa => .ok pa

/-- The physical addresses of n bytes of a command's destination, or the fault of the first that fails. -/
def destPas (x : Xfer) (rank : Option Nat) (va : Nat) : Nat → Except FaultInfo (List Nat)
  | 0 => .ok []
  | n + 1 =>
    match destPa x rank va with
    | .error f => .error f
    | .ok p => (destPas x rank (va + 1) n).map (p :: ·)

/-- The physical addresses of the bytes of ranges that have been located. -/
def readPas (x : Xfer) (rs : List (Nat × Nat)) : List Nat :=
  (rangeBytes rs).filterMap fun va => stretchPa x.reads (placeOf none va)
def writePas (x : Xfer) (ds : List (Option Nat × Nat × Nat)) : List Nat :=
  (destBytes ds).filterMap fun d => stretchPa x.dests (placeOf d.1 d.2)

/-! ### Range locks (R268-R270) -/

/-- The cistern bytes among physical addresses: core and offset. -/
def cisternBytes (pas : List Nat) : List (Nat × Nat) :=
  pas.filterMap fun p => match localOwner p with
    | .cistern c o => some (c, o)
    | _ => none

/-- A bounding range per core widened by one byte. -/
def widen (x : Nat × Nat) : List (Nat × Nat × Nat) → List (Nat × Nat × Nat)
  | [] => [(x.1, x.2, x.2)]
  | (c, lo, hi) :: rest =>
    if c = x.1 then (c, min lo x.2, max hi x.2) :: rest else (c, lo, hi) :: widen x rest

/-- The bounding range of physical addresses at each core whose cistern they touch: core, first and last offset. -/
def ranges (pas : List Nat) : List (Nat × Nat × Nat) := (cisternBytes pas).foldl (fun l x => widen x l) []

/-- The entries that a command registers: core and entry (R269). -/
def lockEntries (cmd : Nat) (src dst : List Nat) : List (Nat × RangeLock) :=
  (ranges src).map (fun r => (r.1, ⟨false, r.2.1, r.2.2, cmd⟩)) ++
    (ranges dst).map (fun r => (r.1, ⟨true, r.2.1, r.2.2, cmd⟩))

/-- Whether every table touched has room (R268, R269). -/
def locksFit (s : State) (es : List (Nat × RangeLock)) : Bool :=
  es.all fun e => decide ((coreAt s e.1).locks.length + (es.filter fun x => decide (x.1 = e.1)).length ≤ 32)

/-- Entries registered, all of them in one step. -/
def takeLocks (es : List (Nat × RangeLock)) : Act Unit :=
  each es fun e => modCore e.1 fun x => { x with locks := x.locks ++ [e.2] }

/-- Whether a matrix command's bytes overlap an entry of another command in its core's table (R285). -/
def locksAhead (s : State) (c : Cmd) (src dst : List Nat) : Bool :=
  let own := fun (pas : List Nat) => (cisternBytes pas).filter fun b => decide (b.1 = c.core)
  let hits := fun (l : RangeLock) (pas : List Nat) => (own pas).any fun b => decide (l.first ≤ b.2) && decide (b.2 ≤ l.last)
  (coreAt s c.core).locks.any fun l => decide (l.cmd ≠ c.id) && ((l.dst && hits l src) || hits l dst)

/-! ### Starts that wait -/

/-- The head of a core's matrix queue is to be carried out (R283). -/
def pokeMatrix (core : Nat) : Act Unit := do
  let extra ← takeDelay
  let x ← look (coreAt · core)
  match x.mu.queue with
  | c :: _ => later (1 + extra) 5 (44000 + core) (matrixEvent core c.kind)
  | [] => pure ()

/-- What waits for lock entries may go on: siphons that have not started their head, and the heads of matrix queues (R269, R285). -/
def pokeStarts : Act Unit := do
  let s ← look id
  each s.siphons fun x => onlyIf (!x.2.queue.isEmpty && !x.2.started) (pokeEngine (.siphon x.1 0))
  each s.cores fun x => onlyIf (!x.2.mu.queue.isEmpty) (pokeEngine (.matrix x.1 0))

/-- The entries of a command are released at every core (R269). -/
def releaseLocks (cmd : Nat) : Act Unit := do
  let s ← look id
  let cs := s.cores.filter fun x => x.2.locks.any fun l => decide (l.cmd = cmd)
  each cs fun x => modCore x.1 fun y => { y with locks := y.locks.filter fun l => decide (l.cmd ≠ cmd) }
  onlyIf (!cs.isEmpty) pokeStarts

/-! ### Completion (R69, R79, R256, R262-R264) -/

/-- SEMF of a fault (R262). -/
def semfWord (f : FaultInfo) : Word :=
  word (f.cause % 16 * 2 ^ 60 + f.reason % 16 * 2 ^ 56 + f.info.toNat % 2 ^ 56)

/-- A fault written into a semaphore, or FOVF when it holds one (R263). -/
def semFault (f : Option FaultInfo) (x : Sem) : Sem :=
  match f with
  | none => x
  | some f => if x.fault.toNat / 2 ^ 60 = 0 then { x with fault := semfWord f } else { x with fovf := true }

/-- INC added to a semaphore, stopped at the limit (R262). -/
def semAdd (n : Nat) (x : Sem) : Sem :=
  if x.count.toNat + n < 2 ^ 32 then { x with count := x.count + BitVec.ofNat 32 n }
  else { x with count := 0xFFFFFFFF, covf := true }

/-- What a copy leaves in SEMS (R257, R262). -/
def semShort (short : Nat) (clip : Bool) (x : Sem) : Sem := { x with short := BitVec.ofNat 48 short, clip := clip }

/-- The flags of a command go to its thread, resident or cached, and to its sheaf (R69); ENGS counts it down (R346). -/
def mergeEngine (c : Cmd) (f : NumFlags) : Act Unit := do
  onThread c.core c.slot c.inc fun t => { t with flags := mergeFlags t.flags f, engs := t.engs - 1 }
  mergeSheaf c.sheaf f

/-- The −1 of a command that ends (R79); it is the receipt of a counted item of its colour (R86). -/
def countedEnd (c : Cmd) : Act Unit := do
  onlyIf c.sheaf.isSome (colourReceived c.core c.col)
  countAt c.core c.sheaf c.time (-1)

/-- A semaphore of the issuing core changes at the completion of a command, whose −1 follows (R79, R256). -/
def finishCommand (c : Cmd) (sem inc : Nat) (f : NumFlags) (fault : Option FaultInfo) (upd : Sem → Sem) : Act Unit := do
  mergeEngine c f
  modSem c.core sem fun x => semAdd inc (semFault fault (upd x))
  countedEnd c

end Sys2Proof.Machine
end

