-- ==== Sys2Proof/Machine/Siphon.lean ====
section
/-! DEFINITION. Siphons and semaphores: CPY and its modes, SACQ, SACQP, SLPT, and the events of the command buffer and the
siphons (R247-R270, R434, R435). -/

namespace Sys2Proof.Machine

open Sys2Proof

/-! ### CPY at fire (R254) -/

/-- The command that an instruction holds for its commit (R254, R282): the commit gives it its number, time, sheaf and
NANTRAP. -/
def mkCmd (f : Fire) (kind : CmdKind) (l r p : Word) : Cmd :=
  { id := 0, kind := kind, l := l, r := r, p := p, record := [], time := 0, sheaf := none, core := f.c, slot := f.k,
    inc := f.th.incarn.toNat, asid := f.th.asid, nrank := f.th.nrank.toNat, round := roundingOf f, nanTrap := false,
    slack := slackOf f, stream := streamOf f, backlog := 0, commit := 0, mode := 0, shapes := [], stop := none, col := false }

/-- An engine command claims a command-buffer entry, or its thread parks (R247). -/
def withEntry (f : Fire) (k : Act Unit) : Act Unit := do
  let n ← look (freeEntries · f.c f.k)
  if n = 0 then parkOn f .command else k

/-- CPY fires (R254): its record is read, and the promise follows on the reply. -/
def copyWith (mode : Nat) (p : Pred) (tb ta : Target) (s : State) : Host.Outcome State Fault Refusal :=
  fireAct s fun f =>
    match predicateHolds p f, asScalar f.l, asScalar f.r with
    | true, some a, some r =>
      withEntry f (fireAccess f (t9 ta) (t9 tb) [.command (mkCmd f (.copy mode) a r 0)]
        (readOf f (.copy mode s.tick (coreAt s f.c).backlog) 64 64 a none))
    | _, _, _ => completeAct f (t9 ta) (t9 tb) .null .null noFlags []

/-- CPY (R254). -/
def execCpy (p : Pred) (tb ta : Target) (s : State) : Host.Outcome State Fault Refusal := copyWith 0 p tb ta s
/-- CPY.DEAL (R254, R258). -/
def execCpyDeal (p : Pred) (tb ta : Target) (s : State) : Host.Outcome State Fault Refusal := copyWith 1 p tb ta s
/-- CPY.GATH (R254, R259). -/
def execCpyGath (p : Pred) (tb ta : Target) (s : State) : Host.Outcome State Fault Refusal := copyWith 2 p tb ta s
/-- CPY.BIN (R254, R260). -/
def execCpyBin (p : Pred) (tb ta : Target) (s : State) : Host.Outcome State Fault Refusal := copyWith 3 p tb ta s
/-- CPY.X (R254, R261). -/
def execCpyX (p : Pred) (tb ta : Target) (s : State) : Host.Outcome State Fault Refusal := copyWith 4 p tb ta s

/-! ### SACQ, SACQP, SLPT (R264-R267, R304) -/

/-- The status of an acquire (R266). -/
def semStatus (x : Sem) : Word :=
  if x.fault.toNat / 2 ^ 60 ≠ 0 then x.fault else x.short.setWidth 64 ||| (if x.clip then word (2 ^ 48) else 0)

/-- Whether an undelivered NaN stop stands in a semaphore (R304). -/
def nanPending (x : Sem) : Bool := decide (x.fault.toNat / 2 ^ 60 = 6) && !x.fault.getLsbD 56

/-- An acquire whose amount is available: it reserves and delivers the status, or raises the matrix-NaN trap, which takes no
turn (R266, R304). -/
def acquire (f : Fire) (m n ta tb : Nat) : Act Unit := do
  let x ← look fun s => semAt (coreAt s f.c) m
  if n ≠ 0 ∧ nanPending x then do
    modSem f.c m fun y => { y with fault := y.fault ||| word (2 ^ 56) }
    raise f.c f.k ⟨0x04, m, f.i, x.fault⟩
  else do
    let tok := Token.scalar (semStatus x)
    completeAct f ta tb tok tok noFlags (if n = 0 then [] else [.acquire m n])
    sendReady f.c f.k

/-- An acquire that emits Null: loads that waited for it may go (R265). -/
def nullAcquire (f : Fire) (ta tb : Nat) : Act Unit := do
  completeAct f ta tb .null .null noFlags []
  sendReady f.c f.k

/-- The semaphore and the amount that `.l` of an acquire names (R266). -/
def semOf (a : Word) : Nat := a.toNat % 64
def amountOf (a : Word) : Nat := a.toNat / 65536 % 65536

/-- SACQ (R266). -/
def execSacq (p : Pred) (tb ta : Target) (s : State) : Host.Outcome State Fault Refusal :=
  fireAct s fun f =>
    match predicateHolds p f, asScalar f.l with
    | true, some a =>
      if available s f.c (semOf a) < amountOf a then parkOn f (.semaphore (semOf a) (amountOf a) none)
      else acquire f (semOf a) (amountOf a) (t9 ta) (t9 tb)
    | _, _ => nullAcquire f (t9 ta) (t9 tb)

/-- SACQP (R266): a promise that has passed raises the promise-missed trap. -/
def execSacqp (p : Pred) (tb ta : Target) (s : State) : Host.Outcome State Fault Refusal :=
  fireAct s fun f =>
    match predicateHolds p f, asScalar f.l, asScalar f.r with
    | true, some a, some promise => do
      let m := semOf a
      let n := amountOf a
      if n ≤ available s f.c m then acquire f m n (t9 ta) (t9 tb)
      else if promise.toNat < s.tick then raise f.c f.k ⟨0x02, m, f.i, promise⟩
      else do
        parkOn f (.semaphore m n (some promise))
        onTick (promise.toNat + 1) (.promiseMissed f.c f.k)
    | _, _, _ => nullAcquire f (t9 ta) (t9 tb)

/-- SLPT (R267). -/
def execSlpt (p : Pred) (tb ta : Target) (s : State) : Host.Outcome State Fault Refusal :=
  fireAct s fun f =>
    match predicateHolds p f, asScalar f.l with
    | true, some a =>
      if a.toNat ≤ s.tick then completeAct f (t9 ta) (t9 tb) (.scalar (word s.tick)) (.scalar (word s.tick)) noFlags []
      else do
        parkOn f (.sleep a)
        onTick a.toNat (.slptWake f.c f.k)
    | _, _ => completeAct f (t9 ta) (t9 tb) .null .null noFlags []

/-- The index of the instruction that a parked thread tries next. -/
def parkedIndex (s : State) (c k : Nat) : Nat :=
  match threadAt s c k with
  | none => 0xFF
  | some t => match t.block with
    | some b => (nextReady s c k t b).getD 0xFF
    | none => 0xFF

/-- PROMISE_MISSED (R266): a SACQP that is still parked when the tick has passed its promise tries again and traps. -/
def execPromiseMissed (core slot : Nat) (s : State) : Host.Outcome State Fault Refusal :=
  .next (run (match threadAt s core slot with
    | none => pure ()
    | some t =>
      match t.wait with
      | .semaphore m n (some promise) =>
        onlyIf (decide (promise.toNat < s.tick) && decide (available s core m < n))
          (raise core slot ⟨0x02, m, parkedIndex s core slot, promise⟩)
      | _ => pure ()) s)

/-- SLPT_WAKE (R267): a thread whose tick has come is able in the next cycle. -/
def execSlptWake (core slot : Nat) (s : State) : Host.Outcome State Fault Refusal :=
  .next (run (match threadAt s core slot with
    | none => pure ()
    | some t =>
      match t.wait with
      | .sleep a => onlyIf (decide (a.toNat ≤ s.tick)) (modThread core slot fun t => { t with wait := .nothing })
      | _ => pure ()) s)

/-! ### The command buffer (R247, R248) -/

/-- Whether a command goes to a siphon. -/
def isCopy (c : Cmd) : Bool :=
  match c.kind with
  | .copy _ => true
  | _ => false

/-- The siphon of a die with the fewest queued commands, the lowest of equals, with room (R248). -/
def leastSiphon (s : State) (d : Nat) : List Nat → Option Nat
  | [] => none
  | i :: rest =>
    let n := (siphonAt s (d * 16 + i)).queue.length
    match leastSiphon s d rest with
    | none => if n < 64 then some i else none
    | some j => if n ≤ (siphonAt s (d * 16 + j)).queue.length ∧ n < 64 then some i else some j

/-- The device mode (R417). -/
def deviceMode (s : State) : Nat := (mreg s 0x0900).toNat % 4

/-- COMMAND_HANDOVER (R248): the oldest siphon command of a core goes to a siphon of its die under the mode of
the device (R421), and its entry frees. -/
def execCommandHandover (core : Nat) (s : State) : Host.Outcome State Fault Refusal :=
  .next (run (do
    match (coreAt s core).cmds.find? fun e => isCopy e.2 with
    | none => pure ()
    | some e =>
      match leastSiphon s (dieOf core) (List.range 16) with
      | none => pure ()
      | some i => do
        let n := dieOf core * 16 + i
        modCore core fun x => { x with cmds := x.cmds.filter fun y => decide (y.1 ≠ e.1) }
        modSiphon n fun x => { x with queue := x.queue ++ [{ e.2 with mode := deviceMode s }] }
        let extra ← takeDelay
        later (1 + extra) 5 (21000 + n) (.siphonStart n)
        later 0 5 (22000 + core) (.commandHandover core)) s)

/-! ### What a copy does, element by element (R251-R261, R434) -/

/-- A copy being carried out: its command, mode, record fields and shape records (R251), and its accesses. -/
structure Copy where
  cmd : Cmd
  mode : Nat
  src : Shape
  dst : Shape
  aux : Nat
  aux2 : Nat
  org : List Nat
  box : List Nat
  io : Xfer

/-- The record and the shape records of a started command. -/
def copyOf (c : Cmd) (io : Xfer) : Copy :=
  { cmd := c, mode := match c.kind with
      | .copy m => m
      | _ => 0,
    src := shapeOf (c.shapes.take 64), dst := shapeOf (c.shapes.drop 64),
    aux := imageNat c.record 0x10 8, aux2 := imageNat c.record 0x18 8,
    org := (List.range 4).map fun d => imageNat c.record (0x20 + 4 * d) 4,
    box := (List.range 4).map fun d => imageNat c.record (0x30 + 4 * d) 4, io := io }

def Copy.bx (x : Copy) (d : Nat) : Nat := x.box.getD d 0
def Copy.og (x : Copy) (d : Nat) : Nat := x.org.getD d 0

/-- The conversions of VCVT (R205). -/
def cvtPairs : List (Fmt × Fmt) :=
  [CvtCode.bf16Fp32, .fp16Fp32, .fp32Bf16, .fp32Fp16, .fp16Bf16, .bf16Fp16, .i32Fp32, .n32Fp32, .fp32I32, .fp32N32,
    .t8Fp32, .t6Fp32, .fp32T8, .fp32T6, .i8Fp32, .fp32I8, .i16I32, .n16N32, .i32I16, .n32N16, .i8I32, .i32I8].map
    fun c => ((cvtSpec c).1, (cvtSpec c).2.1)

/-- The steps that convert one format to another (R205, R253): none for equal formats, one code, or two codes through FP32,
I32 or N32. -/
def cvtSteps (a b : Fmt) : Option (List (Fmt × Fmt)) :=
  if a = b then some []
  else if cvtPairs.contains (a, b) then some [(a, b)]
  else
    ([Fmt.fp32, .i32, .n32].find? fun m => cvtPairs.contains (a, m) && cvtPairs.contains (m, b)).map
      fun m => [(a, m), (m, b)]

/-- An element taken through conversion steps: bits, flags, saturations. -/
def convertSteps (mode : RoundMode) : List (Fmt × Fmt) → Nat → Nat × NumFlags × Nat
  | [], x => (x, noFlags, 0)
  | (a, b) :: rest, x =>
    let (y, f, n) := convertElem a b mode x
    let (z, g, m) := convertSteps mode rest y
    (z, f.or g, n + m)

/-- A copy that has moved nothing yet. -/
def Moved.none : Moved :=
  { flags := noFlags, sats := 0, short := 0, clip := false, groups := [], writes := [], stop := .none, used := 0, ask := .none }

/-- A copy that goes no further: a fault has stopped it, or it waits for a BUMP. -/
def Moved.halted (m : Moved) : Bool := m.stop.isSome || m.ask.isSome

/-- The bytes of an element of a record: the address of its first byte, how many, and for six-bit formats its place in
the group (R53, R184). -/
def elemPlace (sh : Shape) (base n : Nat) : Nat × Nat × Option Nat :=
  (base + sh.offset n, elemBytes sh.fmt, if (fmtOf sh.fmt).elim false Fmt.sixBit then some (n % 4) else none)

/-- The raw element in bytes. -/
def elemRaw (bs : List Byte) : Option Nat → Nat
  | none => leNat bs
  | some j => leNat bs / 2 ^ (6 * j) % 64

/-- A raw element put into the bytes that hold it; `past` is how many of the last elements of its group lie past the row's
extent and become 0 (R53). -/
def elemBits (old : List Byte) (v : Nat) (past : Nat) : Option Nat → List Byte
  | none => leBytes v old.length
  | some j =>
    let o := leNat old
    let w := o - o / 2 ^ (6 * j) % 64 * 2 ^ (6 * j) + v % 64 * 2 ^ (6 * j)
    leBytes (w % 2 ^ (6 * (4 - past))) 3

/-- Bytes written at a destination, or the fault that stands in their way (R256). -/
def putDest (x : Copy) (rank : Option Nat) (va n : Nat) (f : List Byte → List Byte) (m : Moved) : Moved :=
  match destPas x.io rank va n with
  | .error e => { m with stop := some e }
  | .ok ps => { m with writes := (ps.zip (f (ps.map (gotPa x.io m.writes)))).reverse ++ m.writes }

/-- An element written at its place in the destination (R256). -/
def writeElem (x : Copy) (rank : Option Nat) (base n v past : Nat) (m : Moved) : Moved :=
  let (va, len, six) := elemPlace x.dst base n
  putDest x rank va len (fun old => elemBits old v past six) m

/-- The two bytes of a scale written at the destination's SBASE (R434); DESIGN CHOICE (log entry 145): the bins of a BIN copy share
the record's SBASE, and a scale stands there at the offset of its element in the bin (R260). -/
def writeScale (x : Copy) (rank : Option Nat) (n v : Nat) (m : Moved) : Moved :=
  putDest x rank (x.dst.sbase.toNat + 2 * (n / 8)) 2 (fun _ => leBytes v 2) m

/-- Whether the formats of a copy carry scales (R253). -/
def Copy.scaled (x : Copy) : Bool := (fmtOf x.src.fmt).elim false Fmt.scaled

/-- One element of a box: where it comes from (its element offset in the source, none when clipped), where it goes (base and
element offset), whether it is the first of its group of 8, and how much of its group of four lies past the row. -/
structure ElemMove where
  src : Option Nat
  rank : Option Nat
  base : Nat
  dst : Nat
  first : Bool
  past : Nat

/-- A copy goes on unless it has halted. -/
def Moved.goOn (m : Moved) (f : Moved → Moved) : Moved := if m.halted then m else f m

/-- A clipped element (R257, R434): with EDGE = 1 it becomes 0, and the scale of its group 1.0. -/
def moveClipped (x : Copy) (e : ElemMove) (m : Moved) : Moved :=
  let m := { m with clip := true }
  if !x.src.pad then m
  else
    (writeElem x e.rank e.base e.dst 0 e.past m).goOn fun m =>
      if x.scaled && e.first then writeScale x e.rank e.dst 0x01FC m else m

/-- The scale of a group moves with its first element (R434). -/
def moveScale (x : Copy) (e : ElemMove) (n : Nat) (m : Moved) : Moved :=
  if x.scaled && e.first then
    match gotBytes x.io m.writes (x.src.sbase.toNat + 2 * (n / 8)) 2 with
    | .error f => { m with stop := some f }
    | .ok bs => writeScale x e.rank e.dst (leNat bs % 2 ^ 10) m
  else m

/-- The count of SHORT after an element is read: its size, and 3 bytes once for each group of four six-bit elements (R257). -/
def countShort (va len : Nat) (six : Option Nat) (m : Moved) : Moved :=
  match six with
  | none => { m with short := m.short + len }
  | some _ => if m.groups.contains va then m else { m with short := m.short + 3, groups := va :: m.groups }

/-- An element is read, converted and written (R253, R256, R257). -/
def moveElem (x : Copy) (steps : List (Fmt × Fmt)) (e : ElemMove) (m : Moved) : Moved :=
  m.goOn fun m =>
    match e.src with
    | none => moveClipped x e m
    | some n =>
      let (va, len, six) := elemPlace x.src x.src.base.toNat n
      match gotBytes x.io m.writes va len with
      | .error f => { m with stop := some f }
      | .ok bs =>
        let (v, f, k) := convertSteps x.cmd.round steps (elemRaw bs six)
        let m := countShort va len six { m with flags := m.flags.or f, sats := m.sats + k }
        (writeElem x e.rank e.base e.dst v e.past m).goOn (moveScale x e n)

/-- Elements moved in order. -/
def moveElems (x : Copy) (steps : List (Fmt × Fmt)) (es : List ElemMove) (m : Moved) : Moved :=
  es.foldl (fun m e => moveElem x steps e m) m

/-! ### The element lists of the modes -/

/-- The offset of coordinates under a record's strides. -/
def dot (sh : Shape) (cs : List Nat) : Nat :=
  ((List.range (sh.ndim + 1)).map fun d => cs.getD d 0 * sh.stride d).foldl (· + ·) 0

/-- Whether coordinates lie within a record's extents. -/
def within (sh : Shape) (cs : List Nat) : Bool :=
  (List.range (sh.ndim + 1)).all fun d => decide (cs.getD d 0 < sh.extent d)

/-- How many elements of the group of four of element n lie past an extent of e along dimension 0, of which n is element b0
(R53). DESIGN CHOICE (log entry 142): of a row that does not start on a group, or whose STR0 is not 1, none does. -/
def pastOf (sh : Shape) (n b0 e : Nat) : Nat :=
  if (fmtOf sh.fmt).elim false Fmt.sixBit && decide (sh.stride 0 = 1) && decide ((n - b0) % 4 = 0) then
    let first := b0 / 4 * 4
    if first + 4 ≤ e then 0 else first + 4 - e
  else 0

/-- The coordinates of element m of a box: dimension 0 fastest (R256). -/
def boxCoords (x : Copy) (ndim m : Nat) : List Nat :=
  let step := fun (acc : Nat × List Nat) (d : Nat) =>
    if d ≤ ndim then (acc.1 / x.bx d, acc.2 ++ [acc.1 % x.bx d]) else acc
  ((List.range 4).foldl step (m, [])).2

/-- The number of elements of a box. -/
def boxCount (x : Copy) (ndim : Nat) : Nat := ((List.range (ndim + 1)).map x.bx).foldl (· * ·) 1

/-- The core of a rank of the command's sheaf (R120): none when it lies on another module. -/
def rankCore (s : State) (c : Cmd) (r : Nat) : Option Nat :=
  match c.sheaf with
  | none => none
  | some n => match (sheafAt s n).members[r]? with
    | some o => if o < 2304 then some o else none
    | none => none

/-- Where DEAL puts destination coordinates (R258): the rank, and the element offset in its slice. -/
def dealTo (x : Copy) (cs : List Nat) : Nat × Nat :=
  let d := x.dst.pdim
  let g := cs.getD d 0
  let p := if x.dst.cyc = 0 then x.cmd.nrank else x.dst.cyc
  let b := x.dst.blk
  (g / b % p, dot x.dst (cs.set d (g / (b * p) * b + g % b)))

/-- How much of a group of four lies past a row of a rank's slice (R53, R258): dealt along dimension 0, the row of a slice has
as many elements as the rank has coordinates there. -/
def dealPast (x : Copy) (cs : List Nat) (n : Nat) : Nat :=
  let p := if x.dst.cyc = 0 then x.cmd.nrank else x.dst.cyc
  let b := x.dst.blk
  let g := cs.getD 0 0
  if x.dst.pdim = 0 then
    pastOf x.dst n (g / (b * p) * b + g % b)
      ((List.range (x.dst.extent 0)).filter fun h => decide (h / b % p = g / b % p)).length
  else pastOf x.dst n g (x.dst.extent 0)

/-- The elements of a plain copy or a DEAL whose destination lies within the extents. DESIGN CHOICE (log entry 149): the groups of 8 that
share a scale are counted before a DEAL, so a rank whose block begins inside one gets no scale for it. -/
def boxMoves (s : State) (x : Copy) : List ElemMove :=
  (List.range (boxCount x x.src.ndim)).filterMap fun m =>
    let cs := boxCoords x x.src.ndim m
    let from_ := (List.range 4).map fun d => x.og d + cs.getD d 0
    if within x.dst cs then
      let (rank, n) := if x.mode = 1 then
          (match dealTo x cs with
          | (r, n) => (rankCore s x.cmd r, n))
        else (none, dot x.dst cs)
      some { src := if within x.src from_ then some (dot x.src from_) else none, rank := rank,
             base := x.dst.base.toNat, dst := n, first := cs.getD 0 0 % 8 = 0,
             past := if x.mode = 1 then dealPast x cs n else pastOf x.dst n (cs.getD 0 0) (x.dst.extent 0) }
    else none

/-- The elements of a row that goes to element offset `start` of the destination from row k of the source, or from nowhere
(R259-R261). -/
def rowMoves (x : Copy) (k : Option Nat) (base start : Nat) : List ElemMove :=
  ((List.range (x.bx 0)).filter fun b => decide (b < x.dst.extent 0)).map fun b =>
    let n := start + b * x.dst.stride 0
    let from_ := k.bind fun k =>
      if within x.src [x.og 0 + b, k] then some (dot x.src [x.og 0 + b, k]) else none
    { src := from_, rank := none, base := base, dst := n, first := b % 8 = 0, past := pastOf x.dst n b (x.dst.extent 0) }

/-- A little-endian number of n bytes that a copy reads beside its elements, or the fault that stops it. -/
def readList (x : Copy) (va n : Nat) (m : Moved) (k : Nat → Moved) : Moved :=
  match gotBytes x.io m.writes va n with
  | .error f => { m with stop := some f }
  | .ok bs => k (leNat bs)

/-- The moves of row b1 of GATH (R259) from the row that its index names. -/
def gatherMoves (x : Copy) (b1 idx : Nat) : List ElemMove :=
  let k := sintOf 32 idx
  if b1 < x.dst.extent 1 then rowMoves x (if k < 0 then none else some k.toNat) x.dst.base.toNat (b1 * x.dst.stride 1) else []

/-- GATH (R259): row b1 comes from the row that the index list names. -/
def gatherRow (x : Copy) (steps : List (Fmt × Fmt)) (m : Moved) (b1 : Nat) : Moved :=
  m.goOn fun m => readList x (x.aux + 4 * b1) 4 m fun idx => moveElems x steps (gatherMoves x b1 idx) m

/-- BUMP of a bin header by 1 (R242, R260): what the next result says, or the copy waits for it. -/
def bumpHeader (x : Copy) (n : Nat) (m : Moved) (k : Nat → Moved → Moved) : Moved :=
  match destPas x.io none (x.aux2 + 16 * n) 8 with
  | .error f => { m with stop := some f }
  | .ok ps =>
    match x.io.bumps[m.used]? with
    | some v => k v.toNat { m with used := m.used + 1 }
    | none =>
      if x.io.lost.any ps.contains then { m with stop := some (engFault 2 3 (x.aux2 + 16 * n)) } else { m with ask := some n }

/-- A row of BIN goes to slot `sl` of bin n (R260). -/
def binRow (x : Copy) (steps : List (Fmt × Fmt)) (b1 n sl : Nat) (m : Moved) : Moved :=
  readList x (x.aux2 + 16 * n + 8) 8 m fun base => moveElems x steps (rowMoves x (some (x.og 1 + b1)) base (sl * x.dst.stride 1)) m

/-- A token that its bin refuses goes to the overflow bin, or is dropped (R260). -/
def binOverflow (x : Copy) (steps : List (Fmt × Fmt)) (b1 : Nat) (m : Moved) : Moved :=
  bumpHeader x (x.bx 2) m fun sl m => if sl < 2 ^ 63 then binRow x steps b1 (x.bx 2) sl m else m

/-- BIN (R260): token b1. -/
def binToken (x : Copy) (steps : List (Fmt × Fmt)) (m : Moved) (b1 : Nat) : Moved :=
  m.goOn fun m => readList x (x.aux + 4 * b1) 4 m fun k =>
    if k < x.bx 2 then
      bumpHeader x k m fun sl m => if sl < 2 ^ 63 then binRow x steps b1 k sl m else binOverflow x steps b1 m
    else binOverflow x steps b1 m

/-- The four elements of group g of row b1 of X (R261): kept values at p0 and p1, 0 at the others. -/
def expandGroup (x : Copy) (b1 g p0 p1 : Nat) : List (ElemMove × Bool) :=
  ((List.range 4).filter fun j => decide (4 * g + j < x.dst.extent 0)).map fun j =>
    let n := b1 * x.dst.stride 1 + (4 * g + j) * x.dst.stride 0
    let k := x.og 0 / 2 + 2 * g + (if j = p1 then 1 else 0)
    let kept := decide (j = p0) || decide (j = p1)
    let from_ := if kept && within x.src [k, x.og 1 + b1] then some (dot x.src [k, x.og 1 + b1]) else none
    ({ src := from_, rank := none, base := x.dst.base.toNat, dst := n, first := decide ((4 * g + j) % 8 = 0),
       past := pastOf x.dst n (4 * g + j) (x.dst.extent 0) }, kept)

/-- The elements of a group of X moved: a position that is not kept is written with 0. DESIGN CHOICE (log entry 148): a
group whose first position is not kept gets no scale. -/
def moveGroup (x : Copy) (steps : List (Fmt × Fmt)) (m : Moved) (e : ElemMove × Bool) : Moved :=
  m.goOn fun m => if e.2 then moveElem x steps e.1 m else writeElem x e.1.rank e.1.base e.1.dst 0 e.1.past m

/-- X (R261): group i of the rows in order. A bad metadata byte stops the command (R263, REASON 5). -/
def expandOne (x : Copy) (steps : List (Fmt × Fmt)) (m : Moved) (i : Nat) : Moved :=
  let per := x.bx 0 / 4
  m.goOn fun m => readList x (x.aux + i) 1 m fun b =>
    if b / 4 % 4 ≤ b % 4 ∨ 16 ≤ b then { m with stop := some (engFault 3 5 x.cmd.l.toNat) }
    else if i / per < x.dst.extent 1 then
      (expandGroup x (i / per) (i % per) (b % 4) (b / 4 % 4)).foldl (moveGroup x steps) m
    else m

/-! ### Command faults of a copy (R263) -/

/-- The bytes of the destination that a DEAL reaches in the ranks' cisterns lie in their windows (R258). DESIGN CHOICE (log entry 150): a
position that EDGE = 0 leaves as it is counts too. -/
def dealFits (s : State) (x : Copy) : Bool :=
  (boxMoves s x).all fun e =>
    let (va, n, _) := elemPlace x.dst e.base e.dst
    let sc := x.dst.sbase.toNat + 2 * (e.dst / 8)
    e.rank.isSome && decide (0x1000 ≤ va) && decide (va + n ≤ 0x12_7000) &&
      (!(x.scaled && e.first) || (decide (0x1000 ≤ sc) && decide (sc + 2 ≤ 0x12_7000)))

/-- The REASONs of cause 3 that a copy meets before a byte moves (R258-R263), in ascending order. DESIGN CHOICE (log entry 151): a shape
record that breaks R118 in another way is none; its elements move as its fields say. -/
def copyReasons (s : State) (x : Copy) : List (Nat × Bool) :=
  let r := x.cmd.r.toNat
  let plain := x.mode = 0 ∨ x.mode = 1
  let two := 2 ≤ x.mode
  let sf := fmtOf x.src.fmt
  let df := fmtOf x.dst.fmt
  let scaled := sf.elim false Fmt.scaled || df.elim false Fmt.scaled
  let zero := decide (r / 2 ^ 32 ≠ 0) || decide (r / 2 ^ 11 % 32 ≠ 0) || decide (r / 2 ^ 6 % 4 ≠ 0) ||
    (decide plain && decide (x.aux ≠ 0)) || (decide (x.mode ≠ 3) && decide (x.aux2 ≠ 0)) ||
    (decide (x.mode = 3) && decide (x.aux2 % 16 ≠ 0)) ||
    x.src.reserved || x.dst.reserved || decide (x.src.ndim ≠ x.dst.ndim) ||
    (decide two && decide (x.src.ndim ≠ 1)) ||
    (decide (x.mode = 1) && (!x.dst.part || decide (x.dst.blk = 0) || decide (x.dst.ndim < x.dst.pdim)))
  let pair := match sf, df with
    | some a, some b => (cvtSteps a b).isNone
    | _, _ => true
  let above := (List.range 4).any fun d =>
    decide (x.src.ndim < d) && !(decide (x.mode = 3) && decide (d = 2)) && decide (x.bx d ≠ 0)
  let dealOk := decide (x.mode ≠ 1) || zero || dealFits s x
  [(0, zero), (1, pair),
    (2, above || (scaled && (decide (x.og 0 % 8 ≠ 0) || decide (x.bx 0 % 8 ≠ 0))) ||
      (decide (x.mode = 4) && (decide (x.og 0 % 4 ≠ 0) || decide (x.bx 0 % 4 ≠ 0)))),
    (3, !dealOk), (4, decide (x.mode = 4) && decide (x.cmd.mode = 1)),
    (7, decide (x.mode = 3) && (decide (x.bx 2 = 0) || decide (4095 < x.bx 2)))]

/-- The command fault of a copy, if it meets one: the lowest REASON (R263). -/
def copyFault (s : State) (x : Copy) : Option FaultInfo :=
  ((copyReasons s x).find? fun r => r.2).map fun r => engFault 3 r.1 x.cmd.l.toNat

/-! ### SIPHON_START (R256, R269, R434, R435) -/

/-- The ranges of virtual addresses that the records of a copy lie at (R251, R254). -/
def recordRanges (c : Cmd) : List (Nat × Nat) := [(imageNat c.record 0 8, 64), (imageNat c.record 8 8, 64)]

/-- The index list, bin keys and headers, or metadata that a copy reads beside its elements (R259-R261). -/
def listRanges (x : Copy) : List (Nat × Nat) :=
  match x.mode with
  | 2 => [(x.aux, 4 * x.bx 1)]
  | 3 => [(x.aux, 4 * x.bx 1), (x.aux2, 16 * (x.bx 2 + 1))]
  | 4 => [(x.aux, x.bx 0 / 4 * x.bx 1)]
  | _ => []

/-- The virtual ranges of the elements and scales that moves read. -/
def sourceRanges (x : Copy) (es : List ElemMove) : List (Nat × Nat) :=
  es.flatMap fun e => match e.src with
    | none => []
    | some n =>
      let (va, len, _) := elemPlace x.src x.src.base.toNat n
      (va, len) :: (if x.scaled && e.first then [(x.src.sbase.toNat + 2 * (n / 8), 2)] else [])

/-- The ranges of the elements and scales that moves write, with the ranks that they lie at. -/
def destRanges (x : Copy) (es : List ElemMove) : List (Option Nat × Nat × Nat) :=
  es.flatMap fun e =>
    let (va, len, _) := elemPlace x.dst e.base e.dst
    (e.rank, va, len) :: (if x.scaled && e.first then [(e.rank, x.dst.sbase.toNat + 2 * (e.dst / 8), 2)] else [])

/-- The counter words of the headers of BIN. -/
def headerRanges (x : Copy) : List (Option Nat × Nat × Nat) :=
  if x.mode = 3 then (List.range (x.bx 2 + 1)).map fun n => (none, x.aux2 + 16 * n, 8) else []

/-- The little-endian number of n bytes that a copy has read; 0 where it could not. -/
def peekNat (x : Copy) (va n : Nat) : Nat :=
  match gotBytes x.io [] va n with
  | .ok bs => leNat bs
  | .error _ => 0

/-- The moves of a copy as they can be told at its start: those of BIN go to every slot of every bin (R435). -/
def plannedMoves (s : State) (x : Copy) : List ElemMove × List ElemMove :=
  match x.mode with
  | 2 =>
    let es := (List.range (x.bx 1)).flatMap fun b1 => gatherMoves x b1 (peekNat x (x.aux + 4 * b1) 4)
    (es, es)
  | 3 =>
    let src := (List.range (x.bx 1)).flatMap fun b1 => rowMoves x (some (x.og 1 + b1)) 0 0
    let dst := (List.range (x.bx 2 + 1)).flatMap fun n =>
      let cap := peekNat x (x.aux2 + 16 * n) 8 / 2 ^ 32 % 2 ^ 16
      let base := peekNat x (x.aux2 + 16 * n + 8) 8
      (List.range cap).flatMap fun sl =>
        (List.range (x.dst.extent 0)).map fun b =>
          { src := none, rank := none, base := base, dst := sl * x.dst.stride 1 + b * x.dst.stride 0,
            first := b % 8 = 0, past := 0 }
    (src, dst)
  | 4 =>
    let per := x.bx 0 / 4
    let es := (List.range (x.bx 1)).flatMap fun b1 =>
      if b1 < x.dst.extent 1 then
        (List.range per).flatMap fun g =>
          (expandGroup x b1 g 0 1).map (·.1) ++ (expandGroup x b1 g 2 3).map (·.1)
      else []
    (es, es)
  | _ => let es := boxMoves s x; (es, es)

/-- The headers of BIN are read before a byte moves (R435). -/
def headersFault (x : Copy) : Option FaultInfo :=
  if x.mode = 3 then
    match gotBytes x.io [] x.aux2 (16 * (x.bx 2 + 1)) with
    | .error f => some f
    | .ok _ => none
  else none

/-- The head of a siphon's queue with the records that it has read, or the fault that it has met. -/
def startedCmd (s : State) (c : Cmd) (x : Xfer) : Cmd :=
  match gotBytes x [] (imageNat c.record 0 8) 64, gotBytes x [] (imageNat c.record 8 8) 64 with
  | .error f, _ | _, .error f => { c with stop := some f }
  | .ok a, .ok b =>
    let d := { c with shapes := a ++ b }
    { d with stop := copyFault s (copyOf d x) }

/-- The groups of four that a copy into six-bit elements writes are read too: it writes a part of each at a time (R53). -/
def withGroups (x : Copy) : Xfer :=
  if (fmtOf x.dst.fmt).elim false Fmt.sixBit then
    { x.io with reads := x.io.reads ++ x.io.dests.map fun d => { d with place := 2 ^ 100 + d.place } }
  else x.io

/-- The head command of a siphon has started: its elements move from the next cycle on. -/
def beginCopy (siphon : Nat) (d : Cmd) : Act Unit := do
  modSiphon siphon fun y => { y with queue := d :: y.queue.drop 1, started := true, xfer := withGroups (copyOf d y.xfer) }
  let extra ← takeDelay
  later (1 + extra) 5 (21100 + siphon) (.copyCompletion siphon)

/-- A copy whose lists have been read takes its range locks at every core it touches once all its bytes are located, and starts, or
waits while a table lacks room (R224, R269, R435). -/
def lockCopy (siphon : Nat) (u : Engine) (d : Cmd) (copy : Copy) : Act Unit := do
  let s ← look id
  let (src, dst) := plannedMoves s copy
  if ← locate u d (sourceRanges copy src) (destRanges copy dst ++ headerRanges copy) then do
    let x ← look (xferAt · u)
    let t ← look id
    let es := lockEntries d.id (readPas x (sourceRanges copy src)) (writePas x (destRanges copy dst))
    onlyIf (locksFit t es) (do
      takeLocks es
      beginCopy siphon d)
  else pure ()

/-- The head command of a siphon on its way to its start: it reads its shape records, then its lists, and takes its locks (R256,
R259-R261, R269). -/
def startCopy (siphon : Nat) (c : Cmd) : Act Unit := do
  let u := Engine.siphon siphon c.id
  if ← fetch u c (recordRanges c) then do
    let s ← look id
    let d := startedCmd s c (xferAt s u)
    if d.stop.isSome then beginCopy siphon d
    else if ← fetch u c (listRanges (copyOf d (xferAt s u))) then do
      let x ← look (xferAt · u)
      match headersFault (copyOf d x) with
      | some f => beginCopy siphon { d with stop := some f }
      | none => lockCopy siphon u d (copyOf d x)
    else pure ()
  else pure ()

/-- SIPHON_START (R249, R256, R269): the head command of a siphon starts, or waits for what it has asked for. -/
def execSiphonStart (siphon : Nat) (s : State) : Host.Outcome State Fault Refusal :=
  .next (run (
    let x := siphonAt s siphon
    match x.queue with
    | [] => pure ()
    | c :: _ => onlyIf (!x.started) (startCopy siphon c)) s)

/-! ### COPY_COMPLETION (R256, R263) -/

/-- Every element of a copy, in its order: what it writes, and what comes of it. -/
def moveAll (s : State) (x : Copy) : Moved :=
  let steps := match fmtOf x.src.fmt, fmtOf x.dst.fmt with
    | some a, some b => (cvtSteps a b).getD []
    | _, _ => []
  match x.mode with
  | 2 => (List.range (x.bx 1)).foldl (gatherRow x steps) Moved.none
  | 3 => (List.range (x.bx 1)).foldl (binToken x steps) Moved.none
  | 4 => (List.range (x.bx 0 / 4 * x.bx 1)).foldl (expandOne x steps) Moved.none
  | _ => moveElems x steps (boxMoves s x) Moved.none

/-- The follow-on of a copy that has not failed (R256, R297): the staged MMA is started, or there is none and the command
records REASON 6. Its +1 is at the later of the two times; one at ⊤ is discarded and counted (R72). -/
def startFollowOn (c : Cmd) (slot : Nat) : Act (Option FaultInfo) := do
  let x ← look (coreAt · c.core)
  let st := mget Staged.reset x.mu.staged slot
  let stage := fun (y : Staged) => modCore c.core fun z => { z with mu := { z.mu with
    staged := mset Staged.reset z.mu.staged slot y } }
  match st.cmd with
  | some d =>
    if st.started then pure (some (engFault 3 6 c.l.toNat))
    else do
      let t := if d.time.toNat < c.time.toNat then c.time else d.time
      if isDiscarded d.sheaf t then do
        stage Staged.reset
        countAt c.core d.sheaf t 1
      else do
        stage ⟨some { d with time := t, col := x.colour }, true⟩
        onlyIf d.sheaf.isSome (colourSent c.core x.colour)
        countAt c.core d.sheaf t 1
        onThread d.core d.slot d.inc fun t => { t with engs := t.engs + 1 }
        later 1 5 (24400 + c.core) (.followOnStart c.core)
      pure none
  | none => pure (some (engFault 3 6 c.l.toNat))

/-- A siphon is done with its head: the next command starts, and handovers that waited for room go on (R248). -/
def siphonNext (siphon : Nat) (c : Cmd) : Act Unit := do
  modCore c.core fun y => { y with backlog := y.backlog - c.backlog }
  modSiphon siphon fun y => { y with queue := y.queue.drop 1, started := false, xfer := Xfer.none }
  let t ← look id
  onlyIf (!(siphonAt t siphon).queue.isEmpty) (later 1 5 (21000 + siphon) (.siphonStart siphon))
  each t.cores fun y => onlyIf (decide (dieOf y.1 = siphon / 16) && y.2.cmds.any fun e => isCopy e.2)
    (later 1 5 (22000 + y.1) (.commandHandover y.1))

/-- A copy whose last byte is written completes (R256): its locks are released, the follow-on starts, SHORT is written and INC is
added. -/
def completeCopy (siphon : Nat) (c : Cmd) (m : Moved) : Act Unit := do
  releaseLocks c.id
  let r := c.r.toNat
  let extra ← if m.stop.isNone && r.testBit 8 then startFollowOn c (r / 512 % 4) else pure none
  countReg c.core 0x0E80 m.sats
  finishCommand c (r % 64) (r / 65536 % 65536) m.flags (m.stop.or extra) (semShort m.short m.clip)
  siphonNext siphon c

/-- The BUMP of a header that a copy waits for (R260) is asked for. -/
def askBump (u : Engine) (c : Cmd) (pa : Nat) : Act Unit := do
  modXfer u fun x => { x with out := x.out + 1 }
  sendEng u c (engReq u c (.bump 1) pa 8)

/-- A copy whose store words have all been answered completes; one of them that could not be written after all is its fault (R263,
R322). -/
def copyEnds (siphon : Nat) (c : Cmd) (u : Engine) (m : Moved) : Act Unit := do
  let x ← look (xferAt · u)
  onlyIf (decide (x.out = 0)) (completeCopy siphon c { m with stop := m.stop.or (lateFault x) })

/-- The elements of a copy move once all that it reads has come; BIN first asks for its BUMPs, one after the other. -/
def moveCopy (siphon : Nat) (c : Cmd) (u : Engine) : Act Unit := do
  if ← askBytes u c then do
    let s ← look id
    let copy := copyOf c (xferAt s u)
    let m := moveAll s copy
    match m.ask with
    | some n => match destPas copy.io none (copy.aux2 + 16 * n) 8 with
      | .ok (pa :: _) => askBump u c pa
      | _ => pure ()
    | none => do
      sendResult u c m
      copyEnds siphon c u m
  else pure ()

/-- COPY_COMPLETION (R256, R263): the head of a siphon goes on with its copy, and completes it when every byte has been written at its
owner. A copy one of whose bytes an uncorrectable error has withheld completes with nothing moved (R69, R427). -/
def execCopyCompletion (siphon : Nat) (s : State) : Host.Outcome State Fault Refusal :=
  .next (run (
    let x := siphonAt s siphon
    match x.queue with
    | [] => pure ()
    | c :: _ =>
      let u := Engine.siphon siphon c.id
      onlyIf x.started
        (if x.xfer.withheld then completeCopy siphon c Moved.none
        else match c.stop, x.xfer.result with
          | some f, _ => completeCopy siphon c { Moved.none with stop := some f }
          | none, some m => copyEnds siphon c u m
          | none, none => moveCopy siphon c u)) s)

end Sys2Proof.Machine
end

