-- ==== Sys2Proof/Machine/Matrix.lean ====
section
/-! DEFINITION. The matrix unit: the instructions of 0x60 to 0x67, the matrix queue, and the execution of its commands
(R278-R304). -/

namespace Sys2Proof.Machine

open Sys2Proof

/-! ### Instructions (R291-R299) -/

/-- A matrix command that delivers nothing (R282, R291). -/
def matrixFire (p : Pred) (s : State) (kind : CmdKind) (ops : Fire → Option (Word × Word × Word)) :
    Host.Outcome State Fault Refusal :=
  fireAct s fun f =>
    match predicateHolds p f, ops f with
    | true, some (l, r, q) => withEntry f (completeAct f 511 511 .null .null noFlags [.command (mkCmd f kind l r q)])
    | _, _ => completeAct f 511 511 .null .null noFlags []

/-- `.l` and `.r` as data operands. -/
def ops2 (f : Fire) : Option (Word × Word × Word) :=
  (asScalar f.l).bind fun a => (asScalar f.r).map fun b => (a, b, 0)
/-- `.l`, `.r` and `.p` as data operands. -/
def ops3 (f : Fire) : Option (Word × Word × Word) :=
  (asScalar f.l).bind fun a => (asScalar f.r).bind fun b => (asScalar f.p).map fun q => (a, b, q)
/-- `.l` as a control word. -/
def opsControl (f : Fire) : Option (Word × Word × Word) := (asScalar f.l).map fun a => (a, a, 0)

/-- Entry n of a program word (R290). -/
def progEntry (w n : Nat) : Nat := w / 2 ^ (12 * n) % 4096
/-- The number of operations of a program word (R290). -/
def progCount (w : Nat) : Nat := w / 2 ^ 48 % 4 + 1

/-- Whether an operation entry is valid (R290). -/
def entryOk (e : Nat) : Bool :=
  let op := e / 512
  decide (e / 64 % 8 ≠ 7) && decide (e / 8 % 8 ≠ 7) && decide (e / 2 % 4 ≠ 3) && decide (e % 2 = 0) &&
    (decide (op ≠ 5 ∧ op ≠ 6) || decide (e / 8 % 8 = 0))

/-- Whether a program word is valid (R290, R292). -/
def programOk (w : Nat) : Bool :=
  decide (w / 2 ^ 50 = 0) &&
    (List.range 4).all fun n => if n < progCount w then entryOk (progEntry w n) else decide (progEntry w n = 0)

/-- MPROG (R292): a status of 1 releases the entry it has claimed. -/
def execMprog (p : Pred) (tb ta : Target) (s : State) : Host.Outcome State Fault Refusal :=
  fireAct s fun f =>
    match predicateHolds p f, ops2 f with
    | true, some (l, r, _) =>
      let ok := programOk l.toNat
      let tok := Token.scalar (boolWord !ok)
      withEntry f (completeAct f (t9 ta) (t9 tb) tok tok noFlags (if ok then [.command (mkCmd f .mprog l r 0)] else []))
    | _, _ => completeAct f (t9 ta) (t9 tb) .null .null noFlags []

/-- MLW (R293). -/
def execMlw (p : Pred) (s : State) : Host.Outcome State Fault Refusal := matrixFire p s (.mlw false) ops2
/-- MLW.S (R293). -/
def execMlwS (s : State) : Host.Outcome State Fault Refusal := matrixFire .always s (.mlw true) ops3
/-- MMA (R294). -/
def execMma (p : Pred) (s : State) : Host.Outcome State Fault Refusal := matrixFire p s (.mma false) ops2
/-- MMA.S (R294). -/
def execMmaS (s : State) : Host.Outcome State Fault Refusal := matrixFire .always s (.mma true) ops3
/-- MST (R295). -/
def execMst (p : Pred) (s : State) : Host.Outcome State Fault Refusal := matrixFire p s .mst ops2
/-- MZR (R296). -/
def execMzr (p : Pred) (s : State) : Host.Outcome State Fault Refusal := matrixFire p s .mzr ops2
/-- MRES (R299). -/
def execMres (p : Pred) (s : State) : Host.Outcome State Fault Refusal := matrixFire p s (.mres false) opsControl
/-- MRES.DROP (R299). -/
def execMresDrop (p : Pred) (s : State) : Host.Outcome State Fault Refusal := matrixFire p s (.mres true) opsControl
/-- MMOV (R298). -/
def execMmov (p : Pred) (mmode : MmovMode) (s : State) : Host.Outcome State Fault Refusal :=
  matrixFire p s (.mmov mmode) ops2

/-- Whether a staged slot is claimed by a block that has not committed (R297). -/
def stageClaimed (s : State) (c n : Nat) : Bool :=
  (coreEffs s c).any fun e => match e.2 with
    | .stage m _ => decide (m = n)
    | _ => false

/-- MSTG (R297). -/
def stageFire (p : Pred) (n : Nat) (tb ta : Target) (s : State) (scaled : Bool)
    (ops : Fire → Option (Word × Word × Word)) : Host.Outcome State Fault Refusal :=
  fireAct s fun f =>
    match predicateHolds p f, ops f with
    | true, some (l, r, q) =>
      let free := (mget Staged.reset (coreAt s f.c).mu.staged n).cmd.isNone && !stageClaimed s f.c n
      let tok := Token.scalar (boolWord !free)
      completeAct f (t9 ta) (t9 tb) tok tok noFlags (if free then [.stage n (mkCmd f (.mma scaled) l r q)] else [])
    | _, _ => completeAct f (t9 ta) (t9 tb) .null .null noFlags []

/-- MSTG (R297). -/
def execMstg (p : Pred) (stg : BitVec 2) (tb ta : Target) (s : State) : Host.Outcome State Fault Refusal :=
  stageFire p stg.toNat tb ta s false ops2
/-- MSTG.S (R297). -/
def execMstgS (stg : BitVec 2) (tb ta : Target) (s : State) : Host.Outcome State Fault Refusal :=
  stageFire .always stg.toNat tb ta s true ops3

/-! ### The matrix queue (R282, R297) -/

/-- A command enters the matrix queue; the unit carries it out when it is the head (R283). -/
def enterQueue (core : Nat) (c : Cmd) : Act Unit := do
  let s ← look id
  modCore core fun x => { x with mu := { x.mu with queue := x.mu.queue ++ [{ c with mode := deviceMode s }] } }
  onlyIf (coreAt s core).mu.queue.isEmpty (pokeMatrix core)

/-- MATRIX_HANDOVER (R282): the oldest matrix command of the buffer enters the queue while it has room. -/
def execMatrixHandover (core : Nat) (s : State) : Host.Outcome State Fault Refusal :=
  .next (run (do
    match (coreAt s core).cmds.find? fun e => !isCopy e.2 with
    | none => pure ()
    | some e =>
      onlyIf (decide ((coreAt s core).mu.queue.length < 16)) (do
        modCore core fun x => { x with cmds := x.cmds.filter fun y => decide (y.1 ≠ e.1) }
        enterQueue core e.2
        later 0 5 (26800 + core) (.matrixHandover core))) s)

/-- FOLLOW_ON_START (R297): a staged MMA that a copy has started enters the queue while it has room, and its slot
empties. DESIGN CHOICE (log entry 152): of several, that of the lowest staged slot is the first. -/
def execFollowOnStart (core : Nat) (s : State) : Host.Outcome State Fault Refusal :=
  .next (run (do
    let x := coreAt s core
    match (List.range 4).find? fun n => (mget Staged.reset x.mu.staged n).started with
    | none => pure ()
    | some n =>
      match (mget Staged.reset x.mu.staged n).cmd with
      | none => pure ()
      | some c =>
        onlyIf (decide (x.mu.queue.length < 16)) (do
          modCore core fun x => { x with mu := { x.mu with staged := mset Staged.reset x.mu.staged n Staged.reset } }
          enterQueue core c
          later 0 5 (24400 + core) (.followOnStart core))) s)

/-! ### The control word (R286) -/

def ctlStride (r : Nat) : Nat := r / 2 ^ 48 % 2 ^ 16
def ctlFmt (r : Nat) : Nat := r / 2 ^ 44 % 16
def ctlCols (r : Nat) : Nat := r / 2 ^ 39 % 32 + 1
def ctlRow (r : Nat) : Nat := r / 2 ^ 24 % 256
def ctlInc (r : Nat) : Nat := r / 2 ^ 16 % 256
def ctlRows (r : Nat) : Nat := r / 2 ^ 8 % 256 + 1
def ctlSem (r : Nat) : Nat := r % 64

/-- The bits of the control word that a command uses (R286, R293-R299). -/
def ctlUsed : CmdKind → Nat
  | .mlw _ => 0xFFFFF00000FF003F
  | .mma _ => 0xFFFFF000FFFFFF3F
  | .mst => 0xFFFFFF80FFFFFF3F
  | .mzr => 0x00000000FFFFFF3F
  | .mmov .aa => 0x00000000FFFFFF3F
  | .mmov .am | .mmov .ma => 0xFFFF0000FFFFFF3F
  | _ => 0x0000000000FF003F

/-- A command that uses AROW and MM1. -/
def usesRows : CmdKind → Bool
  | .mma _ | .mst | .mzr | .mmov .aa | .mmov .am | .mmov .ma => true
  | _ => false

/-- A command whose `.l` is a memory address. -/
def usesMemory : CmdKind → Bool
  | .mlw _ | .mma _ | .mst | .mmov .am | .mmov .ma | .mmov .wm | .mmov .mw => true
  | _ => false

/-- Whether a command allows a format (R293-R295, R421). -/
def fmtAllowed (c : Cmd) : Bool :=
  let f := ctlFmt c.r.toNat
  match c.kind with
  | .mlw _ | .mma _ => if c.mode = 0 then decide (f = 1) else decide (1 ≤ f ∧ f ≤ 7)
  | .mst => if c.mode = 0 then decide (f ≤ 1) else decide (f ≤ 4 ∨ f = 7 ∨ f = 8 ∨ f = 9)
  | _ => true

/-- Whether the form and the format disagree on scales (R302, REASON 7). -/
def scalesDiffer (c : Cmd) : Bool :=
  let f := ctlFmt c.r.toNat
  match c.kind with
  | .mlw sc | .mma sc => sc != decide (f = 5 ∨ f = 6)
  | _ => false

/-- Whether enough physical rows are enabled (R279). -/
def unitEnabled (s : State) (core : Nat) : Bool := decide (32 ≤ popCount (creg s core 0x0C40).toNat 34)

/-- The resume record of a slot (R303). -/
def resumeOf (s : State) (core slot : Nat) : ResumeRec := mget ResumeRec.reset (coreAt s core).mu.resume slot

/-- The command faults of R302 that a command meets, in ascending REASON. -/
def matrixReasons (s : State) (c : Cmd) : List (Nat × Bool) :=
  let r := c.r.toNat
  let scaled := match c.kind with
    | .mlw sc | .mma sc => sc
    | _ => false
  [(0, decide (r &&& (2 ^ 64 - 1 - ctlUsed c.kind) ≠ 0)), (1, !fmtAllowed c),
    (2, usesRows c.kind && (decide (256 < ctlRow r + ctlRows r) ||
      (decide (c.kind = .mmov .aa) && decide (256 < c.l.toNat + ctlRows r)))),
    (3, (usesMemory c.kind && decide (c.l.toNat % 8 ≠ 0)) || (scaled && decide (c.p.toNat % 8 ≠ 0))),
    (4, !unitEnabled s c.core),
    (6, decide (c.kind = .mres false) && !(resumeOf s c.core c.slot).valid), (7, scalesDiffer c)]

/-- The fault that a command meets before it moves anything: the skip of R301 first, then the lowest REASON of R302. -/
def matrixFault (s : State) (c : Cmd) : Option FaultInfo :=
  let skips := match c.kind with
    | .mma _ | .mst | .mzr | .mmov _ => true
    | _ => false
  if skips && (resumeOf s c.core c.slot).valid then some (engFault 7 0 0)
  else ((matrixReasons s c).find? fun x => x.2).map fun x => engFault 4 x.1 c.l.toNat

/-! ### Rows of streams (R287, R288) -/

/-- The bytes of 32 elements of a format. -/
def rowBytes (fmt : Nat) : Nat :=
  match fmtOf fmt with
  | some f => if f.sixBit then 24 else 32 * f.bytes
  | none => 0

/-- Raw element k of a row image (R53). -/
def rowElem (fmt : Nat) (bs : List Byte) (k : Nat) : Nat :=
  match fmtOf fmt with
  | some f => if f.sixBit then imageNat bs (3 * (k / 4)) 3 / 2 ^ (6 * (k % 4)) % 64 else imageNat bs (k * f.bytes) f.bytes
  | none => 0

/-- Element k of a row decoded to W24, with the scale container that covers it, if any (R58). -/
def rowDecode (fmt : Nat) (bs : List Byte) (scale : Option Nat) (k : Nat) : Nat × NumFlags :=
  match fmtOf fmt with
  | some f => decodeW24 (f.floatValue (rowElem fmt bs k)) (scale.map scaleS10)
  | none => (0, noFlags)

/-- Several decodes joined. -/
def joinFlags (es : List (Nat × NumFlags)) : List Nat × NumFlags :=
  (es.map Prod.fst, es.foldl (fun f e => f.or e.2) noFlags)

/-- Row i of an activation stream decoded (R287, R288). -/
def streamRow (x : Xfer) (scaled : Bool) (a ctl p i : Nat) : Except FaultInfo (List Nat × NumFlags) :=
  match gotBytes x [] (a + 8 * ctlStride ctl * i) (rowBytes (ctlFmt ctl)) with
  | .error f => .error f
  | .ok bs =>
    if scaled then
      match gotBytes x [] (p + 8 * i) 8 with
      | .error f => .error f
      | .ok sc => .ok (joinFlags ((List.range 32).map fun k =>
          rowDecode (ctlFmt ctl) bs (some (imageNat sc (2 * (k / 8)) 2)) k))
    else .ok (joinFlags ((List.range 32).map fun k => rowDecode (ctlFmt ctl) bs none k))

/-- Row k of a weight tile decoded (R287, R288). -/
def weightRow (x : Xfer) (c : Cmd) (scaled : Bool) (k : Nat) : Except FaultInfo (List Nat × NumFlags) :=
  let ctl := c.r.toNat
  match gotBytes x [] (c.l.toNat + 8 * ctlStride ctl * k) (rowBytes (ctlFmt ctl)) with
  | .error f => .error f
  | .ok bs =>
    if scaled then
      match gotBytes x [] (c.p.toNat + 64 * (k / 8)) 64 with
      | .error f => .error f
      | .ok sc => .ok (joinFlags ((List.range 32).map fun j =>
          rowDecode (ctlFmt ctl) bs (some (imageNat sc (2 * j) 2)) j))
    else .ok (joinFlags ((List.range 32).map fun j => rowDecode (ctlFmt ctl) bs none j))

/-! ### The cell recurrence (R289) -/

/-- The values of an element's pass as FP32 bits: s, t0, t1. -/
structure CellRegs where
  s : Nat
  t0 : Nat
  t1 : Nat

/-- The result of an operation on FP32 bits (R289). -/
def cellOp (op x y k0 k1 : Nat) : Nat × NumFlags :=
  match op with
  | 0 => fMul fp32 x y
  | 1 => fAdd fp32 x y
  | 2 => fSub fp32 x y
  | 3 => fMax fp32 x y
  | 4 => fMin fp32 x y
  | 5 => fNeg fp32 x
  | 6 => fAbs fp32 x
  | _ => (if ltV (fp32.value y) (fp32.value x) then k1 else k0,
      flagInv ((fp32.value x).isSig || (fp32.value y).isSig))

/-- A source of an operation; a W24 value is the FP32 value with eight zero bits below it. -/
def cellSource (r : CellRegs) (a w k0 k1 : Nat) : Nat → Nat
  | 0 => r.s
  | 1 => a * 256
  | 2 => w * 256
  | 3 => r.t0
  | 4 => r.t1
  | 5 => k0
  | _ => k1

/-- The operations of a program from entry n on (R289, R290). -/
def runOps (prog k0 k1 a w : Nat) : Nat → Nat → CellRegs × NumFlags → CellRegs × NumFlags
  | 0, _, x => x
  | fuel + 1, n, (r, f) =>
    let e := progEntry prog n
    let (v, g) := cellOp (e / 512) (cellSource r a w k0 k1 (e / 64 % 8)) (cellSource r a w k0 k1 (e / 8 % 8)) k0 k1
    let r := match e / 2 % 4 with
      | 0 => { r with t0 := v }
      | 1 => { r with t1 := v }
      | _ => { r with s := v }
    runOps prog k0 k1 a w fuel (n + 1) (r, f.or g)

/-- A pass of one accumulator element over the 32 rows of the array (R289): activations and the weights of its column. -/
def cellPass (prog k0 k1 : Nat) : List (Nat × Nat) → CellRegs × NumFlags → CellRegs × NumFlags
  | [], x => x
  | (a, w) :: rest, x => cellPass prog k0 k1 rest (runOps prog k0 k1 a w (progCount prog) 0 x)

/-- Accumulator row n. -/
def accRow (x : Core) (n : Nat) : Vec := mget 0 x.mu.acc n

/-- Accumulator row n written. -/
def setAcc (core n : Nat) (v : Vec) : Act Unit :=
  modCore core fun x => { x with mu := { x.mu with acc := mset 0 x.mu.acc n v } }

/-- The new elements of an accumulator row after a row of activations. -/
def newRow (x : Core) (row : Nat) (as_ : List Nat) : List (Nat × NumFlags) :=
  (List.range 32).map fun j =>
    let ws := (List.range 32).map fun k => mget 0 x.mu.latch (32 * k + j)
    let r := cellPass x.mu.prog.toNat x.mu.k0 x.mu.k1 (as_.zip ws) (⟨laneOf (accRow x row) j, 0, 0⟩, noFlags)
    (r.1.s, r.2)

/-- 32 FP32 elements as a row. -/
def packRow (es : List Nat) : Vec :=
  BitVec.ofNat 1024 (es.foldr (fun e acc => acc * 2 ^ 32 + e % 2 ^ 32) 0)

/-! ### Commands -/

/-- The unit goes on to the next command, and handovers that waited may go on (R282, R283). -/
def matrixGoOn (c : Cmd) : Act Unit := do
  pokeMatrix c.core
  later 1 5 (24400 + c.core) (.followOnStart c.core)
  later 1 5 (26800 + c.core) (.matrixHandover c.core)

/-- The head command leaves the queue. -/
def matrixLeave (c : Cmd) : Act Unit :=
  modCore c.core fun x => { x with mu := { x.mu with queue := x.mu.queue.drop 1, busy := false, xfer := Xfer.none } }

/-- The head command completes (R284): its locks are released, and the unit goes on. -/
def matrixEnd (c : Cmd) (f : NumFlags) (fault : Option FaultInfo) : Act Unit := do
  matrixLeave c
  releaseLocks c.id
  if c.kind = .mprog then do
    mergeEngine c noFlags
    countedEnd c
  else finishCommand c (ctlSem c.r.toNat) (ctlInc c.r.toNat) f fault id
  matrixGoOn c

/-- The bytes that MST writes in a row (R287, R295). -/
def storeRowBytes (ctl : Nat) : Nat :=
  match fmtOf (ctlFmt ctl) with
  | some f => if f.sixBit then (ctlCols ctl + 3) / 4 * 3 else ctlCols ctl * f.bytes
  | none => 0

/-- The virtual ranges of rows of `len` bytes, from row i0 to m − 1. -/
def rowRanges (a ctl len i0 m : Nat) : List (Nat × Nat) := ((List.range m).drop i0).map fun i => (a + 8 * ctlStride ctl * i, len)

/-- The ranges that a command reads (R285, R287, R293-R299). -/
def matrixReads (s : State) (c : Cmd) : List (Nat × Nat) :=
  let stream := fun (scaled : Bool) (a ctl p i0 : Nat) =>
    rowRanges a ctl (rowBytes (ctlFmt ctl)) i0 (ctlRows ctl) ++
      (if scaled then ((List.range (ctlRows ctl)).drop i0).map (fun i => (p + 8 * i, 8)) else [])
  let ctl := c.r.toNat
  let a := c.l.toNat
  match c.kind with
  | .mlw sc => rowRanges a ctl (rowBytes (ctlFmt ctl)) 0 32 ++ (if sc then [(c.p.toNat, 256)] else [])
  | .mma sc => stream sc a ctl c.p.toNat 0
  | .mres false =>
    let r := resumeOf s c.core c.slot
    stream r.scaled r.addr.toNat r.ctl.toNat r.scale.toNat r.prog
  | .mmov .ma => rowRanges a ctl 128 0 (ctlRows ctl)
  | .mmov .mw => [(a, 4104)]
  | _ => []

/-- The ranges that a command writes (R285, R295, R298). -/
def matrixWrites (c : Cmd) : List (Option Nat × Nat × Nat) :=
  let ctl := c.r.toNat
  let a := c.l.toNat
  let rs : List (Nat × Nat) := match c.kind with
    | .mst => rowRanges a ctl (storeRowBytes ctl) 0 (ctlRows ctl)
    | .mmov .am => rowRanges a ctl 128 0 (ctlRows ctl)
    | .mmov .wm => [(a, 4104)]
    | _ => []
  rs.map fun r => (none, r.1, r.2)

/-- Whether entries of other commands stand in the way of what a command reads or writes (R285). -/
def matrixBlocked (s : State) (c : Cmd) (x : Xfer) : Bool :=
  locksAhead s c (readPas x (matrixReads s c)) (writePas x (matrixWrites c))

/-- The head command starts (R285): with all its bytes located it takes its entries, or waits for the entries of other commands that
it overlaps and for room. -/
def matrixStart (u : Engine) (c : Cmd) : Act Unit := do
  let s ← look id
  if ← locate u c (matrixReads s c) (matrixWrites c) then do
    let x ← look (xferAt · u)
    let es := lockEntries c.id (readPas x (matrixReads s c)) (writePas x (matrixWrites c))
    onlyIf (!matrixBlocked s c x && locksFit s es) (do
      takeLocks es
      modCore c.core fun x => { x with mu := { x.mu with busy := true } }
      pokeMatrix c.core)
  else pure ()

/-- A command whose store words have all been answered completes (R284); one of them that could not be written after all is its fault
(R300, R322). -/
def matrixEnds (u : Engine) (c : Cmd) (m : Moved) : Act Unit := do
  let x ← look (xferAt · u)
  onlyIf (decide (x.out = 0)) (matrixEnd c m.flags (m.stop.or (lateFault x)))

/-- A command that has started does its work once all that it reads has come and no entry of another command stands in its way. -/
def matrixWork (u : Engine) (c : Cmd) (work : Cmd → Xfer → Act Moved) : Act Unit := do
  let s ← look id
  if matrixBlocked s c (xferAt s u) then pure ()
  else if ← askBytes u c then do
    let x ← look (xferAt · u)
    let m ← work c x
    sendResult u c m
    matrixEnds u c m
  else pure ()

/-- An execution event of the unit (R283, R285): the head command of that kind starts, does its work, or completes. A command one of
whose bytes an uncorrectable error has withheld completes with nothing moved (R69, R427). -/
def matrixStep (core : Nat) (kindOk : CmdKind → Bool) (work : Cmd → Xfer → Act Moved) : Act Unit := do
  let s ← look id
  let x := (coreAt s core).mu
  match x.queue with
  | [] => pure ()
  | c :: _ =>
    let u := Engine.matrix core c.id
    onlyIf (kindOk c.kind)
      (if x.xfer.withheld then matrixEnd c noFlags none
      else if x.busy then
        match x.xfer.result with
        | some m => matrixEnds u c m
        | none => matrixWork u c work
      else
        match matrixFault s c with
        | some f => matrixEnd c noFlags (some f)
        | none => matrixStart u c)

/-- What a command that writes nothing comes to: its flags, or the fault that stopped it. -/
def workDone (f : NumFlags) (stop : Option FaultInfo) : Moved := { Moved.none with flags := f, stop := stop }

/-- MPROG_INSTALL (R292): the program and its constants. -/
def execMprogInstall (core : Nat) (s : State) : Host.Outcome State Fault Refusal :=
  .next (run (do
    match (coreAt s core).mu.queue with
    | [] => pure ()
    | c :: _ =>
      onlyIf (decide (c.kind = .mprog)) (do
        modCore core fun x => { x with mu := { x.mu with
          prog := c.l, k0 := c.r.toNat % 2 ^ 32, k1 := c.r.toNat / 2 ^ 32 } }
        matrixEnd c noFlags none)) s)

/-- The weight rows of a tile, or the fault of the first that fails. -/
def weightRows (x : Xfer) (c : Cmd) (scaled : Bool) : List Nat → Except FaultInfo (List Nat × NumFlags)
  | [] => .ok ([], noFlags)
  | k :: ks =>
    match weightRow x c scaled k with
    | .error f => .error f
    | .ok (es, f) =>
      match weightRows x c scaled ks with
      | .error f => .error f
      | .ok (more, g) => .ok (es ++ more, f.or g)

/-- The latch with 1,024 values in the order 32k + j. -/
def latchOf (ws : List Nat) : Map Nat :=
  ((List.range ws.length).zip ws).filter fun e => decide (e.2 ≠ 0)

/-- MLW_EXECUTION (R293): the whole latch and WFMT in one step. A command that a row stops leaves both as they were and merges no
flags (R69). DESIGN CHOICE (log entry 141): those of the rows that it has decoded before are dropped too. -/
def execMlwExecution (core : Nat) (s : State) : Host.Outcome State Fault Refusal :=
  .next (run (matrixStep core
    (fun k => match k with
      | .mlw _ => true
      | _ => false)
    (fun c x => do
      match weightRows x c (c.kind = .mlw true) (List.range 32) with
      | .error f => pure (workDone noFlags (some f))
      | .ok (ws, f) => do
        modCore core fun x => { x with mu := { x.mu with latch := latchOf ws, wfmt := ctlFmt c.r.toNat } }
        pure (workDone f none))) s)

/-- The stream that an MMA or an MRES runs (R294, R299, R303). -/
structure Stream where
  addr : Word
  ctl : Word
  scale : Word
  scaled : Bool

/-- The resume record of a stopped MMA (R303). -/
def recordStop (c : Cmd) (st : Stream) (prog : Nat) : Act Unit :=
  modCore c.core fun x => { x with mu := { x.mu with
    resume := mset ResumeRec.reset x.mu.resume c.slot ⟨true, st.scaled, prog, st.addr, st.ctl, st.scale⟩ } }

/-- Whether an element became NaN in a new row where the old one was not (R294). -/
def madeNan (old : Vec) (es : List Nat) : Bool :=
  ((List.range 32).zip es).any fun e => (fp32.value e.2).isNan && !(fp32.value (laneOf old e.1)).isNan

/-- The rows of a stream run through the array, in order (R294): each is performed wholly or not at all. -/
def runRows (c : Cmd) (st : Stream) (io : Xfer) : List Nat → NumFlags → Act Moved
  | [], f => pure (workDone f none)
  | i :: rest, f => do
    let s ← look id
    match streamRow io st.scaled st.addr.toNat st.ctl.toNat st.scale.toNat i with
    | .error e => do
      recordStop c st i
      pure (workDone f (some e))
    | .ok (as_, g) => do
      let row := ctlRow st.ctl.toNat + i
      let x := coreAt s c.core
      let es := newRow x row as_
      let f := es.foldl (fun f e => f.or e.2) (f.or g)
      setAcc c.core row (packRow (es.map Prod.fst))
      if c.nanTrap && madeNan (accRow x row) (es.map Prod.fst) then do
        recordStop c st (i + 1)
        countReg c.core 0x0E98 1
        pure (workDone f (some (engFault 6 0 (st.addr.toNat + 8 * ctlStride st.ctl.toNat * i))))
      else runRows c st io rest f

/-- MMA_EXECUTION (R294). -/
def execMmaExecution (core : Nat) (s : State) : Host.Outcome State Fault Refusal :=
  .next (run (matrixStep core
    (fun k => match k with
      | .mma _ => true
      | _ => false)
    (fun c x => runRows c ⟨c.l, c.r, c.p, c.kind = .mma true⟩ x (List.range (ctlRows c.r.toNat)) noFlags)) s)

/-- MRES_EXECUTION (R299): the record is cleared and its MMA run again from PROG, or only cleared under `.DROP`. -/
def execMresExecution (core : Nat) (s : State) : Host.Outcome State Fault Refusal :=
  .next (run (matrixStep core
    (fun k => match k with
      | .mres _ => true
      | _ => false)
    (fun c x => do
      let s ← look id
      let r := resumeOf s core c.slot
      modCore core fun x => { x with mu := { x.mu with
        resume := mset ResumeRec.reset x.mu.resume c.slot ResumeRec.reset } }
      if c.kind = .mres true then pure (workDone noFlags none)
      else runRows c ⟨r.addr, r.ctl, r.scale, r.scaled⟩ x ((List.range (ctlRows r.ctl.toNat)).drop r.prog) noFlags)) s)

/-- The narrowed elements of a row: bits, flags, saturations (R295). -/
def narrowRow (x : Core) (c : Cmd) (row : Nat) : List (Nat × NumFlags × Nat) :=
  (List.range (ctlCols c.r.toNat)).map fun j =>
    match fmtOf (ctlFmt c.r.toNat) with
    | some .fp32 => (laneOf (accRow x row) j, noFlags, 0)
    | some f => convertElem .fp32 f c.round (laneOf (accRow x row) j)
    | none => (0, noFlags, 0)

/-- The bytes of narrowed elements in a row (R53, R287). -/
def rowImage (fmt : Nat) (es : List Nat) : List Byte :=
  match fmtOf fmt with
  | some f =>
    if f.sixBit then
      leBytes (((List.range es.length).zip es).foldl (fun n e => n + e.2 * 2 ^ (6 * e.1)) 0) ((es.length + 3) / 4 * 3)
    else es.flatMap fun e => leBytes e f.bytes
  | none => []

/-- The cell whose open buffer holds a byte: its core and index (R295). -/
def openCellAt (s : State) (pa : Nat) : Option (Nat × Nat) :=
  ((allCells s).find? fun x => x.2.2.valid && x.2.2.wopen &&
    (let lo := bufferPa s x.1 x.2.2 (!x.2.2.cur)
     decide (lo ≤ pa) && decide (pa < lo + tileSize s x.1 x.2.2))).map fun x => (x.1, x.2.1)

/-- Saturations of an element counted in its cell, or in the core's counter (R44, R295). -/
def countSaturations (c : Cmd) (pa n : Nat) : Act Unit := do
  let o ← look (openCellAt · pa)
  match o with
  | some (h, i) => modCell h i fun e =>
      { e with satcnt := if e.satcnt.toNat + n < 2 ^ 32 then e.satcnt + BitVec.ofNat 32 n else 0xFFFFFFFF }
  | none => countReg c.core 0x0E80 n

/-- The offset in a row of the bytes that hold element j. -/
def elemAt (fmt j : Nat) : Nat := elemOffset fmt j

/-- Bytes written behind what a command writes already. -/
def Moved.write (m : Moved) (bs : List (Nat × Byte)) : Moved := { m with writes := bs.reverse ++ m.writes }

/-- MST row by row (R295): a row whose store fails is not written and counts nothing. -/
def storeRows (c : Cmd) (io : Xfer) : List Nat → Moved → Act Moved
  | [], m => pure m
  | i :: rest, m => do
    let s ← look id
    let ctl := c.r.toNat
    match destPas io none (c.l.toNat + 8 * ctlStride ctl * i) (storeRowBytes ctl) with
    | .error e => pure { m with stop := some e }
    | .ok ps => do
      let es := narrowRow (coreAt s c.core) c (ctlRow ctl + i)
      each ((List.range es.length).zip es) fun e =>
        onlyIf (decide (e.2.2.2 ≠ 0)) (countSaturations c (ps.getD (elemAt (ctlFmt ctl) e.1) 0) e.2.2.2)
      storeRows c io rest
        { m.write (ps.zip (rowImage (ctlFmt ctl) (es.map (·.1)))) with flags := es.foldl (fun f e => f.or e.2.1) m.flags }

/-- MST_EXECUTION (R295). -/
def execMstExecution (core : Nat) (s : State) : Host.Outcome State Fault Refusal :=
  .next (run (matrixStep core (fun k => decide (k = .mst))
    (fun c x => storeRows c x (List.range (ctlRows c.r.toNat)) Moved.none)) s)

/-- MZR_EXECUTION (R296). -/
def execMzrExecution (core : Nat) (s : State) : Host.Outcome State Fault Refusal :=
  .next (run (matrixStep core (fun k => decide (k = .mzr))
    (fun c _ => do
      each (List.range (ctlRows c.r.toNat)) fun i =>
        setAcc core (ctlRow c.r.toNat + i) (splat32 (c.l.toNat % 2 ^ 32))
      pure Moved.none)) s)

/-- Pieces written in order up to the first that cannot be. -/
def writePieces (io : Xfer) : List (Nat × List Byte) → Moved → Moved
  | [], m => m
  | (va, bs) :: rest, m =>
    match destPas io none va bs.length with
    | .error e => { m with stop := some e }
    | .ok ps => writePieces io rest (m.write (ps.zip bs))

/-- Accumulator rows loaded in order up to the first that cannot be (R298). -/
def loadRows (c : Cmd) (io : Xfer) : List Nat → Act Moved
  | [] => pure Moved.none
  | i :: rest => do
    let ctl := c.r.toNat
    match gotBytes io [] (c.l.toNat + 8 * ctlStride ctl * i) 128 with
    | .error e => pure (workDone noFlags (some e))
    | .ok bs => do
      setAcc c.core (ctlRow ctl + i) (BitVec.ofNat 1024 (leNat bs))
      loadRows c io rest

/-- Whether a weight image is valid (R298). -/
def imageOk (bs : List Byte) : Bool :=
  let w := imageNat bs 4096 8
  ((List.range 1024).all fun n => decide (imageNat bs (4 * n + 3) 1 = 0)) && decide (1 ≤ w ∧ w ≤ 7)

/-- The work of MMOV (R298). -/
def moveImage (c : Cmd) (mode : MmovMode) (io : Xfer) : Act Moved := do
  let s ← look id
  let x := coreAt s c.core
  let ctl := c.r.toNat
  let m := ctlRows ctl
  let row := ctlRow ctl
  match mode with
  | .aa => do
    each (List.range m) fun i => setAcc c.core (c.l.toNat + i) (accRow x (row + i))
    pure Moved.none
  | .am => pure (writePieces io ((List.range m).map fun i =>
      (c.l.toNat + 8 * ctlStride ctl * i, leBytes (accRow x (row + i)).toNat 128)) Moved.none)
  | .ma => loadRows c io (List.range m)
  | .wm => pure (writePieces io (((List.range 1024).map fun n => (c.l.toNat + 4 * n, leBytes (mget 0 x.mu.latch n) 4)) ++
      [(c.l.toNat + 4096, leBytes x.mu.wfmt 8)]) Moved.none)
  | .mw =>
    match gotBytes io [] c.l.toNat 4104 with
    | .error e => pure (workDone noFlags (some e))
    | .ok bs =>
      if imageOk bs then do
        modCore c.core fun x => { x with mu := { x.mu with
          latch := latchOf ((List.range 1024).map fun n => imageNat bs (4 * n) 3), wfmt := imageNat bs 4096 8 } }
        pure Moved.none
      else pure (workDone noFlags (some (engFault 4 5 c.l.toNat)))

/-- MMOV_EXECUTION (R298). -/
def execMmovExecution (core : Nat) (s : State) : Host.Outcome State Fault Refusal :=
  .next (run (matrixStep core
    (fun k => match k with
      | .mmov _ => true
      | _ => false)
    (fun c x => match c.kind with
      | .mmov m => moveImage c m x
      | _ => pure Moved.none)) s)

end Sys2Proof.Machine
end

