-- ==== Sys2Proof/Machine/Cells.lean ====
section
/-! DEFINITION. Cells: their state and versions, the cell instructions and their decisions at the home core, marks and the
recalculation queue, bindings (R20-R46, R343-R357). -/

namespace Sys2Proof.Machine

open Sys2Proof

/-! ### State and versions (R28, R29) -/

/-- A cell ID from its home core and directory index (R21). -/
def cellId (h i : Nat) : Nat := h / 576 * 65536 + h % 576 * 64 + i

/-- Whether a cell holds a version (R28). -/
def holdsVersion (e : CellEntry) : Bool := decide (e.timeX ≠ timeTop) || decide (e.timeY ≠ timeTop)

/-- STATE (R28). -/
def cellState (s : State) (h : Nat) (e : CellEntry) : Nat :=
  if isFenced s h then 4 else if e.wopen then 3 else if e.stale ≠ timeTop then 2
  else if !holdsVersion e then 0 else 1

/-- The committed versions of a cell: buffer and time (R29). -/
def versions (e : CellEntry) : List (Bool × Word) :=
  (if bufTime e e.cur ≠ timeTop then [(e.cur, bufTime e e.cur)] else []) ++
    (if !e.wopen && decide (bufTime e (!e.cur) ≠ timeTop) then [(!e.cur, bufTime e (!e.cur))] else [])

/-- The newest committed version at a time ≤ u (R36). -/
def newestAt (e : CellEntry) (u : Word) : Option (Bool × Word) :=
  ((versions e).filter fun v => decide (v.2.toNat ≤ u.toNat)).foldl (fun m v =>
    match m with
    | none => some v
    | some w => if w.2.toNat < v.2.toNat then some v else some w) none

/-- Whether a committed version waits to flip (R29). -/
def waitsToFlip (e : CellEntry) : Bool := !e.wopen && decide (bufTime e (!e.cur) ≠ timeTop)

/-- The cell virtual address of a buffer (R347). -/
def cellVa (s : State) (h : Nat) (e : CellEntry) (y : Bool) : Word :=
  word ((mreg s 0x0810).toNat % 16 * 2 ^ 52 + bufferPa s h e y)

/-- Word n of a cell's descriptor, STATE computed (R24, R28, R357). -/
def descWord (s : State) (h : Nat) (e : CellEntry) (n : Nat) : Word :=
  let bit := fun (b : Bool) (k : Nat) => if b then 2 ^ k else 0
  match n with
  | 0 => word (e.satcnt.toNat + e.sheaf.toNat * 2 ^ 40 + e.fmt.toNat * 2 ^ 52 + bit e.wopen 56 + bit e.bva 57 +
      bit e.bvb 58 + bit e.home 59 + bit e.cur 60 + cellState s h e * 2 ^ 61)
  | 1 => word (e.addrX.toNat + e.pinX.toNat * 2 ^ 32 + e.pinY.toNat * 2 ^ 48)
  | 2 => e.timeX
  | 3 => e.timeY
  | 4 => e.stale
  | 5 => word (e.deps.toNat + e.shape.toNat * 2 ^ 18 + e.brecA.toNat * 2 ^ 33 + e.brecB.toNat * 2 ^ 48)
  | 6 => e.fromA
  | _ => e.fromB

/-! ### Bindings, records and lists (R26, R27, R42) -/

/-- The valid bindings of a cell: entry B or A, from-time, record pointer. -/
def bindings (e : CellEntry) : List (Bool × Word × Nat) :=
  (if e.bva then [(false, e.fromA, e.brecA.toNat)] else []) ++ (if e.bvb then [(true, e.fromB, e.brecB.toNat)] else [])

/-- BindingAt (R42): the valid entry with the greatest from-time ≤ s. -/
def bindingAt (e : CellEntry) (s : Word) : Option (Bool × Word × Nat) :=
  ((bindings e).filter fun b => decide (b.2.1.toNat ≤ s.toNat)).foldl (fun m b =>
    match m with
    | none => some b
    | some w => if w.2.1.toNat < b.2.1.toNat then some b else some w) none

/-- The record pointer of the formula that holds at s, if one does (R42). -/
def formulaAt (e : CellEntry) (s : Word) : Option Nat :=
  match bindingAt e s with
  | some b => if b.2.2 = 0 then none else some b.2.2
  | none => none

/-- A formula record: entry block, NPREC, and its precedents as (cell ID, summary) (R26). -/
structure FormulaRec where
  entry : Word
  nprec : Nat
  precs : List (Nat × Nat)

/-- A PREC entry: cell ID and path-summary index (R26). -/
def precOf (w : Nat) : Nat × Nat := (w / 2 ^ 14 % 2 ^ 18, w / 2 ^ 10 % 16)

/-- The formula record at offset 64 × rec of a cistern (R26). -/
def formulaRec (s : State) (h rec_ : Nat) : FormulaRec :=
  let pa := cisternPa h (64 * rec_)
  let n := natAt s (pa + 8) 2
  { entry := word64At s pa, nprec := n,
    precs := (List.range (min n 8)).map fun i => precOf (natAt s (pa + 0x10 + 4 * i) 4) }

/-- The address of a cell's dependant list (R24, R27). -/
def depsPa (h : Nat) (e : CellEntry) : Nat := cisternPa h (8 * e.deps.toNat)

/-- The entries of a dependant list as (dependant, summary) (R27). -/
def dependants (s : State) (h : Nat) (e : CellEntry) : List (Nat × Nat) :=
  let pa := depsPa h e
  (List.range (natAt s pa 2)).map fun i => precOf (natAt s (pa + 8 + 4 * i) 4)

/-- The path-summary table that a cell's edges use (R77). -/
def pathsOf (s : State) (e : CellEntry) : List Nat := (sheafAt s e.sheaf.toNat).paths

/-- A valid directory entry by its cell ID: home core, index, entry (R23). -/
def cellById (s : State) (id : Nat) : Option (Nat × Nat × CellEntry) :=
  match cellHome id with
  | none => none
  | some (h, i) => let e := cellAt (coreAt s h) i; if e.valid then some (h, i, e) else none

/-! ### Reservations of blocks that have not committed (R343) -/

/-- Every reservation held: core, slot and reservation. -/
def allResv (s : State) : List (Nat × Nat × CellResv) :=
  s.slots.flatMap fun x =>
    match x.2.thread with
    | none => []
    | some t =>
      match t.block with
      | none => []
      | some b => b.resv.map fun r => (x.1 / 16, x.1 % 16, r)

/-- Whether a reservation is of a kind on a cell. -/
def resvOn (p : CellOp → Bool) (h i : Nat) (r : CellResv) : Bool :=
  p r.req.op && decide (cellNamed r.req.cell = some (h, i))

def isCrd : CellOp → Bool
  | .crd => true
  | _ => false
def isCrel : CellOp → Bool
  | .crel _ => true
  | _ => false
def isBind : CellOp → Bool
  | .cbind _ _ | .cunb _ => true
  | _ => false

/-- The edges of a result cell in the dependant list of a precedent, once each (R27). -/
def edgesTo (source : Nat) (d : Nat) (precs : List (Nat × Nat)) : List (Nat × Nat) :=
  ((precs.filter fun p => decide (p.1 = source)).map fun p => (d, p.2)).dedup

/-- The edges that CBINDs reserve in the dependant list of a precedent (R355). -/
def reservedEdges (s : State) (h i : Nat) : List (Nat × Nat) :=
  (allResv s).flatMap fun x =>
    match cellNamed x.2.2.req.cell with
    | some (d, j) => edgesTo (cellId h i) (cellId d j) x.2.2.precs
    | none => []

/-- Whether new edges find room in the dependant list of a cell, beside the edges that stand there and those that are
reserved; an edge that stands there takes no second place (R27, R40, R355). -/
def edgesFit (s : State) (h i : Nat) (e : CellEntry) (new : List (Nat × Nat)) : Bool :=
  let stands := dependants s h e
  let want := new.filter fun x => !stands.contains x
  want.isEmpty ||
    decide (natAt s (depsPa h e) 2 + ((reservedEdges s h i ++ want).filter fun x => !stands.contains x).dedup.length ≤
      natAt s (depsPa h e + 2) 2)

/-! ### The zero-advance walk of CBIND (R41) -/

/-- The bindings of a cell that hold at some time ≥ t, as record pointers. -/
def laterBindings (e : CellEntry) (t : Word) : List Nat :=
  ((bindings e).filter fun b =>
    (bindings e).all fun d => decide (d.2.1.toNat ≤ b.2.1.toNat) || decide (t.toNat < d.2.1.toNat)).map (·.2.2)

/-- The zero-advance precedents of a cell under its bindings that hold at some time ≥ t. -/
def zeroPrecedents (s : State) (id : Nat) (t : Word) : List Nat :=
  match cellById s id with
  | none => []
  | some (h, _, e) =>
    (laterBindings e t).flatMap fun r =>
      if r = 0 then []
      else ((formulaRec s h r).precs.filter fun p => zeroAdvance (pathsOf s e) p.2).map (·.1)

/-- What the walk finds: 0 no cycle, 1 CIRC, 8 DEEP (R40, R41, R46). DESIGN CHOICE (log entry 133): it goes depth first, the
precedents in the order of their record, and stops at the 1,025th cell, which decides between CIRC and DEEP where both hold. -/
def zeroWalk (s : State) (goal : Nat) (t : Word) : Nat → List Nat → List Nat → Nat
  | 0, _, _ => 8
  | _ + 1, [], _ => 0
  | fuel + 1, c :: rest, seen =>
    if c = goal then 1
    else if seen.contains c then zeroWalk s goal t fuel rest seen
    else if 1024 ≤ seen.length then 8
    else zeroWalk s goal t fuel (zeroPrecedents s c t ++ rest) (c :: seen)

/-! ### Decisions (R30, R36, R40, R349-R357) -/

/-- A decision: to wait, or a status with the other result and, when something is reserved, the buffer and the time that it
had. -/
inductive Decided
  | wait
  | answer (status : Nat) (other : Token) (resv : Option (Bool × Word))

/-- A refusal by status: the other result is Null (R349). -/
def refuseBy (n : Nat) : Decided := .answer n .null none

/-- The decision of CRD (R36, R350). -/
def decideCrd (s : State) (h : Nat) (e : CellEntry) (r : CellReq) : Decided :=
  let u := r.time
  if isFenced s h then refuseBy 5
  else if 0xFFFF ≤ r.pins + ((blockAt s r.id.core r.id.slot).elim 0 fun b => (b.resv.filter fun x => isCrd x.req.op).length) then refuseBy 7
  else if (frontierAt s h e.sheaf.toNat).toNat < u.toNat || decide (e.stale.toNat ≤ u.toNat) ||
      (e.wopen && decide ((bufTime e (!e.cur)).toNat ≤ u.toNat)) then .wait
  else
    match newestAt e u with
    | none => .wait
    | some v => if bufPins e v.1 < 0xFFFF then .answer 0 (.scalar (cellVa s h e v.1)) (some (v.1, 0)) else .wait

/-- The decision of CWR, of CSET behind its own conditions, and of a formula thread's write of another cell (R30, R35,
R352). DESIGN CHOICE (log entry 118): the time of a buffer that is open is the time of no version, so a write at or below it
finds BUSY and not PAST. -/
def decideWrite (s : State) (h i : Nat) (e : CellEntry) (r : CellReq) (t : Word) : Decided :=
  let target := !e.cur
  if isFenced s h then refuseBy 5
  else if r.task.elim false fun d => decide (d.1 ≠ cellId h i) then refuseBy 3
  else if (formulaAt e t).isSome then refuseBy 4
  else if t.toNat < r.time.toNat || (decide (t = r.time) && decide (cellState s h e ≠ 0)) || decide (t = timeTop) ||
      (versions e).any fun v => decide (t.toNat ≤ v.2.toNat) then refuseBy 3
  else if e.wopen || waitsToFlip e then refuseBy 2
  else if bufPins e target ≠ 0 then .wait
  else .answer 0 (.scalar (cellVa s h e target)) (some (target, bufTime e target))

/-- The decision of CCMT (R353). -/
def decideCcmt (e : CellEntry) (r : CellReq) (t : Word) : Decided :=
  if !e.wopen || decide (e.writer ≠ some (r.id.core, r.id.slot, r.inc)) then refuseBy 2
  else if bufTime e (!e.cur) ≠ t then refuseBy 3
  else .answer 0 .null none

/-- The decision of CREL (R351). -/
def decideCrel (s : State) (h i : Nat) (e : CellEntry) (r : CellReq) (addr : Word) : Decided :=
  match [false, true].find? fun y => decide (cellVa s h e y = addr) with
  | none => .answer 0 .null none
  | some y =>
    let held := ((allResv s).filter fun x => resvOn isCrel h i x.2.2 && decide (x.2.2.buffer = y)).length
    let mine := (blockAt s r.id.core r.id.slot).elim [] (·.resv)
    let pins := (threadAt s r.id.core r.id.slot).elim 0 (·.pins)
    let units := pins + (mine.filter fun x => isCrd x.req.op).length - (mine.filter fun x => isCrel x.req.op).length
    if held < bufPins e y ∧ 0 < units then .answer 0 .null (some (y, 0)) else .answer 0 .null none

/-- What stands against a binding in its precedents (R40): the status, or 0. -/
def precedentStatus (s : State) (h i : Nat) (e : CellEntry) (r : CellReq) (rec_ : Option Nat) (t : Word) : Nat :=
  match rec_ with
  | none => 0
  | some n =>
    let f := formulaRec s h n
    if f.precs.any fun p => (cellById s p.1).isNone then 9
    else if f.precs.any fun p => (cellById s p.1).elim true fun x => decide (some x.2.2.sheaf.toNat ≠ r.sheaf) then 6
    else if decide (8 < f.nprec) || f.precs.any fun p =>
        (cellById s p.1).elim false fun x => !edgesFit s x.1 x.2.1 x.2.2 (edgesTo p.1 (cellId h i) f.precs)
      then 7
    else
      let starts := (f.precs.filter fun p => zeroAdvance (pathsOf s e) p.2).map (·.1)
      zeroWalk s (cellId h i) t 20000 starts []

/-- The decision of CBIND and, without a record, of CUNB (R40, R355). DESIGN CHOICE (log entry 132): while the only free entry is
reserved by another block that has not committed, it waits. -/
def decideBind (s : State) (h i : Nat) (e : CellEntry) (r : CellReq) (rec_ : Option Nat) (t : Word) : Decided :=
  let bs := bindings e
  let newer := bs.foldl (fun m b => max m b.2.1.toNat) 0
  let held := ((allResv s).filter fun x => resvOn isBind h i x.2.2).length
  if rec_.elim false fun n => decide (0x12_7000 ≤ 64 * n) then refuseBy 7
  else if t.toNat < r.time.toNat || (decide (t = r.time) && decide (cellState s h e ≠ 0)) ||
      bs.any fun b => decide (t.toNat ≤ b.2.1.toNat) then refuseBy 3
  else
    match precedentStatus s h i e r rec_ t with
    | 0 =>
      if bs.length = 2 then (if r.time.toNat < newer then refuseBy 2 else .wait)
      else if 2 ≤ bs.length + held then .wait
      else .answer 0 .null (some (false, 0))
    | n => refuseBy n

/-- The decision of a cell instruction at its home core (R343, R349). -/
def decideCell (s : State) (r : CellReq) : Decided :=
  match cellNamed r.cell with
  | none => refuseBy 9
  | some (h, i) =>
    let e := cellAt (coreAt s h) i
    if !e.valid then refuseBy 9
    else
      match r.op with
      | .cstat n _ => .answer 0 (.scalar (descWord s h e n)) (some (false, descWord s h e 0))
      | op =>
        if r.sheaf ≠ some e.sheaf.toNat then refuseBy 6
        else
          match op with
          | .crd => decideCrd s h e r
          | .crel addr => decideCrel s h i e r addr
          | .cwr t => decideWrite s h i e r t
          | .ccmt t => decideCcmt e r t
          | .cset t _ _ =>
            if isFenced s h then refuseBy 5 else if 128 < tileSize s h e then refuseBy 7 else decideWrite s h i e r t
          | .cbind off t => decideBind s h i e r (some (off / 64)) t
          | .cunb t => decideBind s h i e r none t
          | _ => refuseBy 9

/-- The reservation of a decision at the home core (R350, R352, R354). -/
def reserveCell (r : CellReq) (h i : Nat) (y : Bool) : Act Unit :=
  match r.op with
  | .crd => modCell h i fun e => setPins y (bufPins e y + 1) e
  | .cwr t | .cset t _ _ =>
    modCell h i fun e => { setBufTime y t e with wopen := true, writer := some (r.id.core, r.id.slot, r.inc) }
  | _ => pure ()

/-- The reply of a decision travels back to the issuer (R343) with the slack of its request less the wait at the home core
(R312). -/
def replyCell (h : Nat) (r : CellReq) (status : Nat) (other : Token) : Act Unit := do
  let now ← look (·.cycle)
  let d := Delivery.cell ⟨r.id, status, other⟩
  if h = r.id.core then deliverNow d
  else sendMsg h (.core r.id.core) (slackAfter r.slack (now - r.came)) r.exh r.id.core (some r.id.slot) (.deliver d)

/-- The precedents that a reservation keeps: those of the record that the decision of a CBIND has read (R355). -/
def precsRead (s : State) (h : Nat) (r : CellReq) : List (Nat × Nat) :=
  match r.op with
  | .cbind off _ => (formulaRec s h (off / 64)).precs
  | _ => []

/-- A decided request: what it reserves, what its block holds for the commit, and the reply. -/
def settleCell (r : CellReq) (h i status : Nat) (other : Token) (resv : Option (Bool × Word)) : Act Unit := do
  let c := r.id.core
  let k := r.id.slot
  match resv with
  | some (y, old) => do
    let precs ← look (precsRead · h r)
    reserveCell r h i y
    modBlock c k fun b => { b with
      resv := b.resv ++ [⟨r.id.idx, r, y, old, precs⟩], effs := b.effs ++ [(r.id.idx, .cell r true)] }
  | none =>
    match r.op, status with
    | .crel _, 0 => modBlock c k fun b => { b with effs := b.effs ++ [(r.id.idx, .pinErr)] }
    | .ccmt _, 0 => modBlock c k fun b => { b with effs := b.effs ++ [(r.id.idx, .cell r true)] }
    | _, _ => pure ()
  replyCell h r status other

/-! ### Marks (R31, R32) -/

/-- The thread that a wave belongs to. -/
structure Waiter where
  core : Nat
  slot : Nat
  inc : Nat

/-- A wait with its number of marks changed. -/
def onMarks (f : Nat → Nat) : Wait → Wait
  | .marks m => .marks (f m)
  | w => w

/-- The marks that a thread awaits, now or after the wait it is in, change. -/
def mapMarks (f : Nat → Nat) (t : Thread) : Thread :=
  { t with wait := onMarks f t.wait, waits := t.waits.map (onMarks f) }

/-- The number of acknowledgements that a thread still awaits changes (R31). -/
def addMarks (w : Waiter) (n : Nat) : Act Unit := onThread w.core w.slot w.inc (mapMarks (· + n))

/-- A mark leaves the core of its source for the home of a dependant (R31, R79). -/
def sendMark (h source sum d : Nat) (t : Word) (sheaf : Nat) (w : Waiter) : Act Unit := do
  match cellHome d with
  | none => pure ()
  | some (g, _) => do
    let col ← look fun s => (coreAt s h).colour
    countAt h (some sheaf) t 1
    addMarks w 1
    let m : MarkMsg := ⟨source, sum, d, t, sheaf, w.core, w.slot, w.inc, true, 0x80, false, col⟩
    if g = h then later 1 5 h (.mark m)
    else do
      colourSent h col
      sendMsg h (.core g) 0x80 false w.core (some w.slot) (.mark m)

/-- Mark(C, t, zeroOnly) of R31: marks are sent along the edges of a cell. A mark whose time would be ⊤ is dropped (R78) and
counts in TOVFCNT (R72). -/
def markDependants (h i : Nat) (t : Word) (zeroOnly : Bool) (w : Waiter) : Act Unit := do
  let s ← look id
  let e := cellAt (coreAt s h) i
  let paths := pathsOf s e
  each (dependants s h e) fun d =>
    let u := applySummary paths d.2 t
    onlyIf (!zeroOnly || zeroAdvance paths d.2)
      (if u = timeTop then countReg h 0x0E88 1 else sendMark h (cellId h i) d.2 d.1 u e.sheaf.toNat w)

/-- The queued tasks of a cell. -/
def tasksOf (x : Core) (i : Nat) : List RecalcTask := x.tasks.filter fun t => decide (t.cell = i)

/-- STALE from the queued tasks of a cell: ⊤ if none (R35, R42). -/
def leastTask (x : Core) (i : Nat) : Word :=
  (tasksOf x i).foldl (fun m t => if t.time.toNat < m.toNat then t.time else m) timeTop

/-- The record of the formula that a queued task will run: that of the CBIND that has released it (R43), else the one that
holds at its time (R42). -/
def taskRecord (e : CellEntry) (y : RecalcTask) : Option Nat :=
  match y.rebind with
  | some n => some n
  | none => formulaAt e y.time

/-- A recalculation is queued (R31): one per cell and time, counted +1 at its home core (R79). One at ⊤ is discarded and counts
in TOVFCNT (R72). -/
def queueTask (h i : Nat) (t : Word) (held : Bool) : Act Unit := do
  let x ← look (coreAt · h)
  let e := cellAt x i
  if t = timeTop then countReg h 0x0E88 1
  else onlyIf (!(tasksOf x i).any fun y => decide (y.time = t)) (do
    modCore h fun x => { x with tasks := x.tasks ++ [⟨i, t, held, none, x.colour⟩] }
    modCell h i fun e => { e with stale := if t.toNat < e.stale.toNat then t else e.stale }
    countAt h (some e.sheaf.toNat) t 1)

/-- MARK (R31, R32): a mark lands at a dependant's home; one that finds a binding that names its edge queues the task, unless
it is queued already, and marks the zero-advance closure. -/
def execMark (m : MarkMsg) (s : State) : Host.Outcome State Fault Refusal :=
  .next (run (do
    match cellHome m.cell with
    | none => pure ()
    | some (h, i) =>
      let e := cellAt (coreAt s h) i
      let (sh, _) := (cellHome m.source).getD (h, 0)
      onlyIf (decide (sh ≠ h)) (colourReceived h m.col)
      onlyIf m.counted (countAt h (some m.sheaf) m.time (-1))
      let names := e.valid && !isFenced s h && (formulaAt e m.time).elim false fun r =>
        (formulaRec s h r).precs.contains (m.source, m.summary)
      if names then do
        queueTask h i m.time false
        markDependants h i m.time true ⟨m.core, m.slot, m.inc⟩
        pokeHeld h
      else pure ()
      if m.core = h then later 1 5 h (.markAck m.core m.slot m.inc)
      else sendMsg h (.core m.core) m.slack m.exh m.core (some m.slot) (.markAck m.core m.slot m.inc)) s)

/-- A thread whose marks have all been acknowledged records what it owes, and goes on; one that has ended its task ends (R31, R35,
R81, R353). -/
def marksDone (c k : Nat) : Act Unit := do
  let t ← look (threadAt · c k)
  match t with
  | none => pure ()
  | some t =>
    match t.wait with
    | .marks 0 =>
      if t.ending then removeThread c k
      else do
        each t.owed fun d => countAt c d.1 d.2 (-1)
        modThread c k fun t => { t with owed := [] }
        goOn c k
    | _ => pure ()

/-- One acknowledgement, or one close, less to wait for. -/
def marksLess (w : Waiter) : Act Unit := do
  onThread w.core w.slot w.inc (mapMarks (· - 1))
  let t ← look (threadAt · w.core w.slot)
  onlyIf (t.elim false fun t => decide (t.incarn.toNat = w.inc)) (marksDone w.core w.slot)

/-- MARK_ACK (R31). -/
def execMarkAck (core slot inc : Nat) (s : State) : Host.Outcome State Fault Refusal :=
  .next (run (marksLess ⟨core, slot, inc⟩) s)

/-! ### Closing a cell (R31, R35, R353, R354) -/

/-- A recalculation that has committed its cell (R35): the pins of its precedents are released, STALE follows the tasks
that are still queued; its thread ends when its marks have landed. -/
def endTask (h i : Nat) (w : Waiter) : Act Unit := do
  let t ← look (threadAt · w.core w.slot)
  let pins := t.elim [] (·.taskPins)
  each pins fun p => match cellHome p.1 with
    | some (g, j) => do
      modCell g j fun e => setPins p.2 (bufPins e p.2 - 1) e
      pokeHeld g
    | none => pure ()
  let x ← look (coreAt · h)
  modCell h i fun e => { e with stale := leastTask x i }
  onThread w.core w.slot w.inc fun t => { t with task := none, taskPins := [] }

/-- Whether a store word of the issuer that is not acknowledged lies in a buffer (R353). -/
def storesInBuffer (s : State) (r : CellReq) (lo n : Nat) : Bool :=
  (coreAt s r.id.core).sent.any fun w =>
    decide (w.word.slot = r.id.slot) && decide (w.inc = r.inc) &&
      (let p := localPa s (w.word.word * 8)
       w.word.bytes.any fun b => decide (lo ≤ p + b.1) && decide (p + b.1 < lo + n))

/-- The close of a committed CCMT or CSET at the home core (R353): it waits for the thread's stores in the buffer; then
WOPEN and the writer tag are cleared and the dependants are marked. -/
def closeCell (r : CellReq) (h i : Nat) (t : Word) (opens : Bool) : Act Unit := do
  let s ← look id
  let e := cellAt (coreAt s h) i
  let w : Waiter := ⟨r.id.core, r.id.slot, r.inc⟩
  if storesInBuffer s r (bufferPa s h e (!e.cur)) (tileSize s h e) then later 1 5 (40000 + h) (.heldDecision r)
  else do
    modCell h i fun e => { e with wopen := false, writer := none }
    onlyIf opens (onThread w.core w.slot w.inc fun t => { t with opens := t.opens - 1 })
    markDependants h i t false w
    onlyIf (r.task.elim false fun d => decide (d.1 = cellId h i) && decide (d.2 = t)) (endTask h i w)
    pokeHeld h
    let y ← look id
    each (dependants y h (cellAt (coreAt y h) i)) fun d => match cellHome d.1 with
      | some (g, _) => pokeSlots g
      | none => pure ()
    marksLess w

/-- HELD_DECISION (R343): a request decides at its home core, or stays held until what it waits for changes; one whose
execution has ended is withdrawn, which its core is told (R390). -/
def execHeldDecision (r : CellReq) (s : State) : Host.Outcome State Fault Refusal :=
  .next (run (do
    match r.op, cellNamed r.cell with
    | .close t opens, some (h, i) => closeCell r h i t opens
    | _, none => replyCell r.id.core r 9 .null
    | _, some (h, i) =>
      if isCurrent s r.id then
        match decideCell s r with
        | .wait => modCore h fun x => { x with held := x.held ++ [r] }
        | .answer status other resv => settleCell r h i status other resv
      else replyCell h r 9 .null) s)

/-! ### Instructions (R349-R357) -/

/-- The request of a cell instruction. -/
def cellReq (f : Fire) (op : CellOp) (cell : Word) : CellReq :=
  { id := f.id, op := op, cell := cell, time := f.th.ltime, sheaf := sheafOf f.th, inc := f.th.incarn.toNat,
    task := f.th.task, pins := f.th.pins, slack := f.th.slack.toNat % 256, exh := false, came := 0 }

/-- A cell instruction fires: its request goes to the home core (R343). One that names no home core is decided here. -/
def fireCell (f : Fire) (ta tb : Nat) (op : CellOp) (cell : Word) : Act Unit := do
  takeTurn f ta tb noFlags []
  let r := cellReq f op cell
  modBlock f.c f.k fun b => { b with asked := b.asked ++ [(f.i, ((cellNamed cell).map Prod.fst).getD f.c)] }
  match cellNamed cell with
  | some (h, _) =>
    if h = f.c then later 0 5 (40000 + h) (.heldDecision r) else sendMsg f.c (.core h) r.slack false f.c (some f.k) (.cell r)
  | none => later 0 5 (40000 + f.c) (.heldDecision r)

/-- A cell instruction with its operands, or Null (R345). -/
def cellInstr (p : Pred) (ta tb : Nat) (s : State) (ops : Fire → Option (CellOp × Word)) :
    Host.Outcome State Fault Refusal :=
  fireAct s fun f =>
    match predicateHolds p f, ops f with
    | true, some (op, cell) => fireCell f ta tb op cell
    | _, _ => completeAct f ta tb .null .null noFlags []

/-- CBIND (R355). -/
def execCbind (tb ta : Target) (s : State) : Host.Outcome State Fault Refusal :=
  cellInstr .always (t9 ta) (t9 tb) s fun f =>
    (ops3 f).map fun o => (.cbind (64 * (o.2.1.toNat / 64 % 2 ^ 15)) o.2.2, o.1)

/-- CUNB (R355). -/
def execCunb (p : Pred) (tb ta : Target) (s : State) : Host.Outcome State Fault Refusal :=
  cellInstr p (t9 ta) (t9 tb) s fun f => (ops2 f).map fun o => (.cunb o.2.1, o.1)

/-- CRD (R350). -/
def execCrd (p : Pred) (tb ta : Target) (s : State) : Host.Outcome State Fault Refusal :=
  cellInstr p (t9 ta) (t9 tb) s fun f => (asScalar f.l).map fun a => (.crd, a)

/-- CREL (R351). -/
def execCrel (p : Pred) (tb ta : Target) (s : State) : Host.Outcome State Fault Refusal :=
  cellInstr p (t9 ta) (t9 tb) s fun f => (ops2 f).map fun o => (.crel o.2.1, o.1)

/-- CWR (R352). -/
def execCwr (p : Pred) (tb ta : Target) (s : State) : Host.Outcome State Fault Refusal :=
  cellInstr p (t9 ta) (t9 tb) s fun f => (ops2 f).map fun o => (.cwr o.2.1, o.1)

/-- CCMT (R353). -/
def execCcmt (p : Pred) (tb ta : Target) (s : State) : Host.Outcome State Fault Refusal :=
  cellInstr p (t9 ta) (t9 tb) s fun f => (ops2 f).map fun o => (.ccmt o.2.1, o.1)

/-- CSET (R354). -/
def execCset (tb ta : Target) (s : State) : Host.Outcome State Fault Refusal :=
  cellInstr .always (t9 ta) (t9 tb) s fun f =>
    match asScalar f.l, tokIsNull f.r, asScalar f.p with
    | some a, false, some t => some (.cset t (asVec f.r).1 (asVec f.r).2, a)
    | _, _, _ => none

/-- CSTAT and CSTAT.CLR (R357): the clearing form reads word 0. -/
def execCstat (p : Pred) (clr : Bool) (tb ta : Target) (s : State) : Host.Outcome State Fault Refusal :=
  cellInstr p (t9 ta) (t9 tb) s fun f =>
    (ops2 f).map fun o => (.cstat (if clr then 0 else o.2.1.toNat % 8) clr, o.1)

/-! ### Bindings at the commit (R40, R42, R43, R355) -/

/-- An edge added to the dependant list of a precedent, unless it stands there (R27, R40). -/
def addEdge (d : Nat) (p : Nat × Nat) : Act Unit := do
  let s ← look id
  match cellById s p.1 with
  | none => pure ()
  | some (h, _, e) =>
    onlyIf (!(dependants s h e).contains (d, p.2)) (do
      let pa := depsPa h e
      let n := natAt s pa 2
      writeNat (pa + 8 + 4 * n) 4 (d * 2 ^ 14 + p.2 * 2 ^ 10)
      writeNat pa 2 (n + 1))

/-- An edge removed from the dependant list of a precedent (R42). -/
def removeEdge (d : Nat) (p : Nat × Nat) : Act Unit := do
  let s ← look id
  match cellById s p.1 with
  | none => pure ()
  | some (h, _, e) =>
    let pa := depsPa h e
    let l := (dependants s h e).filter fun x => decide (x ≠ (d, p.2))
    onlyIf (decide (l.length < (dependants s h e).length)) (do
      each ((List.range l.length).zip l) fun x => writeNat (pa + 8 + 4 * x.1) 4 (x.2.1 * 2 ^ 14 + x.2.2 * 2 ^ 10)
      writeNat pa 2 l.length)

/-- The flip of a cell at F (R39). -/
def flipCell (f : Word) (e : CellEntry) : CellEntry :=
  if waitsToFlip e ∧ (bufTime e (!e.cur)).toNat < f.toNat then { setBufTime e.cur timeTop e with cur := !e.cur } else e

/-- The older of two valid bindings, when F has reached the newer one (R42): whether it is entry B, and both records. -/
def retiring (f : Word) (e : CellEntry) : Option (Bool × Nat × Nat) :=
  if e.bva && e.bvb then
    if e.fromA.toNat < e.fromB.toNat then
      (if e.fromB.toNat ≤ f.toNat then some (false, e.brecA.toNat, e.brecB.toNat) else none)
    else (if e.fromA.toNat ≤ f.toNat then some (true, e.brecB.toNat, e.brecA.toNat) else none)
  else none

/-- The older binding of a cell retires (R42): its valid bit is cleared, and the edges that the newer one does not use
leave the dependant lists. -/
def retireBinding (h i : Nat) (f : Word) : Act Unit := do
  let s ← look id
  match retiring f (cellAt (coreAt s h) i) with
  | none => pure ()
  | some (b, old, new) => do
    modCell h i fun e => if b then { e with bvb := false } else { e with bva := false }
    let kept := if new = 0 then [] else (formulaRec s h new).precs
    onlyIf (decide (old ≠ 0)) (each ((formulaRec s h old).precs.filter fun p => !kept.contains p) (removeEdge (cellId h i)))

/-- The given queued tasks of a cell are dropped with their −1, and STALE follows (R42). -/
def dropTasks (h i : Nat) (gone : List RecalcTask) : Act Unit := do
  let x ← look (coreAt · h)
  let e := cellAt x i
  each gone fun t => do
    modCore h fun x => { x with tasks := x.tasks.filter fun y => decide (y ≠ t) }
    countAt h (some e.sheaf.toNat) t.time (-1)
  onlyIf (!gone.isEmpty) (do
    let y ← look (coreAt · h)
    modCell h i fun e => { e with stale := leastTask y i })

/-- The held tasks of a cell whose binding names a Failed precedent (R43). -/
def failedTasks (s : State) (h i : Nat) : List RecalcTask :=
  (tasksOf (coreAt s h) i).filter fun y =>
    y.held && (taskRecord (cellAt (coreAt s h) i) y).elim false fun n =>
      (formulaRec s h n).precs.any fun p => (cellHome p.1).elim false fun d => isFenced s d.1

/-- An entry with a binding installed from a time on (R40). -/
def boundEntry (rec_ : Option Nat) (t : Word) (e : CellEntry) : CellEntry :=
  let ptr := BitVec.ofNat 15 (rec_.getD 0)
  if e.bva then { e with bvb := true, fromB := t, brecB := ptr } else { e with bva := true, fromA := t, brecA := ptr }

/-- The counts of the installation of a binding at the home core of its cell (R79, R80): the task of the result, the tasks that are
dropped, and the marks of the closure. -/
def bindCounts (s : State) (h i : Nat) (rec_ : Option Nat) (t : Word) : List Delta :=
  let x := coreAt s h
  let e := cellAt x i
  let n := e.sheaf.toNat
  let failed := failedTasks s h i
  let gone := (tasksOf x i).filter fun y =>
    if failed.contains y then rec_.isNone else (taskRecord (boundEntry rec_ t e) y).isNone
  let marks := ((dependants s h e).filter fun d => zeroAdvance (pathsOf s e) d.2).map fun d => applySummary (pathsOf s e) d.2 t
  (if rec_.isSome && decide (t ≠ timeTop) && !(tasksOf x i).any (fun y => decide (y.time = t)) then [⟨n, t, 1⟩] else []) ++
    (gone.map fun y => ⟨n, y.time, -1⟩) ++ (marks.filter fun u => decide (u ≠ timeTop)).map fun u => ⟨n, u, 1⟩

/-- The installation of a binding at the commit of a CBIND or CUNB (R40, R42, R43, R355): the entry, the edges of the record as
it was decided, the mark of the result and its closure. A held task whose binding named a Failed precedent runs under the new
binding, or is dropped when there is none; the other tasks that are left without a formula are dropped. The older
entry retires at once when the announced frontier has reached the time of the new one. -/
def installBinding (r : CellReq) (h i : Nat) (rec_ : Option Nat) (precs : List (Nat × Nat)) (t : Word) : Act Unit := do
  let s ← look id
  let failed := failedTasks s h i
  modCell h i (boundEntry rec_ t)
  match rec_ with
  | some n => do
    each precs (addEdge (cellId h i))
    modCore h fun x => { x with tasks := x.tasks.map fun y => if (failed.contains y) = true then { y with held := false, rebind := some n } else y }
    queueTask h i t false
  | none => dropTasks h i failed
  markDependants h i t true ⟨r.id.core, r.id.slot, r.inc⟩
  let u ← look id
  dropTasks h i ((tasksOf (coreAt u h) i).filter fun y => (taskRecord (cellAt (coreAt u h) i) y).isNone)
  retireBinding h i (frontierAt u h (cellAt (coreAt u h) i).sheaf.toNat)
  pokeHeld h

end Sys2Proof.Machine
end

