-- ==== Sys2Proof/Machine/Time.lean ====
section
/-! DEFINITION. FENCE, and the time, sheaf, task and message instructions (R330-R333, R358-R369), with the arrival of fills and
wakes. -/

namespace Sys2Proof.Machine

open Sys2Proof

/-! ### FENCE (R330) -/

/-- FENCE (R330): it takes a turn and makes its block a release or an acquire block. -/
def execFence (p : Pred) (scope : Scope) (fkind : FenceKind) (s : State) : Host.Outcome State Fault Refusal :=
  fireAct s fun f => do
    completeAct f 511 511 .null .null noFlags (if predicateHolds p f then [.fence scope fkind] else [])
    sendReady f.c f.k

/-! ### Time (R356, R358-R360) -/

/-- A status delivered to both targets, with an effect for the commit. -/
def statusAct (f : Fire) (ta tb n : Nat) (effs : List Eff) : Act Unit :=
  completeAct f ta tb (.scalar (word n)) (.scalar (word n)) noFlags effs

/-- TADV (R358). -/
def execTadv (p : Pred) (level : BitVec 2) (tb ta : Target) (s : State) : Host.Outcome State Fault Refusal :=
  fireAct s fun f =>
    match predicateHolds p f, asScalar f.l with
    | true, some a =>
      let n := a.toNat % 2 ^ 32
      let t := if n = 0 then f.th.ltime else advanceTime f.th.ltime level.toNat n
      completeAct f (t9 ta) (t9 tb) (.scalar t) (.scalar t) noFlags [.advance t]
    | _, _ => completeAct f (t9 ta) (t9 tb) .null .null noFlags []

/-- TSET (R359). -/
def execTset (p : Pred) (tb ta : Target) (s : State) : Host.Outcome State Fault Refusal :=
  fireAct s fun f =>
    match predicateHolds p f, asScalar f.l with
    | true, some t =>
      if t.toNat < f.th.ltime.toNat then statusAct f (t9 ta) (t9 tb) 3 []
      else statusAct f (t9 ta) (t9 tb) 0 [.setTime t]
    | _, _ => completeAct f (t9 ta) (t9 tb) .null .null noFlags []

/-- FWAIT (R360): it waits without a token until the announced frontier is past its time. -/
def execFwait (p : Pred) (tb ta : Target) (s : State) : Host.Outcome State Fault Refusal :=
  fireAct s fun f =>
    match predicateHolds p f, asScalar f.l with
    | true, some t =>
      match sheafOf f.th with
      | none => statusAct f (t9 ta) (t9 tb) 0 []
      | some n =>
        if f.th.ltime.toNat ≤ t.toNat then statusAct f (t9 ta) (t9 tb) 2 []
        else if t.toNat < (frontierAt s f.c n).toNat then do
          statusAct f (t9 ta) (t9 tb) 0 []
          acquireCommit f.c
        else takeTurn f (t9 ta) (t9 tb) noFlags []
    | _, _ => completeAct f (t9 ta) (t9 tb) .null .null noFlags []

/-- The waiting FWAITs of a slot decide OK where the announced frontier has passed their times (R83, R336, R360). -/
def wakeFwaits (c k : Nat) (front : Word) : Act Unit := do
  let s ← look id
  match blockAt s c k with
  | none => pure ()
  | some b => onlyIf (!b.stopped) (each (indices b) fun i => do
      let t := asScalar (operand b i 0)
      let id : ExecId := ⟨c, k, b.gen, i⟩
      let e := Instr.tokenDelivery (.tokens id (.scalar 0) (.scalar 0))
      onlyIf (decide (opOf (wordOf b i) = 0x73) && hasFired b i && (doneOf b i).isNone &&
          (t.elim false fun t => decide (t.toNat < front.toNat)) && !s.agenda.any fun x => decide (x.2 = e)) (do
        acquireCommit c
        atCycle (firstDelivery s id) 2 (slotPlace c k) e))

/-- A core applies an announced frontier in one step (R83): the flips (R39), the older bindings that retire (R42), the waits of FWAIT
and RFENCE that are over (R45, R336), the requests that it holds and its eligible tasks (R33, R36). -/
def applyFrontier (core sheaf : Nat) (front : Word) : Act Unit := do
  let s ← look id
  onlyIf (decide ((frontierAt s core sheaf).toNat < front.toNat)) (do
    modCore core fun x =>
      { x with
        fronts := mset 0 x.fronts sheaf front,
        cells := x.cells.map fun e =>
          if e.2.valid ∧ e.2.sheaf.toNat = sheaf then (e.1, flipCell front e.2) else e }
    each ((coreAt s core).cells.filter fun e => e.2.valid && decide (e.2.sheaf.toNat = sheaf)) fun e =>
      retireBinding core e.1 front
    each (List.range 16) fun k =>
      match threadAt s core k with
      | none => pure ()
      | some t => onlyIf (decide (sheafOf t = some sheaf)) (do
        wakeFwaits core k front
        match t.wait with
        | .frontier u => onlyIf (decide (u.toNat < front.toNat)) (do
            acquireCommit core
            goOn core k)
        | _ => pure ())
    pokeHeld core)

/-- Whether a core holds a member or a cell of a sheaf, and with it a copy of the sheaf's path-summary table and its frontier (R83,
R84, R363). -/
def holdsCopy (s : State) (c n : Nat) : Bool :=
  let x := coreAt s c
  ((List.range 16).any fun k => (threadAt s c k).elim false fun t => decide (sheafOf t = some n)) ||
    (x.cache.any fun e => decide (sheafOf e.2.thread = some n)) || x.cells.any fun e => e.2.valid && decide (e.2.sheaf.toNat = n)

/-- The frontier of a sheaf as a core has it that takes up the sheaf: its own when it holds a copy, else the one last announced, which
it fetches (R84, R363). -/
def frontierFor (s : State) (c n : Nat) : Word :=
  if holdsCopy s c n ∨ (sheafAt s n).front.toNat ≤ (frontierAt s c n).toNat then frontierAt s c n else (sheafAt s n).front

/-- A core that takes up a sheaf of which it holds no copy fetches the frontier last announced (R84, R363). -/
def fetchFrontier (c n : Nat) : Act Unit := do
  let f ← look (frontierFor · c n)
  applyFrontier c n f

/-- RFENCE (R45, R356). -/
def execRfence (p : Pred) (tb ta : Target) (s : State) : Host.Outcome State Fault Refusal :=
  fireAct s fun f =>
    match predicateHolds p f, asScalar f.l with
    | true, some t =>
      if (sheafOf f.th).isNone then statusAct f (t9 ta) (t9 tb) 6 []
      else if t = timeTop then statusAct f (t9 ta) (t9 tb) 3 []
      else statusAct f (t9 ta) (t9 tb) 0 [.recalcFence t]
    | _, _ => completeAct f (t9 ta) (t9 tb) .null .null noFlags []

/-! ### Sheaf membership (R362-R364) -/

/-- JOIN (R363). -/
def execJoin (p : Pred) (tb ta : Target) (s : State) : Host.Outcome State Fault Refusal :=
  fireAct s fun f =>
    match predicateHolds p f, asScalar f.l with
    | true, some a =>
      let n := a.toNat % 4096
      if (sheafOf f.th).isSome then statusAct f (t9 ta) (t9 tb) 2 []
      else if !(sheafAt s n).live then statusAct f (t9 ta) (t9 tb) 6 []
      else statusAct f (t9 ta) (t9 tb) 0 [.joinSheaf n]
    | _, _ => completeAct f (t9 ta) (t9 tb) .null .null noFlags []

/-- LEAVE and LEAVE.EXIT (R364). -/
def execLeave (p : Pred) (exit : Bool) (tb ta : Target) (s : State) : Host.Outcome State Fault Refusal :=
  fireAct s fun f =>
    if predicateHolds p f then
      if (sheafOf f.th).isNone then statusAct f (t9 ta) (t9 tb) 6 []
      else if f.th.pins ≠ 0 ∨ f.th.opens ≠ 0 ∨ f.th.engs ≠ 0 then statusAct f (t9 ta) (t9 tb) 2 []
      else statusAct f (t9 ta) (t9 tb) 0 [.leaveSheaf exit]
    else completeAct f (t9 ta) (t9 tb) .null .null noFlags []

/-! ### Tasks and messages (R365-R369) -/

/-- SPAWN (R365). -/
def execSpawn (tb ta : Target) (s : State) : Host.Outcome State Fault Refusal :=
  fireAct s fun f =>
    match ops3 f with
    | some (entry, arg, t) =>
      if (sheafOf f.th).isNone then statusAct f (t9 ta) (t9 tb) 6 []
      else if t.toNat < f.th.ltime.toNat ∨ t = timeTop then statusAct f (t9 ta) (t9 tb) 3 []
      else statusAct f (t9 ta) (t9 tb) 0 [.spawn entry arg t]
    | none => completeAct f (t9 ta) (t9 tb) .null .null noFlags []

/-- SPAWN.AT (R365). -/
def execSpawnAt (tb ta : Target) (s : State) : Host.Outcome State Fault Refusal :=
  fireAct s fun f =>
    match ops3 f with
    | some (entry, arg, tick) =>
      if (sheafOf f.th).isNone then statusAct f (t9 ta) (t9 tb) 6 []
      else statusAct f (t9 ta) (t9 tb) 0 [.spawnAt entry arg tick]
    | none => completeAct f (t9 ta) (t9 tb) .null .null noFlags []

/-- The message of a FILL or WAKE to the target that a descriptor names (R366). -/
def messageOf (f : Fire) (d : Word) (sel : Option Nat) (v : Token) : TaskMsg :=
  let n := d.toNat
  { src := f.c, srcSlot := f.k, core := n % 4096, slot := n / 2 ^ 12 % 16, inc := n / 2 ^ 16 % 2 ^ 16,
    ack := n.testBit 50, aword := n / 2 ^ 32 % 2 ^ 18, sel := sel, value := v, time := f.th.ltime,
    sheaf := sheafOf f.th, slack := slackOf f, exh := false, col := false, fault := false }

/-- The value of a FILL for its register: a scalar for a G register, a vector for a V register (R367). -/
def fillValue (sel : Nat) (t : Token) : Option Token :=
  if sel < 16 then (asScalar t).map .scalar else if tokIsNull t then none else some (.vec (asVec t).1 (asVec t).2)

/-- FILL (R364, R367): a thread with no sheaf sends nothing. -/
def execFill (p : Pred) (fsel : BitVec 5) (s : State) : Host.Outcome State Fault Refusal :=
  fireAct s fun f =>
    match predicateHolds p f && (sheafOf f.th).isSome, asScalar f.l, fillValue fsel.toNat f.r with
    | true, some d, some v =>
      completeAct f 511 511 .null .null noFlags [.message (messageOf f d (some fsel.toNat) v)]
    | _, _, _ => completeAct f 511 511 .null .null noFlags []

/-- WAKE (R367). -/
def execWake (p : Pred) (s : State) : Host.Outcome State Fault Refusal :=
  fireAct s fun f =>
    match predicateHolds p f, asScalar f.l with
    | true, some d => completeAct f 511 511 .null .null noFlags [.message (messageOf f d none .null)]
    | _, _ => completeAct f 511 511 .null .null noFlags []

/-- PARK (R369). -/
def execPark (p : Pred) (s : State) : Host.Outcome State Fault Refusal :=
  fireAct s fun f => completeAct f 511 511 .null .null noFlags (if predicateHolds p f then [.park] else [])

/-- YLD (R369). -/
def execYld (p : Pred) (s : State) : Host.Outcome State Fault Refusal :=
  fireAct s fun f =>
    match predicateHolds p f, asScalar f.l with
    | true, some n => completeAct f 511 511 .null .null noFlags [.yield (n.toNat % 65536)]
    | _, _ => completeAct f 511 511 .null .null noFlags []

/-- YLD_EXPIRY (R369): a thread whose cycles are over goes on. -/
def execYldExpiry (core slot : Nat) (s : State) : Host.Outcome State Fault Refusal :=
  .next (run (match threadAt s core slot with
    | none => pure ()
    | some t => match t.wait with
      | .yielding n => onlyIf (decide (n ≤ s.cycle)) (goOn core slot)
      | _ => pure ()) s)

/-! ### Arrival (R166, R366-R368) -/

/-- Where the target of a message is: resident, held in a context cache, or nowhere (R367, R368). -/
inductive MsgTarget
  | resident (t : Thread)
  | cached (t : Thread)
  | nowhere

/-- The target of a message (R367, R368). -/
def msgTarget (s : State) (m : TaskMsg) : MsgTarget :=
  match threadAt s m.core m.slot with
  | some t => if t.incarn.toNat = m.inc then .resident t else
      (match (s.cores.flatMap fun x => x.2.cache).find? fun e =>
          decide (e.2.core = m.core) && decide (e.2.slot = m.slot) && decide (e.2.thread.incarn.toNat = m.inc) with
      | some e => .cached e.2.thread
      | none => .nowhere)
  | none =>
    match (s.cores.flatMap fun x => x.2.cache).find? fun e =>
        decide (e.2.core = m.core) && decide (e.2.slot = m.slot) && decide (e.2.thread.incarn.toNat = m.inc) with
    | some e => .cached e.2.thread
    | none => .nowhere

/-- The report of a message whose descriptor asks for one (R368). -/
def reportMessage (m : TaskMsg) (applied : Bool) : Act Unit :=
  onlyIf m.ack
    (if m.core = m.src ∨ 2304 ≤ m.core then later 1 4 m.src (.reportWordAdd m.src m.aword applied)
    else sendMsg m.core (.core m.src) m.slack m.exh m.src (some m.srcSlot) (.report m.src m.aword applied))

/-- A message that is dropped: MSGDROP, the −1 of a fill, the report (R368). -/
def dropMessage (c : Nat) (m : TaskMsg) : Act Unit := do
  countReg c 0x0CC8 1
  onlyIf m.sel.isSome (countAt c m.sheaf m.time (-1))
  reportMessage m false

/-- Whether the register of a fill is full in a thread (R166, R367). -/
def fillFull (t : Thread) (sel : Nat) : Bool := if sel < 16 then (gReg t (48 + sel)).2 else (vReg t (sel - 16)).2

/-- The register of a fill written (R166, R191, R367). -/
def fillInto (sel : Nat) (v : Token) (t : Thread) : Thread :=
  if sel < 16 then
    match asScalar v with
    | some w => setG (48 + sel) w true t
    | none => t
  else setV (sel - 16) (mergeReg (vReg t (sel - 16)).1 (asVec v)) true t

/-- A fill at its target: applied to an empty register, waiting at a full one, or dropped (R166, R368). -/
def applyFill (m : TaskMsg) (sel : Nat) : Act Unit := do
  let s ← look id
  let go := fun (t : Thread) =>
    if fillFull t sel then do
      let id ← freshId
      modCore m.core fun x => { x with fills := x.fills ++ [(id, m)] }
      later 7 6 (23000 + m.core) (.slackDecrement (fillBuffer m.core) id)
    else do
      onThread m.core m.slot m.inc (fillInto sel m.value)
      countAt m.core m.sheaf m.time (-1)
      reportMessage m true
  match msgTarget s m with
  | .resident t => go t
  | .cached t => go t
  | .nowhere => dropMessage m.core m

/-- FILL_ARRIVAL (R166). -/
def execFillArrival (m : TaskMsg) (s : State) : Host.Outcome State Fault Refusal :=
  .next (run (do
    onlyIf (decide (m.src ≠ m.core)) (colourReceived m.core m.col)
    match m.sel with
    | some sel => applyFill m sel
    | none => pure ()) s)

/-- Whether a fill must wait: its thread is there, and its register is full (R166). -/
def fillWaits (s : State) (m : TaskMsg) : Bool :=
  match m.sel, msgTarget s m with
  | some sel, .resident t => fillFull t sel
  | some sel, .cached t => fillFull t sel
  | _, _ => false

/-- The fills that wait at a slot and whose register is empty now are applied, in their order of arrival; the others go on
waiting (R159, R166). -/
def retryFills (c k : Nat) : Act Unit := do
  let x ← look (coreAt · c)
  each (x.fills.filter fun e => decide (e.2.slot = k)) fun e => do
    let s ← look id
    onlyIf (!fillWaits s e.2) (do
      modCore c fun x => { x with fills := x.fills.filter fun y => decide (y.1 ≠ e.1) }
      match e.2.sel with
      | some sel => applyFill e.2 sel
      | none => pure ())

/-- The WAKE that a core makes for a service fault that is still pending reaches its handler; the fault of one that has gone ends the
thread (R388, R391). -/
def faultWakes (m : TaskMsg) : Act Unit := do
  let s ← look id
  onlyIf ((creg s m.src 0x0F10).getLsbD m.srcSlot)
    (if holdsService s m.core m.slot then wakeLocal m.core m.slot
    else later 1 5 (slotPlace m.src m.srcSlot) (.fackEnd m.src m.srcSlot))

/-- WAKE_ARRIVAL (R367, R388): WAKEP is set, or a PARK ends. -/
def execWakeArrival (m : TaskMsg) (s : State) : Host.Outcome State Fault Refusal :=
  .next (run (if m.fault then faultWakes m else match msgTarget s m with
    | .resident _ => do
      wakeLocal m.core m.slot
      reportMessage m true
    | .cached _ => do
      onThread m.core m.slot m.inc fun t => { t with wakep := true }
      reportMessage m true
    | .nowhere => dropMessage m.core m) s)

/-- REPORT_WORD_ADD (R368): the report of a message is added to the issuer's word. -/
def execReportWordAdd (core aword : Nat) (applied : Bool) (s : State) : Host.Outcome State Fault Refusal :=
  .next (run (
    let off := 8 * aword
    onlyIf (decide (0x1000 ≤ off) && decide (off + 8 ≤ 0x12_7000)) (do
      let pa := cisternPa core off
      write64 pa (word64At s pa + (if applied then 1 else word (2 ^ 32)))
      fillWord pa)) s)

end Sys2Proof.Machine
end

