-- ==== Sys2Proof/Machine/Deliver.lean ====
section
/-! DEFINITION. TOKEN_DELIVERY: tokens, replies and taken values arrive at their blocks (R154, R156, R161, R254, R343). -/

namespace Sys2Proof.Machine

open Sys2Proof

/-! ### Deliveries (R154) -/

/-- The little-endian number of n bytes that have come, from an offset of an access. -/
def gotNat (got : List (Nat × Byte)) (off n : Nat) : Nat :=
  leNat ((List.range n).map fun i => ((got.find? fun g => decide (g.1 = off + i)).map (·.2)).getD 0)

/-- A command that reads its record has it (R254): bytes for the backlog counted from the record alone. -/
def copyBytes (mode : Nat) (rec : List Byte) : Nat :=
  let box := (List.range 4).map fun d => imageNat rec (0x30 + 4 * d) 4
  if mode = 3 ∨ mode = 4 then 4 * (box.getD 0 0 * box.getD 1 0)
  else
    match (box.reverse.dropWhile fun b => decide (b = 0)) with
    | [] => 0
    | bs => 4 * bs.foldl (· * ·) 1

/-- The token of an access whose bytes are all there, and the effect that it holds for the commit. -/
def accessResult (p : Pending) : Token × List Eff :=
  match p.acc.kind with
  | .load n sgn =>
    let v := gotNat p.got 0 n
    (.scalar (if sgn then BitVec.ofInt 64 (sintOf (8 * n) v) else word v), [])
  | .vload => (.vec (BitVec.ofNat 1024 (gotNat p.got 0 128)) allLive, [])
  | .gather half live =>
    let elem := fun (n w i : Nat) => if live.contains i && decide (i < n) then some (gotNat p.got (w * i) w) else none
    (if half then ofHalves ((List.range 64).map (elem 64 2)) else ofLanes ((List.range 32).map (elem 32 4)), [])
  | .table buf =>
    match tableOfImage ((List.range 276).map fun i => BitVec.ofNat 8 (gotNat p.got i 1)) with
    | some tb => (.scalar 0, [.loadTable buf tb])
    | none => (.scalar 1, [])
  | .slice sel rank nrank =>
    (.scalar (sliceValue (shapeOf ((List.range 64).map fun i => BitVec.ofNat 8 (gotNat p.got i 1))) sel rank nrank), [])
  | .copy mode tick backlog =>
    let b := copyBytes mode ((List.range 64).map fun i => BitVec.ofNat 8 (gotNat p.got i 1))
    (.scalar (word (tick + 2000 + (backlog + b + 63) / 64)), [])
  | _ => (.null, [])

/-- The command that CPY holds has its record now (R254). -/
def withRecord (i : Nat) (p : Pending) (e : Nat × Eff) : Nat × Eff :=
  match p.acc.kind, e.2 with
  | .copy mode _ _, .command c =>
    if e.1 = i then
      let rec_ := (List.range 64).map fun j => BitVec.ofNat 8 (gotNat p.got j 1)
      (e.1, .command { c with record := rec_, backlog := copyBytes mode rec_ })
    else e
  | _, _ => e

/-- An access ends: its token is delivered. -/
def endAccess (c k i : Nat) (p : Pending) (tok : Token) (effs : List Eff) : Act Unit :=
  modBlock c k fun b =>
    { dropPend i b with
      done := b.done ++ [(i, tok, tok)],
      effs := b.effs.map (withRecord i p) ++ effs.map fun e => (i, e) }

/-- Bytes arrive for an access. -/
def takeBytes (id : ExecId) (data : List (Nat × Byte)) : Act Unit := do
  let b ← look (blockAt · id.core id.slot)
  match b with
  | none => pure ()
  | some b =>
    onlyIf (decide (b.gen = id.gen))
      (match pendOf b id.idx with
      | none => pure ()
      | some p => do
        let q := { p with got := p.got ++ data, out := p.out - 1 }
        modBlock id.core id.slot (setPend id.idx q)
        onlyIf (decide (q.out = 0) && !b.stopped)
          (endAccess id.core id.slot id.idx q (accessResult q).1 (accessResult q).2))

/-- The token of a taking operation (R234, R241, R242): STS has none. -/
def takenToken (op : AccOp) (v : Word) : Token :=
  match op with
  | .sts _ => .null
  | _ => .scalar v

/-- The opcode of a taking operation (R161). -/
def takingOpcode : AccOp → Nat
  | .read => 0
  | .lds => 0x3B
  | .sts _ => 0x3C
  | .amo _ _ _ _ => 0x3D
  | .bump _ => 0x3E

/-- A latch takes a value of one of its executions (R161). -/
def latchTaken (id : ExecId) (op : AccOp) (tok : Token) (l : Latch) : Latch :=
  if l.gens.contains id.gen && l.out.contains id.idx then
    { l with vals := l.vals ++ [⟨id.idx, tok, takingOpcode op, none⟩], out := l.out.filter fun j => decide (j ≠ id.idx) }
  else l

/-- The reply of a taking operation: it is latched (R161, R386, R388), and delivered if its execution runs, or a later one
of the same block waits for it. -/
def takeValue (id : ExecId) (op : AccOp) (v : Word) : Act Unit := do
  let c := id.core
  let k := id.slot
  let t ← look (threadAt · c k)
  match t with
  | none => pure ()
  | some t =>
    let tok := takenToken op v
    modThread c k fun t => { t with retry := t.retry.map (latchTaken id op tok), trap := t.trap.map (latchTaken id op tok) }
    let mine := t.retry.elim false fun l => l.gens.contains id.gen && l.out.contains id.idx
    match t.block with
    | none => pure ()
    | some b =>
      match pendOf b id.idx with
      | none => pure ()
      | some p =>
        onlyIf (mine && decide (p.acc.op ≠ .read))
          (if b.stopped then modBlock c k (setPend id.idx { p with out := 0 })
          else endAccess c k id.idx p tok [])

/-- The reply of a cell instruction: its two results, in the order that its entry gives (R343, R348). A CRD that returns OK
acts as an acquire (R336). -/
def takeReply (r : CellReply) : Act Unit := do
  let s ← look id
  onlyIf ((blockAt s r.id.core r.id.slot).elim false fun b => decide (b.gen = r.id.gen))
    (modBlock r.id.core r.id.slot fun b => { b with asked := b.asked.filter fun a => decide (a.1 ≠ r.id.idx) })
  onlyIf (isCurrent s r.id) (do
    let w := (blockAt s r.id.core r.id.slot).elim 0 fun b => wordOf b r.id.idx
    let st := Token.scalar (word r.status)
    let addr := (opOf w = 0x79 ∨ opOf w = 0x7A) ∧ xhiOf w = 0
    let (a, b) := if opOf w = 0x7B then (r.other, st) else if addr then (st, r.other) else (st, st)
    modBlock r.id.core r.id.slot fun b' => { b' with done := b'.done ++ [(r.id.idx, a, b)] }
    onlyIf (decide (opOf w = 0x79 ∧ xhiOf w = 0) && decide (r.status = 0)) (acquireCommit r.id.core))

/-- A request that no owner answers is under way no more. -/
def noReply (id : ExecId) : Act Unit := do
  let b ← look (blockAt · id.core id.slot)
  onlyIf (b.elim false fun b => decide (b.gen = id.gen))
    (modBlock id.core id.slot fun b => match pendOf b id.idx with
      | some p => setPend id.idx { p with out := p.out - 1 } b
      | none => b)

/-- What comes for an execution. -/
def deliver (d : Delivery) : Act Unit := do
  let s ← look id
  match d with
  | .tokens id a b =>
    onlyIf (isCurrent s id) (modBlock id.core id.slot fun x => { x with done := x.done ++ [(id.idx, a, b)] })
  | .bytes id data => takeBytes id data
  | .taken id op v => takeValue id op v
  | .cell r => takeReply r
  | .noMemory id off => do
    let va := ((blockAt s id.core id.slot).bind (pendOf · id.idx)).elim 0 fun p => vaAt p.acc off
    takingEnds id
    noReply id
    raiseFor id 0x11 3 va
  | .engine e a => engineAnswer e a

/-- TOKEN_DELIVERY (R154): tokens, bytes or a taken value arrive at their block; a block that is complete goes on to its
commit (R156). What comes for an engine, a walker or a launch unit concerns no block. -/
def execTokenDelivery (d : Delivery) (s : State) : Host.Outcome State Fault Refusal :=
  .next (run (do
    deliver d
    match d with
    | .engine _ _ => pure ()
    | _ => checkComplete (deliveryId d).core (deliveryId d).slot) s)

end Sys2Proof.Machine
end

