-- ==== Sys2Proof/Machine/Blocks.lean ====
section
/-! DEFINITION. Loading a block: the fetch of its words, the check of the whole block with its reasons (R126-R143), and
BLOCK_LOAD. -/

namespace Sys2Proof.Machine

open Sys2Proof

/-! ### The check of a block (R133-R142) -/

/-- The words of a block as they are checked, with its header, store mask and address. -/
structure Image where
  header : Nat
  mask : Nat
  addr : Nat
  words : List Nat
  frame : Bool
  latched : List (Nat × Nat)

def Image.word (b : Image) (i : Nat) : Nat := b.words.getD i 0
def Image.range (b : Image) : List Nat := List.range b.words.length

/-- How many of the words satisfy p. -/
def countWords (p : Nat → Bool) (ws : List Nat) : Nat := (ws.filter p).length

/-- NWR of a header (R126). -/
def nwrOf (h : Nat) : Nat := h / 2 ^ 15 % 64
/-- COUNT of a header (R126). -/
def countOf (h : Nat) : Nat := h / 2 ^ 21 % 128
def loopEndOf (h : Nat) : Bool := h / 2 ^ 14 % 2 = 1

/-- The store mask that the stores of a block make (R126). -/
def storeMask (ws : List Nat) : Nat :=
  ws.foldl (fun m w => if inStoreMask w then m ||| 2 ^ (wordLsid w).getD 0 else m) 0

/-- The lowest reason of index 0xFF (R140, R141). -/
def headerReason (b : Image) : Option Nat :=
  let h := b.header
  if h / 2 ^ 28 ≠ 10 then some 0
  else if h % 2 ^ 14 ≠ 0 ∨ 32 < nwrOf h then some 1
  else if b.addr % 8 ≠ 0 then some 2
  else if nwrOf h ≠ countWords isWr b.words then some 11
  else if storeMask b.words ≠ b.mask then some 12
  else if !b.words.any isExit then some 14
  else if loopEndOf h && !b.frame then some 16
  else none

/-- The targets of a word. An HNT has none (R142, R173). -/
def blockTargets (w : Nat) : List TargetField := if isHint w then [] else wordTargets w

/-- The reason of a target of instruction i, if it is not valid (R131-R133). -/
def targetReason (b : Image) (i : Nat) : TargetField → Option Nat
  | .none => none
  | .reserved => some 6
  | .slot j k =>
    if j ≤ i ∨ b.words.length ≤ j then some 7 else if (usedSlots (b.word j)).contains k then none else some 8

/-- Whether a list of targets names a slot twice (R133). -/
def namesTwice : List TargetField → Bool
  | [.slot a k, .slot c l] => decide (a = c) && decide (k = l)
  | _ => false

/-- How many targets name a slot (R133). DESIGN CHOICE (log entry 143): a target that is itself invalid counts here, and feeds nothing
in `vectorResults` and `fedFrom`. -/
def producersOf (b : Image) (i : Nat) (k : SlotKind) : Nat :=
  b.words.foldl (fun n w => n + (blockTargets w).countP fun t => decide (t = .slot i k)) 0

/-- The register selector of a word with format G, decoded (R134). -/
def selectorOk (w : Nat) : Bool :=
  match opOf w with
  | 0x0D => isReadable (regOf w)
  | 0x0E => isTestable (regOf w)
  | 0x0F => isWritable (regOf w)
  | _ => true

/-- The Q register that CHB, CHU or STR names (R277). -/
def boundQ (w : Nat) : Option Nat :=
  let op := opOf w
  if op = 0x6C || op = 0x6D || op = 0x6E then some (xhiOf w) else none
/-- The Q register that RD, RDT or WR names. -/
def accessedQ (w : Nat) : Option Nat :=
  if (isRead w || isWr w) && regClass w = 3 then some (regNum w) else none

/-- Whether a word before index i satisfies p. -/
def before (b : Image) (i : Nat) (p : Nat → Bool) : Bool := (b.words.take i).any p

/-- A Q register bound and accessed, the other of the two standing before (R277). -/
def bindClash (b : Image) (i : Nat) : Bool :=
  let w := b.word i
  (match boundQ w with
    | some q => before b i fun v => decide (accessedQ v = some q)
    | none => false) ||
  (match accessedQ w with
    | some q => before b i fun v => decide (boundQ v = some q)
    | none => false)

def isCallWord (w : Nat) : Bool := opOf w = 0x03 || opOf w = 0x04
def isWriteG63 (w : Nat) : Bool := isWr w && regClass w = 0 && regNum w = 63

/-- Reason 11 at an instruction (R139, R175). -/
def registerLimit (b : Image) (i : Nat) : Bool :=
  let w := b.word i
  let first := b.words.take i
  (isWr w && (first.any (fun v => isWr v && w / 2 ^ 16 % 512 = v / 2 ^ 16 % 512) || decide (32 ≤ countWords isWr first))) ||
    (isRead w && decide (32 ≤ countWords isRead first)) ||
    (isCallWord w && first.any isWriteG63) || (isWriteG63 w && first.any isCallWord)

/-- The instructions with a vector-valued result, a MOV or SEL that passes one on included (R139). DESIGN CHOICE (log entry 143): a target
that points backward feeds nothing. -/
def vectorResults (b : Image) : List Nat :=
  b.range.foldl (fun acc i =>
    let w := b.word i
    let fed := acc.any fun j => (blockTargets (b.word j)).any fun t =>
      decide (t = .slot i 0) || decide (t = .slot i 1)
    if hasVectorResult w || ((opOf w = 0x0B || opOf w = 0x1F) && fed) then acc ++ [i] else acc) []

/-- Reason 13 at an instruction (R139, R361). -/
def kindLimit (b : Image) (i : Nat) : Bool :=
  let w := b.word i
  let first := b.words.take i
  ((vectorResults b).drop 32).contains i || (isEngine w && decide (2 ≤ countWords isEngine first)) ||
    (isTaking w && decide (8 ≤ countWords isTaking first)) || (isTime w && decide (1 ≤ countWords isTime first))

/-- The words of the run of HNTs that follows index i, and the word behind it. -/
def hintRun : List Nat → List Nat × Option Nat
  | [] => ([], none)
  | w :: ws => if isHint w then let r := hintRun ws; (w :: r.1, r.2) else ([], some w)

/-- Whether the HNT at an index is misplaced (R142). -/
def hintMisplaced (b : Image) (i : Nat) : Bool :=
  let w := b.word i
  let r := hintRun (b.words.drop (i + 1))
  decide (taOf w ≠ 511) || r.1.any (fun v => decide (hintKind v = hintKind w)) ||
    r.2.elim true fun v => !acceptsHint v (hintKind w)

/-- The instructions that a token of instruction p reaches through any chain of targets. DESIGN CHOICE (log entry 143): one that points
backward reaches nothing. -/
def fedFrom (b : Image) (p : Nat) : List Nat :=
  b.range.foldl (fun acc j =>
    if decide (j = p) || acc.any (fun a => (blockTargets (b.word a)).any fun t => match t with
      | .slot x _ => decide (x = j)
      | _ => false) then acc ++ [j] else acc) []

/-- Reason 17 at an LPB (R139, R170). -/
def loopFeedsExit (b : Image) (i : Nat) : Bool :=
  loopEndOf b.header && b.words.any isLpx && decide (opOf (b.word i) = 0x06) &&
    (fedFrom b i).any fun j => isExit (b.word j)

/-- The reason that the word alone gives (R138, R140). -/
def wordReason (b : Image) (i : Nat) : Option Nat :=
  match readFields (b.word i) with
  | .error e => some e.reason
  | .ok _ => none

/-- Whether a latched index no longer holds the taking operation that took its value (R143). -/
def latchGone (b : Image) (i : Nat) : Bool :=
  b.latched.any fun v => decide (v.1 = i) && (!isTaking (b.word i) || decide (v.2 ≠ 0 ∧ v.2 ≠ opOf (b.word i)))

/-- Every reason of an instruction (R140, R143). -/
def reasonsAt (b : Image) (i : Nat) : List Nat :=
  let w := b.word i
  let ts := blockTargets w
  let on := fun (c : Bool) (r : Nat) => if c then [r] else []
  (wordReason b i).toList ++ on (latchGone b i) 4 ++ ts.filterMap (targetReason b i) ++ on (namesTwice ts) 8 ++
    on ((usedSlots w).any fun k => decide (producersOf b i k = 0) || decide (4 < producersOf b i k)) 9 ++
    on (!selectorOk w || bindClash b i) 10 ++ on (registerLimit b i) 11 ++
    on ((wordLsid w).elim false fun n => before b i fun v => decide (wordLsid v = some n)) 12 ++
    on (kindLimit b i) 13 ++ on (isHint w && hintMisplaced b i) 15 ++ on (loopFeedsExit b i) 17

/-- The least of a list. -/
def leastOf : List Nat → Option Nat
  | [] => none
  | n :: ns => some ((leastOf ns).elim n (min n))

/-- The violation that an illegal block reports: reason and index (R140, R141). A latched index behind the end of the block
is one more place where the taking operation is gone (R143). -/
def checkBlock (b : Image) : Option (Nat × Nat) :=
  match headerReason b with
  | some r => some (r, 0xFF)
  | none =>
    match b.range.findSome? fun i => (leastOf (reasonsAt b i)).map fun r => (r, i) with
    | some x => some x
    | none => (leastOf ((b.latched.map (·.1)).filter fun i => decide (b.words.length ≤ i))).map fun i => (4, i)

/-! ### The fetch (R127, R140, R143) -/

/-- The result of a fetch: bytes, a miss on a page, bytes of another node to be asked for, or a fault at an address. -/
inductive Fetched
  | ok (bytes : List Byte)
  | miss (page : Nat)
  | ask (pas : List Nat)
  | bad (cause reason va : Nat)

/-- A byte of code of another node (R323): it has come, could not be reached after all, or is to be asked for. -/
def fabricByte (x : Xfer) (pa va : Nat) : Fetched :=
  if x.lost.contains pa then .bad 0x11 3 va
  else match x.got.find? fun g => decide (g.1 ≤ pa) && decide (pa < g.1 + g.2.length) with
    | some g => .ok [g.2.getD (pa - g.1) 0]
    | none => .ask [pa]

/-- One byte of code: it needs X of its page (R222). -/
def fetchByte (s : State) (c k asid : Nat) (x : Xfer) (va : Nat) : Fetched :=
  match translate s c k asid ⟨false, false, true⟩ va with
  | .miss p => .miss p
  | .bad cause reason => .bad cause reason va
  | .span y =>
    match paDenied s y 1 false (y.loc && decide (va < 0x1000)) with
    | some r => .bad 0x11 r va
    | none =>
      match ownerOf s y.pa with
      | .fabric n a => if reaches s c (.fabric n a) then fabricByte x y.pa va else .bad 0x11 3 va
      | o => if reaches s c o then .ok [byteAt s (localPa s y.pa)] else .bad 0x11 3 va

/-- What a fetch finds behind a byte that has come, or behind bytes that are asked for. -/
def thenFetch : Fetched → Fetched → Fetched
  | .ok b, .ok bs => .ok (b ++ bs)
  | .ok _, r => r
  | .ask l, .ask m => .ask (l ++ m)
  | r, _ => r

/-- n bytes of code from an address; a fault carries the address of the first byte that fails. -/
def fetchBytes (s : State) (c k asid : Nat) (x : Xfer) (va : Nat) : Nat → Fetched
  | 0 => .ok []
  | n + 1 => thenFetch (fetchByte s c k asid x (va % 2 ^ 64)) (fetchBytes s c k asid x (va + 1) n)

/-- Bytes as little-endian words (R1). -/
def wordsOf : List Byte → List Nat
  | a :: b :: c :: d :: rest => leNat [a, b, c, d] :: wordsOf rest
  | _ => []

/-- The header and the words of the block at an address (R126, R127). -/
def fetchBlockAt (s : State) (c k asid : Nat) (x : Xfer) (va : Nat) : Fetched :=
  match fetchBytes s c k asid x va 8 with
  | .ok hd => thenFetch (.ok hd) (fetchBytes s c k asid x (va + 8) (4 * (countOf (leNat (hd.take 4)) + 1)))
  | r => r

/-- The requests for single bytes: runs of consecutive addresses, cut at the granules. -/
def runsOf (pas : List Nat) : List (Nat × Nat) := requestsFor (pas.foldl (fun l p => addByte 0 p p l) [])

/-- What has come of the block at a thread's next address; what belonged to another address is dropped. -/
def fetchOf (t : Thread) : Xfer :=
  if t.fetch.reads = [⟨t.next.toNat, 0, 0⟩] then t.fetch else { Xfer.none with reads := [⟨t.next.toNat, 0, 0⟩] }

/-- The load of a block asks another node for bytes of it (R309, R323): a request for each granule. -/
def askCode (c k : Nat) (t : Thread) (pas : List Nat) : Act Unit := do
  let n ← freshId
  let reqs := runsOf pas
  let e := Engine.loader c k n
  modThread c k fun t => { t with fetch := { fetchOf t with asked := n, out := reqs.length } }
  each reqs fun q => do
    let s ← look id
    let r : Req := ⟨⟨c, k, 0, 0⟩, .read, (List.range q.2).map fun i => (i, q.1 + i), t.slack.toNat % 256, false, .none, .own, some e⟩
    sendToOwner c k (ownerOf s q.1) (t.slack.toNat % 256) false (.access r) (pure ())

/-! ### BLOCK_LOAD (R140, R153, R161, R162) -/

/-- The latch of a block that loads: kept over a re-execution, new otherwise (R161, R162). -/
def latchAtLoad (t : Thread) (gen : Nat) : Latch :=
  match t.retry with
  | some l => { l with addr := t.next, ltime := t.ltime, gens := l.gens ++ [gen] }
  | none => ⟨t.next, t.ltime, [gen], [], []⟩

/-- A block as it loads: nothing has fired (R153). -/
def loadedBlock (t : Thread) (gen header : Nat) (words : List Nat) : Block :=
  { gen := gen, addr := t.next, header := BitVec.ofNat 32 header, words := words.map (BitVec.ofNat 32),
    sheaf := sheafOf t, fired := [], done := [], exit := none, effs := [], flags := noFlags, pend := [], jobs := [],
    resv := [], asked := [], stopped := false }

/-- The check and the load of a block whose words have been fetched (R140). -/
def loadWords (c k : Nat) (t : Thread) (ws : List Nat) : Act Unit := do
  let header := ws.getD 0 0
  let words := ws.drop 2
  let img : Image :=
    { header := header, mask := ws.getD 1 0, addr := t.next.toNat, words := words, frame := !t.frames.isEmpty,
      latched := t.retry.elim [] fun l => l.vals.map fun v => (v.idx, v.op) }
  match checkBlock img with
  | some (reason, index) => raise c k ⟨0x12, reason, index, 0⟩
  | none =>
    modSlot c k fun x =>
      { x with
        gens := x.gens + 1,
        thread := some { t with
          fetch := Xfer.none, retry := some (latchAtLoad t x.gens), block := some (loadedBlock t x.gens header words) } }

/-- BLOCK_LOAD (R140): the block at the thread's next address is fetched, checked and loaded. -/
def execBlockLoad (core slot : Nat) (s : State) : Host.Outcome State Fault Refusal :=
  .next (run (match threadAt s core slot with
    | none => pure ()
    | some t =>
      onlyIf (t.block.isNone && decide (t.wait = .nothing) && !isFenced s core && decide ((fetchOf t).out = 0))
        (match fetchBlockAt s core slot t.asid (fetchOf t) t.next.toNat with
        | .ok bs => loadWords core slot t (wordsOf bs)
        | .ask pas => askCode core slot t pas
        | .miss page => joinWalk core t.asid page slot (.load t.next)
        | .bad cause reason va => raise core slot ⟨cause, reason, 0xFF, word va⟩)) s)

end Sys2Proof.Machine
end

