-- ==== Sys2Proof/Machine/SysSpace.lean ====
section
/-! DEFINITION. System space: its map, what a read returns, the status that a write gets, and SYSR and SYSW (R5, R7, R237,
R262, R281, R315, R323, R340, R347, R402-R404, R417-R419). -/

namespace Sys2Proof.Machine

open Sys2Proof

/-! ### The map (R402) -/

/-- A place of system space. -/
inductive SysPlace
  | module (off : Nat)
  | core (c off : Nat)
  | cell (c i w : Nat)
  | record (q w : Nat)
  | sheaf (n w : Nat)
  | cistern (off : Nat)
  | nothing
  deriving DecidableEq, Repr

/-- The place of an offset (R402). -/
def sysPlace (off : Nat) : SysPlace :=
  if off < 0x100_0000 then .module off
  else if off < 0x100_0000 + 0x1_0000 * 2304 then .core ((off - 0x100_0000) / 0x1_0000) ((off - 0x100_0000) % 0x1_0000)
  else if 0xA00_0000 ≤ off && off < 0xA00_0000 + 0x2000 * 2304 then
    .cell ((off - 0xA00_0000) / 0x2000) (off % 0x2000 / 128) (off % 128 / 8)
  else if 0xB80_0000 ≤ off && off < 0xB80_4000 then .record ((off - 0xB80_0000) / 64) (off % 64 / 8)
  else if 0xB90_0000 ≤ off && off < 0xB94_0000 then .sheaf ((off - 0xB90_0000) / 64) (off % 64 / 8)
  else if 0xFF2_7000 ≤ off && off < 0xFF4_0000 then .cistern (off - 0xFE0_0000)
  else .nothing

/-- The kinds of access (R5). -/
inductive RegKind | ro | rw | wo | rc | w1c
  deriving DecidableEq, Repr

/-- A register: its access and the bits that are not reserved (R7). -/
structure RegInfo where
  kind : RegKind
  mask : Word

def rw (m : Nat) : Option RegInfo := some ⟨.rw, word m⟩
def ro : Option RegInfo := some ⟨.ro, timeTop⟩
def rc : Option RegInfo := some ⟨.rc, timeTop⟩
def wo : Option RegInfo := some ⟨.wo, timeTop⟩

/-- The bits of a number from lo to hi. -/
def bitsTo (hi lo : Nat) : Nat := 2 ^ (hi + 1) - 2 ^ lo

/-- The module registers (R90, R221, R227, R237, R323, R347, R400, R417). -/
def moduleReg (off : Nat) : Option RegInfo :=
  if 0x1000 ≤ off && off < 0x1800 then rw (bitsTo 51 12 + 1)
  else if 0x1_0000 ≤ off && off < 0x1_1000 then (if off % 16 = 0 then wo else ro)
  else if 0x2_0000 ≤ off && off < 0x2_1000 then
    (if off % 0x100 = 0 then ro else if off % 0x100 ≤ 0x28 then rc else none)
  else if 0x3_0000 ≤ off && off < 0x3_8000 then rw 0xFFFF
  else
    match off with
    | 0x0400 => rw 0xFFFFFFFF
    | 0x0408 => rc
    | 0x0410 => rw 0xFFF
    | 0x0420 => rw (bitsTo 51 12 + 0xF)
    | 0x0428 => rw (2 ^ 63 + 0xFFFF)
    | 0x0800 => rw (bitsTo 55 16)
    | 0x0808 => rw 0xFFFF03FF
    | 0x0810 => rw 0xF
    | 0x0820 => rw 0x7FFF
    | 0x0900 => rw 3
    | 0x0908 => rw (bitsTo 51 5)
    | 0x0910 => rw 0x1F
    | 0x0918 => ro
    | 0x0920 => ro
    | 0x0928 => rc
    | 0x0930 => ro
    | 0x0938 => ro
    | 0x0940 => rw (bitsTo 51 12 + 1)
    | 0x0948 => rc
    | _ => none

/-- The core registers (R237, R262, R281, R315, R340, R347, R389, R403, R419). -/
def coreReg (off : Nat) : Option RegInfo :=
  if 0x0400 ≤ off && off < 0x0C00 then
    (match off % 32 with
    | 0 => rw (2 ^ 33 - 1)
    | 16 => rw (2 ^ 64 - 1)
    | _ => ro)
  else if 0x0E00 ≤ off && off < 0x0E80 then rc
  else if 0x1000 ≤ off && off < 0x1400 then ro
  else
    match off with
    | 0x0200 => rw 0xFFFF
    | 0x0208 => rw 3
    | 0x0210 => rw 0x1FFFFF
    | 0x0218 => rw 0x1FFFFF
    | 0x0220 => ro
    | 0x0228 => rc
    | 0x0230 => rc
    | 0x0238 => rc
    | 0x0240 => rw 0xFFFFFFFF
    | 0x0C00 => rc
    | 0x0C08 => rc
    | 0x0C10 => rc
    | 0x0C40 => ro
    | 0x0C48 => ro
    | 0x0C50 => ro
    | 0x0C80 => rw 1
    | 0x0C88 => rc
    | 0x0C90 => rw 0xFFFF
    | 0x0C98 => rc
    | 0x0CA0 => rc
    | 0x0CA8 => rc
    | 0x0CB0 => ro
    | 0x0CB8 => ro
    | 0x0CC0 => rc
    | 0x0CC8 => rc
    | 0x0E80 => rc
    | 0x0E88 => rc
    | 0x0E90 => rc
    | 0x0E98 => rc
    | 0x0EA0 => rc
    | 0x0EA8 => rc
    | 0x0EB0 => rc
    | 0x0EB8 => rc
    | 0x0EC0 => rc
    | 0x0EC8 => ro
    | 0x0F00 => rw 0xFF1F
    | 0x0F08 => rw (2 ^ 64 - 1)
    | 0x0F10 => ro
    | 0x0F18 => wo
    | 0x0F20 => rw 0xFFFFFFFF
    | 0x0F28 => rw 0xFFFF
    | 0x0F30 => rw 0xFFFFFFFF
    | 0x0F38 => rw (bitsTo 51 21)
    | 0x0F40 => ro
    | 0x0F48 => wo
    | 0x0F50 => wo
    | 0x0F58 => rc
    | _ => none

/-- The register at a place, none where there is no register. A byte of the issuing core's cistern is there only for a
thread. -/
def sysReg (p : SysPlace) (thread : Bool) : Option RegInfo :=
  match p with
  | .module off => moduleReg off
  | .core _ off => coreReg off
  | .cell _ _ w => if w ≤ 8 then rw (2 ^ 64 - 1) else none
  | .record _ _ => ro
  | .sheaf _ w =>
    match w with
    | 0 => some ⟨.w1c, 7⟩
    | 1 => rc
    | _ => ro
  | .cistern _ => if thread then rw (2 ^ 64 - 1) else none
  | .nothing => none

/-! ### Queue records (R92, R93) -/

/-- The replica of a record that a die holds. -/
def recOn (s : State) (d q : Nat) : QueueRec := mget QueueRec.reset (dieAt s d).recs q

/-- The newer of two replicas, their versions counted modulo 2^32. -/
def newerRec (a b : QueueRec) : QueueRec :=
  let d := (b.version + 2 ^ 32 - a.version) % 2 ^ 32
  if 0 < d ∧ d < 2 ^ 31 then b else a

/-- The record of a queue as its owner holds it: the newest replica, the owner's among equals (R93). -/
def queueRec (s : State) (q : Nat) : QueueRec :=
  let r := newerRec (newerRec (newerRec (recOn s 0 q) (recOn s 1 q)) (recOn s 2 q)) (recOn s 3 q)
  if (recOn s r.owner q).version = r.version then recOn s r.owner q else r

/-- The doorbell of a queue (R90), when an offset of the control window is one. -/
def doorbellOf (off : Nat) : Option Nat :=
  if 0x1_0000 ≤ off ∧ off < 0x1_1000 ∧ off % 16 = 0 then some ((off - 0x1_0000) / 16) else none

/-- The place in a cycle of an update of a queue that comes from a die (R93): updates over the bridge west of the owner die come
first, then those over the bridge east, then those from the owner die. -/
def placeFrom (d owner : Nat) : Nat := 60000 + (if d < owner then 0 else if owner < d then 1 else 2)
def updatePlace (s : State) (d q : Nat) : Nat := placeFrom d (queueRec s q).owner

/-- Word w of a record (R92). -/
def recordWord (r : QueueRec) (w : Nat) : Word :=
  match w with
  | 0 => word (r.bfq + (if r.bfen then 2 ^ 8 else 0) + r.age * 2 ^ 9 + r.state * 2 ^ 13 + r.prio * 2 ^ 16 +
      r.owner * 2 ^ 18 + r.logsz * 2 ^ 20 + r.base * 2 ^ 24)
  | 1 => word (r.rdidx + r.wridx * 2 ^ 32)
  | 2 => word (r.host * 2 ^ 16 + r.version * 2 ^ 32)
  | 3 => word r.waddr
  | 4 => r.waitval
  | 5 => word (r.errcnt + r.inflt * 2 ^ 16 + r.aidx * 2 ^ 32)
  | _ => 0

/-- QSTq (R90). -/
def statusWord (s : State) (q : Nat) : Word :=
  let r := queueRec s q
  word (r.rdidx + r.state * 2 ^ 32 + mget 0 s.qerr q * 2 ^ 36)

/-! ### Reads -/

/-- PSTATp (R322, R323). -/
def portStatus (s : State) (p : Nat) : Word :=
  word ((if (portAt s p).up then 1 else 0) + (if (portAt s p).training then 2 else 0))

/-- A module register as it reads. -/
def readModule (s : State) (off : Nat) : Word :=
  if 0x1_0000 ≤ off && off < 0x1_1000 then statusWord s ((off - 0x1_0000) / 16)
  else if 0x2_0000 ≤ off && off < 0x2_1000 && off % 0x100 = 0 then portStatus s ((off - 0x2_0000) / 0x100)
  else mreg s off

/-- A word of a semaphore (R262). -/
def semWord (x : Sem) (w : Nat) : Word :=
  match w with
  | 0 => word (x.count.toNat + if x.covf then 2 ^ 32 else 0)
  | 1 => word (x.short.toNat + (if x.clip then 2 ^ 48 else 0) + if x.fovf then 2 ^ 63 else 0)
  | 2 => x.fault
  | _ => 0

/-- MSTGV (R281): the staged slots that are claimed or hold a command. -/
def stagedMask (s : State) (c : Nat) : Word :=
  let held := (coreAt s c).mu.staged.filterMap fun e => if e.2.cmd.isSome then some e.1 else none
  let claimed := (coreEffs s c).filterMap fun e => match e.2 with
    | .stage n _ => some n
    | _ => none
  word ((List.range 4).foldl (fun m n => if (held ++ claimed).contains n then m + 2 ^ n else m) 0)

/-- A word of a resume record (R281, R303). -/
def resumeWord (r : ResumeRec) (w : Nat) : Word :=
  match w with
  | 0 => r.addr
  | 1 => r.ctl
  | 2 => r.scale
  | _ => word ((if r.valid then 2 ^ 63 else 0) + (if r.scaled then 2 ^ 9 else 0) + r.prog)

/-- BUBBLES (R419): the cycles so far less those in which the core issued and those already read and cleared; it stops at its largest
value. -/
def bubblesAt (s : State) (c : Nat) : Nat := min (2 ^ 64 - 1) (coreCycle s c - (coreAt s c).busy)
def bubbles (s : State) (c : Nat) : Word := word (bubblesAt s c)

/-- CTXSTAT (R403). -/
def cacheMask (s : State) (c : Nat) : Word := word ((coreAt s c).cache.foldl (fun m e => m + 2 ^ e.1) 0)

/-- A core register as it reads. -/
def readCore (s : State) (c off : Nat) : Word :=
  if 0x0400 ≤ off && off < 0x0C00 then semWord (semAt (coreAt s c) ((off - 0x0400) / 32)) (off % 32 / 8)
  else if 0x1200 ≤ off && off < 0x1400 then
    resumeWord (mget ResumeRec.reset (coreAt s c).mu.resume ((off - 0x1200) / 32)) (off % 32 / 8)
  else
    match off with
    | 0x0C48 => word (coreAt s c).mu.queue.length
    | 0x0C50 => stagedMask s c
    | 0x0EA8 => bubbles s c
    | 0x0F40 => cacheMask s c
    | _ => creg s c off

/-- The control word of a cell entry (R402). -/
def controlWord (e : CellEntry) : Word :=
  let tag := match e.writer with
    | some (c, k, inc) => c * 2 ^ 32 + k * 2 ^ 44 + inc * 2 ^ 48
    | none => 0
  word (tag + if e.valid then 1 else 0)

/-- A word of a sheaf record (R418). -/
def sheafWord (x : Sheaf) (w : Nat) : Word :=
  match w with
  | 0 => x.flags
  | 1 => x.errEvents
  | 2 => x.front
  | 3 => if x.live then 1 else 0
  | _ => 0

/-- The 8 bytes at a place of system space; a write-only register reads 0 (R5). -/
def readPlace (s : State) (core : Nat) : SysPlace → Word
  | .module off => if moduleReg off |>.elim true fun r => decide (r.kind = .wo) then 0 else readModule s off
  | .core c off => if coreReg off |>.elim true fun r => decide (r.kind = .wo) then 0 else readCore s c off
  | .cell c i w =>
    let e := cellAt (coreAt s c) i
    if w = 8 then controlWord e else descWord s c e w
  | .record q w => recordWord (queueRec s q) w
  | .sheaf n w => sheafWord (sheafAt s n) w
  | .cistern x => word64At s (cisternPa core x)
  | .nothing => 0

/-- An RC register is reduced by a value that has been read from it (R5, R404). -/
def reducePlace (v : Word) : SysPlace → Act Unit
  | .module off => do
    let x ← look (mreg · off)
    emit (.mreg off (x - v))
  | .core c off => do
    let s ← look id
    if off = 0x0EA8 then modCore c fun x => { x with busy := coreCycle s c - (bubblesAt s c - v.toNat) }
    else setCreg c off (creg s c off - v)
  | .sheaf n _ => modSheaf n fun x => { x with errEvents := x.errEvents - v }
  | _ => pure ()

/-! ### The status of a write (R390, R402-R404) -/

/-- Whether a write of FACK is refused (R390). -/
def fackRefused (s : State) (c : Nat) (v : Word) : Bool :=
  decide (v.toNat / 16 % 4 = 3) || !(creg s c 0x0F10).getLsbD (v.toNat % 16)

/-- Whether a write of SVCCFG is refused (R403): slot 15 is Reserved or Running, as it is too while a service thread runs to
its end after a write of SLOT15 = 0 (R391). -/
def svcRefused (s : State) (c : Nat) (v : Word) : Bool :=
  let x := slotAt s c 15
  v.getLsbD 0 && (decide (x.state = .running ∨ x.state = .reserved) || (x.thread.isSome && !(creg s c 0x0F00).getLsbD 0))

/-- Whether a write of CTXOUT is refused (R399): the entry's thread has commands running or buffers open, or there is no
thread. -/
def ctxoutRefused (s : State) (c : Nat) (v : Word) : Bool :=
  match (coreAt s c).cache.find? fun e => decide (e.1 = v.toNat % 32) with
  | some e => decide (e.2.thread.engs ≠ 0) || decide (e.2.thread.opens ≠ 0)
  | none => true

/-- The Free slots of a core, in ascending order (R109, R110). -/
def freeSlots (s : State) (c : Nat) : List Nat :=
  (List.range 16).filter fun k => decide ((slotAt s c k).state = .free)

/-- Whether a write to a cell entry is refused (R48, R402). -/
def cellRefused (s : State) (c i w : Nat) (v : Word) : Bool :=
  let x := coreAt s c
  let e := cellAt x i
  if w < 8 then e.valid
  else if v = 1 then !e.valid && decide (e.fmt = 0xF)
  else if v = 0 then
    e.valid && (decide (e.pinX ≠ 0) || decide (e.pinY ≠ 0) || e.wopen || !(tasksOf x i).isEmpty)
  else true

/-- Whether a write by a thread is refused with status 3. -/
def refusedPlace (s : State) (v : Word) : SysPlace → Bool
  | .module off => decide (off = 0x0410 ∨ off = 0x0900)
  | .core c off =>
    match off with
    | 0x0F00 => svcRefused s c v
    | 0x0F18 => fackRefused s c v
    | 0x0F48 => ctxoutRefused s c v
    | 0x0F50 => (freeSlots s c).isEmpty
    | _ => false
  | .cell c i w => cellRefused s c i w v
  | _ => false

/-- The status of a read (R404). -/
def readStatus (off : Nat) : Nat :=
  if off % 8 ≠ 0 then 2 else if (sysReg (sysPlace off) true).isNone then 1 else 0

/-- The status of a write by a thread (R404). -/
def writeStatus (s : State) (off : Nat) (v : Word) : Nat :=
  if readStatus off ≠ 0 then readStatus off else if refusedPlace s v (sysPlace off) then 3 else 0

/-! ### SYSR and SYSW (R404) -/

/-- The core whose system space an offset lies in, if it is one's. -/
def placeCore : SysPlace → Option Nat
  | .core c _ => some c
  | .cell c _ _ => some c
  | _ => none

/-- A system instruction of a thread that is no service thread raises the permission fault (R402). -/
def serviceOnly (f : Fire) (ta tb : Nat) (k : Act Unit) : Act Unit :=
  if f.th.service then k
  else do
    takeTurn f ta tb noFlags []
    raise f.c f.k ⟨0x11, 7, f.i, (asScalar f.l).getD 0⟩

/-- SYSR (R404): an RC register is reduced at the commit. -/
def execSysr (p : Pred) (tb ta : Target) (s : State) : Host.Outcome State Fault Refusal :=
  fireAct s fun f =>
    match predicateHolds p f, asScalar f.l with
    | true, some a =>
      serviceOnly f (t9 ta) (t9 tb) (
        let off := a.toNat % 2 ^ 28
        let st := readStatus off
        let place := sysPlace off
        let v := if st = 0 then readPlace s f.c place else 0
        let clears := (sysReg place true).elim false fun r => decide (r.kind = .rc)
        completeAct f (t9 ta) (t9 tb) (.scalar v) (.scalar (word st)) noFlags
          (if st = 0 && clears && decide (v ≠ 0) then [.readReduce off v] else []))
    | _, _ => completeAct f (t9 ta) (t9 tb) .null .null noFlags []

/-- SYSW (R404): the status is decided when it fires, the write follows at the commit. -/
def execSysw (p : Pred) (ta : Target) (s : State) : Host.Outcome State Fault Refusal :=
  fireAct s fun f =>
    match predicateHolds p f, asScalar f.l, asScalar f.r with
    | true, some a, some v =>
      serviceOnly f (t9 ta) 511 (
        let off := a.toNat % 2 ^ 28
        let st := writeStatus s off v
        completeAct f (t9 ta) 511 (.scalar (word st)) .null noFlags (if st = 0 then [.systemWrite off v] else []))
    | _, _, _ => completeAct f (t9 ta) 511 .null .null noFlags []

end Sys2Proof.Machine
end

