-- ==== Sys2Proof/Machine/Deque.lean ====
section
/-! DEFINITION. The deques (R114, R116) and the arming of the timer wheels (R104). -/

namespace Sys2Proof.Machine

open Sys2Proof

/-! ### The deque of a core (R114, R116) -/

/-- The physical address of an entry of the spill ring. -/
def spillPa (c i : Nat) : Nat := cisternPa c (0x12_8000 + 32 * (i % 1024))

/-- An entry written to memory (R116). -/
def writeEntry (pa : Nat) (e : DequeEntry) : Act Unit := do
  write64 pa e.entry
  write64 (pa + 8) e.ltime
  write64 (pa + 16) e.arg
  writeNat (pa + 24) 8 (e.sheaf % 4096)

/-- An entry read from memory (R116), with its colour, which the ring has no place for (R86). -/
def readEntry (s : State) (col : Bool) (pa : Nat) : DequeEntry :=
  ⟨word64At s pa, word64At s (pa + 8), word64At s (pa + 16), natAt s (pa + 24) 2 % 4096, col⟩

/-- The entries of a logical deque. -/
def dequeSize (x : Core) : Nat := x.spillCount + x.deque.length

/-- The n oldest entries of the hardware deque go to the spill ring as one batch. -/
def spillOldest (c n : Nat) : Act Unit := do
  let x ← look (coreAt · c)
  let out := x.deque.take n
  each ((List.range out.length).zip out) fun e => writeEntry (spillPa c (x.spillHead + x.spillCount + e.1)) e.2
  modCore c fun x =>
    { x with deque := x.deque.drop n, spillCount := x.spillCount + out.length, spillCols := x.spillCols ++ out.map (·.col) }

/-- A push at the newest end; a Free slot of the core may take it at the end of this cycle (R112). -/
def pushDeque (c : Nat) (e : DequeEntry) : Act Unit := do
  let x ← look (coreAt · c)
  onlyIf (decide (64 ≤ x.deque.length)) (spillOldest c 32)
  modCore c fun x => { x with deque := x.deque ++ [e] }
  pokeSlots c

/-- Whether n pushes find room (R114): a push into a full hardware deque needs room for a batch in the ring. -/
def pushesFit (hard spill : Nat) : Nat → Bool
  | 0 => true
  | n + 1 =>
    if hard < 64 then pushesFit (hard + 1) spill n
    else decide (spill + 32 ≤ 1024) && pushesFit 33 (spill + 32) n

/-- Whether n pushes find room at a core. -/
def dequeFits (x : Core) (n : Nat) : Bool := pushesFit x.deque.length x.spillCount n

/-- The newest entry is taken: an empty hardware deque is reloaded first. -/
def takeNewest (c : Nat) : Act (Option DequeEntry) := do
  let s ← look id
  let x := coreAt s c
  onlyIf (x.deque.isEmpty && decide (0 < x.spillCount)) (do
    let n := min 32 x.spillCount
    let back := (List.range n).map fun i =>
      readEntry s (x.spillCols.getD (x.spillCount - n + i) false) (spillPa c (x.spillHead + x.spillCount - n + i))
    modCore c fun x => { x with deque := back, spillCount := x.spillCount - n, spillCols := x.spillCols.take (x.spillCount - n) })
  let y ← look (coreAt · c)
  match y.deque.getLast? with
  | none => pure none
  | some e => do
    modCore c fun x => { x with deque := x.deque.dropLast }
    pure (some e)

/-- The oldest entry is taken by a thief. -/
def takeOldest (c : Nat) : Act (Option DequeEntry) := do
  let s ← look id
  let x := coreAt s c
  if 0 < x.spillCount then do
    modCore c fun x =>
      { x with spillHead := (x.spillHead + 1) % 1024, spillCount := x.spillCount - 1, spillCols := x.spillCols.drop 1 }
    pure (some (readEntry s (x.spillCols.headD false) (spillPa c x.spillHead)))
  else
    match x.deque with
    | [] => pure none
    | e :: rest => do
      modCore c fun x => { x with deque := rest }
      pure (some e)

/-! ### The timer wheel (R104) -/

/-- The tick at which an entry for a tick is released: that tick, or the next slot boundary when it has passed. -/
def releaseTick (now t : Nat) : Nat := if now ≤ t then t else (now / 1000 + 1) * 1000

/-- The ticks of one turn of the wheel: 4,096 slots of 1,000. -/
def turnTicks : Nat := 4_096_000

/-- When an entry that is too far ahead is examined again: at the next turn of the wheel, and one that is due before that turn
as soon as it is no longer too far ahead (log entry 119). -/
def examineTick (now t : Nat) : Nat :=
  let turn := (now / turnTicks + 1) * turnTicks
  if t < turn then t - 4_095_000 else turn

/-- An entry is armed; one more than 4,095,000 ticks ahead goes to the overflow list; while the wheel holds 16,384 entries, arming
waits. -/
def armEntry (e : WheelEntry) : Act Unit := do
  let now ← look (·.tick)
  let d := dieOf e.core
  let x ← look (dieAt · d)
  if now + 4_095_000 < e.tick then do
    modDie d fun x => { x with overflow := x.overflow ++ [(examineTick now e.tick, e)] }
    onTick (examineTick now e.tick) (.timerWheelRelease d)
  else if x.wheel.length < 16384 then do
    let t := releaseTick now e.tick
    modDie d fun x => { x with wheel := x.wheel ++ [{ e with tick := t }] }
    if t ≤ now then later 0 5 (50100 + d) (.timerWheelRelease d) else onTick t (.timerWheelRelease d)
  else modDie d fun x => { x with wheelWait := x.wheelWait ++ [e] }

end Sys2Proof.Machine
end

