-- ==== Sys2Proof/Machine/Registers.lean ====
section
/-! DEFINITION. RD, RDT and WR (R164, R165, R178), and the channel registers: standpipes, streams, CHB, CHU, STR
(R271-R277). -/

namespace Sys2Proof.Machine

open Sys2Proof

/-! ### Pops (R272, R275, R276) -/

/-- A value taken by an instruction of the running block enters the retry latch (R161). -/
def latchNow (v : Taken) (t : Thread) : Thread :=
  { t with retry := t.retry.map fun l => { l with vals := l.vals ++ [v] } }

/-- The oldest entry of a standpipe input is removed: its credit returns to the sender, unless a restore has put the entry
there (R275, R399). -/
def popPipe (f : Fire) (ta tb q : Nat) : Act Unit := do
  let x ← look fun s => chanAt (coreAt s f.c) q
  match x.preload, x.buf with
  | e :: rest, _ => do
    completeAct f ta tb e.tok e.tok noFlags []
    modChan f.c q fun y => { y with preload := rest }
    modThread f.c f.k (latchNow ⟨f.i, e.tok, 0x0D, some (e.sheaf, e.time)⟩)
  | [], e :: rest => do
    completeAct f ta tb e.tok e.tok noFlags []
    let peer ← look (matchedPeer · f.c q)
    modChan f.c q fun y => { y with buf := rest }
    modThread f.c f.k (latchNow ⟨f.i, e.tok, 0x0D, some (e.sheaf, e.time)⟩)
    match peer with
    | some (o, j) => do
      modChan o j fun y => { y with returning := y.returning + 1 }
      later 1 5 (32000 + o) (.creditReturn o j)
    | none => pure ()
  | [], [] => parkOn f (.channel q)

/-- The next entry of an input stream is delivered, or Null at its end (R276). -/
def popStream (f : Fire) (ta tb q : Nat) (base stride count next : Nat) (vec : Bool) : Act Unit := do
  let x ← look fun s => chanAt (coreAt s f.c) q
  if count ≤ next ∨ (streamAddr base stride next vec).isNone then completeAct f ta tb .null .null noFlags []
  else
    match x.ahead with
    | e :: rest => do
      completeAct f ta tb e.2 e.2 noFlags []
      modChan f.c q fun y => { y with ahead := rest, bind := .stream base stride count (next + 1) vec }
      modThread f.c f.k (latchNow ⟨f.i, e.2, 0x0D, none⟩)
      later 1 5 (33000 + f.c) (.streamReadAhead f.c q)
    | [] => parkOn f (.channel q)

/-- RD of Q0 to Q3 (R272, R275, R276). -/
def popChannel (f : Fire) (ta tb q : Nat) : Act Unit := do
  match latched f.th f.i with
  | some v => completeAct f ta tb v.tok v.tok noFlags []
  | none => do
    let x ← look fun s => chanAt (coreAt s f.c) q
    if !x.preload.isEmpty then popPipe f ta tb q
    else
      match x.bind with
      | .none => completeAct f ta tb .null .null noFlags [.unbound]
      | .pipe _ _ => popPipe f ta tb q
      | .stream base stride count next vec => popStream f ta tb q base stride count next vec

/-! ### RD, RDT, WR -/

/-- The register that format G names, as it stands at issue, when it is full (R158, R163, R164). -/
def readReg (s : State) (f : Fire) (cls n : Nat) : Option Token :=
  match cls with
  | 0 => if (gReg f.th n).2 then some (.scalar (gReg f.th n).1) else none
  | 1 => if (vReg f.th n).2 then some (.vec (vReg f.th n).1 allLive) else none
  | 2 => if (sReg (coreAt s f.c) n).2 then some (.scalar (sReg (coreAt s f.c) n).1) else none
  | _ => some (.scalar (specialReg s f.c f.k f.th n))

/-- RD and RDT of a register that is no channel (R164). -/
def readFire (f : Fire) (reg : RegSel) (ta tb : Nat) (effs : List Eff) : Act Unit := do
  let s ← look id
  match readReg s f reg.cls.toNat reg.num.toNat with
  | some tok => completeAct f ta tb tok tok noFlags effs
  | none => parkOn f (.register reg.cls.toNat reg.num.toNat)

/-- RD (R164, R178). -/
def execRd (reg : RegSel) (tb8 ta8 : GTarget) (s : State) : Host.Outcome State Fault Refusal :=
  fireAct s fun f =>
    if reg.cls = 3 then popChannel f (t8code ta8) (t8code tb8) reg.num.toNat
    else readFire f reg (t8code ta8) (t8code tb8) []

/-- RDT (R164): the commit empties the register. -/
def execRdt (reg : RegSel) (tb8 ta8 : GTarget) (s : State) : Host.Outcome State Fault Refusal :=
  fireAct s fun f =>
    readFire f reg (t8code ta8) (t8code tb8) [.takeReg reg.cls.toNat reg.num.toNat]

/-- A WR of an output Q4 to Q7 (R272, R274, R276). -/
def pushChannel (f : Fire) (q : Nat) : Act Unit := do
  let s ← look id
  let x := chanAt (coreAt s f.c) q
  match x.bind with
  | .none => completeAct f 511 511 .null .null noFlags (if tokIsNull f.l then [] else [.unbound])
  | .pipe _ _ =>
    if freeCredits s f.c q = 0 then parkOn f (.channel q)
    else
      completeAct f 511 511 .null .null noFlags
        (if tokIsNull f.l then [] else [.push q ((matchedPeer s f.c q).getD (0, 0)) f.l (f.th.slack.toNat % 256)])
  | .stream base stride count next vec =>
    let data := if vec then liveBytes (asVec f.l) else
      match asScalar f.l with
      | some v => numbered 0 (leBytes v.toNat 8)
      | none => []
    if data.isEmpty then completeAct f 511 511 .null .null noFlags []
    else
      match (if count ≤ next then none else streamAddr base stride next vec) with
      | none => completeAct f 511 511 .null .null noFlags [.streamOut q base stride count next vec data]
      | some a => do
        completeAct f 511 511 .null .null noFlags []
        tryAccess f.c f.k
          { idx := f.i, kind := .stream q, op := .read, write := true, align := 1,
            parts := [(0, word a, if vec then 128 else 8)], data := data,
            slack := f.th.slack.toNat % 256, stream := .none, forward := none }

/-- What a WR of a register that is no channel holds for the commit (R165, R191). -/
def writeEffs (reg : RegSel) (tok : Token) : List Eff :=
  let n := reg.num.toNat
  match reg.cls.toNat with
  | 1 => if tokIsNull tok then [] else [.writeV n (asVec tok).1 (asVec tok).2]
  | 0 => (asScalar tok).elim [] fun v => [.writeG n v]
  | 2 => (asScalar tok).elim [] fun v => [.writeS n v]
  | _ => (asScalar tok).elim [] fun v => [.writeSpecial n v]

/-- WR (R165, R178). -/
def execWr (reg : RegSel) (s : State) : Host.Outcome State Fault Refusal :=
  fireAct s fun f =>
    if reg.cls = 3 then pushChannel f reg.num.toNat
    else completeAct f 511 511 .null .null noFlags (writeEffs reg f.l)

/-! ### CHB, CHU, STR (R277) -/

/-- A binding instruction of an output waits while a WR of another block holds a credit of the register. -/
def whenUnclaimed (f : Fire) (q : Nat) (k : Act Unit) : Act Unit := do
  let n ← look (claimedCredits · f.c q)
  if 4 ≤ q ∧ n ≠ 0 then parkOn f (.binding q) else k

/-- The status of CHB (R277). -/
def chbStatus (c q dir remote : Nat) : Nat :=
  if (neighbour c dir).isNone then 1 else if decide (q < 4) = decide (remote < 4) then 2 else 0

/-- CHB (R277). -/
def execChb (p : Pred) (q : BitVec 3) (tb ta : Target) (s : State) : Host.Outcome State Fault Refusal :=
  fireAct s fun f =>
    match predicateHolds p f, asScalar f.l with
    | true, some a =>
      let dir := a.toNat % 4
      let remote := a.toNat / 4 % 8
      let st := chbStatus f.c q.toNat dir remote
      let tok := Token.scalar (word st)
      whenUnclaimed f q.toNat (completeAct f (t9 ta) (t9 tb) tok tok noFlags
        (if st = 0 then [.bindPipe q.toNat dir remote] else []))
    | _, _ => completeAct f (t9 ta) (t9 tb) .null .null noFlags []

/-- CHU (R277). -/
def execChu (p : Pred) (q : BitVec 3) (s : State) : Host.Outcome State Fault Refusal :=
  fireAct s fun f =>
    if predicateHolds p f then
      whenUnclaimed f q.toNat (completeAct f 511 511 .null .null noFlags [.unbindChannel q.toNat])
    else completeAct f 511 511 .null .null noFlags []

/-- The status of STR (R277). -/
def strStatus (base stride : Nat) (vec : Bool) : Nat :=
  let m := if vec then 2 else 8
  if base < 0x1000 ∨ 0x12_7000 ≤ base ∨ base % m ≠ 0 ∨ stride % m ≠ 0 then 1 else 0

/-- STR (R277). -/
def execStr (p : Pred) (q : BitVec 3) (vecS : Bool) (tb ta : Target) (s : State) :
    Host.Outcome State Fault Refusal :=
  fireAct s fun f =>
    match predicateHolds p f, asScalar f.l, asScalar f.r with
    | true, some a, some r =>
      let stride := r.toNat % 2 ^ 32
      let count := r.toNat / 2 ^ 32
      let st := strStatus a.toNat stride vecS
      let tok := Token.scalar (word st)
      whenUnclaimed f q.toNat (completeAct f (t9 ta) (t9 tb) tok tok noFlags
        (if st = 0 then [.bindStream q.toNat a.toNat stride count vecS] else []))
    | _, _, _ => completeAct f (t9 ta) (t9 tb) .null .null noFlags []

/-! ### Events of the channels -/

/-- An entry is thrown away (R277): CHDISC, and its −1. -/
def discardEntry (c : Nat) (e : PipeEntry) : Act Unit := do
  countReg c 0x0C00 1
  countAt c e.sheaf e.time (-1)

/-- Whether an input is bound to the output of another core from which an entry comes. -/
def takesFrom (s : State) (src dst : Nat × Nat) : Bool :=
  match (chanAt (coreAt s dst.1) dst.2).bind with
  | .pipe d j => decide (neighbour dst.1 d = some src.1) && decide (j = src.2)
  | _ => false

/-- STANDPIPE_PUSH (R274, R277): an entry enters the buffer of its pipe at the receiver, whatever has become of the output that it comes
from. One whose input has been bound anew on its way is thrown away (log entry 21). -/
def execStandpipePush (src dst : Nat × Nat) (tok : Token) (sheaf : Option Nat) (time : Word) (slack : Nat) (col : Bool)
    (s : State) : Host.Outcome State Fault Refusal :=
  .next (run (do
    colourReceived dst.1 col
    let e : PipeEntry := ⟨tok, sheaf, time, slack, col⟩
    if takesFrom s src dst then modChan dst.1 dst.2 fun x => { x with buf := x.buf ++ [e] }
    else discardEntry dst.1 e) s)

/-- CREDIT_RETURN (R275): a credit of an output frees. -/
def execCreditReturn (core q : Nat) (s : State) : Host.Outcome State Fault Refusal :=
  .next (run (modChan core q fun x => { x with returning := x.returning - 1 }) s)

/-- The entry of a stream as its streamer reads it (R276). -/
def streamEntry (s : State) (c a : Nat) (vec : Bool) : Token :=
  if vec then .vec (BitVec.ofNat 1024 (natAt s (cisternPa c a) 128)) allLive
  else .scalar (word64At s (cisternPa c a))

/-- STREAM_READ_AHEAD (R276): the streamer reads the next entry, up to 8 ahead. -/
def execStreamReadAhead (core q : Nat) (s : State) : Host.Outcome State Fault Refusal :=
  .next (run (do
    let x := chanAt (coreAt s core) q
    match x.bind with
    | .stream base stride count next vec =>
      let i := next + x.ahead.length
      match (if x.ahead.length < 8 ∧ i < count then streamAddr base stride i vec else none) with
      | some a => do
        modChan core q fun y => { y with ahead := y.ahead ++ [(i, streamEntry s core a vec)] }
        later 1 5 (33000 + core) (.streamReadAhead core q)
      | none => pure ()
    | _ => pure ()) s)

end Sys2Proof.Machine
end

