-- ==== Sys2Proof/Machine/Commit.lean ====
section
/-! DEFINITION. BLOCK_COMMIT: what the commit of a block waits for, and its effects in their order (R80, R114, R157-R160,
R170-R172, R230, R247, R274, R331, R344-R369, R405-R407). -/

namespace Sys2Proof.Machine

open Sys2Proof

/-! ### What a block holds -/

/-- The effects of a block in the order of its instructions. -/
def orderedEffs (b : Block) : List (Nat × Eff) :=
  (indices b).flatMap fun i => b.effs.filter fun e => decide (e.1 = i)

/-- Whether the block ends its thread by HALT. -/
def haltsIn (es : List (Nat × Eff)) : Bool := es.any fun e => decide (e.2 = .halt)
/-- Whether the block ends its thread by LEAVE.EXIT. -/
def leavesIn (es : List (Nat × Eff)) : Bool := es.any fun e => decide (e.2 = .leaveSheaf true)
/-- Whether the block joins a sheaf. -/
def joinsIn (es : List (Nat × Eff)) : Bool :=
  es.any fun e => match e.2 with
    | .joinSheaf _ => true
    | _ => false
/-- Whether a PPT of the block has fired. -/
def preemptPoint (es : List (Nat × Eff)) : Bool :=
  es.any fun e => match e.2 with
    | .masks _ _ => true
    | _ => false
/-- Whether the block returns from a trap handler, and whether it retries. -/
def returnIn (es : List (Nat × Eff)) : Option Bool :=
  es.findSome? fun e => match e.2 with
    | .trapReturn r => some r
    | _ => none

/-! ### Time, membership, frames and the next block (R170-R172, R344, R356-R364) -/

/-- Time and membership after the time instruction of a block: `%ltime`, the sheaf ID, NONE. -/
def timeAfter (s : State) (c : Nat) (t : Thread) (es : List (Nat × Eff)) : Word × Nat × Bool :=
  es.foldl (fun x e =>
    match e.2 with
    | .advance u => (u, x.2)
    | .setTime u => (u, x.2)
    | .recalcFence u => (if x.1.toNat ≤ u.toNat then u + 1 else x.1, x.2)
    | .joinSheaf n => (if x.1.toNat < (frontierFor s c n).toNat then frontierFor s c n else x.1, n, false)
    | .leaveSheaf _ => (x.1, x.2.1, true)
    | _ => x) (t.ltime, t.sheaf, t.noSheaf)

/-- The loop-end step (R171) or the pop of an LPX outside a loop end (R172): time, frames and next block. -/
def loopEnd (b : Block) (x : ExitFired) (frames : List LoopFrame) (time : Word) : Word × List LoopFrame × Word :=
  if isLoopEnd b then
    match frames with
    | [] => (time, [], x.target)
    | f :: rest =>
      let t := advanceTime time f.level.toNat 1
      if x.lpx || decide (f.count = 1) then (t, rest, x.target)
      else (t, { f with count := f.count - 1 } :: rest, f.start)
  else (time, if x.lpx then frames.drop 1 else frames, x.target)

/-- The LPB of a block (R170): frames and next block. -/
def loopBegin (x : ExitFired) (es : List (Nat × Eff)) (frames : List LoopFrame) (next : Word) : List LoopFrame × Word :=
  es.foldl (fun r e =>
    match e.2 with
    | .loop level count exit =>
      if count = 0 then (r.1, exit) else (⟨count, level, x.target, exit⟩ :: r.1, x.target)
    | _ => r) (frames, next)

/-! ### Counts (R79, R80) -/

/-- Whether the block commits its thread's own recalculation, with which the thread ends (R35, R353). -/
def endsTaskIn (es : List (Nat × Eff)) : Bool :=
  es.any fun e => match e.2 with
    | .cell r true => match r.op, r.task with
      | .ccmt t, some d => decide ((cellNamed r.cell).map (fun x => cellId x.1 x.2) = some d.1) && decide (t = d.2)
      | _, _ => false
    | _ => false

/-- Whether the block ends its thread: by HALT, LEAVE.EXIT or the commit of its recalculation. -/
def endsIn (es : List (Nat × Eff)) : Bool := haltsIn es || leavesIn es || endsTaskIn es

/-- Whether an effect is a cell instruction of a kind. -/
def isCellEff (p : CellOp → Bool) : Eff → Bool
  | .cell r _ => p r.op
  | _ => false
/-- The cell instructions after whose commit the home core closes a cell. -/
def isClosing : CellOp → Bool
  | .ccmt _ | .cset _ _ _ => true
  | _ => false

/-- The cell instructions whose commit sends marks (R31, R40). -/
def isMarking (o : CellOp) : Bool := isClosing o || isBind o

/-- Whether marks follow the commit of the block (R31, R40). -/
def closesIn (es : List (Nat × Eff)) : Bool := es.any fun e => isCellEff isMarking e.2

/-- Whether the thread's own count changes with the block: it ends, or its time or its sheaf changes. -/
def countMoves (t : Thread) (es : List (Nat × Eff)) (time : Word) (sheaf : Option Nat) : Bool :=
  endsIn es || !(sheafOf t = sheaf && decide (t.ltime = time))

/-- The change of the thread's own count at the commit: −1 at the old time and +1 at the new one, or −1 when it ends. The −1 of
a block whose marks are still to be sent follows them (R81). -/
def threadCounts (t : Thread) (es : List (Nat × Eff)) (time : Word) (sheaf : Option Nat) : List (Option Nat × Word × Int) :=
  if countMoves t es time sheaf then
    (if closesIn es then [] else [(sheafOf t, t.ltime, -1)]) ++ (if endsIn es then [] else [(sheaf, time, 1)])
  else []

/-- What the thread owes once the marks of the block have landed (R81). -/
def owedAfter (t : Thread) (es : List (Nat × Eff)) (time : Word) (sheaf : Option Nat) : List (Option Nat × Word) :=
  if countMoves t es time sheaf && closesIn es then [(sheafOf t, t.ltime)] else []

/-- The −1 of the pops in a latch (R275). -/
def popCounts (l : Option Latch) : List (Option Nat × Word × Int) :=
  (l.elim [] (·.vals)).filterMap fun v => v.pop.map fun p => (p.1, p.2, -1)

/-- The counts of an effect (R79): the item it creates. -/
def effCounts (t : Thread) (sheaf : Option Nat) (e : Eff) : List (Option Nat × Word × Int) :=
  match e with
  | .command _ => [(sheaf, t.ltime, 1)]
  | .push _ _ _ _ => [(sheaf, t.ltime, 1)]
  | .spawn _ _ u => [(sheaf, u, 1)]
  | .spawnAt _ _ _ => [(sheaf, t.ltime, 1)]
  | .message m => if m.sel.isSome then [(sheaf, t.ltime, 1)] else []
  | _ => []

/-- Every count of a block. -/
def blockCounts (s : State) (c : Nat) (t : Thread) (b : Block) (x : ExitFired) : List (Option Nat × Word × Int) :=
  let es := orderedEffs b
  let tm := timeAfter s c t es
  let le := loopEnd b x t.frames tm.1
  es.flatMap (fun e => effCounts t b.sheaf e.2) ++ popCounts t.retry ++
    (if returnIn es = some false then popCounts t.trap else []) ++
    threadCounts t es le.1 (if tm.2.2 then none else some tm.2.1)

/-- Counts as deltas; an item at ⊤ and one of no sheaf is none. -/
def deltasOf (l : List (Option Nat × Word × Int)) : List Delta :=
  l.filterMap fun x => match x.1 with
    | some n => if x.2.1 = timeTop then none else some ⟨n, x.2.1, x.2.2⟩
    | none => none

/-- The counts that the bindings of a block record at the home cores of their cells (R79, R80). -/
def homeCounts (s : State) (es : List (Nat × Eff)) : List (Nat × List Delta) :=
  es.filterMap fun e => match e.2 with
    | .cell r true => (cellNamed r.cell).bind fun d => match r.op with
      | .cbind off t => some (d.1, bindCounts s d.1 d.2 (some (off / 64)) t)
      | .cunb t => some (d.1, bindCounts s d.1 d.2 none t)
      | _ => none
    | _ => none

/-- The counts that a block records at the tables of a core: its own, and those of its bindings there. -/
def countsFor (s : State) (c h : Nat) (own : List Delta) (es : List (Nat × Eff)) : List Delta :=
  (if h = c then own else []) ++ ((homeCounts s es).filter fun x => decide (x.1 = h)).flatMap (·.2)

/-- The cores whose tables have no room for the counts of a block (R80); those of a fenced core are its die's (R427). -/
def fullTables (s : State) (c : Nat) (own : List Delta) (es : List (Nat × Eff)) : List Nat :=
  ((c :: (homeCounts s es).map (·.1)).dedup).filter fun h =>
    !countsFit s h (countsFor s c h own es) && (decide (h = c) || !isFenced s h)

/-! ### Stores (R157, R230) -/

/-- A store word being put together: its number, the virtual address, the least slack, its bytes. -/
structure WordSum where
  word : Nat
  va : Word
  slack : Nat
  bytes : Map Byte

/-- A byte of a store joins the words of a block: a later one replaces it. -/
def joinByte (slack : Nat) (x : Nat × Word × Byte) : List WordSum → List WordSum
  | [] => [⟨x.1 / 8, x.2.1 - word (x.1 % 8), slack, [(x.1 % 8, x.2.2)]⟩]
  | w :: ws =>
    if w.word = x.1 / 8 then
      { w with slack := min w.slack slack, bytes := mins (mdel w.bytes (x.1 % 8)) (x.1 % 8) x.2.2 } :: ws
    else w :: joinByte slack x ws

/-- A store put among others in ascending LSID. -/
def putStore (x : Nat × Nat × List (Nat × Word × Byte)) :
    List (Nat × Nat × List (Nat × Word × Byte)) → List (Nat × Nat × List (Nat × Word × Byte))
  | [] => [x]
  | y :: ys => if x.1 < y.1 then x :: y :: ys else y :: putStore x ys

/-- The store words of a block in ascending order of the lowest LSID that touches them (R230). -/
def storeWords (es : List (Nat × Eff)) : List WordSum :=
  let stores := es.foldl (fun l e => match e.2 with
    | .store lsid slack bytes => putStore (lsid, slack, bytes) l
    | _ => l) []
  stores.foldl (fun ws st => st.2.2.foldl (fun ws x => joinByte st.2.1 x ws) ws) []

/-- A store word leaves: one of the core's own cistern is written at once (R230, R331), another is on its way until its
acknowledgement (R326). -/
def releaseWord (c k inc : Nat) (tag : Option Scope) (w : WordSum) : Act Unit := do
  let sid ← freshId
  let s ← look id
  let sw : StoreWord := ⟨c, k, sid, w.va, w.word, w.bytes, w.slack, false, tag, .own, none⟩
  match ownerOf s (w.word * 8) with
  | .cistern d _ =>
    if d = c then applyWord sw
    else modCore c fun x => { x with sent := x.sent ++ [⟨inc, s.cycle, sw, false, false, false⟩] }
  | _ => modCore c fun x => { x with sent := x.sent ++ [⟨inc, s.cycle, sw, false, false, false⟩] }

/-! ### Registers (R157, R164, R165, R175) -/

/-- The thread with the register of an effect emptied. -/
def emptyEff (t : Thread) (e : Eff) : Thread :=
  match e with
  | .takeReg 0 n => setG n (gReg t n).1 false t
  | .takeReg 1 n => setV n (vReg t n).1 false t
  | _ => t

/-- The thread with the register of an effect written. -/
def writeEff (t : Thread) (e : Eff) : Thread :=
  match e with
  | .writeG n v => setG n v true t
  | .writeV n d live => setV n (mergeReg (vReg t n).1 (d, live)) true t
  | .writeSpecial n v => setSpecial n v t
  | .call ret => setG 63 ret true t
  | _ => t

/-- The core with the S register of an effect emptied or written. -/
def emptyS (x : Core) (e : Eff) : Core :=
  match e with
  | .takeReg 2 n => setS n (sReg x n).1 false x
  | _ => x
def writeS (x : Core) (e : Eff) : Core :=
  match e with
  | .writeS n v => setS n v true x
  | _ => x

/-- The register writes of a block (R157). -/
def writeRegisters (c k : Nat) (es : List Eff) : Act Unit := do
  modThread c k fun t => es.foldl writeEff (es.foldl emptyEff t)
  onlyIf (es.any fun e => match e with
    | .takeReg 2 _ | .writeS _ _ => true
    | _ => false) (modCore c fun x => es.foldl writeS (es.foldl emptyS x))

/-! ### Engine commands (R247, R254, R282, R297) -/

/-- A command with the context that its commit gives it (R247, R282). -/
def committedCmd (s : State) (c : Nat) (t0 : Word) (sheaf : Option Nat) (flags : Word) (id : Nat) (x : Cmd) : Cmd :=
  { x with id := id, time := t0, sheaf := sheaf, commit := s.cycle, nanTrap := flags.getLsbD 8, col := (coreAt s c).colour }

/-- The lowest free command-buffer entry of a slot. -/
def freeEntry (s : State) (c k : Nat) : Nat := if (coreAt s c).cmds.any fun e => decide (e.1 = 2 * k) then 2 * k + 1 else 2 * k

/-- A command enters the command buffer, or a staged slot. -/
def commitCommand (c k : Nat) (t0 : Word) (sheaf : Option Nat) (e : Eff) : Act Unit := do
  let s ← look id
  let flags := (threadAt s c k).elim 0 (·.flags)
  match e with
  | .command x => onlyIf (!isDiscarded sheaf t0) (do
    let n ← freshId
    onlyIf sheaf.isSome (colourSent c (coreAt s c).colour)
    modCore c fun y =>
      { y with
        cmds := y.cmds ++ [(freeEntry s c k, committedCmd s c t0 sheaf flags n x)], backlog := y.backlog + x.backlog }
    modThread c k fun t => { t with engs := t.engs + 1 }
    if isCopy x then later 1 5 (22000 + c) (.commandHandover c) else later 1 5 (26800 + c) (.matrixHandover c))
  | .stage m x => do
    let n ← freshId
    modCore c fun y => { y with mu := { y.mu with
      staged := mset Staged.reset y.mu.staged m ⟨some (committedCmd s c t0 sheaf flags n x), false⟩ } }
  | _ => pure ()

/-! ### Channels (R271-R277) -/

/-- An entry of an output stream is written, or dropped past the stream's end (R276). -/
def commitStream (c q base stride count next : Nat) (vec : Bool) (data : List (Nat × Byte)) : Act Unit := do
  let x ← look fun s => chanAt (coreAt s c) q
  let i := match x.bind with
    | .stream b st n i v => if b = base ∧ st = stride ∧ n = count ∧ v = vec then i else next
    | _ => next
  match (if i < count then streamAddr base stride i vec else none) with
  | none => countReg c 0x0C08 1
  | some a => do
    each data fun d => do
      emit (.mem (cisternPa c (a + d.1)) d.2)
      fillWord (cisternPa c (a + d.1))
    pokeWaits (cisternPa c a) 128
    modChan c q fun y => match y.bind with
      | .stream b st n j v =>
        if b = base ∧ st = stride ∧ n = count ∧ v = vec then { y with bind := .stream b st n (j + 1) v } else y
      | _ => y

/-- The channel writes of a block: a push goes to the pipe that its WR has claimed a credit of (R274, R277). -/
def commitChannel (c : Nat) (t0 : Word) (sheaf : Option Nat) (e : Eff) : Act Unit := do
  match e with
  | .push q dst tok slack => onlyIf (!isDiscarded sheaf t0) (do
    let col ← look fun s => (coreAt s c).colour
    colourSent c col
    later 1 5 (46400 + dst.1) (.standpipePush (c, q) dst tok sheaf t0 slack col))
  | .streamOut q base stride count next vec data => commitStream c q base stride count next vec data
  | .unbound => countReg c 0x0C10 1
  | _ => pure ()

/-- What an input held is thrown away when its binding changes (R277); what a restore has put there stays with the first
binding made after it (R399). -/
def dropInput (c q : Nat) : Act Unit := do
  let x ← look fun s => chanAt (coreAt s c) q
  onlyIf (decide (q < 4)) (do
    each x.buf (discardEntry c)
    onlyIf (decide (x.bind ≠ .none)) (each x.preload (discardEntry c))
    modChan c q fun y =>
      { y with buf := [], ahead := [], marker := false, preload := if y.bind = .none then y.preload else [] })

/-- The bindings of a block, of a thread of a sheaf. -/
def commitBinding (c : Nat) (sheaf : Option Nat) (e : Eff) : Act Unit := do
  match e with
  | .bindPipe q dir remote => do
    dropInput c q
    modChan c q fun y => { y with bind := .pipe dir remote, sheaf := sheaf }
  | .unbindChannel q => do
    dropInput c q
    modChan c q fun y => { y with bind := .none, sheaf := none, buf := [], ahead := [], preload := [] }
  | .bindStream q base stride count vec => do
    dropInput c q
    modChan c q fun y => { y with bind := .stream base stride count 0 vec, sheaf := sheaf }
    onlyIf (decide (q < 4)) (later 1 5 (33000 + c) (.streamReadAhead c q))
  | _ => pure ()

/-! ### Cell effects (R350-R357) -/

/-- The reservation that an instruction of a block holds. -/
def resvOf (b : Block) (i : Nat) : Option CellResv := b.resv.find? fun r => decide (r.idx = i)

/-- The bytes of a CSET written into the open buffer: a byte whose half is null is 0 (R354); the ring of a queue is its host's
alone (R87). -/
def writeTile (s : State) (h : Nat) (e : CellEntry) (data : Vec) (live : Word) : Act Unit :=
  let bytes := (List.range (tileSize s h e)).map fun i =>
    (i, if live.getLsbD (i / 2) then data.extractLsb' (8 * i) 8 else (0 : Byte))
  do
    each bytes fun x => do
      onlyIf (!ringBarred s .own (bufferPa s h e (!e.cur) + x.1)) (emit (.mem (bufferPa s h e (!e.cur) + x.1) x.2))
      fillWord (bufferPa s h e (!e.cur) + x.1)
    pokeWaits (bufferPa s h e (!e.cur)) bytes.length

/-- The effect of a cell instruction at the commit of its block. -/
def commitCell (c k : Nat) (b : Block) (i : Nat) (r : CellReq) : Act Unit := do
  match cellNamed r.cell with
  | none => pure ()
  | some (h, n) =>
    let y := (resvOf b i).elim false (·.buffer)
    match r.op with
    | .crd => modThread c k fun t => { t with pins := t.pins + 1 }
    | .crel _ => do
      modCell h n fun e => setPins y (bufPins e y - 1) e
      modThread c k fun t => { t with pins := t.pins - 1 }
      pokeHeld h
    | .cwr _ => modThread c k fun t => { t with opens := t.opens + 1 }
    | .ccmt t => later 1 5 (40000 + h) (.heldDecision { r with op := .close t true })
    | .cset t data live => do
      let s ← look id
      writeTile s h (cellAt (coreAt s h) n) data live
      later 1 5 (40000 + h) (.heldDecision { r with op := .close t false })
    | .cbind off t => installBinding r h n (some (off / 64)) ((resvOf b i).elim [] (·.precs)) t
    | .cunb t => installBinding r h n none [] t
    | .cstat _ clr =>
      let read := ((resvOf b i).elim (0 : Word) (·.old)).setWidth 32
      onlyIf clr (modCell h n fun e =>
        if read = 0xFFFFFFFF ∧ e.satcnt ≠ 0xFFFFFFFF then e else { e with satcnt := e.satcnt - read })
    | .close _ _ => pure ()

/-- The cell effects of a block: CRDs before CRELs (R351). -/
def commitCells (c k : Nat) (b : Block) (es : List (Nat × Eff)) : Act Unit := do
  let go := fun (p : CellOp → Bool) => each es fun e => match e.2 with
    | .cell r _ => onlyIf (p r.op) (commitCell c k b e.1 r)
    | _ => pure ()
  go isCrd
  go isCrel
  go fun o => !isCrd o && !isCrel o

/-! ### Messages, tasks, system writes (R365-R368, R404) -/

/-- A FILL or WAKE leaves (R367, R368). -/
def commitMessage (c k : Nat) (m : TaskMsg) : Act Unit := do
  let col ← look fun s => (coreAt s c).colour
  let m := { m with col := col }
  let e := if m.sel.isSome then Instr.fillArrival m else .wakeArrival m
  if 2304 ≤ m.core then dropMessage c m
  else if m.core = c then later 1 4 (slotPlace m.core m.slot) e
  else do
    onlyIf m.sel.isSome (colourSent c col)
    sendMsg c (.core m.core) m.slack false c (some k) (.task m)

/-- A SYSW is carried out: at the core's own units at once, at another core by a message that counts as a store word until
its acknowledgement (R331, R404), with the slack of its thread (R309). -/
def commitSystemWrite (c k inc off slack : Nat) (v : Word) : Act Unit := do
  match placeCore (sysPlace off) with
  | some d =>
    if d = c then later 0 5 c (.registerWrite off v (.thread c k))
    else do
      let sid ← freshId
      let now ← look (·.cycle)
      let w : StoreWord := ⟨c, k, sid, word (controlBase + off), (controlBase + off) / 8, [], slack, false, none, .own, none⟩
      modCore c fun x => { x with sent := x.sent ++ [⟨inc, now, w, true, false, false⟩] }
      sendMsg c (.core d) slack false c (some k) (.sysWrite c k sid off v slack false)
  | none =>
    match doorbellOf off with
    | some q => do
      let s ← look id
      unitSendBy c c (unitRouter (queueRec s q).owner) 4 (updatePlace s (dieOf c) q)
        (.queueDoorbell q (nodeId s) (v.toNat % 2 ^ 32))
    | none => later 0 5 c (.registerWrite off v (.thread c k))

/-- The other effects of a block. -/
def commitOther (c k : Nat) (t : Thread) (sheaf : Option Nat) (e : Eff) : Act Unit := do
  match e with
  | .acquire m n => modSem c m fun x =>
      { x with count := x.count - BitVec.ofNat 32 n, fault := if n = 0 then x.fault else 0, fovf := n = 0 && x.fovf }
  | .masks live sem => modThread c k fun t => { t with livemask := word (live.toNat % 2 ^ 21), semmask := sem }
  | .loadTable b tb => modCore c fun x => { x with tables := mset TableBuf.zero x.tables b tb }
  | .pinErr => countReg c 0x0CC0 1
  | .spawn entry arg u => onlyIf (!isDiscarded sheaf u) (do
    let col ← look fun s => (coreAt s c).colour
    pushDeque c ⟨entry, u, arg, sheaf.getD 0, col⟩)
  | .spawnAt entry arg tick => onlyIf (!isDiscarded sheaf t.ltime) (do
    let col ← look fun s => (coreAt s c).colour
    colourSent c col
    armEntry ⟨tick.toNat, c, .task ⟨entry, t.ltime, arg, sheaf.getD 0, col⟩, t.ltime, sheaf.getD 0, col⟩)
  | .message m => onlyIf (m.sel.isNone || !isDiscarded sheaf t.ltime) (commitMessage c k m)
  | .readReduce off v => reducePlace v (sysPlace off)
  | .systemWrite off v => commitSystemWrite c k t.incarn.toNat off (t.slack.toNat % 256) v
  | .saturations n => countReg c 0x0E80 n
  | _ => pure ()

/-! ### What the thread does after the commit -/

/-- The waits that a block leaves, in the order of its instructions (R31, R45, R369); a PARK whose commit finds WAKEP set leaves none. -/
def waitsAfter (s : State) (wakep : Bool) (es : List (Nat × Eff)) : List Wait :=
  let ws := es.filterMap fun e => match e.2 with
    | .recalcFence t => some (.frontier t)
    | .park => some .parked
    | .yield n => some (.yielding (s.cycle + n))
    | _ => none
  if wakep then ws.erase .parked else ws

/-- Whether a block holds a PARK that has fired. -/
def parksIn (es : List (Nat × Eff)) : Bool := es.any fun e => decide (e.2 = .park)

/-- Whether the block is an acquire block (R265, R330). -/
def isAcquireBlock (b : Block) : Bool :=
  (fenceScope b isAcquire).isSome ||
    (indices b).any fun i => (opOf (wordOf b i) = 0x69 || opOf (wordOf b i) = 0x6A) &&
      (doneOf b i).elim false fun d => !tokIsNull d.1

/-- Whether a pending pre-emption takes the thread at this commit (R397). -/
def preemptsAt (s : State) (c k : Nat) (es : List (Nat × Eff)) : Bool :=
  (creg s c 0x0F28).getLsbD k && decide ((slotAt s c k).state = .running) &&
    (preemptPoint es || decide (mget 0 (coreAt s c).preqSince k + (creg s c 0x0F30).toNat ≤ s.cycle))

/-- What a thread that is to leave its slot waits for (R395). -/
def parkedFor (t : Thread) : Wait :=
  match t.wait, t.block with
  | .nothing, some b =>
    match (indices b).find? fun i => hasFired b i && (doneOf b i).isNone && (opOf (wordOf b i) = 0x73 || isCellOp (wordOf b i)) with
    | some i =>
      if opOf (wordOf b i) = 0x73 then .frontier ((asScalar (operand b i 0)).getD 0) else .held
    | none => if b.pend.any fun p => decide (0 < p.2.refusals) then .retry else .nothing
  | w, _ => w

/-- The waits that a thread takes with it as it leaves its slot: the remaining cycles of a YLD are dropped (R395). -/
def waitsKept (t : Thread) : List Wait :=
  (if t.block.isNone && decide (t.wait ≠ .nothing) then t.wait :: t.waits else t.waits).filter fun w => match w with
    | .yielding _ => false
    | _ => true

/-- What a thread that is to leave its slot waits for, as its image records it (R395): without a block, the first of its waits that is not
for marks, which come before a swap-out. -/
def waitRecorded (t : Thread) : Wait :=
  if t.block.isSome then parkedFor t
  else
    ((t.wait :: t.waits).find? fun w => match w with
      | .marks _ | .nothing => false
      | _ => true).getD .nothing

/-- A thread is to leave its slot (R396, R397): it issues nothing more, and what SWAP_OUT waits for comes first. -/
def startSwap (c k : Nat) : Act Unit := do
  modThread c k fun t => { t with parkedOn := waitRecorded t, wait := .swapping, waits := waitsKept t }
  later 0 5 (c * 16 + k) (.swapOut c k)

/-- The pins of a recalculation that ends by HALT with the commit of its cell are released (R35). -/
def releaseTaskPins (c k : Nat) : Act Unit := do
  let t ← look (threadAt · c k)
  each (t.elim [] (·.taskPins)) fun p => match cellHome p.1 with
    | some (g, j) => do
      modCell g j fun e => setPins p.2 (bufPins e p.2 - 1) e
      pokeHeld g
    | none => pure ()

/-- Whether the cut in progress takes the thread in a slot at this commit (R387, R401). -/
def stopsForCut (s : State) (c k : Nat) : Bool :=
  (coreAt s c).cutSeen && decide ((slotAt s c k).state = .running) &&
    (threadAt s c k).elim false fun t => (sheafOf t).isSome && decide (sheafOf t = cutSheaf s)

/-- The thread goes on to its waits, its swap, its end or its next block (R160). The end of one whose marks are still to be sent
follows them (R81, R353). -/
def afterCommit (c k : Nat) (es : List (Nat × Eff)) : Act Unit := do
  let s ← look id
  if (haltsIn es || leavesIn es) && !closesIn es then do
    releaseTaskPins c k
    removeThread c k
  else do
    onlyIf (haltsIn es || leavesIn es) (releaseTaskPins c k)
    each es fun e => match e.2 with
      | .yield n => later n 4 (c * 16 + k) (.yldExpiry c k)
      | _ => pure ()
    if preemptsAt s c k es || stopsForCut s c k then startSwap c k
    else do
      let t ← look (threadAt · c k)
      match t with
      | none => pure ()
      | some t =>
        match t.wait with
        | .marks (_ + 1) => pure ()
        | .marks 0 => marksDone c k
        | _ => goOn c k

/-- The effects of a commit (R157). -/
def commitBlock (c k : Nat) (t : Thread) (b : Block) (x : ExitFired) : Act Unit := do
  let s ← look id
  let es := orderedEffs b
  let tm := timeAfter s c t es
  let le := loopEnd b x t.frames tm.1
  let lb := loopBegin x es le.2.1 le.2.2
  let counts := blockCounts s c t b x
  let tag := (fenceScope b isRelease).bind decScope
  onlyIf (joinsIn es) (fetchFrontier c tm.2.1)
  writeRegisters c k (es.map (·.2))
  each (storeWords es) (releaseWord c k t.incarn.toNat tag)
  sendWords c
  each es fun e => commitCommand c k t.ltime b.sheaf e.2
  each es fun e => commitChannel c t.ltime b.sheaf e.2
  modThread c k fun t => { t with flags := mergeFlags t.flags b.flags }
  mergeSheaf b.sheaf b.flags
  recordCounts c (deltasOf counts)
  countReg c 0x0E88 (counts.filter fun d => d.1.isSome && decide (d.2.1 = timeTop) && decide (0 < d.2.2)).length
  modThread c k fun t =>
    { t with
      ltime := le.1, sheaf := tm.2.1, noSheaf := tm.2.2, frames := lb.1, next := lb.2, retry := none, block := none,
      asid := if joinsIn es && !t.service then (sheafAt s tm.2.1).queue else t.asid,
      wait := .marks (es.filter fun e => isCellEff isClosing e.2).length,
      wakep := t.wakep && !parksIn es, waits := waitsAfter s t.wakep es ++ (if (returnIn es).isSome then t.resumeWaits else []),
      resumeWaits := if (returnIn es).isSome then [] else t.resumeWaits,
      ending := t.ending || (endsIn es && closesIn es),
      owed := t.owed ++ owedAfter t es le.1 (if tm.2.2 then none else some tm.2.1) }
  match returnIn es with
  | some r => modThread c k (afterTrapReturn r)
  | none => pure ()
  each es fun e => commitBinding c b.sheaf e.2
  each es fun e => commitOther c k t b.sheaf e.2
  commitCells c k b es
  retryFills c k
  onlyIf (isAcquireBlock b || es.any fun e => match e.2 with
    | .recalcFence u => decide (u.toNat < (frontierAt s c tm.2.1).toNat)
    | _ => false) (acquireCommit c)
  countReg c 0x0EB0 1
  match b.sheaf with
  | some n => modSheaf n fun y => { y with moved := s.tick }
  | none => pure ()
  afterCommit c k es

/-- A commit that waits decides again in the next cycle. -/
def holdCommit (c k gen : Nat) (w : Wait) : Act Unit := do
  let s ← look id
  modThread c k fun t =>
    { t with
      wait := w, since := if t.wait = w then t.since else s.cycle, tableSince := if t.wait = w then t.tableSince else s.tick }
  later 1 3 (c * 16 + k) (.blockCommit c k gen)

/-- BLOCK_COMMIT (R157): the commit waits for its release condition (R331), for room in the outstanding-time table (R80)
and in the spill ring (R114). -/
def execBlockCommit (core slot gen : Nat) (s : State) : Host.Outcome State Fault Refusal :=
  .next (run (match threadAt s core slot with
    | none => pure ()
    | some t =>
      match t.block with
      | none => pure ()
      | some b =>
        match b.exit with
        | none => pure ()
        | some x =>
          onlyIf (decide (b.gen = gen) && !b.stopped && !isFenced s core && decide (t.wait ≠ .swapping))
            (if (fenceScope b isRelease).elim false fun n => !releaseHolds s core slot t n then do
              countReg core 0x0CA8 1
              holdCommit core slot gen .release
            else if !(fullTables s core (deltasOf (blockCounts s core t b x)) (orderedEffs b)).isEmpty then do
              each (fullTables s core (deltasOf (blockCounts s core t b x)) (orderedEffs b)) fun h => later 0 7 h (.deltaBatch h)
              holdCommit core slot gen .table
            else if !dequeFits (coreAt s core) (b.effs.filter fun e => match e.2 with
                | .spawn _ _ _ => true
                | _ => false).length then holdCommit core slot gen .spill
            else commitBlock core slot t b x)) s)

end Sys2Proof.Machine
end

