-- ==== Sys2Proof/Machine/Starts.lean ====
section
/-! DEFINITION. How threads start (R111, R117, R163, R391), what makes a swapped-out thread ready (R395), and how free slots
are filled: recalculations, deques, steals (R33-R35, R112-R116). -/

namespace Sys2Proof.Machine

open Sys2Proof

/-! ### The start of a thread -/

/-- What a thread starts with (R35, R96, R113, R116, R120, R391). -/
structure Start where
  entry : Word
  ltime : Word
  rank : Word
  nrank : Word
  sheaf : Nat
  service : Bool
  asid : Nat
  g : List (Nat × Word)
  mbox : Map Word
  task : Option (Nat × Word)
  taskPins : List (Nat × Bool)

/-- A list of n bytes: those of a list, 0 beyond its end. -/
def padBytes (n : Nat) (l : List Byte) : List Byte := (List.range n).map fun i => l.getD i 0

/-- The launch page of a slot written for a thread that starts (R117): argument block, zeros, shape records, zeros. A
thread of no sheaf has an argument block of zeros (log entry 30). -/
def writeLaunchPage (c k : Nat) (sheaf : Option Nat) : Act Unit := do
  let x ← look fun s => sheaf.elim Sheaf.reset (sheafAt s)
  let bytes := padBytes 128 x.args ++ padBytes 128 [] ++ padBytes 1024 x.shapes
  writeBytes (launchPa c k 0) bytes
  each (List.range 160) fun i => fillWord (launchPa c k (8 * i))

/-- The incarnation that the next thread of a slot takes (R111). -/
def nextIncarn (s : State) (c k : Nat) : BitVec 16 := (slotAt s c k).incarn + 1

/-- A thread starts in a slot (R111, R117, R163, R315): its counts are its caller's. -/
def startThread (c k : Nat) (x : Start) : Act Unit := do
  let s ← look id
  let inc := nextIncarn s c k
  writeLaunchPage c k (if x.service then none else some x.sheaf)
  setCreg c (0x0E00 + 8 * k) 0
  onlyIf (!x.service) (fetchFrontier c x.sheaf)
  modSlot c k fun y =>
    { y with
      state := if x.service then .service else .running, incarn := inc, starts := y.starts + 1,
      thread := some { Thread.fresh with
        g := x.g.foldl (fun m r => mset (0, true) m r.1 (r.2, true)) [],
        rank := x.rank, nrank := x.nrank, sheaf := x.sheaf, noSheaf := x.service, incarn := inc, ltime := x.ltime,
        mbox := x.mbox, opens := if x.task.isSome then 1 else 0, asid := x.asid, next := x.entry, task := x.task,
        taskPins := x.taskPins, service := x.service } }
  later 0 6 (c * 16 + k) (.blockLoad c k)

/-- What a task starts with (R116). -/
def taskStart (s : State) (e : DequeEntry) : Start :=
  { entry := e.entry, ltime := e.ltime, rank := 0, nrank := 1, sheaf := e.sheaf, service := false,
    asid := (sheafAt s e.sheaf).queue, g := [(0, e.arg)], mbox := [], task := none, taskPins := [] }

/-- The service thread of a core starts (R391, log entry 30). -/
def startService (c : Nat) : Act Unit := do
  let s ← look id
  startThread c 15
    { entry := creg s c 0x0F08, ltime := 0, rank := 0, nrank := 1, sheaf := 0, service := true,
      asid := (creg s c 0x0F00).toNat / 256 % 256, g := [], mbox := [], task := none, taskPins := [] }

/-! ### Parked and ready threads (R395, R397) -/

/-- Whether nothing of a thread's block can issue before something that it waits for happens. -/
def waitsInBlock (s : State) (c k : Nat) (t : Thread) (b : Block) : Bool := !b.stopped && (nextReady s c k t b).isNone

/-- Whether a block waits for a held cell request or for an LDS or STS that is refused (R234, R343). -/
def holdsRequest (b : Block) : Bool :=
  ((indices b).any fun i => hasFired b i && (doneOf b i).isNone && isCellOp (wordOf b i)) || b.pend.any fun p => decide (0 < p.2.refusals)

/-- Since when a thread is parked in the sense of the park timeout (R107, R397), if it is. -/
def parkedSince (s : State) (c k : Nat) (t : Thread) : Option Nat :=
  match t.wait with
  | .register _ _ | .semaphore _ _ _ | .command | .channel _ | .sleep _ | .parked | .yielding _ => some t.since
  | .nothing =>
    match t.block with
    | none => none
    | some b => if waitsInBlock s c k t b && holdsRequest b then some ((slotAt s c k).lastIssue.getD 0) else none
  | _ => none

/-- Whether a thread is parked so that a pre-emption or a cut takes it at once (R397, R401): as for the park timeout, or for a
frontier. -/
def isParked (s : State) (c k : Nat) (t : Thread) : Bool :=
  (parkedSince s c k t).isSome || match t.wait, t.block with
    | .frontier _, _ => true
    | .nothing, some b => waitsInBlock s c k t b && decide (parkedFor t ≠ .nothing)
    | _, _ => false

/-- Whether a swapped-out thread is ready (R395). -/
def isReadyCached (s : State) (c : Nat) (x : Cached) : Bool :=
  match x.thread.parkedOn with
  | .register cls n => isRegFull s c x.thread cls n
  | .semaphore m n p => decide (n ≤ available s c m) || p.elim false fun t => decide (t.toNat < s.tick)
  | .channel q => waitOver s c x.slot x.thread (.channel q)
  | .parked => x.thread.wakep
  | .sleep t => decide (t.toNat ≤ s.tick)
  | .frontier t => decide (t.toNat < (frontierAt s c x.thread.sheaf).toNat)
  | .held => decide (frontierAt s c x.thread.sheaf ≠ x.front) || decide (x.since + 1024 ≤ s.cycle)
  | _ => true

/-- CUTCTL.STATE changes (R400). -/
def setCutState (n : Nat) : Act Unit := do
  let v ← look fun s => (mreg s 0x0820).toNat
  emit (.mreg 0x0820 (word (v % 2 ^ 13 + n * 2 ^ 16)))

/-- A cut that is resuming is idle again once every image of its sheaf is restored (R401). -/
def cutResumed : Act Unit := do
  let s ← look id
  onlyIf (decide ((mreg s 0x0820).toNat / 2 ^ 16 % 4 = 3) && !(s.cores.any fun x => x.2.cache.any fun e => e.2.forced))
    (setCutState 0)

/-- The cache entries whose threads may be restored, in ascending order (R398, R401). -/
def readyEntries (s : State) (c : Nat) : List Nat :=
  ((coreAt s c).cache.filter fun e =>
    e.2.forced || (isReadyCached s c e.2 && (cutSheaf s).elim true fun n => decide (sheafOf e.2.thread ≠ some n))).map (·.1)

/-! ### Recalculation (R33-R35) -/

/-- Whether a precedent lets a task at time u run (R33); a version that can take no further pin does not (log entry 31). -/
def precedentReady (s : State) (u : Word) (id : Nat) : Bool :=
  match cellById s id with
  | none => false
  | some (h, _, e) =>
    !isFenced s h && ((newestAt e u).elim false fun v => decide (bufPins e v.1 < 0xFFFF)) && decide (u.toNat < e.stale.toNat) &&
      !(e.wopen && decide ((bufTime e (!e.cur)).toNat ≤ u.toNat))

/-- Whether a mark of a cell is still on its way to a dependant (log entry 35). -/
def markTravels (s : State) (source cell : Nat) : Bool :=
  (s.agenda.any fun e => match e.2 with
    | .mark m => decide (m.source = source) && decide (m.cell = cell)
    | _ => false) ||
    s.routers.any fun r => r.2.packets.any fun p => match p.2.msg with
      | .mark m => decide (m.source = source) && decide (m.cell = cell)
      | _ => false

/-- The formula of a queued task (R35, R42, R43). -/
def taskFormula (s : State) (h : Nat) (t : RecalcTask) : Option FormulaRec :=
  (taskRecord (cellAt (coreAt s h) t.cell) t).map (formulaRec s h)

/-- Whether a queued task is eligible (R33, R43, R401). -/
def isEligible (s : State) (h : Nat) (t : RecalcTask) : Bool :=
  let e := cellAt (coreAt s h) t.cell
  !t.held && e.valid && decide (t.time.toNat ≤ (frontierAt s h e.sheaf.toNat).toNat) &&
    !e.wopen && decide (bufTime e (!e.cur) = timeTop) && decide (bufPins e (!e.cur) = 0) &&
    decide (cutSheaf s ≠ some e.sheaf.toNat) &&
    (taskFormula s h t).elim false fun f => f.precs.all fun p =>
      precedentReady s t.time p.1 && !markTravels s p.1 (cellId h t.cell)

/-- The first of a list of tasks in ascending time and cell ID (R34). -/
def firstTask : List RecalcTask → Option RecalcTask
  | [] => none
  | t :: ts =>
    match firstTask ts with
    | none => some t
    | some u =>
      if t.time.toNat < u.time.toNat ∨ (t.time = u.time ∧ t.cell ≤ u.cell) then some t else some u

/-- The eligible task that a core dispatches next. -/
def nextTask (s : State) (h : Nat) : Option RecalcTask := firstTask ((coreAt s h).tasks.filter (isEligible s h))

/-- A precedent's newest version at a time ≤ u is pinned: the pin and the virtual address of its buffer. -/
def pinPrecedent (u : Word) (cid : Nat) : Act (Option ((Nat × Bool) × Word)) := do
  let s ← look id
  match cellById s cid with
  | none => pure none
  | some (h, i, e) =>
    match newestAt e u with
    | none => pure none
    | some v => do
      modCell h i fun e => setPins v.1 (bufPins e v.1 + 1) e
      pure (some ((cid, v.1), cellVa s h e v.1))

/-- The precedents of a task pinned in record order. -/
def pinPrecedents (u : Word) : List Nat → Act (List ((Nat × Bool) × Word))
  | [] => pure []
  | p :: ps => do
    let x ← pinPrecedent u p
    let xs ← pinPrecedents u ps
    pure (x.toList ++ xs)

/-- A recalculation starts in a slot (R35): its −1 as a task and the +1 of its thread, at one time in one batch, cancel. -/
def dispatchTask (c k : Nat) (t : RecalcTask) : Act Unit := do
  let s ← look id
  let e := cellAt (coreAt s c) t.cell
  match taskFormula s c t with
  | none => pure ()
  | some f => do
    modCore c fun x => { x with tasks := x.tasks.filter fun y => decide (y ≠ t) }
    modCell c t.cell fun e =>
      { setBufTime (!e.cur) t.time e with wopen := true, writer := some (c, k, (nextIncarn s c k).toNat) }
    let pins ← pinPrecedents t.time (f.precs.map (·.1))
    let cid := cellId c t.cell
    startThread c k
      { entry := f.entry, ltime := t.time, rank := 0, nrank := 1, sheaf := e.sheaf.toNat, service := false,
        asid := (sheafAt s e.sheaf.toNat).queue,
        g := [(0, word cid), (1, cellVa s c e (!e.cur))] ++
          ((List.range pins.length).zip pins).map fun p => (p.1 + 2, p.2.2),
        mbox := [], task := some (cid, t.time), taskPins := pins.map (·.1) }

/-! ### Stealing (R115) -/

/-- The cores of a list from above one on, then those below it. -/
def fromNext (c : Nat) (l : List Nat) : List Nat := l.filter (fun x => decide (c < x)) ++ l.filter fun x => decide (x < c)

/-- The victims of a thief in their order. -/
def victims (c : Nat) : List Nat :=
  let r := regionOf c
  fromNext c (regionCores r) ++
    (List.range 71).flatMap fun j => regionCores (dieOf c * 72 + (r % 72 + 1 + j) % 72)

/-- A steal request goes on to the first victim from a position that is not fenced, or back to the thief when the round is
over. -/
def passSteal (src : Nat) (x : Steal) : Act Unit := do
  let s ← look id
  let vs := (List.range 575).zip (victims x.thief)
  match (vs.drop x.position).find? fun v => !isFenced s v.2 with
  | some v => sendMsg src (.core v.2) 32 false x.thief none (.stealAsk { x with position := v.1 })
  | none =>
    if src = x.thief then later 1 7 (stealPlace src) (.stealReply { x with entry := none })
    else sendMsg src (.core x.thief) 32 false x.thief none (.stealReply { x with entry := none })

/-- A core with a Free slot and an empty deque asks for work, one request at a time. -/
def askSteal (c : Nat) : Act Unit := do
  let s ← look id
  let x := coreAt s c
  onlyIf (!(freeSlots s c).isEmpty && decide (dequeSize x = 0) && !x.steal.asked && x.steal.backoff.isNone && !isFenced s c) (do
    modCore c fun x => { x with steal := { x.steal with asked := true } }
    passSteal c ⟨c, 0, none, x.colour⟩)

/-- STEAL_REQUEST (R115): the victim hands over its oldest entry, with its creator's colour (R86), or passes the request on. -/
def execStealRequest (victim : Nat) (x : Steal) (s : State) : Host.Outcome State Fault Refusal :=
  .next (run (do
    let e ← takeOldest victim
    match e with
    | some e => do
      colourSent victim e.col
      sendMsg victim (.core x.thief) 32 false x.thief none
        (.stealReply { x with entry := some (e.entry, e.ltime, e.arg, e.sheaf), col := e.col })
      pokeSlots victim
    | none => passSteal victim { x with position := x.position + 1 }) s)

/-! ### Free slots (R112) -/

/-- Whether a core may start a task of a sheaf now: not while a cut of it is in progress (R401). -/
def mayDispatch (s : State) (sheaf : Nat) : Bool := decide (cutSheaf s ≠ some sheaf)

/-- The newest entry of a core's deque. -/
def newestEntry (s : State) (c : Nat) : Option DequeEntry :=
  let x := coreAt s c
  match x.deque.getLast? with
  | some e => some e
  | none =>
    if 0 < x.spillCount then
      some (readEntry s (x.spillCols.getD (x.spillCount - 1) false) (spillPa c (x.spillHead + x.spillCount - 1)))
    else none

/-- A Free slot is filled from the first source that has work (R112). -/
def fillSlot (c k : Nat) : Act Unit := do
  let s ← look id
  onlyIf (decide ((slotAt s c k).state = .free) && !isFenced s c)
    (match nextTask s c with
    | some t => dispatchTask c k t
    | none =>
      match newestEntry s c with
      | some e => onlyIf (mayDispatch s e.sheaf) (do
          let _ ← takeNewest c
          startThread c k (taskStart s e))
      | none => pure ())

/-- STEAL_REPLY (R115): the stolen task starts in a Free slot, or enters the thief's own deque, where it waits for room; a
fruitless round is followed by 256 cycles without another. -/
def execStealReply (x : Steal) (s : State) : Host.Outcome State Fault Refusal :=
  .next (run (do
    let c := x.thief
    match x.entry with
    | some (entry, ltime, arg, sheaf) =>
     if isFenced s c then do
      colourReceived c x.col
      countDie c (some sheaf) ltime (-1)
     else
      let e : DequeEntry := ⟨entry, ltime, arg, sheaf, x.col⟩
      let k := if mayDispatch s sheaf then (freeSlots s c).head? else none
      if k.isNone && !dequeFits (coreAt s c) 1 then later 1 7 (stealPlace c) (.stealReply x)
      else do
        modCore c fun y => { y with steal := { y.steal with asked := false } }
        colourReceived c x.col
        match k with
        | some k => do
          startThread c k (taskStart s e)
          pokeSlots c
        | none => pushDeque c e
    | none => do
      modCore c fun y => { y with steal := { y.steal with asked := false, backoff := some (s.cycle + 256) } }
      later 256 7 (stealPlace c) (.stealBackoff c)) s)

/-- STEAL_BACKOFF (R115): the core may ask again, and looks at its slots at the end of this cycle. -/
def execStealBackoff (core : Nat) (s : State) : Host.Outcome State Fault Refusal :=
  .next (run (do
    modCore core fun y => { y with steal := { y.steal with backoff := none } }
    pokeSlots core) s)

/-- Whether a source of R112 or the context cache has work for a slot of a core (R397). -/
def hasWork (s : State) (c : Nat) : Bool :=
  (nextTask s c).isSome || (newestEntry s c).elim false (fun e => mayDispatch s e.sheaf) || !(readyEntries s c).isEmpty

/-- Whether an event stands in the agenda. -/
def isPending (s : State) (e : Instr) : Bool := s.agenda.any fun x => decide (x.2 = e)

/-- A service slot without a thread starts its thread in the cycle after the end of the last one (R391). -/
def fillService (c : Nat) : Act Unit := do
  let s ← look id
  let x := slotAt s c 15
  onlyIf ((creg s c 0x0F00).getLsbD 0 && decide (x.state = .service) && x.thread.isNone && !isFenced s c)
    (if x.freedAt < s.cycle then startService c else later 1 6 (dispatchPlace c) (.taskDispatch c))

/-- Ready threads are restored into the slots that are left Free, in ascending entry order (R398). -/
def callRestores (c : Nat) : Act Unit := do
  let s ← look id
  each ((readyEntries s c).take (freeSlots s c).length) fun e => later 0 6 (dispatchPlace 2304 + c) (.restore c e)

end Sys2Proof.Machine
end

