-- ==== Sys2Proof/Machine/Swap.lean ====
section
/-! DEFINITION. Swapping threads: the context image, swap-out, restore, CTXOUT, RESUME, the park timeout and pre-emption
(R393-R399). -/

namespace Sys2Proof.Machine

open Sys2Proof

/-! ### The context image (R394, R395) -/

/-- The physical address of the image behind a cache entry (R393). -/
def entryPa (s : State) (c e : Nat) : Nat := (creg s c 0x0F38).toNat + 0x1_0000 * e

/-- The WAIT kind and WAITARG of a wait (R395). -/
def waitCode : Wait → Nat × Word
  | .register cls n => (1, word (cls * 64 + n))
  | .semaphore m n _ => (2, word (m + n * 65536))
  | .channel q => (3, word q)
  | .parked => (4, 0)
  | .sleep t => (5, t)
  | .frontier t => (6, t)
  | .held => (7, 0)
  | .retry | .yielding _ => (8, 0)
  | _ => (0, 0)

/-- The wait that a WAIT kind and WAITARG stand for. The promise of a SACQP has no place in the image. -/
def waitOfCode (kind : Nat) (arg : Word) : Wait :=
  match kind with
  | 1 => .register (arg.toNat / 64 % 8) (arg.toNat % 64)
  | 2 => .semaphore (arg.toNat % 64) (arg.toNat / 65536 % 65536) none
  | 3 => .channel (arg.toNat % 8)
  | 4 => .parked
  | 5 => .sleep arg
  | 6 => .frontier arg
  | 7 => .held
  | 8 => .retry
  | _ => .nothing

/-- Words as bytes. -/
def wordBytes (l : List Word) : List Byte := l.flatMap fun w => leBytes w.toNat 8

/-- The low 64 bits of a token: what a latch of an image holds of a taken value (R394, log entry 32). -/
def lowWord : Token → Word
  | .null => 0
  | .scalar v => v
  | .vec d _ => d.setWidth 64

/-- A loop frame, valid bit in bit 63 of COUNT's word. -/
def frameWords : Option LoopFrame → List Word
  | some f => [word (f.count.toNat + 2 ^ 63), f.level.setWidth 64, f.start, f.exit]
  | none => [0, 0, 0, 0]

/-- A latch: address, `%ltime`, valid mask and indices, values. -/
def latchWords : Option Latch → List Word
  | some l =>
    let vs := l.vals.take 8
    let idx := (List.range 8).foldl (fun n i => n + ((vs[i]?).elim 0 fun v => v.idx % 128 * 2 ^ (8 + 7 * i))) 0
    [l.addr, l.ltime, word (2 ^ vs.length - 1 + idx)] ++ (List.range 8).map fun i => (vs[i]?).elim 0 fun v => lowWord v.tok
  | none => List.replicate 11 0

/-- The retry latch of an image: that of a thread that left at a commit is the block that it goes on with, with no value (log entry
32). -/
def heldLatch (t : Thread) : Latch := t.retry.getD ⟨t.next, t.ltime, [], [], []⟩

/-- The bytes 0x0000 to 0x0FFF of a thread's image (R394). -/
def imageLow (c k : Nat) (t : Thread) (r : ResumeRec) : List Byte :=
  let w := waitCode t.parkedOn
  let bit := fun (b : Bool) (n : Nat) => if b then 2 ^ n else 0
  let w0 := 2 ^ 63 + bit t.hndl 62 + bit t.wakep 61 + w.1 * 2 ^ 57 + k * 2 ^ 52 + c * 2 ^ 32
  let specials : List Word := [t.rank, t.nrank, word (t.sheaf + bit t.noSheaf 12), t.incarn.setWidth 64, t.ltime, t.slack,
    t.round, t.flags, t.trapcause, t.trapinfo0, t.trapinfo1] ++ (List.range 8).map (mget 0 t.mbox)
  let fe := fun (n : Nat) (p : Nat → Bool) => word ((List.range n).foldl (fun m i => m + bit (p i) i) 0)
  padBytes 0x40 (wordBytes [word w0, t.livemask, t.semmask, w.2, word (t.pins + t.opens * 2 ^ 16 + t.engs * 2 ^ 32)]) ++
    padBytes 0xC0 (wordBytes specials) ++
    padBytes 0x80 (wordBytes (frameWords t.frames.head? ++ frameWords (t.frames[1]?))) ++
    padBytes 0x80 (wordBytes (latchWords (some (heldLatch t)))) ++ padBytes 0x80 (wordBytes (latchWords t.trap)) ++
    padBytes 0x20 (wordBytes [fe 64 fun i => (gReg t i).2, fe 16 fun i => (vReg t i).2]) ++
    padBytes 0x160 (wordBytes ((List.range 4).map (resumeWord r))) ++
    wordBytes ((List.range 64).map fun i => (gReg t i).1) ++
    ((List.range 16).flatMap fun i => leBytes (vReg t i).1.toNat 128) ++
    padBytes 0x200 (wordBytes (List.replicate 16 allLive))

/-- An entry of an input standpipe: token, live bits, sheaf, time, slack; 160 bytes. -/
def entryBytes (e : PipeEntry) : List Byte :=
  let d : Nat × Word := match e.tok with
    | .null => (0, 0)
    | .scalar v => (v.toNat, 0)
    | .vec d live => (d.toNat, live)
  leBytes d.1 128 ++ wordBytes [d.2, word (e.sheaf.getD 4096), e.time, word (e.slack + 2 ^ 63)]

/-- The inputs that a LIVEMASK names (R406). -/
def maskInputs (m : Word) : List Nat := (List.range 4).filter fun q => m.getLsbD (13 + q)

/-- The channel part of an image: the entries of the inputs named. -/
def channelPart (x : Core) (m : Word) : List (Nat × List Byte) :=
  (maskInputs m).map fun q =>
    let y := chanAt x q
    (0x1000 + 8 * 160 * q, padBytes (8 * 160) ((y.preload ++ y.buf).flatMap entryBytes))

/-- A table as an image (R211). -/
def tableImage (t : TableBuf) : List Byte :=
  let c := (if t.wlog < 0 then (256 + t.wlog).toNat else t.wlog.toNat) + (if t.lowExtend then 2 ^ 8 else 0) +
    (if t.highExtend then 2 ^ 10 else 0)
  padBytes 288 (leBytes t.lo 4 ++ leBytes c 4 ++ leBytes 0 8 ++ (List.range 65).flatMap fun j => leBytes (t.knot j) 4)

/-- The semaphore part of an image: the semaphores named (R394). -/
def semaphorePart (x : Core) (sem : Word) : List (Nat × List Byte) :=
  ((List.range 64).filter fun m => sem.getLsbD m).map fun m =>
    (0x2400 + 24 * m, wordBytes ((List.range 3).map (semWord (semAt x m))))

/-- What stays in place on the core of a swapped-out thread (R398): the entries of its inputs and its semaphores, as they
now stand. -/
def livingParts (x : Core) (t : Thread) : List (Nat × List Byte) :=
  channelPart x t.livemask ++ semaphorePart x t.semmask

/-- The other parts of an image that the masks name (R394): tables, microprogram, weights, accumulators. -/
def maskedParts (x : Core) (live : Word) : List (Nat × List Byte) :=
  (((List.range 4).filter fun b => live.getLsbD (9 + b)).map fun b =>
    (0x2A00 + 288 * b, tableImage (mget TableBuf.zero x.tables b))) ++
  (if live.getLsbD 8 then
    [(0x2F00, wordBytes [x.mu.prog, word (x.mu.k0 + x.mu.k1 * 2 ^ 32)]),
     (0x4000, ((List.range 1024).flatMap fun n => leBytes (mget 0 x.mu.latch n) 4) ++ leBytes x.mu.wfmt 8)]
  else []) ++
  (((List.range 8).filter fun n => live.getLsbD n).map fun n =>
    (0x6000 + 0x1000 * n, (List.range 32).flatMap fun r => leBytes (mget 0 x.mu.acc (32 * n + r)).toNat 128))

/-- Parts of an image written to memory. -/
def writeParts (pa : Nat) (l : List (Nat × List Byte)) : Act Unit := each l fun p => writeOwn (pa + p.1) p.2

/-! ### Swap-out (R396) -/

/-- The rank of the core at the other end of a standpipe binding, 0 when the thread has no rank there. -/
def peerRank (s : State) (t : Thread) (c dir : Nat) : Nat :=
  match neighbour c dir with
  | none => 0
  | some o => ((List.range (sheafAt s t.sheaf).members.length).find? fun r =>
      decide ((sheafAt s t.sheaf).members.getD r 2304 = o)).getD 0

/-- The binding of a channel register as CHSAVEn holds it; its layout is left open (log entry 33). -/
def bindingWord (s : State) (t : Thread) (c : Nat) : Binding → Word
  | .none => 0
  | .pipe dir remote => Config.channelWord [1, dir, remote, peerRank s t c dir]
  | .stream base stride count next vec => Config.channelWord [2, base, stride, count, next, if vec then 1 else 0]

/-- The matrix commands of a thread that have not completed. -/
def matrixBusy (x : Core) (k inc : Nat) : Bool :=
  let mine := fun (c : Cmd) => decide (c.slot = k) && decide (c.inc = inc) && !isCopy c
  (x.cmds.any fun e => mine e.2) || x.mu.queue.any mine || x.mu.staged.any fun e => e.2.started && e.2.cmd.elim false mine

/-- Whether a thread that is to leave its slot may (R161, R337, R396): its store words are acknowledged, its matrix commands
complete, its marks acknowledged, and no taking operation of its is under way. -/
def mayLeave (s : State) (c k : Nat) (t : Thread) : Bool :=
  let x := coreAt s c
  (sentBy x k t).isEmpty && !matrixBusy x k t.incarn.toNat &&
    !(t.waits.any fun w => match w with
      | .marks n => decide (n ≠ 0)
      | _ => false) &&
    (t.retry.elim true fun l => l.out.isEmpty) && (t.trap.elim true fun l => l.out.isEmpty)

/-- The lowest free entry of a context cache. -/
def freeCache (s : State) (c : Nat) : Option Nat :=
  (List.range 32).find? fun e => !(coreAt s c).cache.any fun y => decide (y.1 = e)

/-- The resume record of a slot (R303). -/
def setRecord (c k : Nat) (r : ResumeRec) : Act Unit :=
  modCore c fun x => { x with mu := { x.mu with resume := mset ResumeRec.reset x.mu.resume k r } }

/-- A thread leaves its slot for a cache entry (R393, R394, R396); its resume record leaves with it (R303). -/
def swapThread (c k e : Nat) (t : Thread) : Act Unit := do
  let s ← look id
  each (List.range 8) fun q => write64 (launchPa c k (0xC0 + 8 * q)) (bindingWord s t c (chanAt (coreAt s c) q).bind)
  let u ← look id
  let pa := entryPa u c e
  writeParts pa (livingParts (coreAt u c) t ++ maskedParts (coreAt u c) t.livemask ++
    [(0x3000, bytesAt u (launchPa c k 0) 0x1000)])
  modCore c fun x =>
    { x with cache := mins (mdel x.cache e) e ⟨t, k, c, s.cycle, frontierAt s c t.sheaf, false,
      mget ResumeRec.reset (coreAt u c).mu.resume k, (slotAt s c k).starts⟩ }
  setRecord c k ResumeRec.reset
  countReg c 0x0F58 1
  vacate c k

/-- A block that has not committed is abandoned to the retry latch (R250, R343, R396). -/
def abandonBlock (c k : Nat) : Act Unit := do
  releaseBlock c k
  modThread c k fun t =>
    { t with next := if t.block.isSome then (t.retry.elim t.next (·.addr)) else t.next, block := none }

/-- SWAP_OUT (R396): the swap-out waits for what R337 and R396 name, abandons the block, and waits for a free cache entry. A
thread that has only its task to end ends. -/
def execSwapOut (core slot : Nat) (s : State) : Host.Outcome State Fault Refusal :=
  .next (run (match threadAt s core slot with
    | none => pure ()
    | some t =>
      onlyIf (decide (t.wait = .swapping))
        (if !mayLeave s core slot t then later 1 5 (core * 16 + slot) (.swapOut core slot)
        else if t.ending then removeThread core slot
        else do
          each t.owed fun d => countAt core d.1 d.2 (-1)
          modThread core slot fun t => { t with owed := [] }
          abandonBlock core slot
          let u ← look (threadAt · core slot)
          match freeCache s core, u with
          | some e, some u => swapThread core slot e { u with wait := .nothing }
          | _, _ => later 1 5 (core * 16 + slot) (.swapOut core slot))) s)

/-! ### Restore (R111, R398) -/

/-- A command of a thread under its new slot and incarnation. -/
def renameCmd (c k inc d l jnc : Nat) (x : Cmd) : Cmd :=
  if x.core = c ∧ x.slot = k ∧ x.inc = inc then { x with core := d, slot := l, inc := jnc } else x

/-- What names a thread by core, slot and incarnation follows it when a restore changes them: the writer tags of its open
buffers and its running commands (log entry 34). -/
def renameThread (c k inc l jnc : Nat) : Act Unit := do
  let s ← look id
  let f := renameCmd c k inc c l jnc
  each s.cores fun x => each x.2.cells fun e =>
    onlyIf (decide (e.2.writer = some (c, k, inc))) (modCell x.1 e.1 fun y => { y with writer := some (c, l, jnc) })
  each s.siphons fun x => modSiphon x.1 fun y => { y with queue := y.queue.map f }
  modCore c fun x => { x with
    cmds := x.cmds.map fun e => (e.1, f e.2),
    mu := { x.mu with
      queue := x.mu.queue.map f,
      staged := x.mu.staged.map fun e => (e.1, { e.2 with cmd := e.2.cmd.map f }) } }

/-- The parts of an image that a restore writes back at a core (R398): weights, microprogram, tables, accumulators. -/
def restoreParts (c pa : Nat) (live : Word) : Act Unit := do
  let s ← look id
  modCore c fun x =>
    let tabs := ((List.range 4).filter fun b => live.getLsbD (9 + b)).foldl (fun m b =>
      match tableOfImage (bytesAt s (pa + 0x2A00 + 288 * b) 276) with
      | some t => mset TableBuf.zero m b t
      | none => m) x.tables
    let acc := ((List.range 8).filter fun n => live.getLsbD n).foldl (fun m n =>
      (List.range 32).foldl (fun m r =>
        mset 0 m (32 * n + r) (BitVec.ofNat 1024 (natAt s (pa + 0x6000 + 0x1000 * n + 128 * r) 128))) m) x.mu.acc
    let mu := { x.mu with acc := acc }
    let mu := if live.getLsbD 8 then
        { mu with
          prog := word64At s (pa + 0x2F00), k0 := natAt s (pa + 0x2F08) 4, k1 := natAt s (pa + 0x2F0C) 4,
          latch := (List.range 1024).foldl (fun m n => mset 0 m n (natAt s (pa + 0x4000 + 4 * n) 3)) [],
          wfmt := natAt s (pa + 0x5000) 8 }
      else mu
    { x with tables := tabs, mu := mu }

/-- A thread enters a slot with an incarnation, and goes on with its wait or its next block (R398). -/
def enterSlot (c k : Nat) (inc : BitVec 16) (t : Thread) (pa : Nat) : Act Unit := do
  let s ← look id
  writeBytes (launchPa c k 0) (bytesAt s (pa + 0x3000) 0x1000)
  modSlot c k fun y =>
    { y with
      state := .running, incarn := inc, starts := if inc = y.incarn then y.starts else y.starts + 1,
      thread := some { t with incarn := inc, block := none, parkedOn := .nothing } }
  goOn c k

/-- The slot that a cached thread is restored into: the one that it left when it is Free, else the lowest Free one. -/
def restoreSlot (s : State) (c : Nat) (x : Cached) : Option Nat :=
  if (freeSlots s c).contains x.slot then some x.slot else (freeSlots s c).head?

/-- RESTORE (R398): a ready cached thread enters a Free slot of its core; it keeps its incarnation when no thread has started
since in the slot that it left (R111). -/
def execRestore (core entry : Nat) (s : State) : Host.Outcome State Fault Refusal :=
  .next (run (match (coreAt s core).cache.find? fun e => decide (e.1 = entry) with
    | none => pure ()
    | some e =>
      match restoreSlot s core e.2 with
      | none => pure ()
      | some k => onlyIf ((readyEntries s core).contains entry && !isFenced s core) (do
        let x := e.2
        let same := decide (k = x.slot) && decide ((slotAt s core k).starts = x.starts)
        let inc := if same then x.thread.incarn else nextIncarn s core k
        let pa := entryPa s core entry
        modCore core fun y => { y with cache := mdel y.cache entry }
        onlyIf (!same) (do
          renameThread core x.slot x.thread.incarn.toNat k inc.toNat
          setCreg core (0x0E00 + 8 * k) 0)
        restoreParts core pa x.thread.livemask
        setRecord core k x.record
        enterSlot core k inc x.thread pa
        cutResumed)) s)

/-! ### CTXOUT and RESUME (R399) -/

/-- CTXOUT (R399): the whole image of an entry goes to GDDR7, with the input entries and semaphores as they now stand, and the
entry frees. -/
def execCtxout (core entry : Nat) (s : State) : Host.Outcome State Fault Refusal :=
  .next (run (match (coreAt s core).cache.find? fun e => decide (e.1 = entry) with
    | none => pure ()
    | some e => onlyIf (decide (e.2.thread.engs = 0) && decide (e.2.thread.opens = 0)) (do
        let t := e.2.thread
        let pa := entryPa s core entry
        writeOwn pa (imageLow core e.2.slot t e.2.record)
        writeParts pa (livingParts (coreAt s core) t)
        emit (.image pa (some t))
        modCore core fun y => { y with cache := mdel y.cache entry }
        cutResumed)) s)

/-- A latch of an image (R394). -/
def parseLatch (s : State) (pa : Nat) (gen : Nat) : Option Latch :=
  let w := natAt s (pa + 16) 8
  if word64At s pa = 0 ∧ w = 0 then none
  else some ⟨word64At s pa, word64At s (pa + 8), [gen],
    ((List.range 8).filter fun i => w.testBit i).map fun i =>
      ⟨w / 2 ^ (8 + 7 * i) % 128, .scalar (word64At s (pa + 24 + 8 * i)), 0, none⟩, []⟩

/-- A loop frame of an image. -/
def parseFrame (s : State) (pa : Nat) : List LoopFrame :=
  if natAt s pa 8 / 2 ^ 63 = 0 then []
  else [⟨BitVec.ofNat 32 (natAt s pa 4), BitVec.ofNat 2 (natAt s (pa + 8) 8), word64At s (pa + 16), word64At s (pa + 24)⟩]

/-- The special registers that a WR can write, as an image holds them: number and offset. -/
def savedSpecials : List (Nat × Nat) :=
  [(0x08, 0x68), (0x09, 0x70), (0x0A, 0x78), (0x0D, 0x80), (0x0E, 0x88), (0x0F, 0x90)] ++
    (List.range 8).map fun i => (0x10 + i, 0x98 + 8 * i)

/-- The thread of an image in memory (R394); its special registers take what a WR of the values would leave in them (R7, log entry
120). -/
def parseThread (s : State) (pa : Nat) : Thread :=
  let at_ := fun (o : Nat) => word64At s (pa + o)
  let w0 := (at_ 0).toNat
  let counts := (at_ 0x20).toNat
  let sheafW := (at_ 0x50).toNat
  let wait := waitOfCode (w0 / 2 ^ 57 % 16) (at_ 0x18)
  let held := parseLatch s (pa + 0x180) 0
  (savedSpecials.foldl (fun t r => setSpecial r.1 (at_ r.2) t))
  { Thread.fresh with
    g := (List.range 64).foldl (fun m i => mset (0, true) m i (at_ (0x400 + 8 * i), (at_ 0x280).getLsbD i)) [],
    v := (List.range 16).foldl (fun m i =>
      mset (0, true) m i (BitVec.ofNat 1024 (natAt s (pa + 0x600 + 128 * i) 128), (at_ 0x288).getLsbD i)) [],
    rank := at_ 0x40, nrank := at_ 0x48, sheaf := sheafW % 4096, noSheaf := sheafW / 4096 % 2 = 1,
    incarn := (at_ 0x58).setWidth 16, ltime := at_ 0x60,
    frames := parseFrame s (pa + 0x100) ++ parseFrame s (pa + 0x120),
    retry := held.filter fun l => !l.vals.isEmpty, trap := parseLatch s (pa + 0x200) 0,
    pins := counts % 2 ^ 16, opens := counts / 2 ^ 16 % 128, engs := counts / 2 ^ 32 % 2 ^ 16, wakep := w0.testBit 61,
    hndl := w0.testBit 62, livemask := at_ 8, semmask := at_ 16, asid := (sheafAt s (sheafW % 4096)).queue,
    next := held.elim 0 (·.addr), parkedOn := wait,
    waits := match wait with
      | .parked => [.parked]
      | .frontier t => [.frontier t]
      | _ => [] }

/-- The matrix resume record of an image (R303, R394). -/
def parseRecord (s : State) (pa : Nat) : ResumeRec :=
  let w := natAt s (pa + 0x2B8) 8
  ⟨w.testBit 63, w.testBit 9, w % 512, word64At s (pa + 0x2A0), word64At s (pa + 0x2A8), word64At s (pa + 0x2B0)⟩

/-- The thread that an image stands for: the one that CTXOUT wrote there, as long as the bytes of the thread are the same (log entry 32);
else what the bytes say. -/
def imageThread (s : State) (pa : Nat) : Thread :=
  match mget none s.images pa with
  | some t =>
    let w0 := (word64At s pa).toNat
    if bytesAt s pa 0x1000 = imageLow (w0 / 2 ^ 32 % 4096) (w0 / 2 ^ 52 % 16) t (parseRecord s pa) then t else parseThread s pa
  | none => parseThread s pa

/-- The entries of an input in an image (R394, R399). -/
def parseEntries (s : State) (pa q : Nat) : List PipeEntry :=
  (List.range 8).filterMap fun i =>
    let a := pa + 0x1000 + 160 * (8 * q + i)
    let live := word64At s (a + 128)
    let sh := natAt s (a + 136) 8
    if natAt s (a + 152) 8 / 2 ^ 63 = 0 then none
    else some ⟨if live = 0 then .scalar (word64At s a) else .vec (BitVec.ofNat 1024 (natAt s a 128)) live,
      if sh = 4096 then none else some (sh % 4096), word64At s (a + 144), natAt s (a + 152) 4, false⟩

/-- What a restore on another core writes besides (R399): the semaphores named and the saved entries of each input. -/
def restoreMoved (c pa : Nat) (t : Thread) : Act Unit := do
  let s ← look id
  each ((List.range 64).filter fun m => t.semmask.getLsbD m) fun m => modSem c m fun _ =>
    let a := pa + 0x2400 + 24 * m
    let w0 := natAt s a 8
    let w1 := natAt s (a + 8) 8
    { count := BitVec.ofNat 32 w0, covf := w0.testBit 32, short := BitVec.ofNat 48 w1, clip := w1.testBit 48,
      fovf := w1.testBit 63, fault := word64At s (a + 16) }
  each (maskInputs t.livemask) fun q => modChan c q fun y => { y with preload := y.preload ++ parseEntries s pa q }

/-- A thread resumed on another core enters its resume handler as a user trap of cause 0x07 (R399); without one its held
block re-executes. Its trap latch holds the held block; a wait that it had taken up after a commit goes on once the handler has
returned (log entry 135). -/
def enterResume (c k : Nat) (from_ : Nat) : Act Unit := do
  let s ← look id
  match threadAt s c k with
  | none => pure ()
  | some t =>
    let vec := word64At s (launchPa c k 0x88)
    if vec = 0 then pure ()
    else if t.hndl then serviceFault c k 0x16 0x07 0xFF (word from_)
    else
      let held : Latch := t.retry.getD ⟨t.next, t.ltime, [], [], []⟩
      modThread c k fun t =>
        { t with
          trap := some held, retry := none, trapcause := causeWord false 0xFF 0 0x07, trapinfo0 := t.next,
          trapinfo1 := word from_, hndl := true, next := vec, waits := [], resumeWaits := t.waits }

/-- RESUME (R399): an image is restored into a Free slot of this core. -/
def execResume (core addr : Nat) (s : State) : Host.Outcome State Fault Refusal :=
  .next (run (match freeSlots s core with
    | [] => pure ()
    | k :: _ => onlyIf (!isFenced s core) (do
      let t := imageThread s addr
      let from_ := (word64At s addr).toNat / 2 ^ 32 % 4096
      let inc := nextIncarn s core k
      setCreg core (0x0E00 + 8 * k) 0
      emit (.image addr none)
      restoreParts core addr t.livemask
      setRecord core k (parseRecord s addr)
      onlyIf (decide (from_ ≠ core)) (restoreMoved core addr t)
      writeBytes (launchPa core k 0) (bytesAt s (addr + 0x3000) 0x1000)
      modSlot core k fun y =>
        { y with
          state := .running, incarn := inc, starts := y.starts + 1,
          thread := some { t with incarn := inc, block := none, parkedOn := .nothing } }
      onlyIf (decide (from_ ≠ core)) (enterResume core k from_)
      let u ← look (threadAt · core k)
      onlyIf (u.elim false fun u => decide (u.wait ≠ .fault)) (goOn core k))) s)

/-! ### Park timeout and pre-emption (R397) -/

/-- The thread of a core that has been parked longest and for more than PARKTO cycles: since when and its slot. -/
def longestParked (s : State) (c : Nat) : Option (Nat × Nat) :=
  (List.range 16).foldl (fun best k =>
    match threadAt s c k with
    | none => best
    | some t =>
      match parkedSince s c k t with
      | none => best
      | some n =>
        if (slotAt s c k).state = .running ∧ (creg s c 0x0F20).toNat < s.cycle - n ∧ (best.elim true fun b => decide (n < b.1)) then
          some (n, k)
        else best) none

/-- PARK_TIMEOUT (R397): while work waits for a slot and none is Free, the thread parked longest past PARKTO is swapped
out. -/
def execParkTimeout (core : Nat) (s : State) : Host.Outcome State Fault Refusal :=
  .next (run (onlyIf ((freeSlots s core).isEmpty && hasWork s core)
    (match longestParked s core with
    | some (_, k) => startSwap core k
    | none => later 1 5 core (.parkTimeout core))) s)

/-- A write of PREQ (R397). -/
def writePreq (core : Nat) (v : Word) : Act Unit := do
  let s ← look id
  let old := creg s core 0x0F28
  let live := (List.range 16).filter fun k => v.getLsbD k && (threadAt s core k).isSome
  setCreg core 0x0F28 (word (live.foldl (fun m k => m + 2 ^ k) 0))
  each (live.filter fun k => !old.getLsbD k) fun k => do
    modCore core fun x => { x with preqSince := mset 0 x.preqSince k s.cycle }
    later (creg s core 0x0F30).toNat 5 (core * 16 + k) (.preemptTimeout core k s.cycle)

/-- PREQ_WRITE (R397): pre-emption of slots is requested; a bit whose slot holds no thread is cleared at once; that of the
service slot stays, without effect, until its thread ends. -/
def execPreqWrite (core : Nat) (v : Word) (s : State) : Host.Outcome State Fault Refusal :=
  .next (run (writePreq core v) s)

/-- PREEMPT_TIMEOUT (R397): a thread whose pre-emption is overdue is swapped out at once when it is parked; else its next
commit does it. -/
def execPreemptTimeout (core slot since : Nat) (s : State) : Host.Outcome State Fault Refusal :=
  .next (run (match threadAt s core slot with
    | none => pure ()
    | some t =>
      onlyIf ((creg s core 0x0F28).getLsbD slot && decide (mget 0 (coreAt s core).preqSince slot = since) &&
          decide (t.wait ≠ .swapping) && decide ((slotAt s core slot).state = .running))
        (if isParked s core slot t then startSwap core slot
        else later 1 5 (core * 16 + slot) (.preemptTimeout core slot since))) s)

end Sys2Proof.Machine
end

