-- ==== Sys2Proof/Machine/Traps.lean ====
section
/-! DEFINITION. TRAP, TRET, PPT, HALT (R405-R407), the acknowledgement of service faults (R390), the service slot (R391,
R403), scope-miss (R338, R339), and cell entries written through system space (R48, R402). -/

namespace Sys2Proof.Machine

open Sys2Proof

/-! ### Instructions (R405-R407) -/

/-- TRAP (R405): user trap 0x01 when it fires. -/
def execTrap (p : Pred) (s : State) : Host.Outcome State Fault Refusal :=
  fireAct s fun f =>
    match predicateHolds p f, asScalar f.l with
    | true, some a => do
      takeTurn f 511 511 noFlags []
      raise f.c f.k ⟨0x01, 0, f.i, a⟩
    | _, _ => completeAct f 511 511 .null .null noFlags []

/-- TRET (R405). -/
def execTret (p : Pred) (s : State) : Host.Outcome State Fault Refusal :=
  exitToken p s fun _ => [.trapReturn false]

/-- TRET.RETRY (R405): with an empty trap latch it fires no exit. -/
def execTretRetry (p : Pred) (s : State) : Host.Outcome State Fault Refusal :=
  fireAct s fun f =>
    match predicateHolds p f, f.th.trap with
    | true, some l => fireExit f false l.addr [.trapReturn true]
    | _, _ => completeAct f 511 511 .null .null noFlags []

/-- PPT (R406). -/
def execPpt (p : Pred) (s : State) : Host.Outcome State Fault Refusal :=
  fireAct s fun f =>
    match predicateHolds p f, asScalar f.l, asScalar f.r with
    | true, some a, some b => completeAct f 511 511 .null .null noFlags [.masks a b]
    | _, _, _ => completeAct f 511 511 .null .null noFlags []

/-- How many effects of a block are cell instructions of a kind. -/
def cellEffs (b : Block) (p : CellOp → Bool) : Nat := (b.effs.filter fun e => isCellEff p e.2).length

/-- Whether an operation opens a buffer, or closes one that a CWR opened (R352, R353). -/
def isOpening : CellOp → Bool
  | .cwr _ => true
  | _ => false
def isCcmt : CellOp → Bool
  | .ccmt _ => true
  | _ => false

/-- PINS and OPENS as they will stand at the commit of the block (R407). -/
def pinsAfter (f : Fire) : Nat := f.th.pins + cellEffs f.b isCrd - cellEffs f.b isCrel
def opensAfter (f : Fire) : Nat := f.th.opens + cellEffs f.b isOpening - cellEffs f.b isCcmt

/-- HALT (R407): refused with user trap 0x08 while pins or buffers would be held; else the thread ends at the commit. -/
def execHalt (p : Pred) (s : State) : Host.Outcome State Fault Refusal :=
  fireAct s fun f =>
    if predicateHolds p f then
      if pinsAfter f ≠ 0 ∨ opensAfter f ≠ 0 then do
        takeTurn f 511 511 noFlags []
        raise f.c f.k ⟨0x08, if pinsAfter f ≠ 0 then 0 else 1, f.i,
          word (pinsAfter f % 2 ^ 16 + opensAfter f % 128 * 2 ^ 16)⟩
      else completeAct f 511 511 .null .null noFlags [.halt]
    else completeAct f 511 511 .null .null noFlags []

/-! ### Scope-miss (R338, R339) -/

/-- The widest reach of the missed words of a thread. -/
def widestReach (s : State) (c : Nat) (ws : List SentWord) : Nat :=
  ws.foldl (fun m w => max m (reachOf c (ownerOf s (w.word.word * 8)))) 0

/-- The store words of a thread that have come back as scope-misses. -/
def missedOf (x : Core) (k inc : Nat) : List SentWord :=
  x.sent.filter fun w => w.missed && decide (w.word.slot = k) && decide (w.inc = inc)

/-- The missed words of one commit leave again, at their reach, once every word of that commit that its scope misses has come
back, and the words of the thread that left at or before that commit and lie within the widest of those reaches are acknowledged
(R339). -/
def reissueCommit (c k inc n : Nat) : Act Unit := do
  let s ← look id
  let x := coreAt s c
  let ms := (missedOf x k inc).filter fun w => decide (w.commit = n)
  let wide := widestReach s c ms
  let toCome := x.sent.any fun w =>
    decide (w.word.slot = k) && decide (w.inc = inc) && decide (w.commit = n) && !w.missed && !w.again &&
      w.word.tag.elim false fun z => decide (encScope z < reachOf c (ownerOf s (w.word.word * 8)))
  let ahead := x.sent.any fun w =>
    decide (w.word.slot = k) && decide (w.inc = inc) && !(w.missed && decide (w.commit = n)) && decide (w.commit ≤ n) &&
      decide (reachOf c (ownerOf s (w.word.word * 8)) ≤ wide)
  onlyIf (!ms.isEmpty && !toCome && !ahead) (each ms fun w => do
    let tag := decScope (reachOf c (ownerOf s (w.word.word * 8)))
    modCore c fun x => { x with sent := x.sent.map fun e =>
      if e.word.sid = w.word.sid then { e with missed := false, again := true } else e }
    launchWord { w.word with tag := tag })

/-- The missed words of a thread leave again, commit by commit (R339). -/
def reissueMissed (c k inc : Nat) : Act Unit := do
  let s ← look id
  each ((missedOf (coreAt s c) k inc).map (·.commit)).eraseDups (reissueCommit c k inc)

/-- Whether a scope-miss of a thread is still being served. -/
def missPending (x : Core) (k inc : Nat) : Bool :=
  x.sent.any fun w => decide (w.word.slot = k) && decide (w.inc = inc) && (w.missed || w.again)

/-- A scope-miss fault is acknowledged by the service hardware once its reissues have ended (R339, R390). -/
def endMiss (c k : Nat) : Act Unit := do
  let s ← look id
  match threadAt s c k with
  | none => pure ()
  | some t =>
    onlyIf (decide (t.wait = .fault) && decide ((creg s c (0x1000 + 32 * k)).toNat % 256 = 0x15) &&
        (creg s c 0x0F10).getLsbD k && !missPending (coreAt s c) k t.incarn.toNat && !isPending s (.fackRetry c k))
      (later 0 5 (c * 16 + k) (.fackRetry c k))

/-- SCOPE_MISS (R339): the word is unacknowledged until it is performed; its thread takes the service fault unless it has
one, and the word leaves again at its reach. -/
def execScopeMiss (w : StoreWord) (s : State) : Host.Outcome State Fault Refusal :=
  .next (run (do
    let c := w.core
    match (coreAt s c).sent.find? fun e => decide (e.word.sid = w.sid) with
    | none => pure ()
    | some e => do
      modCore c fun x => { x with sent := x.sent.map fun y =>
        if y.word.sid = w.sid then
          { y with missed := true, word := { y.word with tag := none, slack := w.slack, exh := w.exh } } else y }
      onlyIf ((threadAt s c w.slot).elim false fun t => decide (t.incarn.toNat = e.inc))
        (serviceFault c w.slot 0x15 (reachOf c (ownerOf s (w.word * 8))) 0xFF w.va)
      reissueMissed c w.slot e.inc) s)

/-- STORE_ACKNOWLEDGEMENT (R326): the word is performed; what waited for it may go on (R231, R336, R339). -/
def execStoreAcknowledgement (core slot sid : Nat) (s : State) : Host.Outcome State Fault Refusal :=
  .next (run (do
    match (coreAt s core).sent.find? fun w => decide (w.word.sid = sid) with
    | none => pure ()
    | some w => do
      onlyIf w.again (countReg core 0x0CA0 1)
      pokeForeign (w.word.word * 8)
      modCore core fun x => { x with sent := x.sent.filter fun y => decide (y.word.sid ≠ sid) }
      reissueMissed core slot w.inc
      endMiss core slot
    sendWords core
    sendReady core slot
    onlyIf (!(coreAt s core).batches.isEmpty) (later 0 7 core (.deltaBatch core))) s)

/-! ### Acknowledged faults (R390) -/

/-- Whether every request of a faulted execution, to memory or to a cell's home, has been answered, and no scope-miss of the thread is
pending. -/
def faultSettled (s : State) (c k : Nat) (t : Thread) : Bool :=
  (t.block.elim true fun b => b.asked.isEmpty && b.pend.all fun p => decide (p.2.out = 0)) && !missPending (coreAt s c) k t.incarn.toNat

/-- An action of FACK on a slot takes effect once its fault is settled; until then it is tried again in the next cycle. -/
def whenSettled (c k : Nat) (again : Instr) (act : Thread → Act Unit) : Act Unit := do
  let s ← look id
  match threadAt s c k with
  | none => pure ()
  | some t =>
    onlyIf (decide (t.wait = .fault))
      (if faultSettled s c k t then act t else later 1 5 (c * 16 + k) again)

/-- FACK_RETRY (R390): the held block executes again. -/
def execFackRetry (core slot : Nat) (s : State) : Host.Outcome State Fault Refusal :=
  .next (run (whenSettled core slot (.fackRetry core slot) fun _ => do
    clearPending core slot
    modThread core slot fun t => { t with wait := .nothing }
    if stopsForCut s core slot then startSwap core slot else retryHeld core slot) s)

/-- FACK_TRAP (R390): the fault is delivered as a user trap with SVC = 1. -/
def execFackTrap (core slot : Nat) (s : State) : Host.Outcome State Fault Refusal :=
  .next (run (whenSettled core slot (.fackTrap core slot) fun _ => do
    let w := (creg s core (0x1000 + 32 * slot)).toNat
    clearPending core slot
    modThread core slot fun t => { t with wait := .nothing }
    userTrap core slot (w % 256) (w / 256 % 256) (w / 65536 % 256) (creg s core (0x1010 + 32 * slot)) true) s)

/-- FACK_END (R390): the thread ends without the checks of HALT, and its sheaf receives an error event. -/
def execFackEnd (core slot : Nat) (s : State) : Host.Outcome State Fault Refusal :=
  .next (run (whenSettled core slot (.fackEnd core slot) fun t => do
    match sheafOf t with
    | some n => errorEvent n
    | none => pure ()
    endThread core slot t.ltime) s)

/-- FACK (R390): the action on the slot of bits 3:0. -/
def writeFack (c : Nat) (v : Word) : Act Unit := do
  let s ← look id
  let k := v.toNat % 16
  onlyIf (!fackRefused s c v)
    (match v.toNat / 16 % 4 with
    | 0 => later 0 5 (c * 16 + k) (.fackRetry c k)
    | 1 => later 0 5 (c * 16 + k) (.fackTrap c k)
    | _ => later 0 5 (c * 16 + k) (.fackEnd c k))

/-! ### The service slot (R110, R391, R403) -/

/-- A write of SVCCFG (R403). -/
def writeSvccfg (core : Nat) (v : Word) : Act Unit := do
  let s ← look id
  onlyIf (!svcRefused s core v) (do
  let x := slotAt s core 15
  setCreg core 0x0F00 (v &&& 0xFF1F)
  if v.getLsbD 0 then do
    onlyIf (decide (x.state = .free)) (do
      modSlot core 15 fun y => { y with state := .service }
      onlyIf (!isFenced s core) (startService core))
  else onlyIf (decide (x.state = .service) && x.thread.isNone) (do
    modSlot core 15 fun y => { y with state := .free }
    pokeSlots core))

/-- SVCCFG_WRITE (R403): slot 15 becomes the service slot and its thread starts, or the slot is given up. -/
def execSvccfgWrite (core : Nat) (v : Word) (s : State) : Host.Outcome State Fault Refusal :=
  .next (run (writeSvccfg core v) s)

/-! ### Cell entries (R23, R24, R48, R402) -/

/-- A staged descriptor with word w written (R24). -/
def stageWord (w : Nat) (v : Word) (e : CellEntry) : CellEntry :=
  let n := v.toNat
  match w with
  | 0 => { e with
      satcnt := BitVec.ofNat 32 n, sheaf := BitVec.ofNat 12 (n / 2 ^ 40), fmt := BitVec.ofNat 4 (n / 2 ^ 52),
      wopen := n.testBit 56, bva := n.testBit 57, bvb := n.testBit 58, home := n.testBit 59, cur := n.testBit 60 }
  | 1 => { e with
      addrX := BitVec.ofNat 32 n, pinX := BitVec.ofNat 16 (n / 2 ^ 32), pinY := BitVec.ofNat 16 (n / 2 ^ 48) }
  | 2 => { e with timeX := v }
  | 3 => { e with timeY := v }
  | 4 => { e with stale := v }
  | 5 => { e with
      deps := BitVec.ofNat 18 n, shape := BitVec.ofNat 15 (n / 2 ^ 18), brecA := BitVec.ofNat 15 (n / 2 ^ 33),
      brecB := BitVec.ofNat 15 (n / 2 ^ 48) }
  | 6 => { e with fromA := v }
  | _ => { e with fromB := v }

/-- CELL_INSTALL (R402): the staged descriptor becomes valid, subject to R48. -/
def execCellInstall (core entry : Nat) (s : State) : Host.Outcome State Fault Refusal :=
  .next (run (onlyIf (!cellRefused s core entry 8 1) (do
    modCell core entry fun e => { e with valid := true }
    pokeHeld core)) s)

/-- CELL_REMOVE (R402): an idle cell leaves the directory. -/
def execCellRemove (core entry : Nat) (s : State) : Host.Outcome State Fault Refusal :=
  .next (run (onlyIf (!cellRefused s core entry 8 0) (do
    modCell core entry fun e => { e with valid := false, writer := none }
    pokeHeld core)) s)

/-- A write to a word of a cell entry (R402). -/
def writeCellWord (c i w : Nat) (v : Word) : Act Unit := do
  let s ← look id
  onlyIf (!cellRefused s c i w v)
    (if w < 8 then modCell c i (stageWord w v)
    else if v = 1 then do
      modCell c i fun e => { e with valid := true }
      pokeHeld c
    else do
      modCell c i fun e => { e with valid := false, writer := none }
      pokeHeld c)

end Sys2Proof.Machine
end

