-- ==== Sys2Proof/Machine/Cuts.lean ====
section
/-! DEFINITION. Consistent cuts (R86, R400, R401) and TASK_DISPATCH. -/

namespace Sys2Proof.Machine

open Sys2Proof

/-! ### How a core stops for a cut (R401) -/

/-- Whether a core holds a member, a cell or a task of a sheaf (R401). -/
def holdsSheaf (s : State) (c n : Nat) : Bool :=
  let x := coreAt s c
  ((List.range 16).any fun k => (threadAt s c k).elim false fun t => decide (sheafOf t = some n)) ||
    (x.cache.any fun e => decide (sheafOf e.2.thread = some n)) ||
    (x.cells.any fun e => e.2.valid && decide (e.2.sheaf.toNat = n)) || x.deque.any fun e => decide (e.sheaf = n)

/-- Whether the cut in progress uses marker tokens (R400). -/
def markerMode (s : State) : Bool := (mreg s 0x0820).getLsbD 12

/-- The resident threads of the cut sheaf on a core; a Service slot is never swapped out (R397). -/
def cutThreads (s : State) (c : Nat) : List Nat :=
  (List.range 16).filter fun k => decide ((slotAt s c k).state = .running) && (threadAt s c k).elim false fun t =>
    (sheafOf t).isSome && decide (sheafOf t = cutSheaf s)

/-- Whether a thread of the cut sheaf leaves its slot now: it runs no block, or is parked in one. A running block goes on to its
commit (R387). -/
def mayStop (s : State) (c k : Nat) : Bool :=
  (threadAt s c k).elim false fun t =>
    decide (t.wait ≠ .fault) && decide (t.wait ≠ .swapping) &&
      (t.block.isNone || isParked s c k t)

/-- The hardware deque of a core that stops goes to the spill ring as far as that has room. -/
def spillAll (c : Nat) : Act Unit := do
  let s ← look id
  let x := coreAt s c
  onlyIf ((cutSheaf s).elim false fun n => holdsSheaf s c n) (spillOldest c (min x.deque.length (1024 - x.spillCount)))

/-- A core begins to stop: its threads of the sheaf leave, its hardware deque goes to the spill ring. -/
def cutStart (c : Nat) : Act Unit := do
  let s ← look id
  onlyIf (!(coreAt s c).cutSeen) (do
    modCore c fun x => { x with cutSeen := true }
    each (cutThreads s c) fun k => onlyIf (mayStop s c k) (startSwap c k)
    spillAll c
    pokeSlots c)

/-- The cached threads of the cut sheaf on a core: entry and thread. -/
def cutCached (s : State) (c : Nat) : List (Nat × Cached) :=
  (coreAt s c).cache.filter fun e => (sheafOf e.2.thread).isSome && decide (sheafOf e.2.thread = cutSheaf s)

/-- Whether a channel register was bound by a thread of the cut sheaf (R401). -/
def isCutChannel (s : State) (c q : Nat) : Bool :=
  let n := (chanAt (coreAt s c) q).sheaf
  n.isSome && decide (n = cutSheaf s)

/-- The matched outputs of the cut sheaf on a core: register, and core and register of the other end. -/
def matchedOutputs (s : State) (c : Nat) : List (Nat × Nat × Nat) :=
  ([4, 5, 6, 7].filter (isCutChannel s c)).filterMap fun q => (matchedPeer s c q).map fun p => (q, p.1, p.2)

/-- The input entries and semaphores of the images of the cut sheaf on a core are written as they stand (R401). -/
def cutImages (c : Nat) : Act Unit := do
  let s ← look id
  each (cutCached s c) fun e => writeParts (entryPa s c e.1) (livingParts (coreAt s c) e.2.thread)

/-- A core that has no resident thread of the sheaf left has stopped: what has joined its deque meanwhile is spilled, its images are
written wholly; then it flips its colour or sends its markers. -/
def cutStop (c : Nat) : Act Unit := do
  spillAll c
  let s ← look id
  each (cutCached s c) fun e => writeOwn (entryPa s c e.1) (imageLow c e.2.slot e.2.thread e.2.record)
  cutImages c
  if markerMode s then do
    modCore c fun x => { x with cutStopped := true }
    each (matchedOutputs s c) fun p => later 1 5 (46400 + p.2.1) (.cutMarker p.2.1 p.2.2)
  else modCore c fun x => { x with cutStopped := true, colour := !x.colour, flipped := true }

/-- Whether commands of a sheaf that a core has issued are still running. -/
def commandsRun (s : State) (c n : Nat) : Bool :=
  let mine := fun (x : Cmd) => decide (x.core = c) && decide (x.sheaf = some n)
  let x := coreAt s c
  (x.cmds.any fun e => mine e.2) || x.mu.queue.any mine || (x.mu.staged.any fun e => e.2.started && e.2.cmd.elim false mine) ||
    s.siphons.any fun y => y.2.queue.any mine

/-- The inputs of a core whose other end is an output of the cut sheaf on a core that stops too. -/
def cutInputs (s : State) (c : Nat) : List Nat :=
  (List.range 4).filter fun q => (matchedPeer s c q).elim false fun p => (coreAt s p.1).cutSeen && isCutChannel s p.1 p.2

/-- Whether a stopped core has all that a cut by markers waits for. -/
def cutSettled (s : State) (c : Nat) : Bool :=
  let x := coreAt s c
  x.cutStopped && ((cutInputs s c).all fun q => (chanAt x q).marker) && x.sent.isEmpty &&
    !(cutSheaf s).elim false fun n => commandsRun s c n

/-- The core of a cut by markers reports; the cut is complete when every core that stops has. -/
def cutReport (c : Nat) : Act Unit := do
  let s ← look id
  onlyIf (cutSettled s c && !s.cutReports.contains c) (do
    cutImages c
    emit (.cutReports (c :: s.cutReports))
    let t ← look id
    onlyIf (t.cores.all fun x => !x.2.cutSeen || t.cutReports.contains x.1) (setCutState 2))

/-- A core goes on with its stop for a cut. -/
def cutProgress (c : Nat) : Act Unit := do
  let s ← look id
  let x := coreAt s c
  onlyIf (x.cutSeen && (cutSheaf s).isSome) (do
    each (cutThreads s c) fun k => onlyIf (mayStop s c k) (startSwap c k)
    onlyIf (!x.cutStopped && (cutThreads s c).isEmpty) (cutStop c)
    onlyIf (markerMode s) (cutReport c)
    let t ← look id
    let going := if markerMode s then !t.cutReports.contains c else !(coreAt t c).cutStopped
    onlyIf (going && !isPending t (.taskDispatch c)) (later 1 6 (dispatchPlace c) (.taskDispatch c)))

/-- CUT_MARKER (R401): a marker arrives on a bound input. -/
def execCutMarker (core q : Nat) (s : State) : Host.Outcome State Fault Refusal :=
  .next (run (do
    modChan core q fun x => { x with marker := true }
    cutProgress core) s)

/-- The cores that hold anything at all. -/
def listedCoreNums (s : State) : List Nat :=
  (List.range 2304).filter fun c => s.cores.any (fun e => decide (e.1 = c)) || s.slots.any fun e => decide (e.1 / 16 = c)

/-- GO written to CUTCTL (R400). -/
def cutGo (v : Word) : Act Unit := do
  let s ← look id
  onlyIf (decide ((mreg s 0x0820).toNat / 2 ^ 16 = 0)) (do
  let n := v.toNat % 4096
  emit (.mreg 0x0820 (word (v.toNat % 2 ^ 13 + 2 ^ 16)))
  emit (.cutReports [])
  if v.getLsbD 12 then do
    let cs := (listedCoreNums s).filter fun c => holdsSheaf s c n
    each cs cutStart
    onlyIf cs.isEmpty (setCutState 2)
  else modRoot fun r => { r with cutFlag := true, cutAgree := 0 })

/-- CUTCTL_GO (R400): a cut of a sheaf starts when none is in progress. -/
def execCutctlGo (v : Word) (s : State) : Host.Outcome State Fault Refusal :=
  .next (run (cutGo v) s)

/-- RESUME written to CUTCTL (R401). -/
def cutResume : Act Unit := do
  let s ← look id
  onlyIf (decide ((mreg s 0x0820).toNat / 2 ^ 16 = 2)) (do
  let n := (mreg s 0x0820).toNat % 4096
  setCutState 3
  modRoot fun r => { r with cutFlag := false, cutAgree := 0 }
  emit (.cutReports [])
  each s.cores fun x => onlyIf x.2.cutSeen (do
    modCore x.1 fun y =>
      { y with
        cutSeen := false, cutStopped := false, flipped := false,
        chans := y.chans.map fun q => (q.1, { q.2 with marker := false }),
        cache := y.cache.map fun e => (e.1, { e.2 with forced := e.2.forced || decide (sheafOf e.2.thread = some n) }) }
    pokeSlots x.1)
  cutResumed)

/-- CUTCTL_RESUME (R401): every image of the sheaf is to be restored onto its own core; then the cut is idle again. -/
def execCutctlResume (s : State) : Host.Outcome State Fault Refusal :=
  .next (run (cutResume) s)

/-! ### TASK_DISPATCH -/

/-- TASK_DISPATCH (R34, R35, R112, R398): the Free slots of a core are filled in ascending order; a core that has none left
looks at the park timeout (R397), one with slots left asks for work (R115); fills whose thread is gone are dropped (R368); a
core with swapped-out threads looks at them again in the next cycle, and one that stops for a cut goes on with it (R401). -/
def execTaskDispatch (core : Nat) (s : State) : Host.Outcome State Fault Refusal :=
  .next (run (do
    onlyIf (!(coreAt s core).fills.isEmpty) (each (List.range 16) (retryFills core))
    fillService core
    each (freeSlots s core) (fillSlot core)
    callRestores core
    cutProgress core
    askSteal core
    let t ← look id
    onlyIf ((freeSlots t core).isEmpty && hasWork t core && !isPending t (.parkTimeout core)) (later 1 5 core (.parkTimeout core))
    onlyIf (!(coreAt t core).cache.isEmpty && !isPending t (.taskDispatch core)) (later 1 6 (dispatchPlace core) (.taskDispatch core))) s)

end Sys2Proof.Machine
end

