-- ==== Sys2Proof/Machine/Integer.lean ====
section
/-! DEFINITION. The integer, immediate and address instructions (R179-R185), SLICE aside. -/

namespace Sys2Proof.Machine

open Sys2Proof

/-- An integer instruction on its operands as its TYPE reads them (R180). -/
def intOp (p : Pred) (ty : IntType) (mode : SatMode) (tb ta : Target) (s : State) (k : Int → Int → Int) :
    Host.Outcome State Fault Refusal :=
  scalar2 p (t9 ta) (t9 tb) s fun a b => intResult ty mode (k (intOperand ty a) (intOperand ty b))

/-- ADD (R180). -/
def execAdd (p : Pred) (ty : IntType) (mode : SatMode) (tb ta : Target) (s : State) :
    Host.Outcome State Fault Refusal :=
  intOp p ty mode tb ta s fun a b => a + b

/-- SUB (R180). -/
def execSub (p : Pred) (ty : IntType) (mode : SatMode) (tb ta : Target) (s : State) :
    Host.Outcome State Fault Refusal :=
  intOp p ty mode tb ta s fun a b => a - b

/-- MUL (R180). -/
def execMul (p : Pred) (ty : IntType) (mode : SatMode) (tb ta : Target) (s : State) :
    Host.Outcome State Fault Refusal :=
  intOp p ty mode tb ta s fun a b => a * b

/-- MULH (R180): the product div 2^w, toward −∞. -/
def execMulh (p : Pred) (ty : IntType) (tb ta : Target) (s : State) :
    Host.Outcome State Fault Refusal :=
  intOp p ty .wrap tb ta s fun a b => (a * b) / (2 ^ intWidth ty : Nat)

/-- DIV (R180) and R52. -/
def execDiv (p : Pred) (ty : IntType) (tb ta : Target) (s : State) :
    Host.Outcome State Fault Refusal :=
  intOp p ty .wrap tb ta s intQuotient

/-- REM (R180) and R52. -/
def execRem (p : Pred) (ty : IntType) (tb ta : Target) (s : State) :
    Host.Outcome State Fault Refusal :=
  intOp p ty .wrap tb ta s intRemainder

/-- AND (R180). -/
def execAndI (p : Pred) (ty : IntType) (tb ta : Target) (s : State) :
    Host.Outcome State Fault Refusal :=
  scalar2 p (t9 ta) (t9 tb) s fun a b => intResult ty .wrap (lowBits ty (a &&& b))

/-- OR (R180). -/
def execOrI (p : Pred) (ty : IntType) (tb ta : Target) (s : State) :
    Host.Outcome State Fault Refusal :=
  scalar2 p (t9 ta) (t9 tb) s fun a b => intResult ty .wrap (lowBits ty (a ||| b))

/-- XOR (R180). -/
def execXorI (p : Pred) (ty : IntType) (tb ta : Target) (s : State) :
    Host.Outcome State Fault Refusal :=
  scalar2 p (t9 ta) (t9 tb) s fun a b => intResult ty .wrap (lowBits ty (a ^^^ b))

/-- SHL (R180). -/
def execShl (p : Pred) (ty : IntType) (tb ta : Target) (s : State) :
    Host.Outcome State Fault Refusal :=
  scalar2 p (t9 ta) (t9 tb) s fun a b => intResult ty .wrap (intOperand ty a * (2 ^ shiftAmount ty b : Nat))

/-- SHR (R180). -/
def execShr (p : Pred) (ty : IntType) (tb ta : Target) (s : State) :
    Host.Outcome State Fault Refusal :=
  scalar2 p (t9 ta) (t9 tb) s fun a b => intResult ty .wrap (lowBits ty a / 2 ^ shiftAmount ty b : Nat)

/-- SAR (R180). -/
def execSar (p : Pred) (ty : IntType) (tb ta : Target) (s : State) :
    Host.Outcome State Fault Refusal :=
  scalar2 p (t9 ta) (t9 tb) s fun a b =>
    intResult ty .wrap (sintOf (intWidth ty) (lowBits ty a) / (2 ^ shiftAmount ty b : Nat))

/-- MIN (R180). -/
def execMinI (p : Pred) (ty : IntType) (tb ta : Target) (s : State) :
    Host.Outcome State Fault Refusal :=
  intOp p ty .wrap tb ta s min

/-- MAX (R180). -/
def execMaxI (p : Pred) (ty : IntType) (tb ta : Target) (s : State) :
    Host.Outcome State Fault Refusal :=
  intOp p ty .wrap tb ta s max

/-- CMP (R180). -/
def execCmp (p : Pred) (ty : IntType) (cond : Cond) (tb ta : Target) (s : State) :
    Host.Outcome State Fault Refusal :=
  scalar2 p (t9 ta) (t9 tb) s fun a b =>
    (boolWord (condHolds cond (intOperand ty a) (intOperand ty b)), noFlags)

/-- SEL (R181): the operand not chosen may be Null, and the chosen token is passed on as it is. -/
def execSel (tb ta : Target) (s : State) : Host.Outcome State Fault Refusal :=
  tokenOp .always (t9 ta) (t9 tb) s fun f =>
    match asScalar f.p with
    | some c => (if c.getLsbD 0 then f.l else f.r, noFlags)
    | none => (.null, noFlags)

/-- ADDI (R182). -/
def execAddi (p : Pred) (imm14 : BitVec 14) (ta : Target) (s : State) :
    Host.Outcome State Fault Refusal :=
  scalar1 p (t9 ta) 511 s fun a => (a + immS imm14, noFlags)

/-- MULI (R182). -/
def execMuli (p : Pred) (imm14 : BitVec 14) (ta : Target) (s : State) :
    Host.Outcome State Fault Refusal :=
  scalar1 p (t9 ta) 511 s fun a => (a * immS imm14, noFlags)

/-- ANDI (R182). -/
def execAndi (p : Pred) (imm14 : BitVec 14) (ta : Target) (s : State) :
    Host.Outcome State Fault Refusal :=
  scalar1 p (t9 ta) 511 s fun a => (a &&& immS imm14, noFlags)

/-- ORI (R182). -/
def execOri (p : Pred) (imm14 : BitVec 14) (ta : Target) (s : State) :
    Host.Outcome State Fault Refusal :=
  scalar1 p (t9 ta) 511 s fun a => (a ||| immS imm14, noFlags)

/-- XORI (R182). -/
def execXori (p : Pred) (imm14 : BitVec 14) (ta : Target) (s : State) :
    Host.Outcome State Fault Refusal :=
  scalar1 p (t9 ta) 511 s fun a => (a ^^^ immS imm14, noFlags)

/-- SHLI (R182). -/
def execShli (p : Pred) (sh6 : BitVec 6) (ta : Target) (s : State) :
    Host.Outcome State Fault Refusal :=
  scalar1 p (t9 ta) 511 s fun a => (a <<< sh6.toNat, noFlags)

/-- SHRI (R182). -/
def execShri (p : Pred) (sh6 : BitVec 6) (ta : Target) (s : State) :
    Host.Outcome State Fault Refusal :=
  scalar1 p (t9 ta) 511 s fun a => (a >>> sh6.toNat, noFlags)

/-- SARI (R182). -/
def execSari (p : Pred) (sh6 : BitVec 6) (ta : Target) (s : State) :
    Host.Outcome State Fault Refusal :=
  scalar1 p (t9 ta) 511 s fun a => (a.sshiftRight sh6.toNat, noFlags)

/-- CEQI (R182). -/
def execCeqi (p : Pred) (imm14 : BitVec 14) (ta : Target) (s : State) :
    Host.Outcome State Fault Refusal :=
  scalar1 p (t9 ta) 511 s fun a => (boolWord (decide (a = immS imm14)), noFlags)

/-- CNEI (R182). -/
def execCnei (p : Pred) (imm14 : BitVec 14) (ta : Target) (s : State) :
    Host.Outcome State Fault Refusal :=
  scalar1 p (t9 ta) 511 s fun a => (boolWord (decide (a ≠ immS imm14)), noFlags)

/-- CLTI (R182). -/
def execClti (p : Pred) (imm14 : BitVec 14) (ta : Target) (s : State) :
    Host.Outcome State Fault Refusal :=
  scalar1 p (t9 ta) 511 s fun a => (boolWord (decide (a.toInt < (immS imm14).toInt)), noFlags)

/-- CGEI (R182). -/
def execCgei (p : Pred) (imm14 : BitVec 14) (ta : Target) (s : State) :
    Host.Outcome State Fault Refusal :=
  scalar1 p (t9 ta) 511 s fun a => (boolWord (decide ((immS imm14).toInt ≤ a.toInt)), noFlags)

/-- LEA (R183). -/
def execLea (p : Pred) (scale : LeaScale) (tb ta : Target) (s : State) : Host.Outcome State Fault Refusal :=
  scalar2 p (t9 ta) (t9 tb) s fun a b => (a + b * word (2 ^ leaShift scale), noFlags)

/-- BITS (R185): `.EXT` and `.SEXT` alone use `.r`. -/
def execBits (p : Pred) (bop : BitsOp) (tb ta : Target) (s : State) : Host.Outcome State Fault Refusal :=
  match bop with
  | .ext | .sext => scalar2 p (t9 ta) (t9 tb) s fun a b => (bitsResult bop a b, noFlags)
  | _ => scalar1 p (t9 ta) (t9 tb) s fun a => (bitsResult bop a 0, noFlags)

end Sys2Proof.Machine
end

