-- ==== Sys2Proof/Machine/Tree.lean ====
section
/-! DEFINITION. The reduction tree: delta batches, sweeps and frontier announcements (R39, R42, R80-R86, R336). -/

namespace Sys2Proof.Machine

open Sys2Proof

/-! ### Delta batches (R80, R336) -/

/-- Whether every store word that left a core at or before a cycle is acknowledged (R336). -/
def storesAcked (x : Core) (cycle : Nat) : Bool := x.sent.all fun w => decide (cycle < w.commit)

/-- The batches of a core leave in the order in which they were formed, each once its stores are acknowledged. -/
def flushBatches (c : Nat) : List Batch → Act Unit
  | [] => pure ()
  | b :: bs => do
    let x ← look (coreAt · c)
    if storesAcked x b.formed then do
      modCore c fun x => { x with batches := x.batches.drop 1 }
      unitSendBy c c (regionRouter (regionOf c)) 5 29000 (.batchApply .region c b.batch b.formed)
      flushBatches c bs
    else pure ()

/-- A core forms a batch of its whole table and sends what may leave; the counts that wait for room are recorded. -/
def sendBatch (c : Nat) : Act Unit := do
  formBatch c
  let l ← look fun s => (coreAt s c).batches
  flushBatches c l
  let d ← look fun s => (coreAt s c).late
  takeLate c d

/-- DELTA_BATCH (R80). -/
def execDeltaBatch (core : Nat) (s : State) : Host.Outcome State Fault Refusal := .next (run (sendBatch core) s)

/-- BATCH_AGE_EXPIRY (R80): the table is sent 256 cycles after its oldest delta. -/
def execBatchAgeExpiry (core : Nat) (s : State) : Host.Outcome State Fault Refusal :=
  .next (run (onlyIf ((coreAt s core).countsSince.elim false fun n => decide (n + 256 ≤ s.cycle)) (sendBatch core)) s)

/-- The router at which the module frontier unit stands: beside the units of die 0 (log entry 63). -/
def rootRouter : Nat := unitRouter 0

/-- The entries that the table of a level holds (R82). -/
def levelSize : TreeLevel → Nat
  | .region => 256
  | .die => 16384
  | .module => 65536

/-- The number of the unit of a level that a batch from a unit below enters. -/
def levelUnit : TreeLevel → Nat → Nat
  | .region, c => regionOf c
  | .die, r => r / 72
  | .module, _ => 0

/-- The tree unit of a level. -/
def treeUnit (s : State) (lv : TreeLevel) (u : Nat) : TreeUnit :=
  match lv with
  | .region => mget ⟨[], [], []⟩ s.regions u
  | .die => (dieAt s u).tree
  | .module => s.root.tree

def setTreeUnit (lv : TreeLevel) (u : Nat) (x : TreeUnit) : Act Unit :=
  match lv with
  | .region => emit (.region u x)
  | .die => modDie u fun d => { d with tree := x }
  | .module => modRoot fun r => { r with tree := x }

/-- A delta as the root records it: one below the announced frontier of its sheaf stands at that frontier (R85). -/
def atFrontier (s : State) (d : Delta) : Delta :=
  let f := (sheafAt s d.sheaf).front
  if d.time.toNat < f.toNat then { d with time := f } else d

/-- The deltas of sheaves that this module counts, and those that other nodes count with the node (R82). -/
def ownDeltas (s : State) (ds : List Delta) : List Delta := ds.filter fun d => (sheafAt s d.sheaf).lead.isNone
def foreignDeltas (s : State) (ds : List Delta) (n : Nat) : List Delta :=
  ds.filter fun d => decide ((sheafAt s d.sheaf).lead = some n)

/-- The nodes that count sheaves of a batch. -/
def leadNodes (s : State) (ds : List Delta) : List Nat := (ds.filterMap fun d => (sheafAt s d.sheaf).lead).dedup

/-- The deltas of a batch as a level records them; a region's aggregator records none of a fenced core (R427). -/
def levelDeltas (s : State) (lv : TreeLevel) (b : DeltaBatch) : List Delta :=
  match lv with
  | .module => (ownDeltas s b.deltas).map (atFrontier s)
  | .die => b.deltas
  | .region => if b.fenced then [] else b.deltas

/-- Whether a level accepts a batch: it brings no deltas, or the table is not full, and has room for it (R82). -/
def levelFits (s : State) (lv : TreeLevel) (x : TreeUnit) (b : DeltaBatch) : Bool :=
  b.deltas.isEmpty ||
    (decide (x.table.length < levelSize lv) && decide ((addDeltas (levelDeltas s lv b) x.table).length ≤ levelSize lv))

/-- The amounts of a batch taken back from a table. -/
def lessDeltas (ds tab : List Delta) : List Delta := addDeltas (ds.map fun d => { d with net := -d.net }) tab

/-- The level below a level. -/
def levelBelow : TreeLevel → Option TreeLevel
  | .region => none
  | .die => some .region
  | .module => some .die

/-- How many units of the level below send to the units of a level. -/
def unitsBelow : TreeLevel → Nat
  | .region => 2304
  | .die => 288
  | .module => 4

/-- A batch that only makes a unit look again at what waits. -/
def noBatch : DeltaBatch := ⟨[], none, false⟩

/-- The unit below has passed a batch on. DESIGN CHOICE (log entry 121): its table gives the batch's pairs up when the unit above
applies it; then what waits there is looked at again, by a BATCH_APPLY of no deltas; a core records the counts that waited for
room. A batch of another module comes from no unit below. -/
def releaseBelow (lv : TreeLevel) (from_ : Nat) (x : DeltaBatch) (sent : Nat) : Act Unit := do
  let s ← look id
  onlyIf (decide (from_ < unitsBelow lv))
    (match levelBelow lv with
    | none => takeLate from_ (coreAt s from_).late
    | some b => do
      let y := treeUnit s b from_
      setTreeUnit b from_ { y with table := lessDeltas (levelDeltas s b x) y.table }
      onlyIf (!y.waiting.isEmpty) (later 0 5 29000 (.batchApply b ((y.waiting.headD (0, noBatch, 0)).1) noBatch sent)))

/-- Whether a die's part of the tree reaches the root: no die on the way is in its way (R428). -/
def treeReaches (s : State) (d : Nat) : Bool := !transitBlocked s 0 d

/-- How many units below report to a unit of a level for a sweep. -/
def reporters (s : State) : TreeLevel → Nat
  | .region => 8
  | .die => 72
  | .module => ((List.range 4).filter (treeReaches s)).length

/-- Reports of one sweep as one. -/
def mergeReports (l : List (Nat × SweepReport)) (n : Nat) : SweepReport :=
  l.foldl (fun a r => ⟨n, a.sent + r.2.sent, a.received + r.2.received, a.flips + r.2.flips⟩) ⟨n, 0, 0, 0⟩

/-- The reports that a unit holds once a batch with a report has come from a unit below. -/
def withReport (from_ : Nat) (b : DeltaBatch) (x : TreeUnit) : TreeUnit :=
  match b.report with
  | none => x
  | some r => { x with reports := (x.reports.filter fun y => decide (y.1 ≠ from_) && decide (y.2.sweep = r.sweep)) ++ [(from_, r)] }

/-- What a unit reports on: the reports of all units below, as one, with the batch that has brought the last of them (R83). -/
def reportOn (s : State) (lv : TreeLevel) (x : TreeUnit) (b : DeltaBatch) : Option SweepReport :=
  b.report.bind fun r => if x.reports.length = reporters s lv then some (mergeReports x.reports r.sweep) else none

/-- A numbered message to the units of another node (R81, log entry 136). -/
def tellNode (n : Nat) (m : Nat → Nat → NodeMsg) : Act Unit := do
  let s ← look id
  onlyIf (!(routePorts s n).isEmpty) (do
    modRoot fun r => { r with told := mset 0 r.told n (mget 0 r.told n + 1) }
    sendNode rootRouter n (m (nodeId s) (mget 0 s.root.told n)))

/-- A batch is applied at a level in one update and sent on upward, with the level's report when it is the last for the sweep (R81,
R83). -/
def applyBatch (lv : TreeLevel) (from_ : Nat) (b : DeltaBatch) (sent : Nat) : Act Unit := do
  let s ← look id
  let u := levelUnit lv from_
  let x := treeUnit s lv u
  let y := withReport from_ b { x with table := addDeltas (levelDeltas s lv b) x.table }
  setTreeUnit lv u y
  onlyIf (!b.deltas.isEmpty) (releaseBelow lv from_ b sent)
  let up : DeltaBatch := { b with report := reportOn s lv y b }
  let goesOn := !up.deltas.isEmpty || up.report.isSome
  match lv with
  | .region => onlyIf goesOn (unitSend (regionRouter u) (unitRouter (u / 72)) 5 29000 (.batchApply .die u up sent))
  | .die => onlyIf goesOn (unitSend (unitRouter u) rootRouter 5 29000 (.batchApply .module u up sent))
  | .module => each (leadNodes s b.deltas) fun n => tellNode n fun me q => .batch me q (foreignDeltas s b.deltas n)

/-- The batches that wait at a unit are applied in their order while it accepts them; at most `fuel` of them. -/
def acceptBatches (lv : TreeLevel) (u : Nat) : Nat → Act Unit
  | 0 => pure ()
  | fuel + 1 => do
    let s ← look id
    let x := treeUnit s lv u
    match x.waiting with
    | [] => pure ()
    | w :: ws =>
      if levelFits s lv x w.2.1 then do
        setTreeUnit lv u { x with waiting := ws }
        applyBatch lv w.1 w.2.1 w.2.2
        acceptBatches lv u fuel
      else pure ()

/-- BATCH_APPLY (R81, R82): a batch joins those that wait at a unit, and the unit applies what it accepts, in order; one of no
deltas and no report is only the sign that the unit may accept again. -/
def execBatchApply (level : TreeLevel) (unit : Nat) (ds : DeltaBatch) (sent : Nat) (s : State) :
    Host.Outcome State Fault Refusal :=
  .next (run (do
    let u := levelUnit level unit
    let x := treeUnit s level u
    let l := if ds.deltas.isEmpty && ds.report.isNone then x.waiting else x.waiting ++ [(unit, ds, sent)]
    setTreeUnit level u { x with waiting := l }
    acceptBatches level u l.length) s)

/-! ### Sweeps (R83, R86) -/

/-- The counts of items of the old colour that a core has sent and received (R86). -/
def oldCounts (x : Core) : Nat × Nat :=
  if x.colour == x.flipped then (x.sent0, x.received0) else (x.sent1, x.received1)

/-- The sheaves that this module's root counts. -/
def countedSheaves (s : State) : List (Nat × Sheaf) := s.sheaves.filter fun x => x.2.live && x.2.lead.isNone

/-- A sweep starts at the root (R83): the other modules of its sheaves are asked to sweep for it (log entry 136). -/
def startSweep (n : Nat) : Act Unit := do
  let s ← look id
  let nodes := ((countedSheaves s).flatMap fun x => x.2.nodes).dedup
  modRoot fun r => { r with sweep := n, started := s.cycle, pending := nodes, tree := { r.tree with reports := [] } }
  each nodes fun m => sendNode rootRouter m (.sweep (nodeId s) n)

/-- The numbers by which SWEEP_REQUEST names the units of the tree beside the cores: the root, the frontier units of the dies, the
aggregators of the regions. -/
def sweepRoot : Nat := 2304
def sweepDie (d : Nat) : Nat := 2305 + d
def sweepRegion (r : Nat) : Nat := 2309 + r

/-- What a core reports for a sweep (R86). -/
def coreReport (x : Core) (n : Nat) : SweepReport := ⟨n, (oldCounts x).1, (oldCounts x).2, if x.flipped then 1 else 0⟩

/-- A core takes a sweep request (R80, R83, R86): one that sees the cut flag begins to stop; its batch, possibly empty, leaves with
its report behind those that it has formed before. -/
def sweepCore (core n : Nat) (cut : Bool) : Act Unit := do
  let s ← look id
  onlyIf (cut && (cutSheaf s).isSome && !markerMode s) (do
    cutStart core
    cutProgress core)
  modCore core fun x =>
    { x with
      batches := x.batches ++ [⟨⟨x.counts, some (coreReport x n), isFenced s core⟩, s.cycle⟩], counts := [], countsSince := none }
  sendBatch core

/-- SWEEP_REQUEST (R80, R83, R86): the request goes down the tree from unit to unit (R82, R309) to every core. -/
def execSweepRequest (core : Nat) (n : Nat) (cut : Bool) (s : State) : Host.Outcome State Fault Refusal :=
  .next (run (
    if core < sweepRoot then sweepCore core n cut
    else if core = sweepRoot then do
      startSweep n
      each ((List.range 4).filter (treeReaches s)) fun d =>
        unitSend rootRouter (unitRouter d) 5 29001 (.sweepRequest (sweepDie d) n cut)
      later 1 7 60000 .sweepComplete
    else if core < sweepRegion 0 then
      let d := core - sweepDie 0
      each (List.range 72) fun i =>
        unitSend (unitRouter d) (regionRouter (d * 72 + i)) 5 29001 (.sweepRequest (sweepRegion (d * 72 + i)) n cut)
    else
      let r := core - sweepRegion 0
      each (regionCores r) fun c => unitSend (regionRouter r) c 5 29001 (.sweepRequest c n cut)) s)

/-- Deltas of one sheaf put in ascending time. -/
def putDelta (d : Delta) : List Delta → List Delta
  | [] => [d]
  | e :: rest => if d.time.toNat < e.time.toNat then d :: e :: rest else e :: putDelta d rest

/-- The net counts of a sheaf in ascending time. -/
def sheafCounts (tab : List Delta) (n : Nat) : List Delta :=
  (tab.filter fun d => decide (d.sheaf = n)).foldl (fun l d => putDelta d l) []

/-- The candidate of a sheaf with the counts up to it (R83). -/
def candidate (tab : List Delta) (n : Nat) : Nat × Word × List Delta :=
  match sheafCounts tab n with
  | [] => (n, timeTop, [])
  | d :: _ => (n, d.time, [d])

/-- The sheaves that this module's root counts and that were there when the sweep started. -/
def sweptSheaves (s : State) : List Nat :=
  ((countedSheaves s).filter fun x => decide (x.2.created < s.root.started)).map (·.1)

/-- Whether a batch of the sweep has not been applied at the root, or another module has not swept for it. -/
def sweepOpen (s : State) : Bool :=
  decide ((s.root.tree.reports.filter fun r => decide (r.2.sweep = s.root.sweep)).length < reporters s .module) ||
    !s.root.pending.isEmpty || s.root.tree.waiting.any fun w => decide (w.2.2 = 0) && decide (4 ≤ w.1)

/-- A frontier is announced for a sheaf: to every core that holds anything, to the other modules of the sheaf; at ⊤ the
launch ends (R83, R84, R416). -/
def announce (n : Nat) (front : Word) : Act Unit := do
  let s ← look id
  modSheaf n fun x => { x with front := front, moved := s.tick }
  each (listedCoreNums s) fun c => unitSend rootRouter c 5 (51200 + c) (.frontierAnnouncement c n front)
  each (sheafAt s n).nodes fun m => sendNode rootRouter m (.announce n front)
  onlyIf (decide (front = timeTop)) (unitSend rootRouter (unitRouter (queueRec s (sheafAt s n).queue).owner) 5 55000 (.launchEnd n))

/-- The cut on a sweep by colours (R86): complete after two successive sweeps that agree. -/
def cutSweep : Act Unit := do
  let r ← look (·.root)
  let x := mergeReports r.tree.reports r.sweep
  onlyIf r.cutFlag (do
    let agree := decide (x.flips = 2304) && decide (x.sent = x.received)
    modRoot fun r => { r with cutAgree := if agree then r.cutAgree + 1 else 0 }
    onlyIf (agree && decide (1 ≤ r.cutAgree)) (do
      modRoot fun r => { r with cutFlag := false }
      let s ← look id
      each (s.cores.filter fun x => x.2.cutSeen) fun x => cutImages x.1
      setCutState 2))

/-- The modules that asked for a sweep before one that is complete started are told (R83). -/
def answerAsks : Act Unit := do
  let r ← look (·.root)
  each (r.asks.filter fun a => decide (a.2.2 ≤ r.started)) fun a => do
    tellNode a.1 fun me q => .swept me q a.2.1
  modRoot fun r => { r with asks := r.asks.filter fun a => decide (r.started < a.2.2) }

/-- SWEEP_COMPLETE (R83): once every batch is there the root forms its candidates, announces what two successive sweeps agree
on, and starts the next sweep no sooner than 1,024 cycles after this one. -/
def execSweepComplete (s : State) : Host.Outcome State Fault Refusal :=
  .next (run (
    if sweepOpen s then later 1 7 60000 .sweepComplete
    else do
      let r := s.root
      let cands := (sweptSheaves s).map (candidate r.tree.table)
      each cands fun x =>
        onlyIf (r.before.contains x && decide ((sheafAt s x.1).front.toNat < x.2.1.toNat)) (announce x.1 x.2.1)
      cutSweep
      answerAsks
      modRoot fun r => { r with before := cands }
      let q ← look (·.root)
      atCycle (max (s.cycle + 1) (r.started + 1024)) 5 29001 (.sweepRequest sweepRoot (r.sweep + 1) q.cutFlag)) s)

/-! ### Announcements at the cores (R39, R42, R45, R83) -/

/-- FRONTIER_ANNOUNCEMENT (R39, R42, R45, R83, R336): a core applies an announced frontier in one step. -/
def execFrontierAnnouncement (core sheaf : Nat) (front : Word) (s : State) : Host.Outcome State Fault Refusal :=
  .next (run (applyFrontier core sheaf front) s)

end Sys2Proof.Machine
end

