-- ==== Sys2Proof/Machine/Records.lean ====
section
/-! DEFINITION. Queue records and doorbells (R87-R93), reports and the end of a launch (R416, R417), the firmware leader and
its lease (R97-R99). -/

namespace Sys2Proof.Machine

open Sys2Proof

/-! ### Updates of a record (R92, R93) -/

/-- The place in a cycle of what reaches a die about a record. -/
def recPlace (d q : Nat) : Nat := 57000 + d * 256 + q

/-- One update of a record by its owner: VERSION counts on, and the record goes to the other three dies over the bridges (R10). -/
def updateRec (q : Nat) (f : QueueRec → QueueRec) : Act Unit := do
  let s ← look id
  let r := queueRec s q
  let n : QueueRec := { f r with version := (r.version + 1) % 2 ^ 32 }
  each (List.range 4) fun d => do
    modDie d fun x => { x with known := mset 0 x.known q n.version }
    if d = n.owner then modDie d fun x => { x with recs := mset QueueRec.reset x.recs q n }
    else unitSend (unitRouter n.owner) (unitRouter d) 5 (recPlace d q) (.recordUpdate d q n)

/-- A die takes a whole record as its replica. -/
def installRec (d q : Nat) (r : QueueRec) : Act Unit :=
  modDie d fun x => { x with recs := mset QueueRec.reset x.recs q r }

/-- Whether a die may dispatch from a queue, or test its WAIT: its replica is no older than the last version sent to it. -/
def upToDate (s : State) (d q : Nat) : Bool := decide ((recOn s d q).version = mget 0 (dieAt s d).known q)

/-! ### Doorbells (R88) -/

/-- A doorbell write refused: ERR and ERRCNT of the owner's record say it, and nothing else changes. -/
def refuseDoorbell (q err : Nat) : Act Unit := do
  emit (.qerr q err)
  let r ← look (queueRec · q)
  installRec r.owner q { r with errcnt := min 0xFFFF (r.errcnt + 1) }

/-- What a doorbell write is refused with, in the order of R88; 0 when it is not. -/
def doorbellErr (r : QueueRec) (node wr : Nat) : Nat :=
  if r.state = 0 ∨ r.state = 3 then 6
  else if node ≠ r.host then 5
  else if 2 ^ r.logsz < (wr + 2 ^ 32 - r.rdidx) % 2 ^ 32 then 4
  else if 2 ^ r.logsz < (wr + 2 ^ 32 - r.wridx) % 2 ^ 32 then 4
  else 0

/-- QUEUE_DOORBELL (R88). -/
def execQueueDoorbell (q node wr : Nat) (s : State) : Host.Outcome State Fault Refusal :=
  .next (run (
    let e := doorbellErr (queueRec s q) node wr
    if e = 0 then updateRec q fun r => { r with wridx := wr % 2 ^ 32 } else refuseDoorbell q e) s)

/-! ### Leaders (R97-R99) -/

/-- Whether a die takes part: not fenced. -/
def liveDies (s : State) : List Nat := (List.range 4).filter fun d => !dieFenced s d

/-- The die whose units have the module's registers: the first that is not fenced (log entry 63). -/
def moduleDie (s : State) : Nat := (liveDies s).headD 0

/-- Whether a die holds itself the leader. -/
def leads (s : State) (d : Nat) : Bool := !dieFenced s d && decide ((dieAt s d).lease.leader = some d)

/-- The die of the current leader: of the dies that hold themselves leader the one of the highest epoch. -/
def leaderDie (s : State) : Option Nat :=
  (List.range 4).foldl (fun b d =>
    if leads s d then
      match b with
      | some x => if (dieAt s x).lease.epoch < (dieAt s d).lease.epoch then some d else b
      | none => some d
    else b) none

/-- Ticks of a lease (R97). -/
def leaseTicks : Nat := 10_000_000
def renewTicks : Nat := 2_000_000
/-- The wait of a follower before a claim (R98). -/
def claimWait (d : Nat) : Nat := 100_000 * (d + 1)

/-- The router of the unit that speaks for the module (R97): the firmware core of the leader's die. -/
def leaderUnit (s : State) : Nat := unitRouter ((leaderDie s).getD (moduleDie s))

/-- A die's lease record takes a leader, an epoch and an expiry. -/
def setLease (d leader epoch expiry : Nat) : Act Unit := do
  modDie d fun x => { x with lease := { x.lease with leader := some leader, epoch := epoch, expiry := expiry } }
  onTick expiry (.leaseExpiry d)

/-- A leader's lease runs from now: its own record has it at once, and the other dies that take part are told. -/
def grantLease (die epoch : Nat) : Act Unit := do
  let s ← look id
  setLease die die epoch (s.tick + leaseTicks)
  each ((liveDies s).filter fun d => decide (d ≠ die)) fun d =>
    unitSend (unitRouter die) (unitRouter d) 5 (29105 + d) (.leaseRenewal (.told d die epoch (s.tick + leaseTicks)))
  onTick (s.tick + renewTicks) (.leaseRenewal (.renew die))

/-- Whether a die's lease record has expired. -/
def leaseExpired (s : State) (d : Nat) : Bool := decide ((dieAt s d).lease.expiry ≤ s.tick)

/-- LEASE_EXPIRY (R98): a die whose record has expired waits and then claims the next epoch; a claim that has not won is
repeated at a higher epoch after the same wait. `claim` holds the epoch of the next claim. -/
def execLeaseExpiry (die : Nat) (s : State) : Host.Outcome State Fault Refusal :=
  .next (run (
    let l := (dieAt s die).lease
    if !leaseExpired s die || dieFenced s die || !(dieAt s die).image then
      modDie die fun x => { x with lease := { x.lease with claim := 0, grants := [] } }
    else do
      if l.claim = 0 then modDie die fun x => { x with lease := { x.lease with claim := (l.epoch + 1) % 2 ^ 32, grants := [] } }
      else do
        modDie die fun x => { x with lease := { x.lease with claim := (l.claim + 1) % 2 ^ 32, grants := [] } }
        each (liveDies s) fun d => unitSend (unitRouter die) (unitRouter d) 5 (29100 + d) (.leaseClaim d die l.claim)
      onTick (s.tick + claimWait die) (.leaseExpiry die)) s)

/-- LEASE_CLAIM (R98): a die grants at most one claim per epoch, above the one it holds, while its own record has
expired. DESIGN CHOICE (log entry 125): one that has granted a higher epoch refuses a claim at a lower one. -/
def execLeaseClaim (die claimant epoch : Nat) (s : State) : Host.Outcome State Fault Refusal :=
  .next (run (
    let l := (dieAt s die).lease
    onlyIf (leaseExpired s die && !dieFenced s die && decide (l.epoch < epoch) && decide (l.granted < epoch)) (do
      modDie die fun x => { x with lease := { x.lease with granted := epoch } }
      unitSend (unitRouter die) (unitRouter claimant) 5 (29110 + claimant) (.leaseGrant claimant epoch die))) s)

/-- The module's mode (R417). -/
def devMode (s : State) : Nat := (mreg s 0x0900).toNat % 4

/-- The rows of a core's array that pass calibration (R422): all 34 but those that the part has bad (log entry 9). -/
def goodRows (s : State) (c : Nat) : Word := word (2 ^ 34 - 1) &&& ~~~(word (mget 0 s.badRows c))

/-- The last steps of start-up (R420, R422), after the election and while every matrix queue is empty: the array rows are calibrated,
CALDONE is set, and the leader writes MODE = 01. -/
def endStartup : Act Unit := do
  let s ← look id
  let v := mreg s 0x0900
  onlyIf (!v.getLsbD 2 && s.cores.all fun x => x.2.mu.queue.isEmpty) (do
    each (List.range 2304) fun c => setCreg c 0x0C40 (goodRows s c)
    emit (.mreg 0x0900 (v &&& ~~~3 ||| 5)))

/-- LEASE_RENEWAL (R97): a leader renews its lease, unless another epoch has taken over; a die that is told of it takes it, unless it
holds a later epoch. A leader ends a start-up that had to wait (R422). -/
def execLeaseRenewal (e : LeaseEvent) (s : State) : Host.Outcome State Fault Refusal :=
  .next (run (match e with
    | .renew die => onlyIf (leads s die) (do
      grantLease die (dieAt s die).lease.epoch
      endStartup)
    | .told die leader epoch expiry =>
      onlyIf (!dieFenced s die && decide ((dieAt s die).lease.epoch ≤ epoch)) (setLease die leader epoch expiry)) s)

/-! ### Queue 0 (R91) -/

/-- Whether a ring lies wholly in GDDR7, with a size of R92. -/
def ringFits (base logsz : Nat) : Bool :=
  decide (4 ≤ logsz) && decide (logsz ≤ 15) && decide (base * 4096 + 64 * 2 ^ logsz ≤ gddrTop)

/-- The node that a writer of the control window is; the side-band and the firmware are none. -/
def writerNode (s : State) : Writer → Option Nat
  | .node n => some n
  | .thread _ _ => some (nodeId s)
  | _ => none

/-- Whether a writer may write ADMQBASE and ADMQHOST: the side-band and the firmware, and over the fabric the current host of
queue 0. -/
def mayWriteAdmq (s : State) (w : Writer) : Bool :=
  match writerNode s w with
  | none => true
  | some n => decide ((queueRec s 0).state ≠ 0) && decide ((queueRec s 0).host = n)

/-- Whether a write of ADMQHOST takes effect on queue 0's record. -/
def admqReady (s : State) : Bool :=
  let b := (mreg s 0x0420).toNat
  let r := queueRec s 0
  ringFits (b / 4096 % 2 ^ 40) (b % 16) && decide (r.state = 0 ∨ r.wridx = r.rdidx)

/-- ADMQHOST written with EN = 1. -/
def admqEnable (v : Word) (w : Writer) : Act Unit := do
  let s ← look id
  onlyIf (mayWriteAdmq s w) (do
    emit (.mreg 0x0428 (v &&& word (2 ^ 63 + 0xFFFF)))
    let b := (mreg s 0x0420).toNat
    onlyIf (admqReady s) (updateRec 0 fun r =>
      { r with
        base := b / 4096 % 2 ^ 40, logsz := b % 16, host := v.toNat % 2 ^ 16, rdidx := 0, wridx := 0, age := 0, prio := 0,
        bfen := false, state := 1, owner := (leaderDie s).getD r.owner }))

/-- ADMQHOST written with EN = 0: queue 0 returns to Free. -/
def admqDisable (v : Word) (w : Writer) : Act Unit := do
  let s ← look id
  onlyIf (mayWriteAdmq s w) (do
    emit (.mreg 0x0428 (v &&& word (2 ^ 63 + 0xFFFF)))
    onlyIf (admqReady s) (updateRec 0 fun r => { r with state := 0 }))

/-- ADMQHOST_ENABLE (R91). -/
def execAdmqhostEnable (v : Word) (w : Writer) (s : State) : Host.Outcome State Fault Refusal := .next (run (admqEnable v w) s)

/-- ADMQHOST_DISABLE (R91). -/
def execAdmqhostDisable (v : Word) (w : Writer) (s : State) : Host.Outcome State Fault Refusal := .next (run (admqDisable v w) s)

/-! ### Signal words and reports (R96, R416, R417) -/

/-- The request that adds 1 to a signal word for the launch unit of a die; `seq` is the number of the report that it follows. -/
def addReq (d seq pa : Nat) : Req :=
  ⟨⟨2304, 0, 0, 0⟩, .amo .add .i64 1 0, (List.range 8).map fun i => (i, pa + i), 32, false, .none, .own, some (.adder d seq)⟩

/-- 1 is added to a completion signal word by the launch unit of a die; 0 is no word. The answer is whether the unit must wait for the
owner of the word; a word that cannot be reached is left. -/
def addSignal (d seq pa : Nat) : Act Bool := do
  let s ← look id
  if pa = 0 then pure false
  else
    match ownerOf s pa with
    | .fabric n _ => do
      sendNode (unitRouter d) n (.signal pa)
      pokeWaits pa 8
      pure false
    | .control _ | .nothing => pure false
    | o =>
      if reaches s (unitRouter d) o then do
        sendFromTo (unitRouter d) 2304 none o 32 false (.access (addReq d seq (localPa s pa)))
          (later 0 1 (slotPlace 2304 0) (.ownerAccess (addReq d seq (localPa s pa))))
        pure true
      else pure false

/-- The bytes of a report record (R417). -/
def reportBytes (kind queue sheaf err idx tick flags errevt seq info : Nat) : List Byte :=
  leBytes (kind % 256 + queue % 256 * 2 ^ 8 + sheaf % 4096 * 2 ^ 16 + err % 16 * 2 ^ 28 + idx % 2 ^ 32 * 2 ^ 32) 8 ++
    leBytes tick 8 ++ leBytes (flags % 8 + errevt % 2 ^ 32 * 2 ^ 32) 8 ++ leBytes (seq % 2 ^ 32 + info % 2 ^ 32 * 2 ^ 32) 8

/-- A report record is written to the host's ring by the units of a die, if that is enabled; the answer is its number while its
acknowledgement is awaited. A record that faults or finds no route is lost at once. The in-band interrupt carries its KIND (R431). -/
def sendReport (d kind queue sheaf err idx flags errevt info : Nat) : Act (Option Nat) := do
  let s ← look id
  onlyIf s.side.events (emit (.out (.interrupt kind)))
  let cfg := mreg s 0x0910
  if !cfg.getLsbD 4 then pure none
  else do
    let seq := (mreg s 0x0918).toNat
    emit (.mreg 0x0918 (word ((seq + 1) % 2 ^ 32)))
    let pa := (mreg s 0x0908).toNat + 32 * (seq % 2 ^ (cfg.toNat % 16))
    let bytes := reportBytes kind queue sheaf err idx s.tick flags errevt seq info
    match ownerOf s pa with
    | .fabric n _ =>
      if (routePorts s n).isEmpty then do
        countMreg 0x0948 1
        pure none
      else do
        sendNode (unitRouter d) n (.report pa bytes)
        pure (some seq)
    | .gddr _ _ | .cistern _ _ =>
      if reachable s (ownerOf s pa) then do
        writeOwn (localPa s pa) bytes
        pure none
      else do
        countMreg 0x0948 1
        pure none
    | _ => do
      countMreg 0x0948 1
      pure none

/-- A report that nothing waits for, from the units of a die. -/
def plainReport (d kind queue sheaf err idx flags errevt info : Nat) : Act Unit := do
  let s ← look id
  let r ← sendReport d kind queue sheaf err idx flags errevt info
  match r with
  | none => pure ()
  | some seq => do
    let l ← look (·.reports)
    emit (.reports (l ++ [⟨seq, s.tick + 1_000_000, none, 0, kind, queue, false, false⟩]))
    onTick (s.tick + 1_000_000) (.reportTimeout seq)

/-- A launch has ended (R96, R106, R416): INFLT, the queue that was being destroyed, the sheaf. -/
def finishLaunch (q n : Nat) : Act Unit := do
  updateRec q fun r =>
    if r.state = 3 ∧ r.inflt ≤ 1 then QueueRec.reset else { r with inflt := r.inflt - 1 }
  modSheaf n fun x => { x with live := false }

/-- The end of a launch whose report and signal word are done. -/
def finishReport (r : Report) : Act Unit :=
  match r.sheaf with
  | some n => finishLaunch r.queue n
  | none => pure ()

/-- What follows a report that is settled (R416): the owner die of its queue adds 1 to the signal word, and the launch ends when that is
done. -/
def settle (r : Report) : Act Unit := do
  let s ← look id
  let waits ← addSignal (queueRec s r.queue).owner r.seq r.caddr
  if waits then do
    let l ← look (·.reports)
    emit (.reports (l ++ [{ r with adding := true }]))
  else finishReport r

/-- The number of a settlement without a report. -/
def unreported (id : Nat) : Nat := 2 ^ 32 + id

/-- A report by the owner die of a queue whose settlement is followed by a signal word's add and perhaps by the end of a sheaf. -/
def reportThen (kind queue sheaf err idx flags errevt : Nat) (caddr : Nat) (ends : Option Nat) : Act Unit := do
  let s ← look id
  let x ← sendReport (queueRec s queue).owner kind queue sheaf err idx flags errevt 0
  match x with
  | none => do
    let n ← freshId
    settle ⟨unreported n, 0, ends, caddr, kind, queue, false, false⟩
  | some seq => do
    let l ← look (·.reports)
    emit (.reports (l ++ [⟨seq, s.tick + 1_000_000, ends, caddr, kind, queue, false, false⟩]))
    onTick (s.tick + 1_000_000) (.reportTimeout seq)

/-- LAUNCH_END (R416): the owner of the launch's queue reports the end, and ends the launch once the report is settled. -/
def execLaunchEnd (sheaf : Nat) (s : State) : Host.Outcome State Fault Refusal :=
  .next (run (
    let x := sheafAt s sheaf
    onlyIf (x.live && !x.ending) (do
      modSheaf sheaf fun x => { x with ending := true }
      reportThen 1 x.queue sheaf 0 x.idx x.flags.toNat x.errEvents.toNat x.caddr (some sheaf))) s)

/-- The report of a number that satisfies p leaves the list. -/
def takeReport (seq : Nat) (p : Report → Bool) : Act (Option Report) := do
  let l ← look (·.reports)
  match l.find? fun r => decide (r.seq = seq) && p r with
  | none => pure none
  | some r => do
    emit (.reports (l.erase r))
    pure (some r)

/-- REPORT_ACKNOWLEDGEMENT (R416). -/
def execReportAcknowledgement (seq : Nat) (s : State) : Host.Outcome State Fault Refusal :=
  .next (run (do
    let r ← takeReport seq fun r => !r.adding
    match r with
    | some r => settle r
    | none => pure ()) s)

/-- A record that has not been acknowledged in time is lost, and what follows it goes on (R416). -/
def loseReport (seq : Nat) : Act Unit := do
  let now ← look (·.tick)
  let r ← takeReport seq fun r => !r.adding && decide (r.deadline ≤ now)
  match r with
  | some r => do
    countMreg 0x0948 1
    settle r
  | none => pure ()

/-- REPORT_TIMEOUT (R416): a record not acknowledged in time is lost, and the end goes on; the add to a signal word is done. -/
def execReportTimeout (seq : Nat) (s : State) : Host.Outcome State Fault Refusal :=
  .next (run (do
    let r ← takeReport seq (·.added)
    match r with
    | some r => finishReport r
    | none => loseReport seq) s)

end Sys2Proof.Machine
end

