-- ==== Sys2Proof/Machine/Launch.lean ====
section
/-! DEFINITION. Launch packets (R94, R95, R105, R106, R432), placement (R113, R120-R125), commit and start (R96, R100, R103,
R104), MULTI gangs (R101), the waits of queues (R105), and the watchdog (R108). -/

namespace Sys2Proof.Machine

open Sys2Proof

/-! ### Packets (R94, R432) -/

/-- The words of the packet at the head of a queue (R88). -/
def headWords (s : State) (r : QueueRec) : List Nat :=
  let pa := r.base * 4096 + 64 * (r.rdidx % 2 ^ r.logsz)
  (List.range 8).map fun i => natAt s (pa + 8 * i) 8
def pw (w : List Nat) (i : Nat) : Nat := w.getD i 0
def pkKind (w : List Nat) : Nat := pw w 0 % 256
def pkAtTick (w : List Nat) : Bool := (pw w 0).testBit 8
def pkMulti (w : List Nat) : Bool := (pw w 0).testBit 9
def pkSheaf (w : List Nat) : Nat := pw w 0 / 2 ^ 16 % 4096
def pkRegions (w : List Nat) : Nat := pw w 0 / 2 ^ 32 % 512
def pkModules (w : List Nat) : Nat := pw w 0 / 2 ^ 48
def pkWhere (w : List Nat) : Nat := pw w 6 % 2 ^ 16
def pkLead (w : List Nat) : Nat := pw w 6 / 2 ^ 16 % 2 ^ 16
def pkGang (w : List Nat) : Nat := pw w 6 / 2 ^ 32

/-- Bytes that the launch unit reads: none where nothing serves the address. The bytes of another node are free values.
DESIGN CHOICE (log entry 127): an address at or above 2^52 is taken by its fabric fields. -/
def unitBytes (s : State) (pa n : Nat) : Option (List Byte) :=
  match ownerOf s pa with
  | .fabric _ _ => some ((List.range n).map fun i => Config.fabricByte s.freeCount (pa + i))
  | .gddr d w => if reachable s (.gddr d w) then some (bytesAt s (localPa s pa) n) else none
  | .cistern c o => if reachable s (.cistern c o) then some (bytesAt s (localPa s pa) n) else none
  | _ => none

/-- NSHAPE and the address of the shape records, from an argument block. -/
def argShapes (a : List Byte) : Nat := leNat ((a.drop 0x60).take 1)
def argShapePa (a : List Byte) : Nat := leNat ((a.drop 0x68).take 8)

/-- Whether an argument block holds to R94. -/
def argsGood (s : State) (a : List Byte) : Bool :=
  decide (argShapes a ≤ 16) && ((a.drop 0x61).take 7).all (fun b => decide (b = 0)) &&
    ((a.drop 0x70).take 16).all (fun b => decide (b = 0)) &&
    (decide (argShapes a = 0) || (unitBytes s (argShapePa a) 1).isSome)

/-- Whether the fields of a ROOT or GANG packet hold to R94 and R432. DESIGN CHOICE (log entry 126): a packet whose argument block
or shape records nothing serves, or a fenced die holds, is refused with ERR 3. -/
def launchGood (s : State) (w : List Nat) : Bool :=
  let w0 := pw w 0
  decide (w0 / 2 ^ 10 % 64 = 0) && decide (w0 / 2 ^ 28 % 16 = 0) && decide (w0 / 2 ^ 41 % 128 = 0) &&
    decide (pw w 1 % 8 = 0) && decide (pw w 2 < timeTop.toNat) && decide (pw w 4 % 64 = 0) && decide (pw w 5 % 8 = 0) &&
    decide (pw w 7 = 0) && ((unitBytes s (pw w 4) 128).elim false (argsGood s)) &&
    (if pkKind w = 1 then
      !pkMulti w && decide (pkRegions w = 0) && decide (pkModules w = 0) && decide (pw w 6 / 2 ^ 16 = 0) &&
        decide (pkWhere w < 2304 ∨ pkWhere w = 0xFFFF)
    else
      decide (1 ≤ pkRegions w) && decide (pkRegions w ≤ 288) && decide (pkWhere w < 16) &&
        (if pkMulti w then decide (1 ≤ pkModules w) && decide (pkModules w ≤ 64)
        else decide (pkModules w = 1) && decide (pw w 6 / 2 ^ 16 = 0)))

/-- The record that a QCREATE packet gives (R105). -/
def createdRec (w : List Nat) : QueueRec :=
  let a := pw w 2
  { QueueRec.reset with
    bfq := a % 256, bfen := a.testBit 8, prio := a / 2 ^ 16 % 4, owner := a / 2 ^ 18 % 4, logsz := a / 2 ^ 20 % 16,
    base := a / 2 ^ 24, host := pw w 4 / 2 ^ 16 % 2 ^ 16, state := 1 }

/-- Whether a QCREATE packet holds to R105 and R432. -/
def createGood (s : State) (w : List Nat) : Bool :=
  let q := pw w 1
  let r := createdRec w
  decide (pw w 0 / 256 = 0) && decide (0 < q) && decide (q < 256) && decide ((queueRec s q).state = 0) &&
    decide (pw w 2 / 2 ^ 9 % 128 = 0) && decide (pw w 3 = 0) && decide (pw w 4 % 2 ^ 16 = 0) &&
    decide (pw w 4 / 2 ^ 32 = 0) && (w.drop 5).all (fun x => decide (x = 0)) && ringFits r.base r.logsz &&
    !(r.bfen && decide (r.bfq = 0 ∨ r.bfq = q)) && !dieFenced s r.owner

/-- Whether a QDESTROY packet holds to R106 and R432. -/
def destroyGood (s : State) (w : List Nat) : Bool :=
  let q := pw w 1
  decide (pw w 0 / 256 = 0) && decide (0 < q) && decide (q < 256) && decide ((queueRec s q).state ≠ 0) &&
    (w.drop 2).all fun x => decide (x = 0)

/-- Whether a WAIT packet holds to R105 and R432. -/
def waitGood (w : List Nat) : Bool :=
  decide (pw w 0 / 256 = 0) && decide (pw w 1 % 8 = 0) && decide (pw w 1 < 2 ^ 52) && (w.drop 3).all fun x => decide (x = 0)

/-- The ERR that the packet at the head of a queue is refused with, 0 when it is not (R95, R105, R106). -/
def packetErr (s : State) (q : Nat) (w : List Nat) : Nat :=
  match pkKind w with
  | 0x01 | 0x02 =>
    if q = 0 ∨ launchGood s w = false then 3 else if (sheafAt s (pkSheaf w)).live then 2 else 0
  | 0x10 => if q = 0 ∧ createGood s w then 0 else 3
  | 0x11 => if q = 0 ∧ destroyGood s w then 0 else 3
  | 0x12 => if waitGood w then 0 else 3
  | _ => 1

/-- Whether a packet of this KIND names a sheaf and a signal word (R432). -/
def isLaunch (w : List Nat) : Bool := decide (pkKind w = 1 ∨ pkKind w = 2)

/-- The head packet is refused (R95): ERR, ERRCNT, RDIDX, the report, and the signal word of a ROOT or GANG packet. -/
def refuseHead (q : Nat) (w : List Nat) (err : Nat) : Act Unit := do
  let r ← look (queueRec · q)
  emit (.qerr q err)
  updateRec q fun r => { r with rdidx := (r.rdidx + 1) % 2 ^ 32, errcnt := min 0xFFFF (r.errcnt + 1) }
  reportThen 2 q (if isLaunch w then pkSheaf w else 0) err r.rdidx 0 0 (if isLaunch w then pw w 5 else 0) none

/-! ### Slots held for a launch (R122) -/

/-- A reserved slot becomes Free again. -/
def freeReserved (k c : Nat) : Act Unit := do
  let s ← look id
  onlyIf (decide ((slotAt s c k).state = .reserved)) (do
    modSlot c k fun x => { x with state := .free, freedAt := s.cycle }
    pokeSlots c)

/-! ### MULTI gangs: messages (R101) -/

/-- A message of the protocol as an event and as a message between nodes. -/
def multiEvent (kind : Nat) (m : MultiMsg) : Instr :=
  match kind with
  | 0 => .multiReady m
  | 1 => .multiCommit m
  | _ => .multiAbort m
def multiNode (kind : Nat) (m : MultiMsg) : NodeMsg :=
  match kind with
  | 0 => .ready m
  | 1 => .commit m
  | _ => .abort m

/-- A message of the protocol for a module goes from a die to its own leader, who alone speaks to other modules (R97). -/
def sendMulti (d kind node : Nat) (m : MultiMsg) : Act Unit := do
  let s ← look id
  unitSend (unitRouter d) (leaderUnit s) 5 multiPlace (multiEvent kind { m with dest := node, unit := none })

/-- What only a leader does waits for one (R97): a message of the MULTI protocol is looked at again at the next tick. -/
def byLeader (e : Instr) (a : Nat → Act Unit) : Act Unit := do
  let s ← look id
  match leaderDie s with
  | some d => a d
  | none => onTick (s.tick + 1) e

/-- A leader passes a message that is for another module on, and deals with one that is for its own. -/
def atLeader (kind : Nat) (m : MultiMsg) (a : Nat → Act Unit) : Act Unit :=
  byLeader (multiEvent kind m) fun d => do
    let s ← look id
    if m.dest = nodeId s then a d else sendNode (unitRouter d) m.dest (multiNode kind m)

/-- The part of a gang on this module: its die and launch. -/
def partOf (s : State) (g : Nat) : Option (Nat × Launch) :=
  (List.range 4).findSome? fun d => ((dieAt s d).multi.find? fun l => decide (l.gang = g)).map fun l => (d, l)

/-- The leader of die d tells the launch unit that has the module's part of a gang. -/
def tellPart (d kind : Nat) (m : MultiMsg) : Act Unit := do
  let s ← look id
  match partOf s m.gang with
  | some (e, _) => unitSend (unitRouter d) (unitRouter e) 5 multiPlace (multiEvent kind { m with unit := some e })
  | none => pure ()

/-- The message that a module's part of a gang sends. -/
def partMsg (s : State) (l : Launch) (err : Nat) : MultiMsg :=
  ⟨l.gang, nodeId s, l.leadMod, none, s.tick, err, l.nmod, if l.atTick then l.startTick else 0, [(nodeId s, l.cores.length / 8)]⟩

/-- A part that waits for the commit of its gang is dropped with its queue (R106). -/
def dropPart (d : Nat) (l : Launch) : Act Unit := do
  let s ← look id
  each l.cores (freeReserved l.layer)
  modDie d fun x => { x with multi := x.multi.erase l }
  sendMulti d 2 l.leadMod (partMsg s l 6)

/-! ### Admin packets and WAIT (R99, R105, R106) -/

/-- The die that applies an admin packet to a record: the owner of the queue that it creates or destroys (R93). -/
def adminDie (s : State) (w : List Nat) : Nat :=
  if pkKind w = 0x10 then (createdRec w).owner else (queueRec s (pw w 1)).owner

/-- Queue 0 goes on to its next packet. -/
def adminNext : Act Unit := updateRec 0 fun r => { r with rdidx := (r.rdidx + 1) % 2 ^ 32 }

/-- QCREATE. -/
def applyCreate (w : List Nat) : Act Unit := do
  let idx ← look fun s => (queueRec s 0).rdidx
  updateRec (pw w 1) fun r => { createdRec w with aidx := idx, inflt := r.inflt, errcnt := r.errcnt, version := r.version }

/-- QDESTROY: packets that are not committed are dropped; what is in flight runs to completion, and then the record is
Free. A reservation that still goes on is dropped when its members have answered. -/
def applyDestroy (w : List Nat) : Act Unit := do
  let q := pw w 1
  let idx ← look fun s => (queueRec s 0).rdidx
  updateRec q fun r => { r with state := 3, aidx := idx, rdidx := r.wridx }
  let s ← look id
  each (List.range 4) fun d => each ((dieAt s d).multi.filter fun l => decide (l.queue = q)) (dropPart d)
  each (List.range 4) fun d =>
    match (dieAt s d).launch with
    | some l => onlyIf (decide (l.queue = q)) (do
      modDie d fun x => { x with launch := some { l with dropped := true } }
      onlyIf (l.multi && !l.dropped) (sendMulti d 2 l.leadMod (partMsg s l 6)))
    | none => pure ()
  let r ← look (queueRec · q)
  onlyIf (decide (r.inflt = 0)) (updateRec q fun _ => QueueRec.reset)

/-- The signal word that a queue waits for, when it can be read. -/
def signalWord (s : State) (r : QueueRec) : Option Word :=
  (unitBytes s (r.waddr * 8) 8).map fun l => word (leNat l)

/-- The watchdog of a queue's owner notes the signal word, and the tick when it is a new one (R108). -/
def noteSignal (q : Nat) (fresh : Bool) : Act Unit := do
  let s ← look id
  let r := queueRec s q
  let same := fun (e : Nat × Word × Nat) => decide (e.1 = q) && (signalWord s r).elim true fun v => decide (e.2.1 = v)
  onlyIf (fresh || !(dieAt s r.owner).watch.any same) (modDie r.owner fun x =>
    { x with watch := x.watch.filter (fun e => decide (e.1 ≠ q)) ++ [(q, (signalWord s r).getD 0, s.tick)] })

/-- WAIT: the queue waits for its signal word, which is read at the next microsecond and from then on. -/
def applyWait (q : Nat) (w : List Nat) : Act Unit := do
  let now ← look (·.tick)
  updateRec q fun r =>
    { r with state := 2, waddr := pw w 1 / 8, waitval := word (pw w 2), aidx := if q = 0 then r.rdidx else r.aidx }
  noteSignal q true
  onTick ((now / 1000 + 1) * 1000) (.waitPoll q)

/-- The head of a queue as a packet of a KIND that is not refused. -/
def headOfKind (s : State) (q kind : Nat) : Option (List Nat) :=
  let r := queueRec s q
  let w := headWords s r
  if r.state = 1 ∧ r.rdidx ≠ r.wridx ∧ pkKind w = kind ∧ packetErr s q w = 0 then some w else none

/-- WAIT (R105): the packet at the head of a queue. -/
def execWait (q : Nat) (s : State) : Host.Outcome State Fault Refusal :=
  .next (run (match headOfKind s q 0x12 with
    | some w => applyWait q w
    | none => pure ()) s)

/-- WAIT_POLL (R105): the owner reads the signal word; the queue becomes Active again once the word has reached its value. -/
def execWaitPoll (q : Nat) (s : State) : Host.Outcome State Fault Refusal :=
  .next (run (
    let r := queueRec s q
    onlyIf (decide (r.state = 2) && !dieFenced s r.owner) (do
      noteSignal q false
      onlyIf ((unitBytes s (r.waddr * 8) 8).isSome) (do
        let _ ← freshFree)
      if upToDate s r.owner q && (signalWord s r).elim false fun v => decide (r.waitval.toNat ≤ v.toNat) then
        updateRec q fun r => { r with state := 1, rdidx := (r.rdidx + 1) % 2 ^ 32 }
      else
        onlyIf (!(s.timers.any fun e => decide (e.2 = .waitPoll q)))
          (onTick ((s.tick / 1000 + 1) * 1000) (.waitPoll q)))) s)

/-! ### Where a launch fits (R113, R121, R124, R125) -/

/-- The dies that the WHERE of a packet allows. -/
def allowedDies (w : List Nat) : List Nat :=
  if pkKind w = 1 then (if pkWhere w = 0xFFFF then List.range 4 else [pkWhere w / 576])
  else if pkWhere w = 0 then List.range 4 else (List.range 4).filter fun d => (pkWhere w).testBit d

/-- The dies that a queue is barred from in the pass of a die. -/
def barredDies (x : Die) (q : Nat) : List Nat := (x.barred.filter fun b => decide (b.2 ≠ some q)).map (·.1)

/-- The dies on which a packet may be placed now. -/
def openDies (s : State) (d q : Nat) (w : List Nat) : List Nat :=
  (allowedDies w).filter fun e => !(barredDies (dieAt s d) q).contains e && !dieFenced s e

/-- Whether a slot of a core can be reserved. -/
def canReserve (s : State) (k c : Nat) : Bool := decide ((slotAt s c k).state = .free) && !isFenced s c

/-- The core with the most Free slots of a list, the lowest of equals. -/
def freestCore (s : State) : List Nat → Option Nat
  | [] => none
  | c :: cs =>
    match freestCore s cs with
    | none => if (freeSlots s c).isEmpty || isFenced s c then none else some c
    | some b => if (freeSlots s b).length ≤ (freeSlots s c).length && !isFenced s c then some c else some b

/-- The core and slot that a ROOT packet takes (R113). -/
def rootPlace (s : State) (d q : Nat) (w : List Nat) : Option (Nat × Nat) :=
  let dies := openDies s d q w
  let c :=
    if pkWhere w = 0xFFFF then freestCore s (dies.flatMap fun e => (List.range 576).map fun i => e * 576 + i)
    else if dies.contains (pkWhere w / 576) && !isFenced s (pkWhere w) then some (pkWhere w) else none
  match c with
  | none => none
  | some c => (freeSlots s c).head?.map fun k => (c, k)

/-- The lowest layer from k on at which a gang fits, with its regions (R121). -/
def gangFit (s : State) (dies : List Nat) (nreg : Nat) : Nat → Nat → Option (Nat × List Nat)
  | 0, _ => none
  | n + 1, k =>
    let regs := (dies.flatMap fun d => (List.range 72).map fun i => d * 72 + i).filter fun r =>
      (regionCores r).all (canReserve s k)
    if nreg ≤ regs.length then some (k, regs.take nreg) else gangFit s dies nreg n (k + 1)

/-! ### Reserve, commit and start (R96, R100, R103, R104, R122) -/

/-- The launch unit begins to reserve: requests to every member core. The request of a queue of higher priority is decided
first, then that of a lower number, then of a lower die (R123). -/
def startReserve (d : Nat) (l : Launch) : Act Unit := do
  let r ← look (queueRec · l.queue)
  modDie d fun x => { x with launch := some l }
  each l.cores fun c => unitSend (unitRouter d) c 6 ((3 - r.prio) * 1024 + l.queue * 4 + d) (.reserve c l.layer l.queue)

/-- The die whose launch unit reserves a slot for a queue: its owner, unless the queue is destroyed meanwhile (R106). -/
def reservingDie (s : State) (core layer q : Nat) : Nat :=
  ((List.range 4).find? fun d => (dieAt s d).launch.elim false fun l =>
    decide (l.queue = q ∧ l.layer = layer) && l.cores.contains core).getD (queueRec s q).owner

/-- RESERVE (R122): a core whose slot is Free sets it Reserved and acknowledges; any other core refuses. -/
def execReserve (core layer q : Nat) (s : State) : Host.Outcome State Fault Refusal :=
  .next (run (do
    let d := reservingDie s core layer q
    let ok := canReserve s layer core
    onlyIf ok (modSlot core layer fun x => { x with state := .reserved })
    unitSendBy core core (unitRouter d) 5 (29120 + d) (.reserveAck d core ok)) s)

/-- The eight mailbox values of an argument block (R94). -/
def mailboxOf (a : List Byte) : Map Word :=
  (List.range 8).foldl (fun m i => mset 0 m i (word (leNat ((a.drop (8 * i)).take 8)))) []

/-- The path-summary table of an argument block (R77). -/
def argPaths (a : List Byte) : List Nat := (List.range 16).map fun i => leNat ((a.drop (0x40 + 2 * i)).take 2)

/-- What the member of a rank starts with (R96, R113, R120). -/
def memberStart (s : State) (sheaf q : Nat) (entry ltime : Word) (rank : Nat) : Start :=
  let x := sheafAt s sheaf
  { entry := entry, ltime := ltime, rank := word rank, nrank := word x.members.length, sheaf := sheaf, service := false,
    asid := q, g := [], mbox := mailboxOf x.args, task := none, taskPins := [] }

/-- The sheaf of a launch is created (R76, R96, R418); nothing of an earlier sheaf of its ID is left. -/
def createSheaf (l : Launch) (members : List Nat) (lead : Option Nat) (nodes : List Nat) : Act Unit := do
  let s ← look id
  let a := (unitBytes s (leNat l.args) 128).getD []
  let n := argShapes a
  let shapes := (unitBytes s (argShapePa a) (64 * n)).getD []
  let _ ← freshFree
  each (listedCoreNums s) fun c => modCore c fun x => { x with fronts := mset 0 x.fronts l.sheaf 0 }
  modRoot fun r => { r with before := r.before.filter fun b => decide (b.1 ≠ l.sheaf) }
  emit (.sheaf l.sheaf
    { Sheaf.reset with
      live := true, paths := argPaths a, queue := l.queue, idx := l.idx, caddr := l.caddr, args := a,
      shapes := if n = 0 then [] else shapes, nshape := n, members := members, created := s.cycle, moved := s.tick, lead := lead, nodes := nodes })

/-- The start tick of a launch that commits, and whether it is late (R100, R113). -/
def startOf (now : Nat) (l : Launch) (gang : Bool) : Nat × Bool :=
  if l.atTick then (if l.startTick < now then ((if gang then now + 2000 else now), true) else (l.startTick, false))
  else ((if gang then now + 2000 else now), false)

/-- Every member starts: each through the timer wheel and counted there (R79, R104), or at once for a ROOT at its commit
tick; one whose core has been fenced since its acknowledgement ends at once (R103). -/
def startMembers (l : Launch) (first : Nat) (tick : Nat) (atOnce : Bool) : Act Unit := do
  let s ← look id
  each ((List.range l.cores.length).zip l.cores) fun m => do
    countAt m.2 (some l.sheaf) l.ltime 1
    if isFenced s m.2 then do
      countAt m.2 (some l.sheaf) l.ltime (-1)
      freeReserved l.layer m.2
    else if atOnce then startThread m.2 l.layer (memberStart s l.sheaf l.queue l.entry l.ltime (first + m.1))
    else armEntry ⟨tick, m.2, .start l.layer l.queue l.entry (first + m.1), l.ltime, l.sheaf, false⟩

/-- One owner update at the commit (R96, R124). -/
def commitRec (q : Nat) : Act Unit :=
  updateRec q fun r => { r with inflt := (r.inflt + 1) % 2 ^ 16, rdidx := (r.rdidx + 1) % 2 ^ 32, age := 0 }

/-- The commit of a ROOT packet, or of a gang on this module alone (R96). -/
def commitLaunch (l : Launch) (gang : Bool) : Act Unit := do
  let now ← look (·.tick)
  createSheaf l l.cores none []
  commitRec l.queue
  let (tick, late) := startOf now l gang
  onlyIf late (each l.cores fun c => countReg c 0x0E90 1)
  startMembers l 0 tick (decide (tick ≤ now) && !gang)

/-! ### Passes (R124, R125) -/

/-- The queues that a die serves in a pass: Active, its own, in descending PRIO and ascending number; queue 0 only as the
leader. -/
def passQueues (s : State) (d : Nat) : List Nat :=
  let mine := (List.range 256).filter fun q =>
    let r := recOn s d q
    decide (r.state = 1) && decide (r.owner = d) && decide (r.rdidx ≠ r.wridx) && upToDate s d q &&
      (decide (q ≠ 0) || leads s d)
  (List.range 4).flatMap fun p => mine.filter fun q => decide ((recOn s d q).prio = 3 - p)

/-- Whether an event is about a packet at the head of queue 0 that its leader has sent to the owner of another record: the packet on its
way, or the record that comes back. -/
def isAdminEvent (s : State) (e : Instr) : Bool :=
  match e with
  | .qcreate | .qdestroy => true
  | .recordUpdate d q r | .recordFetchReply d q (some r) =>
    let w := headWords s (queueRec s 0)
    decide (d = (queueRec s 0).owner) && decide (pkKind w = 0x10 ∨ pkKind w = 0x11) && decide (pw w 1 = q) &&
      decide (r.aidx = (queueRec s 0).rdidx)
  | _ => false

/-- Whether the packet at the head of queue 0 has been sent to the owner of a record and is not done. -/
def adminOut (s : State) : Bool :=
  (s.mail.any fun m => isAdminEvent s m.ev) || s.agenda.any fun e => isAdminEvent s e.2

/-- Whether a die's pass can take the head of a queue now: it is still Active, with a packet, its ring can be read, and no part of it
waits for the commit of its gang; queue 0 waits for the packet that it has sent out. DESIGN CHOICE (log entry 128): a ring in GDDR7 of a
fenced die is not served. -/
def canServe (s : State) (d q : Nat) : Bool :=
  let r := queueRec s q
  decide (r.state = 1) && decide (r.owner = d) && decide (r.rdidx ≠ r.wridx) && upToDate s d q &&
    (decide (q ≠ 0) || leads s d && !adminOut s) && !dieFenced s (r.base * 4096 / 0xC_0000_0000) &&
    !(dieAt s d).multi.any fun l => decide (l.queue = q)

/-- The pass goes on: refused and admin packets are dealt with at once, a ROOT or GANG packet is placed next. -/
def servePass (d : Nat) : Nat → Act Unit
  | 0 => pure ()
  | fuel + 1 => do
    let s ← look id
    match (dieAt s d).todo with
    | [] => pure ()
    | q :: rest =>
      if !canServe s d q then do
        modDie d fun x => { x with todo := rest }
        servePass d fuel
      else do
        let w := headWords s (queueRec s q)
        let e := packetErr s q w
        if e ≠ 0 then do
          refuseHead q w e
          servePass d fuel
        else
          match pkKind w with
          | 0x01 => later 0 5 (29130 + d) (.rootPacket q)
          | 0x02 => later 0 5 (29130 + d) (.gangPacket q)
          | 0x10 | 0x11 =>
            let o := adminDie s w
            if o = d ∨ dieFenced s o then do
              if pkKind w = 0x10 then applyCreate w else applyDestroy w
              adminNext
              servePass d fuel
            else do
              unitSend (unitRouter d) (unitRouter o) 4 (placeFrom d o) (if pkKind w = 0x10 then .qcreate else .qdestroy)
              modDie d fun x => { x with todo := rest }
              servePass d fuel
          | _ => do
            applyWait q w
            servePass d fuel

/-- More packets than the rings of all queues hold. -/
def passFuel : Nat := 2 ^ 24

/-- The place in the last phase of a cycle in which a die runs its pass. -/
def passPlace (die : Nat) : Nat := 61000 + die

/-- A packet of queue 0 is done at another die: the leader goes on with the next. -/
def adminDone : Act Unit := do
  adminNext
  let s ← look id
  let d := (queueRec s 0).owner
  modDie d fun x => { x with todo := 0 :: x.todo.filter fun q => decide (q ≠ 0) }
  onlyIf ((dieAt s d).launch.isNone && (dieAt s d).running) (servePass d passFuel)

/-- The owner of the record applies an admin packet of queue 0's head; the leader hears of it by the record (R93), at once when it is on
the same die by now. -/
def adminArrives (kind : Nat) (apply : List Nat → Act Unit) : Act Unit := do
  let s ← look id
  match headOfKind s 0 kind with
  | some w => do
    apply w
    onlyIf (decide (adminDie s w = (queueRec s 0).owner)) adminDone
  | none => pure ()

/-- QCREATE (R105): the packet at the head of queue 0. -/
def execQcreate (s : State) : Host.Outcome State Fault Refusal := .next (run (adminArrives 0x10 applyCreate) s)

/-- QDESTROY (R106): the packet at the head of queue 0. -/
def execQdestroy (s : State) : Host.Outcome State Fault Refusal := .next (run (adminArrives 0x11 applyDestroy) s)

/-- A die has a record: the leader sees by AIDX that the packet that it has sent out is done. -/
def hearRec (die q : Nat) (r : QueueRec) : Act Unit := do
  let s ← look id
  installRec die q r
  onlyIf (isAdminEvent s (.recordUpdate die q r) && !adminOut s) adminDone

/-- RECORD_UPDATE (R93): a die applies the record of the version that follows its own; on any other gap it discards its
replica and asks the owner for the record. -/
def execRecordUpdate (die q : Nat) (r : QueueRec) (s : State) : Host.Outcome State Fault Refusal :=
  .next (run (
    let v := (recOn s die q).version
    if r.version = (v + 1) % 2 ^ 32 then hearRec die q r
    else onlyIf (decide (r.version ≠ v)) (do
      installRec die q QueueRec.reset
      unitSend (unitRouter die) (unitRouter r.owner) 5 (recPlace die q) (.recordFetchReply die q none))) s)

/-- RECORD_FETCH_REPLY (R93): the owner is asked for its whole record, or it has come. -/
def execRecordFetchReply (die q : Nat) (r : Option QueueRec) (s : State) : Host.Outcome State Fault Refusal :=
  .next (run (match r with
    | some r => hearRec die q r
    | none => unitSend (unitRouter (queueRec s q).owner) (unitRouter die) 5 (recPlace die q)
        (.recordFetchReply die q (some (queueRec s q)))) s)

/-- PLACEMENT_PASS (R124): at every tick that is a multiple of 1,000, at the end of the last cycle of that tick, so that it sees
every slot freed at it. -/
def execPlacementPass (die : Nat) (s : State) : Host.Outcome State Fault Refusal :=
  .next (run (onlyIf (!dieFenced s die)
    (atCycleEnd (passPlace die) (.placementPass die)
      (if nextTick s = s.tick then later 1 7 (passPlace die) (.placementPass die)
      else do
        onTick ((s.tick / 1000 + 1) * 1000) (.placementPass die)
        onlyIf (dieAt s die).running (do
          modDie die fun x => { x with todo := passQueues s die, barred := [] }
          onlyIf (dieAt s die).launch.isNone (servePass die passFuel))))) s)

/-- The head of a queue does not fit (R124, R125): AGE, and the bar of its dies for the later queues of the pass. -/
def blockHead (d q : Nat) (w : List Nat) : Act Unit := do
  let r ← look (queueRec · q)
  let age := min 8 (r.age + 1)
  onlyIf (decide (age ≠ r.age)) (updateRec q fun r => { r with age := age })
  let ex := if r.bfen && decide (age < 8) then some r.bfq else none
  modDie d fun x => { x with todo := x.todo.filter fun y => decide (y ≠ q), barred := x.barred ++ (allowedDies w).map fun e => (e, ex) }

/-- What the launch unit keeps of a packet that it places. -/
def launchOf (r : QueueRec) (q : Nat) (w : List Nat) (layer : Nat) (cores : List Nat) : Launch :=
  { queue := q, idx := r.rdidx, sheaf := pkSheaf w, entry := word (pw w 1), ltime := word (pw w 2), atTick := pkAtTick w,
    startTick := pw w 3, args := leBytes (pw w 4) 8, shapes := [], nshape := 0, caddr := pw w 5, multi := pkMulti w,
    gang := pkGang w, nmod := pkModules w, leadMod := pkLead w, layer := layer, cores := cores, acks := [], refused := false,
    dropped := false }

/-- A packet is placed where it fits, or its head is blocked and the pass goes on. -/
def placeHead (q kind : Nat) (fit : State → Nat → List Nat → Option (Nat × List Nat)) : Act Unit := do
  let s ← look id
  let r := queueRec s q
  let d := r.owner
  onlyIf (canServe s d q && (dieAt s d).launch.isNone && (dieAt s d).running)
    (match headOfKind s q kind with
    | none => pure ()
    | some w =>
      match fit s d w with
      | some (layer, cores) => startReserve d (launchOf r q w layer cores)
      | none => do
        blockHead d q w
        servePass d passFuel)

/-- ROOT_PACKET (R113). -/
def execRootPacket (q : Nat) (s : State) : Host.Outcome State Fault Refusal :=
  .next (run (placeHead q 1 fun s d w => (rootPlace s d q w).map fun x => (x.2, [x.1])) s)

/-- GANG_PACKET (R121): the members in the order of their ranks. -/
def execGangPacket (q : Nat) (s : State) : Host.Outcome State Fault Refusal :=
  .next (run (placeHead q 2 fun s d w =>
    (gangFit s (openDies s d q w) (pkRegions w) 16 0).map fun x => (x.1, x.2.flatMap regionCores)) s)

/-- A part of a MULTI gang has reserved its slots (R101): it waits for the commit, and its module is ready, or its tick is
not locked, which aborts the gang. -/
def partReady (d : Nat) (l : Launch) : Act Unit := do
  let s ← look id
  modDie d fun x => { x with multi := x.multi ++ [l], todo := x.todo.filter fun y => decide (y ≠ l.queue) }
  sendMulti d (if s.locked then 0 else 2) l.leadMod (partMsg s l (if s.locked then 0 else 8))

/-- Every member of a launch has answered (R106, R122): it commits, or its slots are released and its head is blocked. A
commit finds a queue that has been destroyed since, or a sheaf that another launch has created meanwhile, and does nothing. -/
def decideLaunch (d : Nat) (l : Launch) : Act Unit := do
  let s ← look id
  modDie d fun x => { x with launch := none }
  let r := queueRec s l.queue
  let w := headWords s r
  let stands := !l.dropped && decide (r.state = 1) && decide (r.rdidx = l.idx) && decide (r.owner = d) && decide (r.rdidx ≠ r.wridx)
  if l.refused || !stands || (sheafAt s l.sheaf).live then do
    each l.acks (freeReserved l.layer)
    onlyIf (l.refused && stands) (blockHead d l.queue w)
  else if l.multi then partReady d l
  else commitLaunch l (decide (pkKind w = 2))
  servePass d passFuel

/-- RESERVE_ACK (R122): an answer of a member; with the last one the launch is decided. -/
def execReserveAck (die core : Nat) (ok : Bool) (s : State) : Host.Outcome State Fault Refusal :=
  .next (run (match (dieAt s die).launch with
    | none => pure ()
    | some l =>
      let l' : Launch :=
        if ok then { l with acks := l.acks ++ [core] } else { l with refused := true, cores := l.cores.erase core }
      if l'.acks.length = l'.cores.length then decideLaunch die l'
      else modDie die fun x => { x with launch := some l' }) s)

/-! ### MULTI gangs: the coordinator and the parts (R101) -/

/-- The ticks that a coordinator waits for all parts, and the lead of the start. -/
def readyTicks : Nat := 100_000_000
def multiLead : Nat := 50_000

/-- The gang of an identifier that this module coordinates. -/
def gangAt (s : State) (g : Nat) : Gang := mget Gang.none s.gangs g

/-- The gang's record is dropped once every module has been heard. -/
def keepGang (g : Nat) (x : Gang) : Act Unit :=
  emit (.gang g (if x.nmod ≤ x.ready.length then Gang.none else x))

/-- A gang aborts: every module that has been heard is told, and the others when they are heard. -/
def abortGang (d g : Nat) (x : Gang) (err : Nat) (m : MultiMsg) : Act Unit := do
  each x.ready fun n => sendMulti d 2 n.1 { m with err := err, parts := [] }
  keepGang g { x with err := err }

/-- MULTI_READY (R101): the leader of LEADMOD hears that a part is ready; when every part is, it sends the commit with the
start tick. -/
def execMultiReady (m : MultiMsg) (s : State) : Host.Outcome State Fault Refusal :=
  .next (run (atLeader 0 m fun d => do
    let x := gangAt s m.gang
    let first := if x.ready.isEmpty then s.tick else x.first
    let y : Gang := { x with
      ready := x.ready ++ [(m.node, m.tick)], parts := x.parts ++ m.parts, nmod := m.nmod, start := max x.start m.start,
      first := first }
    onlyIf x.ready.isEmpty (onTick (first + readyTicks) (.multiReadyTimeout m.gang))
    if y.err ≠ 0 then do
      sendMulti d 2 m.node { m with err := y.err, parts := [] }
      keepGang m.gang y
    else if !s.locked then abortGang d m.gang y 8 m
    else if y.nmod ≤ y.ready.length then do
      emit (.gang m.gang Gang.none)
      let t := max y.start (y.ready.foldl (fun t n => max t n.2) 0 + multiLead)
      each y.ready fun n => sendMulti d 1 n.1 { m with tick := t, parts := y.parts }
    else emit (.gang m.gang y)) s)

/-- What the coordinator of a gang says of it. -/
def gangMsg (s : State) (g : Nat) (x : Gang) (err : Nat) : MultiMsg :=
  ⟨g, nodeId s, nodeId s, none, s.tick, err, x.nmod, x.start, []⟩

/-- MULTI_READY_TIMEOUT (R101): not all parts are ready in time. -/
def execMultiReadyTimeout (gang : Nat) (s : State) : Host.Outcome State Fault Refusal :=
  .next (run (byLeader (.multiReadyTimeout gang) fun d =>
    let x := gangAt s gang
    onlyIf (!x.ready.isEmpty && decide (x.err = 0) && decide (x.first + readyTicks ≤ s.tick))
      (abortGang d gang x 7 (gangMsg s gang x 7))) s)

/-- The tick is no longer locked (R101): this module's parts that wait for their commit abort, and so do the gangs that it
coordinates. -/
def lostLock : Act Unit := do
  let s ← look id
  each (List.range 4) fun d => each (dieAt s d).multi fun l => sendMulti d 2 l.leadMod (partMsg s l 8)
  each s.gangs fun x => onlyIf (!x.2.ready.isEmpty && decide (x.2.err = 0))
    (abortGang ((leaderDie s).getD (moduleDie s)) x.1 x.2 8 (gangMsg s x.1 x.2 8))

/-- The part of a gang commits on its die with the gang's start tick (R100, R101, R120); the ranks follow the modules' node IDs. A
STARTT that has passed counts as a late start. DESIGN CHOICE (log entry 146): a sheaf that another launch has made live meanwhile is
created anew. -/
def commitPart (m : MultiMsg) : Act Unit := do
  let s ← look id
  match partOf s m.gang with
  | none => pure ()
  | some (d, l) => do
    let me := nodeId s
    let below := m.parts.foldl (fun n p => if p.1 < me then n + 8 * p.2 else n) 0
    let total := m.parts.foldl (fun n p => n + 8 * p.2) 0
    let members := List.replicate below 2304 ++ l.cores ++ List.replicate (total - below - l.cores.length) 2304
    modDie d fun x => { x with multi := x.multi.erase l }
    createSheaf l members (if l.leadMod = me then none else some l.leadMod)
      (if l.leadMod = me then (m.parts.filter fun p => decide (p.1 ≠ me)).map (·.1) else [])
    commitRec l.queue
    onlyIf (l.atTick && decide (l.startTick < s.tick)) (each l.cores fun c => countReg c 0x0E90 1)
    startMembers l below m.tick false

/-- MULTI_COMMIT (R97, R101): the leader passes the commit on to the die of the module's part, which commits. -/
def execMultiCommit (m : MultiMsg) (s : State) : Host.Outcome State Fault Refusal :=
  .next (run (match m.unit with
    | some _ => commitPart m
    | none => atLeader 1 m fun d => tellPart d 1 m) s)

/-- The part of a gang counts as never started; a queue that is not Destroying reports it. -/
def abortPart (m : MultiMsg) : Act Unit := do
  let s ← look id
  match partOf s m.gang with
  | none => pure ()
  | some (d, l) => do
    each l.cores (freeReserved l.layer)
    modDie d fun x => { x with multi := x.multi.erase l }
    onlyIf (decide ((queueRec s l.queue).state ≠ 3)) (do
      emit (.qerr l.queue m.err)
      updateRec l.queue fun r => { r with rdidx := (r.rdidx + 1) % 2 ^ 32 }
      reportThen 3 l.queue l.sheaf m.err l.idx 0 0 l.caddr none)

/-- MULTI_ABORT (R97, R101): the leader passes the abort on to the die of the module's part; that of LEADMOD passes the abort of a part
on to every module. -/
def execMultiAbort (m : MultiMsg) (s : State) : Host.Outcome State Fault Refusal :=
  .next (run (match m.unit with
    | some _ => abortPart m
    | none => atLeader 2 m fun d => do
      let s ← look id
      tellPart d 2 m
      let x := gangAt s m.gang
      onlyIf (decide (x.err = 0) && !m.parts.isEmpty) (do
        let y : Gang := { x with
          ready := if x.ready.any fun n => decide (n.1 = m.node) then x.ready else x.ready ++ [(m.node, m.tick)],
          nmod := m.nmod }
        abortGang d m.gang y m.err m)) s)

/-! ### The timer wheel (R103, R104) -/

/-- Entries in ascending core number. -/
def putByCore (e : WheelEntry) : List WheelEntry → List WheelEntry
  | [] => [e]
  | x :: xs => if e.core < x.core then e :: x :: xs else x :: putByCore e xs

/-- An entry is released: its −1, and the start of a member or the push of a timed task with its +1, at one time in one
batch, so the count stands. A fenced core takes neither (R103, R427). -/
def releaseEntry (d : Nat) (e : WheelEntry) : Act Unit := do
  let s ← look id
  if isFenced s e.core then countDie e.core (some e.sheaf) e.time (-1)
  else match e.item with
    | .start k q entry rank =>
      onlyIf (decide ((slotAt s e.core k).state = .reserved)) (startThread e.core k (memberStart s e.sheaf q entry e.time rank))
    | .task t =>
      if dequeFits (coreAt s e.core) 1 then do
        colourReceived e.core e.col
        pushDeque e.core t
      else do
        modDie d fun x => { x with wheel := x.wheel ++ [{ e with tick := s.tick + 1 }] }
        onTick (s.tick + 1) (.timerWheelRelease d)

/-- Entries that wait for room in the wheel are armed in their order (R104). -/
def armWaiting (d : Nat) : Act Unit := do
  let l ← look fun s => (dieAt s d).wheelWait
  modDie d fun x => { x with wheelWait := [] }
  each l armEntry

/-- The entries of the overflow list whose turn it is are examined again (R104). -/
def armOverflow (d : Nat) : Act Unit := do
  let now ← look (·.tick)
  let l ← look fun s => (dieAt s d).overflow
  modDie d fun x => { x with overflow := l.filter fun e => decide (now < e.1) }
  each (l.filter fun e => decide (e.1 ≤ now)) fun e => armEntry e.2

/-- TIMER_WHEEL_RELEASE (R104): the entries that are due, in ascending core number; then those that wait for room, and those of
the overflow list whose turn it is, are armed. -/
def execTimerWheelRelease (die : Nat) (s : State) : Host.Outcome State Fault Refusal :=
  .next (run (do
    let due := (dieAt s die).wheel.filter fun e => decide (e.tick ≤ s.tick)
    modDie die fun x => { x with wheel := x.wheel.filter fun e => decide (s.tick < e.tick) }
    each (due.foldl (fun l e => putByCore e l) []) (releaseEntry die)
    armWaiting die
    armOverflow die) s)

/-! ### The watchdog (R108) -/

/-- What the watchdog of a die looks at, each with the tick since which it has not moved: its waiting queues with the change of
their signal words, the live sheaves of its queues with their frontiers and commits, and the commits of its cores that a full
table holds. -/
def watched (s : State) (d : Nat) : List (Nat × Nat) :=
  let since := fun (n first : Nat) => (((dieAt s d).watch.find? fun e => decide (e.1 = n)).elim first fun e => max first e.2.2)
  ((List.range 256).filterMap fun q =>
    let r := queueRec s q
    if r.state = 2 ∧ r.owner = d then some (q, since q 0) else none) ++
  (s.sheaves.filterMap fun x =>
    if x.2.live ∧ (queueRec s x.2.queue).owner = d then some (256 + x.1, since (256 + x.1) x.2.moved) else none) ++
  (s.slots.filterMap fun x =>
    match x.2.thread with
    | some t => if t.wait = .table ∧ dieOf (x.1 / 16) = d then some (8192 + x.1, since (8192 + x.1) t.tableSince) else none
    | none => none)

/-- The queue, the sheaf and the packet that an event of the watchdog names. -/
def watchNames (s : State) (n : Nat) : Nat × Nat × Nat :=
  if n < 256 then (n, 0, (queueRec s n).rdidx)
  else
    let sh := if n < 8192 then n - 256 else ((threadAt s ((n - 8192) / 16) (n % 16)).bind sheafOf).getD 0
    ((sheafAt s sh).queue, sh, (sheafAt s sh).idx)

/-- The period of the watchdog in ticks (R108). -/
def watchTicks (s : State) : Nat := 1000 * max 1 ((mreg s 0x0400).toNat % 2 ^ 32)

/-- What a die keeps of the things that it watches: those that have been events begin a new period now. -/
def rewatch (now : Nat) (keys late : List Nat) (l : List (Nat × Word × Nat)) : List (Nat × Word × Nat) :=
  let kept := l.filter fun e => keys.contains e.1
  (kept.map fun e => if late.contains e.1 then (e.1, e.2.1, now) else e) ++
    ((late.filter fun n => !kept.any fun e => decide (e.1 = n)).map fun n => (n, 0, now))

/-- WATCHDOG_PERIOD (R108): what has not moved for a period is an event, counted and reported; nothing is stopped. The next look
is when the first of the others reaches its period, at most a period from now; a write of WDTCFG has one at once. -/
def execWatchdogPeriod (die : Nat) (s : State) : Host.Outcome State Fault Refusal :=
  .next (run (onlyIf (!dieFenced s die) (do
    let p := watchTicks s
    let now := watched s die
    let late := (now.filter fun x => decide (x.2 + p ≤ s.tick)).map (·.1)
    each late fun n => do
      countMreg 0x0408 1
      let (q, sh, idx) := watchNames s n
      plainReport die 4 q sh 0 idx 0 0 0
    modDie die fun x => { x with watch := rewatch s.tick (now.map (·.1)) late x.watch }
    let next := now.foldl (fun t x => if s.tick < x.2 + p then min t (x.2 + p) else t) (s.tick + p)
    onlyIf (!s.timers.any fun e => decide (e.2 = .watchdogPeriod die) && decide (e.1 ≤ next)) (onTick next (.watchdogPeriod die)))) s)

/-! ### Elections (R98, R99) -/

/-- Whether the effect of an admin packet is there already (R99): AIDX of the record that it changes is the packet's own. -/
def adminApplied (s : State) (w : List Nat) : Bool :=
  let r := queueRec s (pw w 1)
  decide (r.aidx = (queueRec s 0).rdidx) && decide (pkKind w = 0x10 ∧ r.state ≠ 0 ∨ pkKind w = 0x11 ∧ r.state = 3)

/-- A new leader resumes queue 0 at RDIDX (R91, R99): a packet whose effect is there already is skipped, and a WAIT is polled. -/
def resumeAdmin : Act Unit := do
  let s ← look id
  let r := queueRec s 0
  onlyIf (decide (r.state = 2)) (later 1 5 56000 (.waitPoll 0))
  onlyIf (decide (r.state = 1) && decide (r.rdidx ≠ r.wridx) && !adminOut s && adminApplied s (headWords s r)) adminNext

/-- LEASE_GRANT (R98, R91): a claimant that holds grants of more than half of the dies that take part leads; OWNER of queue 0
moves to it in the same step, and it resumes that queue. -/
def execLeaseGrant (claimant epoch granter : Nat) (s : State) : Host.Outcome State Fault Refusal :=
  .next (run (
    let l := (dieAt s claimant).lease
    onlyIf (decide (l.claim = (epoch + 1) % 2 ^ 32) && !dieFenced s claimant) (do
      let gs := putNat granter l.grants
      modDie claimant fun x => { x with lease := { x.lease with grants := gs } }
      onlyIf (decide ((liveDies s).length < 2 * (gs.filter fun g => (liveDies s).contains g).length)) (do
        modDie claimant fun x => { x with lease := { x.lease with claim := 0, grants := [] } }
        grantLease claimant epoch
        onlyIf (decide ((queueRec s 0).owner ≠ claimant)) (updateRec 0 fun r => { r with owner := claimant })
        resumeAdmin
        endStartup))) s)

end Sys2Proof.Machine
end

