-- ==== Sys2Proof/Machine/Hash.lean ====
section
/-! DEFINITION. The algorithms that R423 and R425 name: SHAKE256 (FIPS 202) and the verification of a signature of the parameter
set XMSS-SHAKE256_10_256 (RFC 8391, SP 800-208). PRESUMED (log entry 12): the spec names them and does not print them. -/

namespace Sys2Proof.Machine

open Sys2Proof

/-! ### SHAKE256 -/

/-- The rotation of lane x + 5y in step ρ. -/
def laneTurns : List Nat := [0, 1, 62, 28, 27, 36, 44, 6, 55, 20, 3, 10, 43] ++ [25, 39, 41, 45, 15, 21, 8, 18, 2, 61, 56, 14]

/-- The constants that step ι adds in the 24 rounds. -/
def iotas : List Nat :=
  [0x1, 0x8082, 0x800000000000808A, 0x8000000080008000, 0x808B, 0x80000001, 0x8000000080008081, 0x8000000000008009] ++
    [0x8A, 0x88, 0x80008009, 0x8000000A, 0x8000808B, 0x800000000000008B, 0x8000000000008089, 0x8000000000008003] ++
    [0x8000000000008002, 0x8000000000000080, 0x800A, 0x800000008000000A, 0x8000000080008081, 0x8000000000008080, 0x80000001,
      0x8000000080008008]

/-- Lane x + 5y of a state of 25 lanes; x and y count modulo 5. -/
def laneXY (a : List Word) (x y : Nat) : Word := a.getD (x % 5 + 5 * (y % 5)) 0

/-- The parity of column x (step θ). -/
def columnSum (a : List Word) (x : Nat) : Word := (List.range 5).foldl (fun v y => v ^^^ laneXY a x y) 0

/-- A state from its lanes. -/
def lanes25 (f : Nat → Nat → Word) : List Word := (List.range 25).map fun i => f (i % 5) (i / 5)

/-- One round of the permutation: steps θ, ρ with π, χ and ι. -/
def keccakRound (a : List Word) (c : Nat) : List Word :=
  let sums := (List.range 5).map (columnSum a)
  let t := lanes25 fun x y => laneXY a x y ^^^ sums.getD ((x + 4) % 5) 0 ^^^ (sums.getD ((x + 1) % 5) 0).rotateLeft 1
  let b := lanes25 fun x y =>
    let from_ := (x + 3 * y) % 5
    (laneXY t from_ x).rotateLeft (laneTurns.getD (from_ + 5 * x) 0)
  lanes25 fun x y =>
    laneXY b x y ^^^ (~~~(laneXY b (x + 1) y) &&& laneXY b (x + 2) y) ^^^ (if x + y = 0 then word c else 0)

/-- The permutation. -/
def keccak (a : List Word) : List Word := iotas.foldl keccakRound a

/-- The value of bytes with the least significant first. -/
def lowFirst (l : List Byte) : Nat := l.foldr (fun b n => b.toNat + 256 * n) 0

/-- n bytes of a number with the least significant first. -/
def bytesLow (v n : Nat) : List Byte := (List.range n).map fun i => BitVec.ofNat 8 (v / 2 ^ (8 * i))

/-- The bytes that a block of SHAKE256 takes. -/
def shakeRate : Nat := 136

/-- A block added to a state. -/
def absorb (a : List Word) (block : List Byte) : List Word :=
  keccak ((List.range 25).map fun i => a.getD i 0 ^^^ word (lowFirst ((block.drop (8 * i)).take 8)))

/-- The padding of a message of a length: the suffix 1111 of SHAKE and the two ends of pad10*1. -/
def shakePad (len : Nat) : List Byte :=
  let n := shakeRate - len % shakeRate
  if n = 1 then [0x9F] else 0x1F :: List.replicate (n - 2) 0 ++ [0x80]

/-- The blocks of a padded message, at most `fuel` of them, taken up one after another. -/
def absorbAll : Nat → List Byte → List Word → List Word
  | 0, _, a => a
  | fuel + 1, l, a => if l.isEmpty then a else absorbAll fuel (l.drop shakeRate) (absorb a (l.take shakeRate))

/-- The first n bytes of SHAKE256, n at most 136. -/
def shake256 (m : List Byte) (n : Nat) : List Byte :=
  let a := absorbAll (m.length / shakeRate + 1) (m ++ shakePad m.length) (List.replicate 25 0)
  (a.flatMap fun w => bytesLow w.toNat 8).take n

/-! ### XMSS-SHAKE256_10_256 -/

/-- n bytes of a number with the most significant first, the order of RFC 8391. -/
def beBytes (v n : Nat) : List Byte := (bytesLow v n).reverse

/-- The object identifier of XMSS-SHAKE256_10_256 in the registry of SP 800-208. -/
def xmssOid : Nat := 0x10

/-- The keyed functions: 0 is F, 1 is H, 2 is H_msg, 3 is PRF. -/
def keyed (which : Nat) (key m : List Byte) : List Byte := shake256 (beBytes which 32 ++ key ++ m) 32

/-- A hash address: its type and the four words that follow. -/
def hashAddress (type a b c d : Nat) : List Byte := [0, 0, 0, type, a, b, c, d].flatMap fun w => beBytes w 4

/-- Two strings of bytes added bit by bit. -/
def xorBytes (a b : List Byte) : List Byte := List.zipWith (· ^^^ ·) a b

/-- s steps of the chain of a one-time key from step i on. -/
def chainFrom (seed : List Byte) (ots chain : Nat) : Nat → Nat → List Byte → List Byte
  | 0, _, x => x
  | s + 1, i, x =>
    let key := keyed 3 seed (hashAddress 0 ots chain i 0)
    let mask := keyed 3 seed (hashAddress 0 ots chain i 1)
    chainFrom seed ots chain s (i + 1) (keyed 0 key (xorBytes x mask))

/-- The 67 digits to the base 16 of a message digest with their check sum. -/
def otsDigits (m : List Byte) : List Nat :=
  let ds := m.flatMap fun b => [b.toNat / 16, b.toNat % 16]
  let sum := ds.foldl (fun n d => n + (15 - d)) 0
  ds ++ [sum / 256 % 16, sum / 16 % 16, sum % 16]

/-- Two nodes of a tree joined into the one above them. -/
def joinNodes (seed : List Byte) (type ots height index : Nat) (l r : List Byte) : List Byte :=
  let draw := fun n => keyed 3 seed (hashAddress type ots height index n)
  keyed 1 (draw 0) (xorBytes l (draw 1) ++ xorBytes r (draw 2))

/-- A level of the tree over the 67 parts of a one-time key from node i on: a last node without a neighbour rises as it is. -/
def joinLevel (seed : List Byte) (ots height : Nat) : Nat → List (List Byte) → List (List Byte)
  | i, l :: r :: rest => joinNodes seed 1 ots height i l r :: joinLevel seed ots height (i + 1) rest
  | _, rest => rest

/-- The root of that tree, after at most `fuel` levels. -/
def otsLeaf (seed : List Byte) (ots : Nat) : Nat → Nat → List (List Byte) → List Byte
  | 0, _, l => l.headD []
  | fuel + 1, height, l =>
    if l.length ≤ 1 then l.headD [] else otsLeaf seed ots fuel (height + 1) (joinLevel seed ots height 0 l)

/-- The way from a leaf to the root of the tree of the key, through the authentication path. -/
def climb (seed : List Byte) (leaf : Nat) : Nat → List (List Byte) → List Byte → List Byte
  | _, [], x => x
  | k, a :: rest, x =>
    let index := leaf / 2 ^ (k + 1)
    climb seed leaf (k + 1) rest
      (if leaf / 2 ^ k % 2 = 0 then joinNodes seed 2 0 k index x a else joinNodes seed 2 0 k index a x)

/-- Part i of 32 bytes of a signature behind its index. -/
def sigPart (sig : List Byte) (i : Nat) : List Byte := (sig.drop (4 + 32 * i)).take 32

/-- The root that a signature of 2,500 bytes over a message leads to: index, randomiser, 67 chains, 10 nodes. -/
def rootOfSignature (root seed m sig : List Byte) : List Byte :=
  let leaf := lowFirst (sig.take 4).reverse
  let digest := keyed 2 (sigPart sig 0 ++ root ++ beBytes leaf 32) m
  let parts := ((List.range 67).zip (otsDigits digest)).map fun d =>
    chainFrom seed leaf d.1 (15 - d.2) d.2 (sigPart sig (1 + d.1))
  climb seed leaf 0 ((List.range 10).map fun k => sigPart sig (68 + k)) (otsLeaf seed leaf 8 0 parts)

/-- Whether a signature over a message holds for a public key, given by its root and its seed. -/
def xmssVerifies (root seed m sig : List Byte) : Bool :=
  decide (sig.length = 2500) && decide (lowFirst (sig.take 4).reverse < 1024) && decide (rootOfSignature root seed m sig = root)

end Sys2Proof.Machine
end

