-- ==== Sys2Proof/Machine/Upkeep.lean ====
section
/-! DEFINITION. Fences (R43, R427-R429), start-up and modes (R420-R422), firmware images (R423-R425), power and cooling (R430),
the tick (R15, R102), ECC counts. -/

namespace Sys2Proof.Machine

open Sys2Proof

/-- A report of the module itself: KIND, QUEUE, SHEAF, IDX and INFO. -/
def moduleReport (kind queue sheaf idx info : Nat) : Act Unit := do
  let d ← look moduleDie
  plainReport d kind queue sheaf 0 idx 0 0 info

/-! ### Fencing a core (R43, R427, R429) -/

/-- The place in the last phase of a cycle in which a fence takes effect (R429). -/
def fencePlace : Nat := 65000

/-- The counted items that a fenced core drops: deque entries, buffered and preloaded standpipe entries, waiting fills, queued
recalculations of its cells, as sheaf and time. -/
def droppedItems (s : State) (c : Nat) : List (Option Nat × Word) :=
  let x := coreAt s c
  let spilled := (List.range x.spillCount).map fun i => readEntry s false (spillPa c (x.spillHead + i))
  ((spilled ++ x.deque).map fun e => (some e.sheaf, e.ltime)) ++
    (x.chans.flatMap fun q => (q.2.buf ++ q.2.preload).map fun e => (e.sheaf, e.time)) ++
    (x.fills.filterMap fun e => if e.2.sel.isSome then some (e.2.sheaf, e.2.time) else none) ++
    x.tasks.map fun t => (some (cellAt x t.cell).sheaf.toNat, t.time)

/-- The sheaves that a fence of a core affects: those of its threads, of the threads in its context cache, of the items that it
drops and of its cells. -/
def affectedSheaves (s : State) (c : Nat) : List Nat :=
  let x := coreAt s c
  (((List.range 16).filterMap fun k => (threadAt s c k).bind sheafOf) ++ (x.cache.filterMap fun e => sheafOf e.2.thread) ++
    ((droppedItems s c).filterMap (·.1)) ++ (x.cells.filterMap fun e => if e.2.valid then some e.2.sheaf.toNat else none)).dedup

/-- A thread in the context cache ends: its −1 and those of the pops that it has latched. -/
def endCached (c : Nat) (t : Thread) : Act Unit := do
  countAt c (sheafOf t) t.ltime (-1)
  countPops c t.retry
  countPops c t.trap

/-- The cells that are reachable from a list of cells are marked Stale at the frontier time, with tasks that are held, one that
is queued there already included (R43); at most `fuel` cells. -/
def holdReachable : Nat → List (Nat × Nat) → Act Unit
  | 0, _ => pure ()
  | _, [] => pure ()
  | fuel + 1, (h, i) :: rest => do
    let s ← look id
    let e := cellAt (coreAt s h) i
    let next := (dependants s h e).filterMap fun d =>
      match cellById s d.1 with
      | some (g, j, x) =>
        let f := frontierAt s g x.sheaf.toNat
        let names := (formulaAt x f).elim false fun r => (formulaRec s g r).precs.contains (cellId h i, d.2)
        if names && !isFenced s g && !(tasksOf (coreAt s g) j).any (fun t => decide (t.time = f) && t.held) && decide (f ≠ timeTop) then
          some (g, j, f)
        else none
      | none => none
    each next fun n => do
      queueTask n.1 n.2.1 n.2.2 true
      modCore n.1 fun x => { x with tasks := x.tasks.map fun y =>
        if y.cell = n.2.1 ∧ y.time = n.2.2 then { y with held := true } else y }
      pokeHeld n.1
    holdReachable fuel (rest ++ next.map fun n => (n.1, n.2.1))

/-- More cells than the directories hold. -/
def cellFuel : Nat := 2 ^ 18

/-- A member of a launch whose start is still to come ends at once (R103): its −1 is recorded and its slot freed. -/
def endWaiting (c : Nat) : Act Unit := do
  let d := dieOf c
  let x ← look (dieAt · d)
  let mine := fun (e : WheelEntry) => decide (e.core = c) && (match e.item with
    | .start _ _ _ _ => true
    | .task _ => false)
  modDie d fun x => { x with
    wheel := x.wheel.filter fun e => !mine e, wheelWait := x.wheelWait.filter fun e => !mine e,
    overflow := x.overflow.filter fun e => !mine e.2 }
  each ((x.wheel ++ x.wheelWait ++ x.overflow.map (·.2)).filter mine) fun e => do
    countAt c (some e.sheaf) e.time (-1)
    match e.item with
    | .start k _ _ _ => freeReserved k c
    | .task _ => pure ()
  armWaiting d

/-- A channel register of a core that is fenced: its binding stands, its entries are gone (R427). -/
def emptyChannel (x : Channel) : Channel := { x with buf := [], ahead := [], preload := [] }

/-- A core is fenced (R427): its threads, those in its context cache and those that wait for their start end, its items are
dropped, their −1s recorded by the frontier unit of its die, its cells become Failed, each affected sheaf has an error event, and
KIND 6 is reported. -/
def fenceCore (c cause : Nat) : Act Unit := do
  let s ← look id
  onlyIf (!isFenced s c) (do
    let sheaves := affectedSheaves s c
    let cells := ((coreAt s c).cells.filter fun e => e.2.valid).map fun e => (c, e.1)
    setCreg c 0x0EC8 (word (1 + cause % 256 * 256))
    each (droppedItems s c) fun x => countAt c x.1 x.2 (-1)
    each (List.range 16) fun k => match threadAt s c k with
      | some t => endThread c k t.ltime
      | none => pure ()
    each (coreAt s c).cache fun e => endCached c e.2.thread
    endWaiting c
    modCore c fun x =>
      { x with
        deque := [], spillHead := 0, spillCount := 0, spillCols := [], fills := [], tasks := [], cache := [],
        chans := x.chans.map (fun q => (q.1, emptyChannel q.2)) }
    holdReachable cellFuel cells
    pokeHeld c
    cutResumed
    each sheaves errorEvent
    moduleReport 6 0 0 c 0)

/-- A die is fenced (R428): all its cores, its wellheads and its launch unit stop, and KIND 7 is reported. -/
def fenceDie (d : Nat) : Act Unit := do
  let s ← look id
  onlyIf (decide (d < 4) && !dieFenced s d) (do
    emit (.mreg 0x0920 (mreg s 0x0920 ||| word (2 ^ d)))
    each (List.range 576) fun i => fenceCore (d * 576 + i) 3
    each (List.range 48) fun i => do
      let x := wellAt s (wellOf d i)
      modWell (wellOf d i) fun x => { x with stopped := true, queue := [], waiting := [] }
      each x.queue fun e => unreachableAt (destRouter (.well (wellOf d i))).1 e.1
      each x.waiting fun e => unreachableAt e.router e.packet.msg
    match (dieAt s d).launch with
    | some l => each l.acks (freeReserved l.layer)
    | none => pure ()
    modDie d fun x => { x with launch := none, todo := [], running := false }
    moduleReport 7 d 0 0 0)

/-- The data of an error is never delivered (R427): what has started the read gets no answer to it. -/
def withhold (r : EccReader) : Act Unit :=
  match r with
  | .unknown | .engine (.adder _ _) => pure ()
  | .thread id => modThread id.core id.slot fun t =>
      { t with block := t.block.map fun b => if b.gen = id.gen then dropPend id.idx b else b }
  | .engine (.walker d asid page) => modDie d fun x => { x with walks := x.walks.map fun w =>
      if w.asid = asid ∧ w.page = page then { w with stale := true } else w }
  | .engine (.loader c k n) => modThread c k fun t => if t.fetch.asked = n then { t with fetch := Xfer.none } else t
  | .engine e => modXfer e fun x => { x with withheld := true }

/-- The reader that an error names, and what is fenced at the end of its cycle. -/
def eccReader : EccSource → EccReader
  | .cistern r | .gddr r => r
  | _ => .unknown
def eccFence (core : Nat) : EccSource → Act Unit
  | .cistern _ => fenceCore core 1
  | .gddr _ => fenceCore core 2
  | _ => fenceDie (dieOf core)
def unreadEcc : EccSource → EccSource
  | .cistern _ => .cistern .unknown
  | .gddr _ => .gddr .unknown
  | x => x

/-- UNCORRECTABLE_ECC (R427-R429): an error of a core's cistern or of a GDDR7 read that it has started, cause 1 or 2, fences the core; one
of the frontier unit or the firmware SRAM its die; the data is withheld at once, and the fence is at the end of the cycle. -/
def execUncorrectableEcc (core : Nat) (src : EccSource) (s : State) : Host.Outcome State Fault Refusal :=
  .next (run (do
    withhold (eccReader src)
    atCycleEnd fencePlace (.uncorrectableEcc core (unreadEcc src)) (eccFence core src)) s)

/-- CORRECTED_ECC_ERROR (R419). -/
def execCorrectedEccError (core : Nat) (s : State) : Host.Outcome State Fault Refusal := .next (run (countReg core 0x0EC0 1) s)

/-- DIE_FENCE (R428, R429): a die is fenced at the end of the cycle. -/
def execDieFence (die : Nat) (s : State) : Host.Outcome State Fault Refusal :=
  .next (run (atCycleEnd fencePlace (.dieFence die) (fenceDie die)) s)

/-! ### The clock and the tick (R15, R102, R430) -/

/-- A KIND 8 report, at most one in 1,000,000 ticks, with the stretched cycles since the last one. -/
def reportStretch : Act Unit := do
  let s ← look id
  onlyIf (decide (s.stretchLast = 0) || decide (s.stretchLast + 1_000_000 ≤ s.tick)) (do
    emit (.stretch (max 1 s.tick) 0)
    moduleReport 8 0 0 0 s.stretchSince)

/-- The sensors of a die read badly in this cycle: its clock is stretched until they have read normal for 256 cycles. -/
def stretchDie (d : Nat) (f : Die → Die) : Act Unit := do
  let now ← look (·.cycle)
  modDie d fun x => { f x with stretched := true, normalSince := now + 1 }
  later 257 5 (29140 + d) (.stretchEnd d)
  reportStretch

/-- SUPPLY_SAG (R430): a supply sensor of a die reads below its threshold. -/
def execSupplySag (die : Nat) (s : State) : Host.Outcome State Fault Refusal :=
  .next (run (stretchDie die fun x => { x with sag := true }) s)

/-- STRETCH_END (R430): a die's sensors have read normal for 256 cycles. -/
def execStretchEnd (die : Nat) (s : State) : Host.Outcome State Fault Refusal :=
  .next (run (
    let x := dieAt s die
    onlyIf (x.stretched && !x.hot && decide (x.normalSince + 256 ≤ s.cycle)) (do
      modDie die fun x => { x with stretched := false, sag := false }
      reportStretch)) s)

/-- JUNCTION_TEMPERATURE (R417, R430): a die's hottest sensor, in units of 1/16 °C: 100 °C stretches its clock, 110 °C fences
all four dies. -/
def execJunctionTemperature (die temp : Nat) (s : State) : Host.Outcome State Fault Refusal :=
  .next (run (do
    let was := (dieAt s die).hot
    modDie die fun x => { x with temp := temp % 2 ^ 16 }
    let t ← look id
    emit (.mreg 0x0938 (word ((List.range 4).foldl (fun m d => max m (dieAt t d).temp) 0)))
    if 110 * 16 ≤ temp then each (List.range 4) fun d => later 0 7 fencePlace (.dieFence d)
    else if 100 * 16 ≤ temp then stretchDie die fun x => { x with hot := true }
    else onlyIf was (stretchDie die fun x => { x with hot := false })) s)

/-- The ticks without a valid sync after which lock is lost (R102). -/
def lockTicks : Nat := 1_000_000_000

/-- Whether the step of start-up before the election is over (R420): every port has come up or waited long enough, and the tick has been
locked. -/
def portsTrained (s : State) : Bool := (List.range 16).all fun p => (portAt s p).up || (portAt s p).timedOut
def electionOpen (s : State) : Bool := (mreg s 0x0900).getLsbD 2 || s.everLocked && portsTrained s

/-- The dies that run an image and have seen no leader begin their claims, once the election is open (R98, R420). -/
def openElection : Act Unit := do
  let s ← look id
  onlyIf (electionOpen s) (each ((liveDies s).filter fun d =>
      let x := dieAt s d
      x.image && x.lease.leader.isNone && decide (x.lease.claim = 0) && !(s.timers.any fun e => decide (e.2 = .leaseExpiry d)))
    fun d => onTick s.tick (.leaseExpiry d))

/-- A sync of the master (R15, R102): the first lock sets the tick once, if the master's time is greater; every other one slews
it. DESIGN CHOICE (log entry 123): lock is gained, and gained again after a loss, by the first sync that arrives. -/
def takeSync (time : Nat) : Act Unit := do
  let s ← look id
  let master := time % 2 ^ 64
  let t := if s.everLocked then s.tick else max s.tick master
  onlyIf (decide (t ≠ s.tick)) (emit (.tick t))
  emit (.sync true true t ((master : Int) - (t : Int)))
  onTick (t + lockTicks) .tickLockLoss
  openElection

/-- IEEE_1588_SYNC (R102). -/
def execIeee1588Sync (master : Nat) (s : State) : Host.Outcome State Fault Refusal := .next (run (takeSync master) s)

/-- TICK_LOCK_LOSS (R101, R102): no valid sync has come in time; the loss is reported, and MULTI gangs that have not committed
abort. -/
def execTickLockLoss (s : State) : Host.Outcome State Fault Refusal :=
  .next (run (onlyIf (s.locked && decide (s.lastSync + lockTicks ≤ s.tick)) (do
    emit (.sync s.everLocked false s.lastSync s.slew)
    moduleReport 5 0 0 0 0
    lostLock)) s)

/-! ### Firmware images (R423-R425) -/

/-- The header of an image, the bytes that its signature covers. -/
def imageHeader (i : FwImage) : List Byte :=
  leBytes i.magic 4 ++ leBytes i.version 4 ++ leBytes i.length 4 ++ leBytes i.reserved 4 ++ i.digest

/-- The bytes of a body that an image may have (R423). -/
def bodyFits (n : Nat) : Bool := decide (2 ^ 20 ≤ n) && decide (n ≤ 2 ^ 23)

/-- Whether a firmware core accepts an image (R423); the digest and the signature of the image that the part is shipped with hold
(log entry 12). -/
def imageGood (s : State) (i : FwImage) : Bool :=
  decide (i.magic = 0x47504846) && bodyFits i.length && decide (s.flash.floor ≤ i.version) &&
    (decide (i = FwImage.shipped) ||
      (decide (i.body.length = i.length) && decide (i.digest = shake256 i.body 64) &&
        xmssVerifies Config.vendorRoot Config.vendorSeed (imageHeader i) i.sig))

/-- A die asks the next source for an image: the nodes of the recovery list in order, by the port that leads to them, then the host
through the side-band. A node to which no port leads is passed over (R323, log entry 131); at most `fuel` sources. -/
def askSource (d : Nat) : Nat → Act Unit
  | 0 => pure ()
  | fuel + 1 => do
    let s ← look id
    let n := (dieAt s d).asked
    modDie d fun x => { x with asked := n + 1 }
    match s.flash.recovery[n]? with
    | none => emit (.out (.imageRequest d))
    | some m =>
      if (routePorts s m).isEmpty then askSource d fuel
      else sendNode (unitRouter d) m (.imageRequest (nodeId s) d)
def askImage (d : Nat) : Act Unit := askSource d 9

/-- A die runs an image: its launch unit starts, and it takes part in the election. -/
def startDie (d version : Nat) : Act Unit := do
  modDie d fun x => { x with image := true, running := true }
  emit (.mreg 0x0930 (word version))
  openElection

/-- A reply of a source (R424, R428): the first image accepted is written to flash and reported; after the last source the die
is fenced. -/
def takeImage (d : Nat) (i : FwImage) : Act Unit := do
  let s ← look id
  let x := dieAt s d
  onlyIf (!x.image && decide (0 < x.asked) && !dieFenced s d)
    (if imageGood s i then do
      emit (.flash { s.flash with image := i })
      moduleReport 9 0 0 0 i.version
      startDie d i.version
    else if s.flash.recovery.length < x.asked then later 0 7 fencePlace (.dieFence d)
    else askImage d)

/-- RECOVERY_IMAGE_REPLY (R424). -/
def execRecoveryImageReply (die : Nat) (img : FwImage) (s : State) : Host.Outcome State Fault Refusal :=
  .next (run (takeImage die img) s)

/-- The image staged in GDDR7 (R417, R423). -/
def stagedImage (s : State) : FwImage :=
  let pa := (mreg s 0x0940).toNat / 4096 % 2 ^ 40 * 4096
  let n := natAt s (pa + 8) 4
  { magic := natAt s pa 4, version := natAt s (pa + 4) 4, length := n, reserved := natAt s (pa + 12) 4,
    digest := bytesAt s (pa + 0x10) 64, sig := bytesAt s (pa + 0x50) 2500,
    body := if n ≤ 2 ^ 23 then bytesAt s (pa + 0x1000) n else [] }

/-- An update (R424): the leader checks the staged image, writes it to flash and raises the rollback floor. -/
def takeStaged : Act Unit := do
  let s ← look id
  let i := stagedImage s
  onlyIf ((leaderDie s).isSome && imageGood s i) (emit (.flash { s.flash with image := i, floor := i.version }))

/-- FWSTAGE_GO (R424). -/
def execFwstageGo (s : State) : Host.Outcome State Fault Refusal := .next (run takeStaged s)

/-! ### Start-up (R420, R422) -/

/-- What runs by itself in every core from start-up on: its router's idle count, its slots. -/
def startCore (c : Nat) : Act Unit := do
  let s ← look id
  let n := (creg s c 0x0C90).toNat % 2 ^ 16
  onlyIf (decide (n ≠ 0)) (later (n - 1) 7 downPlace (.routerPowerDown c))
  pokeSlots c

/-- A port begins to train (R322, R420): the other end's restart flit brings it up. -/
def trainPort (p : Nat) : Act Unit := do
  let s ← look id
  modPort p fun x => { x with up := false, training := true, trainingSince := some s.tick, timedOut := false }
  putControl p 6 ((portAt s p).rxSeq :: (portAt s p).window)
  onTick (s.tick + 100_000_000) (.retrainTimeout p)

/-- The steps of start-up (R420): images, memory (as reset leaves it), ports; the first claims of the election follow when the ports have
trained and the tick is locked (`openElection`), and with the election the array rows are calibrated and MODE is written
(`endStartup`). -/
def startUp : Act Unit := do
  let s ← look id
  emit (.startup false)
  each (List.range 4) fun d =>
    if imageGood s s.flash.image then startDie d s.flash.image.version else askImage d
  each (List.range 16) trainPort
  each (List.range 2304) startCore
  each (List.range 4) fun d => do
    onTick s.tick (.placementPass d)
    onTick (s.tick + watchTicks s) (.watchdogPeriod d)
  later 1 5 29001 (.sweepRequest sweepRoot 1 false)

/-- POWER_ON_RESET (R6, R420): everything but what R423-R426 keep takes its reset value; then the steps of start-up run. -/
def execPowerOnReset (s : State) : Host.Outcome State Fault Refusal :=
  .next (run (if s.startup then startUp else emit .powerOn) s)

/-- POWER_LOSS (R424): the module stops, and what follows is its next power-on reset; a loss during a flash write leaves an
image that fails the check. -/
def execPowerLoss (duringFlashWrite : Bool) (s : State) : Host.Outcome State Fault Refusal :=
  .next (run (do
    onlyIf duringFlashWrite (emit (.flash { s.flash with image := { s.flash.image with magic := 0 } }))
    emit .powerOn) s)

end Sys2Proof.Machine
end

