-- ==== Sys2Proof/Machine/Link.lean ====
section
/-! DEFINITION. Phinas Link: flits, credits, audits, retraining, and what arrives from other nodes (R218, R317-R323). -/

namespace Sys2Proof.Machine

open Sys2Proof

/-- A counter of a port (R323). -/
def countPort (p off : Nat) : Act Unit := countMreg (0x2_0000 + 0x100 * p + off) 1

/-! ### What other nodes send (R218, R219, R236, R306, R323) -/

/-- The router of the unit or core of this module that an answer of another node is for; requests come as such, and FILL, WAKE, marks
and cell requests stay within one module (R19, R21, R366). -/
def answerCore : Msg → Option Nat
  | .deliver (.engine e _) => some (engineRouter e)
  | .deliver d => some (deliveryId d).core
  | .refused r => some r.id.core
  | .storeAck c _ _ => some c
  | _ => none

/-- The core and slot that have issued what an answer is for (R314). -/
def issuerOf (s : State) : Msg → Nat × Option Nat
  | .deliver (.engine (.siphon n cmd) _) =>
    (((siphonAt s n).queue.find? fun c => decide (c.id = cmd)).elim (2304, none) fun c => (c.core, some c.slot))
  | .deliver (.engine (.matrix core cmd) _) =>
    (((coreAt s core).mu.queue.find? fun c => decide (c.id = cmd)).elim (2304, none) fun c => (c.core, some c.slot))
  | .deliver (.engine (.loader c k _) _) => (c, some k)
  | .deliver (.engine _ _) => (2304, none)
  | .deliver d => ((deliveryId d).core, some (deliveryId d).slot)
  | .refused r => (r.id.core, some r.id.slot)
  | .storeAck c k _ => (c, some k)
  | _ => (2304, none)

/-- The corner router that a port joins the mesh at (R14). -/
def cornerRouter (p : Nat) : Nat := (destRouter (.port p 0)).1

/-- A packet that a port has received enters the local input of its corner router (R14, R306); the answer is its number. -/
def injectPacket (p : Nat) (dst : Dest) (slack : Nat) (exh : Bool) (core : Nat) (slot : Option Nat) (m : Msg) : Act Nat := do
  let id ← freshId
  let k : Packet := ⟨id, dst, slack, exh, core, slot, m, 6, 0, none⟩
  match dst with
  | .well w => askWell w (cornerRouter p) k
  | _ => enterRouter (cornerRouter p) 6 k
  pure id

/-- The destination of an access of another node: a core or a wellhead, where its owner can be reached and lies in no system area
(R219, R428). -/
def foreignDest (s : State) (pa : Nat) : Option Dest :=
  match localOwner pa with
  | .gddr d w => if reachable s (.gddr d w) then some (.well (wellOf d w)) else none
  | .cistern c o => if reachable s (.cistern c o) && decide (o < 0x12_7000) then some (.core c) else none
  | _ => none

/-- An answer of this port's node interface to another node. -/
def answerAt (p : Nat) (a : Asker) (core slot slack : Nat) (exh : Bool) (m : Msg) : Act Unit :=
  sendBack (cornerRouter p) 6 a core slot slack exh m

/-- The 8 bytes that a read of the control window returns; an RC register is cleared (R5). -/
def readWindow (off : Nat) : Act Word := do
  let s ← look id
  let p := sysPlace off
  match (if off % 8 = 0 then sysReg p false else none) with
  | none => pure 0
  | some r => do
    let v := readPlace s 0 p
    onlyIf (decide (r.kind = .rc) && decide (v ≠ 0)) (reducePlace v p)
    pure v

/-- The router of the unit that has a register of the control window: a queue's is with the queue's owner, another one with the units
of the first die that is not fenced (log entry 63). -/
def windowRouter (s : State) (off : Nat) : Nat :=
  match doorbellOf off with
  | some q => unitRouter (queueRec s q).owner
  | none => unitRouter (moduleDie s)

/-- A message that a port has received for one of the module's units enters the mesh for the router of the unit (R14, R306). -/
def injectUnit (p r slack : Nat) (exh : Bool) (m : PortMsg) : Act (List Nat) := do
  let id ← injectPacket p (.core r) slack exh 2304 none (.fromPort p m)
  pure [id]

/-- The first byte of a request that another node may not reach. -/
def deniedByte (s : State) (r : Req) : Option (Nat × Nat) := r.bytes.find? fun b => (foreignDest s b.2).isNone

/-- A request of another node goes to the owner of its bytes, one for the control window to the unit that has the register; what
cannot be reached, or may not be, is answered with reason 3 (R219, R428). -/
def takeRequest (p : Nat) (r : Req) : Act (List Nat) := do
  let s ← look id
  let pa := (r.bytes.headD (0, 0)).2
  let deny := fun (off : Nat) => do
    answerAt p r.asker r.id.core r.id.slot r.slack r.exh (.deliver (match r.eng with
      | some e => .engine e (engFailed r)
      | none => .noMemory r.id off))
    pure ([] : List Nat)
  match deniedByte s r, foreignDest s pa with
  | none, some d => do
    let id ← injectPacket p d r.slack r.exh 2304 none (.access r)
    pure [id]
  | some b, _ => (match localOwner pa, r.op with
    | .control off, .read => injectUnit p (windowRouter s off) r.slack r.exh (.read r)
    | _, _ => deny b.1)
  | none, none => deny 0

/-- A request with its addresses as this module serves them. -/
def localReq (s : State) (r : Req) : Req := { r with bytes := r.bytes.map fun b => (b.1, localPa s b.2) }

/-- A store word of another node goes to its owner, one of 8 bytes for the control window to the unit that has the register. What cannot
be reached, or may not be, is acknowledged and writes nothing. -/
def takeStore (p : Nat) (w : StoreWord) : Act (List Nat) := do
  let s ← look id
  match foreignDest s (w.word * 8), localOwner (w.word * 8) with
  | some d, _ => do
    let id ← injectPacket p d w.slack w.exh 2304 none (.store w)
    pure [id]
  | none, .control off =>
    if w.bytes.length = 8 then injectUnit p (windowRouter s off) w.slack w.exh (.write w)
    else do
      answerAt p w.asker w.core w.slot w.slack w.exh (ackOf w)
      pure []
  | none, _ => do
    answerAt p w.asker w.core w.slot w.slack w.exh (ackOf w)
    pure []

/-- The aligned words of bytes written from an address on. -/
def writtenWords (pa : Nat) (bytes : List Byte) : List (Nat × List (Nat × Byte)) :=
  (List.range ((pa % 8 + bytes.length + 7) / 8)).map fun i =>
    let w := pa / 8 + i
    (w, (List.range 8).filterMap fun b =>
      if pa ≤ w * 8 + b ∧ w * 8 + b < pa + bytes.length then some (b, bytes.getD (w * 8 + b - pa) 0) else none)

/-- Several packets of one transaction, in order. -/
def eachPacket {α : Type} : List α → (α → Act (List Nat)) → Act (List Nat)
  | [], _ => pure []
  | x :: xs, f => do
    let a ← f x
    let b ← eachPacket xs f
    pure (a ++ b)

/-- A write of a node to this module's memory or control window: a store word for each aligned word. -/
def takeWrite (p node addr : Nat) (bytes : List Byte) (slack : Nat) (exh : Bool) : Act (List Nat) :=
  eachPacket (writtenWords (addr % 2 ^ 39) bytes) fun x =>
    takeStore p ⟨0xFFF, 0, 0, 0, x.1, x.2, slack, exh, none, .host node 0, none⟩

/-- A read of a node: a request for each unit that serves some of its bytes, and one for those that it may not reach (R219). -/
def takeRead (p node addr n tag slack : Nat) (exh : Bool) : Act (List Nat) := do
  let s ← look id
  let req := fun (g : List (Nat × Nat)) => takeRequest p ⟨⟨0xFFF, 0, 0, 0⟩, .read, g, slack, exh, .none, .host node tag, none⟩
  eachPacket (groupBytes s ((List.range n).map fun i => (i, addr % 2 ^ 39 + i))) fun g => do
    let open_ := g.filter fun b => (foreignDest s b.2).isSome
    let barred := g.filter fun b => (foreignDest s b.2).isNone
    let a ← if open_.isEmpty then pure [] else req open_
    let b ← if barred.isEmpty then pure [] else req barred
    pure (a ++ b)

/-- The router of the unit that a message of another node's units is for: the root of the tree, or the launch and firmware units of
the leader's die (R97). -/
def nodeRouter (s : State) (m : NodeMsg) : Nat :=
  match m with
  | .batch _ _ _ | .announce _ _ | .sweep _ _ | .swept _ _ _ => rootRouter
  | _ => leaderUnit s

/-- 1 added to a signal word of this module by another one (R101, R105, R416): a request to the owner of the word, from the corner
router of the port. -/
def takeSignal (p addr : Nat) : Act (List Nat) := do
  let s ← look id
  match foreignDest s (addr % 2 ^ 39) with
  | some d => do
    let id ← injectPacket p d 32 false 2304 none (.access (addReq (p / 4) 0 (addr % 2 ^ 39)))
    pure [id]
  | none => pure []

/-- A message of another node's units (R14, R306): a time message is taken at the port, where it is stamped (R102), not one that was
sent again after a retraining (R322); an add goes to its word; the others enter the mesh for the unit that they are for. -/
def takeNode (p : Nat) (void : Bool) (slack : Nat) (exh : Bool) (m : NodeMsg) : Act (List Nat) := do
  let s ← look id
  match m with
  | .report _ _ | .imageRequest _ _ => pure []
  | .sync master => do
    onlyIf (!void) (takeSync master)
    pure []
  | .signal addr => takeSignal p addr
  | m => injectUnit p (nodeRouter s m) slack exh (.node m)

/-- What a data flit has brought: the packets that enter the mesh for it. -/
def takeFabric (p : Nat) (void : Bool) (m : FabricMsg) : Act (List Nat) := do
  let s ← look id
  match m with
  | .write node addr bytes slack exh => takeWrite p node addr bytes slack exh
  | .read node addr n tag slack exh => takeRead p node addr n tag slack exh
  | .access node r => takeRequest p { localReq s r with asker := .peer node }
  | .store node w => takeStore p { w with word := localPa s (w.word * 8) / 8, asker := .peer node, tag := none }
  | .msg slack exh (.node n) => takeNode p void slack exh n
  | .msg slack exh m =>
    match answerCore m with
    | some c => do
      let id ← injectPacket p (.core c) slack exh (issuerOf s m).1 (issuerOf s m).2 m
      pure [id]
    | none => pure []

/-! ### What reaches a unit from a port (R14, R82, R83, R90, R93, R101) -/

/-- A write of 8 bytes to the control window by a node; a doorbell takes its place among the updates of its queue (R93). -/
def writeWindow (p node off : Nat) (v : Word) : Act Unit := do
  let s ← look id
  match doorbellOf off with
  | some q => later 1 4 (updatePlace s (p / 4) q) (.queueDoorbell q node (v.toNat % 2 ^ 32))
  | none => later 1 4 (updatePlace s (p / 4) 0) (.registerWrite off v (.node node))

/-- A message of the numbered ones of a node in its turn (R81, R83): a batch joins those at the root, as one of the sweep that the
node still runs for this module; a report of a sweep ends the wait for the node. -/
def serveNumbered (m : NodeMsg) : Act Unit := do
  let s ← look id
  match m with
  | .batch node _ ds =>
    later 1 5 29000 (.batchApply .module (unitsBelow .module) ⟨ds, none, false⟩ (if s.root.pending.contains node then 0 else s.cycle))
  | .swept node _ n =>
    modRoot fun r => if r.sweep = n then { r with pending := r.pending.filter fun m => decide (m ≠ node) } else r
  | _ => pure ()

/-- The messages of a node that have come and whose turn it is; at most `fuel`. -/
def takeTurns (node : Nat) : Nat → Act Unit
  | 0 => pure ()
  | fuel + 1 => do
    let r ← look (·.root)
    match r.early.find? fun e => decide (e.1 = node) && decide (e.2.1 = mget 0 r.heard node) with
    | none => pure ()
    | some e => do
      modRoot fun r => { r with early := r.early.erase e, heard := mset 0 r.heard node (e.2.1 + 1) }
      serveNumbered e.2.2
      takeTurns node fuel

/-- A numbered message of a node: those of one node take effect in the order of their numbers (R81). -/
def takeNumbered (node seq : Nat) (m : NodeMsg) : Act Unit := do
  modRoot fun r => { r with early := r.early ++ [(node, seq, m)] }
  let n ← look fun s => s.root.early.length
  takeTurns node n

/-- A message of another node's units at the unit that it is for. -/
def serveNode (m : NodeMsg) : Act Unit := do
  let s ← look id
  match m with
  | .ready m => later 1 5 multiPlace (.multiReady m)
  | .commit m => later 1 5 multiPlace (.multiCommit m)
  | .abort m => later 1 5 multiPlace (.multiAbort m)
  | .batch node seq _ | .swept node seq _ => takeNumbered node seq m
  | .sweep node n => modRoot fun r => { r with asks := (r.asks.filter fun a => decide (a.1 ≠ node)) ++ [(node, n, s.cycle)] }
  | .announce n f => onlyIf (decide ((sheafAt s n).front.toNat < f.toNat)) (announce n f)
  | .image i => each (List.range 4) fun d => takeImage d i
  | _ => pure ()

/-- A message from a port has come to the router of its unit: an access of the control window is answered from there. -/
def arriveFromPort (r p : Nat) (m : PortMsg) : Act Unit := do
  let s ← look id
  match m with
  | .node m => serveNode m
  | .read q =>
    match localOwner (q.bytes.headD (0, 0)).2 with
    | .control off => do
      let v ← readWindow off
      sendBack r 6 q.asker q.id.core q.id.slot q.slack q.exh
        (.deliver (.bytes q.id (q.bytes.zipWith (fun b x => (b.1, x)) (leBytes v.toNat 8))))
    | _ => pure ()
  | .write w =>
    match localOwner (w.word * 8) with
    | .control off => do
      writeWindow p (askerNode s w.asker) off (word (leNat (w.bytes.map (·.2))))
      sendBack r 6 w.asker w.core w.slot w.slack w.exh (ackOf w)
    | _ => pure ()

/-! ### Retraining (R322) -/

/-- A port stops flits and retrains; its restart flit tells the SEQ that it expects and its free entries. -/
def retrain (p : Nat) : Act Unit := do
  let x ← look (portAt · p)
  onlyIf (!x.training) (trainPort p)

/-- PORT_RETRAIN (R322). -/
def execPortRetrain (port : Nat) (s : State) : Host.Outcome State Fault Refusal := .next (run (retrain port) s)

/-- ALIGNMENT_LOSS (R322): a lane has lost its markers for 1,024 periods. -/
def execAlignmentLoss (port : Nat) (s : State) : Host.Outcome State Fault Refusal := .next (run (retrain port) s)

/-- Whether a sequence number comes at or after another, modulo 2^16. -/
def seqFrom (a b : Nat) : Bool := decide ((b + 2 ^ 16 - a) % 2 ^ 16 < 2 ^ 15)

/-- The data flits of the replay buffer from a SEQ on are sent again (R319); after a retraining their timestamps are void (R322). -/
def resendFrom (p seq : Nat) (void : Bool) : Act Unit := do
  let l ← look fun s => (portAt s p).replay
  each (l.filter fun e => seqFrom seq e.1) fun e => do
    let x ← look (portAt · p)
    putFlit p (flitOf x 0 e.2.1 e.1 e.2.2 [] void)

/-- The steps that follow the restart flit of the other end (R322): the port resends from the SEQ that the other end expects, takes
its free entries as units less what it resends, with the FREED of the flit's header (R320), and comes up; an audit that came due while
it was down leaves first. -/
def comeUp (port : Nat) (f : Flit) (seq : Nat) (free : List Nat) : Act Unit := do
  let x ← look (portAt · port)
  let again := x.replay.filter fun e => seqFrom seq e.1
  modPort port fun x =>
    { x with
      replay := again, up := true, training := false, trainingSince := none, crcRun := 0, seenUp := true, acked := f.ackseq,
      fseen := (List.range 4).map fun v => f.freed.getD v 0,
      avail := (List.range 4).map fun v => free.getD v 0 - (again.filter fun e => decide (e.2.1 = v)).length }
  onlyIf x.seenUp (countPort port 0x28)
  insertAudit port
  resendFrom port seq true
  pumpAll port
  openElection

/-- RESTART_FLIT (R322): a port that trains goes on with the SEQ and the free entries that the flit tells. A port that has passed its
limit stays down; a flit that fails its check is counted and dropped. -/
def execRestartFlit (port : Nat) (f : Flit) (told : Nat × List Nat) (s : State) : Host.Outcome State Fault Refusal :=
  .next (run (
    let x := portAt s port
    onlyIf (x.training && !x.timedOut)
      (if flitGood f then comeUp port f told.1 told.2 else countPort port 0x20)) s)

/-- RETRAIN_TIMEOUT (R322): a port that has not come up within 100,000,000 ticks stays down, and its packets leave by another
port, or are answered at their issuer. -/
def execRetrainTimeout (port : Nat) (s : State) : Host.Outcome State Fault Refusal :=
  .next (run (
    let x := portAt s port
    onlyIf (x.training && !x.timedOut && x.trainingSince.elim false fun t => decide (t + 100_000_000 ≤ s.tick)) (do
      modPort port fun x => { x with timedOut := true, queue := [] }
      each x.queue (arriveAtPort port)
      openElection)) s)

/-! ### Arriving flits (R318-R321) -/

/-- A flit that fails its check is dropped and counted, and a replay flit names the SEQ expected; 64 in a row retrain the
port. -/
def badFlit (p : Nat) : Act Unit := do
  let x ← look (portAt · p)
  countPort p 0x20
  modPort p fun x => { x with crcRun := x.crcRun + 1 }
  putControl p 5 [x.rxSeq]
  onlyIf (decide (64 ≤ x.crcRun + 1)) (retrain p)

/-- What the header of a good flit tells the sender at this end: flits acknowledged and entries freed (R318-R320). -/
def takeHeader (p : Nat) (f : Flit) : Act Unit := do
  modPort p fun x =>
    { x with
      crcRun := 0, acked := f.ackseq, replay := x.replay.filter fun e => !seqFrom e.1 f.ackseq,
      avail := (List.range 4).map fun v => x.avail.getD v 0 + (f.freed.getD v 0 + 2 ^ 16 - x.fseen.getD v 0) % 2 ^ 16,
      fseen := (List.range 4).map fun v => f.freed.getD v 0 }
  pumpAll p

/-- A flit other than a restart flit arrives at a port that is up (R318): one that fails its check is dropped; of any other the header
is taken first. -/
def goodFlit (p : Nat) (f : Flit) (a : Act Unit) : Act Unit := do
  let x ← look (portAt · p)
  onlyIf (x.up && !x.training)
    (if flitGood f then do
      takeHeader p f
      a
    else badFlit p)

/-- A data flit in sequence takes an entry of its channel, or a spare, which LNKSPARE counts, and holds it until the last of its
packets has gone on from the corner router (R320). -/
def takeEntry (p : Nat) (f : Flit) : Act Unit := do
  let x ← look (portAt · p)
  let spare := decide (x.window.getD f.vc 0 = 0)
  onlyIf spare (countPort p 0x18)
  modPort p fun y =>
    { y with
      rxSeq := (y.rxSeq + 1) % 2 ^ 16,
      window := if spare then y.window else onNth f.vc (· - 1) y.window,
      spares := if spare then onNth f.vc (· - 1) y.spares else y.spares }
  let ids ← eachPacket f.body (takeFabric p f.void)
  modPort p fun y => { y with holding := y.holding ++ [(f.vc, ids)] }
  freeWindow p

/-- DATA_FLIT (R319, R320): a flit in sequence that finds an entry or a spare of its channel is taken and acknowledged; one that finds
neither is dropped and retrains the port; one out of sequence is dropped. -/
def execDataFlit (port : Nat) (f : Flit) (s : State) : Host.Outcome State Fault Refusal :=
  .next (run (
    let x := portAt s port
    onlyIf (x.up && !x.training)
      (if !flitGood f then badFlit port
      else if f.seq ≠ x.rxSeq then modPort port fun x => { x with crcRun := 0 }
      else if x.window.getD f.vc 0 = 0 ∧ x.spares.getD f.vc 0 = 0 then retrain port
      else do
        takeHeader port f
        takeEntry port f
        tellPort port)) s)

/-- IDLE_FLIT (R318): acknowledgements and freed entries. -/
def execIdleFlit (port : Nat) (f : Flit) (s : State) : Host.Outcome State Fault Refusal :=
  .next (run (goodFlit port f (pure ())) s)

/-- REPLAY_FLIT (R319): the other end asks for the flits from a SEQ on. -/
def execReplayFlit (port : Nat) (f : Flit) (s : State) : Host.Outcome State Fault Refusal :=
  .next (run (goodFlit port f (do
    countPort port 0x08
    resendFrom port (f.data.getD 0 0) false)) s)

/-! ### Audits (R321) -/

/-- AUDIT_INSERTION (R321): after 4,096 flits an audit flit carries SENT, FSEEN and AVAIL as they stand. -/
def execAuditInsertion (port : Nat) (s : State) : Host.Outcome State Fault Refusal := .next (run (insertAudit port) s)

/-- The units that a sender should have (R321). -/
def expectedUnits (sent fseen : Nat) : Nat := 64 - (sent + 2 ^ 16 - fseen % 2 ^ 16) % 2 ^ 16

/-- AUDIT_FLIT (R321): the receiver compares, and sends a restitution or a clamp for each channel that differs. -/
def execAuditFlit (port : Nat) (f : Flit) (used : List (Nat × Nat)) (avail : List Nat) (s : State) :
    Host.Outcome State Fault Refusal :=
  .next (run (goodFlit port f (each (List.range 4) fun v =>
    let e := expectedUnits (used.getD v (0, 0)).1 (used.getD v (0, 0)).2
    let a := avail.getD v 0
    if a < e then putControl port 3 [v, e - a] else onlyIf (decide (e < a)) (putControl port 4 [v, e]))) s)

/-- RESTITUTION_FLIT (R321): the units granted are added. -/
def execRestitutionFlit (port : Nat) (f : Flit) (grant : Nat × Nat) (s : State) : Host.Outcome State Fault Refusal :=
  .next (run (goodFlit port f (do
    countPort port 0x10
    modPort port fun x => { x with avail := onNth grant.1 (· + grant.2) x.avail }
    pumpAll port)) s)

/-- CLAMP_FLIT (R321): the units are those expected less what has been used since the audit. -/
def execClampFlit (port : Nat) (f : Flit) (expected : Nat × Nat) (s : State) : Host.Outcome State Fault Refusal :=
  .next (run (goodFlit port f (do
    countPort port 0x10
    modPort port fun x =>
      { x with avail := onNth expected.1 (fun _ => expected.2 - x.usedSinceAudit.getD expected.1 0) x.avail })) s)

end Sys2Proof.Machine
end

