-- ==== Sys2Proof/Machine/Mesh.lean ====
section
/-! DEFINITION. The routers: arbitration, slack, scope-miss on the way, power-down (R306, R310-R316, R338). -/

namespace Sys2Proof.Machine

open Sys2Proof

/-! ### Candidates (R311) -/

/-- The better of two packets of one input: the less slack, the earlier arrival among equals. -/
def betterPacket (a b : Packet) : Packet := if b.slack < a.slack then b else a

/-- The packets of an input that are there in this cycle and bound for an output. -/
def presentable (s : State) (r out input : Nat) : List Packet :=
  ((routerAt s r).packets.filter fun e =>
    decide (e.1 = input) && decide (e.2.out = out) && decide (e.2.entered ≤ s.cycle)).map (·.2)

/-- The candidate of an input for an output. -/
def candidateOf (s : State) (r out input : Nat) : Option Packet :=
  match presentable s r out input with
  | [] => none
  | p :: ps => some (ps.foldl betterPacket p)

/-- The candidates for an output, with their inputs, in the order of R305. -/
def candidates (s : State) (r out : Nat) : List (Nat × Packet) :=
  (List.range 7).filterMap fun i => (candidateOf s r out i).map fun p => (i, p)

/-- A packet of a router changes. -/
def modPacket (r id : Nat) (f : Packet → Packet) : Act Unit :=
  let g := fun (e : Nat × Packet) => if e.2.id = id then (e.1, f e.2) else e
  modRouter r fun x => { x with packets := x.packets.map g, offered := x.offered.map g }

/-- A candidate with SLACK 0 is stamped when it is first presented; one that was issued with SLACK 0 has its event then
(R311, R314). -/
def stampOverdue (r : Nat) (p : Packet) : Act Unit := do
  let now ← look (·.cycle)
  onlyIf (decide (p.slack = 0) && p.overdue.isNone) (do
    onlyIf (!p.exh) (slackEvent p)
    modPacket r p.id fun p => { p with overdue := some now, exh := true })

/-- The overdue candidate with the earliest stamp, the lowest input of equals. -/
def earliestOverdue : List (Nat × Packet) → Option (Nat × Packet)
  | [] => none
  | x :: xs =>
    match x.2.overdue, earliestOverdue xs with
    | none, y => y
    | some _, none => some x
    | some a, some y => if a ≤ y.2.overdue.getD 0 then some x else some y

/-- The candidate with the least SLACK, the first of equals in a list. -/
def leastSlack : List (Nat × Packet) → Option (Nat × Packet)
  | [] => none
  | x :: xs =>
    match leastSlack xs with
    | none => some x
    | some y => if x.2.slack ≤ y.2.slack then some x else some y

/-- Candidates in the order of their inputs from a rotation pointer on. -/
def fromPointer (p : Nat) (l : List (Nat × Packet)) : List (Nat × Packet) :=
  l.filter (fun x => decide (p ≤ x.1)) ++ l.filter fun x => decide (x.1 < p)

/-- The winner of an output (R311). -/
def winner (s : State) (r out : Nat) : Option (Nat × Packet) :=
  let l := candidates s r out
  match earliestOverdue l with
  | some x => some x
  | none => leastSlack (fromPointer (mget 0 (routerAt s r).pointers out) l)

/-! ### A granted packet (R306, R338) -/

/-- Whether a packet leaves the routers by this output. -/
def isLast (r out : Nat) (d : Dest) : Bool := decide (destRouter d = (r, out))

/-- Whether a store word is missed at an output (R338): the step beyond it lies outside the release scope of its tag. -/
def isMissed (r out : Nat) (d : Dest) (w : StoreWord) : Bool :=
  let last := isLast r out d
  let toCore := match d with
    | .core _ => true
    | _ => false
  let toPort := match d with
    | .port _ _ => true
    | _ => false
  match w.tag with
  | some .region => if last then !toCore else decide (regionOf (nextRouter r out) ≠ regionOf w.core)
  | some .die => if last then toPort else decide (dieOf (nextRouter r out) ≠ dieOf w.core)
  | some .mod => last && toPort
  | _ => false

/-- A missed word goes back to its core without its tag, with the slack that remains; a permit that it held returns. -/
def missWord (r : Nat) (p : Packet) (w : StoreWord) : Act Unit := do
  sendMsg r (.core w.core) p.slack p.exh p.core p.slot
    (.missed { w with tag := none, slack := p.slack, exh := p.exh })
  match p.dst with
  | .well x => permitBack x p.msg
  | _ => pure ()

/-- Whether a packet's next hop enters a fenced die that carries nothing across and is not the die it is bound for (R428). -/
def entersDead (s : State) (r out : Nat) (d : Dest) : Bool :=
  let n := dieOf (nextRouter r out)
  !isLast r out d && decide (n ≠ dieOf r) && decide (n ≠ dieOf (destRouter d).1) && dieFenced s n && Config.meshDead n

/-- A packet passes an output: to its destination or into the next router; one that would cross a fenced die in vain is answered
(R428). -/
def passOutput (r out : Nat) (p : Packet) : Act Unit := do
  let missed := match p.msg with
    | .store w => if isMissed r out p.dst w then some w else none
    | _ => none
  match missed with
  | some w => missWord r p w
  | none =>
    if isLast r out p.dst then
      match p.dst with
      | .core c => (match msgWith p.msg p.slack p.exh with
        | .fromPort x m => arriveFromPort c x m
        | m => arriveAtCore c m)
      | .well w => arriveAtWell w (msgWith p.msg p.slack p.exh)
      | .port x _ => arriveAtPort x p
    else do
      let s ← look id
      if entersDead s r out p.dst then unreachableAt r p.msg
      else enterRouter (nextRouter r out) (facingInput out) p

/-- An empty router begins to count its idle cycles (R316). -/
def startIdle (r : Nat) : Act Unit := do
  let s ← look id
  onlyIf ((routerAt s r).packets.isEmpty) (do
    modRouter r fun x => { x with idleSince := s.cycle + 1 }
    let n := (creg s r 0x0C90).toNat % 2 ^ 16
    onlyIf (decide (n ≠ 0)) (later n 7 downPlace (.routerPowerDown r)))

/-- Whether the packet that an output would grant waits because the next router is down (R316). -/
def waitsBelow (s : State) (r out : Nat) (d : Dest) : Bool := !isLast r out d && (routerAt s (nextRouter r out)).down

/-- A packet of an input is granted by an output (R311): it passes; one that came through the local input leaves the receive entry of
its port (R320). -/
def grantPacket (router out input : Nat) (p : Packet) : Act Unit := do
  let now ← look (·.cycle)
  modRouter router fun x =>
    { x with
      packets := x.packets.filter fun e => decide (e.2.id ≠ p.id),
      pointers := mset 0 x.pointers out ((input + 1) % 7),
      free := mset 0 x.free out (now + 1) }
  passOutput router out p
  onlyIf (decide (input = 6)) (leaveEntry router p.id)
  startIdle router
  let u ← look id
  onlyIf ((routerAt u router).packets.any fun e => decide (e.2.out = out))
    (later 1 5 (4096 + router * 7 + out) (.routerGrant router out))

/-- ROUTER_GRANT (R311): an output grants one candidate in a cycle; while packets are bound for it, it grants again in the
next. A router behind it that is down is woken, and the packets are presented where they are until it is up (R316). -/
def execRouterGrant (router out : Nat) (s : State) : Host.Outcome State Fault Refusal :=
  .next (run (onlyIf (!(routerAt s router).down && decide (mget 0 (routerAt s router).free out ≤ s.cycle)) (do
    each (candidates s router out) fun x => stampOverdue router x.2
    let t ← look id
    match winner t router out with
    | none => pure ()
    | some (input, p) =>
      if waitsBelow t router out p.dst then do
        wakeRouter (nextRouter router out)
        againSoon 5 (4096 + router * 7 + out) (.routerGrant router out)
      else grantPacket router out input p)) s)

/-- Eight more cycles of a packet in a router input, or in front of one (R310, R314, R316); the count of a packet that has gone from
the front into the input since it began is over. -/
def slackInRouter (r pkt : Nat) : Act Unit := do
  let now ← look (·.cycle)
  let x ← look (routerAt · r)
  match (x.packets ++ x.offered).find? fun e => decide (e.2.id = pkt) with
  | none => pure ()
  | some (input, p) =>
    onlyIf (decide (p.slack ≠ 0) && decide (p.entered ≤ now) && decide ((now + 1 - p.entered) % 8 = 0)) (do
      onlyIf (decide (p.slack = 1) && !p.exh) (slackEvent p)
      modPacket r pkt fun p => { p with slack := p.slack - 1, exh := p.exh || decide (p.slack = 1) }
      later 8 6 (r * 8 + input) (.slackDecrement r pkt))

/-- Eight more cycles of a fill that waits at a full register (R166, R310, R314). -/
def slackOfFill (c n : Nat) : Act Unit := do
  let x ← look (coreAt · c)
  match x.fills.find? fun e => decide (e.1 = n) with
  | none => pure ()
  | some (_, m) =>
    onlyIf (decide (m.slack ≠ 0)) (do
      onlyIf (decide (m.slack = 1) && !m.exh) (slackEventAt m.src (some m.srcSlot))
      modCore c fun x => { x with fills := x.fills.map fun e =>
        if e.1 = n then (n, { e.2 with slack := e.2.slack - 1, exh := e.2.exh || decide (e.2.slack = 1) }) else e }
      later 8 6 (23000 + c) (.slackDecrement (fillBuffer c) n))

/-- Eight more cycles of a packet in the queue of a fabric port (R310, R314). -/
def slackAtPort (p pkt : Nat) : Act Unit := do
  let x ← look (portAt · p)
  match x.queue.find? fun k => decide (k.id = pkt) with
  | none => pure ()
  | some k =>
    onlyIf (decide (k.slack ≠ 0)) (do
      onlyIf (decide (k.slack = 1) && !k.exh) (slackEvent k)
      modPort p fun x => { x with queue := x.queue.map fun k =>
        if k.id = pkt then { k with slack := k.slack - 1, exh := k.exh || decide (k.slack = 1) } else k }
      later 8 6 (26000 + p) (.slackDecrement (portBuffer p) pkt))

/-- Eight more cycles of a packet that waits for a permit (R228, R310, R314). -/
def slackAtWell (w pkt : Nat) : Act Unit := do
  let x ← look (wellAt · w)
  match x.waiting.find? fun e => decide (e.packet.id = pkt) with
  | none => pure ()
  | some e =>
    onlyIf (decide (e.packet.slack ≠ 0)) (do
      onlyIf (decide (e.packet.slack = 1) && !e.packet.exh) (slackEvent e.packet)
      modWell w fun x => { x with waiting := x.waiting.map fun y =>
        if y.packet.id = pkt then
          { y with packet := { y.packet with slack := y.packet.slack - 1, exh := y.packet.exh || decide (y.packet.slack = 1) } }
        else y }
      later 8 6 (27000 + w) (.slackDecrement (permitBuffer w) pkt))

/-- SLACK_DECREMENT (R310, R314): a packet has spent eight more cycles in one buffer. -/
def execSlackDecrement (buffer pkt : Nat) (s : State) : Host.Outcome State Fault Refusal :=
  .next (run (
    if buffer < 2304 then slackInRouter buffer pkt
    else if buffer < 4608 then slackOfFill (buffer - 2304) pkt
    else if buffer < 4624 then slackAtPort (buffer - 4608) pkt
    else slackAtWell (buffer - 4624) pkt) s)

/-- ROUTER_POWER_DOWN (R316): a router goes down at the end of the cycle in which its idle cycles reach IDLE, unless a packet
is offered to it in that cycle. -/
def execRouterPowerDown (router : Nat) (s : State) : Host.Outcome State Fault Refusal :=
  .next (run (
    let x := routerAt s router
    let n := (creg s router 0x0C90).toNat % 2 ^ 16
    let idle := s.cycle + 1 - x.idleSince
    onlyIf (!x.down && decide (x.packets.length = 0) && decide (n ≠ 0))
      (if n ≤ idle then do
        modRouter router fun x => { x with down := true }
        countReg router 0x0C98 1
      else later (n - idle) 7 downPlace (.routerPowerDown router))) s)

/-- ROUTER_WAKE (R316): a router is up again: the packets in front of its inputs enter; the outputs that lead to it go on by
themselves. -/
def execRouterWake (router : Nat) (s : State) : Host.Outcome State Fault Refusal :=
  .next (run (onlyIf (routerAt s router).down (do
    modRouter router fun x => { x with down := false, waking := false, offered := [] }
    each (routerAt s router).offered fun e => enterRouter router e.1 e.2
    startIdle router)) s)

end Sys2Proof.Machine
end

