-- ==== Sys2Proof/Machine/RegEvents.lean ====
section
/-! DEFINITION. Writes and clearing reads of the registers (R5, R7, R70, R90, R91, R227, R236, R323, R390, R400, R402, R417,
R418, R420). -/

namespace Sys2Proof.Machine

open Sys2Proof

/-! ### Registers with a behaviour of their own -/

/-- A write of DEVMODE (R420): by the leader's firmware or the side-band; MODE = 01 is ignored until CALDONE is set. -/
def writeDevmode (v : Word) (w : Writer) : Act Unit := do
  let old ← look (mreg · 0x0900)
  match w with
  | .firmware | .sideband =>
    onlyIf (!(decide (v.toNat % 4 = 1) && !old.getLsbD 2)) (emit (.mreg 0x0900 (word (old.toNat / 4 * 4 + v.toNat % 4))))
  | _ => pure ()

/-- DEVMODE_WRITE (R420). -/
def execDevmodeWrite (v : Word) (w : Writer) (s : State) : Host.Outcome State Fault Refusal := .next (run (writeDevmode v w) s)

/-- A write of HRPTCFG (R417): a LOGN outside 4 to 12 makes it a no-op. -/
def writeHrptcfg (v : Word) : Act Unit :=
  onlyIf (decide (4 ≤ v.toNat % 16) && decide (v.toNat % 16 ≤ 12)) (emit (.mreg 0x0910 (v &&& 0x1F)))

/-- HRPTCFG_WRITE (R417). -/
def execHrptcfgWrite (v : Word) (s : State) : Host.Outcome State Fault Refusal := .next (run (writeHrptcfg v) s)

/-- A write of NODEID (R323): through the side-band only. -/
def writeNodeid (v : Word) (w : Writer) : Act Unit := onlyIf (decide (w = .sideband)) (emit (.mreg 0x0410 (v &&& 0xFFF)))

/-- NODEID_WRITE (R323). -/
def execNodeidWrite (v : Word) (w : Writer) (s : State) : Host.Outcome State Fault Refusal := .next (run (writeNodeid v w) s)

/-- A write of SFLAGS (R70, R418): the bits written as 1 are cleared. -/
def clearSflags (n : Nat) (v : Word) : Act Unit := modSheaf n fun x => { x with flags := x.flags &&& ~~~v }

/-- SFLAGS_CLEAR (R70). -/
def execSflagsClear (sheaf : Nat) (v : Word) (s : State) : Host.Outcome State Fault Refusal :=
  .next (run (clearSflags sheaf v) s)

/-- A write of STTAIL takes effect when it names at most 256 entries behind STHEAD, modulo 2^32 (R236). -/
def writeSttail (c : Nat) (v : Word) : Act Unit := do
  let head ← look (creg · c 0x0220)
  onlyIf (decide ((head.toNat % 2 ^ 32 + 2 ^ 32 - v.toNat % 2 ^ 32) % 2 ^ 32 ≤ 256)) (setCreg c 0x0240 (v &&& 0xFFFFFFFF))

/-- STTAIL_WRITE (R236). -/
def execSttailWrite (core : Nat) (v : Word) (s : State) : Host.Outcome State Fault Refusal := .next (run (writeSttail core v) s)

/-! ### Invalidation (R227) -/

/-- Whether an invalidation names pages of an address space. -/
def invalidates (xinva xinvc asid page npages : Nat) : Bool :=
  (xinvc.testBit 8 || decide (xinvc % 256 = asid)) &&
    (xinvc.testBit 9 ||
      (let lo := xinva / 2 ^ 16
       let n := max 1 (xinvc / 2 ^ 16 % 2 ^ 16)
       decide (lo < page + npages) && decide (page < lo + n)))

/-- The translations that an invalidation does not name. -/
def keepEntries (a c : Nat) (l : List TlbEntry) : List TlbEntry := l.filter fun e => !invalidates a c e.asid e.page e.npages

/-- XINVC as it stands names what is to be invalidated: no TLB keeps it, and walks of it in flight start again. -/
def dropTranslations : Act Unit := do
  let s ← look id
  let a := (mreg s 0x0800).toNat
  let c := (mreg s 0x0808).toNat
  each (s.cores.filter fun x => x.2.tlb.any fun e => invalidates a c e.asid e.page e.npages) fun x =>
    modCore x.1 fun y => { y with tlb := keepEntries a c y.tlb }
  each (s.tlb2.filter fun x => x.2.any fun e => invalidates a c e.asid e.page e.npages) fun x => emit (.tlb2 x.1 (keepEntries a c x.2))
  let mark := fun (w : Walk) => if invalidates a c w.asid w.page 1 then { w with stale := true } else w
  each (List.range 4) fun d =>
    onlyIf ((dieAt s d).walks.any fun w => invalidates a c w.asid w.page 1)
      (modDie d fun x => { x with walks := x.walks.map mark })

/-- A write of XINVC (R227): it waits while an invalidation runs. -/
def writeXinvc (v : Word) : Act Unit := do
  let s ← look id
  if (mreg s 0x0808).getLsbD 63 then later 1 5 56410 (.registerWrite 0x0808 v .firmware)
  else do
    let extra ← takeDelay
    emit (.mreg 0x0808 (word (v.toNat % 2 ^ 10 + v.toNat / 2 ^ 16 % 2 ^ 16 * 2 ^ 16 + 2 ^ 63)))
    dropTranslations
    each (List.range 4) fun d => modDie d fun x => { x with walks := x.walks.map fun w => { w with before := true } }
    later (1 + extra) 5 56420 .invalidationComplete

/-- XINVC_WRITE (R227). -/
def execXinvcWrite (v : Word) (s : State) : Host.Outcome State Fault Refusal := .next (run (writeXinvc v) s)

/-- INVALIDATION_COMPLETE (R227): BUSY is cleared once no walk that started before the write is in flight. -/
def execInvalidationComplete (s : State) : Host.Outcome State Fault Refusal :=
  .next (run (onlyIf ((mreg s 0x0808).getLsbD 63) (
    if s.dies.any fun d => d.2.walks.any (·.before) then later 1 5 56420 .invalidationComplete
    else do
      dropTranslations
      emit (.mreg 0x0808 (mreg s 0x0808 &&& word (2 ^ 63 - 1))))) s)

/-! ### REGISTER_WRITE (R5, R7, R402) -/

/-- A write of CUTCTL (R400): its fields in the idle state, GO there, RESUME in the stopped state. -/
def writeCutctl (v : Word) : Act Unit := do
  let st ← look fun s => (mreg s 0x0820).toNat / 2 ^ 16
  if st = 0 then (if v.getLsbD 13 then cutGo v else emit (.mreg 0x0820 (v &&& 0x1FFF)))
  else onlyIf (decide (st = 2) && v.getLsbD 14) cutResume

/-- A write to a module register. -/
def writeModule (off : Nat) (v : Word) (w : Writer) : Act Unit := do
  let s ← look id
  match doorbellOf off with
  | some q =>
    later 1 4 (updatePlace s (queueRec s q).owner q) (.queueDoorbell q ((writerNode s w).getD (2 ^ 16)) (v.toNat % 2 ^ 32))
  | none =>
    match off with
    | 0x0400 => do
      emit (.mreg 0x0400 (v &&& 0xFFFFFFFF))
      each (List.range 4) fun d => later 0 5 (29145 + d) (.watchdogPeriod d)
    | 0x0410 => writeNodeid v w
    | 0x0420 => onlyIf (mayWriteAdmq s w) (emit (.mreg 0x0420 (v &&& word (bitsTo 51 12 + 0xF))))
    | 0x0428 => if v.getLsbD 63 then admqEnable v w else admqDisable v w
    | 0x0808 => writeXinvc v
    | 0x0820 => writeCutctl v
    | 0x0900 => writeDevmode v w
    | 0x0910 => writeHrptcfg v
    | 0x0940 => do
      emit (.mreg 0x0940 (v &&& word (bitsTo 51 12)))
      onlyIf (v.getLsbD 0) takeStaged
    | _ => match moduleReg off with
      | some r => onlyIf (decide (r.kind = .rw)) (emit (.mreg off (v &&& r.mask)))
      | none => pure ()

/-- A write to a word of a semaphore (R262). -/
def writeSem (c m w : Nat) (v : Word) : Act Unit :=
  match w with
  | 0 => do
    modSem c m fun x => { x with count := BitVec.ofNat 32 v.toNat, covf := v.getLsbD 32 }
    pokeSlots c
  | 2 => modSem c m fun x => { x with fault := v }
  | _ => pure ()

/-- A write to a core register. One to an RO register has no effect (R5); DESIGN CHOICE (log entry 122): nor has one to an RC
register, of which R5 says only that a read clears it. -/
def writeCore (c off : Nat) (v : Word) : Act Unit :=
  if 0x0400 ≤ off ∧ off < 0x0C00 then writeSem c ((off - 0x0400) / 32) (off % 32 / 8) v
  else
    match off with
    | 0x0240 => writeSttail c v
    | 0x0C90 => do
      setCreg c 0x0C90 (v &&& 0xFFFF)
      onlyIf (decide (v.toNat % 2 ^ 16 ≠ 0)) (later 0 7 downPlace (.routerPowerDown c))
    | 0x0F00 => writeSvccfg c v
    | 0x0F18 => writeFack c v
    | 0x0F28 => writePreq c v
    | 0x0F48 => later 0 5 c (.ctxout c (v.toNat % 32))
    | 0x0F50 => later 0 5 c (.resume c (v.toNat % 2 ^ 52 / 2 ^ 16 * 2 ^ 16))
    | _ => match coreReg off with
      | some r => onlyIf (decide (r.kind = .rw)) (setCreg c off (v &&& r.mask))
      | none => pure ()

/-- A write to a place of system space: reserved bits and read-only registers ignore it (R5, R7). -/
def writePlace (p : SysPlace) (v : Word) (w : Writer) : Act Unit :=
  match p with
  | .module off => writeModule off v w
  | .core c off => writeCore c off v
  | .cell c i n => onlyIf (decide (n ≤ 8)) (writeCellWord c i n v)
  | .sheaf n 0 => clearSflags n (v &&& 7)
  | .cistern off => match w with
    | .thread c _ => do
      write64 (cisternPa c off) v
      fillWord (cisternPa c off)
    | _ => pure ()
  | _ => pure ()

/-- REGISTER_WRITE (R5, R402, R404): an aligned write of 8 bytes. -/
def execRegisterWrite (off : Nat) (v : Word) (w : Writer) (s : State) : Host.Outcome State Fault Refusal :=
  .next (run (onlyIf (decide (off % 8 = 0)) (writePlace (sysPlace off) v w)) s)

/-- READ_CLEAR (R5): a read of the control window; an RC register is cleared by it. The side-band carries the value away, and a
node's reply does. -/
def execReadClear (off : Nat) (reader : Writer) (s : State) : Host.Outcome State Fault Refusal :=
  .next (run (do
    let v ← readWindow off
    match reader with
    | .sideband => emit (.out (.sideband true (leBytes v.toNat 8)))
    | .node n =>
      let s ← look id
      sendBack (windowRouter s off) 6 (.host n 0) 0xFFF 0 32 false
        (.deliver (.bytes ⟨0xFFF, 0, 0, 0⟩ ((List.range 8).zip (leBytes v.toNat 8))))
    | _ => pure ()) s)

end Sys2Proof.Machine
end

