-- ==== Sys2Proof/Machine/Sideband.lean ====
section
/-! DEFINITION. The management side-band (R424-R426, R428, R431). -/

namespace Sys2Proof.Machine

open Sys2Proof

/-- A transfer is acknowledged, with the bytes that it reads. -/
def sideReply (bytes : List Byte) : Act Unit := emit (.out (.sideband true bytes))
/-- A transfer is NACKed. -/
def sideNack : Act Unit := emit (.out (.sideband false []))

/-! ### Private transfers -/

/-- READ_CONTROL_WINDOW (R431): 8 bytes of the control window. -/
def execReadControlWindow (off : Nat) (s : State) : Host.Outcome State Fault Refusal :=
  .next (run (do
    let v ← readWindow off
    sideReply (leBytes v.toNat 8)) s)

/-- WRITE_CONTROL_WINDOW (R431). -/
def execWriteControlWindow (off : Nat) (v : Word) (s : State) : Host.Outcome State Fault Refusal :=
  .next (run (do
    onlyIf (decide (off % 8 = 0)) (writePlace (sysPlace off) v .sideband)
    sideReply []) s)

/-- The 48 bytes that an attestation signs (R426). -/
def attested (s : State) (nonce : List Byte) : List Byte :=
  padBytes 32 nonce ++ leBytes (mreg s 0x0930).toNat 4 ++
    leBytes ((mreg s 0x0900).toNat % 8 + (mreg s 0x0920).toNat % 16 * 16) 4 ++ leBytes Config.serial 8

/-- The signature indices of the identity key (R425). -/
def keyIndices : Nat := 1024

/-- ATTESTATION (R425, R426): the signature index advances in flash before the signature leaves; when the indices are spent the
read is NACKed. -/
def execAttestation (nonce : List Byte) (s : State) : Host.Outcome State Fault Refusal :=
  .next (run (
    let i := s.flash.keyIndex
    if i < keyIndices then do
      emit (.flash { s.flash with keyIndex := i + 1 })
      let m := attested s nonce
      sideReply (m ++ beBytes i 4 ++ padBytes 2496 (Config.identitySignature i m))
    else sideNack) s)

/-- FENCE_DIE (R428, R429, R431): the die is fenced at the end of the cycle. -/
def execFenceDie (d : Nat) (s : State) : Host.Outcome State Fault Refusal :=
  .next (run (if d < 4 then do
      later 0 7 fencePlace (.dieFence d)
      sideReply []
    else sideNack) s)

/-- The identity public key in the order of RFC 8391 (R426): the identifier of the parameter set, the root, the seed. -/
def identityKey : List Byte := beBytes xmssOid 4 ++ padBytes 32 Config.identityRoot ++ padBytes 32 Config.identitySeed

/-- READ_CERTIFICATE (R426, R431). -/
def execReadCertificate (s : State) : Host.Outcome State Fault Refusal :=
  .next (run (sideReply
    (identityKey ++ leBytes Config.serial 8 ++ padBytes 2500 Config.certificateSignature)) s)

/-- SET_RECOVERY_LIST (R424): an n above 8, or a node ID with any of bits 15:12 set, NACKs the transfer. -/
def execSetRecoveryList (n : Nat) (ids : List Nat) (s : State) : Host.Outcome State Fault Refusal :=
  .next (run (
    if n ≤ 8 ∧ ids.length = n ∧ (ids.all fun i => decide (i < 4096)) then do
      emit (.flash { s.flash with recovery := ids })
      sideReply []
    else sideNack) s)

/-- READ_RECOVERY_LIST (R431): n, then 8 node IDs, unused ones 0. -/
def execReadRecoveryList (s : State) : Host.Outcome State Fault Refusal :=
  .next (run (
    let l := s.flash.recovery
    sideReply (leBytes l.length 1 ++ (List.range 8).flatMap fun i => leBytes (l.getD i 0) 2)) s)

/-- UNKNOWN_COMMAND (R431): any other command is NACKed. -/
def execUnknownCommand (cmd : Nat) (s : State) : Host.Outcome State Fault Refusal :=
  .next (run (onlyIf (decide (cmd = 0 ∨ 7 < cmd)) sideNack) s)

/-! ### Common command codes -/

/-- The static address: 0x30 plus the strap pins. -/
def staticAddress (s : State) : Nat := 0x30 + s.side.straps % 4

/-- ENTDAA (R431): a target without a dynamic address sends its provisioned ID and characteristics and takes the address. -/
def execEntdaa (addr : Nat) (s : State) : Host.Outcome State Fault Refusal :=
  .next (run (
    if s.side.dynamic.isNone then do
      emit (.side { s.side with dynamic := some (addr % 128) })
      sideReply (beBytes Config.provisionedId 6 ++ leBytes Config.busCharacteristics 1 ++
        leBytes Config.deviceCharacteristics 1)
    else sideNack) s)

/-- SETDASA (R431): the target of the static address takes a dynamic address. -/
def execSetdasa (static_ addr : Nat) (s : State) : Host.Outcome State Fault Refusal :=
  .next (run (
    if static_ = staticAddress s ∧ s.side.dynamic.isNone then do
      emit (.side { s.side with dynamic := some (addr % 128) })
      sideReply []
    else sideNack) s)

/-- RSTDAA (R431): the dynamic address is given up. -/
def execRstdaa (s : State) : Host.Outcome State Fault Refusal :=
  .next (run (do
    emit (.side { s.side with dynamic := none })
    sideReply []) s)

/-- A code directed at the target is answered while it has a dynamic address. -/
def directed (bytes : List Byte) : Act Unit := do
  let s ← look id
  if s.side.dynamic.isSome then sideReply bytes else sideNack

/-- GETPID (R431). -/
def execGetpid (s : State) : Host.Outcome State Fault Refusal := .next (run (directed (beBytes Config.provisionedId 6)) s)

/-- GETBCR (R431). -/
def execGetbcr (s : State) : Host.Outcome State Fault Refusal := .next (run (directed (leBytes Config.busCharacteristics 1)) s)

/-- GETDCR (R431). -/
def execGetdcr (s : State) : Host.Outcome State Fault Refusal :=
  .next (run (directed (leBytes Config.deviceCharacteristics 1)) s)

/-- GETSTATUS (R431). -/
def execGetstatus (s : State) : Host.Outcome State Fault Refusal := .next (run (directed (beBytes Config.targetStatus 2)) s)

/-- ENEC (R431): in-band interrupts are enabled. -/
def execEnec (events : Nat) (s : State) : Host.Outcome State Fault Refusal :=
  .next (run (do
    onlyIf (events.testBit 0) (emit (.side { s.side with events := true }))
    sideReply []) s)

/-- DISEC (R431): in-band interrupts are disabled. -/
def execDisec (events : Nat) (s : State) : Host.Outcome State Fault Refusal :=
  .next (run (do
    onlyIf (events.testBit 0) (emit (.side { s.side with events := false }))
    sideReply []) s)

/-- RSTACT (R431): the action of the next target reset. -/
def execRstact (action : Nat) (s : State) : Host.Outcome State Fault Refusal :=
  .next (run (do
    emit (.side { s.side with resetAction := action % 256 })
    sideReply []) s)

end Sys2Proof.Machine
end

