-- ==== Sys2Proof/Machine/Vector.lean ====
section
/-! DEFINITION. The vector instructions (R193-R213), TLD aside. -/

namespace Sys2Proof.Machine

open Sys2Proof

/-- VADD (R194). -/
def execVadd (p : Pred) (vt : VecType) (mode : SatMode) (tb ta : Target) (s : State) : Host.Outcome State Fault Refusal :=
  tokenOp p (t9 ta) (t9 tb) s fun f => vecArith vt mode fAdd (· + ·) f.l f.r

/-- VSUB (R194). -/
def execVsub (p : Pred) (vt : VecType) (mode : SatMode) (tb ta : Target) (s : State) : Host.Outcome State Fault Refusal :=
  tokenOp p (t9 ta) (t9 tb) s fun f => vecArith vt mode fSub (· - ·) f.l f.r

/-- VMUL (R194). -/
def execVmul (p : Pred) (vt : VecType) (mode : SatMode) (tb ta : Target) (s : State) : Host.Outcome State Fault Refusal :=
  tokenOp p (t9 ta) (t9 tb) s fun f => vecArith vt mode fMul (· * ·) f.l f.r

/-- VFMA (R195). -/
def execVfma (fvt : FloatType) (fmode : FmaMode) (tb ta : Target) (s : State) : Host.Outcome State Fault Refusal :=
  tokenOp .always (t9 ta) (t9 tb) s fun f => vecFma fvt fmode f.l f.r f.p

/-- VMIN (R194). -/
def execVmin (p : Pred) (vt : VecType) (tb ta : Target) (s : State) : Host.Outcome State Fault Refusal :=
  tokenOp p (t9 ta) (t9 tb) s fun f => vecArith vt .wrap fMin min f.l f.r

/-- VMAX (R194). -/
def execVmax (p : Pred) (vt : VecType) (tb ta : Target) (s : State) : Host.Outcome State Fault Refusal :=
  tokenOp p (t9 ta) (t9 tb) s fun f => vecArith vt .wrap fMax max f.l f.r

/-- VCMP (R196). -/
def execVcmp (p : Pred) (vt : VecType) (cond : Cond) (tb ta : Target) (s : State) : Host.Outcome State Fault Refusal :=
  tokenOp p (t9 ta) (t9 tb) s fun f => vecCmp vt cond f.l f.r

/-- VSEL (R197). -/
def execVsel (half : Bool) (tb ta : Target) (s : State) : Host.Outcome State Fault Refusal :=
  tokenOp .always (t9 ta) (t9 tb) s fun f => (vecSel half f.l f.r f.p, noFlags)

/-- VAND (R198). -/
def execVand (p : Pred) (tb ta : Target) (s : State) : Host.Outcome State Fault Refusal :=
  tokenOp p (t9 ta) (t9 tb) s fun f => (vecBitwise (· &&& ·) f.l f.r, noFlags)

/-- VOR (R198). -/
def execVor (p : Pred) (tb ta : Target) (s : State) : Host.Outcome State Fault Refusal :=
  tokenOp p (t9 ta) (t9 tb) s fun f => (vecBitwise (· ||| ·) f.l f.r, noFlags)

/-- VXOR (R198). -/
def execVxor (p : Pred) (tb ta : Target) (s : State) : Host.Outcome State Fault Refusal :=
  tokenOp p (t9 ta) (t9 tb) s fun f => (vecBitwise (· ^^^ ·) f.l f.r, noFlags)

/-- The operand `.r` of a vector instruction that reads it as a scalar: Null makes the result Null (R155, R188). -/
def withScalar (r : Token) (k : Word → Token) : Token :=
  match asScalar r with
  | some v => k v
  | none => .null

/-- VSHF (R200). -/
def execVshf (p : Pred) (shf : ShufMode) (tb ta : Target) (s : State) : Host.Outcome State Fault Refusal :=
  tokenOp p (t9 ta) (t9 tb) s fun f =>
    match shf with
    | .idx | .hidx => (vecShuffle shf f.l f.r, noFlags)
    | _ => (withScalar f.r fun _ => vecShuffle shf f.l f.r, noFlags)

/-- VBCST (R201): `.S16` alone does not use `.r`. -/
def execVbcst (p : Pred) (bc : BcastMode) (tb ta : Target) (s : State) : Host.Outcome State Fault Refusal :=
  tokenOp p (t9 ta) (t9 tb) s fun f =>
    match bc with
    | .s16 => (vecBcast .s16 f.l 0, noFlags)
    | _ => (withScalar f.r fun n => vecBcast bc f.l n, noFlags)

/-- VINS (R202). -/
def execVins (half : Bool) (tb ta : Target) (s : State) : Host.Outcome State Fault Refusal :=
  tokenOp .always (t9 ta) (t9 tb) s fun f => (withScalar f.r fun v => withScalar f.p fun n => vecInsert half f.l v n, noFlags)

/-- VEXT (R203). -/
def execVext (p : Pred) (vx : ExtMode) (tb ta : Target) (s : State) : Host.Outcome State Fault Refusal :=
  tokenOp p (t9 ta) (t9 tb) s fun f => (withScalar f.r fun n => vecExtract vx f.l n, noFlags)

/-- VMSK (R204). -/
def execVmsk (p : Pred) (half : Bool) (tb ta : Target) (s : State) : Host.Outcome State Fault Refusal :=
  tokenOp p (t9 ta) (t9 tb) s fun f => (withScalar f.r fun m => vecMask half f.l m, noFlags)

/-- VCVT (R205-R207): the saturations are counted at the commit. -/
def execVcvt (p : Pred) (cvt : CvtCode) (tb ta : Target) (s : State) : Host.Outcome State Fault Refusal :=
  fire s fun f =>
    if predicateHolds p f then
      let r := vecConvert cvt (roundingOf f) f.l
      complete s f (t9 ta) (t9 tb) r.1 r.1 r.2.1 (if r.2.2 = 0 then [] else [.saturations r.2.2])
    else completeNull s f (t9 ta) (t9 tb)

/-- VRED (R208). -/
def execVred (p : Pred) (vt : VecType) (red : RedMode) (tb ta : Target) (s : State) : Host.Outcome State Fault Refusal :=
  tokenOp p (t9 ta) (t9 tb) s fun f => if tokIsNull f.l then (.null, noFlags) else vecReduce vt red f.l

/-- VEXP2 (R209). -/
def execVexp2 (p : Pred) (tb ta : Target) (s : State) : Host.Outcome State Fault Refusal :=
  tokenOp p (t9 ta) (t9 tb) s fun f => vecTable vexp2 f.l

/-- VRCP (R209). -/
def execVrcp (p : Pred) (tb ta : Target) (s : State) : Host.Outcome State Fault Refusal :=
  tokenOp p (t9 ta) (t9 tb) s fun f => vecTable vrcp f.l

/-- VRSQ (R209). -/
def execVrsq (p : Pred) (tb ta : Target) (s : State) : Host.Outcome State Fault Refusal :=
  tokenOp p (t9 ta) (t9 tb) s fun f => vecTable vrsq f.l

/-- A table buffer of the core (R210). -/
def tableAt (s : State) (c b : Nat) : TableBuf := mget TableBuf.zero (coreAt s c).tables b

/-- TLI (R213). -/
def execTli (p : Pred) (buf : BitVec 2) (tb ta : Target) (s : State) : Host.Outcome State Fault Refusal :=
  tokenOp p (t9 ta) (t9 tb) s fun f => vecTable (tliLane (tableAt s f.c buf.toNat)) f.l

/-- VUN (R199). -/
def execVun (p : Pred) (vt : VecType) (unop : UnMode) (tb ta : Target) (s : State) : Host.Outcome State Fault Refusal :=
  tokenOp p (t9 ta) (t9 tb) s fun f => vecUn vt unop f.l

end Sys2Proof.Machine
end

