-- ==== Sys2Proof/Machine/Dispatch.lean ====
section
/-! DEFINITION. One arm per instruction: a direct call of its meaning. -/

namespace Sys2Proof.Machine

open Sys2Proof

def exec (i : Instr) (s : State) : Host.Outcome State Fault Refusal :=
  match i with
  | .br p e off20 => Sys2Proof.Machine.execBr p e off20 s
  | .bri p e => Sys2Proof.Machine.execBri p e s
  | .call p e off20 => Sys2Proof.Machine.execCall p e off20 s
  | .calli p e => Sys2Proof.Machine.execCalli p e s
  | .ret p e => Sys2Proof.Machine.execRet p e s
  | .lpb level exitOff ta => Sys2Proof.Machine.execLpb level exitOff ta s
  | .lpx p e off20 => Sys2Proof.Machine.execLpx p e off20 s
  | .hnt hint => Sys2Proof.Machine.execHnt hint s
  | .genc imm16 ta => Sys2Proof.Machine.execGenc imm16 ta s
  | .app imm16 ta => Sys2Proof.Machine.execApp imm16 ta s
  | .mov p tb ta => Sys2Proof.Machine.execMov p tb ta s
  | .nul p tb ta => Sys2Proof.Machine.execNul p tb ta s
  | .rd reg tb8 ta8 => Sys2Proof.Machine.execRd reg tb8 ta8 s
  | .rdt reg tb8 ta8 => Sys2Proof.Machine.execRdt reg tb8 ta8 s
  | .wr reg => Sys2Proof.Machine.execWr reg s
  | .add p ty mode tb ta => Sys2Proof.Machine.execAdd p ty mode tb ta s
  | .sub p ty mode tb ta => Sys2Proof.Machine.execSub p ty mode tb ta s
  | .mul p ty mode tb ta => Sys2Proof.Machine.execMul p ty mode tb ta s
  | .mulh p ty tb ta => Sys2Proof.Machine.execMulh p ty tb ta s
  | .div p ty tb ta => Sys2Proof.Machine.execDiv p ty tb ta s
  | .rem p ty tb ta => Sys2Proof.Machine.execRem p ty tb ta s
  | .andI p ty tb ta => Sys2Proof.Machine.execAndI p ty tb ta s
  | .orI p ty tb ta => Sys2Proof.Machine.execOrI p ty tb ta s
  | .xorI p ty tb ta => Sys2Proof.Machine.execXorI p ty tb ta s
  | .shl p ty tb ta => Sys2Proof.Machine.execShl p ty tb ta s
  | .shr p ty tb ta => Sys2Proof.Machine.execShr p ty tb ta s
  | .sar p ty tb ta => Sys2Proof.Machine.execSar p ty tb ta s
  | .minI p ty tb ta => Sys2Proof.Machine.execMinI p ty tb ta s
  | .maxI p ty tb ta => Sys2Proof.Machine.execMaxI p ty tb ta s
  | .cmp p ty cond tb ta => Sys2Proof.Machine.execCmp p ty cond tb ta s
  | .sel tb ta => Sys2Proof.Machine.execSel tb ta s
  | .addi p imm14 ta => Sys2Proof.Machine.execAddi p imm14 ta s
  | .muli p imm14 ta => Sys2Proof.Machine.execMuli p imm14 ta s
  | .andi p imm14 ta => Sys2Proof.Machine.execAndi p imm14 ta s
  | .ori p imm14 ta => Sys2Proof.Machine.execOri p imm14 ta s
  | .xori p imm14 ta => Sys2Proof.Machine.execXori p imm14 ta s
  | .shli p sh6 ta => Sys2Proof.Machine.execShli p sh6 ta s
  | .shri p sh6 ta => Sys2Proof.Machine.execShri p sh6 ta s
  | .sari p sh6 ta => Sys2Proof.Machine.execSari p sh6 ta s
  | .ceqi p imm14 ta => Sys2Proof.Machine.execCeqi p imm14 ta s
  | .cnei p imm14 ta => Sys2Proof.Machine.execCnei p imm14 ta s
  | .clti p imm14 ta => Sys2Proof.Machine.execClti p imm14 ta s
  | .cgei p imm14 ta => Sys2Proof.Machine.execCgei p imm14 ta s
  | .lea p scale tb ta => Sys2Proof.Machine.execLea p scale tb ta s
  | .slice p slsel tb ta => Sys2Proof.Machine.execSlice p slsel tb ta s
  | .bits p bop tb ta => Sys2Proof.Machine.execBits p bop tb ta s
  | .ldN8 p lsid imm9 ta => Sys2Proof.Machine.execLdN8 p lsid imm9 ta s
  | .ldI8 p lsid imm9 ta => Sys2Proof.Machine.execLdI8 p lsid imm9 ta s
  | .ldN16 p lsid imm9 ta => Sys2Proof.Machine.execLdN16 p lsid imm9 ta s
  | .ldI16 p lsid imm9 ta => Sys2Proof.Machine.execLdI16 p lsid imm9 ta s
  | .ldN32 p lsid imm9 ta => Sys2Proof.Machine.execLdN32 p lsid imm9 ta s
  | .ldI32 p lsid imm9 ta => Sys2Proof.Machine.execLdI32 p lsid imm9 ta s
  | .ld64 p lsid imm9 ta => Sys2Proof.Machine.execLd64 p lsid imm9 ta s
  | .st8 p lsid imm18 => Sys2Proof.Machine.execSt8 p lsid imm18 s
  | .st16 p lsid imm18 => Sys2Proof.Machine.execSt16 p lsid imm18 s
  | .st32 p lsid imm18 => Sys2Proof.Machine.execSt32 p lsid imm18 s
  | .st64 p lsid imm18 => Sys2Proof.Machine.execSt64 p lsid imm18 s
  | .lds p lsid imm9 ta => Sys2Proof.Machine.execLds p lsid imm9 ta s
  | .sts p lsid imm18 => Sys2Proof.Machine.execSts p lsid imm18 s
  | .amo p aop aty tb ta => Sys2Proof.Machine.execAmo p aop aty tb ta s
  | .bump p tb ta => Sys2Proof.Machine.execBump p tb ta s
  | .pref p imm9 => Sys2Proof.Machine.execPref p imm9 s
  | .vadd p vt mode tb ta => Sys2Proof.Machine.execVadd p vt mode tb ta s
  | .vsub p vt mode tb ta => Sys2Proof.Machine.execVsub p vt mode tb ta s
  | .vmul p vt mode tb ta => Sys2Proof.Machine.execVmul p vt mode tb ta s
  | .vfma fvt fmode tb ta => Sys2Proof.Machine.execVfma fvt fmode tb ta s
  | .vmin p vt tb ta => Sys2Proof.Machine.execVmin p vt tb ta s
  | .vmax p vt tb ta => Sys2Proof.Machine.execVmax p vt tb ta s
  | .vcmp p vt cond tb ta => Sys2Proof.Machine.execVcmp p vt cond tb ta s
  | .vsel half tb ta => Sys2Proof.Machine.execVsel half tb ta s
  | .vand p tb ta => Sys2Proof.Machine.execVand p tb ta s
  | .vor p tb ta => Sys2Proof.Machine.execVor p tb ta s
  | .vxor p tb ta => Sys2Proof.Machine.execVxor p tb ta s
  | .vshf p shf tb ta => Sys2Proof.Machine.execVshf p shf tb ta s
  | .vbcst p bc tb ta => Sys2Proof.Machine.execVbcst p bc tb ta s
  | .vins half tb ta => Sys2Proof.Machine.execVins half tb ta s
  | .vext p vx tb ta => Sys2Proof.Machine.execVext p vx tb ta s
  | .vmsk p half tb ta => Sys2Proof.Machine.execVmsk p half tb ta s
  | .vcvt p cvt tb ta => Sys2Proof.Machine.execVcvt p cvt tb ta s
  | .vred p vt red tb ta => Sys2Proof.Machine.execVred p vt red tb ta s
  | .vexp2 p tb ta => Sys2Proof.Machine.execVexp2 p tb ta s
  | .vrcp p tb ta => Sys2Proof.Machine.execVrcp p tb ta s
  | .vrsq p tb ta => Sys2Proof.Machine.execVrsq p tb ta s
  | .tld p buf tb ta => Sys2Proof.Machine.execTld p buf tb ta s
  | .tli p buf tb ta => Sys2Proof.Machine.execTli p buf tb ta s
  | .vun p vt unop tb ta => Sys2Proof.Machine.execVun p vt unop tb ta s
  | .vld p lsid imm9 ta => Sys2Proof.Machine.execVld p lsid imm9 ta s
  | .vst p lsid imm18 => Sys2Proof.Machine.execVst p lsid imm18 s
  | .vldx p half tb ta => Sys2Proof.Machine.execVldx p half tb ta s
  | .vstx lsid => Sys2Proof.Machine.execVstx lsid s
  | .mprog p tb ta => Sys2Proof.Machine.execMprog p tb ta s
  | .mlw p => Sys2Proof.Machine.execMlw p s
  | .mlwS => Sys2Proof.Machine.execMlwS s
  | .mma p => Sys2Proof.Machine.execMma p s
  | .mmaS => Sys2Proof.Machine.execMmaS s
  | .mst p => Sys2Proof.Machine.execMst p s
  | .mzr p => Sys2Proof.Machine.execMzr p s
  | .mstg p stg tb ta => Sys2Proof.Machine.execMstg p stg tb ta s
  | .mstgS stg tb ta => Sys2Proof.Machine.execMstgS stg tb ta s
  | .mres p => Sys2Proof.Machine.execMres p s
  | .mresDrop p => Sys2Proof.Machine.execMresDrop p s
  | .mmov p mmode => Sys2Proof.Machine.execMmov p mmode s
  | .cpy p tb ta => Sys2Proof.Machine.execCpy p tb ta s
  | .cpyDeal p tb ta => Sys2Proof.Machine.execCpyDeal p tb ta s
  | .cpyGath p tb ta => Sys2Proof.Machine.execCpyGath p tb ta s
  | .cpyBin p tb ta => Sys2Proof.Machine.execCpyBin p tb ta s
  | .cpyX p tb ta => Sys2Proof.Machine.execCpyX p tb ta s
  | .sacq p tb ta => Sys2Proof.Machine.execSacq p tb ta s
  | .sacqp p tb ta => Sys2Proof.Machine.execSacqp p tb ta s
  | .slpt p tb ta => Sys2Proof.Machine.execSlpt p tb ta s
  | .chb p q tb ta => Sys2Proof.Machine.execChb p q tb ta s
  | .chu p q => Sys2Proof.Machine.execChu p q s
  | .str p q vecS tb ta => Sys2Proof.Machine.execStr p q vecS tb ta s
  | .fence p scope fkind => Sys2Proof.Machine.execFence p scope fkind s
  | .tadv p level tb ta => Sys2Proof.Machine.execTadv p level tb ta s
  | .tset p tb ta => Sys2Proof.Machine.execTset p tb ta s
  | .fwait p tb ta => Sys2Proof.Machine.execFwait p tb ta s
  | .join p tb ta => Sys2Proof.Machine.execJoin p tb ta s
  | .leave p exit tb ta => Sys2Proof.Machine.execLeave p exit tb ta s
  | .spawn tb ta => Sys2Proof.Machine.execSpawn tb ta s
  | .spawnAt tb ta => Sys2Proof.Machine.execSpawnAt tb ta s
  | .fill p fsel => Sys2Proof.Machine.execFill p fsel s
  | .park p => Sys2Proof.Machine.execPark p s
  | .wake p => Sys2Proof.Machine.execWake p s
  | .yld p => Sys2Proof.Machine.execYld p s
  | .cbind tb ta => Sys2Proof.Machine.execCbind tb ta s
  | .cunb p tb ta => Sys2Proof.Machine.execCunb p tb ta s
  | .crd p tb ta => Sys2Proof.Machine.execCrd p tb ta s
  | .crel p tb ta => Sys2Proof.Machine.execCrel p tb ta s
  | .cwr p tb ta => Sys2Proof.Machine.execCwr p tb ta s
  | .ccmt p tb ta => Sys2Proof.Machine.execCcmt p tb ta s
  | .cset tb ta => Sys2Proof.Machine.execCset tb ta s
  | .rfence p tb ta => Sys2Proof.Machine.execRfence p tb ta s
  | .cstat p clr tb ta => Sys2Proof.Machine.execCstat p clr tb ta s
  | .trap p => Sys2Proof.Machine.execTrap p s
  | .tret p => Sys2Proof.Machine.execTret p s
  | .tretRetry p => Sys2Proof.Machine.execTretRetry p s
  | .ppt p => Sys2Proof.Machine.execPpt p s
  | .halt p => Sys2Proof.Machine.execHalt p s
  | .sysr p tb ta => Sys2Proof.Machine.execSysr p tb ta s
  | .sysw p ta => Sys2Proof.Machine.execSysw p ta s
  | .powerOnReset => Sys2Proof.Machine.execPowerOnReset s
  | .stretchEnd die => Sys2Proof.Machine.execStretchEnd die s
  | .dieFence die => Sys2Proof.Machine.execDieFence die s
  | .leaseRenewal die => Sys2Proof.Machine.execLeaseRenewal die s
  | .leaseExpiry die => Sys2Proof.Machine.execLeaseExpiry die s
  | .leaseClaim die claimant epoch => Sys2Proof.Machine.execLeaseClaim die claimant epoch s
  | .leaseGrant claimant epoch granter => Sys2Proof.Machine.execLeaseGrant claimant epoch granter s
  | .queueDoorbell q node wr => Sys2Proof.Machine.execQueueDoorbell q node wr s
  | .recordUpdate die q r => Sys2Proof.Machine.execRecordUpdate die q r s
  | .rootPacket q => Sys2Proof.Machine.execRootPacket q s
  | .gangPacket q => Sys2Proof.Machine.execGangPacket q s
  | .placementPass die => Sys2Proof.Machine.execPlacementPass die s
  | .reserve core layer q => Sys2Proof.Machine.execReserve core layer q s
  | .reserveAck die core ok => Sys2Proof.Machine.execReserveAck die core ok s
  | .multiReady m => Sys2Proof.Machine.execMultiReady m s
  | .multiCommit m => Sys2Proof.Machine.execMultiCommit m s
  | .multiAbort m => Sys2Proof.Machine.execMultiAbort m s
  | .multiReadyTimeout gang => Sys2Proof.Machine.execMultiReadyTimeout gang s
  | .timerWheelRelease die => Sys2Proof.Machine.execTimerWheelRelease die s
  | .waitPoll q => Sys2Proof.Machine.execWaitPoll q s
  | .watchdogPeriod die => Sys2Proof.Machine.execWatchdogPeriod die s
  | .stealRequest victim x => Sys2Proof.Machine.execStealRequest victim x s
  | .stealReply x => Sys2Proof.Machine.execStealReply x s
  | .stealBackoff core => Sys2Proof.Machine.execStealBackoff core s
  | .blockLoad core slot => Sys2Proof.Machine.execBlockLoad core slot s
  | .tokenDelivery d => Sys2Proof.Machine.execTokenDelivery d s
  | .blockCommit core slot gen => Sys2Proof.Machine.execBlockCommit core slot gen s
  | .fillArrival m => Sys2Proof.Machine.execFillArrival m s
  | .wakeArrival m => Sys2Proof.Machine.execWakeArrival m s
  | .reportWordAdd core aword applied => Sys2Proof.Machine.execReportWordAdd core aword applied s
  | .ownerAccess r => Sys2Proof.Machine.execOwnerAccess r s
  | .storeWordApply w => Sys2Proof.Machine.execStoreWordApply w s
  | .storeAcknowledgement core slot sid => Sys2Proof.Machine.execStoreAcknowledgement core slot sid s
  | .ldsStsRefusal r => Sys2Proof.Machine.execLdsStsRefusal r s
  | .ldsStsResend r => Sys2Proof.Machine.execLdsStsResend r s
  | .pageWalk die asid page => Sys2Proof.Machine.execPageWalk die asid page s
  | .wellheadRequest well => Sys2Proof.Machine.execWellheadRequest well s
  | .invalidationComplete => Sys2Proof.Machine.execInvalidationComplete s
  | .commandHandover core => Sys2Proof.Machine.execCommandHandover core s
  | .siphonStart siphon => Sys2Proof.Machine.execSiphonStart siphon s
  | .copyCompletion siphon => Sys2Proof.Machine.execCopyCompletion siphon s
  | .followOnStart core => Sys2Proof.Machine.execFollowOnStart core s
  | .matrixHandover core => Sys2Proof.Machine.execMatrixHandover core s
  | .mprogInstall core => Sys2Proof.Machine.execMprogInstall core s
  | .mlwExecution core => Sys2Proof.Machine.execMlwExecution core s
  | .mmaExecution core => Sys2Proof.Machine.execMmaExecution core s
  | .mstExecution core => Sys2Proof.Machine.execMstExecution core s
  | .mzrExecution core => Sys2Proof.Machine.execMzrExecution core s
  | .mmovExecution core => Sys2Proof.Machine.execMmovExecution core s
  | .mresExecution core => Sys2Proof.Machine.execMresExecution core s
  | .promiseMissed core slot => Sys2Proof.Machine.execPromiseMissed core slot s
  | .slptWake core slot => Sys2Proof.Machine.execSlptWake core slot s
  | .yldExpiry core slot => Sys2Proof.Machine.execYldExpiry core slot s
  | .standpipePush src dst tok sheaf time slack col => Sys2Proof.Machine.execStandpipePush src dst tok sheaf time slack col s
  | .creditReturn core q => Sys2Proof.Machine.execCreditReturn core q s
  | .streamReadAhead core q => Sys2Proof.Machine.execStreamReadAhead core q s
  | .routerGrant router out => Sys2Proof.Machine.execRouterGrant router out s
  | .slackDecrement buffer pkt => Sys2Proof.Machine.execSlackDecrement buffer pkt s
  | .routerPowerDown router => Sys2Proof.Machine.execRouterPowerDown router s
  | .routerWake router => Sys2Proof.Machine.execRouterWake router s
  | .dataFlit port f => Sys2Proof.Machine.execDataFlit port f s
  | .idleFlit port f => Sys2Proof.Machine.execIdleFlit port f s
  | .replayFlit port f => Sys2Proof.Machine.execReplayFlit port f s
  | .auditInsertion port => Sys2Proof.Machine.execAuditInsertion port s
  | .auditFlit port f used avail => Sys2Proof.Machine.execAuditFlit port f used avail s
  | .restitutionFlit port f grant => Sys2Proof.Machine.execRestitutionFlit port f grant s
  | .clampFlit port f expected => Sys2Proof.Machine.execClampFlit port f expected s
  | .portRetrain port => Sys2Proof.Machine.execPortRetrain port s
  | .restartFlit port f told => Sys2Proof.Machine.execRestartFlit port f told s
  | .retrainTimeout port => Sys2Proof.Machine.execRetrainTimeout port s
  | .scopeMiss w => Sys2Proof.Machine.execScopeMiss w s
  | .batchAgeExpiry core => Sys2Proof.Machine.execBatchAgeExpiry core s
  | .deltaBatch core => Sys2Proof.Machine.execDeltaBatch core s
  | .batchApply level unit ds sent => Sys2Proof.Machine.execBatchApply level unit ds sent s
  | .sweepRequest core n cut => Sys2Proof.Machine.execSweepRequest core n cut s
  | .sweepComplete => Sys2Proof.Machine.execSweepComplete s
  | .frontierAnnouncement core sheaf front => Sys2Proof.Machine.execFrontierAnnouncement core sheaf front s
  | .launchEnd sheaf => Sys2Proof.Machine.execLaunchEnd sheaf s
  | .reportTimeout seq => Sys2Proof.Machine.execReportTimeout seq s
  | .heldDecision r => Sys2Proof.Machine.execHeldDecision r s
  | .mark m => Sys2Proof.Machine.execMark m s
  | .markAck core slot inc => Sys2Proof.Machine.execMarkAck core slot inc s
  | .taskDispatch core => Sys2Proof.Machine.execTaskDispatch core s
  | .fackRetry core slot => Sys2Proof.Machine.execFackRetry core slot s
  | .fackTrap core slot => Sys2Proof.Machine.execFackTrap core slot s
  | .fackEnd core slot => Sys2Proof.Machine.execFackEnd core slot s
  | .parkTimeout core => Sys2Proof.Machine.execParkTimeout core s
  | .preemptTimeout core slot since => Sys2Proof.Machine.execPreemptTimeout core slot since s
  | .swapOut core slot => Sys2Proof.Machine.execSwapOut core slot s
  | .restore core entry => Sys2Proof.Machine.execRestore core entry s
  | .ctxout core entry => Sys2Proof.Machine.execCtxout core entry s
  | .resume core addr => Sys2Proof.Machine.execResume core addr s
  | .cutMarker core q => Sys2Proof.Machine.execCutMarker core q s
  | .cellInstall core entry => Sys2Proof.Machine.execCellInstall core entry s
  | .cellRemove core entry => Sys2Proof.Machine.execCellRemove core entry s
  | .registerWrite off v by_ => Sys2Proof.Machine.execRegisterWrite off v by_ s
  | .reportAcknowledgement seq => Sys2Proof.Machine.execReportAcknowledgement seq s
  | .recoveryImageReply die img => Sys2Proof.Machine.execRecoveryImageReply die img s
  | .fwstageGo => Sys2Proof.Machine.execFwstageGo s
  | .devmodeWrite v by_ => Sys2Proof.Machine.execDevmodeWrite v by_ s
  | .supplySag die => Sys2Proof.Machine.execSupplySag die s
  | .junctionTemperature die temp => Sys2Proof.Machine.execJunctionTemperature die temp s
  | .uncorrectableEcc core cause => Sys2Proof.Machine.execUncorrectableEcc core cause s
  | .ieee1588Sync master => Sys2Proof.Machine.execIeee1588Sync master s
  | .tickLockLoss => Sys2Proof.Machine.execTickLockLoss s
  | .admqhostEnable v by_ => Sys2Proof.Machine.execAdmqhostEnable v by_ s
  | .admqhostDisable v by_ => Sys2Proof.Machine.execAdmqhostDisable v by_ s
  | .recordFetchReply die q r => Sys2Proof.Machine.execRecordFetchReply die q r s
  | .qcreate => Sys2Proof.Machine.execQcreate s
  | .qdestroy => Sys2Proof.Machine.execQdestroy s
  | .wait q => Sys2Proof.Machine.execWait q s
  | .xinvcWrite v => Sys2Proof.Machine.execXinvcWrite v s
  | .sttailWrite core v => Sys2Proof.Machine.execSttailWrite core v s
  | .alignmentLoss port => Sys2Proof.Machine.execAlignmentLoss port s
  | .preqWrite core v => Sys2Proof.Machine.execPreqWrite core v s
  | .svccfgWrite core v => Sys2Proof.Machine.execSvccfgWrite core v s
  | .cutctlGo v => Sys2Proof.Machine.execCutctlGo v s
  | .cutctlResume => Sys2Proof.Machine.execCutctlResume s
  | .hrptcfgWrite v => Sys2Proof.Machine.execHrptcfgWrite v s
  | .nodeidWrite v by_ => Sys2Proof.Machine.execNodeidWrite v by_ s
  | .sflagsClear sheaf v => Sys2Proof.Machine.execSflagsClear sheaf v s
  | .readClear off reader => Sys2Proof.Machine.execReadClear off reader s
  | .readControlWindow off => Sys2Proof.Machine.execReadControlWindow off s
  | .writeControlWindow off v => Sys2Proof.Machine.execWriteControlWindow off v s
  | .attestation nonce => Sys2Proof.Machine.execAttestation nonce s
  | .fenceDie d => Sys2Proof.Machine.execFenceDie d s
  | .readCertificate => Sys2Proof.Machine.execReadCertificate s
  | .setRecoveryList n ids => Sys2Proof.Machine.execSetRecoveryList n ids s
  | .readRecoveryList => Sys2Proof.Machine.execReadRecoveryList s
  | .unknownCommand cmd => Sys2Proof.Machine.execUnknownCommand cmd s
  | .entdaa addr => Sys2Proof.Machine.execEntdaa addr s
  | .setdasa static_ addr => Sys2Proof.Machine.execSetdasa static_ addr s
  | .rstdaa => Sys2Proof.Machine.execRstdaa s
  | .getpid => Sys2Proof.Machine.execGetpid s
  | .getbcr => Sys2Proof.Machine.execGetbcr s
  | .getdcr => Sys2Proof.Machine.execGetdcr s
  | .getstatus => Sys2Proof.Machine.execGetstatus s
  | .enec events => Sys2Proof.Machine.execEnec events s
  | .disec events => Sys2Proof.Machine.execDisec events s
  | .rstact action => Sys2Proof.Machine.execRstact action s
  | .correctedEccError core => Sys2Proof.Machine.execCorrectedEccError core s
  | .powerLoss duringFlashWrite => Sys2Proof.Machine.execPowerLoss duringFlashWrite s

end Sys2Proof.Machine
end

