-- ==== Sys2Proof/Machine/Issue.lean ====
section
/-! DEFINITION. The order of steps: the event that is due, the core and slot that issue next, and the advance of the
clock (R149-R153, R3, R15, log entries 1 and 2). -/

namespace Sys2Proof.Machine

open Sys2Proof

/-! ### Issue (R149-R151) -/

/-- The cores that have a slot that is not as reset leaves it, in ascending order, with repeats. -/
def listedCores (s : State) : List Nat := s.slots.map fun e => e.1 / 16

/-- The first able slot of a list, with the index of its ready instruction. -/
def firstAble (s : State) (c : Nat) : List Nat → Option (Nat × Nat)
  | [] => none
  | k :: ks =>
    match ableIdx s c k with
    | some i => some (k, i)
    | none => firstAble s c ks

/-- The slot that issues on a core in this cycle: the owner of the cycle if able, else the lowest able one (R151). None issues in a cycle
that its die skips (R430). -/
def issuer (s : State) (c : Nat) : Option (Nat × Nat) :=
  if (coreAt s c).lastIssue = some s.cycle || dieSkips s (dieOf c) then none
  else firstAble s c (coreCycle s c % 16 :: List.range 16)

/-- The next instruction of this cycle: on the lowest core that has one and has not issued. -/
def nextIssue (s : State) : List Nat → Option Ctx
  | [] => none
  | c :: cs =>
    match issuer s c with
    | some (k, i) => some ⟨c, k, i⟩
    | none => nextIssue s cs

/-! ### Pending events -/

/-- The first pending event whose key is below a bound, and the state without it. -/
def dueBefore (s : State) (bound : Nat) : Option (Instr × State) :=
  match s.agenda with
  | [] => none
  | (k, e) :: rest => if k < bound then some (e, { s with agenda := rest }) else none

/-! ### The clock (R3, R15, R149, R430) -/

/-- The timers that are due at a tick become events of the cycle. -/
def dueTimers (cycle tick : Nat) : List (Nat × Instr) → List (Nat × Instr) → List (Nat × Instr) × List (Nat × Instr)
  | [], ag => ([], ag)
  | (t, e) :: rest, ag =>
    if t ≤ tick then dueTimers cycle tick rest (putEvent (agendaKey cycle 5 0) e ag)
    else ((t, e) :: rest, ag)

/-- The timers when the 64-bit tick (R15) has passed its largest value: those beyond it count from 0 on. -/
def afterWrap (tick : Nat) (l : List (Nat × Instr)) : List (Nat × Instr) :=
  if tick < 2 ^ 64 then l else l.map fun e => (e.1 - 2 ^ 64, e.2)

/-- The dies begin the next cycle: those that are stretched skip every other one, and a stretched cycle counts in STRETCHCNT (R430, log
entry 155). -/
def beginCycle (s : State) : State :=
  let ds := skipNext s
  let u := skipCycle ds s
  { u with
    stretchSince := s.stretchSince + ds.length,
    mregs := if ds.isEmpty then s.mregs else mset (modRegReset 0x0928) s.mregs 0x0928 (addSat64 (mreg s 0x0928) ds.length) }

/-- The clock advances by one cycle, and the ticks that pass are counted. -/
def advanceClock (s : State) : State :=
  let c := passingTicks s
  let tick := nextTick s
  let t := dueTimers (s.cycle + 1) tick (afterWrap (s.tick + c.1) s.timers) s.agenda
  { beginCycle { s with timers := t.1, agenda := t.2 } with
    cycle := s.cycle + 1, issueOver := false, tick := tick, tickFrac := (s.tickFrac + cycleSevenths s) % 7, slew := c.2,
    slewLast := if c.2 = s.slew then s.slewLast else tick }

/-! ### What the next step does -/

/-- The three kinds of step: a pending event, an instruction that a slot issues, a cycle's end. -/
inductive Turn
  | event (e : Instr) (s : State)
  | issue (x : Ctx)
  | clock
  deriving DecidableEq, Repr

/-- The next instruction of a cycle whose issue is not over (R151). -/
def nextIssuing (s : State) : Option Ctx := if s.issueOver then none else nextIssue s (listedCores s)

/-- The next step (log entry 1): the events of the cycle that come before its issue, the issue of each core, the other
events of the cycle, after which no core issues in it, the end of the cycle. -/
def nextTurn (s : State) : Turn :=
  match dueBefore s (agendaKey s.cycle 1 0) with
  | some (e, s') => .event e s'
  | none =>
    match nextIssuing s with
    | some x => .issue x
    | none =>
      match dueBefore s (agendaKey (s.cycle + 1) 0 0) with
      | some (e, s') => .event e { s' with issueOver := true }
      | none => .clock

/-- The instruction that a slot issues: the word at the index, decoded. -/
def issuedInstr (s : State) (x : Ctx) : Option Instr :=
  match blockAt s x.core x.slot with
  | none => none
  | some b => (decodeNat (wordOf b x.idx)).toOption

/-! ### A state whose next step fires a given word -/

/-- A block that fires `w` next: three constants feed the slots of instruction 3, which is `w`; the one for `.p` has the
bit that lets the predicate hold. -/
def fetchBlock (w : Nat) : Block :=
  { gen := 0, addr := 0x1000, header := 0xA0600000#32,
    words := [BitVec.ofNat 32 (0x12000000 + 3), BitVec.ofNat 32 (0x12000000 + 0x80 + 3),
      BitVec.ofNat 32 (0x12000000 + (if w / 2 ^ 23 % 4 = 2 then 0 else 0x200) + 0x100 + 3), BitVec.ofNat 32 w],
    sheaf := none,
    fired := [⟨0, 0, 3, 511⟩, ⟨1, 0, 131, 511⟩, ⟨2, 0, 259, 511⟩],
    done := [(0, .scalar 0, .null), (1, .scalar 0, .null),
      (2, .scalar (if w / 2 ^ 23 % 4 = 2 then 0 else 1), .null)],
    exit := none, effs := [], flags := noFlags, pend := [], jobs := [], resv := [], asked := [], stopped := false }

/-- A slot whose thread holds that block. -/
def fetchSlot (w : Nat) : Slot :=
  { state := .running, incarn := 0, starts := 0, lastIssue := none, gens := 1, freedAt := 0, undo := none,
    thread := some { Thread.fresh with noSheaf := true, block := some (fetchBlock w) } }

/-- The state with a thread in slot 0 of core 0 whose block fires `w` next (log entry 14). -/
def placeWord (s : State) (w : Nat) : State :=
  { s with issueOver := false, slots := mset Slot.reset s.slots 0 (fetchSlot w) }

end Sys2Proof.Machine
end

