-- ==== Sys2Proof/Machine/Step.lean ====
section
/-! DEFINITION. One step of the machine, and the state whose next step runs a given instruction word. -/

namespace Sys2Proof.Machine

open Sys2Proof

/-- One step: the pending event that is due, or the instruction that a slot issues, or the end of the cycle. -/
def step (s : State) : Host.Outcome State Fault Refusal :=
  match nextTurn s with
  | .event e s' => exec e s'
  | .issue x =>
    match issuedInstr s x with
    | some i => exec i { s with ctx := x }
    | none => .fault .undecoded
  | .clock => .next (advanceClock s)

/-- The state with the instruction word w where the next step fires it. An event of the table has no bits and is placed
by no word. -/
def State.withFetchWord (s : State) (nbits w : Nat) : State :=
  if nbits = 32 then placeWord s (w % 2 ^ 32) else s

end Sys2Proof.Machine
end

