-- ==== Sys2Proof/Safety.lean ====
section
/-! DEFINITION. What counts as a safe step and a safe run, the canonical form of the state's data, and the terms that
the statements about the instructions use. -/

namespace Sys2Proof.Machine

open Sys2Proof

/-! ### Safe runs -/

/-- A step that ends in a next state. -/
def Completes (s : State) : Prop := ∃ t, step s = .next t

/-- n steps from a state end in a next state: no fault and no refusal on the way. -/
def SafeRun : Nat → State → Prop
  | 0, _ => True
  | n + 1, s => ∃ t, step s = .next t ∧ SafeRun n t

/-! ### Canonical form -/

/-- The canonical form of memory: addresses strictly rising, no entry equal to what an unlisted address reads as. -/
def Memory.wf (m : List Host.Cell) : Bool := mwf 0 m

/-- The canonical form of the module registers, whose reset values differ by offset. -/
def mregsWf (m : Map Word) : Bool := mrising 0 m && m.all fun e => decide (e.2 ≠ modRegReset e.1)

/-- A strictly rising list of numbers, all at least lo. -/
def risingNats : Nat → List Nat → Bool
  | _, [] => true
  | lo, a :: l => decide (lo ≤ a) && risingNats (a + 1) l

/-- Pending events in the order of their keys, all at least lo. -/
def inKeyOrder : Nat → List (Nat × Instr) → Bool
  | _, [] => true
  | lo, e :: l => decide (lo ≤ e.1) && inKeyOrder e.1 l

/-- The canonical form of the state: every sparse map of it is canonical, the empty words are listed once each in rising
order, and the pending events stand in the order of their keys. -/
structure Canonical (s : State) : Prop where
  mem : Memory.wf s.mem = true
  empty : risingNats 0 s.empty = true
  mregs : mregsWf s.mregs = true
  qerr : mwf 0 s.qerr = true
  slots : mwf Slot.reset s.slots = true
  cores : mwf Core.reset s.cores = true
  tlb2 : mwf [] s.tlb2 = true
  dies : mwf Die.reset s.dies = true
  siphons : mwf Siphon.reset s.siphons = true
  wells : mwf Wellhead.reset s.wells = true
  routers : mwf Router.reset s.routers = true
  ports : mwf Port.reset s.ports = true
  sheaves : mwf Sheaf.reset s.sheaves = true
  regions : mwf ⟨[], [], []⟩ s.regions = true
  gangs : mwf Gang.none s.gangs = true
  images : mwf none s.images = true
  agenda : inKeyOrder 0 s.agenda = true
  timers : inKeyOrder 0 s.timers = true

/-! ### What an instruction that fires does -/

/-- Slot k of core c of a state holds a block with a property. -/
def BlockHas (s : State) (c k : Nat) (P : Block → Prop) : Prop := ∃ b, blockAt s c k = some b ∧ P b

/-- The instruction has fired in this cycle with the targets ta and tb. -/
def HasTurn (s t : State) (f : Fire) (ta tb : Nat) : Prop :=
  BlockHas t f.c f.k fun b => (⟨f.i, s.cycle, ta, tb⟩ : Fired) ∈ b.fired

/-- The instruction holds an effect for the commit of its block (R157). -/
def HoldsEff (t : State) (f : Fire) (e : Eff) : Prop := BlockHas t f.c f.k fun b => (f.i, e) ∈ b.effs

/-- The tokens of the instruction are delivered at the end of cycle c + 7 (R154). -/
def Delivers (s t : State) (f : Fire) (a b : Token) : Prop :=
  (agendaKey (s.cycle + 7) 2 (f.c * 16 + f.k), Instr.tokenDelivery (.tokens f.id a b)) ∈ t.agenda

/-- An event is pending in a phase and place of the cycle n later; one of this cycle for a die that skips it in the next (R430). -/
def Pends (s t : State) (n phase place : Nat) (e : Instr) : Prop :=
  (agendaKey (dueCycle s n e) phase place, e) ∈ t.agenda

/-- The slot's thread waits and the instruction has not fired (R151). -/
def ParksOn (t : State) (f : Fire) (w : Wait) : Prop :=
  ∃ th, threadAt t f.c f.k = some th ∧ th.wait = w ∧ th.block = some f.b

/-- The instruction fires, delivers one token to both of its targets, raises flags and holds effects for the commit, and
nothing else happens. -/
def Results (i : Instr) (s : State) (f : Fire) (ta tb : Nat) (tok : Token) (fl : NumFlags) (effs : List Eff) : Prop :=
  exec i s = .next (complete s f ta tb tok tok fl effs)

/-- The same with a token for each target. -/
def Results2 (i : Instr) (s : State) (f : Fire) (ta tb : Nat) (a b : Token) (effs : List Eff) : Prop :=
  exec i s = .next (complete s f ta tb a b noFlags effs)

/-- An instruction fires with its predicate holding. -/
def Fires (s : State) (f : Fire) (p : Pred) : Prop := fireAt s = some f ∧ predicateHolds p f = true

/-- It fires on a scalar `.l`. -/
def Fires1 (s : State) (f : Fire) (p : Pred) (a : Word) : Prop := Fires s f p ∧ asScalar f.l = some a

/-- It fires on a scalar `.l` and a scalar `.r`. -/
def Fires2 (s : State) (f : Fire) (p : Pred) (a b : Word) : Prop := Fires1 s f p a ∧ asScalar f.r = some b

/-- It fires on three scalars. -/
def Fires3 (s : State) (f : Fire) (a b q : Word) : Prop := Fires2 s f .always a b ∧ asScalar f.p = some q

/-! ### Integers as their TYPE reads them (R180) -/

/-- The low w bits of a token as a signed or unsigned number. -/
def readAs (ty : IntType) (a : Word) : Int :=
  if intSigned ty then Int.bmod a.toNat (2 ^ intWidth ty) else ((a.toNat % 2 ^ intWidth ty : Nat) : Int)

/-- The number that the low w bits of an exact result stand for. -/
def keptAs (ty : IntType) (x : Int) : Int :=
  if intSigned ty then Int.bmod x (2 ^ intWidth ty) else x % ((2 ^ intWidth ty : Nat) : Int)

/-- The least and the greatest number of a TYPE. -/
def leastInt (ty : IntType) : Int := if intSigned ty then -((2 ^ (intWidth ty - 1) : Nat) : Int) else 0
def greatestInt (ty : IntType) : Int :=
  if intSigned ty then ((2 ^ (intWidth ty - 1) : Nat) : Int) - 1 else ((2 ^ intWidth ty : Nat) : Int) - 1

/-- An integer instruction delivers the number x, extended to 64 bits by its TYPE, to both targets, and raises fl. -/
def GivesInt (i : Instr) (s : State) (f : Fire) (ty : IntType) (ta tb : Nat) (x : Int) (fl : NumFlags) : Prop :=
  ∃ v : Word, Results i s f ta tb (.scalar v) fl [] ∧ (if intSigned ty then v.toInt else (v.toNat : Int)) = x

/-- What MODE makes of an exact result: the low w bits, or the nearer limit with OF. -/
def GivesMode (i : Instr) (s : State) (f : Fire) (ty : IntType) (m : SatMode) (ta tb : Nat) (x : Int) : Prop :=
  match m with
  | .wrap => GivesInt i s f ty ta tb (keptAs ty x) noFlags
  | .sat =>
    if x < leastInt ty then GivesInt i s f ty ta tb (leastInt ty) flagOf
    else if greatestInt ty < x then GivesInt i s f ty ta tb (greatestInt ty) flagOf
    else GivesInt i s f ty ta tb x noFlags

/-- The predicate and the two targets of each instruction whose Null form does nothing but deliver Null (R155, R191); those with
further rules are in `ownForm`. -/
def nullForm : Instr → Option (Pred × Nat × Nat)
  | .br p _ _ => some (p, 511, 511)
  | .call p _ _ => some (p, 511, 511)
  | .lpx p _ _ => some (p, 511, 511)
  | .bri p _ => some (p, 511, 511)
  | .calli p _ => some (p, 511, 511)
  | .ret p _ => some (p, 511, 511)
  | .lpb _ _ ta => some (.always, ta.toNat, 511)
  | .app _ ta => some (.always, ta.toNat, 511)
  | .mov p tb ta => some (p, ta.toNat, tb.toNat)
  | .nul p tb ta => some (p, ta.toNat, tb.toNat)
  | .add p _ _ tb ta => some (p, ta.toNat, tb.toNat)
  | .sub p _ _ tb ta => some (p, ta.toNat, tb.toNat)
  | .mul p _ _ tb ta => some (p, ta.toNat, tb.toNat)
  | .cmp p _ _ tb ta => some (p, ta.toNat, tb.toNat)
  | .mulh p _ tb ta => some (p, ta.toNat, tb.toNat)
  | .div p _ tb ta => some (p, ta.toNat, tb.toNat)
  | .rem p _ tb ta => some (p, ta.toNat, tb.toNat)
  | .andI p _ tb ta => some (p, ta.toNat, tb.toNat)
  | .orI p _ tb ta => some (p, ta.toNat, tb.toNat)
  | .xorI p _ tb ta => some (p, ta.toNat, tb.toNat)
  | .shl p _ tb ta => some (p, ta.toNat, tb.toNat)
  | .shr p _ tb ta => some (p, ta.toNat, tb.toNat)
  | .sar p _ tb ta => some (p, ta.toNat, tb.toNat)
  | .minI p _ tb ta => some (p, ta.toNat, tb.toNat)
  | .maxI p _ tb ta => some (p, ta.toNat, tb.toNat)
  | .lea p _ tb ta => some (p, ta.toNat, tb.toNat)
  | .slice p _ tb ta => some (p, ta.toNat, tb.toNat)
  | .bits p _ tb ta => some (p, ta.toNat, tb.toNat)
  | .tld p _ tb ta => some (p, ta.toNat, tb.toNat)
  | .vred p _ _ tb ta => some (p, ta.toNat, tb.toNat)
  | .addi p _ ta => some (p, ta.toNat, 511)
  | .muli p _ ta => some (p, ta.toNat, 511)
  | .andi p _ ta => some (p, ta.toNat, 511)
  | .ori p _ ta => some (p, ta.toNat, 511)
  | .xori p _ ta => some (p, ta.toNat, 511)
  | .shli p _ ta => some (p, ta.toNat, 511)
  | .shri p _ ta => some (p, ta.toNat, 511)
  | .sari p _ ta => some (p, ta.toNat, 511)
  | .ceqi p _ ta => some (p, ta.toNat, 511)
  | .cnei p _ ta => some (p, ta.toNat, 511)
  | .clti p _ ta => some (p, ta.toNat, 511)
  | .cgei p _ ta => some (p, ta.toNat, 511)
  | .ldN8 p _ _ ta => some (p, ta.toNat, 511)
  | .ldI8 p _ _ ta => some (p, ta.toNat, 511)
  | .ldN16 p _ _ ta => some (p, ta.toNat, 511)
  | .ldI16 p _ _ ta => some (p, ta.toNat, 511)
  | .ldN32 p _ _ ta => some (p, ta.toNat, 511)
  | .ldI32 p _ _ ta => some (p, ta.toNat, 511)
  | .ld64 p _ _ ta => some (p, ta.toNat, 511)
  | .vld p _ _ ta => some (p, ta.toNat, 511)
  | .pref p _ => some (p, 511, 511)
  | .vadd p _ _ tb ta => some (p, ta.toNat, tb.toNat)
  | .vsub p _ _ tb ta => some (p, ta.toNat, tb.toNat)
  | .vmul p _ _ tb ta => some (p, ta.toNat, tb.toNat)
  | .vcmp p _ _ tb ta => some (p, ta.toNat, tb.toNat)
  | .vun p _ _ tb ta => some (p, ta.toNat, tb.toNat)
  | .vmin p _ tb ta => some (p, ta.toNat, tb.toNat)
  | .vmax p _ tb ta => some (p, ta.toNat, tb.toNat)
  | .vshf p _ tb ta => some (p, ta.toNat, tb.toNat)
  | .vbcst p _ tb ta => some (p, ta.toNat, tb.toNat)
  | .vext p _ tb ta => some (p, ta.toNat, tb.toNat)
  | .vmsk p _ tb ta => some (p, ta.toNat, tb.toNat)
  | .vcvt p _ tb ta => some (p, ta.toNat, tb.toNat)
  | .tli p _ tb ta => some (p, ta.toNat, tb.toNat)
  | .vand p tb ta => some (p, ta.toNat, tb.toNat)
  | .vor p tb ta => some (p, ta.toNat, tb.toNat)
  | .vxor p tb ta => some (p, ta.toNat, tb.toNat)
  | .vexp2 p tb ta => some (p, ta.toNat, tb.toNat)
  | .vrcp p tb ta => some (p, ta.toNat, tb.toNat)
  | .vrsq p tb ta => some (p, ta.toNat, tb.toNat)
  | .vldx p _ tb ta => some (p, ta.toNat, tb.toNat)
  | .mprog p tb ta => some (p, ta.toNat, tb.toNat)
  | .cpy p tb ta => some (p, ta.toNat, tb.toNat)
  | .cpyDeal p tb ta => some (p, ta.toNat, tb.toNat)
  | .cpyGath p tb ta => some (p, ta.toNat, tb.toNat)
  | .cpyBin p tb ta => some (p, ta.toNat, tb.toNat)
  | .cpyX p tb ta => some (p, ta.toNat, tb.toNat)
  | .slpt p tb ta => some (p, ta.toNat, tb.toNat)
  | .tset p tb ta => some (p, ta.toNat, tb.toNat)
  | .fwait p tb ta => some (p, ta.toNat, tb.toNat)
  | .join p tb ta => some (p, ta.toNat, tb.toNat)
  | .cunb p tb ta => some (p, ta.toNat, tb.toNat)
  | .crd p tb ta => some (p, ta.toNat, tb.toNat)
  | .crel p tb ta => some (p, ta.toNat, tb.toNat)
  | .cwr p tb ta => some (p, ta.toNat, tb.toNat)
  | .ccmt p tb ta => some (p, ta.toNat, tb.toNat)
  | .rfence p tb ta => some (p, ta.toNat, tb.toNat)
  | .sysr p tb ta => some (p, ta.toNat, tb.toNat)
  | .mlw p => some (p, 511, 511)
  | .mma p => some (p, 511, 511)
  | .mst p => some (p, 511, 511)
  | .mzr p => some (p, 511, 511)
  | .mres p => some (p, 511, 511)
  | .mresDrop p => some (p, 511, 511)
  | .wake p => some (p, 511, 511)
  | .yld p => some (p, 511, 511)
  | .trap p => some (p, 511, 511)
  | .tret p => some (p, 511, 511)
  | .ppt p => some (p, 511, 511)
  | .mmov p _ => some (p, 511, 511)
  | .fill p _ => some (p, 511, 511)
  | .mstg p _ tb ta => some (p, ta.toNat, tb.toNat)
  | .chb p _ tb ta => some (p, ta.toNat, tb.toNat)
  | .tadv p _ tb ta => some (p, ta.toNat, tb.toNat)
  | .cstat p _ tb ta => some (p, ta.toNat, tb.toNat)
  | .chu p _ => some (p, 511, 511)
  | .str p _ _ tb ta => some (p, ta.toNat, tb.toNat)
  | .leave p _ tb ta => some (p, ta.toNat, tb.toNat)
  | .park p => some (p, 511, 511)
  | .halt p => some (p, 511, 511)
  | .tretRetry p => some (p, 511, 511)
  | .sysw p ta => some (p, ta.toNat, 511)
  | .wr r => if r.cls = 3 then none else some (.always, 511, 511)
  | .vfma _ _ tb ta => some (.always, ta.toNat, tb.toNat)
  | .vsel _ tb ta => some (.always, ta.toNat, tb.toNat)
  | .vins _ tb ta => some (.always, ta.toNat, tb.toNat)
  | .spawn tb ta => some (.always, ta.toNat, tb.toNat)
  | .spawnAt tb ta => some (.always, ta.toNat, tb.toNat)
  | .cbind tb ta => some (.always, ta.toNat, tb.toNat)
  | .cset tb ta => some (.always, ta.toNat, tb.toNat)
  | .mlwS => some (.always, 511, 511)
  | .mmaS => some (.always, 511, 511)
  | .mstgS _ tb ta => some (.always, ta.toNat, tb.toNat)
  | _ => none

/-- Whether a Null in `.l` makes an instruction of that list emit Null (R155); a vector instruction treats nulls element by element,
and of a wholly Null operand every element is null (R190). -/
def usesLeft : Instr → Bool
  | .br .. | .call .. | .lpx .. | .nul .. | .chu .. | .leave .. | .park .. | .halt .. | .tretRetry .. | .vsel .. | .vins .. => false
  | _ => true

/-- The same of a Null in `.r`. -/
def usesRight : Instr → Bool
  | .add .. | .sub .. | .mul .. | .cmp .. | .mulh .. | .div .. | .rem .. | .andI .. | .orI .. | .xorI .. | .shl .. | .shr ..
  | .sar .. | .minI .. | .maxI .. | .lea .. | .slice .. => true
  | .bits _ op _ _ => decide (op = .ext ∨ op = .sext)
  | .vbcst _ m _ _ => decide (m ≠ .s16)
  | .vadd .. | .vsub .. | .vmul .. | .vcmp .. | .vmin .. | .vmax .. | .vand .. | .vor .. | .vxor .. | .vfma .. | .vshf ..
  | .vext .. | .vmsk .. | .vins .. | .vldx .. => true
  | .str .. | .cstat .. | .mprog .. | .mlw .. | .mma .. | .mst .. | .mzr .. | .mmov .. | .mstg .. | .mlwS .. | .mmaS ..
  | .mstgS .. | .cpy .. | .cpyDeal .. | .cpyGath .. | .cpyBin .. | .cpyX .. => true
  | .crel .. | .cwr .. | .ccmt .. | .cunb .. | .ppt .. | .fill .. | .sysw .. | .spawn .. | .spawnAt .. | .cbind .. | .cset .. => true
  | _ => false

/-- The same of a Null in `.p`, where `.p` holds data. -/
def usesThird : Instr → Bool
  | .vfma .. | .vsel .. | .vins .. | .spawn .. | .spawnAt .. | .cbind .. | .cset .. | .mlwS .. | .mmaS .. | .mstgS .. => true
  | _ => false

/-- The instructions for whose Null form R155 has further rules: the predicate, the two targets, and whether a Null in `.l`, in `.r`
and in `.p` makes them emit Null. -/
def ownForm : Instr → Option (Pred × Nat × Nat × Bool × Bool × Bool)
  | .st8 p _ _ | .st16 p _ _ | .st32 p _ _ | .st64 p _ _ | .vst p _ _ => some (p, 511, 511, true, true, false)
  | .vstx _ => some (.always, 511, 511, true, true, true)
  | .lds p _ _ ta => some (p, ta.toNat, 511, true, false, false)
  | .sts p _ _ => some (p, 511, 511, true, true, false)
  | .amo p op _ tb ta => some (p, ta.toNat, tb.toNat, true, true, decide (op = .cas))
  | .bump p tb ta => some (p, ta.toNat, tb.toNat, true, true, false)
  | .sacq p tb ta => some (p, ta.toNat, tb.toNat, true, false, false)
  | .sacqp p tb ta => some (p, ta.toNat, tb.toNat, true, true, false)
  | .fence p _ _ => some (p, 511, 511, false, false, false)
  | _ => none

/-- What such a form does when it emits Null: it fires and delivers Null to its targets; its block holds no effect more, raises no
flag and names no exit, and no byte of memory changes. -/
def EmitsNull (i : Instr) (s : State) (f : Fire) (ta tb : Nat) : Prop :=
  ∃ t, exec i s = .next t ∧ HasTurn s t f ta tb ∧ Delivers s t f .null .null ∧ t.mem = s.mem ∧ t.empty = s.empty ∧
    BlockHas t f.c f.k fun b => b.effs = f.b.effs ∧ b.flags = f.b.flags ∧ b.exit = f.b.exit

/-! ### Exits, and accesses to the own cistern -/

/-- An exit instruction fires its exit (R156): beside what a delivery of Null at c + 7 changes, the block names its exit. -/
def FiresExit (i : Instr) (s : State) (f : Fire) (lpx : Bool) (target : Word) (effs : List Eff) : Prop :=
  ∃ t, exec i s = .next t ∧ t = { complete s f 511 511 .null .null noFlags effs with slots := t.slots } ∧
    threadAt t f.c f.k =
      (threadAt (complete s f 511 511 .null .null noFlags effs) f.c f.k).map (withExit ⟨f.i, lpx, target⟩) ∧
    (f.k < 16 → ∀ c k, k < 16 → (c, k) ≠ (f.c, f.k) → slotAt t c k = slotAt s c k)

/-- A service fault of the thread (R388, R389): it waits for its acknowledgement, its bit of FPEND is set, and its record holds
the cause, the address of the block, the information and the time. -/
def TakesService (t : State) (f : Fire) (cause reason : Nat) (info : Word) : Prop :=
  (∃ th, threadAt t f.c f.k = some th ∧ th.wait = .fault ∧ th.ltime = f.th.ltime) ∧
  (creg t f.c 0x0F10).getLsbD f.k = true ∧
  creg t f.c (0x1000 + 32 * f.k) = causeWord false f.i reason cause ∧
  creg t f.c (0x1008 + 32 * f.k) = f.b.addr ∧
  creg t f.c (0x1010 + 32 * f.k) = info ∧
  creg t f.c (0x1018 + 32 * f.k) = f.th.ltime

/-- What a fault of an instruction leaves alone (R156, R388): beside the turn that the instruction has taken, the fault record of its
slot, RETRIES and the reservations of its block in cells, which are undone, nothing has changed: no register of the thread or of its
core, no flag, no frame, no memory; the block is stopped and holds no effect. -/
structure FaultKeeps (s t : State) (f : Fire) : Prop where
  rest : t = { s with agenda := t.agenda, slots := t.slots, cores := t.cores }
  thread : threadAt t f.c f.k = some { f.th with wait := .fault, since := s.cycle, block := blockAt t f.c f.k }
  block : BlockHas t f.c f.k fun b => b = { f.b with fired := b.fired, stopped := true, effs := [], resv := [], jobs := [] }
  slot : slotAt t f.c f.k = { slotAt s f.c f.k with
    lastIssue := some s.cycle, thread := threadAt t f.c f.k, undo := (slotAt t f.c f.k).undo }
  slots : ∀ c k, k < 16 → (c, k) ≠ (f.c, f.k) → slotAt t c k = slotAt s c k
  cores : ∀ c, coreAt t c = { coreAt s c with
    regs := (coreAt t c).regs, cells := (coreAt t c).cells, held := (coreAt t c).held,
    lastIssue := (coreAt t c).lastIssue, busy := (coreAt t c).busy }
  others : ∀ c off, c ≠ f.c → creg t c off = creg s c off
  regs : ∀ off, off ≠ 0x0EA0 → off ≠ 0x0EB8 → off ≠ 0x0F10 → (off < 0x1000 + 32 * f.k ∨ 0x1020 + 32 * f.k ≤ off) →
    creg t f.c off = creg s f.c off

/-- A block in progress: neither stopped by a fault nor held by one. -/
def InProgress (f : Fire) : Prop := f.b.stopped = false ∧ f.th.wait ≠ .fault ∧ f.k < 16 ∧ f.c < 2304

/-- n bytes at a virtual address of the own cistern that nothing protects: no range lock, no cell of the core. -/
structure OwnBytes (s : State) (f : Fire) (va n : Nat) : Prop where
  low : 0x1000 ≤ va
  high : va + n ≤ 0x12_7000
  core : f.c < 2304
  slot : f.k < 16
  locks : (coreAt s f.c).locks = []
  cells : (coreAt s f.c).cells = []

/-- Nothing that the access has to wait for: no store and no acquire in its block, no store word of its core under way. -/
structure OwnRead (s : State) (f : Fire) (va n : Nat) : Prop extends OwnBytes s f va n where
  home : reachable s (.cistern f.c va) = true
  sent : (coreAt s f.c).sent = []
  words : ∀ w ∈ f.b.words, isStoreOp (opOf w.toNat) = false ∧ opOf w.toNat ≠ 0x69 ∧ opOf w.toNat ≠ 0x6A
  effs : ∀ e ∈ f.b.effs, ∀ m sl bs, e.2 ≠ .store m sl bs
  pend : ∀ e ∈ f.b.pend, e.1 ≠ f.i

/-- The instruction asks its own cistern in this cycle for n bytes from va, with an operation at the owner; memory stays. -/
def AsksOwn (i : Instr) (s : State) (f : Fire) (ta tb : Nat) (op : AccOp) (kind : AccKind) (va n : Nat) : Prop :=
  ∃ t, exec i s = .next t ∧ HasTurn s t f ta tb ∧
    Pends s t 0 1 (f.c * 16 + f.k) (.ownerAccess
      ⟨f.id, op, (List.range n).map fun j => (j, cisternPa f.c va + j), slackOf f, false, streamOf f, .own, none⟩) ∧
    BlockHas t f.c f.k (fun b => ∃ x ∈ b.pend, x.1 = f.i ∧ x.2.acc.kind = kind ∧ x.2.ask = [] ∧ x.2.out = 1) ∧
    t.mem = s.mem ∧ t.empty = s.empty

/-- A store holds its bytes for the commit and changes no memory yet. -/
def HoldsStore (i : Instr) (s : State) (f : Fire) (lsid va : Nat) (bytes : List (Nat × Byte)) : Prop :=
  ∃ t, exec i s = .next t ∧ HasTurn s t f 511 511 ∧ Delivers s t f .null .null ∧
    HoldsEff t f (.store lsid (slackOf f) (bytes.map fun x =>
      (cisternPa f.c va + x.1, BitVec.ofNat 64 (va + x.1), x.2))) ∧
    t.mem = s.mem ∧ t.empty = s.empty

/-! ### Deliveries and commits (R154, R156, R157) -/

/-- The execution of a block runs in its slot. -/
structure Runs (s : State) (id : ExecId) (x : Block) : Prop where
  here : blockAt s id.core id.slot = some x
  gen : x.gen = id.gen
  going : x.stopped = false

/-- It waits for the answer of an access. -/
structure Awaits (s : State) (id : ExecId) (x : Block) (p : Pending) : Prop extends Runs s id x where
  pend : pendOf x id.idx = some p

/-- An event makes the block x of an execution the block y and changes no memory; when that completes a block whose exit has fired, its
commit is pending in this cycle (R156). -/
def BlockBecomes (s : State) (e : Instr) (id : ExecId) (x y : Block) : Prop :=
  (x.exit ≠ none ∨ isComplete y = false) → (∀ e ∈ s.agenda, e.2 ≠ .blockCommit id.core id.slot x.gen) →
  ∃ u, exec e s = .next u ∧ blockAt u id.core id.slot = some y ∧ u.mem = s.mem ∧ u.empty = s.empty ∧
    (isComplete y = true → Pends s u 0 3 (id.core * 16 + id.slot) (.blockCommit id.core id.slot x.gen))

/-- A block whose commit waits for nothing, in a thread that no pre-emption, cut, FILL or store word under way concerns, which has not ended and
owes nothing, with nothing popped in its retry latch. -/
structure MayCommit (s : State) (c k : Nat) (t : Thread) (b : Block) (x : ExitFired) : Prop where
  thread : threadAt s c k = some t
  block : t.block = some b
  exit : b.exit = some x
  running : b.stopped = false
  core : isFenced s c = false
  stays : t.wait ≠ .swapping
  slot : k < 16
  pops : popCounts t.retry = []
  fits : fullTables s c (deltasOf (blockCounts s c t b x)) (orderedEffs b) = []
  spills : dequeFits (coreAt s c) 0 = true
  release : fenceScope b isRelease = none
  fills : (coreAt s c).fills = []
  sent : (coreAt s c).sent = []
  lives : t.ending = false ∧ t.owed = []
  preempt : creg s c 0x0F28 = 0
  cut : (coreAt s c).cutSeen = false

/-- The commit of the block in a slot leaves its thread there, without a block and with an empty retry latch, and P holds. -/
def CommitGives (s : State) (c k : Nat) (b : Block) (P : State → Thread → Prop) : Prop :=
  ∃ u th, exec (.blockCommit c k b.gen) s = .next u ∧ threadAt u c k = some th ∧ th.block = none ∧ th.retry = none ∧ P u th

/-! ### Vector elements (R186, R187, R190) -/

/-- Element j of a token read as a vector: a half or a lane, when it is live. -/
def elemOf (half : Bool) (t : Token) (j : Nat) : Option Nat :=
  if half then liveHalf (asVec t) j else liveLane (asVec t) j

/-- The number of elements: 64 halves or 32 lanes. -/
def elemCount (half : Bool) : Nat := if half then 64 else 32

/-- An instruction delivers one vector token to both targets, element j of it being g j, and raises fl. -/
def GivesElems (i : Instr) (s : State) (f : Fire) (ta tb : Nat) (half : Bool) (g : Nat → Option Nat)
    (fl : NumFlags) : Prop :=
  ∃ tok, Results i s f ta tb tok fl [] ∧ ∀ j, j < elemCount half → elemOf half tok j = g j

/-- The width of an element. -/
def elemWidth (half : Bool) : Nat := if half then 16 else 32

/-- Elements made from one operand or from two: null where an input element is null (R190). -/
def onElem (half : Bool) (a : Token) (g : Nat → Nat) (j : Nat) : Option Nat := (elemOf half a j).map g
def onElems (half : Bool) (a b : Token) (g : Nat → Nat → Nat) (j : Nat) : Option Nat :=
  (elemOf half a j).bind fun x => (elemOf half b j).map (g x)

/-- The flags of live elements together. -/
def allFlags (half : Bool) (g : Nat → Option NumFlags) : NumFlags :=
  (List.range (elemCount half)).foldl (fun a j => (g j).elim a fun x => a.or x) noFlags

/-- An element of an integer VT as a number, and the bits of a number in an element. -/
def elemInt (vt : VecType) (x : Nat) : Int := if (vtInt vt).2 then Int.bmod x (2 ^ (vtInt vt).1) else x
def elemOfInt (vt : VecType) (x : Int) : Nat := (x % ((2 ^ (vtInt vt).1 : Nat) : Int)).toNat

/-! ### Reductions and rounding (R49, R59, R61, R63, R65) -/

/-- Node i of level k of the tree of R65 with its flags: level 0 holds the elements; a node with one null input passes the other
through. -/
def treeNode (g : Nat → Nat → Nat × NumFlags) (leaf : Nat → Option Nat) : Nat → Nat → Option Nat × NumFlags
  | 0, i => (leaf i, noFlags)
  | k + 1, i =>
    let a := treeNode g leaf k (2 * i)
    let b := treeNode g leaf k (2 * i + 1)
    match a.1, b.1 with
    | some x, some y => (some (g x y).1, (a.2.or b.2).or (g x y).2)
    | some x, none => (some x, a.2.or b.2)
    | none, y => (y, a.2.or b.2)

/-- The fields of an encoding (R49): its sign, exponent and fraction. -/
def signOf (q : FloatFmt) (x : Nat) : Bool := x.testBit (q.eb + q.fb)
def expOf (q : FloatFmt) (x : Nat) : Nat := x / 2 ^ q.fb % 2 ^ q.eb
def fracOf (q : FloatFmt) (x : Nat) : Nat := x % 2 ^ q.fb

/-- Whether an encoding is a finite number, an infinity, a NaN, a signalling NaN. -/
def isFinite (q : FloatFmt) (x : Nat) : Bool := decide (expOf q x ≠ 2 ^ q.eb - 1)
def isInf (q : FloatFmt) (x : Nat) : Bool := !isFinite q x && decide (fracOf q x = 0)
def isNaN (q : FloatFmt) (x : Nat) : Bool := !isFinite q x && decide (fracOf q x ≠ 0)
def isSignalling (q : FloatFmt) (x : Nat) : Bool := isNaN q x && !x.testBit (q.fb - 1)

/-- The canonical quiet NaN (R50). -/
def quietNaN (q : FloatFmt) : Nat := (2 ^ q.eb - 1) * 2 ^ q.fb + 2 ^ (q.fb - 1)

/-- The exponent of the least unit of a layout above −298: every finite number of FP32, BF16 and FP16 is a whole number of units of
2^−298, and every product of two a whole number of units of 2^−596. -/
def leastExp (q : FloatFmt) : Nat := 300 - 2 ^ (q.eb - 1) - q.fb

/-- A finite number in units of 2^−298. -/
def floatUnits (q : FloatFmt) (x : Nat) : Int :=
  (if signOf q x then -1 else 1) *
    (((if expOf q x = 0 then fracOf q x else 2 ^ q.fb + fracOf q x) * 2 ^ (leastExp q + (expOf q x - 1)) : Nat) : Int)

/-- The last place of the largest finite number, and that number, in units of 2^−596. -/
def lastUnit (q : FloatFmt) : Nat := 2 ^ (leastExp q + (2 ^ q.eb - 3)) * 2 ^ 298
def topUnits (q : FloatFmt) : Nat := (2 ^ (q.fb + 1) - 1) * lastUnit q

/-- Of the candidates `ok`, y is the one that a rounding mode picks for the number r (R59). -/
def Picks {α : Type} (ok : α → Prop) (val : α → Int) (even : α → Prop) (m : RoundMode) (r : Int) (y : α) : Prop :=
  ok y ∧ ∀ z, ok z →
    match m with
    | .rne => (val y - r).natAbs ≤ (val z - r).natAbs ∧
      (val z ≠ val y → (val z - r).natAbs = (val y - r).natAbs → even y)
    | .rna => (val y - r).natAbs ≤ (val z - r).natAbs ∧
      (val z ≠ val y → (val z - r).natAbs = (val y - r).natAbs → (val z).natAbs < (val y).natAbs)
    | .rtz => (val y).natAbs ≤ r.natAbs ∧ 0 ≤ val y * r ∧
      ((val z).natAbs ≤ r.natAbs → 0 ≤ val z * r → (val z).natAbs ≤ (val y).natAbs)
    | .rup => r ≤ val y ∧ (r ≤ val z → val y ≤ val z)
    | .rdn => val y ≤ r ∧ (val z ≤ r → val z ≤ val y)

/-- The encoding y is the finite number that a mode picks for r units of 2^−596, with the sign of r when r is not 0. -/
def FloatPicks (q : FloatFmt) (m : RoundMode) (r : Int) (y : Nat) : Prop :=
  Picks (fun z => z < 2 * q.signBit ∧ isFinite q z = true) (fun z => floatUnits q z * 2 ^ 298) (fun z => z % 2 = 0) m r y ∧
    (r ≠ 0 → signOf q y = decide (r < 0))

/-- A result of the vector unit: r units of 2^−596 rounded once with RNE, with OF from half a last place beyond the largest finite
number on, and UF for a result that is inexact and, rounded to the precision of the layout with no bound on its exponent, less than
the least normal number (R63, R66). -/
def RoundedRne (q : FloatFmt) (r : Int) (res : Nat × NumFlags) : Prop :=
  if 2 * r.natAbs < 2 * topUnits q + lastUnit q then
    FloatPicks q .rne r res.1 ∧ res.2.of = false ∧ res.2.inv = false ∧
      (res.2.uf = true ↔ floatUnits q res.1 * 2 ^ 298 ≠ r ∧
        4 * r.natAbs + 2 ^ leastExp q * 2 ^ 298 < 4 * (2 ^ (q.fb + leastExp q) * 2 ^ 298))
  else res = ((if r < 0 then q.signBit else 0) + (2 ^ q.eb - 1) * 2 ^ q.fb, flagOf)

/-- An event waits for a device tick. -/
def Timed (t : State) (n : Nat) (e : Instr) : Prop := (n, e) ∈ t.timers

/-! ### Queue records -/

/-- The four dies agree on the record of a queue, whose owner is a die and whose VERSION has 32 bits (R92, R93). -/
structure Agreed (s : State) (q : Nat) (r : QueueRec) : Prop where
  replicas : ∀ d, d < 4 → recOn s d q = r
  owner : r.owner < 4
  version : r.version < 2 ^ 32

/-- A message of a unit is on its way from one router to another as a packet of SLACK 32, its event in `mail` (R10, R309); within one
router its event is due in the next cycle. -/
def Mailed (s t : State) (src dst phase place : Nat) (e : Instr) : Prop :=
  if src = dst then Pends s t 1 phase place e
  else ∃ id, (⟨id, src, dst, phase, place, e, false⟩ : Mail) ∈ t.mail ∧
    ∃ x ∈ (routerAt t src).packets ++ (routerAt t src).offered,
      x.1 = 6 ∧ x.2.id ≠ id ∧ x.2.msg = .unit id ∧ x.2.dst = .core dst ∧ x.2.slack = 32 ∧ x.2.exh = false

/-- One update of a record by its owner (R93): it holds the new record with the next VERSION, and each of the other three dies has
it on its way over the bridges. -/
def RecordIs (s t : State) (q : Nat) (old new_ : QueueRec) : Prop :=
  let n : QueueRec := { new_ with version := (old.version + 1) % 2 ^ 32 }
  queueRec t q = n ∧ ∀ d, d < 4 → d ≠ n.owner →
    Mailed s t (unitRouter n.owner) (unitRouter d) 5 (57000 + d * 256 + q) (.recordUpdate d q n)

/-- The lease of a leader at an epoch runs from now (R97): its own record says so, each other live die is told, and it renews again in
2,000,000 ticks. -/
def LeaseRuns (s t : State) (leader epoch : Nat) : Prop :=
  (dieAt t leader).lease.leader = some leader ∧ (dieAt t leader).lease.epoch = epoch ∧
    (dieAt t leader).lease.expiry = s.tick + 10_000_000 ∧ Timed t (s.tick + 2_000_000) (.leaseRenewal (.renew leader)) ∧
    ∀ d, d < 4 → d ≠ leader → dieFenced s d = false →
      Mailed s t (unitRouter leader) (unitRouter d) 5 (29105 + d) (.leaseRenewal (.told d leader epoch (s.tick + 10_000_000)))

/-- A cell instruction of a running block names the cell i of its own core (R343). -/
structure OwnCell (s : State) (r : CellReq) (i : Nat) : Prop where
  named : cellNamed r.cell = some (r.id.core, i)
  current : isCurrent s r.id = true

/-- HELD_DECISION decides a request (R343): its status and its other result come to the issuing core's thread, no byte of memory changes,
and P holds. -/
def Decides (s : State) (r : CellReq) (st : Nat) (other : Token) (P : State → Prop) : Prop :=
  ∃ u, exec (.heldDecision r) s = .next u ∧ u.mem = s.mem ∧ P u ∧ ∃ n, s.cycle ≤ n ∧
    (agendaKey n 2 (r.id.core * 16 + r.id.slot), Instr.tokenDelivery (.cell ⟨r.id, st, other⟩)) ∈ u.agenda

/-- HELD_DECISION holds the request at its home core, here the issuing core, and does nothing else. -/
def StaysHeld (s : State) (r : CellReq) : Prop :=
  ∃ u, exec (.heldDecision r) s = .next u ∧ u = { s with cores := u.cores } ∧
    (coreAt u r.id.core).held = (coreAt s r.id.core).held ++ [r]

/-- All that the accesses of a command have asked for has come, its data is not withheld, and its work is still to be done. -/
def AllCome (x : Xfer) : Prop := x.withheld = false ∧ x.result = none ∧ x.asked = x.reads.length ∧ x.out = 0

/-- Memory and every thread stay. -/
def Quiet (s t : State) : Prop := t.mem = s.mem ∧ t.slots = s.slots

end Sys2Proof.Machine
end

