-- ==== Sys2Proof/Certificates/Slice0/Obligations.lean ====
section
/-! DEFINITION. The statements for the provers, from the numbered rules of the spec: the encoding, the step, the form of the
state, each instruction's result, and what each event changes. -/

section

open Sys2Proof Sys2Proof.Machine

/-! ### Encoding -/

/-- Decoding the word of a well-formed encoded instruction gives the instruction back, with every operand (R129-R137). -/
def Obligations.DecodeOfEncode : Prop :=
  ∀ (i : Instr) (w : BitVec 32), wellFormed i = true → encode i = some w → decode w = .ok i

/-- A word that decodes has one meaning: its instruction is well-formed and is encoded by that very word. -/
def Obligations.DecodedWordsAreEncodings : Prop :=
  ∀ (i : Instr) (w : BitVec 32), decode w = .ok i → wellFormed i = true ∧ encode i = some w

/-- Words written out bit by bit from the formats of R129 and the opcodes of R136, one or more of each family, each with the
instruction that it stands for. -/
def Obligations.DecodedWords : Prop :=
  decode 0b0000001_11_001_00000000000000000110#32 = .ok (.br .onTrue 1 6) ∧
  decode 0b0001101_100_000110_00000000_00000011#32 = .ok (.rd ⟨4, 6⟩ 0 3) ∧
  decode 0b0010000_00_01101_111111111_000000111#32 = .ok (.add .always .i8 .sat 511 7) ∧
  decode 0b0100001_00_11111111111101_010000010#32 = .ok (.muli .always 0x3FFD 130) ∧
  decode 0b0110000_00_00010_111111111_010000011#32 = .ok (.ldN8 .always 2 511 131) ∧
  decode 0b0111010_00_00101_000000000000000010#32 = .ok (.st64 .always 5 2) ∧
  decode 0b0111101_00_11011_111111111_000000101#32 = .ok (.amo .always .cas .n32 511 5) ∧
  decode 0b1000110_00_00010_111111111_100000100#32 = .ok (.vcmp .always .fp32 .lt 511 260) ∧
  decode 0b1010001_00_00101_111111111_000000100#32 = .ok (.vred .always .bf16 .max 511 4) ∧
  decode 0b1100101_00_00101_111111111_000000101#32 = .ok (.mstgS 1 511 5) ∧
  decode 0b1101000_00_01100_111111111_000000100#32 = .ok (.cpyBin .always 511 4) ∧
  decode 0b1101110_00_00001_111111111_000000110#32 = .ok (.str .always 0 true 511 6) ∧
  decode 0b1110000_11_01001_111111111_111111111#32 = .ok (.fence .onTrue .region .rel) ∧
  decode 0b1110100_00_00101_111111111_000000100#32 = .ok (.leave .always true 511 4) ∧
  decode 0b1111100_00_00101_111111111_111111111#32 = .ok (.tretRetry .always) ∧
  decode 0b1111110_00_00000_000000101_000000100#32 = .ok (.sysr .always 5 4)

/-! ### The step -/

/-- An event that is due runs: the first pending event, when it comes before the cycle's issue, or when no core issues any more and
it belongs to this cycle, whose issue is then over (log entry 1, the model's order). -/
def Claims.StepRunsDueEvent : Prop :=
  ∀ (s : State) (k : Nat) (e : Instr) (rest : List (Nat × Instr)), s.agenda = (k, e) :: rest →
    (k < agendaKey s.cycle 1 0 → step s = exec e { s with agenda := rest }) ∧
    (agendaKey s.cycle 1 0 ≤ k → k < agendaKey (s.cycle + 1) 0 0 →
      (s.issueOver = true ∨ nextIssue s (listedCores s) = none) →
      step s = exec e { s with agenda := rest, issueOver := true })

/-- A slot that issues runs the instruction that its word decodes to: while the issue of the cycle is not over and with no event
due before it, the step of a state whose next issue is instruction x.idx of slot x.slot of core x.core is exec of the decoded
word, with ctx naming it. -/
def Obligations.StepRunsDecodedWord : Prop :=
  ∀ (s : State) (x : Ctx) (b : Block) (i : Instr),
    s.issueOver = false → (∀ e ∈ s.agenda.head?, agendaKey s.cycle 1 0 ≤ e.1) → nextIssue s (listedCores s) = some x →
    blockAt s x.core x.slot = some b → decodeNat (wordOf b x.idx) = .ok i →
    step s = exec i { s with ctx := x }

/-- With no event left in the cycle and no core that issues, the cycle counter advances by one, the issue of the next cycle
begins, and nothing but the clock, the timers, the pending events, STRETCHCNT and the dies' place in their clocks changes. While no
die's clock is stretched, slots, cores, routers and dies stay whole. When a die skips the cycle (R430, log entry 155), each of its
threads keeps all but the cycles that it counts by: its registers, time and position, and its block with what has fired and arrived. -/
def Claims.StepAdvancesCycle : Prop :=
  ∀ s : State, (s.issueOver = true ∨ nextIssue s (listedCores s) = none) →
    (∀ e ∈ s.agenda.head?, agendaKey (s.cycle + 1) 0 0 ≤ e.1) →
    ∃ t, step s = .next t ∧ t.cycle = s.cycle + 1 ∧ t.issueOver = false ∧ t.mail = s.mail ∧ t.mem = s.mem ∧ t.empty = s.empty ∧
      t.sheaves = s.sheaves ∧ t.siphons = s.siphons ∧ t.wells = s.wells ∧ t.ports = s.ports ∧ t.regions = s.regions ∧ t.root = s.root ∧
      t.gangs = s.gangs ∧ t.flash = s.flash ∧ t.out = s.out ∧ (∀ off, off ≠ 0x0928 → mreg t off = mreg s off) ∧
      ((∀ d ∈ s.dies, d.2.stretched = false ∧ d.2.skips = false) →
        t.slots = s.slots ∧ t.cores = s.cores ∧ t.routers = s.routers ∧ t.dies = s.dies) ∧
      (Canonical s → ∀ c k, k < 16 →
        (slotAt t c k).state = (slotAt s c k).state ∧ (slotAt t c k).incarn = (slotAt s c k).incarn ∧
        (threadAt s c k = none → threadAt t c k = none) ∧
        ∀ th, threadAt s c k = some th → ∃ u, threadAt t c k = some u ∧
          u = { th with
            since := u.since, wait := u.wait, waits := u.waits, resumeWaits := u.resumeWaits, parkedOn := u.parkedOn,
            block := u.block } ∧
          u.block.map (fun b : Block => { b with fired := b.fired.map fun (f : Fired) => { f with cycle := 0 } }) =
            th.block.map fun b : Block => { b with fired := b.fired.map fun (f : Fired) => { f with cycle := 0 } })

/-- The barrel (R149-R151, R153): the slot that issues is able, has issued nothing in the seven cycles before, issues its lowest-indexed
ready instruction, and is the cycle's owner or the lowest-numbered able slot while the owner is not able. The owner is counted in the
cycles of the core's die, none of whose cores issues in a cycle that the die skips (R430; that they count so is log entry 155). -/
def Obligations.BarrelOrder : Prop :=
  ∀ (s : State) (c k i : Nat), issuer s c = some (k, i) →
    (∀ n, (slotAt s c k).lastIssue = some n → n + 8 ≤ s.cycle) ∧
    (∃ t b, threadAt s c k = some t ∧ t.block = some b ∧ isReady s c k t b i = true ∧
      ∀ j, j < i → isReady s c k t b j = false) ∧
    (k = coreCycle s c % 16 ∨ ableIdx s c (coreCycle s c % 16) = none ∧ ∀ j, j < k → ableIdx s c j = none) ∧
    (dieAt s (dieOf c)).skips = false

/-- The cycle counter stays or advances by one in a step, but for POWER_ON_RESET and POWER_LOSS, which set it to 0. -/
def Claims.CycleCounter : Prop :=
  ∀ s t : State, step s = .next t → t.cycle = s.cycle ∨ t.cycle = s.cycle + 1 ∨
    t.cycle = 0 ∧ ((∃ u, nextTurn s = .event .powerOnReset u) ∨ ∃ b u, nextTurn s = .event (.powerLoss b) u)

/-! ### The form of the state -/

/-- Every step keeps the canonical form: memory and every sparse map list their keys once, in rising order, and no entry that
reads as an unlisted one; the pending events stay in the order of their keys. -/
def Obligations.StepKeepsCanonical : Prop :=
  ∀ s t : State, Canonical s → step s = .next t → Canonical t

/-- The state after reset is in the canonical form. -/
def Obligations.ResetCanonical : Prop := Canonical State.reset

/-! ### Instructions that deliver tokens at c + 7 -/

/-- What an instruction changes when it fires, delivers its tokens and holds effects for the commit (R154, R157): its own block
gains the firing, the flags and the effects; its slot and its core have issued in this cycle, and the core counts it in
ISSUED; the delivery is pending for cycle c + 7, which for an instruction with no target is the model's choice (log entry 18).
Memory, every register, every other slot and core, and all else stay. -/
def Obligations.CompletionChanges : Prop :=
  ∀ (s : State) (f : Fire) (ta tb : Nat) (a b : Token) (fl : NumFlags) (effs : List Eff),
    fireAt s = some f → f.k < 16 →
    let t := complete s f ta tb a b fl effs
    t = { s with agenda := t.agenda, slots := t.slots, cores := t.cores } ∧
    (∀ e, e ∈ t.agenda ↔ e ∈ s.agenda ∨
      e = (agendaKey (s.cycle + 7) 2 (f.c * 16 + f.k), .tokenDelivery (.tokens f.id a b))) ∧
    (∀ c k, k < 16 → (c, k) ≠ (f.c, f.k) → slotAt t c k = slotAt s c k) ∧
    slotAt t f.c f.k = { slotAt s f.c f.k with lastIssue := some s.cycle, thread := threadAt t f.c f.k } ∧
    threadAt t f.c f.k = some { f.th with
      wait := .nothing,
      block := some { f.b with
        fired := f.b.fired ++ [⟨f.i, s.cycle, ta, tb⟩], flags := f.b.flags.or fl,
        effs := f.b.effs ++ effs.map fun e => (f.i, e) } } ∧
    (∀ c, c ≠ f.c → coreAt t c = coreAt s c) ∧
    coreAt t f.c = { coreAt s f.c with
      lastIssue := some s.cycle, regs := (coreAt t f.c).regs, busy := (coreAt s f.c).busy + 1 } ∧
    creg t f.c 0x0EA0 = addSat64 (creg s f.c 0x0EA0) 1 ∧
    ∀ c off, off ≠ 0x0EA0 → creg t c off = creg s c off

/-- ADD, SUB and MUL: the exact sum, difference or product of the operands as TYPE reads them, its low w bits under wrapping,
the nearer limit with OF under `.SAT` (R180). -/
def Claims.AddSubMulResults : Prop :=
  ∀ (s : State) (f : Fire) (p : Pred) (ty : IntType) (m : SatMode) (tb ta : Target) (a b : Word), Fires2 s f p a b →
    GivesMode (.add p ty m tb ta) s f ty m ta.toNat tb.toNat (readAs ty a + readAs ty b) ∧
    GivesMode (.sub p ty m tb ta) s f ty m ta.toNat tb.toNat (readAs ty a - readAs ty b) ∧
    GivesMode (.mul p ty m tb ta) s f ty m ta.toNat tb.toNat (readAs ty a * readAs ty b)

/-- DIV and REM: no trap and no flag; a divisor 0 gives every bit set and the dividend; the signed minimum by -1 gives the minimum
and 0; otherwise the quotient truncates toward zero and the remainder takes the sign of the dividend (R52, R180). -/
def Obligations.DivRemResults : Prop :=
  ∀ (s : State) (f : Fire) (p : Pred) (ty : IntType) (tb ta : Target) (a b : Word), Fires2 s f p a b →
    let x := readAs ty a
    let y := readAs ty b
    let special := intSigned ty = true ∧ x = leastInt ty ∧ y = -1
    GivesInt (.div p ty tb ta) s f ty ta.toNat tb.toNat
      (if y = 0 then (if intSigned ty then -1 else greatestInt ty) else if special then leastInt ty else x.tdiv y) noFlags ∧
    GivesInt (.rem p ty tb ta) s f ty ta.toNat tb.toNat
      (if y = 0 then x else if special then 0 else x.tmod y) noFlags

/-- MULH, AND, OR, XOR, SHL, SHR, SAR, MIN, MAX and CMP (R180): the exact result of the table on the operands as TYPE reads
them, its low w bits extended by TYPE; CMP delivers 1 or 0. -/
def Claims.IntegerResults : Prop :=
  ∀ (s : State) (f : Fire) (p : Pred) (ty : IntType) (c : Cond) (tb ta : Target) (a b : Word), Fires2 s f p a b →
    let x := readAs ty a
    let y := readAs ty b
    let w := intWidth ty
    let low := a.toNat % 2 ^ w
    let n := b.toNat % w
    GivesInt (.mulh p ty tb ta) s f ty ta.toNat tb.toNat (keptAs ty (x * y / ((2 ^ w : Nat) : Int))) noFlags ∧
    GivesInt (.andI p ty tb ta) s f ty ta.toNat tb.toNat (keptAs ty ((low &&& b.toNat % 2 ^ w : Nat) : Int)) noFlags ∧
    GivesInt (.orI p ty tb ta) s f ty ta.toNat tb.toNat (keptAs ty ((low ||| b.toNat % 2 ^ w : Nat) : Int)) noFlags ∧
    GivesInt (.xorI p ty tb ta) s f ty ta.toNat tb.toNat (keptAs ty ((low ^^^ b.toNat % 2 ^ w : Nat) : Int)) noFlags ∧
    GivesInt (.shl p ty tb ta) s f ty ta.toNat tb.toNat (keptAs ty (x * ((2 ^ n : Nat) : Int))) noFlags ∧
    GivesInt (.shr p ty tb ta) s f ty ta.toNat tb.toNat (keptAs ty ((low / 2 ^ n : Nat) : Int)) noFlags ∧
    GivesInt (.sar p ty tb ta) s f ty ta.toNat tb.toNat (keptAs ty (Int.bmod low (2 ^ w) / ((2 ^ n : Nat) : Int))) noFlags ∧
    GivesInt (.minI p ty tb ta) s f ty ta.toNat tb.toNat (if x ≤ y then x else y) noFlags ∧
    GivesInt (.maxI p ty tb ta) s f ty ta.toNat tb.toNat (if x ≤ y then y else x) noFlags ∧
    Results (.cmp p ty c tb ta) s f ta.toNat tb.toNat
      (.scalar (match c with
        | .eq => if x = y then 1 else 0
        | .ne => if x = y then 0 else 1
        | .lt => if x < y then 1 else 0
        | .ge => if x < y then 0 else 1)) noFlags []

/-- The immediate instructions (R182): on 64 bits, with s the sign-extended imm14, each delivers its result to ta, wraps and raises no
flag; each has its opcode in format I; a shift whose imm14 has a bit above bit 5 is illegal, reason 4. -/
def Obligations.ImmediateResults : Prop :=
  (∀ (s : State) (f : Fire) (p : Pred) (imm : BitVec 14) (n : BitVec 6) (ta : Target) (a : Word), Fires1 s f p a →
    let x : Word := imm.signExtend 64
    let gives := fun (i : Instr) (op v : Nat) (r : Word) => Results i s f ta.toNat 511 (.scalar r) noFlags [] ∧
      encode i = some (BitVec.ofNat 32 (encI op (encPred p) v ta.toNat))
    gives (.addi p imm ta) 0x20 imm.toNat (a + x) ∧
    gives (.muli p imm ta) 0x21 imm.toNat (a * x) ∧
    gives (.andi p imm ta) 0x22 imm.toNat (a &&& x) ∧
    gives (.ori p imm ta) 0x23 imm.toNat (a ||| x) ∧
    gives (.xori p imm ta) 0x24 imm.toNat (a ^^^ x) ∧
    gives (.shli p n ta) 0x25 n.toNat (BitVec.ofNat 64 (a.toNat * 2 ^ n.toNat)) ∧
    gives (.shri p n ta) 0x26 n.toNat (BitVec.ofNat 64 (a.toNat / 2 ^ n.toNat)) ∧
    gives (.sari p n ta) 0x27 n.toNat (BitVec.ofInt 64 (a.toInt / ((2 ^ n.toNat : Nat) : Int))) ∧
    gives (.ceqi p imm ta) 0x28 imm.toNat (if a = x then 1 else 0) ∧
    gives (.cnei p imm ta) 0x29 imm.toNat (if a = x then 0 else 1) ∧
    gives (.clti p imm ta) 0x2A imm.toNat (if a.toInt < x.toInt then 1 else 0) ∧
    gives (.cgei p imm ta) 0x2B imm.toNat (if x.toInt ≤ a.toInt then 1 else 0)) ∧
  ∀ w : BitVec 32, 0x25 ≤ opOf w.toNat → opOf w.toNat ≤ 0x27 → imm14Of w.toNat / 2 ^ 6 ≠ 0 →
    ∃ e, decode w = .error e ∧ e.reason = 4

/-- LEA (R183): the scaled sum modulo 2^64, to ta and tb; its opcode and scale are where R183 has them, and any other scale, or a
non-zero value in bits 19:18, is illegal, reason 4. -/
def Obligations.LeaAddresses : Prop :=
  (∀ (s : State) (f : Fire) (p : Pred) (n : LeaScale) (tb ta : Target) (a b : Word), Fires2 s f p a b →
    Results (.lea p n tb ta) s f ta.toNat tb.toNat (.scalar (BitVec.ofNat 64 (a.toNat + b.toNat * 2 ^ encLeaScale n))) noFlags []) ∧
  (∀ (p : Pred) (n : LeaScale) (tb ta : Target),
    encode (.lea p n tb ta) = some (BitVec.ofNat 32 (encA 0x2C (encPred p) (encLeaScale n * 4) tb.toNat ta.toNat)) ∧
      encLeaScale n ≤ 4) ∧
  ∀ w : BitVec 32, opOf w.toNat = 0x2C → 5 ≤ xhiOf w.toNat ∨ xloOf w.toNat ≠ 0 →
    ∃ e, decode w = .error e ∧ e.reason = 4

/-- GENC, APP, MOV and NUL (R177): imm16 zero-extended; the token shifted up by 16 modulo 2^64 with imm16 below; the token to both
targets; Null to both targets. -/
def Obligations.ConstantTokens : Prop :=
  ∀ (s : State) (f : Fire) (p : Pred) (tb ta : Target) (imm : BitVec 16), Fires s f p →
    Results2 (.genc imm ta) s f ta.toNat 511 (.scalar (BitVec.ofNat 64 imm.toNat)) (.scalar (BitVec.ofNat 64 imm.toNat)) [] ∧
    (∀ a, asScalar f.l = some a →
      Results (.app imm ta) s f ta.toNat 511
        (.scalar (BitVec.ofNat 64 (a.toNat * 2 ^ 16 % 2 ^ 64 ||| imm.toNat))) noFlags []) ∧
    Results (.mov p tb ta) s f ta.toNat tb.toNat f.l noFlags [] ∧
    Results (.nul p tb ta) s f ta.toNat tb.toNat .null noFlags []

/-- BITS, SEL and HNT (R142, R181, R185): a field of `.l`, its leading and trailing zeros, its number of 1 bits; SEL delivers `.l`
when bit 0 of `.p` is 1, `.r` when it is 0, and Null on a Null condition, whatever the operand not chosen holds; a hint delivers
nothing. -/
def Obligations.FieldsAndSelection : Prop :=
  (∀ (s : State) (f : Fire) (p : Pred) (tb ta : Target) (a : Word), Fires1 s f p a →
    (∀ b : Word, asScalar f.r = some b →
      let len := b.toNat / 2 ^ 8 % 2 ^ 6 + 1
      let fld := a.toNat / 2 ^ (b.toNat % 2 ^ 6) % 2 ^ len
      Results (.bits p .ext tb ta) s f ta.toNat tb.toNat (.scalar (BitVec.ofNat 64 fld)) noFlags [] ∧
      Results (.bits p .sext tb ta) s f ta.toNat tb.toNat (.scalar (BitVec.ofInt 64 (Int.bmod fld (2 ^ len)))) noFlags []) ∧
    (∃ n : Nat, Results (.bits p .clz tb ta) s f ta.toNat tb.toNat (.scalar (BitVec.ofNat 64 n)) noFlags [] ∧
      n ≤ 64 ∧ a.toNat < 2 ^ (64 - n) ∧ (n < 64 → 2 ^ (63 - n) ≤ a.toNat)) ∧
    (∃ n : Nat, Results (.bits p .ctz tb ta) s f ta.toNat tb.toNat (.scalar (BitVec.ofNat 64 n)) noFlags [] ∧
      n ≤ 64 ∧ a.toNat % 2 ^ n = 0 ∧ (n < 64 → a.toNat / 2 ^ n % 2 = 1)) ∧
    Results (.bits p .popc tb ta) s f ta.toNat tb.toNat
      (.scalar (BitVec.ofNat 64 ((List.range 64).countP fun j => a.getLsbD j))) noFlags []) ∧
  ∀ (s : State) (f : Fire) (tb ta : Target) (h : Hint), fireAt s = some f →
    (∀ q, asScalar f.p = some q →
      Results (.sel tb ta) s f ta.toNat tb.toNat (if q.toNat % 2 = 1 then f.l else f.r) noFlags []) ∧
    (asScalar f.p = none → Results (.sel tb ta) s f ta.toNat tb.toNat .null noFlags []) ∧
    Results2 (.hnt h) s f 511 511 .null .null []

/-- An instruction whose predicate does not let it fire, and one that finds Null in a data slot that it uses, `.l`, `.r`, or `.p` as
data, delivers Null to its targets and does nothing else: no effect, no flag (R155, R190). A store holds no bytes, a taking
operation asks for nothing, SACQ and SACQP reserve nothing, a fence fences nothing. A WR of an output register with Null sends
nothing (R274); that it waits for a credit where a WR with a value would is log entry 47 (DEDUCED). -/
def Obligations.PredicatedInstructionsEmitNull : Prop :=
  ∀ (s : State) (f : Fire), fireAt s = some f →
    (∀ (i : Instr) (p : Pred) (ta tb : Nat), nullForm i = some (p, ta, tb) →
      (predicateHolds p f = false ∨ usesLeft i = true ∧ f.l = .null ∨ usesRight i = true ∧ f.r = .null ∨
        usesThird i = true ∧ f.p = .null) →
      Results2 i s f ta tb .null .null []) ∧
    (∀ (i : Instr) (p : Pred) (ta tb : Nat) (l r q : Bool), ownForm i = some (p, ta, tb, l, r, q) →
      (predicateHolds p f = false ∨ l = true ∧ f.l = .null ∨ r = true ∧ f.r = .null ∨ q = true ∧ f.p = .null) →
      EmitsNull i s f ta tb) ∧
    ∀ n : BitVec 6, f.l = .null →
      (∀ d j, (chanAt (coreAt s f.c) n.toNat).bind = .pipe d j → freeCredits s f.c n.toNat ≠ 0) →
      Results2 (.wr ⟨3, n⟩) s f 511 511 .null .null []

/-! ### Control -/

/-- BR, BRI, RET, CALL, CALLI and LPX fire their exit (R156, R172, R174, R175): the target is the block's address plus four
times off20 or the `.l` token, and the two calls hold the return address, the header address plus the bytes of the block
rounded up to a multiple of 8. -/
def Obligations.ExitsNameNextBlock : Prop :=
  ∀ (s : State) (f : Fire) (p : Pred) (e : BitVec 3) (off : BitVec 20), Fires s f p → f.b.exit = none →
    let near := BitVec.ofInt 64 ((f.b.addr.toNat : Int) + 4 * off.toInt)
    let back := f.b.addr + BitVec.ofNat 64 ((12 + 4 * (f.b.words.length - 1) + 7) / 8 * 8)
    FiresExit (.br p e off) s f false near [] ∧ FiresExit (.call p e off) s f false near [.call back] ∧
    FiresExit (.lpx p e off) s f true near [] ∧
    ∀ a, asScalar f.l = some a →
      FiresExit (.bri p e) s f false a [] ∧ FiresExit (.ret p e) s f false a [] ∧
      FiresExit (.calli p e) s f false a [.call back]

/-- A second exit of a block raises the multi-exit fault, cause 0x14, in that cycle (R156): a service fault of the thread, and none of
the block's effects is applied. Every exit is one: BR, CALL, LPX, BRI, CALLI, RET, TRET, and TRET.RETRY with a trap latch. -/
def Claims.SecondExitFaults : Prop :=
  ∀ (s : State) (f : Fire) (p : Pred) (e : BitVec 3) (off : BitVec 20) (x : ExitFired), Fires s f p → InProgress f →
    f.b.exit = some x →
    let faults := fun (i : Instr) => ∃ t, exec i s = .next t ∧ TakesService t f 0x14 0 0 ∧ FaultKeeps s t f
    (∀ i ∈ [Instr.br p e off, .call p e off, .lpx p e off], faults i) ∧
    (∀ a, asScalar f.l = some a → ∀ i ∈ [Instr.bri p e, .calli p e, .ret p e, .tret p], faults i) ∧
    ∀ l, f.th.trap = some l → faults (.tretRetry p)

/-- LPB decides at its firing (R170): the token is 0 when two frames will be held after the block's loop-end step and the count is not
0, else 1; the frame that the commit will push has the count, the level and the exit, and a refused push and a count of 0 go to
the exit. For a block whose LOOPEND is 0, one with an LPX included, the frames counted are those that stand when LPB fires, and the
pushes of the block's LPBs that have fired before count as held: these are the model's readings of R170 (DEDUCED, log entries 40 and
157). -/
def Obligations.LoopBegin : Prop :=
  ∀ (s : State) (f : Fire) (level : BitVec 2) (off : BitVec 12) (ta : Target) (a : Word), Fires1 s f .always a →
    let exit := BitVec.ofInt 64 ((f.b.addr.toNat : Int) + 8 * off.toInt)
    let count := BitVec.ofNat 32 a.toNat
    let lasts := f.b.exit.elim false (·.lpx) || f.th.frames.head?.elim false fun x => decide (x.count = 1)
    let left := f.th.frames.length - (if isLoopEnd f.b && lasts then 1 else 0) +
      f.b.effs.countP fun e => match e.2 with
        | .loop _ n _ => n ≠ 0
        | _ => false
    (2 ≤ left ∧ count ≠ 0 →
      Results2 (.lpb level off ta) s f ta.toNat 511 (.scalar 0) .null [.loop level 0 exit]) ∧
    (¬ (2 ≤ left ∧ count ≠ 0) →
      Results2 (.lpb level off ta) s f ta.toNat 511 (.scalar 1) .null [.loop level count exit])

/-! ### Registers -/

/-- RD and RDT of a register that is full deliver it as it stands at issue; RDT holds the emptying for the commit (R164). A
G or S register delivers a scalar, a V register a vector with every half live, a special register its value. -/
def Claims.RegisterReads : Prop :=
  ∀ (s : State) (f : Fire) (tb ta : GTarget) (n : BitVec 6), fireAt s = some f →
    let slot := fun (t : GTarget) => if t = 0 then 511 else t.toNat
    let reads := fun (c : BitVec 3) (tok : Token) =>
      Results (.rd ⟨c, n⟩ tb ta) s f (slot ta) (slot tb) tok noFlags [] ∧
      Results (.rdt ⟨c, n⟩ tb ta) s f (slot ta) (slot tb) tok noFlags [.takeReg c.toNat n.toNat]
    ((gReg f.th n.toNat).2 = true → reads 0 (.scalar (gReg f.th n.toNat).1)) ∧
    ((vReg f.th n.toNat).2 = true → reads 1 (.vec (vReg f.th n.toNat).1 (BitVec.allOnes 64))) ∧
    ((sReg (coreAt s f.c) n.toNat).2 = true → reads 2 (.scalar (sReg (coreAt s f.c) n.toNat).1)) ∧
    Results (.rd ⟨4, n⟩ tb ta) s f (slot ta) (slot tb) (.scalar (specialReg s f.c f.k f.th n.toNat)) noFlags []

/-- A RD or RDT of an empty register does not fire: its thread parks until the register is full, and nothing is delivered
(R151, R164). -/
def Claims.EmptyRegisterParks : Prop :=
  ∀ (s : State) (f : Fire) (tb ta : GTarget) (n : BitVec 6), fireAt s = some f →
    let parks := fun (c : BitVec 3) => ∀ i ∈ [Instr.rd ⟨c, n⟩ tb ta, .rdt ⟨c, n⟩ tb ta], ∃ t, exec i s = .next t ∧
      ParksOn t f (.register c.toNat n.toNat) ∧ t = { s with slots := t.slots }
    ((gReg f.th n.toNat).2 = false → parks 0) ∧ ((vReg f.th n.toNat).2 = false → parks 1) ∧
    ((sReg (coreAt s f.c) n.toNat).2 = false → parks 2)

/-- What the special registers read as (R167): slot, core, rank, number of ranks, sheaf with NONE as 4096, incarnation, time,
tick, slack, rounding, flags, the counts of the two loop frames, the trap registers and the mailboxes. -/
def Claims.SpecialRegisterReads : Prop :=
  ∀ (s : State) (f : Fire) (tb ta : GTarget), fireAt s = some f →
    let slot := fun (t : GTarget) => if t = 0 then 511 else t.toNat
    let reads := fun (n : Nat) (v : Word) =>
      Results (.rd ⟨4, BitVec.ofNat 6 n⟩ tb ta) s f (slot ta) (slot tb) (.scalar v) noFlags []
    reads 0 (BitVec.ofNat 64 f.k) ∧ reads 1 (BitVec.ofNat 64 f.c) ∧ reads 2 f.th.rank ∧ reads 3 f.th.nrank ∧
    reads 4 (BitVec.ofNat 64 (f.th.sheaf + if f.th.noSheaf then 4096 else 0)) ∧
    reads 5 (BitVec.ofNat 64 f.th.incarn.toNat) ∧ reads 6 f.th.ltime ∧ reads 7 (BitVec.ofNat 64 s.tick) ∧
    reads 8 f.th.slack ∧ reads 9 f.th.round ∧ reads 10 f.th.flags ∧
    reads 11 (BitVec.ofNat 64 (f.th.frames.head?.elim 0 fun x => x.count.toNat)) ∧
    reads 12 (BitVec.ofNat 64 ((f.th.frames.drop 1).head?.elim 0 fun x => x.count.toNat)) ∧
    reads 13 f.th.trapcause ∧ reads 14 f.th.trapinfo0 ∧ reads 15 f.th.trapinfo1 ∧
    ∀ m, m < 8 → reads (16 + m) (mget 0 f.th.mbox m)

/-- WR holds the value of its token for the commit, and with Null nothing (R165, R191): the register stays as it is. -/
def Obligations.RegisterWritesHeld : Prop :=
  ∀ (s : State) (f : Fire) (n : BitVec 6), fireAt s = some f →
    let writes := fun (c : BitVec 3) (effs : List Eff) => Results2 (.wr ⟨c, n⟩) s f 511 511 .null .null effs
    (∀ a, asScalar f.l = some a →
      writes 0 [.writeG n.toNat a] ∧ writes 2 [.writeS n.toNat a] ∧ writes 4 [.writeSpecial n.toNat a]) ∧
    (∀ d l, f.l = .vec d l → writes 1 [.writeV n.toNat d l]) ∧
    (∀ a, f.l = .scalar a → writes 1 [.writeV n.toNat (splat32 a.toNat) (BitVec.allOnes 64)]) ∧
    (f.l = .null → writes 0 [] ∧ writes 1 [] ∧ writes 2 [] ∧ writes 4 [])

/-! ### Memory instructions -/

/-- LD and VLD in the own cistern (R130, R229, R238, R244): the address is `.l` plus the sign-extended imm9 times the size; the
request for the bytes goes to the core's cistern in the cycle of the firing. -/
def Claims.LoadsOfOwnCistern : Prop :=
  ∀ (s : State) (f : Fire) (p : Pred) (lsid : BitVec 5) (imm : BitVec 9) (ta : Target) (a : Word), Fires1 s f p a →
    let va := fun (n : Nat) => (BitVec.ofInt 64 ((a.toNat : Int) + imm.toInt * (n : Int))).toNat
    let asks := fun (i : Instr) (kind : AccKind) (align n : Nat) =>
      va n % align = 0 → OwnRead s f (va n) n → AsksOwn i s f ta.toNat 511 .read kind (va n) n
    asks (.ldN8 p lsid imm ta) (.load 1 false) 1 1 ∧ asks (.ldI8 p lsid imm ta) (.load 1 true) 1 1 ∧
    asks (.ldN16 p lsid imm ta) (.load 2 false) 2 2 ∧ asks (.ldI16 p lsid imm ta) (.load 2 true) 2 2 ∧
    asks (.ldN32 p lsid imm ta) (.load 4 false) 4 4 ∧ asks (.ldI32 p lsid imm ta) (.load 4 true) 4 4 ∧
    asks (.ld64 p lsid imm ta) (.load 8 false) 8 8 ∧ asks (.vld p lsid imm ta) .vload 2 128

/-- ST and VST in the own cistern (R130, R238, R244): the store's bytes, at `.l` plus the sign-extended imm18 times the size, are
held for the commit under its LSID, and no byte of memory changes before it. -/
def Claims.StoresOfOwnCistern : Prop :=
  ∀ (s : State) (f : Fire) (p : Pred) (lsid : BitVec 5) (imm : BitVec 18) (a : Word), Fires1 s f p a →
    let va := fun (n : Nat) => (BitVec.ofInt 64 ((a.toNat : Int) + imm.toInt * (n : Int))).toNat
    let holds := fun (i : Instr) (align n : Nat) (bytes : List (Nat × Byte)) =>
      va n % align = 0 → OwnBytes s f (va n) n → HoldsStore i s f lsid.toNat (va n) bytes
    (∀ v, asScalar f.r = some v →
      let low := fun (n : Nat) => (List.range n).map fun j => (j, BitVec.ofNat 8 (v.toNat / 256 ^ j))
      holds (.st8 p lsid imm) 1 1 (low 1) ∧ holds (.st16 p lsid imm) 2 2 (low 2) ∧
      holds (.st32 p lsid imm) 4 4 (low 4) ∧ holds (.st64 p lsid imm) 8 8 (low 8)) ∧
    (∀ d, f.r = .vec d (BitVec.allOnes 64) →
      holds (.vst p lsid imm) 2 128 ((List.range 128).map fun j => (j, BitVec.ofNat 8 (d.toNat / 256 ^ j))))

/-- LDS, STS, AMO and BUMP that no latch serves act at the owner (R161, R234, R241, R242): in the own cistern the request with
its operation goes out in the cycle of the firing. -/
def Obligations.TakingOperationsAsk : Prop :=
  ∀ (s : State) (f : Fire) (p : Pred) (lsid : BitVec 5) (imm9 : BitVec 9) (imm18 : BitVec 18) (tb ta : Target) (a : Word),
    Fires1 s f p a → latched f.th f.i = none → takingOut f.th f.i = false →
    let near := fun (x : Int) => (BitVec.ofInt 64 ((a.toNat : Int) + x * 8)).toNat
    (near imm9.toInt % 8 = 0 → OwnRead s f (near imm9.toInt) 8 →
      AsksOwn (.lds p lsid imm9 ta) s f ta.toNat 511 .lds .atomic (near imm9.toInt) 8) ∧
    ∀ b, asScalar f.r = some b →
      (near imm18.toInt % 8 = 0 → OwnRead s f (near imm18.toInt) 8 →
        AsksOwn (.sts p lsid imm18) s f 511 511 (.sts b) .atomic (near imm18.toInt) 8) ∧
      (∀ op ty, (op = .cas → p = .always ∧ ∃ q, asScalar f.p = some q) → a.toNat % amoBytes ty = 0 →
        OwnRead s f a.toNat (amoBytes ty) →
        AsksOwn (.amo p op ty tb ta) s f ta.toNat tb.toNat
          (.amo op ty b (if op = .cas then (asScalar f.p).getD 0 else 0)) .atomic a.toNat (amoBytes ty)) ∧
      (a.toNat % 8 = 0 → OwnRead s f a.toNat 8 →
        AsksOwn (.bump p tb ta) s f ta.toNat tb.toNat (.bump (b.toNat % 2 ^ 32)) .atomic a.toNat 8)

/-- SLICE reads the 64 bytes of the shape record whose address has its low six bits ignored, TLD the 276 bytes of a table at a
multiple of 16 and delivers status 2 elsewhere (R184, R211). -/
def Claims.RecordReads : Prop :=
  ∀ (s : State) (f : Fire) (p : Pred) (sel : SliceSel) (buf : BitVec 2) (tb ta : Target) (a : Word), Fires1 s f p a →
    (∀ r, asScalar f.r = some r → OwnRead s f (a.toNat / 64 * 64) 64 →
      AsksOwn (.slice p sel tb ta) s f ta.toNat tb.toNat .read (.slice sel r.toNat f.th.nrank.toNat)
        (a.toNat / 64 * 64) 64) ∧
    (a.toNat % 16 = 0 → OwnRead s f a.toNat 276 →
      AsksOwn (.tld p buf tb ta) s f ta.toNat tb.toNat .read (.table buf.toNat) a.toNat 276) ∧
    (a.toNat % 16 ≠ 0 → Results (.tld p buf tb ta) s f ta.toNat tb.toNat (.scalar 2) noFlags [])

/-- VLDX and VSTX with one live element (R245, R246): its address is `.l` plus the element's size times the signed index; VLDX asks
for the element's bytes, VSTX holds the bytes of the data lane. -/
def Obligations.GatherScatter : Prop :=
  ∀ (s : State) (f : Fire) (p : Pred) (lsid : BitVec 5) (tb ta : Target) (a : Word) (j : Nat) (d : Vec), j < 32 →
    f.r = .vec d (BitVec.ofNat 64 (3 * 4 ^ j)) → Fires1 s f p a →
    let idx := Int.bmod (d.toNat / 2 ^ (32 * j) % 2 ^ 32) (2 ^ 32)
    let va := (BitVec.ofInt 64 ((a.toNat : Int) + 4 * idx)).toNat
    va % 4 = 0 →
    (OwnRead s f va 4 →
      ∃ t, exec (.vldx p false tb ta) s = .next t ∧ HasTurn s t f ta.toNat tb.toNat ∧
        Pends s t 0 1 (f.c * 16 + f.k) (.ownerAccess
          ⟨f.id, .read, (List.range 4).map fun n => (4 * j + n, cisternPa f.c va + n), slackOf f, false, streamOf f, .own, none⟩) ∧
        t.mem = s.mem) ∧
    (∀ x, f.p = .vec x (BitVec.allOnes 64) → OwnBytes s f va 4 →
      ∃ t, exec (.vstx lsid) s = .next t ∧ Delivers s t f .null .null ∧
        HoldsEff t f (.store lsid.toNat (slackOf f) ((List.range 4).map fun n =>
          (cisternPa f.c va + n, BitVec.ofNat 64 (va + n), BitVec.ofNat 8 (x.toNat / 2 ^ (32 * j) / 256 ^ n)))) ∧
        t.mem = s.mem)

/-- An access whose address is not a multiple of its size takes the permission fault, cause 0x11 reason 6, with the address, before
any other check, and has no other effect (R223, R226). -/
def Claims.MisalignedAccessFaults : Prop :=
  ∀ (s : State) (f : Fire) (p : Pred) (lsid : BitVec 5) (imm : BitVec 9) (imm18 : BitVec 18) (ta : Target) (a v : Word),
    Fires2 s f p a v → InProgress f →
    let near := fun (n : Nat) => BitVec.ofInt 64 ((a.toNat : Int) + imm.toInt * (n : Int))
    let far := fun (n : Nat) => BitVec.ofInt 64 ((a.toNat : Int) + imm18.toInt * (n : Int))
    let faults := fun (i : Instr) (va : Word) (n : Nat) => va.toNat % n ≠ 0 →
      ∃ t, exec i s = .next t ∧ TakesService t f 0x11 6 va ∧ FaultKeeps s t f
    faults (.ldN16 p lsid imm ta) (near 2) 2 ∧ faults (.ldI16 p lsid imm ta) (near 2) 2 ∧
    faults (.ldN32 p lsid imm ta) (near 4) 4 ∧ faults (.ldI32 p lsid imm ta) (near 4) 4 ∧
    faults (.ld64 p lsid imm ta) (near 8) 8 ∧ faults (.vld p lsid imm ta) (near 128) 2 ∧
    faults (.st16 p lsid imm18) (far 2) 2 ∧ faults (.st32 p lsid imm18) (far 4) 4 ∧
    faults (.st64 p lsid imm18) (far 8) 8

/-- PREF completes with no token and no fault, whatever its address (R243); memory and every register stay. -/
def Claims.PrefetchCompletes : Prop :=
  ∀ (s : State) (f : Fire) (p : Pred) (imm : BitVec 9) (a : Word), Fires1 s f p a →
    ∃ t, exec (.pref p imm) s = .next t ∧ HasTurn s t f 511 511 ∧ Delivers s t f .null .null ∧ t.mem = s.mem ∧
      t.slots = (complete s f 511 511 .null .null noFlags []).slots ∧
      t.cores = (complete s f 511 511 .null .null noFlags []).cores

/-! ### Vectors -/

/-- The integer forms of VADD, VSUB, VMUL, VMIN, VMAX, VCMP and VUN (R194, R196, R199): element by element, null where an
input element is null; a wrapping sum, difference or product keeps its low bits, a comparison gives all ones or zero. -/
def Claims.VectorIntegerElements : Prop :=
  ∀ (s : State) (f : Fire) (p : Pred) (vt : VecType) (c : Cond) (tb ta : Target), Fires s f p → vtFloat vt = none →
    let h := vtHalf vt
    let two := fun (i : Instr) (g : Int → Int → Int) =>
      GivesElems i s f ta.toNat tb.toNat h
        (onElems h f.l f.r fun x y => elemOfInt vt (g (elemInt vt x) (elemInt vt y))) noFlags
    let ones := 2 ^ (vtInt vt).1 - 1
    let test := fun (x y : Int) => match c with
      | .eq => decide (x = y)
      | .ne => decide (x ≠ y)
      | .lt => decide (x < y)
      | .ge => decide (y ≤ x)
    two (.vadd p vt .wrap tb ta) (fun x y => x + y) ∧ two (.vsub p vt .wrap tb ta) (fun x y => x - y) ∧
    two (.vmul p vt .wrap tb ta) (fun x y => x * y) ∧
    two (.vmin p vt tb ta) (fun x y => if x ≤ y then x else y) ∧
    two (.vmax p vt tb ta) (fun x y => if x ≤ y then y else x) ∧
    GivesElems (.vcmp p vt c tb ta) s f ta.toNat tb.toNat h
      (onElems h f.l f.r fun x y => if test (elemInt vt x) (elemInt vt y) then ones else 0) noFlags ∧
    GivesElems (.vun p vt .neg tb ta) s f ta.toNat tb.toNat h
      (onElem h f.l fun x => elemOfInt vt (-(elemInt vt x))) noFlags ∧
    GivesElems (.vun p vt .abs tb ta) s f ta.toNat tb.toNat h
      (onElem h f.l fun x => elemOfInt vt ((elemInt vt x).natAbs : Int)) noFlags

/-- The saturating integer forms of VADD, VSUB and VMUL (R194): the nearer limit, and OF exactly when a live element needs it. -/
def Claims.VectorSaturation : Prop :=
  ∀ (s : State) (f : Fire) (p : Pred) (vt : VecType) (tb ta : Target), Fires s f p → vtFloat vt = none →
    let h := vtHalf vt
    let low : Int := if (vtInt vt).2 then -((2 ^ ((vtInt vt).1 - 1) : Nat) : Int) else 0
    let high : Int := low + ((2 ^ (vtInt vt).1 : Nat) : Int) - 1
    let clamp := fun (x : Int) => if x < low then low else if high < x then high else x
    let sat := fun (i : Instr) (g : Int → Int → Int) =>
      GivesElems i s f ta.toNat tb.toNat h
        (onElems h f.l f.r fun x y => elemOfInt vt (clamp (g (elemInt vt x) (elemInt vt y))))
        (if (List.range (elemCount h)).any fun j =>
            (elemOf h f.l j).elim false fun x => (elemOf h f.r j).elim false fun y =>
              decide (clamp (g (elemInt vt x) (elemInt vt y)) ≠ g (elemInt vt x) (elemInt vt y))
          then flagOf else noFlags)
    sat (.vadd p vt .sat tb ta) (fun x y => x + y) ∧ sat (.vsub p vt .sat tb ta) (fun x y => x - y) ∧
    sat (.vmul p vt .sat tb ta) (fun x y => x * y)

/-- The floating forms of the vector arithmetic, and the functions of one FP32 lane (R190, R194-R196, R199, R209, R213): element
by element with the flags of the live elements together. -/
def Claims.VectorFloatElements : Prop :=
  ∀ (s : State) (f : Fire) (p : Pred) (vt : VecType) (ft : FloatType) (q : FloatFmt) (c : Cond) (buf : BitVec 2)
    (tb ta : Target), Fires s f p →
    let two := fun (i : Instr) (h : Bool) (g : Nat → Nat → Nat × NumFlags) =>
      GivesElems i s f ta.toNat tb.toNat h (onElems h f.l f.r fun x y => (g x y).1 % 2 ^ elemWidth h)
        (allFlags h fun j => (elemOf h f.l j).bind fun x => (elemOf h f.r j).map fun y => (g x y).2)
    let one := fun (i : Instr) (h : Bool) (g : Nat → Nat × NumFlags) =>
      GivesElems i s f ta.toNat tb.toNat h (onElem h f.l fun x => (g x).1 % 2 ^ elemWidth h)
        (allFlags h fun j => (elemOf h f.l j).map fun x => (g x).2)
    (vtFloat vt = some q →
      two (.vadd p vt .wrap tb ta) (vtHalf vt) (fAdd q) ∧ two (.vsub p vt .wrap tb ta) (vtHalf vt) (fSub q) ∧
      two (.vmul p vt .wrap tb ta) (vtHalf vt) (fMul q) ∧ two (.vmin p vt tb ta) (vtHalf vt) (fMin q) ∧
      two (.vmax p vt tb ta) (vtHalf vt) (fMax q) ∧
      two (.vcmp p vt c tb ta) (vtHalf vt)
        (fun x y => (if (fCmp q c x y).1 then (if vtHalf vt then 65535 else 4294967295) else 0, (fCmp q c x y).2)) ∧
      one (.vun p vt .neg tb ta) (vtHalf vt) (fNeg q) ∧ one (.vun p vt .abs tb ta) (vtHalf vt) (fAbs q) ∧
      one (.vun p vt .sqrt tb ta) (vtHalf vt) (fSqrt q) ∧ one (.vun p vt .flr tb ta) (vtHalf vt) (fFloor q)) ∧
    one (.vexp2 p tb ta) false vexp2 ∧ one (.vrcp p tb ta) false vrcp ∧ one (.vrsq p tb ta) false vrsq ∧
    one (.tli p buf tb ta) false (tliLane (tableAt s f.c buf.toNat)) ∧
    (let h := decide (ft ≠ .fp32)
     let fma := fun (i : Instr) (g : FVal → FVal → FVal → Nat × NumFlags) =>
      let at_ := fun (j : Nat) => (elemOf h f.l j).bind fun x => (elemOf h f.r j).bind fun y => (elemOf h f.p j).map fun z =>
        g ((floatFmt ft).value x) ((floatFmt ft).value y) ((floatFmt ft).value z)
      GivesElems i s f ta.toNat tb.toNat h (fun j => (at_ j).map fun r => r.1 % 2 ^ elemWidth h)
        (allFlags h fun j => (at_ j).map fun r => r.2)
     fma (.vfma ft .plain tb ta) (fun x y z => fmaV (floatFmt ft) x y z) ∧
     fma (.vfma ft .ms tb ta) (fun x y z => fmaV (floatFmt ft) x y z.negate) ∧
     fma (.vfma ft .nma tb ta) (fun x y z => fmaV (floatFmt ft) x.negate y z))

/-- The functions of one floating element that round nothing (R50, R194, R196, R199, R209, R210): minimum and maximum by value with −0
below +0, comparisons by value with −0 equal to +0, the sign functions and the floor; a NaN operand gives the canonical NaN and a
signalling one INV. VEXP2, VRCP and VRSQ of NaNs, infinities, zeros and operands out of their range. A table buffer at power-on reset
gives +0 for every number. -/
def Claims.FloatFunctions : Prop :=
  (∀ q ∈ [fp32, bf16, fp16], ∀ x y : Nat, x < 2 * q.signBit → y < 2 * q.signBit →
    let v := fun (x : Nat) => if isInf q x then (if signOf q x then -(2 ^ 600 : Int) else 2 ^ 600) else floatUnits q x
    let below := v x < v y ∨ (v x = v y ∧ signOf q x = true ∧ signOf q y = false)
    let above := v y < v x ∨ (v y = v x ∧ signOf q y = true ∧ signOf q x = false)
    let sig := flagInv (isSignalling q x || isSignalling q y)
    (isNaN q x = true ∨ isNaN q y = true → fMin q x y = (quietNaN q, sig) ∧ fMax q x y = (quietNaN q, sig) ∧
      ∀ c, fCmp q c x y = (decide (c = .ne), sig)) ∧
    (isNaN q x = false → isNaN q y = false →
      fMin q x y = (if above then y else x, noFlags) ∧ fMax q x y = (if below then y else x, noFlags) ∧
      fCmp q .eq x y = (decide (v x = v y), noFlags) ∧ fCmp q .ne x y = (decide (v x ≠ v y), noFlags) ∧
      fCmp q .lt x y = (decide (v x < v y), noFlags) ∧ fCmp q .ge x y = (decide (v y ≤ v x), noFlags)) ∧
    (isNaN q x = true → ∀ g ∈ [fNeg q, fAbs q, fSqrt q, fFloor q], g x = (quietNaN q, flagInv (isSignalling q x))) ∧
    (isNaN q x = false →
      fNeg q x = (if signOf q x then x - q.signBit else x + q.signBit, noFlags) ∧
      fAbs q x = (if signOf q x then x - q.signBit else x, noFlags) ∧
      (v x < 0 → fSqrt q x = (quietNaN q, flagInv true)) ∧ (v x = 0 → fSqrt q x = (x, noFlags)) ∧
      (isInf q x = true → fFloor q x = (x, noFlags) ∧ (signOf q x = false → fSqrt q x = (x, noFlags))) ∧
      (isInf q x = false → let z := (fFloor q x).1
        isFinite q z = true ∧ signOf q z = signOf q x ∧ floatUnits q z = 2 ^ 298 * (floatUnits q x / 2 ^ 298) ∧
          (fFloor q x).2 = noFlags))) ∧
  ∀ x : Nat, let u := floatUnits fp32 x
    let inf := 0x7F800000
    let minus := if signOf fp32 x then 0x80000000 else 0
    (isNaN fp32 x = true → ∀ g ∈ [vexp2, vrcp, vrsq, tliLane TableBuf.zero],
      g x = (quietNaN fp32, flagInv (isSignalling fp32 x))) ∧
    (isInf fp32 x = true → vexp2 x = (if signOf fp32 x then 0 else inf, noFlags) ∧ vrcp x = (minus, noFlags) ∧
      vrsq x = if signOf fp32 x then (quietNaN fp32, flagInv true) else (0, noFlags)) ∧
    (isFinite fp32 x = true →
      (128 * 2 ^ 298 ≤ u → vexp2 x = (inf, flagOf)) ∧ (u < -(151 * 2 ^ 298) → vexp2 x = (0, flagUf)) ∧
      (u = 0 → vrcp x = (minus + inf, noFlags) ∧ vrsq x = (minus + inf, noFlags)) ∧
      (u < 0 → vrsq x = (quietNaN fp32, flagInv true))) ∧
    (isNaN fp32 x = false → tliLane TableBuf.zero x = (0, noFlags))

/-- VSEL, VAND, VOR, VXOR, VSHF, VBCST, VINS, VEXT and VMSK (R197, R198, R200-R204), element by element, with no flag. The lane forms
of VINS and VMSK keep the lanes that are live as a whole: a lane with one live half is a null element (log entry 25, DEDUCED from R186
and R187). -/
def Claims.VectorMoves : Prop :=
  ∀ (s : State) (f : Fire) (p : Pred) (h : Bool) (tb ta : Target), Fires s f p →
    let gives := fun (i : Instr) (half : Bool) (g : Nat → Option Nat) =>
      GivesElems i s f ta.toNat tb.toNat half g noFlags
    let whole := fun (j : Nat) => (elemOf false f.l (j / 2)).map fun x => x / 65536 ^ (j % 2) % 65536
    gives (.vsel h tb ta) h (fun j => (elemOf h f.p j).bind fun c =>
      if c = 0 then elemOf h f.r j else elemOf h f.l j) ∧
    gives (.vand p tb ta) true (onElems true f.l f.r fun x y => x &&& y) ∧
    gives (.vor p tb ta) true (onElems true f.l f.r fun x y => x ||| y) ∧
    gives (.vxor p tb ta) true (onElems true f.l f.r fun x y => x ^^^ y) ∧
    gives (.vshf p .idx tb ta) false (fun j => (elemOf false f.r j).bind fun n => elemOf false f.l (n % 32)) ∧
    gives (.vshf p .hidx tb ta) true (fun j => (elemOf true f.r j).bind fun n => elemOf true f.l (n % 64)) ∧
    (∀ a, asScalar f.l = some a → gives (.vbcst p .s16 tb ta) true (fun _ => some (a.toNat % 65536))) ∧
    ∀ v, asScalar f.r = some v →
      let n := v.toNat
      gives (.vshf p .rot tb ta) false (fun j => elemOf false f.l ((j + n % 32) % 32)) ∧
      gives (.vshf p .xor tb ta) false (fun j => elemOf false f.l (j ^^^ (n % 32))) ∧
      gives (.vshf p .hrot tb ta) true (fun j => elemOf true f.l ((j + n % 64) % 64)) ∧
      gives (.vbcst p .lane tb ta) false (fun _ => elemOf false f.l (n % 32)) ∧
      gives (.vbcst p .half tb ta) true (fun _ => elemOf true f.l (n % 64)) ∧
      gives (.vmsk p true tb ta) true (fun j => if n.testBit j then elemOf true f.l j else none) ∧
      gives (.vmsk p false tb ta) true (fun j => if n.testBit (j / 2) then whole j else none) ∧
      (∀ m, asScalar f.p = some m →
        gives (.vins true tb ta) true
          (fun j => if j = m.toNat % 64 then some (n % 65536) else elemOf true f.l j) ∧
        gives (.vins false tb ta) true
          (fun j => if j / 2 = m.toNat % 32 then some (n / 65536 ^ (j % 2) % 65536) else whole j)) ∧
      (∀ x, elemOf false f.l (n % 32) = some x →
        Results (.vext p .n32 tb ta) s f ta.toNat tb.toNat (.scalar (BitVec.ofNat 64 x)) noFlags [] ∧
        Results (.vext p .i32 tb ta) s f ta.toNat tb.toNat (.scalar (BitVec.ofInt 64 (Int.bmod x (2 ^ 32)))) noFlags []) ∧
      (∀ x, elemOf true f.l (n % 64) = some x →
        Results (.vext p .n16 tb ta) s f ta.toNat tb.toNat (.scalar (BitVec.ofNat 64 x)) noFlags [] ∧
        Results (.vext p .i16 tb ta) s f ta.toNat tb.toNat (.scalar (BitVec.ofInt 64 (Int.bmod x (2 ^ 16)))) noFlags [])

/-- VCVT by its layouts (R205-R207): packing puts lane j in half j and leaves halves 32 to 63 null, unpacking puts half j in lane j;
each element is converted with the rounding mode of the instruction; the flags are those of the live elements together, and their
saturations are counted at the commit. -/
def Claims.VectorConversions : Prop :=
  ∀ (s : State) (f : Fire) (p : Pred) (code : CvtCode) (tb ta : Target), Fires s f p →
    let conv := convertElem (cvtSpec code).1 (cvtSpec code).2.1 (roundingOf f)
    let src := match (cvtSpec code).2.2 with
      | .pack | .lanes => false
      | .unpack | .halves => true
    let dst := match (cvtSpec code).2.2 with
      | .pack | .halves => true
      | .unpack | .lanes => false
    let n := match (cvtSpec code).2.2 with
      | .halves => 64
      | _ => 32
    let live := ((List.range n).filterMap (elemOf src f.l)).map conv
    let sats := (live.map fun r => r.2.2).sum
    ∃ tok, Results (.vcvt p code tb ta) s f ta.toNat tb.toNat tok (live.foldl (fun a r => a.or r.2.1) noFlags)
        (if sats = 0 then [] else [.saturations sats]) ∧
      ∀ j, j < elemCount dst →
        elemOf dst tok j = if elemCount src ≤ j then none else (elemOf src f.l j).map fun x => (conv x).1 % 2 ^ elemWidth dst

/-- VRED (R65, R208): the integer sum, minimum and maximum of the live elements, the sum modulo 2^32 extended by the type; in the
floating forms the fixed pairwise tree, of five levels over FP32 lanes and of six over halves that are first widened, with the flags
of every node; the sign bits of the live lanes; Null when no element is live. -/
def Claims.VectorReductions : Prop :=
  ∀ (s : State) (f : Fire) (p : Pred) (vt : VecType) (tb ta : Target), Fires s f p →
    let h := vtHalf vt
    let xs := ((List.range (elemCount h)).filterMap (elemOf h f.l)).map (elemInt vt)
    let gives := fun (r : RedMode) (tok : Token) => Results (.vred p vt r tb ta) s f ta.toNat tb.toNat tok noFlags []
    (vtFloat vt = none → xs ≠ [] →
      gives .add (.scalar (BitVec.ofInt 64 (if (vtInt vt).2 then Int.bmod xs.sum (2 ^ 32) else xs.sum % 2 ^ 32))) ∧
      (∃ x ∈ xs, gives .min (.scalar (BitVec.ofInt 64 x)) ∧ ∀ y ∈ xs, x ≤ y) ∧
      (∃ x ∈ xs, gives .max (.scalar (BitVec.ofInt 64 x)) ∧ ∀ y ∈ xs, y ≤ x)) ∧
    (∀ q, vtFloat vt = some q → ∀ r ∈ [RedMode.add, .min, .max], ∀ v,
      let node := match r with
        | .max => fMax fp32
        | .min => fMin fp32
        | _ => fAdd fp32
      let wide := fun (j : Nat) => (elemOf true f.l j).map (widenHalf q)
      let tree := if h then treeNode node (fun j => (wide j).map (·.1)) 6 0 else treeNode node (elemOf false f.l) 5 0
      tree.1 = some v →
      Results (.vred p vt r tb ta) s f ta.toNat tb.toNat (.scalar (BitVec.ofNat 64 v))
        (if h then (allFlags true fun j => (wide j).map (·.2)).or tree.2 else tree.2) []) ∧
    (xs = [] → gives .add .null ∧ gives .min .null ∧ gives .max .null) ∧
    ((∃ j, j < 32 ∧ (elemOf false f.l j).isSome = true) →
      ∃ v : Word, gives .bits (.scalar v) ∧
        ∀ j, v.getLsbD j = (elemOf false f.l j).elim false fun x => x.testBit 31) ∧
    ((∀ j, j < 32 → elemOf false f.l j = none) → gives .bits .null)

/-! ### Rounding (R61-R63) -/

/-- Floating results are the exact result rounded once (R59, R61-R63, R66). With u the value of an encoding in units of 2^-298: a sum, a
difference, a product and a fused multiply-add of finite operands is the encoding nearest to the exact result, ties to even, OF and a
signed infinity from half a unit in the last place beyond the largest finite number on, UF exactly for a result that is inexact and
tiny after rounding; exact zeros have the signs of IEEE 754. A NaN operand gives the canonical NaN, INV only for a signalling one; the
sum of opposite infinities and 0 times infinity are NaN with INV. A narrowing rounds once under its mode, and a finite operand beyond
the destination's range counts one saturation, also where it rounds to the largest finite number (log entry 23, DEDUCED); a widening is
exact; a number inside the range of I32 becomes the integer of the mode. -/
def Claims.FloatResultsRoundedOnce : Prop :=
  (∀ q ∈ [fp32, bf16, fp16], ∀ x y z : Nat, let u := fun (x : Nat) => floatUnits q x
    (isFinite q x = true → isFinite q y = true →
      RoundedRne q ((u x + u y) * 2 ^ 298) (fAdd q x y) ∧ RoundedRne q ((u x - u y) * 2 ^ 298) (fSub q x y) ∧
      RoundedRne q (u x * u y) (fMul q x y) ∧
      (u x + u y = 0 → (fAdd q x y).1 = if signOf q x ∧ signOf q y then q.signBit else 0) ∧
      (u x * u y = 0 → (fMul q x y).1 = if signOf q x = signOf q y then 0 else q.signBit) ∧
      (isFinite q z = true → RoundedRne q (u x * u y + u z * 2 ^ 298) (fmaV q (q.value x) (q.value y) (q.value z)))) ∧
    (isNaN q x = true ∨ isNaN q y = true →
      let fl := flagInv (isSignalling q x || isSignalling q y)
      fAdd q x y = (quietNaN q, fl) ∧ fSub q x y = (quietNaN q, fl) ∧ fMul q x y = (quietNaN q, fl)) ∧
    (isInf q x = true → isInf q y = true → signOf q x ≠ signOf q y → fAdd q x y = (quietNaN q, flagInv true)) ∧
    (isInf q x = true → isFinite q y = true → u y = 0 →
      fMul q x y = (quietNaN q, flagInv true) ∧ fMul q y x = (quietNaN q, flagInv true))) ∧
  (∀ d ∈ [(Fmt.fp32, Fmt.bf16, fp32, bf16), (.fp32, .fp16, fp32, fp16), (.bf16, .fp16, bf16, fp16), (.fp16, .bf16, fp16, bf16)],
    ∀ (m : RoundMode) (x : Nat), isFinite d.2.2.1 x = true →
      let r := floatUnits d.2.2.1 x * 2 ^ 298
      let q := d.2.2.2
      let res := convertElem d.1 d.2.1 m x
      (r.natAbs ≤ topUnits q → FloatPicks q m r res.1 ∧ res.2.1.of = false ∧ res.2.1.inv = false ∧ res.2.2 = 0) ∧
      (topUnits q < r.natAbs → res.2.2 = 1) ∧
      (topUnits q + lastUnit q ≤ r.natAbs →
        let toInf := m = .rne ∨ m = .rna ∨ m = .rup ∧ 0 < r ∨ m = .rdn ∧ r < 0
        res.1 = (if r < 0 then q.signBit else 0) + (if toInf then 2 ^ q.eb - 1 else 2 ^ q.eb - 2) * 2 ^ q.fb +
          (if toInf then 0 else 2 ^ q.fb - 1) ∧ res.2.1 = flagOf)) ∧
  (∀ d ∈ [(Fmt.bf16, bf16), (.fp16, fp16)], ∀ (m : RoundMode) (x : Nat), isFinite d.2 x = true →
    let res := convertElem d.1 .fp32 m x
    isFinite fp32 res.1 = true ∧ floatUnits fp32 res.1 = floatUnits d.2 x ∧ res.2 = (noFlags, 0)) ∧
  ∀ (m : RoundMode) (x : Nat), isFinite fp32 x = true →
    let r := floatUnits fp32 x
    r ≤ (2 ^ 31 - 1) * 2 ^ 298 → -(2 ^ 31) * 2 ^ 298 ≤ r →
    let res := convertElem .fp32 .i32 m x
    Picks (fun i : Int => -(2 ^ 31) ≤ i ∧ i < 2 ^ 31) (fun i => i * 2 ^ 298) (fun i => i % 2 = 0) m r
      (Int.bmod res.1 (2 ^ 32)) ∧ res.2 = (noFlags, 0)

/-- Round(A + Round(d × B)) of R209 for FP32 encodings A and B and d in units of 2^-298: the encoding p. -/
def Interpolates (a b : Nat) (d : Int) (p : Nat) : Prop :=
  ∃ (t : Nat) (f g : NumFlags), RoundedRne fp32 (d * floatUnits fp32 b) (t, f) ∧
    RoundedRne fp32 ((floatUnits fp32 a + floatUnits fp32 t) * 2 ^ 298) (p, g)

/-- Square roots and the table approximations round as R199 and R209 say: a root is nearer to the exact root than any other encoding,
and VEXP2, VRCP and VRSQ are the interpolation of their procedure, rounded again. -/
def Claims.RootsAndApproximations : Prop :=
  (∀ q ∈ [fp32, bf16, fp16], ∀ x : Nat, isFinite q x = true → 0 < floatUnits q x →
    let y := (fSqrt q x).1
    isFinite q y = true ∧ signOf q y = false ∧ y < q.signBit ∧ (fSqrt q x).2 = noFlags ∧
      ∀ z : Nat, isFinite q z = true → signOf q z = false →
        (floatUnits q y < floatUnits q z → 4 * (floatUnits q x * 2 ^ 298) < (floatUnits q y + floatUnits q z) ^ 2) ∧
        (floatUnits q z < floatUnits q y → (floatUnits q y + floatUnits q z) ^ 2 < 4 * (floatUnits q x * 2 ^ 298))) ∧
  ∀ x : Nat, isFinite fp32 x = true →
    let r := floatUnits fp32 x
    (-(151 * 2 ^ 298) ≤ r → r < 128 * 2 ^ 298 →
      let j := (r % 2 ^ 298 / 2 ^ 292).toNat
      ∃ p, Interpolates (tableEA j) (tableEB j) (r % 2 ^ 292) p ∧
        RoundedRne fp32 (floatUnits fp32 p * 2 ^ (298 + r / 2 ^ 298).toNat) (vexp2 x)) ∧
    (∀ e : Nat, 2 ^ e ≤ r.natAbs → r.natAbs < 2 ^ (e + 1) →
      let w := (r.natAbs - 2 ^ e) * 2 ^ 298 / 2 ^ e
      ∃ p, Interpolates (tableCA (w / 2 ^ 292)) (tableCB (w / 2 ^ 292)) ((w % 2 ^ 292 : Nat) : Int) p ∧
        RoundedRne fp32 ((if r < 0 then -1 else 1) * floatUnits fp32 p * 2 ^ (596 - e)) (vrcp x)) ∧
    (∀ e : Nat, e % 2 = 0 → 0 < r → 2 ^ e ≤ r.natAbs → r.natAbs < 2 ^ (e + 2) →
      let w := (r.natAbs - 2 ^ e) * 2 ^ 298 / 2 ^ e
      ∃ p, Interpolates (tableQA (w / 2 ^ 293)) (tableQB (w / 2 ^ 293)) ((w % 2 ^ 293 : Nat) : Int) p ∧
        RoundedRne fp32 (floatUnits fp32 p * 2 ^ (447 - e / 2)) (vrsq x))

/-- The entries of the tables of R209 are the stated real values rounded once. A real value is given by its floor in units of 2^-128: the
root a with aⁿ ≤ N < (a + 1)ⁿ, and each number between the bounds that the floors leave rounds to the entry. -/
def Claims.ApproximationTables : Prop :=
  let rounds := fun (lo hi : Int) (y : Nat) => ∀ r : Int, lo ≤ r → r ≤ hi → FloatPicks fp32 .rne (r * 2 ^ 468) y
  (∀ j : Nat, j < 64 → ∀ a b : Nat, a ^ 64 ≤ 2 ^ (8192 + j) → 2 ^ (8192 + j) < (a + 1) ^ 64 →
    b ^ 64 ≤ 2 ^ (8193 + j) → 2 ^ (8193 + j) < (b + 1) ^ 64 →
    rounds a (a + 1) (tableEA j) ∧ rounds (64 * (b - a - 1)) (64 * (b - a + 1)) (tableEB j)) ∧
  (∀ j : Nat, j < 64 → ∀ a : Nat,
    (a * (64 + j) ≤ 64 * 2 ^ 128 → 64 * 2 ^ 128 < (a + 1) * (64 + j) → rounds a (a + 1) (tableCA j)) ∧
    (a * ((64 + j) * (65 + j)) ≤ 4096 * 2 ^ 128 → 4096 * 2 ^ 128 < (a + 1) * ((64 + j) * (65 + j)) →
      rounds (-(a : Int) - 1) (-(a : Int)) (tableCB j))) ∧
  ∀ j : Nat, j < 96 → ∀ a b : Nat, a ^ 2 * (32 + j) ≤ 32 * 2 ^ 256 → 32 * 2 ^ 256 < (a + 1) ^ 2 * (32 + j) →
    b ^ 2 * (33 + j) ≤ 32 * 2 ^ 256 → 32 * 2 ^ 256 < (b + 1) ^ 2 * (33 + j) →
    rounds a (a + 1) (tableQA j) ∧ rounds (32 * ((b : Int) - a - 1)) (32 * ((b : Int) - a + 1)) (tableQB j)

/-- TLI follows R213 for a finite operand and left end: with s = x − LO and w = s × 2^-WLOG rounded, the end knot below and at or above a
clamped table, Y[j] + Round(d × D[j]) between the ends and beyond an extended one. -/
def Claims.TableInterpolation : Prop :=
  ∀ (t : TableBuf) (x w : Nat) (f : NumFlags), isFinite fp32 x = true → isFinite fp32 t.lo = true → -20 ≤ t.wlog → t.wlog ≤ 20 →
    let u := fun (x : Nat) => floatUnits fp32 x
    let s := (fSub fp32 x t.lo).1
    let last := fun (j : Nat) (d : Int) => ∀ (y : Nat) (g : NumFlags), RoundedRne fp32 (d * u (t.diff j)) (y, g) →
      isFinite fp32 y = true → isFinite fp32 (t.knot j) = true → isFinite fp32 (t.diff j) = true →
      RoundedRne fp32 ((u (t.knot j) + u y) * 2 ^ 298) (tliLane t x)
    isFinite fp32 s = true → RoundedRne fp32 (u s * 2 ^ (298 - t.wlog).toNat) (w, f) →
    (signOf fp32 w = true → (isInf fp32 w = true ∨ u w ≠ 0) → t.lowExtend = false → tliLane t x = (t.knot 0, noFlags)) ∧
    (signOf fp32 w = false → (isInf fp32 w = true ∨ 64 * 2 ^ 298 ≤ u w) → t.highExtend = false →
      tliLane t x = (t.knot 64, noFlags)) ∧
    (isFinite fp32 w = true →
      (0 ≤ u w → u w < 64 * 2 ^ 298 → last (u w / 2 ^ 298).toNat (u w % 2 ^ 298)) ∧
      (u w < 0 → t.lowExtend = true → last 0 (u w)) ∧
      (64 * 2 ^ 298 ≤ u w → t.highExtend = true → ∀ (d : Nat) (g : NumFlags),
        RoundedRne fp32 ((u w - 63 * 2 ^ 298) * 2 ^ 298) (d, g) → isFinite fp32 d = true → last 63 (u d)))

/-! ### Engines, semaphores, channels -/

/-- The matrix commands (R292-R299) hold one command for the commit when their slot has a free command-buffer entry (R247);
MPROG delivers status 0 with a legal program word and 1 without a command; MSTG delivers 0 and stages the MMA when the slot is
empty and unclaimed, else 1. -/
def Obligations.MatrixCommandsHeld : Prop :=
  ∀ (s : State) (f : Fire) (p : Pred) (m : MmovMode) (n : BitVec 2) (tb ta : Target) (a b : Word),
    Fires2 s f p a b → freeEntries s f.c f.k ≠ 0 →
    let holds := fun (i : Instr) (k : CmdKind) (r q : Word) =>
      Results2 i s f 511 511 .null .null [.command (mkCmd f k a r q)]
    let free := (mget Staged.reset (coreAt s f.c).mu.staged n.toNat).cmd.isNone && !stageClaimed s f.c n.toNat
    let stages := fun (i : Instr) (scaled : Bool) (q : Word) =>
      Results i s f ta.toNat tb.toNat (.scalar (if free then 0 else 1)) noFlags
        (if free then [.stage n.toNat (mkCmd f (.mma scaled) a b q)] else [])
    holds (.mlw p) (.mlw false) b 0 ∧ holds (.mma p) (.mma false) b 0 ∧ holds (.mst p) .mst b 0 ∧
    holds (.mzr p) .mzr b 0 ∧ holds (.mmov p m) (.mmov m) b 0 ∧
    holds (.mres p) (.mres false) a 0 ∧ holds (.mresDrop p) (.mres true) a 0 ∧
    Results (.mprog p tb ta) s f ta.toNat tb.toNat (.scalar (if programOk a.toNat then 0 else 1)) noFlags
      (if programOk a.toNat then [.command (mkCmd f .mprog a b 0)] else []) ∧
    stages (.mstg p n tb ta) false 0 ∧
    ∀ q, asScalar f.p = some q →
      holds .mlwS (.mlw true) b q ∧ holds .mmaS (.mma true) b q ∧ stages (.mstgS n tb ta) true q

/-- The copies (R254, R258-R261) read the 64 bytes of their record and hold their command for the commit. -/
def Obligations.CopiesReadRecord : Prop :=
  ∀ (s : State) (f : Fire) (p : Pred) (tb ta : Target) (a b : Word), Fires2 s f p a b → freeEntries s f.c f.k ≠ 0 →
    a.toNat % 64 = 0 → OwnRead s f a.toNat 64 →
    ∀ x ∈ [(Instr.cpy p tb ta, 0), (.cpyDeal p tb ta, 1), (.cpyGath p tb ta, 2), (.cpyBin p tb ta, 3), (.cpyX p tb ta, 4)],
      AsksOwn x.1 s f ta.toNat tb.toNat .read (.copy x.2 s.tick (coreAt s f.c).backlog) a.toNat 64 ∧
      ∃ t, exec x.1 s = .next t ∧ HoldsEff t f (.command (mkCmd f (.copy x.2) a b 0))

/-- A command whose slot has no free command-buffer entry does not fire: the thread parks until one is free, and nothing is
delivered (R151, R247). -/
def Claims.FullCommandBufferParks : Prop :=
  ∀ (s : State) (f : Fire) (p : Pred) (m : MmovMode) (tb ta : Target) (a b : Word), Fires2 s f p a b →
    freeEntries s f.c f.k = 0 →
    ∀ i ∈ [Instr.mprog p tb ta, .mlw p, .mma p, .mst p, .mzr p, .mres p, .mresDrop p, .mmov p m, .cpy p tb ta,
        .cpyDeal p tb ta, .cpyGath p tb ta, .cpyBin p tb ta, .cpyX p tb ta],
      ∃ t, exec i s = .next t ∧ ParksOn t f .command ∧ t = { s with slots := t.slots }

/-- SACQ and SACQP (R264-R266): with the amount available they hold it for the commit and deliver the semaphore's status; SACQ
parks when it is short, SACQP parks with its promise, or takes trap 0x02 when the tick has passed it. -/
def Claims.SemaphoreAcquires : Prop :=
  ∀ (s : State) (f : Fire) (p : Pred) (tb ta : Target) (a : Word), Fires1 s f p a → InProgress f →
    let m := a.toNat % 64
    let n := a.toNat / 2 ^ 16 % 2 ^ 16
    let x := semAt (coreAt s f.c) m
    let gets := fun (i : Instr) => n ≤ available s f.c m → n ≠ 0 → nanPending x = false →
      ∃ t, exec i s = .next t ∧ HasTurn s t f ta.toNat tb.toNat ∧
        Delivers s t f (.scalar (semStatus x)) (.scalar (semStatus x)) ∧ HoldsEff t f (.acquire m n) ∧ t.mem = s.mem
    gets (.sacq p tb ta) ∧
    (available s f.c m < n → ∃ t, exec (.sacq p tb ta) s = .next t ∧ ParksOn t f (.semaphore m n none) ∧
      t = { s with slots := t.slots }) ∧
    ∀ b, asScalar f.r = some b →
      gets (.sacqp p tb ta) ∧
      (available s f.c m < n → s.tick ≤ b.toNat →
        ∃ t, exec (.sacqp p tb ta) s = .next t ∧ ParksOn t f (.semaphore m n (some b)) ∧
          (b.toNat + 1, Instr.promiseMissed f.c f.k) ∈ t.timers ∧ t = { s with slots := t.slots, timers := t.timers }) ∧
      (available s f.c m < n → b.toNat < s.tick → f.th.hndl = false → word64At s (launchPa f.c f.k 0x80) ≠ 0 →
        ∃ t th, exec (.sacqp p tb ta) s = .next t ∧ threadAt t f.c f.k = some th ∧
          th.trapcause = causeWord false f.i m 0x02 ∧ th.trapinfo0 = f.b.addr ∧ th.trapinfo1 = b ∧ th.hndl = true ∧
          th.next = word64At s (launchPa f.c f.k 0x80) ∧ t.mem = s.mem)

/-- SLPT (R267): it delivers the tick when its tick has come, else it parks until then. -/
def Claims.SleepUntilTick : Prop :=
  ∀ (s : State) (f : Fire) (p : Pred) (tb ta : Target) (a : Word), Fires1 s f p a →
    (a.toNat ≤ s.tick → Results (.slpt p tb ta) s f ta.toNat tb.toNat (.scalar (BitVec.ofNat 64 s.tick)) noFlags []) ∧
    (s.tick < a.toNat → ∃ t, exec (.slpt p tb ta) s = .next t ∧ ParksOn t f (.sleep a) ∧
      (a.toNat, Instr.slptWake f.c f.k) ∈ t.timers ∧ t = { s with slots := t.slots, timers := t.timers })

/-- CHB, CHU and STR (R277): a binding of a standpipe to a direction without a neighbour has status 1, one between two inputs or
two outputs status 2; a stream outside the cistern or not aligned status 1; otherwise status 0 and the binding held. -/
def Claims.ChannelBindings : Prop :=
  ∀ (s : State) (f : Fire) (p : Pred) (q : BitVec 3) (v : Bool) (tb ta : Target), Fires s f p →
    (q.toNat < 4 ∨ claimedCredits s f.c q.toNat = 0) →
    Results2 (.chu p q) s f 511 511 .null .null [.unbindChannel q.toNat] ∧
    ∀ a, asScalar f.l = some a →
      (let dir := a.toNat % 4
       let far := a.toNat / 4 % 8
       let st := if neighbour f.c dir = none then 1 else if (q.toNat < 4) = (far < 4) then 2 else 0
       Results (.chb p q tb ta) s f ta.toNat tb.toNat (.scalar (BitVec.ofNat 64 st)) noFlags
         (if st = 0 then [.bindPipe q.toNat dir far] else [])) ∧
      ∀ b, asScalar f.r = some b →
        let stride := b.toNat % 2 ^ 32
        let unit := if v then 2 else 8
        let st := if 0x1000 ≤ a.toNat ∧ a.toNat < 0x12_7000 ∧ a.toNat % unit = 0 ∧ stride % unit = 0 then 0 else 1
        Results (.str p q v tb ta) s f ta.toNat tb.toNat (.scalar (BitVec.ofNat 64 st)) noFlags
          (if st = 0 then [.bindStream q.toNat a.toNat stride (b.toNat / 2 ^ 32) v] else [])

/-- RD of a standpipe input delivers its oldest entry and removes it, and the credit goes back; one with no entry parks (R272,
R275). WR of a standpipe output with a free credit holds the push to the other end of its pipe, and parks without one (R274). -/
def Claims.ChannelTransfers : Prop :=
  ∀ (s : State) (f : Fire) (tb ta : GTarget) (q d j : Nat), fireAt s = some f →
    let slot := fun (t : GTarget) => if t = 0 then 511 else t.toNat
    let x := chanAt (coreAt s f.c) q
    x.bind = .pipe d j → x.preload = [] →
    (q < 4 → latched f.th f.i = none →
      (∀ e rest, x.buf = e :: rest →
        ∃ t, exec (.rd ⟨3, BitVec.ofNat 6 q⟩ tb ta) s = .next t ∧ HasTurn s t f (slot ta) (slot tb) ∧
          Delivers s t f e.tok e.tok ∧ (chanAt (coreAt t f.c) q).buf = rest ∧ t.mem = s.mem ∧
          ∀ o i, matchedPeer s f.c q = some (o, i) → Pends s t 1 5 (32000 + o) (.creditReturn o i)) ∧
      (x.buf = [] → ∃ t, exec (.rd ⟨3, BitVec.ofNat 6 q⟩ tb ta) s = .next t ∧ ParksOn t f (.channel q) ∧
        t = { s with slots := t.slots })) ∧
    (4 ≤ q → q < 8 →
      (0 < freeCredits s f.c q → f.l ≠ .null →
        ∃ dst, matchedPeer s f.c q = some dst ∧
          Results2 (.wr ⟨3, BitVec.ofNat 6 q⟩) s f 511 511 .null .null [.push q dst f.l (f.th.slack.toNat % 256)]) ∧
      (freeCredits s f.c q = 0 → ∃ t, exec (.wr ⟨3, BitVec.ofNat 6 q⟩) s = .next t ∧ ParksOn t f (.channel q) ∧
        t = { s with slots := t.slots }))

/-! ### Fences, time, sheaves, tasks, cells -/

/-- FENCE takes its turn, delivers nothing of its own and holds its scope and kind for the commit (R330). -/
def Claims.FenceHeld : Prop :=
  ∀ (s : State) (f : Fire) (p : Pred) (sc : Scope) (k : FenceKind), Fires s f p →
    ∃ t, exec (.fence p sc k) s = .next t ∧ HasTurn s t f 511 511 ∧ Delivers s t f .null .null ∧
      HoldsEff t f (.fence sc k) ∧ t.mem = s.mem

/-- TADV, TSET, FWAIT and RFENCE (R72, R356, R358-R360): their results, statuses and what they hold for the commit. -/
def Claims.TimeInstructions : Prop :=
  ∀ (s : State) (f : Fire) (p : Pred) (lv : BitVec 2) (tb ta : Target) (a : Word), Fires1 s f p a →
    let gives := fun (i : Instr) (v : Word) (e : List Eff) => Results i s f ta.toNat tb.toNat (.scalar v) noFlags e
    let n := a.toNat % 2 ^ 32
    let unit := 2 ^ (16 * lv.toNat)
    let sum := f.th.ltime.toNat / unit * unit + n * unit
    let next := if n = 0 ∨ f.th.ltime = timeTop then f.th.ltime
      else if 0xFFFFFFFFFFFFFFFE < sum then timeTop else BitVec.ofNat 64 sum
    gives (.tadv p lv tb ta) next [.advance next] ∧
    (a.toNat < f.th.ltime.toNat → gives (.tset p tb ta) 3 []) ∧
    (f.th.ltime.toNat ≤ a.toNat → gives (.tset p tb ta) 0 [.setTime a]) ∧
    (f.th.noSheaf = true → gives (.fwait p tb ta) 0 [] ∧ gives (.rfence p tb ta) 6 []) ∧
    (f.th.noSheaf = false →
      (f.th.ltime.toNat ≤ a.toNat → gives (.fwait p tb ta) 2 []) ∧
      (a.toNat < f.th.ltime.toNat → a.toNat < (frontierAt s f.c f.th.sheaf).toNat →
        ∃ t, exec (.fwait p tb ta) s = .next t ∧ HasTurn s t f ta.toNat tb.toNat ∧
          Delivers s t f (.scalar 0) (.scalar 0) ∧ t.mem = s.mem) ∧
      (a.toNat < f.th.ltime.toNat → (frontierAt s f.c f.th.sheaf).toNat ≤ a.toNat →
        ∃ t, exec (.fwait p tb ta) s = .next t ∧ HasTurn s t f ta.toNat tb.toNat ∧ t.agenda = s.agenda) ∧
      gives (.rfence p tb ta) (if a = timeTop then 3 else 0) (if a = timeTop then [] else [.recalcFence a]))

/-- JOIN, LEAVE, SPAWN and SPAWN.AT (R361-R365): their statuses and what they hold for the commit. -/
def Claims.SheafInstructions : Prop :=
  ∀ (s : State) (f : Fire) (p : Pred) (x : Bool) (tb ta : Target), Fires s f p →
    let gives := fun (i : Instr) (v : Word) (e : List Eff) => Results i s f ta.toNat tb.toNat (.scalar v) noFlags e
    (∀ a, asScalar f.l = some a →
      let n := a.toNat % 4096
      (f.th.noSheaf = false → gives (.join p tb ta) 2 []) ∧
      (f.th.noSheaf = true → gives (.join p tb ta) (if (sheafAt s n).live then 0 else 6)
        (if (sheafAt s n).live then [.joinSheaf n] else []))) ∧
    (f.th.noSheaf = true → gives (.leave p x tb ta) 6 []) ∧
    (f.th.noSheaf = false →
      gives (.leave p x tb ta) (if f.th.pins = 0 ∧ f.th.opens = 0 ∧ f.th.engs = 0 then 0 else 2)
        (if f.th.pins = 0 ∧ f.th.opens = 0 ∧ f.th.engs = 0 then [.leaveSheaf x] else [])) ∧
    ∀ a b q, asScalar f.l = some a → asScalar f.r = some b → asScalar f.p = some q →
      (f.th.noSheaf = true → gives (.spawn tb ta) 6 [] ∧ gives (.spawnAt tb ta) 6 []) ∧
      (f.th.noSheaf = false →
        gives (.spawn tb ta) (if q.toNat < f.th.ltime.toNat ∨ q = timeTop then 3 else 0)
          (if q.toNat < f.th.ltime.toNat ∨ q = timeTop then [] else [.spawn a b q]) ∧
        gives (.spawnAt tb ta) 0 [.spawnAt a b q])

/-- FILL, WAKE, PARK, YLD and PPT (R366-R369, R414) deliver nothing and hold their effect for the commit: the message with the
fields of its destination word, the wait, the yield of 0 to 65,535 cycles, the masks. -/
def Claims.TaskInstructions : Prop :=
  ∀ (s : State) (f : Fire) (p : Pred) (sel : BitVec 5), Fires s f p →
    let holds := fun (i : Instr) (e : Eff) => Results2 i s f 511 511 .null .null [e]
    holds (.park p) .park ∧
    ∀ a, asScalar f.l = some a →
      let n := a.toNat
      let msg := fun (x : Option Nat) (v : Token) => Eff.message
        { src := f.c, srcSlot := f.k, core := n % 2 ^ 12, slot := n / 2 ^ 12 % 2 ^ 4, inc := n / 2 ^ 16 % 2 ^ 16,
          ack := n / 2 ^ 50 % 2 == 1, aword := n / 2 ^ 32 % 2 ^ 18, sel := x, value := v, time := f.th.ltime,
          sheaf := if f.th.noSheaf then none else some f.th.sheaf, slack := slackOf f, exh := false, col := false, fault := false }
      holds (.wake p) (msg none .null) ∧ holds (.yld p) (.yield (n % 2 ^ 16)) ∧
      (∀ b, asScalar f.r = some b → holds (.ppt p) (.masks a b)) ∧
      (f.th.noSheaf = false →
        (∀ b, sel.toNat < 16 → asScalar f.r = some b → holds (.fill p sel) (msg (some sel.toNat) (.scalar b))) ∧
        (∀ d l, 16 ≤ sel.toNat → f.r = .vec d l → holds (.fill p sel) (msg (some sel.toNat) (.vec d l))))

/-- The cell instructions (R343, R349-R357) send their request to the cell's home core, here the issuing core itself, and the
decision is pending there in this cycle; beside the turn, the block notes that it has asked, and nothing else changes. -/
def Obligations.CellRequests : Prop :=
  ∀ (s : State) (f : Fire) (p : Pred) (clr : Bool) (tb ta : Target) (a : Word) (j : Nat), Fires1 s f p a →
    cellNamed a = some (f.c, j) →
    let turn := complete s f ta.toNat tb.toNat .null .null noFlags []
    let asks := fun (i : Instr) (op : CellOp) => ∃ t, exec i s = .next t ∧ HasTurn s t f ta.toNat tb.toNat ∧
      t = { s with agenda := t.agenda, slots := t.slots, cores := turn.cores } ∧
      (let r := Instr.heldDecision
        { id := f.id, op := op, cell := a, time := f.th.ltime, sheaf := if f.th.noSheaf then none else some f.th.sheaf,
          inc := f.th.incarn.toNat, task := f.th.task, pins := f.th.pins, slack := f.th.slack.toNat % 256, exh := false,
          came := 0 }
       Pends s t 0 5 (40000 + f.c) r ∧
         ∀ e, e ∈ t.agenda ↔ e ∈ s.agenda ∨ e = (agendaKey (dueCycle s 0 r) 5 (40000 + f.c), r)) ∧
      threadAt t f.c f.k = (threadAt turn f.c f.k).map (fun th =>
        { th with block := th.block.map fun b => { b with asked := b.asked ++ [(f.i, f.c)] } }) ∧
      (f.k < 16 → ∀ c k, k < 16 → (c, k) ≠ (f.c, f.k) → slotAt t c k = slotAt s c k)
    asks (.crd p tb ta) .crd ∧
    ∀ b, asScalar f.r = some b →
      asks (.crel p tb ta) (.crel b) ∧ asks (.cwr p tb ta) (.cwr b) ∧ asks (.ccmt p tb ta) (.ccmt b) ∧
      asks (.cunb p tb ta) (.cunb b) ∧
      asks (.cstat p clr tb ta) (.cstat (if clr then 0 else b.toNat % 8) clr) ∧
      ∀ q, asScalar f.p = some q →
        asks (.cbind tb ta) (.cbind (b.toNat / 64 % 2 ^ 15 * 64) q) ∧
        (∀ d l, f.r = .vec d l → asks (.cset tb ta) (.cset q d l))

/-! ### Traps and system instructions -/

/-- TRAP takes user trap 0x01 (R383-R387, R405): with a handler and HNDL 0 its block is discarded, the trap registers hold the
cause, the address of the block and the operand, HNDL is 1, the retry latch has become the trap latch, and the handler's block is
loaded; without a handler, or inside one, it is service fault 0x16 with the cause as its reason. No memory changes. -/
def Obligations.TrapEntry : Prop :=
  ∀ (s : State) (f : Fire) (p : Pred) (a : Word), Fires1 s f p a → InProgress f →
    let handler := word64At s (launchPa f.c f.k 0x80)
    (f.th.hndl = false → handler ≠ 0 →
      ∃ t, exec (.trap p) s = .next t ∧ t.mem = s.mem ∧
        threadAt t f.c f.k = some { f.th with
          trap := f.th.retry, retry := none, trapcause := BitVec.ofNat 64 (f.i % 256 * 2 ^ 16 + 1),
          trapinfo0 := f.b.addr, trapinfo1 := a, hndl := true, next := handler, block := none, wait := .nothing } ∧
        Pends s t 0 4 (f.c * 16 + f.k) (.blockLoad f.c f.k)) ∧
    (f.th.hndl = true ∨ handler = 0 →
      ∃ t, exec (.trap p) s = .next t ∧ TakesService t f 0x16 1 a ∧ FaultKeeps s t f)

/-- TRET goes to its `.l` token and TRET.RETRY to the trapped block of the trap latch, both holding the return for the commit; HALT
with neither a pin nor an open cell holds the end of its thread (R405, R407). -/
def Obligations.TrapReturnAndHalt : Prop :=
  ∀ (s : State) (f : Fire) (p : Pred), Fires s f p →
    (f.b.exit = none → ∀ a, asScalar f.l = some a → FiresExit (.tret p) s f false a [.trapReturn false]) ∧
    (f.b.exit = none → ∀ l, f.th.trap = some l → FiresExit (.tretRetry p) s f false l.addr [.trapReturn true]) ∧
    (f.th.trap = none → Results2 (.tretRetry p) s f 511 511 .null .null []) ∧
    (pinsAfter f = 0 → opensAfter f = 0 → Results2 (.halt p) s f 511 511 .null .null [.halt])

/-- SYSR and SYSW of a service thread (R404): status 2 for an offset that is no multiple of 8, 1 where no register is, 3 for a
refused write, else 0; SYSR delivers the value of the register, or 0, and SYSW holds the write for the commit. -/
def Obligations.SystemInstructions : Prop :=
  ∀ (s : State) (f : Fire) (p : Pred) (tb ta : Target) (a : Word), Fires1 s f p a → f.th.service = true →
    let off := a.toNat % 2 ^ 28
    let st : Nat := if off % 8 ≠ 0 then 2 else if (sysReg (sysPlace off) true).isNone then 1 else 0
    (∃ e, Results2 (.sysr p tb ta) s f ta.toNat tb.toNat
      (.scalar (if st = 0 then readPlace s f.c (sysPlace off) else 0)) (.scalar (BitVec.ofNat 64 st)) e) ∧
    ∀ v, asScalar f.r = some v →
      let st' := if st = 0 ∧ refusedPlace s v (sysPlace off) = true then 3 else st
      Results2 (.sysw p ta) s f ta.toNat 511 (.scalar (BitVec.ofNat 64 st')) .null
        (if st' = 0 then [.systemWrite off v] else [])

/-- SYSR and SYSW of a thread that is no service thread take the permission fault, cause 0x11 reason 7, and have no other effect (R402,
R404); that word 2 of FREC holds the offset operand, where R383 says the virtual address, is the model's choice (log entry 159). -/
def Claims.SystemNeedsService : Prop :=
  ∀ (s : State) (f : Fire) (p : Pred) (tb ta : Target) (a v : Word), Fires2 s f p a v → InProgress f →
    f.th.service = false →
    ∀ i ∈ [Instr.sysr p tb ta, .sysw p ta], ∃ t, exec i s = .next t ∧ TakesService t f 0x11 7 a ∧
      FaultKeeps s t f

/-! ### Events: blocks and memory -/

/-- TOKEN_DELIVERY of the tokens of the running execution (R154) adds them to the block, which changes in nothing else; when this
completes a block whose exit has fired, its commit is pending in this cycle (R156). Memory and every register stay. -/
def Claims.TokensDelivered : Prop :=
  ∀ (s : State) (id : ExecId) (a b : Token) (t : Thread) (x : Block), threadAt s id.core id.slot = some t →
    t.block = some x → x.gen = id.gen → x.stopped = false →
    let y : Block := { x with done := x.done ++ [(id.idx, a, b)] }
    (x.exit ≠ none ∨ isComplete y = false) → (∀ e ∈ s.agenda, e.2 ≠ .blockCommit id.core id.slot x.gen) →
    ∃ u, exec (.tokenDelivery (.tokens id a b)) s = .next u ∧ u = { s with slots := u.slots, agenda := u.agenda } ∧
      threadAt u id.core id.slot = some { t with block := some y } ∧
      (isComplete y = true → Pends s u 0 3 (id.core * 16 + id.slot) (.blockCommit id.core id.slot x.gen))

/-- TOKEN_DELIVERY of the last bytes of an access (R154, R161, R184, R211, R238, R244, R245): a scalar load delivers its little-endian
value, zero- or sign-extended to 64 bits, VLD the 1,024 bits with every half live, VLDX the elements that it has loaded, SLICE the value of
Slice of R119, TLD 0 and the table for the commit, or 1 when the image is refused. No memory changes. -/
def Claims.BytesDelivered : Prop :=
  ∀ (s : State) (id : ExecId) (x : Block) (p : Pending) (data : List (Nat × Byte)) (byte : Nat → Byte),
    Awaits s id x p → p.out = 1 → ((p.got ++ data).map (·.1)).Nodup →
    let low := fun (off n : Nat) => leNat ((List.range n).map fun j => byte (off + j))
    let whole := fun (off n : Nat) => ∀ j, j < n → (off + j, byte (off + j)) ∈ p.got ++ data
    let gives := fun (tok : Token) (effs : List Eff) =>
      BlockBecomes s (.tokenDelivery (.bytes id data)) id x
        { dropPend id.idx x with done := x.done ++ [(id.idx, tok, tok)], effs := x.effs ++ effs.map fun e => (id.idx, e) }
    (∀ n sgn, p.acc.kind = .load n sgn → 1 ≤ n → whole 0 n →
      gives (.scalar (if sgn then BitVec.ofInt 64 (Int.bmod (low 0 n) (2 ^ (8 * n))) else BitVec.ofNat 64 (low 0 n))) []) ∧
    (p.acc.kind = .vload → whole 0 128 → gives (.vec (BitVec.ofNat 1024 (low 0 128)) (BitVec.allOnes 64)) []) ∧
    (∀ half live, p.acc.kind = .gather half live → (∀ j ∈ live, whole (elemWidth half / 8 * j) (elemWidth half / 8)) →
      ∃ tok, gives tok [] ∧ ∀ j, j < elemCount half →
        elemOf half tok j = if j ∈ live then some (low (elemWidth half / 8 * j) (elemWidth half / 8)) else none) ∧
    (∀ sel r n, p.acc.kind = .slice sel r n → whole 0 64 →
      gives (.scalar (sliceValue (shapeOf ((List.range 64).map byte)) sel r n)) []) ∧
    (∀ buf, p.acc.kind = .table buf → whole 0 276 →
      (∀ tb, tableOfImage ((List.range 276).map byte) = some tb → gives (.scalar 0) [.loadTable buf tb]) ∧
      (tableOfImage ((List.range 276).map byte) = none → gives (.scalar 1) []))

/-- TOKEN_DELIVERY of the answer of a taking operation and of a cell instruction (R161, R234, R343, R348): the value that LDS, AMO or BUMP
has taken is delivered and enters the retry latch, whose list of takings under way loses it; STS delivers nothing of its own. CSTAT
delivers its value to ta and the status to tb, CRD and CWR the status to ta and the address to tb, the other cell instructions their
status to both. -/
def Claims.AnswersDelivered : Prop :=
  ∀ (s : State) (id : ExecId) (x : Block),
    (∀ (p : Pending) (l : Latch) (v : Word), Awaits s id x p → p.acc.op ≠ .read →
      (threadAt s id.core id.slot).bind (·.retry) = some l → id.gen ∈ l.gens → id.idx ∈ l.out →
      let tok : Token := match p.acc.op with
        | .sts _ => .null
        | _ => .scalar v
      BlockBecomes s (.tokenDelivery (.taken id p.acc.op v)) id x
        { dropPend id.idx x with done := x.done ++ [(id.idx, tok, tok)] } ∧
      ∃ u m, exec (.tokenDelivery (.taken id p.acc.op v)) s = .next u ∧
        (threadAt u id.core id.slot).bind (·.retry) = some m ∧ id.idx ∉ m.out ∧
        m.vals = l.vals ++ [⟨id.idx, tok, takingOpcode p.acc.op, none⟩]) ∧
    ∀ (status : Nat) (other : Token), Runs s id x →
      let w := wordOf x id.idx
      let st : Token := .scalar (BitVec.ofNat 64 status)
      let gives := fun (a b : Token) => BlockBecomes s (.tokenDelivery (.cell ⟨id, status, other⟩)) id x
        { x with done := x.done ++ [(id.idx, a, b)], asked := x.asked.filter fun e => decide (e.1 ≠ id.idx) }
      (opOf w = 0x7B → gives other st) ∧
      (opOf w = 0x79 ∨ opOf w = 0x7A → xhiOf w = 0 → gives st other) ∧
      (opOf w = 0x78 ∨ (opOf w = 0x79 ∨ opOf w = 0x7A) ∧ xhiOf w ≠ 0 → gives st st)

/-- A block that completes without an exit raises the no-exit fault, cause 0x13, and none of its effects is applied (R156). -/
def Claims.NoExitFaults : Prop :=
  ∀ (s : State) (id : ExecId) (a b : Token) (f : Fire), threadAt s f.c f.k = some f.th → f.th.block = some f.b →
    InProgress f → id = ⟨f.c, f.k, f.b.gen, id.idx⟩ → f.b.exit = none → f.i = 0xFF →
    isComplete { f.b with done := f.b.done ++ [(id.idx, a, b)] } = true →
    (∀ e ∈ s.agenda, e.2 ≠ .blockCommit f.c f.k f.b.gen) →
    ∃ t, exec (.tokenDelivery (.tokens id a b)) s = .next t ∧ TakesService t f 0x13 0 0 ∧
      t = { s with agenda := t.agenda, slots := t.slots, cores := t.cores } ∧
      threadAt t f.c f.k = some { f.th with wait := .fault, since := s.cycle, block := blockAt t f.c f.k } ∧
      BlockHas t f.c f.k (fun y => y.stopped = true ∧ y.effs = [] ∧ y.resv = []) ∧
      (∀ c k, k < 16 → (c, k) ≠ (f.c, f.k) → slotAt t c k = slotAt s c k) ∧
      ∀ c, (coreAt t c).s = (coreAt s c).s ∧ (coreAt t c).sems = (coreAt s c).sems ∧ (coreAt t c).chans = (coreAt s c).chans

/-- BLOCK_LOAD (R140, R153): a thread that waits for nothing gets the block at its next address when its words pass the checks: its
execution has a number of its own, and nothing of it has fired. An illegal block is service fault 0x12. -/
def Obligations.BlockLoads : Prop :=
  ∀ (s : State) (c k : Nat) (t : Thread) (bs : List Byte), threadAt s c k = some t → t.block = none → t.wait = .nothing →
    isFenced s c = false → (fetchOf t).out = 0 → fetchBlockAt s c k t.asid (fetchOf t) t.next.toNat = .ok bs →
    let ws := wordsOf bs
    let check := checkBlock
      { header := ws.getD 0 0, mask := ws.getD 1 0, addr := t.next.toNat, words := ws.drop 2, frame := !t.frames.isEmpty,
        latched := t.retry.elim [] fun l => l.vals.map fun v => (v.idx, v.op) }
    (check = none → ∃ u b, exec (.blockLoad c k) s = .next u ∧ blockAt u c k = some b ∧ b.addr = t.next ∧
      b.words = (ws.drop 2).map (BitVec.ofNat 32) ∧ b.fired = [] ∧ b.done = [] ∧ b.effs = [] ∧ b.exit = none ∧
      b.gen = (slotAt s c k).gens ∧ (slotAt u c k).gens = (slotAt s c k).gens + 1 ∧ u.mem = s.mem ∧ u.cores = s.cores) ∧
    (∀ r i, check = some (r, i) → k < 16 → c < 2304 → ∃ u th, exec (.blockLoad c k) s = .next u ∧
      threadAt u c k = some th ∧ th.wait = .fault ∧ (creg u c 0x0F10).getLsbD k = true ∧
      creg u c (0x1000 + 32 * k) = causeWord false i r 0x12 ∧ creg u c (0x1008 + 32 * k) = t.next ∧ u.mem = s.mem)

/-- BLOCK_COMMIT of a block with one register write (R157, R158, R165, R168, R191): the register holds the value and is full, a V
register the live halves, a special register what its fields keep of the value, `%round` a reserved mode as 0, `%flags` with the
flags that the block has raised; every other register of these kinds stays, the thread goes on at the target of the exit, COMMITS
counts one, and no memory changes. -/
def Claims.CommitWritesRegister : Prop :=
  ∀ (s : State) (c k i : Nat) (t : Thread) (b : Block) (x : ExitFired) (e : Eff), MayCommit s c k t b x →
    x.lpx = false → isLoopEnd b = false → b.effs = [(i, e)] → i < b.words.length →
    (∃ n v, e = .writeG n v ∨ e = .writeS n v ∨ e = .writeSpecial n v ∨ ∃ d, e = .writeV n d v) →
    CommitGives s c k b fun u th =>
      let special := fun (m : Nat) (old : Word) (keep : Word → Word) => match e with
        | .writeSpecial n v => if n = m then keep v else old
        | _ => old
      th.next = x.target ∧ th.ltime = t.ltime ∧ th.frames = t.frames ∧ u.mem = s.mem ∧
      Pends s u 0 4 (c * 16 + k) (.blockLoad c k) ∧ creg u c 0x0EB0 = addSat64 (creg s c 0x0EB0) 1 ∧
      (∀ m, gReg th m = match e with
        | .writeG n v => if m = n then (v, true) else gReg t m
        | _ => gReg t m) ∧
      (∀ m, vReg th m = match e with
        | .writeV n d l => if m = n then (mergeReg (vReg t n).1 (d, l), true) else vReg t m
        | _ => vReg t m) ∧
      (∀ m, sReg (coreAt u c) m = match e with
        | .writeS n v => if m = n then (v, true) else sReg (coreAt s c) m
        | _ => sReg (coreAt s c) m) ∧
      th.slack = special 0x08 t.slack (· &&& 0xFF#64) ∧
      th.round = special 0x09 t.round (fun v => if (v &&& 7#64).toNat ≤ 4 then v &&& 7#64 else 0) ∧
      th.flags = special 0x0A t.flags (· &&& 0x107#64) ||| b.flags.bits ∧
      th.trapcause = special 0x0D t.trapcause (· &&& 0x80FFFFFF#64) ∧
      th.trapinfo0 = special 0x0E t.trapinfo0 id ∧ th.trapinfo1 = special 0x0F t.trapinfo1 id ∧
      ∀ m, m < 8 → mget 0 th.mbox m = special (0x10 + m) (mget 0 t.mbox m) id

/-- BLOCK_COMMIT merges the flags that its block has raised into `%flags` of the thread and into the flags of the block's sheaf, and
into those of no other sheaf (R68-R70). -/
def Claims.CommitMergesFlags : Prop :=
  ∀ (s : State) (c k : Nat) (t : Thread) (b : Block) (x : ExitFired), MayCommit s c k t b x → b.effs = [] →
    CommitGives s c k b fun u th => th.flags = t.flags ||| b.flags.bits ∧
      ∀ n, (sheafAt u n).flags = if b.sheaf = some n then (sheafAt s n).flags ||| b.flags.bits else (sheafAt s n).flags

/-- BLOCK_COMMIT releases a store as a store word (R157, R230, R326, R331): one of the own cistern is written at once, its word is full
and every other byte stays; one of another core changes no memory yet, leaves as a packet and waits for its acknowledgement. -/
def Claims.CommitReleasesStores : Prop :=
  ∀ (s : State) (c k i : Nat) (t : Thread) (b : Block) (x : ExitFired) (lsid slack w : Nat)
    (bytes : List (Nat × Word × Byte)), MayCommit s c k t b x → b.effs = [(i, .store lsid slack bytes)] →
    i < b.words.length → bytes ≠ [] → (∀ y ∈ bytes, y.1 / 8 = w) → (bytes.map (·.1)).Nodup →
    (∀ off, localOwner (w * 8) = .cistern c off →
      CommitGives s c k b fun u _ => (∀ y ∈ bytes, byteAt u y.1 = y.2.2) ∧ isFull u (w * 8) = true ∧
        (∀ q, (∀ y ∈ bytes, q ≠ y.1) → byteAt u q = byteAt s q) ∧ (∀ q, q / 8 ≠ w → isFull u q = isFull s q)) ∧
    ∀ d off, d ≠ c → localOwner (w * 8) = .cistern d off → reaches s c (.cistern d off) = true →
      CommitGives s c k b fun u _ => u.mem = s.mem ∧ u.empty = s.empty ∧
        ∃ e : SentWord, (coreAt u c).sent = [e] ∧ e.inc = t.incarn.toNat ∧ e.going = true ∧ e.missed = false ∧
          e.word.core = c ∧ e.word.slot = k ∧ e.word.word = w ∧ e.word.slack = slack ∧ e.word.tag = none ∧
          e.word.bytes.length = bytes.length ∧ (∀ y ∈ bytes, (y.1 % 8, y.2.2) ∈ e.word.bytes) ∧
          ∃ p ∈ (routerAt u c).packets ++ (routerAt u c).offered,
            p.1 = 6 ∧ p.2.msg = .store e.word ∧ p.2.dst = .core d ∧ p.2.slack = slack

/-- BLOCK_COMMIT of one other effect (R157, R164, R170, R175, R247, R254, R274, R282, R359): a call fills G63 with the return address;
RDT empties its register; a command enters the lowest free entry of its slot with its number, time, sheaf and cycle, ENGS counts
it, and its handover follows; a push goes to the end of the pipe that its WR has found; a loop of count 0 goes on at its exit, another one
pushes its frame; TADV and TSET leave `%ltime` at their time, and a member of a sheaf has −1 at the old time and +1 at the new
one recorded. -/
def Claims.CommitAppliesEffect : Prop :=
  ∀ (s : State) (c k i : Nat) (t : Thread) (b : Block) (x : ExitFired) (e : Eff), MayCommit s c k t b x →
    x.lpx = false → isLoopEnd b = false → b.effs = [(i, e)] → i < b.words.length →
    let gives := CommitGives s c k b
    (∀ ret, e = .call ret → gives fun u th => u.mem = s.mem ∧ gReg th 63 = (ret, true) ∧
      ∀ m, m ≠ 63 → gReg th m = gReg t m) ∧
    (∀ n, e = .takeReg 0 n → gives fun _ th => gReg th n = ((gReg t n).1, false) ∧ ∀ m, m ≠ n → gReg th m = gReg t m) ∧
    (∀ n, e = .takeReg 1 n → gives fun _ th => vReg th n = ((vReg t n).1, false) ∧ ∀ m, m ≠ n → vReg th m = vReg t m) ∧
    (∀ n, e = .takeReg 2 n → gives fun u _ => sReg (coreAt u c) n = ((sReg (coreAt s c) n).1, false) ∧
      ∀ m, m ≠ n → sReg (coreAt u c) m = sReg (coreAt s c) m) ∧
    (∀ y : Cmd, e = .command y → (b.sheaf = none ∨ t.ltime ≠ timeTop) → gives fun u th =>
      (coreAt u c).cmds = (coreAt s c).cmds ++ [(freeEntry s c k,
        { y with id := s.nextId, time := t.ltime, sheaf := b.sheaf, commit := s.cycle, nanTrap := t.flags.getLsbD 8,
                 col := (coreAt s c).colour })] ∧
      (coreAt u c).backlog = (coreAt s c).backlog + y.backlog ∧ th.engs = t.engs + 1 ∧ u.mem = s.mem ∧
      (if isCopy y then Pends s u 1 5 (22000 + c) (.commandHandover c) else Pends s u 1 5 (26800 + c) (.matrixHandover c))) ∧
    (∀ q dst tok sl, e = .push q dst tok sl → (b.sheaf = none ∨ t.ltime ≠ timeTop) →
      gives fun u _ =>
        Pends s u 1 5 (46400 + dst.1) (.standpipePush (c, q) dst tok b.sheaf t.ltime sl (coreAt s c).colour) ∧ u.mem = s.mem) ∧
    (∀ level count exit, e = .loop level count exit → gives fun _ th =>
      if count = 0 then th.frames = t.frames ∧ th.next = exit
      else th.frames = ⟨count, level, x.target, exit⟩ :: t.frames ∧ th.next = x.target) ∧
    (∀ v, e = .advance v ∨ e = .setTime v → gives fun u th => th.ltime = v ∧ th.next = x.target ∧
      (∀ n, sheafOf t = some n → (coreAt s c).counts = [] → v ≠ t.ltime → v ≠ timeTop → t.ltime ≠ timeTop →
        (coreAt u c).counts = [⟨n, t.ltime, -1⟩, ⟨n, v, 1⟩]))

/-- BLOCK_COMMIT of a block without effects takes its loop-end step (R171, R172): in a loop-end block `%ltime` advances by one unit of
the frame's level, and the frame counts down and goes to its start, or is popped and the block goes on at its exit's target, when its
count is 1 or an LPX fires; elsewhere an LPX pops one frame. -/
def Claims.CommitEndsLoop : Prop :=
  ∀ (s : State) (c k : Nat) (t : Thread) (b : Block) (x : ExitFired), MayCommit s c k t b x → b.effs = [] →
    (∀ f rest, isLoopEnd b = true → t.frames = f :: rest →
      CommitGives s c k b fun _ th => th.ltime = advanceTime t.ltime f.level.toNat 1 ∧
        if x.lpx = true ∨ f.count = 1 then th.frames = rest ∧ th.next = x.target
        else th.frames = { f with count := f.count - 1 } :: rest ∧ th.next = f.start) ∧
    (isLoopEnd b = false →
      CommitGives s c k b fun _ th => th.ltime = t.ltime ∧ th.next = x.target ∧
        th.frames = if x.lpx then t.frames.drop 1 else t.frames)

/-- OWNER_ACCESS of a core's own read and LDS (R232, R234): a read changes no memory and its bytes are on their way; an LDS of a full
word takes it and leaves it empty, one of an empty word is refused and changes nothing. -/
def Claims.OwnerReads : Prop :=
  ∀ (s : State) (r : Req) (pa off : Nat), (r.bytes.headD (0, 0)).2 = pa → r.asker = .own → r.eng = none →
    localOwner pa = .cistern r.id.core off →
    let comes := fun (u : State) (d : Delivery) => ∃ n, s.cycle ≤ n ∧
      (agendaKey n 2 (r.id.core * 16 + r.id.slot), Instr.tokenDelivery d) ∈ u.agenda
    (r.op = .read → ∃ u, exec (.ownerAccess r) s = .next u ∧ u = { s with agenda := u.agenda } ∧
      comes u (.bytes r.id (r.bytes.map fun b => (b.1, byteAt s b.2)))) ∧
    (r.op = .lds → isFull s pa = true → ∃ u, exec (.ownerAccess r) s = .next u ∧
      u = { s with agenda := u.agenda, empty := u.empty } ∧ isFull u pa = false ∧
      (∀ q, q / 8 ≠ pa / 8 → isFull u q = isFull s q) ∧ comes u (.taken r.id .lds (word64At s pa))) ∧
    (r.op = .lds → isFull s pa = false → ∃ u, exec (.ownerAccess r) s = .next u ∧ u = { s with agenda := u.agenda } ∧
      Pends s u 1 1 r.id.idx (.ldsStsRefusal r))

/-- OWNER_ACCESS of a core's own STS, AMO and BUMP (R234, R241, R242): STS fills an empty word and is refused by a full one; AMO
writes the new value and delivers the old one; BUMP counts up to the capacity and counts the overflow beyond it. Every byte
outside stays. -/
def Claims.OwnerUpdates : Prop :=
  ∀ (s : State) (r : Req) (pa off : Nat), (r.bytes.headD (0, 0)).2 = pa → r.asker = .own → r.eng = none →
    localOwner pa = .cistern r.id.core off → (off + 8 ≤ 0x14_0000) →
    let writes := fun (n new : Nat) (v : Word) => ∃ u m, exec (.ownerAccess r) s = .next u ∧ natAt u pa n = new ∧
      (∀ q, (q < pa ∨ pa + n ≤ q) → byteAt u q = byteAt s q) ∧ isFull u pa = true ∧
      (∀ q, q / 8 ≠ pa / 8 → isFull u q = isFull s q) ∧ s.cycle ≤ m ∧
      (agendaKey m 2 (r.id.core * 16 + r.id.slot), Instr.tokenDelivery (.taken r.id r.op v)) ∈ u.agenda
    (∀ v, r.op = .sts v → isFull s pa = false → writes 8 v.toNat 0) ∧
    (∀ v, r.op = .sts v → isFull s pa = true → ∃ u, exec (.ownerAccess r) s = .next u ∧ u = { s with agenda := u.agenda } ∧
      Pends s u 1 1 r.id.idx (.ldsStsRefusal r)) ∧
    (∀ op ty b c, r.op = .amo op ty b c →
      let n := amoBytes ty
      let m := 2 ^ (8 * n)
      let x := natAt s pa n
      let y := b.toNat % m
      let rd : Nat → Int := fun z => match ty with
        | .i64 | .i32 => Int.bmod z m
        | .n64 | .n32 => z
      writes n (match op with
          | .add => (x + y) % m
          | .min => if rd x ≤ rd y then x else y
          | .max => if rd x ≤ rd y then y else x
          | .and => x &&& y
          | .or => x ||| y
          | .swp => y
          | .cas => if x = y then c.toNat % m else x)
        (match ty with
          | .i32 => BitVec.ofInt 64 (Int.bmod x m)
          | _ => BitVec.ofNat 64 x)) ∧
    (∀ n, r.op = .bump n →
      let w := natAt s pa 8
      let count := w % 2 ^ 32
      let beyond := w / 2 ^ 48
      if count + n ≤ w / 2 ^ 32 % 2 ^ 16 then writes 8 (w + n) (BitVec.ofNat 64 count)
      else writes 8 (if beyond < 0xFFFF then w + 2 ^ 48 else w) (BitVec.ofNat 64 (2 ^ 63 + beyond)))

/-- STORE_WORD_APPLY (R230): the owning core writes the bytes of the word that the store names, and the word is full; every other byte
stays when the store trace is off (R233, R236). STORE_ACKNOWLEDGEMENT (R326) of the last store word of a core: it waits no more. -/
def Claims.StoreWords : Prop :=
  (∀ (s : State) (w : StoreWord) (h off : Nat), localOwner (w.word * 8) = .cistern h off →
    (∀ b ∈ w.bytes, b.1 < 8) → (w.bytes.map (·.1)).Nodup → creg s h 0x0208 = 0 →
    ∃ u, exec (.storeWordApply w) s = .next u ∧ isFull u (w.word * 8) = true ∧
      (∀ b ∈ w.bytes, byteAt u (w.word * 8 + b.1) = b.2) ∧
      ∀ q, (∀ b ∈ w.bytes, q ≠ w.word * 8 + b.1) → byteAt u q = byteAt s q) ∧
  (∀ (s : State) (c k : Nat) (w : SentWord), (coreAt s c).sent = [w] → (coreAt s c).batches = [] →
    blockAt s c k = none → (∀ t, threadAt s c k = some t → t.wait ≠ .fault) →
    ∃ u, exec (.storeAcknowledgement c k w.word.sid) s = .next u ∧ (coreAt u c).sent = [] ∧ u.mem = s.mem)

/-- LDS_STS_REFUSAL and LDS_STS_RESEND (R234, R235): a refusal is counted in RETRYCNT, and under the limit the request goes out again
64 cycles later; a resend within the own cistern asks again in its cycle. -/
def Claims.RefusedRequestsRetry : Prop :=
  ∀ (s : State) (r : Req) (b : Block) (p : Pending) (off : Nat), blockAt s r.id.core r.id.slot = some b →
    b.gen = r.id.gen → b.stopped = false → pendOf b r.id.idx = some p → r.id.slot < 16 →
    isLeaving s r.id.core r.id.slot = false →
    (creg s r.id.core 0x0200).toNat % 65536 = 0 ∨ p.refusals + 1 < (creg s r.id.core 0x0200).toNat % 65536 →
    (∃ u, exec (.ldsStsRefusal r) s = .next u ∧ creg u r.id.core 0x0238 = addSat64 (creg s r.id.core 0x0238) 1 ∧
      Pends s u 64 1 (r.id.core * 16 + r.id.slot) (.ldsStsResend r) ∧ u.mem = s.mem ∧ u.empty = s.empty) ∧
    (ownerOf s (r.bytes.headD (0, 0)).2 = .cistern r.id.core off → reaches s r.id.core (.cistern r.id.core off) = true →
      ∃ u, exec (.ldsStsResend r) s = .next u ∧ u = { s with agenda := u.agenda } ∧
        Pends s u 0 1 (r.id.core * 16 + r.id.slot) (.ownerAccess r))

/-- PAGE_WALK (R224, R228, R243) of the one walk of a die: while it lacks an entry of its tables it asks the wellhead of that entry for
its 8 bytes, with a permit of the die's walkers and SLACK 32 (log entry 139), and the bytes that come are the entry with which it goes
on in the next cycle. A walk that is not an access's and finds its leaf is in flight no more, the leaf stands in the TLB of the core
that waited, and a prefetch of GDDR7 then asks the wellhead for the granule: that one which missed takes a walk first is DEDUCED (log
entry 100). WELLHEAD_REQUEST (R228): the oldest request leaves the queue of its wellhead; a load changes no memory. -/
def Obligations.WalksAndWellheads : Prop :=
  (∀ (s : State) (d asid page : Nat) (ws : List (Nat × Nat × WalkUse)) (before : Bool) (l : List (Nat × Option Nat)),
    (∀ (pa dd w : Nat), (dieAt s d).walks = [⟨asid, page, ws, true, false, before, l, false⟩] →
      walkPage s l asid page = .more pa → localOwner pa = .gddr dd w → reaches s (unitRouter d) (.gddr dd w) = true →
      ((wellAt s (wellOf dd w)).held.filter fun h => h = walkerPool d).length < 8 →
      ∃ u, exec (.pageWalk d asid page) s = .next u ∧ u.mem = s.mem ∧ u.slots = s.slots ∧ u.cores = s.cores ∧
        (dieAt u d).walks = [⟨asid, page, ws, true, false, before, l, true⟩] ∧
        (wellAt u (wellOf dd w)).held = (wellAt s (wellOf dd w)).held ++ [walkerPool d] ∧
        ∃ p ∈ (routerAt u (unitRouter d)).packets ++ (routerAt u (unitRouter d)).offered,
          p.2.dst = .well (wellOf dd w) ∧ p.2.slack = 32 ∧ ∃ r : Req, p.2.msg = .access r ∧ r.op = .read ∧
            r.bytes.map (·.2) = (List.range 8).map (pa + ·) ∧ r.eng = some (.walker d asid page)) ∧
    ∀ (pa : Nat) (data : List Byte), (dieAt s d).walks = [⟨asid, page, ws, true, false, before, l, true⟩] →
      ∃ u, exec (.tokenDelivery (.engine (.walker d asid page) (.bytes pa data))) s = .next u ∧ u.mem = s.mem ∧
        u.slots = s.slots ∧ u.cores = s.cores ∧
        (dieAt u d).walks = [⟨asid, page, ws, true, false, before, l ++ [(pa, some (leNat data))], false⟩] ∧
        ∃ n, (n, Instr.pageWalk d asid page) ∈ u.agenda) ∧
  (∀ (s : State) (d c k asid page : Nat) (use : WalkUse) (before : Bool) (l : List (Nat × Option Nat)) (e : TlbEntry),
    (dieAt s d).walks = [⟨asid, page, [(c, k, use)], true, false, before, l, false⟩] → walkPage s l asid page = .leaf e →
    ((∃ a, use = .load a) ∨ (∃ n, use = .engine n) ∨
      ∃ id va sl st, use = .prefetch id va sl st ∧ id.core = c ∧ va.toNat / 2 ^ 16 = page) →
    ∃ u, exec (.pageWalk d asid page) s = .next u ∧ (dieAt u d).walks = [] ∧ e ∈ (coreAt u c).tlb ∧ u.mem = s.mem ∧
      u.slots = s.slots ∧
      ∀ id va sl st dd w, use = .prefetch id va sl st → (coreAt s c).tlb = [] → e.r = true →
        0x14_0000 ≤ va.toNat → va.toNat < 2 ^ 56 →
        let pa := e.pa + (va.toNat - e.page * 2 ^ 16)
        ownerOf s pa = .gddr dd w → reaches s c (.gddr dd w) = true → (wellAt s (wellOf dd w)).held = [] →
        ∃ p ∈ (routerAt u c).packets ++ (routerAt u c).offered, p.2.dst = .well (wellOf dd w) ∧
          p.2.msg = .access ⟨id, .read, [(0, pa)], sl, false, st, .own, none⟩) ∧
  (∀ (s : State) (w : Nat) (r : Req) (n : Nat) (rest : List (Msg × Nat)), (wellAt s w).queue = (.access r, n) :: rest →
    (wellAt s w).stopped = false → r.op = .read →
    ∃ u, exec (.wellheadRequest w) s = .next u ∧ (wellAt u w).queue = rest ∧ u.mem = s.mem ∧ u.slots = s.slots)

/-! ### Events: engines, semaphores, channels -/

/-- COMMAND_HANDOVER (R248), MATRIX_HANDOVER (R282) and FOLLOW_ON_START (R297) of a core with one command that waits: it leaves its
entry or its staged slot for the end of the queue of the least-filled siphon of the die, or of the matrix unit while that has
room. -/
def Claims.CommandsHandedOver : Prop :=
  ∀ (s : State) (c : Nat) (e : Nat × Cmd),
    ((coreAt s c).cmds = [e] → isCopy e.2 = true → ∀ n, leastSiphon s (dieOf c) (List.range 16) = some n →
      let q := dieOf c * 16 + n
      ∃ t, exec (.commandHandover c) s = .next t ∧ (coreAt t c).cmds = [] ∧
        (siphonAt t q).queue = (siphonAt s q).queue ++ [{ e.2 with mode := deviceMode s }] ∧
        (∀ j, j ≠ q → siphonAt t j = siphonAt s j) ∧ t.mem = s.mem ∧ t.slots = s.slots) ∧
    ((coreAt s c).cmds = [e] → isCopy e.2 = false → (coreAt s c).mu.queue.length < 16 →
      ∃ t, exec (.matrixHandover c) s = .next t ∧ (coreAt t c).cmds = [] ∧
        (coreAt t c).mu.queue = (coreAt s c).mu.queue ++ [{ e.2 with mode := deviceMode s }] ∧
        t.mem = s.mem ∧ t.slots = s.slots) ∧
    (∀ cmd, mget Staged.reset (coreAt s c).mu.staged 0 = ⟨some cmd, true⟩ → (coreAt s c).mu.queue.length < 16 →
      ∃ t, exec (.followOnStart c) s = .next t ∧ mget Staged.reset (coreAt t c).mu.staged 0 = Staged.reset ∧
        (coreAt t c).mu.queue = (coreAt s c).mu.queue ++ [{ cmd with mode := deviceMode s }] ∧
        t.mem = s.mem ∧ t.slots = s.slots)

/-- SIPHON_START (R249, R256, R263, R269): once the shape records of the head command have come, one with a command fault starts at
once, to end with it; another one starts when its lists have come, all its bytes are located and its range locks fit, which it then
holds at every core, and stays as it is while they do not. No byte of memory changes. The completion is due in the cycle after the
start while State.delays is empty (log entry 3). -/
def Claims.SiphonStarts : Prop :=
  ∀ (s : State) (q : Nat) (c : Cmd) (rest : List Cmd) (x : Xfer), siphonAt s q = ⟨c :: rest, false, x⟩ → AllCome x →
    let u := Engine.siphon q c.id
    let d := startedCmd s c x
    let copy := copyOf d x
    let moves := plannedMoves s copy
    let es := lockEntries c.id (readPas x (sourceRanges copy moves.1)) (writePas x (destRanges copy moves.2))
    let begins := fun (y : Xfer) => ∃ t, exec (.siphonStart q) s = .next t ∧ siphonAt t q = ⟨d :: rest, true, y⟩ ∧
      (s.delays = [] → Pends s t 1 5 (21100 + q) (.copyCompletion q)) ∧ t.mem = s.mem ∧ t.slots = s.slots ∧
      (d.stop = none → ∀ e ∈ es, e.2 ∈ (coreAt t e.1).locks)
    located s u c (recordRanges c) [] = (x, []) →
    (d.stop.isSome = true → begins (withGroups copy)) ∧
    (d.stop = none → located s u d (listRanges copy) [] = (x, []) → headersFault copy = none →
      located s u d (sourceRanges copy moves.1) (destRanges copy moves.2 ++ headerRanges copy) = (x, []) →
      (locksFit s es = true → begins (withGroups copy)) ∧
      (locksFit s es = false → ∃ t, exec (.siphonStart q) s = .next t ∧ siphonAt t q = siphonAt s q ∧
        (∀ h, (coreAt t h).locks = (coreAt s h).locks) ∧ t.mem = s.mem ∧ t.slots = s.slots))

/-- COPY_COMPLETION (R256, R262, R263, R427): a copy completes with its fault, with the result whose store words have all been
answered, or, when an uncorrectable error has withheld its data, with nothing moved: it leaves the queue, its locks are released, its
semaphore is written, and no byte of memory changes in that step; while a store word of it is not answered, nothing changes. That all
elements of a copy move in one step is log entry 17. -/
def Claims.CopiesComplete : Prop :=
  ∀ (s : State) (q : Nat) (c : Cmd) (rest : List Cmd) (x : Xfer), siphonAt s q = ⟨c :: rest, true, x⟩ → c.core < 2304 →
    let r := c.r.toNat
    let ends := fun (m : Moved) => (m.stop.isSome = true ∨ r.testBit 8 = false) →
      ∃ t, exec (.copyCompletion q) s = .next t ∧ (siphonAt t q).queue = rest ∧ (siphonAt t q).started = false ∧ t.mem = s.mem ∧
        semAt (coreAt t c.core) (r % 64) = semAdd (r / 65536 % 65536) (semFault m.stop
          { semAt (coreAt s c.core) (r % 64) with short := BitVec.ofNat 48 m.short, clip := m.clip }) ∧
        ∀ h, ∀ l ∈ (coreAt t h).locks, l.cmd ≠ c.id
    (x.withheld = true → ends Moved.none) ∧
    (x.withheld = false → ∀ f, c.stop = some f → ends { Moved.none with stop := some f }) ∧
    (x.withheld = false → c.stop = none → ∀ m, x.result = some m →
      (x.out = 0 → ends { m with stop := m.stop.or (lateFault x) }) ∧
      (x.out ≠ 0 → exec (.copyCompletion q) s = .next s))

/-- A plain copy of one element between records of one format that carries no scale and packs no groups (R25, R253, R256, R257): the
element's bytes, read at the source BASE plus the element size times the origin under the strides, leave for the address that lies at
the destination BASE, as a store word of the siphon to the core that owns it, and no other byte is written; SHORT is the size of the
element, and there is neither a flag nor a saturation. -/
def Claims.CopyOfOneElement : Prop :=
  ∀ (s : State) (q w h : Nat) (c : Cmd) (rest : List Cmd) (x : Xfer) (a : Fmt) (bs : List Byte) (ps : List Nat),
    siphonAt s q = ⟨c :: rest, true, x⟩ → AllCome x → c.stop = none → c.kind = .copy 0 →
    let copy := copyOf c x
    let from_ := fun (d : Nat) => copy.og d
    let n := ((List.range (copy.src.ndim + 1)).map fun d => from_ d * copy.src.stride d).sum
    fmtOf copy.src.fmt = some a → copy.dst.fmt = copy.src.fmt → a.sixBit = false → a.scaled = false → copy.src.ndim < 4 →
    (∀ d, d ≤ copy.src.ndim → copy.bx d = 1 ∧ from_ d < copy.src.extent d) →
    (∀ d, d ≤ copy.dst.ndim → 0 < copy.dst.extent d) →
    gotBytes x [] (copy.src.base.toNat + a.bytes * n) a.bytes = .ok bs →
    destPas x none copy.dst.base.toNat a.bytes = .ok ps → ps.Nodup → (∀ p ∈ ps, p / 8 = w) →
    (∃ off, ownerOf s (w * 8) = .cistern h off ∧ reaches s (engineRouter (.siphon q c.id)) (.cistern h off) = true) →
    h ≠ engineRouter (.siphon q c.id) →
    ∃ t, exec (.copyCompletion q) s = .next t ∧ t.mem = s.mem ∧ (siphonAt t q).queue = c :: rest ∧
      (siphonAt t q).xfer.out = 1 ∧ (siphonAt t q).xfer.result = some { Moved.none with short := a.bytes } ∧
      ∃ p ∈ (routerAt t (engineRouter (.siphon q c.id))).packets ++ (routerAt t (engineRouter (.siphon q c.id))).offered,
        p.2.dst = .core h ∧ p.2.slack = c.slack ∧ ∃ z : StoreWord, p.2.msg = .store z ∧ z.word = w ∧
          z.bytes.length = a.bytes ∧ (∀ j, j < a.bytes → (ps.getD j 0 % 8, bs.getD j 0) ∈ z.bytes) ∧ z.eng = some (.siphon q c.id)

/-- The matrix unit's execution events on the head command of the queue, once it has started, all that it reads has come, and no entry
of another command stands in the way (R284, R285, R292-R299): MPROG installs program and constants, MLW the latch and its format, MZR the
constant in its rows, MMOV.AA the rows it names, MRES.DROP clears the record; each command leaves the queue. -/
def Claims.MatrixUnitWrites : Prop :=
  ∀ (s : State) (c : Nat) (x : Cmd) (rest : List Cmd), (coreAt s c).mu.queue = x :: rest → x.core = c →
    (coreAt s c).mu.busy = true → AllCome (coreAt s c).mu.xfer →
    matrixBlocked s x (coreAt s c).mu.xfer = false →
    let old := (coreAt s c).mu
    let ends := fun (i : Instr) (P : MatrixUnit → Prop) =>
      ∃ t, exec i s = .next t ∧ (coreAt t c).mu.queue = rest ∧ P (coreAt t c).mu ∧ t.mem = s.mem
    (x.kind = .mprog → ends (.mprogInstall c) fun m =>
      m.prog = x.l ∧ m.k0 = x.r.toNat % 2 ^ 32 ∧ m.k1 = x.r.toNat / 2 ^ 32 ∧ m.latch = old.latch ∧ m.acc = old.acc) ∧
    (∀ sc ws fl, x.kind = .mlw sc →
      weightRows old.xfer x sc (List.range 32) = .ok (ws, fl) →
      ends (.mlwExecution c) fun m => m.latch = latchOf ws ∧ m.wfmt = ctlFmt x.r.toNat ∧ m.acc = old.acc ∧
        m.prog = old.prog) ∧
    (x.kind = .mzr → ends (.mzrExecution c) fun m => m.latch = old.latch ∧ m.prog = old.prog ∧ ∀ n, mget 0 m.acc n =
      if ctlRow x.r.toNat ≤ n ∧ n < ctlRow x.r.toNat + ctlRows x.r.toNat then splat32 (x.l.toNat % 2 ^ 32)
      else mget 0 old.acc n) ∧
    (x.kind = .mmov .aa → ends (.mmovExecution c) fun m => m.latch = old.latch ∧ ∀ n, mget 0 m.acc n =
      if x.l.toNat ≤ n ∧ n < x.l.toNat + ctlRows x.r.toNat then mget 0 old.acc (ctlRow x.r.toNat + (n - x.l.toNat))
      else mget 0 old.acc n) ∧
    (x.kind = .mres true → ends (.mresExecution c) fun m => m.acc = old.acc ∧
      mget ResumeRec.reset m.resume x.slot = ResumeRec.reset)

/-- MMA_EXECUTION of one row without a NANTRAP, and MST_EXECUTION of one row (R284, R294, R295): the accumulator row becomes what the
microprogram makes of the row of activations; or its elements in the format of the command are written, in the own cistern at once with
the command's end, in another core's by a store word on whose acknowledgement the command waits. -/
def Claims.MatrixUnitRows : Prop :=
  ∀ (s : State) (c : Nat) (x : Cmd) (rest : List Cmd), (coreAt s c).mu.queue = x :: rest → x.core = c →
    (coreAt s c).mu.busy = true → ctlRows x.r.toNat = 1 → AllCome (coreAt s c).mu.xfer →
    matrixBlocked s x (coreAt s c).mu.xfer = false →
    let io := (coreAt s c).mu.xfer
    (∀ row g, x.kind = .mma false → x.nanTrap = false →
      streamRow io false x.l.toNat x.r.toNat x.p.toNat 0 = .ok (row, g) →
      ∃ t, exec (.mmaExecution c) s = .next t ∧ (coreAt t c).mu.queue = rest ∧ t.mem = s.mem ∧
        ∀ n, mget 0 (coreAt t c).mu.acc n =
          if n = ctlRow x.r.toNat then packRow ((newRow (coreAt s c) (ctlRow x.r.toNat) row).map (·.1))
          else mget 0 (coreAt s c).mu.acc n) ∧
    (∀ ps, x.kind = .mst → destPas io none x.l.toNat (storeRowBytes x.r.toNat) = .ok ps → ps.Nodup →
      let bytes := ps.zip (rowImage (ctlFmt x.r.toNat) ((narrowRow (coreAt s c) x (ctlRow x.r.toNat)).map (·.1)))
      ((∀ p ∈ ps, ∃ off, localOwner p = .cistern c off) → reaches s c (.cistern c 0) = true →
        ∃ t, exec (.mstExecution c) s = .next t ∧ (coreAt t c).mu.queue = rest ∧ (∀ b ∈ bytes, byteAt t b.1 = b.2) ∧
          ∀ q, (∀ b ∈ bytes, q ≠ b.1) → byteAt t q = byteAt s q) ∧
      (∀ w h off, ps ≠ [] → (∀ p ∈ ps, p / 8 = w) → ownerOf s (w * 8) = .cistern h off → h ≠ c →
        reaches s c (.cistern h off) = true →
        ∃ t, exec (.mstExecution c) s = .next t ∧ (coreAt t c).mu.queue = x :: rest ∧ (coreAt t c).mu.xfer.out = 1 ∧
          t.mem = s.mem ∧ ∃ p ∈ (routerAt t c).packets ++ (routerAt t c).offered,
            p.2.dst = .core h ∧ ∃ z : StoreWord, p.2.msg = .store z ∧ z.word = w ∧ z.eng = some (.matrix c x.id) ∧
              ∀ b ∈ bytes, (b.1 % 8, b.2) ∈ z.bytes))

/-- PROMISE_MISSED, SLPT_WAKE and YLD_EXPIRY (R266, R267, R369): a SACQP whose promise has passed while it is short takes trap 0x02,
a sleeping thread whose tick has come waits no more, and a yield that is over ends. -/
def Claims.WaitsEnd : Prop :=
  (∀ (s : State) (f : Fire) (m n : Nat) (v : Word), threadAt s f.c f.k = some f.th → f.th.block = some f.b →
    f.b.stopped = false → f.k < 16 → f.th.wait = .semaphore m n (some v) → v.toNat < s.tick → available s f.c m < n →
    f.th.hndl = false → word64At s (launchPa f.c f.k 0x80) ≠ 0 → parkedIndex s f.c f.k = f.i →
    ∃ t th, exec (.promiseMissed f.c f.k) s = .next t ∧ threadAt t f.c f.k = some th ∧
      th.trapcause = causeWord false f.i m 0x02 ∧ th.trapinfo1 = v ∧ th.trapinfo0 = f.b.addr ∧ th.hndl = true ∧
      th.next = word64At s (launchPa f.c f.k 0x80) ∧ t.mem = s.mem) ∧
  (∀ (s : State) (c k : Nat) (t : Thread) (a : Word), threadAt s c k = some t → t.wait = .sleep a → a.toNat ≤ s.tick →
    ∃ u, exec (.slptWake c k) s = .next u ∧ threadAt u c k = some { t with wait := .nothing } ∧
      u = { s with slots := u.slots }) ∧
  (∀ (s : State) (c k n : Nat) (t : Thread), threadAt s c k = some t → t.wait = .yielding n → n ≤ s.cycle → t.waits = [] →
    ∃ u th, exec (.yldExpiry c k) s = .next u ∧ threadAt u c k = some th ∧ th.wait = .nothing ∧ u.mem = s.mem ∧
      Pends s u 0 4 (c * 16 + k) (.blockLoad c k))

/-- STANDPIPE_PUSH, CREDIT_RETURN and STREAM_READ_AHEAD (R274-R277): an entry joins the end of the buffer of its pipe while the input is
bound to the output that it comes from, whatever has become of that output; otherwise it is thrown away and counted in CHDISC (log
entry 21, DEDUCED); a credit of an output is no longer on its way; the streamer has read its next entry from the cistern. -/
def Claims.ChannelEvents : Prop :=
  ∀ (s : State) (c q : Nat),
    (∀ src out tok sh time sl col,
      let bound := ∃ d, (chanAt (coreAt s c) q).bind = .pipe d out ∧ neighbour c d = some src
      (bound →
        ∃ t, exec (.standpipePush (src, out) (c, q) tok sh time sl col) s = .next t ∧ chanAt (coreAt t c) q =
            { chanAt (coreAt s c) q with buf := (chanAt (coreAt s c) q).buf ++ [⟨tok, sh, time, sl, col⟩] } ∧
          (∀ n, n ≠ q → chanAt (coreAt t c) n = chanAt (coreAt s c) n) ∧ t.mem = s.mem ∧ t.slots = s.slots) ∧
      (¬ bound →
        ∃ t, exec (.standpipePush (src, out) (c, q) tok sh time sl col) s = .next t ∧
          creg t c 0x0C00 = addSat64 (creg s c 0x0C00) 1 ∧
          (∀ d n, (chanAt (coreAt t d) n).buf = (chanAt (coreAt s d) n).buf) ∧ t.mem = s.mem)) ∧
    (∃ t, exec (.creditReturn c q) s = .next t ∧
      chanAt (coreAt t c) q = { chanAt (coreAt s c) q with returning := (chanAt (coreAt s c) q).returning - 1 } ∧
      t = { s with cores := t.cores }) ∧
    (∀ base stride count next v a, (chanAt (coreAt s c) q).bind = .stream base stride count next v →
      (chanAt (coreAt s c) q).ahead = [] → next < count → streamAddr base stride next v = some a →
      ∃ t, exec (.streamReadAhead c q) s = .next t ∧
        (chanAt (coreAt t c) q).ahead = [(next, if v then .vec (BitVec.ofNat 1024 (natAt s (cisternPa c a) 128))
          (BitVec.allOnes 64) else .scalar (word64At s (cisternPa c a)))] ∧
        (chanAt (coreAt t c) q).bind = (chanAt (coreAt s c) q).bind ∧ t.mem = s.mem ∧ t.slots = s.slots)

/-! ### Events: threads and their messages -/

/-- FILL_ARRIVAL at a resident thread (R166): the value enters the register that its selector names, which was empty and is full now;
at a full register it waits, and its slack next counts down at the end of the eighth cycle (R310). -/
def Claims.FillArrives : Prop :=
  ∀ (s : State) (m : TaskMsg) (n : Nat) (t : Thread) (v : Word), m.src = m.core → m.sel = some n → n < 16 →
    m.value = .scalar v → threadAt s m.core m.slot = some t → t.incarn.toNat = m.inc → m.sheaf = none → m.ack = false →
    (fillFull t n = false → ∃ u th, exec (.fillArrival m) s = .next u ∧ threadAt u m.core m.slot = some th ∧
      th = fillInto n (.scalar v) t ∧ u.mem = s.mem) ∧
    (fillFull t n = true → ∃ u, exec (.fillArrival m) s = .next u ∧ (coreAt u m.core).fills = (coreAt s m.core).fills ++ [(s.nextId, m)] ∧
      Pends s u 7 6 (23000 + m.core) (.slackDecrement (fillBuffer m.core) s.nextId) ∧ u.slots = s.slots ∧ u.mem = s.mem)

/-- WAKE_ARRIVAL (R367, R369): a thread that is not parked keeps the wake in WAKEP; a parked one goes on. REPORT_WORD_ADD (R368): the
word of the issuer counts one applied message in its low half or one dropped in its high half. -/
def Claims.WakeAndReport : Prop :=
  (∀ (s : State) (m : TaskMsg) (t : Thread), threadAt s m.core m.slot = some t → t.incarn.toNat = m.inc →
    m.ack = false → m.fault = false →
    (t.wait ≠ .parked → ∃ u, exec (.wakeArrival m) s = .next u ∧ threadAt u m.core m.slot = some { t with wakep := true } ∧
      u.mem = s.mem) ∧
    (t.wait = .parked → t.waits = [] → ∃ u th, exec (.wakeArrival m) s = .next u ∧ threadAt u m.core m.slot = some th ∧
      th.wait = .nothing ∧ u.mem = s.mem ∧ Pends s u 0 4 (m.core * 16 + m.slot) (.blockLoad m.core m.slot))) ∧
  (∀ (s : State) (c w : Nat) (b : Bool), c < 2304 → 0x1000 ≤ 8 * w → 8 * w + 8 ≤ 0x12_7000 →
    ∃ u, exec (.reportWordAdd c w b) s = .next u ∧
      word64At u (cisternPa c (8 * w)) = word64At s (cisternPa c (8 * w)) + (if b then 1 else BitVec.ofNat 64 (2 ^ 32)) ∧
      ∀ q, (q < cisternPa c (8 * w) ∨ cisternPa c (8 * w) + 8 ≤ q) → byteAt u q = byteAt s q)

/-- FACK_RETRY, FACK_TRAP and FACK_END of a fault whose accesses are settled (R390): the held block is loaded again at its latched
address and time; the fault becomes a user trap with SVC 1; or the thread ends and its slot is Free. -/
def Claims.FaultAcknowledged : Prop :=
  ∀ (s : State) (c k : Nat) (t : Thread), threadAt s c k = some t → t.wait = .fault → faultSettled s c k t = true → k < 16 →
    t.waits = [] → (∀ b, t.block = some b → b.stopped = true) →
    (∀ l, t.retry = some l → stopsForCut s c k = false →
      ∃ u th, exec (.fackRetry c k) s = .next u ∧ threadAt u c k = some th ∧ th.next = l.addr ∧ th.ltime = l.ltime ∧
        th.block = none ∧ th.wait = .nothing ∧ (creg u c 0x0F10).getLsbD k = false ∧
        Pends s u 0 4 (c * 16 + k) (.blockLoad c k) ∧ u.mem = s.mem) ∧
    (t.hndl = false → word64At s (launchPa c k 0x80) ≠ 0 →
      let w := (creg s c (0x1000 + 32 * k)).toNat
      ∃ u th, exec (.fackTrap c k) s = .next u ∧ threadAt u c k = some th ∧ th.hndl = true ∧
        th.next = word64At s (launchPa c k 0x80) ∧
        th.trapcause = causeWord true (w / 65536 % 256) (w / 256 % 256) (w % 256) ∧
        th.trapinfo1 = creg s c (0x1010 + 32 * k) ∧ (creg u c 0x0F10).getLsbD k = false ∧ u.mem = s.mem) ∧
    (t.noSheaf = true → k ≠ 15 → ∃ u, exec (.fackEnd c k) s = .next u ∧ threadAt u c k = none ∧ (slotAt u c k).state = .free ∧
      (creg u c 0x0F10).getLsbD k = false ∧ u.mem = s.mem)

/-- SCOPE_MISS (R338, R339): the thread of the word that came back takes service fault 0x15. While a word of the same commit that its
scope misses too has not come back, the word is kept as missed and without its tag; once none is left, and no other word of the thread is on
its way, it leaves again, without the tag that it had. -/
def Claims.ScopeMissed : Prop :=
  ∀ (s : State) (f : Fire) (w : SentWord), threadAt s f.c f.k = some f.th → f.th.block = some f.b → InProgress f →
    f.th.incarn.toNat = w.inc → w.word.core = f.c → w.word.slot = f.k → f.i = 0xFF → w.missed = false → w.again = false →
    let reach := fun (x : SentWord) => reachOf f.c (ownerOf s (x.word.word * 8))
    (∀ (y : SentWord) (z : Scope), (coreAt s f.c).sent = [w, y] → y.word.sid ≠ w.word.sid → y.word.slot = f.k → y.inc = w.inc →
      y.commit = w.commit → y.missed = false → y.again = false → y.word.tag = some z → encScope z < reach y →
      ∃ u, exec (.scopeMiss w.word) s = .next u ∧ TakesService u f 0x15 (reach w) w.word.va ∧
        (coreAt u f.c).sent = [{ w with missed := true, word := { w.word with tag := none } }, y] ∧ u.mem = s.mem) ∧
    ((coreAt s f.c).sent = [w] →
      ∃ u, exec (.scopeMiss w.word) s = .next u ∧ TakesService u f 0x15 (reach w) w.word.va ∧ u.mem = s.mem ∧
        (reaches s f.c (ownerOf s (w.word.word * 8)) = true →
          (coreAt u f.c).sent = [{ w with going := true, again := true, word := { w.word with tag := none } }]))

/-- STEAL_REQUEST, STEAL_REPLY and STEAL_BACKOFF (R115): a victim's oldest hardware entry leaves its deque; a reply without an entry
backs the thief off for 256 cycles, and one with an entry enters the thief's deque when it has no Free slot; the end of the
backoff clears it. -/
def Claims.Steals : Prop :=
  (∀ (s : State) (x : Steal), x.entry = none → ∃ u, exec (.stealReply x) s = .next u ∧
    (coreAt u x.thief).steal = ⟨(coreAt s x.thief).steal.position, false, some (s.cycle + 256)⟩ ∧
    Pends s u 256 7 (stealPlace x.thief) (.stealBackoff x.thief) ∧ u.mem = s.mem ∧ u.slots = s.slots) ∧
  (∀ (s : State) (c : Nat), ∃ u, exec (.stealBackoff c) s = .next u ∧ (coreAt u c).steal.backoff = none ∧ u.mem = s.mem ∧
    u.slots = s.slots) ∧
  (∀ (s : State) (v : Nat) (x : Steal) (e : DequeEntry) (es : List DequeEntry), (coreAt s v).deque = e :: es →
    (coreAt s v).spillCount = 0 →
    ∃ u, exec (.stealRequest v x) s = .next u ∧ (coreAt u v).deque = es ∧ u.mem = s.mem ∧ u.slots = s.slots)

/-- A stolen task enters the deque of a thief without a Free slot (R115), with its creator's colour (R86). -/
def Claims.StolenTaskQueued : Prop :=
  ∀ (s : State) (x : Steal) (a b c : Word) (n : Nat), x.entry = some (a, b, c, n) → freeSlots s x.thief = [] → isFenced s x.thief = false →
    (coreAt s x.thief).deque = [] → (coreAt s x.thief).spillCount = 0 →
    ∃ u, exec (.stealReply x) s = .next u ∧ (coreAt u x.thief).deque = [⟨a, b, c, n, x.col⟩] ∧
      (coreAt u x.thief).steal.asked = false ∧ u.slots = s.slots

/-- TASK_DISPATCH (R112, R116): the newest deque entry of a core starts in its lowest Free slot, at its entry block and with its time;
a core without a Free slot and without work changes no thread and no memory. -/
def Claims.TaskDispatched : Prop :=
  ∀ (s : State) (c : Nat), (coreAt s c).cache = [] → (coreAt s c).fills = [] → (coreAt s c).cutSeen = false →
    (creg s c 0x0F00).getLsbD 0 = false →
    (∀ k ks e, freeSlots s c = k :: ks → (coreAt s c).tasks = [] → (coreAt s c).deque = [e] → (coreAt s c).spillCount = 0 →
      mayDispatch s e.sheaf = true → isFenced s c = false →
      ∃ u th, exec (.taskDispatch c) s = .next u ∧ threadAt u c k = some th ∧ th.next = e.entry ∧ th.ltime = e.ltime ∧
        th.sheaf = e.sheaf ∧ gReg th 0 = (e.arg, true) ∧ (slotAt u c k).state = .running ∧ (coreAt u c).deque = []) ∧
    (freeSlots s c = [] → hasWork s c = false →
      ∃ u, exec (.taskDispatch c) s = .next u ∧ u.mem = s.mem ∧ u.slots = s.slots)

/-! ### Events: cells -/

/-- HELD_DECISION (R343): a request that must wait stays held at its home core, one that is decided gets its status and its other
result, here at the issuing core itself, and one that names no home core gets status 9. -/
def Claims.CellDecisions : Prop :=
  ∀ (s : State) (r : CellReq) (i : Nat), (∀ t o, r.op ≠ .close t o) →
    (cellNamed r.cell = none → Decides s r 9 .null fun u => u = { s with agenda := u.agenda }) ∧
    (cellNamed r.cell = some (r.id.core, i) → isCurrent s r.id = true →
      (decideCell s r = .wait → StaysHeld s r) ∧
      (∀ st o z, decideCell s r = .answer st o z → Decides s r st o fun _ => True))

/-- The statuses of R349 that come first, on a cell i of the issuing core: NOCELL (9) for an entry that is not valid, SHEAF (6) for a
thread of no sheaf or of another one, FAILED (5) for CRD, CWR and CSET on a fenced core, and FULL (7) for a CSET on a cell of more than
128 bytes (R354). -/
def Claims.CellRefusals : Prop :=
  ∀ (s : State) (r : CellReq) (i : Nat), OwnCell s r i →
    let e := cellAt (coreAt s r.id.core) i
    (e.valid = false → (∀ t o, r.op ≠ .close t o) → Decides s r 9 .null fun _ => True) ∧
    (e.valid = true → (∀ t o, r.op ≠ .close t o) → (∀ n b, r.op ≠ .cstat n b) → r.sheaf ≠ some e.sheaf.toNat →
      Decides s r 6 .null fun _ => True) ∧
    (e.valid = true → r.sheaf = some e.sheaf.toNat →
      (isFenced s r.id.core = true → r.op = .crd ∨ (∃ t, r.op = .cwr t) ∨ (∃ t a b, r.op = .cset t a b) →
        Decides s r 5 .null fun _ => True) ∧
      (∀ t a b, isFenced s r.id.core = false → r.op = .cset t a b → 128 < tileSize s r.id.core e →
        Decides s r 7 .null fun _ => True))

/-- CRD at u = `%ltime` on a cell of the issuing core (R36, R350): it waits for the frontier, for STALE, for an open buffer of a time at
or below u, and for a version; then it gets the address of the newest committed version at or below u, pinned once more. A thread with
0xFFFF pins gets FULL (7), and a version with 0xFFFF pins is waited for. -/
def Claims.CellReads : Prop :=
  ∀ (s : State) (r : CellReq) (i : Nat), OwnCell s r i → r.op = .crd →
    let c := r.id.core
    let e := cellAt (coreAt s c) i
    let u := r.time.toNat
    let committed := fun (y : Bool) => bufTime e y ≠ timeTop ∧ (y = e.cur ∨ e.wopen = false) ∧ (bufTime e y).toNat ≤ u
    e.valid = true → r.sheaf = some e.sheaf.toNat → isFenced s c = false →
    (∀ b, blockAt s c r.id.slot = some b → b.resv = []) →
    (0xFFFF ≤ r.pins → Decides s r 7 .null fun _ => True) ∧
    (r.pins < 0xFFFF →
      ((frontierAt s c e.sheaf.toNat).toNat < u ∨ e.stale.toNat ≤ u ∨
        (e.wopen = true ∧ (bufTime e (!e.cur)).toNat ≤ u) ∨ (∀ y, ¬committed y) → StaysHeld s r) ∧
      (u ≤ (frontierAt s c e.sheaf.toNat).toNat → u < e.stale.toNat →
        ¬(e.wopen = true ∧ (bufTime e (!e.cur)).toNat ≤ u) →
        ∀ y, committed y → (committed (!y) → (bufTime e (!y)).toNat < (bufTime e y).toNat) →
          (bufPins e y < 0xFFFF → Decides s r 0 (.scalar (cellVa s c e y)) fun t =>
            cellAt (coreAt t c) i = setPins y (bufPins e y + 1) e) ∧
          (bufPins e y = 0xFFFF → StaysHeld s r)))

/-- CWR at t, and CSET of at most 128 bytes, on a cell of the issuing core, by a thread that runs no recalculation (R30, R352, R354):
BOUND (4), PAST (3) and BUSY (2) in this order; it waits while the non-current buffer is pinned, and then opens it, with its time, WOPEN
and the writer tag. That a write at ⊤, the time of no version, decides PAST is log entry 56. -/
def Claims.CellWrites : Prop :=
  ∀ (s : State) (r : CellReq) (i : Nat) (t : Word), OwnCell s r i →
    let c := r.id.core
    let e := cellAt (coreAt s c) i
    let y := !e.cur
    let past := t.toNat < r.time.toNat ∨ (t = r.time ∧ cellState s c e ≠ 0) ∨
      (bufTime e e.cur ≠ timeTop ∧ t.toNat ≤ (bufTime e e.cur).toNat) ∨
      (e.wopen = false ∧ bufTime e y ≠ timeTop ∧ t.toNat ≤ (bufTime e y).toNat) ∨ t = timeTop
    let busy := e.wopen = true ∨ bufTime e y ≠ timeTop
    r.op = .cwr t ∨ (∃ a b, r.op = .cset t a b ∧ tileSize s c e ≤ 128) →
    e.valid = true → r.sheaf = some e.sheaf.toNat → isFenced s c = false → r.task = none →
    ((formulaAt e t).isSome = true → Decides s r 4 .null fun _ => True) ∧
    ((formulaAt e t).isSome = false →
      (past → Decides s r 3 .null fun _ => True) ∧
      (¬past → busy → Decides s r 2 .null fun _ => True) ∧
      (¬past → ¬busy → bufPins e y ≠ 0 → StaysHeld s r) ∧
      (¬past → ¬busy → bufPins e y = 0 → Decides s r 0 (.scalar (cellVa s c e y)) fun u =>
        cellAt (coreAt u c) i =
          { setBufTime y t e with wopen := true, writer := some (c, r.id.slot, r.inc) }))

/-- CCMT and CREL on a cell of the issuing core (R351, R353). CCMT decides BUSY (2) unless the thread is the writer of an open buffer,
PAST (3) at another time than that of the buffer, and else OK, held for the commit. CREL decides OK: with a pin of the buffer and of the
thread it holds the release for the commit, and for an address of neither buffer, or without such a pin, the count in PINERR. -/
def Claims.CellReleases : Prop :=
  ∀ (s : State) (r : CellReq) (i : Nat), OwnCell s r i →
    let c := r.id.core
    let e := cellAt (coreAt s c) i
    let holds := fun (eff : Eff) (u : State) => BlockHas u c r.id.slot fun b => (r.id.idx, eff) ∈ b.effs
    e.valid = true → r.sheaf = some e.sheaf.toNat →
    (∀ t, r.op = .ccmt t →
      let mine := e.wopen = true ∧ e.writer = some (c, r.id.slot, r.inc)
      (¬mine → Decides s r 2 .null fun _ => True) ∧
      (mine → bufTime e (!e.cur) ≠ t → Decides s r 3 .null fun _ => True) ∧
      (mine → bufTime e (!e.cur) = t → Decides s r 0 .null (holds (.cell r true)))) ∧
    (∀ a, r.op = .crel a → allResv s = [] →
      ((∀ y, cellVa s c e y ≠ a) → Decides s r 0 .null (holds .pinErr)) ∧
      (∀ y (th : Thread), cellVa s c e y = a → cellVa s c e (!y) ≠ a → threadAt s c r.id.slot = some th →
        (bufPins e y ≠ 0 → th.pins ≠ 0 → Decides s r 0 .null (holds (.cell r true))) ∧
        (bufPins e y = 0 ∨ th.pins = 0 → Decides s r 0 .null (holds .pinErr))))

/-- CBIND at t with a formula record, and CUNB at t, on a cell of the issuing core (R40, R41, R355), while no other block reserves an
entry of it: FULL (7) for a record at or above 0x12_7000, PAST (3), NOCELL (9), SHEAF (6) and FULL (7) by its precedents, CIRC (1) for one
that is the cell itself over a zero-advance edge; with two valid entries BUSY (2), or it waits for the older one to retire; and else it is
installed. -/
def Claims.CellBindings : Prop :=
  ∀ (s : State) (r : CellReq) (i : Nat) (t : Word), OwnCell s r i →
    let c := r.id.core
    let e := cellAt (coreAt s c) i
    let past := t.toNat < r.time.toNat ∨ (t = r.time ∧ cellState s c e ≠ 0) ∨ (e.bva = true ∧ t.toNat ≤ e.fromA.toNat) ∨
      (e.bvb = true ∧ t.toNat ≤ e.fromB.toNat)
    let decides := fun (n : Nat) => Decides s r n .null fun _ => True
    let both := e.bva = true ∧ e.bvb = true
    let newer := max e.fromA.toNat e.fromB.toNat
    let installs := (¬both → decides 0) ∧ (both → r.time.toNat < newer → decides 2) ∧
      (both → newer ≤ r.time.toNat → StaysHeld s r)
    e.valid = true → r.sheaf = some e.sheaf.toNat → (∀ x ∈ allResv s, resvOn isBind c i x.2.2 = false) →
    (r.op = .cunb t → (past → decides 3) ∧ (¬past → installs)) ∧
    (∀ off, r.op = .cbind off t →
      let n := off / 64
      let f := formulaRec s c n
      let full := 8 < f.nprec ∨ ∃ p ∈ f.precs, ∃ g j x, cellById s p.1 = some (g, j, x) ∧
        edgesFit s g j x (edgesTo p.1 (cellId c i) f.precs) = false
      (0x12_7000 ≤ 64 * n → decides 7) ∧
      (64 * n < 0x12_7000 → past → decides 3) ∧
      (64 * n < 0x12_7000 → ¬past →
        ((∃ p ∈ f.precs, cellById s p.1 = none) → decides 9) ∧
        ((∀ p ∈ f.precs, ∃ g j x, cellById s p.1 = some (g, j, x)) →
          ((∃ p ∈ f.precs, ∃ g j x, cellById s p.1 = some (g, j, x) ∧ r.sheaf ≠ some x.sheaf.toNat) → decides 6) ∧
          ((∀ p ∈ f.precs, ∀ g j x, cellById s p.1 = some (g, j, x) → r.sheaf = some x.sheaf.toNat) →
            (full → decides 7) ∧
            (¬full → (∃ z, f.precs = [(cellId c i, z)] ∧ zeroAdvance (pathsOf s e) z = true) → decides 1) ∧
            (¬full → (∀ p ∈ f.precs, zeroAdvance (pathsOf s e) p.2 = false) → installs)))))

/-- MARK (R31, R35) that finds at its cell's home a binding in force at its time that names its edge: a task of that cell and time is
queued with the core's colour (R86), unless one is queued already, and STALE is the least time queued; no other cell changes, and
the mark is acknowledged. -/
def Claims.MarkQueuesTask : Prop :=
  ∀ (s : State) (m : MarkMsg) (h i r : Nat), cellHome m.cell = some (h, i) →
    let x := coreAt s h
    let e := cellAt x i
    e.valid = true → isFenced s h = false → formulaAt e m.time = some r → (formulaRec s h r).precs.contains (m.source, m.summary) = true →
    let ends := fun (P : State → Prop) => ∃ u, exec (.mark m) s = .next u ∧ P u ∧
      (∀ j, j ≠ i → cellAt (coreAt u h) j = cellAt x j) ∧ (∀ g, g ≠ h → (coreAt u g).cells = (coreAt s g).cells) ∧
      u.mem = s.mem ∧ (m.core = h → Pends s u 1 5 h (.markAck m.core m.slot m.inc))
    (m.time ≠ timeTop → (∀ y ∈ x.tasks, y.cell = i → y.time ≠ m.time) → ends fun u =>
      (coreAt u h).tasks = x.tasks ++ [⟨i, m.time, false, none, x.colour⟩] ∧
      cellAt (coreAt u h) i = { e with stale := if m.time.toNat < e.stale.toNat then m.time else e.stale }) ∧
    (m.time = timeTop ∨ (∃ y ∈ x.tasks, y.cell = i ∧ y.time = m.time) → ends fun u =>
      (coreAt u h).tasks = x.tasks ∧ cellAt (coreAt u h) i = e)

/-- MARK and MARK_ACK (R31, R32): a mark that no binding names changes no cell and is acknowledged; an acknowledgement leaves its
thread one mark less to wait for. CELL_INSTALL and CELL_REMOVE (R402): a staged descriptor becomes valid, an idle cell leaves the
directory; no other entry changes. -/
def Claims.CellEvents : Prop :=
  (∀ (s : State) (m : MarkMsg) (i : Nat), cellHome m.cell = some (m.core, i) → (cellAt (coreAt s m.core) i).valid = false →
    ∃ u, exec (.mark m) s = .next u ∧ (coreAt u m.core).cells = (coreAt s m.core).cells ∧ u.mem = s.mem ∧ u.slots = s.slots ∧
      Pends s u 1 5 m.core (.markAck m.core m.slot m.inc)) ∧
  (∀ (s : State) (c k n : Nat) (t : Thread), threadAt s c k = some t → t.wait = .marks (n + 2) → t.waits = [] →
    ∃ u th, exec (.markAck c k t.incarn.toNat) s = .next u ∧ threadAt u c k = some th ∧ th.wait = .marks (n + 1) ∧
      u.mem = s.mem) ∧
  (∀ (s : State) (c i : Nat),
    (cellRefused s c i 8 1 = false → ∃ u, exec (.cellInstall c i) s = .next u ∧
      cellAt (coreAt u c) i = { cellAt (coreAt s c) i with valid := true } ∧
      (∀ j, j ≠ i → cellAt (coreAt u c) j = cellAt (coreAt s c) j) ∧ u.mem = s.mem ∧ u.slots = s.slots) ∧
    (cellRefused s c i 8 0 = false → ∃ u, exec (.cellRemove c i) s = .next u ∧
      cellAt (coreAt u c) i = { cellAt (coreAt s c) i with valid := false, writer := none } ∧
      (∀ j, j ≠ i → cellAt (coreAt u c) j = cellAt (coreAt s c) j) ∧ u.mem = s.mem ∧ u.slots = s.slots))

/-! ### Events: swapping, cuts, service -/

/-- SWAP_OUT (R393-R396): a thread that may leave goes to the lowest free cache entry, its slot is Free and SWAPCNT counts one.
RESTORE (R398): a ready entry leaves the cache for a Free slot, which is Running. CTXOUT (R399): an entry leaves the cache and its
thread is the image at the entry's address. A block that had not committed is abandoned to the retry latch, whose address is next. -/
def Claims.Swapping : Prop :=
  ∀ (s : State) (c k e : Nat),
    (∀ t, threadAt s c k = some t → t.wait = .swapping → mayLeave s c k t = true → t.ending = false →
      freeCache s c = some e → k < 15 → c < 2304 →
      ∃ u x, exec (.swapOut c k) s = .next u ∧ threadAt u c k = none ∧ (slotAt u c k).state = .free ∧
        mget none ((coreAt u c).cache.map fun y => (y.1, some y.2)) e = some x ∧
        x.thread = { t with wait := .nothing, owed := [], block := none,
                            next := if t.block.isSome then t.retry.elim t.next (·.addr) else t.next } ∧
        x.slot = k ∧ x.core = c ∧ creg u c 0x0F58 = addSat64 (creg s c 0x0F58) 1) ∧
    (∀ x, (coreAt s c).cache = [(e, x)] → restoreSlot s c x = some k → (readyEntries s c).contains e = true →
      isFenced s c = false → k < 16 →
      ∃ u th, exec (.restore c e) s = .next u ∧ (coreAt u c).cache = [] ∧ (slotAt u c k).state = .running ∧
        threadAt u c k = some th ∧ th.ltime = x.thread.ltime ∧ th.next = x.thread.next ∧ th.g = x.thread.g ∧
        th.v = x.thread.v ∧ th.block = none) ∧
    (∀ x, (coreAt s c).cache = [(e, x)] → x.thread.engs = 0 → x.thread.opens = 0 →
      ∃ u, exec (.ctxout c e) s = .next u ∧ (coreAt u c).cache = [] ∧ mget none u.images (entryPa s c e) = some x.thread ∧
        u.slots = s.slots)

/-- RESUME (R399): the thread of an image of this core that holds no special state enters the lowest Free slot, which is Running, with a
new incarnation: that RESUME on the core of the swap-out counts as a start is log entry 103. PARK_TIMEOUT and PREEMPT_TIMEOUT (R397): the
thread parked longest, or the parked thread whose pre-emption is overdue, begins to leave its slot. -/
def Claims.ResumeAndTimeouts : Prop :=
  (∀ (s : State) (c k pa : Nat) (ks : List Nat), freeSlots s c = k :: ks → isFenced s c = false →
    (word64At s pa).toNat / 2 ^ 32 % 4096 = c →
    ∃ u th, exec (.resume c pa) s = .next u ∧ (slotAt u c k).state = .running ∧ threadAt u c k = some th ∧
      th.incarn = nextIncarn s c k ∧ th.g = (imageThread s pa).g ∧ th.v = (imageThread s pa).v ∧
      th.next = (imageThread s pa).next ∧ mget none u.images pa = none) ∧
  (∀ (s : State) (c k n : Nat) (t : Thread), freeSlots s c = [] → hasWork s c = true → longestParked s c = some (n, k) →
    threadAt s c k = some t → ∃ u th, exec (.parkTimeout c) s = .next u ∧ threadAt u c k = some th ∧ th.wait = .swapping ∧
      u.mem = s.mem) ∧
  (∀ (s : State) (c k n : Nat) (t : Thread), threadAt s c k = some t → t.wait = .parked → (creg s c 0x0F28).getLsbD k = true →
    mget 0 (coreAt s c).preqSince k = n → (slotAt s c k).state = .running →
    ∃ u th, exec (.preemptTimeout c k n) s = .next u ∧ threadAt u c k = some th ∧ th.wait = .swapping ∧ u.mem = s.mem)

/-- PREQ_WRITE and SVCCFG_WRITE (R397, R403): a set bit of PREQ stays only for a slot that holds a thread, and its timeout runs; SLOT15
makes a Free slot 15 the service slot, whose thread starts at SVCENTRY. -/
def Claims.ServiceRegisters : Prop :=
  (∀ (s : State) (c k : Nat) (v : Word), k < 16 → ∃ u, exec (.preqWrite c v) s = .next u ∧ u.mem = s.mem ∧ u.slots = s.slots ∧
    ((creg u c 0x0F28).getLsbD k = true ↔
      v.getLsbD k = true ∧ (threadAt s c k).isSome = true) ∧
    ((creg u c 0x0F28).getLsbD k = true → (creg s c 0x0F28).getLsbD k = false →
      Pends s u (creg s c 0x0F30).toNat 5 (c * 16 + k) (.preemptTimeout c k s.cycle))) ∧
  (∀ (s : State) (c : Nat) (v : Word), svcRefused s c v = false → v.getLsbD 0 = true → (slotAt s c 15).state = .free →
    isFenced s c = false → ∃ u th, exec (.svccfgWrite c v) s = .next u ∧ (slotAt u c 15).state = .service ∧
      threadAt u c 15 = some th ∧ th.next = creg s c 0x0F08 ∧ th.service = true ∧ th.noSheaf = true ∧
      creg u c 0x0F00 = v &&& 0xFF1F#64)

/-- CUTCTL_GO, CUTCTL_RESUME and CUT_MARKER (R400, R401): a cut starts only when none is in progress, and STATE is 1 with the mode and the
sheaf written; RESUME makes a finished cut idle, after STATE 3 while images are still to be restored (log entry 108); a marker is noted at
its input. -/
def Claims.Cuts : Prop :=
  (∀ (s : State) (v : Word), (mreg s 0x0820).toNat / 2 ^ 16 = 0 → v.getLsbD 12 = false →
    ∃ u, exec (.cutctlGo v) s = .next u ∧ mreg u 0x0820 = BitVec.ofNat 64 (v.toNat % 2 ^ 13 + 2 ^ 16) ∧
      u.root.cutFlag = true ∧ u.mem = s.mem ∧ u.slots = s.slots) ∧
  (∀ (s : State) (v : Word), (mreg s 0x0820).toNat / 2 ^ 16 ≠ 0 → exec (.cutctlGo v) s = .next s) ∧
  (∀ s : State, (mreg s 0x0820).toNat / 2 ^ 16 = 2 →
    ∃ u, exec .cutctlResume s = .next u ∧
      (mreg u 0x0820).toNat / 2 ^ 16 = (if u.cores.any fun x => x.2.cache.any fun e => e.2.forced then 3 else 0) ∧
      u.root.cutFlag = false ∧ u.cutReports = [] ∧
      u.mem = s.mem ∧ u.slots = s.slots) ∧
  (∀ (s : State) (c q : Nat), (coreAt s c).cutSeen = false →
    ∃ u, exec (.cutMarker c q) s = .next u ∧
      chanAt (coreAt u c) q = { chanAt (coreAt s c) q with marker := true } ∧ u.mem = s.mem ∧ u.slots = s.slots)

/-! ### Events: leases, queues, records -/

/-- LEASE_RENEWAL and LEASE_EXPIRY (R97, R98): the leader renews its lease to 10,000,000 ticks from now, tells every other live die, and
renews again in 2,000,000 ticks; a die that is told takes the lease, unless it holds a later epoch; a die whose record has expired waits
100,000 × (d + 1) ticks for its claim, and then sends it to the live dies. -/
def Claims.LeaseTimes : Prop :=
  (∀ (s : State) (d : Nat), leads s d = true → ∃ u, exec (.leaseRenewal (.renew d)) s = .next u ∧ LeaseRuns s u d (dieAt s d).lease.epoch ∧
    Quiet s u) ∧
  (∀ (s : State) (d x e n : Nat), dieFenced s d = false → (dieAt s d).lease.epoch ≤ e →
    ∃ u, exec (.leaseRenewal (.told d x e n)) s = .next u ∧ u = { s with dies := u.dies, timers := u.timers } ∧
      (dieAt u d).lease = { (dieAt s d).lease with leader := some x, epoch := e, expiry := n } ∧ Timed u n (.leaseExpiry d)) ∧
  (∀ (s : State) (d x e n : Nat), e < (dieAt s d).lease.epoch → exec (.leaseRenewal (.told d x e n)) s = .next s) ∧
  (∀ (s : State) (d : Nat), (dieAt s d).lease.expiry ≤ s.tick → dieFenced s d = false → (dieAt s d).image = true →
    ∃ u, exec (.leaseExpiry d) s = .next u ∧ Timed u (s.tick + 100_000 * (d + 1)) (.leaseExpiry d) ∧ Quiet s u ∧
      (dieAt u d).lease.claim =
        ((if (dieAt s d).lease.claim = 0 then (dieAt s d).lease.epoch else (dieAt s d).lease.claim) + 1) % 2 ^ 32 ∧
      ((dieAt s d).lease.claim ≠ 0 → ∀ x, x < 4 → dieFenced s x = false →
        Mailed s u (unitRouter d) (unitRouter x) 5 (29100 + x) (.leaseClaim x d (dieAt s d).lease.claim))) ∧
  (∀ (s : State) (d : Nat), s.tick < (dieAt s d).lease.expiry → ∃ u, exec (.leaseExpiry d) s = .next u ∧
    (dieAt u d).lease.claim = 0 ∧ u = { s with dies := u.dies })

/-- LEASE_CLAIM and LEASE_GRANT (R98, R91): a die grants at most one claim of an epoch, above the one it holds, while its record has
expired (that a grant at a higher epoch bars a lower one is log entry 125); a claimant with the grants of more than half of the live dies
leads them all, and owns queue 0; a WAIT that queue 0 stands at is polled (R99). The election ends the start-up when every matrix queue is
empty: the rows are calibrated, CALDONE is set and MODE is 01 (R420, R422, log entries 107 and 153). -/
def Claims.LeaseElection : Prop :=
  (∀ (s : State) (d x e : Nat),
    ((dieAt s d).lease.expiry ≤ s.tick → dieFenced s d = false → (dieAt s d).lease.epoch < e → (dieAt s d).lease.granted < e →
      ∃ u, exec (.leaseClaim d x e) s = .next u ∧ (dieAt u d).lease = { (dieAt s d).lease with granted := e } ∧
        Mailed s u (unitRouter d) (unitRouter x) 5 (29110 + x) (.leaseGrant x e d) ∧ Quiet s u) ∧
    (s.tick < (dieAt s d).lease.expiry ∨ e ≤ (dieAt s d).lease.epoch ∨ e ≤ (dieAt s d).lease.granted →
      exec (.leaseClaim d x e) s = .next s)) ∧
  (∀ (s : State) (x e g : Nat) (r : QueueRec), x < 4 → (dieAt s x).lease.claim = (e + 1) % 2 ^ 32 → dieFenced s x = false →
    (liveDies s).length < 2 * ((putNat g (dieAt s x).lease.grants).filter fun d => (liveDies s).contains d).length →
    Agreed s 0 r → r.owner ≠ x → (r.state = 1 → r.rdidx = r.wridx) →
    ∃ u, exec (.leaseGrant x e g) s = .next u ∧ Quiet s u ∧ RecordIs s u 0 r { r with owner := x } ∧ LeaseRuns s u x e ∧
      (r.state = 2 → Pends s u 1 5 56000 (.waitPoll 0)) ∧
      ((mreg s 0x0900).getLsbD 2 = false → (∀ y ∈ s.cores, y.2.mu.queue = []) →
        mreg u 0x0900 = mreg s 0x0900 &&& ~~~3#64 ||| 5#64 ∧ ∀ c, c < 2304 → creg u c 0x0C40 = goodRows s c) ∧
      ((mreg s 0x0900).getLsbD 2 = true → mreg u 0x0900 = mreg s 0x0900))

/-- QUEUE_DOORBELL (R88): the tests of the write in their order give ERR 6, 5 or 4, which ERR and ERRCNT record while nothing else
changes; a write that passes them all is the new WRIDX. That a refused write's ERRCNT stands in the owner's record alone, with VERSION
unchanged, is log entry 74. -/
def Claims.Doorbells : Prop :=
  ∀ (s : State) (q node wr : Nat) (r : QueueRec), Agreed s q r → wr < 2 ^ 32 →
    let refused := fun (e : Nat) => ∃ u, exec (.queueDoorbell q node wr) s = .next u ∧ mget 0 u.qerr q = e ∧
      recOn u r.owner q = { r with errcnt := min 0xFFFF (r.errcnt + 1) } ∧
      (∀ d p, (d, p) ≠ (r.owner, q) → recOn u d p = recOn s d p) ∧
      u = { s with qerr := u.qerr, dies := u.dies }
    let ahead := fun (n : Nat) => (wr + 2 ^ 32 - n) % 2 ^ 32
    (r.state = 0 ∨ r.state = 3 → refused 6) ∧
    (r.state ≠ 0 → r.state ≠ 3 → node ≠ r.host → refused 5) ∧
    (r.state ≠ 0 → r.state ≠ 3 → node = r.host → 2 ^ r.logsz < ahead r.rdidx ∨ 2 ^ r.logsz < ahead r.wridx → refused 4) ∧
    (r.state ≠ 0 → r.state ≠ 3 → node = r.host → ahead r.rdidx ≤ 2 ^ r.logsz → ahead r.wridx ≤ 2 ^ r.logsz →
      ∃ u, exec (.queueDoorbell q node wr) s = .next u ∧ RecordIs s u q r { r with wridx := wr } ∧ Quiet s u)

/-- RECORD_UPDATE and RECORD_FETCH_REPLY (R93): a die applies the record whose VERSION follows its own; on any other gap it discards its
replica and asks the owner, whose record goes to it. The record that ends an admin packet of the leader is Claims.AdminPackets. -/
def Claims.RecordReplicas : Prop :=
  ∀ (s : State) (d q : Nat) (r : QueueRec), isAdminEvent s (.recordUpdate d q r) = false →
    let takes := fun (i : Instr) (n : QueueRec) => ∃ u, exec i s = .next u ∧ recOn u d q = n ∧
      (∀ e p, (e, p) ≠ (d, q) → recOn u e p = recOn s e p) ∧ u = { s with dies := u.dies }
    takes (.recordFetchReply d q (some r)) r ∧
    (r.version = ((recOn s d q).version + 1) % 2 ^ 32 → takes (.recordUpdate d q r) r) ∧
    (r.version ≠ ((recOn s d q).version + 1) % 2 ^ 32 → r.version = (recOn s d q).version →
      exec (.recordUpdate d q r) s = .next s) ∧
    (r.version ≠ ((recOn s d q).version + 1) % 2 ^ 32 → r.version ≠ (recOn s d q).version →
      ∃ u, exec (.recordUpdate d q r) s = .next u ∧ recOn u d q = QueueRec.reset ∧
        (∀ e p, (e, p) ≠ (d, q) → recOn u e p = recOn s e p) ∧ Quiet s u ∧
        Mailed s u (unitRouter d) (unitRouter r.owner) 5 (57000 + d * 256 + q) (.recordFetchReply d q none)) ∧
    ∃ u, exec (.recordFetchReply d q none) s = .next u ∧ (∀ e p, recOn u e p = recOn s e p) ∧ Quiet s u ∧
      Mailed s u (unitRouter (queueRec s q).owner) (unitRouter d) 5 (57000 + d * 256 + q)
        (.recordFetchReply d q (some (queueRec s q)))

/-- QCREATE and QDESTROY at the owner of the record (R93, R105, R106), while no launch waits: the packet's queue takes the record that the
packet gives, or becomes Destroying and at once Free when nothing of it is in flight; RDIDX of queue 0 counts on, at once when the
leader's die is the owner, else when the record comes back to it (log entry 158). -/
def Claims.AdminPackets : Prop :=
  ∀ (s : State) (w : List Nat) (r z : QueueRec), Agreed s 0 z → Agreed s (pw w 1) r → (dieAt s z.owner).running = false →
    let counts := fun (u : State) => RecordIs s u 0 z { z with rdidx := (z.rdidx + 1) % 2 ^ 32 }
    let counted := fun (owner : Nat) (u : State) =>
      if owner = z.owner then counts u else ∀ d, d < 4 → recOn u d 0 = z
    let idle := ∀ d, d < 4 → (dieAt s d).launch = none ∧ (dieAt s d).multi = []
    (headOfKind s 0 0x10 = some w → ∃ u, exec .qcreate s = .next u ∧ Quiet s u ∧ counted (createdRec w).owner u ∧
      RecordIs s u (pw w 1) r
        { createdRec w with aidx := z.rdidx, inflt := r.inflt, errcnt := r.errcnt }) ∧
    (headOfKind s 0 0x11 = some w → idle → r.inflt ≠ 0 →
      ∃ u, exec .qdestroy s = .next u ∧ Quiet s u ∧ counted r.owner u ∧
        RecordIs s u (pw w 1) r { r with state := 3, aidx := z.rdidx, rdidx := r.wridx }) ∧
    (headOfKind s 0 0x11 = some w → idle → r.inflt = 0 →
      ∃ u, exec .qdestroy s = .next u ∧ Quiet s u ∧ counted r.owner u ∧ (queueRec u (pw w 1)).state = 0) ∧
    (∀ n : QueueRec, w = headWords s z → pkKind w = 0x10 ∨ pkKind w = 0x11 → pw w 1 ≠ 0 → adminOut s = false →
      n.aidx = z.rdidx → n.version = (r.version + 1) % 2 ^ 32 →
      ∃ u, exec (.recordUpdate z.owner (pw w 1) n) s = .next u ∧ Quiet s u ∧ counts u ∧ recOn u z.owner (pw w 1) = n)

/-- WAIT and WAIT_POLL (R105): the queue waits with the address and value of the packet, tested at the next microsecond and from then
on; once the word has reached the value it is Active again and past the packet. -/
def Claims.QueueWaits : Prop :=
  (∀ (s : State) (q : Nat) (w : List Nat) (r : QueueRec), Agreed s q r → headOfKind s q 0x12 = some w →
    ∃ u, exec (.wait q) s = .next u ∧ Quiet s u ∧ Timed u ((s.tick / 1000 + 1) * 1000) (.waitPoll q) ∧
      RecordIs s u q r { r with state := 2, waddr := pw w 1 / 8, waitval := word (pw w 2),
                                aidx := if q = 0 then r.rdidx else r.aidx }) ∧
  (∀ (s : State) (q : Nat) (r : QueueRec) (v : Word), Agreed s q r → r.state = 2 → dieFenced s r.owner = false →
    upToDate s r.owner q = true → signalWord s r = some v →
    (r.waitval.toNat ≤ v.toNat → ∃ u, exec (.waitPoll q) s = .next u ∧ Quiet s u ∧
      RecordIs s u q r { r with state := 1, rdidx := (r.rdidx + 1) % 2 ^ 32 }) ∧
    (v.toNat < r.waitval.toNat → ∃ u n, exec (.waitPoll q) s = .next u ∧
      (∀ d p, recOn u d p = recOn s d p) ∧ Quiet s u ∧
      Timed u n (.waitPoll q)))

/-! ### Events: placement, launches, gangs -/

/-- PLACEMENT_PASS (R124): every 1,000 ticks, at the end of the last cycle of the tick, the die lists the queues that it serves, in the
order of R124, and no die is barred; before that end the pass waits for it (that the pass comes at the end of its cycle and lists the
queues anew is log entry 104). ROOT_PACKET and GANG_PACKET (R113, R121, R122): a packet that fits is being placed, and every member core
is asked for its slot. -/
def Claims.Placement : Prop :=
  (∀ (s : State) (d : Nat), dieFenced s d = false → (dieAt s d).running = true →
    (dieAt s d).launch ≠ none ∨ passQueues s d = [] → isCycleEnd s (passPlace d) = true → nextTick s ≠ s.tick →
    ∃ u, exec (.placementPass d) s = .next u ∧ (dieAt u d).todo = passQueues s d ∧ (dieAt u d).barred = [] ∧
      Timed u ((s.tick / 1000 + 1) * 1000) (.placementPass d) ∧ Quiet s u) ∧
  (∀ (s : State) (d : Nat), dieFenced s d = false → isCycleEnd s (passPlace d) = false →
    ∃ u, exec (.placementPass d) s = .next u ∧ u = { s with agenda := u.agenda } ∧
      Pends s u 0 7 (passPlace d) (.placementPass d)) ∧
  (∀ (s : State) (q k : Nat) (w : List Nat) (cs : List Nat),
    let r := queueRec s q
    let d := r.owner
    canServe s d q = true → (dieAt s d).launch = none → (dieAt s d).running = true →
    let places := fun (i : Instr) => ∃ u, exec i s = .next u ∧ (dieAt u d).launch = some (launchOf r q w k cs) ∧ Quiet s u ∧
      ∀ c ∈ cs, Mailed s u (unitRouter d) c 6 ((3 - r.prio) * 1024 + q * 4 + d) (.reserve c k q)
    (headOfKind s q 1 = some w → (∃ c, rootPlace s d q w = some (c, k) ∧ cs = [c]) → places (.rootPacket q)) ∧
    (headOfKind s q 2 = some w →
      (∃ rs, gangFit s (openDies s d q w) (pkRegions w) 16 0 = some (k, rs) ∧ cs = rs.flatMap regionCores) →
      places (.gangPacket q)))

/-- RESERVE and RESERVE_ACK (R122): a core whose slot is Free sets it Reserved and acknowledges, any other core refuses; an answer that
is not the last is noted. That requests and answers travel as packets of the units between their routers is log entry 63. -/
def Claims.Reservations : Prop :=
  (∀ (s : State) (c k q : Nat) (ok : Bool), canReserve s k c = ok →
    let d := reservingDie s c k q
    ∃ u, exec (.reserve c k q) s = .next u ∧ u.mem = s.mem ∧ Mailed s u c (unitRouter d) 5 (29120 + d) (.reserveAck d c ok) ∧
      (ok = true → slotAt u c k = { slotAt s c k with state := .reserved }) ∧ (ok = false → u.slots = s.slots)) ∧
  (∀ (s : State) (d c : Nat) (l : Launch), (dieAt s d).launch = some l →
    (l.acks.length + 1 ≠ l.cores.length → ∃ u, exec (.reserveAck d c true) s = .next u ∧
      (dieAt u d).launch = some { l with acks := l.acks ++ [c] } ∧ u = { s with dies := u.dies }) ∧
    (l.acks.length ≠ (l.cores.erase c).length → ∃ u, exec (.reserveAck d c false) s = .next u ∧
      (dieAt u d).launch = some { l with refused := true, cores := l.cores.erase c } ∧ u = { s with dies := u.dies }))

/-- The last RESERVE_ACK of a ROOT packet without AT_TICK (R96, R113, R116, R122): the launch commits in one owner update, its sheaf is
live with the one member, and the thread of the core starts at the packet's entry block and time with rank 0 of 1. -/
def Claims.RootCommits : Prop :=
  ∀ (s : State) (d c : Nat) (l : Launch) (r : QueueRec), (dieAt s d).launch = some l → (dieAt s d).todo = [] → l.cores = [c] →
    l.acks = [] → l.refused = false → l.dropped = false → l.multi = false → l.atTick = false → Agreed s l.queue r → r.owner = d → r.state = 1 →
    r.rdidx = l.idx → r.rdidx ≠ r.wridx → pkKind (headWords s r) = 1 → (sheafAt s l.sheaf).live = false →
    (slotAt s c l.layer).state = .reserved → isFenced s c = false →
    ∃ u th, exec (.reserveAck d c true) s = .next u ∧ (dieAt u d).launch = none ∧ threadAt u c l.layer = some th ∧
      th.next = l.entry ∧ th.ltime = l.ltime ∧ th.rank = 0 ∧ th.nrank = 1 ∧ th.sheaf = l.sheaf ∧ th.noSheaf = false ∧
      (slotAt u c l.layer).state = .running ∧ (sheafAt u l.sheaf).live = true ∧ (sheafAt u l.sheaf).members = [c] ∧
      RecordIs s u l.queue r { r with inflt := (r.inflt + 1) % 2 ^ 16, rdidx := (r.rdidx + 1) % 2 ^ 32, age := 0 }

/-- MULTI_READY and MULTI_READY_TIMEOUT (R97, R101) at the leader of LEADMOD: a part that is not the last is noted; when all are ready
every part gets the start tick, the greater of STARTT and the latest ready tick plus 50,000; a gang that is not ready 100,000,000 ticks
after the first aborts with ERR 7. Without a leader the message is looked at again at the next tick. That what goes to a module goes by
way of the leader is log entry 158. -/
def Claims.GangDecisions : Prop :=
  (∀ (s : State) (m : MultiMsg), gangAt s m.gang = Gang.none → s.locked = true → leaderDie s ≠ none → m.dest = nodeId s →
    (1 < m.nmod → ∃ u, exec (.multiReady m) s = .next u ∧
      gangAt u m.gang = ⟨[(m.node, m.tick)], m.parts, m.nmod, m.start, s.tick, 0⟩ ∧
      Timed u (s.tick + 100_000_000) (.multiReadyTimeout m.gang) ∧ Quiet s u) ∧
    (m.nmod ≤ 1 → ∃ u, exec (.multiReady m) s = .next u ∧ gangAt u m.gang = Gang.none ∧
      Pends s u 1 5 55500 (.multiCommit { m with tick := max m.start (m.tick + 50_000), dest := m.node, unit := none }) ∧
      Quiet s u)) ∧
  (∀ (s : State) (m : MultiMsg), leaderDie s = none → ∃ u, exec (.multiReady m) s = .next u ∧
    u = { s with timers := u.timers } ∧ Timed u (s.tick + 1) (.multiReady m)) ∧
  (∀ (s : State) (g n t : Nat), leaderDie s ≠ none → (gangAt s g).ready = [(n, t)] → (gangAt s g).err = 0 →
    (gangAt s g).first + 100_000_000 ≤ s.tick → ∃ u, exec (.multiReadyTimeout g) s = .next u ∧ Quiet s u ∧
      Pends s u 1 5 55500 (.multiAbort ⟨g, nodeId s, n, none, s.tick, 7, (gangAt s g).nmod, (gangAt s g).start, []⟩))

/-- MULTI_COMMIT and MULTI_ABORT at a module with a part of the gang (R97, R101): the leader hands them to the launch unit of the part's
die (log entry 158); there the commit creates the sheaf and counts the launch in flight, and the abort releases the reserved slots, skips
the packet and records ERR, with ERRCNT unchanged (log entry 80); a module without a part changes nothing. -/
def Claims.GangParts : Prop :=
  ∀ (s : State) (m : MultiMsg),
    (leaderDie s ≠ none → m.dest = nodeId s → m.unit = none → partOf s m.gang = none → exec (.multiCommit m) s = .next s) ∧
    (∀ x d l, leaderDie s = some x → m.dest = nodeId s → m.unit = none → partOf s m.gang = some (d, l) →
      (∃ u, exec (.multiCommit m) s = .next u ∧ Quiet s u ∧
        Mailed s u (unitRouter x) (unitRouter d) 5 55500 (.multiCommit { m with unit := some d })) ∧
      (m.parts = [] → ∃ u, exec (.multiAbort m) s = .next u ∧ Quiet s u ∧
        Mailed s u (unitRouter x) (unitRouter d) 5 55500 (.multiAbort { m with unit := some d }))) ∧
    (∀ d l r, m.unit = some d → partOf s m.gang = some (d, l) → Agreed s l.queue r →
      (∃ u, exec (.multiCommit m) s = .next u ∧ (dieAt u d).multi = (dieAt s d).multi.erase l ∧
        (sheafAt u l.sheaf).live = true ∧
        RecordIs s u l.queue r { r with inflt := (r.inflt + 1) % 2 ^ 16, rdidx := (r.rdidx + 1) % 2 ^ 32, age := 0 }) ∧
      (r.state ≠ 3 → ∃ u, exec (.multiAbort m) s = .next u ∧
        (dieAt u d).multi = (dieAt s d).multi.erase l ∧ mget 0 u.qerr l.queue = m.err ∧
        (∀ c ∈ l.cores, (slotAt s c l.layer).state = .reserved → (slotAt u c l.layer).state = .free) ∧
        RecordIs s u l.queue r { r with rdidx := (r.rdidx + 1) % 2 ^ 32 }))

/-- TIMER_WHEEL_RELEASE (R103, R104) of one due entry: a member starts in its reserved slot with its rank and the entry's time; a timed
task enters the deque of its core. Entries that are not due stay. An entry of the overflow list whose turn it is enters the wheel when
it is no longer too far ahead (log entry 119). -/
def Claims.WheelReleases : Prop :=
  ∀ (s : State) (d : Nat) (e : WheelEntry), dieOf e.core = d → (dieAt s d).wheelWait = [] → isFenced s e.core = false →
    ((dieAt s d).overflow = [] →
    (e.tick ≤ s.tick → (dieAt s d).wheel = [e] → ∀ k q a n, e.item = .start k q a n → (slotAt s e.core k).state = .reserved →
      ∃ u th, exec (.timerWheelRelease d) s = .next u ∧ (dieAt u d).wheel = [] ∧ threadAt u e.core k = some th ∧
        th.next = a ∧ th.ltime = e.time ∧ th.rank = word n ∧ th.sheaf = e.sheaf ∧ (slotAt u e.core k).state = .running) ∧
    (e.tick ≤ s.tick → (dieAt s d).wheel = [e] → ∀ x, e.item = .task x → (coreAt s e.core).deque = [] →
      ∃ u, exec (.timerWheelRelease d) s = .next u ∧ (dieAt u d).wheel = [] ∧ (coreAt u e.core).deque = [x] ∧ Quiet s u) ∧
    (s.tick < e.tick → (dieAt s d).wheel = [e] →
      ∃ u, exec (.timerWheelRelease d) s = .next u ∧ (dieAt u d).wheel = [e] ∧ u = { s with dies := u.dies })) ∧
    (∀ n, (dieAt s d).overflow = [(n, e)] → (dieAt s d).wheel = [] → n ≤ s.tick → e.tick ≤ s.tick + 4_095_000 →
      ∃ u, exec (.timerWheelRelease d) s = .next u ∧ (dieAt u d).wheel = [{ e with tick := releaseTick s.tick e.tick }] ∧
        (dieAt u d).overflow = [] ∧ Quiet s u ∧
        (if releaseTick s.tick e.tick ≤ s.tick then Pends s u 0 5 (50100 + d) (.timerWheelRelease d)
        else Timed u (releaseTick s.tick e.tick) (.timerWheelRelease d)))

/-- WATCHDOG_PERIOD (R108): what has moved within the period is left; what has not is an event, counted and reported, nothing is stopped,
and its next period begins now. The next look is at the first tick at which something reaches its period. That WDTCFG 0 counts as one
microsecond is log entry 81. -/
def Claims.Watchdog : Prop :=
  ∀ (s : State) (d : Nat), dieFenced s d = false → (∀ e ∈ s.timers, e.2 ≠ .watchdogPeriod d) →
    let p := 1000 * max 1 ((mreg s 0x0400).toNat % 2 ^ 32)
    ((∀ x ∈ watched s d, s.tick < x.2 + p) → ∃ u n, exec (.watchdogPeriod d) s = .next u ∧ u.mregs = s.mregs ∧ Quiet s u ∧
      s.tick < n ∧ n ≤ s.tick + p ∧ (∀ x ∈ watched s d, n ≤ x.2 + p) ∧ Timed u n (.watchdogPeriod d)) ∧
    (∀ x, watched s d = [x] → x.2 + p ≤ s.tick → ∃ u v, exec (.watchdogPeriod d) s = .next u ∧
      mreg u 0x0408 = addSat64 (mreg s 0x0408) 1 ∧ u.slots = s.slots ∧ (x.1, v, s.tick) ∈ (dieAt u d).watch ∧
      Timed u (s.tick + p) (.watchdogPeriod d))

/-- LAUNCH_END, REPORT_ACKNOWLEDGEMENT and REPORT_TIMEOUT (R96, R416): with no ring the launch ends at once; with one it ends with the
acknowledgement of its record, or when that is lost; the sheaf is dead, INFLT counts one less. With a completion word in a cistern the
owner die of the queue first asks the word's owner to add 1 to it, and the launch ends once that is done; a completion word at an address
of this module is log entry 82. -/
def Claims.LaunchEnds : Prop :=
  (∀ (s : State) (n : Nat) (r : QueueRec), Agreed s (sheafAt s n).queue r → r.state ≠ 3 → (sheafAt s n).live = true →
    (sheafAt s n).ending = false → (sheafAt s n).caddr = 0 → (mreg s 0x0910).getLsbD 4 = false →
    ∃ u, exec (.launchEnd n) s = .next u ∧ sheafAt u n = { sheafAt s n with ending := true, live := false } ∧ Quiet s u ∧
      RecordIs s u (sheafAt s n).queue r { r with inflt := r.inflt - 1 }) ∧
  (∀ (s : State) (x : Report) (n : Nat) (r : QueueRec), s.reports = [x] → x.adding = false → x.added = false → x.sheaf = some n → x.caddr = 0 → Agreed s x.queue r →
    r.state ≠ 3 →
    let ends := fun (u : State) => u.reports = [] ∧ (sheafAt u n).live = false ∧ Quiet s u ∧
      RecordIs s u x.queue r { r with inflt := r.inflt - 1 }
    (∃ u, exec (.reportAcknowledgement x.seq) s = .next u ∧ ends u) ∧
    (x.deadline ≤ s.tick → ∃ u, exec (.reportTimeout x.seq) s = .next u ∧ ends u ∧
      mreg u 0x0948 = addSat64 (mreg s 0x0948) 1)) ∧
  (∀ (s : State) (x : Report) (n : Nat) (r : QueueRec), s.reports = [x] → x.added = true → x.sheaf = some n → Agreed s x.queue r →
    r.state ≠ 3 → ∃ u, exec (.reportTimeout x.seq) s = .next u ∧ u.reports = [] ∧ (sheafAt u n).live = false ∧ Quiet s u ∧
      RecordIs s u x.queue r { r with inflt := r.inflt - 1 }) ∧
  (∀ (s : State) (x : Report) (c off : Nat), s.reports = [x] → x.adding = false → x.caddr ≠ 0 →
    ownerOf s x.caddr = .cistern c off →
    let d := (queueRec s x.queue).owner
    let asks := addReq d x.seq (localPa s x.caddr)
    reaches s (unitRouter d) (.cistern c off) = true →
    ∃ u, exec (.reportAcknowledgement x.seq) s = .next u ∧ u.reports = [{ x with adding := true }] ∧ Quiet s u ∧
      (if c = unitRouter d then Pends s u 0 1 (slotPlace 2304 0) (.ownerAccess asks)
      else ∃ p ∈ (routerAt u (unitRouter d)).packets ++ (routerAt u (unitRouter d)).offered,
        p.1 = 6 ∧ p.2.dst = .core c ∧ p.2.msg = .access asks ∧ p.2.slack = 32)) ∧
  (∀ (s : State) (d seq pa c off : Nat), localOwner pa = .cistern c off → off + 8 ≤ 0x14_0000 →
    ∃ u, exec (.ownerAccess (addReq d seq pa)) s = .next u ∧ word64At u pa = word64At s pa + 1 ∧
      (∀ q, (q < pa ∨ pa + 8 ≤ q) → byteAt u q = byteAt s q) ∧ u.slots = s.slots)

/-! ### Events: the reduction tree -/

/-- DELTA_BATCH and BATCH_AGE_EXPIRY (R80, R336): a core forms one batch of its whole table, 256 cycles after the oldest delta at the
latest, and the table is clear; the batch leaves when no store that left before it was formed is under way. That it travels as a
packet from the core to the router of its region's aggregator is log entry 63. -/
def Claims.DeltaBatches : Prop :=
  ∀ (s : State) (c : Nat), (coreAt s c).batches = [] → (coreAt s c).late = [] → (coreAt s c).counts ≠ [] →
    let b : DeltaBatch := ⟨(coreAt s c).counts, none, false⟩
    let sends := fun (i : Instr) => ∃ u, exec i s = .next u ∧ Quiet s u ∧ (coreAt u c).counts = [] ∧
      ((coreAt s c).sent = [] → (coreAt u c).batches = [] ∧ Mailed s u c (regionRouter (regionOf c)) 5 29000
        (.batchApply .region c b s.cycle)) ∧
      ((∃ w ∈ (coreAt s c).sent, w.commit ≤ s.cycle) → (coreAt u c).batches = [⟨b, s.cycle⟩])
    sends (.deltaBatch c) ∧
    (∀ n, (coreAt s c).countsSince = some n → n + 256 ≤ s.cycle → sends (.batchAgeExpiry c)) ∧
    (∀ n, (coreAt s c).countsSince = some n → s.cycle < n + 256 → exec (.batchAgeExpiry c) s = .next s)

/-- BATCH_APPLY of deltas (R81, R82): a level with room where no batch waits adds the batch to its table in one update and sends it on;
without room for the batch that has waited longest they wait in their order. The root adds what its module counts, at the announced
frontier where a delta lies below it (R85). That the batch travels as a packet between the routers of the units is log entry 63, and that
the unit below gives the batch up when the unit above applies it log entry 121. -/
def Claims.BatchesApplied : Prop :=
  ∀ (s : State) (x n : Nat) (ds : List Delta), ds ≠ [] →
    let b : DeltaBatch := ⟨ds, none, false⟩
    let at_ := fun (lv : TreeLevel) => treeUnit s lv (levelUnit lv x)
    let fits := fun (lv : TreeLevel) => (at_ lv).waiting = [] ∧ levelFits s lv (at_ lv) b = true
    (fits .region → (coreAt s x).late = [] → ∃ u, exec (.batchApply .region x b n) s = .next u ∧ Quiet s u ∧
      treeUnit u .region (regionOf x) = { at_ .region with table := addDeltas ds (at_ .region).table } ∧
      Mailed s u (regionRouter (regionOf x)) (unitRouter (regionOf x / 72)) 5 29000 (.batchApply .die (regionOf x) b n)) ∧
    (fits .die → x < 288 → ∃ u, exec (.batchApply .die x b n) s = .next u ∧ Quiet s u ∧
      treeUnit u .die (x / 72) = { at_ .die with table := addDeltas ds (at_ .die).table } ∧
      treeUnit u .region x = { treeUnit s .region x with
        table := addDeltas (ds.map fun d => { d with net := -d.net }) (treeUnit s .region x).table } ∧
      Mailed s u (unitRouter (x / 72)) rootRouter 5 29000 (.batchApply .module (x / 72) b n)) ∧
    (fits .module → ∃ u, exec (.batchApply .module x b n) s = .next u ∧ Quiet s u ∧
      u.root.tree = { s.root.tree with
        table := addDeltas ((ownDeltas s ds).map fun d =>
          if d.time.toNat < (sheafAt s d.sheaf).front.toNat then { d with time := (sheafAt s d.sheaf).front } else d)
          s.root.tree.table }) ∧
    (∀ lv, let l := (at_ lv).waiting ++ [(x, b, n)]
      (∀ w, l.head? = some w → levelFits s lv (at_ lv) w.2.1 = false) →
      ∃ u, exec (.batchApply lv x b n) s = .next u ∧ Quiet s u ∧
        treeUnit u lv (levelUnit lv x) = { at_ lv with waiting := l })

/-- SWEEP_REQUEST and the reports (R80, R82, R83, R86): the request goes from the root down the tree to every core; each core sends its
table, possibly empty, with what it has sent and received of the old colour, and a unit passes the sum of the reports below it on with the
last of them. That requests and reports travel as packets between the routers of the units is log entry 63. -/
def Claims.SweepRequests : Prop :=
  (∀ (s : State) (n : Nat) (cut : Bool), ∃ u, exec (.sweepRequest 2304 n cut) s = .next u ∧ Quiet s u ∧ u.root.sweep = n ∧
    u.root.started = s.cycle ∧ u.root.tree = { s.root.tree with reports := [] } ∧ Pends s u 1 7 60000 .sweepComplete ∧
    ∀ d, d < 4 → treeReaches s d = true →
      Mailed s u rootRouter (unitRouter d) 5 29001 (.sweepRequest (2305 + d) n cut)) ∧
  (∀ (s : State) (d n : Nat) (cut : Bool), d < 4 → ∃ u, exec (.sweepRequest (2305 + d) n cut) s = .next u ∧ Quiet s u ∧
    ∀ i, i < 72 → Mailed s u (unitRouter d) (regionRouter (d * 72 + i)) 5 29001 (.sweepRequest (2309 + (d * 72 + i)) n cut)) ∧
  (∀ (s : State) (r n : Nat) (cut : Bool), r < 288 → ∃ u, exec (.sweepRequest (2309 + r) n cut) s = .next u ∧ Quiet s u ∧
    ∀ c ∈ regionCores r, Mailed s u (regionRouter r) c 5 29001 (.sweepRequest c n cut)) ∧
  (∀ (s : State) (c n : Nat), c < 2304 → (coreAt s c).batches = [] → (coreAt s c).late = [] → (coreAt s c).sent = [] →
    let x := coreAt s c
    let report : SweepReport := ⟨n, (oldCounts x).1, (oldCounts x).2, if x.flipped then 1 else 0⟩
    ∃ u, exec (.sweepRequest c n false) s = .next u ∧ Quiet s u ∧ (coreAt u c).counts = [] ∧ (coreAt u c).batches = [] ∧
      Mailed s u c (regionRouter (regionOf c)) 5 29000
        (.batchApply .region c ⟨x.counts, some report, isFenced s c⟩ s.cycle)) ∧
  (∀ (s : State) (c n : Nat) (r : SweepReport), (treeUnit s .region (regionOf c)).waiting = [] →
    let y := treeUnit s .region (regionOf c)
    let reps := (y.reports.filter fun z => decide (z.1 ≠ c) && decide (z.2.sweep = r.sweep)) ++ [(c, r)]
    let total := fun (p : SweepReport → Nat) => (reps.map fun z => p z.2).sum
    ∃ u, exec (.batchApply .region c ⟨[], some r, false⟩ n) s = .next u ∧ Quiet s u ∧
      treeUnit u .region (regionOf c) = { y with reports := reps } ∧
      (reps.length < 8 → u.mail = s.mail ∧ u.agenda = s.agenda) ∧
      (reps.length = 8 → Mailed s u (regionRouter (regionOf c)) (unitRouter (regionOf c / 72)) 5 29000
        (.batchApply .die (regionOf c) ⟨[], some ⟨r.sweep, total (·.sent), total (·.received), total (·.flips)⟩, false⟩ n)))

/-- SWEEP_COMPLETE (R83): an open sweep stays open; a closed one announces the candidate of a sheaf that two sweeps agree
on, when it is above the frontier, and starts the next one at least 1,024 cycles after its own start. That announcements and the order to
end a launch travel as packets from the root's router is log entry 63. -/
def Claims.Sweeps : Prop :=
  (∀ s : State, sweepOpen s = true → ∃ u, exec .sweepComplete s = .next u ∧ u = { s with agenda := u.agenda } ∧
    Pends s u 1 7 60000 .sweepComplete) ∧
  (∀ (s : State) (n : Nat), sweepOpen s = false → s.root.cutFlag = false → n ∈ sweptSheaves s →
    let x := candidate s.root.tree.table n
    ∃ u, exec .sweepComplete s = .next u ∧ Quiet s u ∧ u.root.tree = s.root.tree ∧
      (agendaKey (max (s.cycle + 1) (s.root.started + 1024)) 5 29001, Instr.sweepRequest 2304 (s.root.sweep + 1) false)
        ∈ u.agenda ∧
      (x ∈ s.root.before → (sheafAt s n).front.toNat < x.2.1.toNat → (sheafAt u n).front = x.2.1 ∧
        (∀ c ∈ listedCoreNums s, Mailed s u rootRouter c 5 (51200 + c) (.frontierAnnouncement c n x.2.1)) ∧
        (x.2.1 = timeTop → Mailed s u rootRouter (unitRouter (queueRec s (sheafAt s n).queue).owner) 5 55000
          (.launchEnd n))) ∧
      (x ∉ s.root.before → (sheafAt u n).front = (sheafAt s n).front))

/-- FRONTIER_ANNOUNCEMENT (R39, R83) at a core without threads and without double bindings: the core knows the frontier, and the cells
of the sheaf whose inactive buffer waits below it flip; an announcement that is not above what the core knows changes nothing. -/
def Claims.FrontierAnnounced : Prop :=
  ∀ (s : State) (c n : Nat) (f : Word),
    (f.toNat ≤ (frontierAt s c n).toNat → exec (.frontierAnnouncement c n f) s = .next s) ∧
    ((frontierAt s c n).toNat < f.toNat → (∀ k, k < 16 → threadAt s c k = none) →
      (∀ e ∈ (coreAt s c).cells, e.2.bva = false ∨ e.2.bvb = false) →
      ∃ u, exec (.frontierAnnouncement c n f) s = .next u ∧ frontierAt u c n = f ∧ u.mem = s.mem ∧
        (∀ m, m ≠ n → frontierAt u c m = frontierAt s c m) ∧
        ∀ i, let e := cellAt (coreAt s c) i
          cellAt (coreAt u c) i =
            if e.valid = true ∧ e.sheaf.toNat = n ∧ waitsToFlip e = true ∧ (bufTime e (!e.cur)).toNat < f.toNat then
              { setBufTime e.cur timeTop e with cur := !e.cur }
            else e)

/-! ### Events: routers and ports -/

/-- ROUTER_GRANT (R306, R311, R316) of the one packet of a router that an output has: it leaves, the pointer of the output stands behind
its input, the output grants again in the next cycle at the earliest, and the packet enters the next router; while that is down the
packet stays, and the router behind is woken, which takes 32 cycles. -/
def Claims.RouterGrants : Prop :=
  ∀ (s : State) (r out i : Nat) (p : Packet), (routerAt s r).down = false → mget 0 (routerAt s r).free out ≤ s.cycle → i < 7 →
    (routerAt s r).packets = [(i, p)] → p.out = out → p.entered ≤ s.cycle → p.slack ≠ 0 → isLast r out p.dst = false →
    (∀ w, p.msg ≠ .store w) → nextRouter r out ≠ r → entersDead s r out p.dst = false → p.overdue = none →
    ((routerAt s (nextRouter r out)).down = false →
      ∃ u o, exec (.routerGrant r out) s = .next u ∧ (routerAt u r).packets = [] ∧
        mget 0 (routerAt u r).pointers out = (i + 1) % 7 ∧ mget 0 (routerAt u r).free out = s.cycle + 1 ∧
        (routerAt u (nextRouter r out)).packets = (routerAt s (nextRouter r out)).packets ++
          [(facingInput out, { p with out := o, entered := s.cycle + 1 })] ∧ Quiet s u) ∧
    ((routerAt s (nextRouter r out)).down = true →
      ∃ u, exec (.routerGrant r out) s = .next u ∧ (routerAt u r).packets = [(i, p)] ∧
        (routerAt u (nextRouter r out)).waking = true ∧ Quiet s u ∧
        ((routerAt s (nextRouter r out)).waking = false →
          Pends s u 32 5 (nextRouter r out) (.routerWake (nextRouter r out))))

/-- SLACK_DECREMENT (R310, R314): one less slack at the end of every eighth cycle in a buffer, and an exhausted-slack event when it comes
to 0; a packet with slack 0 changes nothing. The buffer is a router input, the fills that wait at a core, the queue of a port, or the
packets that wait for a permit of a wellhead. -/
def Claims.SlackDecrements : Prop :=
  ∀ (s : State) (r i : Nat) (p : Packet), r < 2304 →
    let less := fun (n : Nat) (e : Bool) => (n - 1, e || decide (n = 1))
    ((routerAt s r).packets = [(i, p)] →
      (p.slack = 0 → exec (.slackDecrement r p.id) s = .next s) ∧
      (p.slack ≠ 0 → p.entered ≤ s.cycle → (s.cycle + 1 - p.entered) % 8 = 0 → ∃ u, exec (.slackDecrement r p.id) s = .next u ∧
        (routerAt u r).packets = [(i, { p with slack := (less p.slack p.exh).1, exh := (less p.slack p.exh).2 })] ∧
        Pends s u 8 6 (r * 8 + i) (.slackDecrement r p.id) ∧ Quiet s u ∧
        (1 < p.slack → u.cores = s.cores) ∧
        (p.slack = 1 → p.exh = false → p.core < 2304 →
          creg u p.core 0x0C88 = addSat64 (creg s p.core 0x0C88) 1))) ∧
    (∀ n m, (coreAt s r).fills = [(n, m)] → m.slack ≠ 0 → ∃ u, exec (.slackDecrement (fillBuffer r) n) s = .next u ∧
      (coreAt u r).fills = [(n, { m with slack := (less m.slack m.exh).1, exh := (less m.slack m.exh).2 })] ∧
      Pends s u 8 6 (23000 + r) (.slackDecrement (fillBuffer r) n) ∧ Quiet s u) ∧
    (∀ q, q < 16 → (portAt s q).queue = [p] → p.slack ≠ 0 → ∃ u, exec (.slackDecrement (portBuffer q) p.id) s = .next u ∧
      (portAt u q).queue = [{ p with slack := (less p.slack p.exh).1, exh := (less p.slack p.exh).2 }] ∧
      Pends s u 8 6 (26000 + q) (.slackDecrement (portBuffer q) p.id) ∧ Quiet s u) ∧
    (∀ w e, (wellAt s w).waiting = [e] → e.packet = p → p.slack ≠ 0 →
      ∃ u, exec (.slackDecrement (permitBuffer w) p.id) s = .next u ∧ (wellAt u w).waiting =
          [{ e with packet := { p with slack := (less p.slack p.exh).1, exh := (less p.slack p.exh).2 } }] ∧
        Pends s u 8 6 (27000 + w) (.slackDecrement (permitBuffer w) p.id) ∧ Quiet s u)

/-- ROUTER_POWER_DOWN and ROUTER_WAKE (R316): a router that has been idle for IDLE cycles goes down and is counted; IDLE 0 never powers
down; a woken router is up, and a packet that waited in front of it enters: that its groups of eight cycles begin anew there is log entry
112. -/
def Claims.RouterPower : Prop :=
  (∀ (s : State) (r : Nat), (routerAt s r).down = false → (routerAt s r).packets = [] →
    let n := (creg s r 0x0C90).toNat % 2 ^ 16
    (n ≠ 0 → (routerAt s r).idleSince + n ≤ s.cycle + 1 → ∃ u, exec (.routerPowerDown r) s = .next u ∧
      routerAt u r = { routerAt s r with down := true } ∧ creg u r 0x0C98 = addSat64 (creg s r 0x0C98) 1 ∧ Quiet s u) ∧
    (n = 0 → exec (.routerPowerDown r) s = .next s)) ∧
  (∀ (s : State) (r : Nat), (routerAt s r).down = true →
    let wakes := fun (more : List (Nat × Packet)) => ∃ u, exec (.routerWake r) s = .next u ∧ (routerAt u r).down = false ∧
      (routerAt u r).waking = false ∧ (routerAt u r).offered = [] ∧
      (routerAt u r).packets = (routerAt s r).packets ++ more ∧ Quiet s u
    ((routerAt s r).offered = [] → wakes []) ∧
    (∀ i p, (routerAt s r).offered = [(i, p)] →
      ∃ o, wakes [(i, { p with out := o, entered := s.cycle + 1, overdue := none })]))

/-- DATA_FLIT and IDLE_FLIT at a port that is up and has nothing to send (R318-R320): a flit that fails its check is dropped, counted, and
answered with the SEQ expected; one out of sequence is dropped; one that finds neither an entry nor a spare retrains the port; a good data
flit in sequence advances SEQ, takes an entry or else a spare, its store word enters the local input of the corner router toward its owner
(R14, R306), and the port tells what it has received; both tell what the other end has taken and freed, and flits other than data flits do
so whatever their SEQ (log entry 85). That a data flit brings one packet, and that the port answers at once with an idle flit when it has
no data flit, is log entry 87; the way of a node's packet through the corner router is log entry 89. -/
def Claims.FlitsArrive : Prop :=
  ∀ (s : State) (p : Nat) (f : Flit), (portAt s p).up = true → (portAt s p).training = false → (portAt s p).queue = [] →
    let x := portAt s p
    let heard := fun (u : State) => (portAt u p).acked = f.ackseq ∧
      (portAt u p).replay = x.replay.filter (fun e => !seqFrom e.1 f.ackseq) ∧
      ∀ v, v < 4 → (portAt u p).avail.getD v 0 = x.avail.getD v 0 + (f.freed.getD v 0 + 2 ^ 16 - x.fseen.getD v 0) % 2 ^ 16
    (flitGood f = false → x.crcRun + 1 < 64 → x.sinceAudit + 1 < 4096 →
      ∀ i used avail told, i = .dataFlit p f ∨ i = .idleFlit p f ∨ i = .replayFlit p f ∨ i = .auditFlit p f used avail ∨
        i = .restitutionFlit p f told ∨ i = .clampFlit p f told → ∃ u g, exec i s = .next u ∧
      portAt u p = { x with crcRun := x.crcRun + 1, sinceAudit := x.sinceAudit + 1,
                            period := if x.period.length + 1 < 25 then x.period ++ [g] else [] } ∧
      Out.flit p g ∈ u.out ∧ g.kind = 5 ∧ g.data = [x.rxSeq] ∧
      mreg u (0x2_0000 + 0x100 * p + 0x20) = addSat64 (mreg s (0x2_0000 + 0x100 * p + 0x20)) 1 ∧ Quiet s u) ∧
    (flitGood f = true → ∃ u, exec (.idleFlit p f) s = .next u ∧ heard u ∧ Quiet s u) ∧
    (flitGood f = true → f.seq ≠ x.rxSeq → ∃ u, exec (.dataFlit p f) s = .next u ∧ portAt u p = { x with crcRun := 0 } ∧
      u = { s with ports := u.ports }) ∧
    (flitGood f = true → f.seq = x.rxSeq → x.window.getD f.vc 0 = 0 → x.spares.getD f.vc 0 = 0 →
      ∃ u, exec (.dataFlit p f) s = .next u ∧ (portAt u p).training = true ∧ (portAt u p).up = false ∧
        (portAt u p).rxSeq = x.rxSeq ∧ Quiet s u) ∧
    (∀ node w c, flitGood f = true → f.seq = x.rxSeq → f.vc < x.window.length → f.vc < x.spares.length →
      x.window.getD f.vc 0 ≠ 0 ∨ x.spares.getD f.vc 0 ≠ 0 → x.holding = [] → f.body = [.store node w] →
      foreignDest s (localPa s (w.word * 8) / 8 * 8) = some (.core c) →
      ∃ u g k, exec (.dataFlit p f) s = .next u ∧ heard u ∧ (portAt u p).rxSeq = (x.rxSeq + 1) % 2 ^ 16 ∧
        (x.window.getD f.vc 0 ≠ 0 → (portAt u p).window.getD f.vc 0 = x.window.getD f.vc 0 - 1 ∧
          (portAt u p).spares = x.spares) ∧
        (x.window.getD f.vc 0 = 0 → (portAt u p).window = x.window ∧
          (portAt u p).spares.getD f.vc 0 = x.spares.getD f.vc 0 - 1 ∧
          mreg u (0x2_0000 + 0x100 * p + 0x18) = addSat64 (mreg s (0x2_0000 + 0x100 * p + 0x18)) 1) ∧
        (portAt u p).holding = [(f.vc, [k.id])] ∧
        (6, k) ∈ (routerAt u (cornerRouter p)).packets ++ (routerAt u (cornerRouter p)).offered ∧ k.dst = .core c ∧
        k.slack = w.slack ∧ k.exh = w.exh ∧
        k.msg = .store { w with word := localPa s (w.word * 8) / 8, asker := .peer node, tag := none } ∧
        Out.flit p g ∈ u.out ∧ g.kind = 1 ∧ g.ackseq = x.rxSeq % 2 ^ 16 ∧ Quiet s u)

/-- REPLAY_FLIT (R319): the flits of the replay buffer from a SEQ on leave again, counted once. AUDIT_INSERTION and AUDIT_FLIT (R321): once
4,096 flits have left, an audit flit carries SENT, FSEEN and AVAIL; the receiver sends what a channel lacks, or the number of units it
should have. RESTITUTION_FLIT and CLAMP_FLIT (R321): the sender takes that; that LNKRESTITUTE counts it at the end that applies it is
log entry 86. -/
def Claims.Audits : Prop :=
  ∀ (s : State) (p : Nat) (f : Flit), (portAt s p).up = true → (portAt s p).training = false → (portAt s p).queue = [] →
    let x := portAt s p
    let freed := fun (v : Nat) => (f.freed.getD v 0 + 2 ^ 16 - x.fseen.getD v 0) % 2 ^ 16
    (flitGood f = true → ∃ u, exec (.replayFlit p f) s = .next u ∧ Quiet s u ∧
      mreg u (0x2_0000 + 0x100 * p + 0x08) = addSat64 (mreg s (0x2_0000 + 0x100 * p + 0x08)) 1 ∧
      ∀ e ∈ x.replay, seqFrom e.1 f.ackseq = false → seqFrom (f.data.getD 0 0) e.1 = true →
        ∃ g, Out.flit p g ∈ u.out ∧ flitGood g = true ∧ g.kind = 0 ∧ g.seq = e.1 ∧ g.vc = e.2.1 ∧ g.body = e.2.2) ∧
    (4096 ≤ x.sinceAudit → ∃ u g, exec (.auditInsertion p) s = .next u ∧ Quiet s u ∧ (portAt u p).sinceAudit = 0 ∧
      (portAt u p).usedSinceAudit = [0, 0, 0, 0] ∧ Out.flit p g ∈ u.out ∧ flitGood g = true ∧ g.kind = 2 ∧
      g.data = x.sent ++ x.fseen ++ x.avail) ∧
    (x.sinceAudit < 4096 → exec (.auditInsertion p) s = .next s) ∧
    (∀ used avail, flitGood f = true → ∃ u, exec (.auditFlit p f used avail) s = .next u ∧ Quiet s u ∧ ∀ v, v < 4 →
      let e := expectedUnits (used.getD v (0, 0)).1 (used.getD v (0, 0)).2
      let a := avail.getD v 0
      (a < e → ∃ g, Out.flit p g ∈ u.out ∧ flitGood g = true ∧ g.kind = 3 ∧ g.data = [v, e - a]) ∧
      (e < a → ∃ g, Out.flit p g ∈ u.out ∧ flitGood g = true ∧ g.kind = 4 ∧ g.data = [v, e])) ∧
    (∀ v n, flitGood f = true → v < 4 →
      (∃ u, exec (.restitutionFlit p f (v, n)) s = .next u ∧ Quiet s u ∧
        (portAt u p).avail.getD v 0 = x.avail.getD v 0 + freed v + n ∧
        mreg u (0x2_0000 + 0x100 * p + 0x10) = addSat64 (mreg s (0x2_0000 + 0x100 * p + 0x10)) 1) ∧
      (∃ u, exec (.clampFlit p f (v, n)) s = .next u ∧ Quiet s u ∧
        (portAt u p).avail.getD v 0 = n - x.usedSinceAudit.getD v 0 ∧
        mreg u (0x2_0000 + 0x100 * p + 0x10) = addSat64 (mreg s (0x2_0000 + 0x100 * p + 0x10)) 1))

/-- PORT_RETRAIN, ALIGNMENT_LOSS, RESTART_FLIT and RETRAIN_TIMEOUT (R322): a port stops and trains for at most 100,000,000 ticks; the
restart flit of the other end brings it up with that end's free entries, less what the port sends again; a flit that fails its check
is counted; a port that has passed its limit stays down. -/
def Claims.Retraining : Prop :=
  ∀ (s : State) (p : Nat) (f : Flit),
    let x := portAt s p
    (∀ i, i = .portRetrain p ∨ i = .alignmentLoss p →
      (x.training = true → exec i s = .next s) ∧
      (x.training = false → ∃ u g, exec i s = .next u ∧ Quiet s u ∧
        portAt u p = { x with up := false, training := true, trainingSince := some s.tick, timedOut := false,
                              sinceAudit := x.sinceAudit + 1,
                              period := if x.period.length + 1 < 25 then x.period ++ [g] else [] } ∧
        Timed u (s.tick + 100_000_000) (.retrainTimeout p) ∧ Out.flit p g ∈ u.out ∧ g.kind = 6 ∧
        g.data = x.rxSeq :: x.window)) ∧
    (x.training = true → x.timedOut = false →
      (∀ told, flitGood f = true → x.replay = [] → x.queue = [] →
        ∃ u, exec (.restartFlit p f told) s = .next u ∧ Quiet s u ∧ (portAt u p).up = true ∧ (portAt u p).training = false ∧
          ∀ v, v < 4 → (portAt u p).avail.getD v 0 = told.2.getD v 0 ∧ (portAt u p).fseen.getD v 0 = f.freed.getD v 0) ∧
      (∀ told, flitGood f = false → ∃ u, exec (.restartFlit p f told) s = .next u ∧ u = { s with mregs := u.mregs } ∧
        mreg u (0x2_0000 + 0x100 * p + 0x20) = addSat64 (mreg s (0x2_0000 + 0x100 * p + 0x20)) 1)) ∧
    (∀ told, x.timedOut = true → exec (.restartFlit p f told) s = .next s) ∧
    (∀ t, x.training = true → x.timedOut = false → x.trainingSince = some t → t + 100_000_000 ≤ s.tick → x.queue = [] →
      ∃ u, exec (.retrainTimeout p) s = .next u ∧ portAt u p = { x with timedOut := true } ∧
        u = { s with ports := u.ports, timers := u.timers })

/-! ### Events: start-up, fences, power, the tick, images -/

/-- POWER_ON_RESET and POWER_LOSS (R6, R420, R424): the machine takes its reset values but for what R423-R426 keep; in start-up the dies
accept the flash image and run, the ports train, and the sweeps begin; the election waits for the ports and the first lock, and
calibration for the election (log entries 107 and 153). That a power loss is followed by this reset is log entry 92. -/
def Claims.StartsUp : Prop :=
  (∀ s : State, s.startup = false → exec .powerOnReset s = .next (afterPowerOn s)) ∧
  (∀ (s : State) (b : Bool), exec (.powerLoss b) s = .next (afterPowerOn
    (if b then { s with flash := { s.flash with image := { s.flash.image with magic := 0 } } } else s))) ∧
  (∀ s : State, s.startup = true → imageGood s s.flash.image = true → ∃ u, exec .powerOnReset s = .next u ∧ Quiet s u ∧
    u.startup = false ∧ mreg u 0x0900 = mreg s 0x0900 ∧ mreg u 0x0930 = word s.flash.image.version ∧
    (∀ d, d < 4 → (dieAt u d).running = true ∧ (dieAt u d).image = true) ∧
    (∀ p, p < 16 → (portAt u p).training = true ∧ (portAt u p).up = false) ∧
    Pends s u 1 5 29001 (.sweepRequest 2304 1 false))

/-- UNCORRECTABLE_ECC and CORRECTED_ECC_ERROR (R419, R427, R429): at the end of the cycle an error of a core's cistern or of its GDDR7
read fences the core, whose threads end and whose deque is empty, and any other one fences its die; before that end the fence waits for
it, and the thread that has started the read waits in vain for its data (that the event names the reader is log entry 154). A corrected
error is counted. -/
def Claims.EccErrors : Prop :=
  (∀ (s : State) (c n : Nat) (r : EccReader) (x : EccSource), (n = 1 ∧ x = .cistern r) ∨ (n = 2 ∧ x = .gddr r) →
    isFenced s c = false → isCycleEnd s fencePlace = true → ∃ u, exec (.uncorrectableEcc c x) s = .next u ∧
      isFenced u c = true ∧ creg u c 0x0EC8 = word (1 + n * 256) ∧ (∀ k, k < 16 → threadAt u c k = none) ∧
      (coreAt u c).deque = [] ∧ (coreAt u c).tasks = []) ∧
  (∀ (s : State) (c : Nat) (x : EccSource), isCycleEnd s fencePlace = false → ∃ u, exec (.uncorrectableEcc c x) s = .next u ∧
    u.mem = s.mem ∧ Pends s u 0 7 fencePlace (.uncorrectableEcc c (unreadEcc x)) ∧
    (eccReader x = .unknown → u = { s with agenda := u.agenda }) ∧
    (∀ id b, eccReader x = .thread id → blockAt s id.core id.slot = some b → b.gen = id.gen →
      ∃ y, blockAt u id.core id.slot = some y ∧ pendOf y id.idx = none)) ∧
  (∀ (s : State) (c : Nat) (x : EccSource), x = .frontier ∨ x = .firmware → isCycleEnd s fencePlace = true →
    exec (.uncorrectableEcc c x) s = exec (.dieFence (dieOf c)) s) ∧
  (∀ (s : State) (c : Nat), ∃ u, exec (.correctedEccError c) s = .next u ∧
    creg u c 0x0EC0 = addSat64 (creg s c 0x0EC0) 1 ∧ u = { s with cores := u.cores })

/-- DIE_FENCE, and FENCE_DIE of the side-band (R428, R429): at the end of the cycle the die's bit of FENCESTAT is set, all its cores are
fenced, its launch unit stops; a die that is fenced stays as it is; the side-band's command is acknowledged, and NACKed for no die. -/
def Claims.DieFences : Prop :=
  (∀ (s : State) (d : Nat), d < 4 → dieFenced s d = false → isCycleEnd s fencePlace = true →
    ∃ u, exec (.dieFence d) s = .next u ∧ dieFenced u d = true ∧ (dieAt u d).running = false ∧ (dieAt u d).launch = none ∧
      ∀ c, c < 2304 → dieOf c = d → isFenced u c = true) ∧
  (∀ (s : State) (d : Nat), isCycleEnd s fencePlace = false → ∃ u, exec (.dieFence d) s = .next u ∧
    u = { s with agenda := u.agenda } ∧ Pends s u 0 7 fencePlace (.dieFence d)) ∧
  (∀ (s : State) (d : Nat), dieFenced s d = true → isCycleEnd s fencePlace = true → exec (.dieFence d) s = .next s) ∧
  (∀ (s : State) (d : Nat), d < 4 → ∃ u, exec (.fenceDie d) s = .next u ∧ u = { s with agenda := u.agenda, out := u.out } ∧
    u.out = s.out ++ [.sideband true []] ∧ Pends s u 0 7 fencePlace (.dieFence d)) ∧
  (∀ (s : State) (d : Nat), 4 ≤ d → exec (.fenceDie d) s = .next { s with out := s.out ++ [.sideband false []] })

/-- SUPPLY_SAG, STRETCH_END and JUNCTION_TEMPERATURE (R430): a sag, or 100 °C, stretches the clock of the die until its sensors have
read normal for 256 cycles; 110 °C fences the four dies at the end of the cycle; JTEMP is the hottest die. -/
def Claims.PowerAndHeat : Prop :=
  (∀ (s : State) (d : Nat), ∃ u, exec (.supplySag d) s = .next u ∧ (dieAt u d).stretched = true ∧ (dieAt u d).sag = true ∧
    (dieAt u d).normalSince = s.cycle + 1 ∧ Pends s u 257 5 (29140 + d) (.stretchEnd d) ∧ u.slots = s.slots) ∧
  (∀ (s : State) (d : Nat), (dieAt s d).stretched = true → (dieAt s d).hot = false → (dieAt s d).normalSince + 256 ≤ s.cycle →
    ∃ u, exec (.stretchEnd d) s = .next u ∧ (dieAt u d).stretched = false ∧ (dieAt u d).sag = false ∧ u.slots = s.slots) ∧
  (∀ (s : State) (d n : Nat), n < 1600 → (dieAt s d).hot = false → ∃ u, exec (.junctionTemperature d n) s = .next u ∧
    dieAt u d = { dieAt s d with temp := n } ∧ Quiet s u ∧
    mreg u 0x0938 = word (max (max (max (dieAt u 0).temp (dieAt u 1).temp) (dieAt u 2).temp) (dieAt u 3).temp)) ∧
  (∀ (s : State) (d n : Nat), 1600 ≤ n → n < 1760 → ∃ u, exec (.junctionTemperature d n) s = .next u ∧
    (dieAt u d).stretched = true ∧ (dieAt u d).hot = true ∧ u.slots = s.slots) ∧
  (∀ (s : State) (d n : Nat), 1760 ≤ n → ∃ u, exec (.junctionTemperature d n) s = .next u ∧
    Quiet s u ∧ ∀ e, e < 4 → Pends s u 0 7 fencePlace (.dieFence e))

/-- The clock of a die whose clock is stretched runs at half its frequency (R430): at the end of a cycle it skips the next one unless it has
skipped this one, the skipped cycles are counted in STRETCHCNT, and what waits for its clock waits a cycle longer. Which units skip is log
entry 155. -/
def Claims.ClockHalved : Prop :=
  ∀ s : State, Canonical s → nextTurn s = .clock →
    let skips := fun (d : Nat) => (dieAt s d).stretched && !(dieAt s d).skips
    ∃ t, step s = .next t ∧
      (∀ d, (dieAt t d).skips = skips d ∧ (dieAt t d).lag = (dieAt s d).lag + (if skips d then 1 else 0)) ∧
      mreg t 0x0928 = addSat64 (mreg s 0x0928) ((s.dies.filter fun x => skips x.1).length) ∧
      ∀ e ∈ s.agenda,
        (∀ d, eventDie e.2 = some d → skips d = true → (e.1 + phases * places, shiftEvent e.2) ∈ t.agenda) ∧
        ((∀ d, eventDie e.2 = some d → skips d = false) → e ∈ t.agenda)

/-- IEEE_1588_SYNC and TICK_LOCK_LOSS (R15, R102): the first lock sets the tick once, if the master's time is greater; any other sync
leaves a correction; once the ports have trained the dies that have an image and no leader look to their leases (R98, R420, log entry 153);
lock is lost 1,000,000,000 ticks after the last valid sync. That lock is gained by the first sync that arrives is
log entry 123, and that the correction is kept and taken off tick by tick log entry 91. -/
def Claims.TickSyncs : Prop :=
  (∀ (s : State) (m : Nat), ∃ u, exec (.ieee1588Sync m) s = .next u ∧ u.everLocked = true ∧ u.locked = true ∧
    u.tick = (if s.everLocked then s.tick else max s.tick (m % 2 ^ 64)) ∧ u.lastSync = u.tick ∧
    u.slew = ((m % 2 ^ 64 : Nat) : Int) - (u.tick : Int) ∧
    Timed u (u.tick + 1_000_000_000) .tickLockLoss ∧ Quiet s u ∧
    (portsTrained s = true → ∀ d, d < 4 → dieFenced s d = false → (dieAt s d).image = true → (dieAt s d).lease.leader = none →
      (dieAt s d).lease.claim = 0 → ∃ n, Timed u n (.leaseExpiry d))) ∧
  (∀ s : State, s.locked = true →
    (s.lastSync + 1_000_000_000 ≤ s.tick → ∃ u, exec .tickLockLoss s = .next u ∧ u.locked = false ∧ u.slots = s.slots) ∧
    (s.tick < s.lastSync + 1_000_000_000 → exec .tickLockLoss s = .next s))

/-- RECOVERY_IMAGE_REPLY and FWSTAGE_GO (R423, R424, R428): the first accepted image of a source is in flash, and the die runs it; a die
that no source has an image for is fenced at the end of the cycle; a staged image that is good is in flash with its version as the floor. -/
def Claims.Images : Prop :=
  (∀ (s : State) (d : Nat) (i : FwImage), (dieAt s d).image = false → (dieAt s d).asked ≠ 0 → dieFenced s d = false →
    (imageGood s i = true → ∃ u, exec (.recoveryImageReply d i) s = .next u ∧ u.flash = { s.flash with image := i } ∧
      (dieAt u d).image = true ∧ (dieAt u d).running = true ∧ mreg u 0x0930 = word i.version ∧ u.slots = s.slots) ∧
    (imageGood s i = false → s.flash.recovery.length < (dieAt s d).asked → 
      ∃ u, exec (.recoveryImageReply d i) s = .next u ∧ u = { s with agenda := u.agenda } ∧
        Pends s u 0 7 fencePlace (.dieFence d))) ∧
  (∀ s : State,
    (leaderDie s ≠ none → imageGood s (stagedImage s) = true → exec .fwstageGo s =
      .next { s with flash := { s.flash with image := stagedImage s, floor := (stagedImage s).version } }) ∧
    (imageGood s (stagedImage s) = false → exec .fwstageGo s = .next s))

/-! ### Events: registers -/

/-- The core registers whose writes do more than store their bits. -/
def Claims.coreSpecial : List Nat := [0x0240, 0x0C90, 0x0F00, 0x0F18, 0x0F28, 0x0F48, 0x0F50]

/-- REGISTER_WRITE and WRITE_CONTROL_WINDOW (R5, R7, R431): a write of a core register keeps the bits that are not reserved, one of a
read-only register or not aligned is ignored; the side-band's write is the same write, acknowledged. That a
write of a register that a read clears is ignored too is log entry 122. -/
def Claims.RegisterWrites : Prop :=
  (∀ (s : State) (off c o : Nat) (v m : Word) (w : Writer), off % 8 = 0 → sysPlace off = .core c o → o ∉ Claims.coreSpecial →
    (o < 0x0400 ∨ 0x0C00 ≤ o) →
    (coreReg o = some ⟨.rw, m⟩ → ∃ u, exec (.registerWrite off v w) s = .next u ∧ creg u c o = v &&& m ∧
      (∀ d p, (d, p) ≠ (c, o) → creg u d p = creg s d p) ∧ u = { s with cores := u.cores }) ∧
    (coreReg o = some ⟨.ro, m⟩ ∨ coreReg o = some ⟨.rc, m⟩ → exec (.registerWrite off v w) s = .next s)) ∧
  (∀ (s : State) (off : Nat) (v : Word) (w : Writer), off % 8 ≠ 0 → exec (.registerWrite off v w) s = .next s) ∧
  (∀ (s : State) (off : Nat) (v : Word), ∃ u, exec (.registerWrite off v .sideband) s = .next u ∧
    exec (.writeControlWindow off v) s = .next { u with out := u.out ++ [.sideband true []] })

/-- READ_CLEAR and READ_CONTROL_WINDOW (R5, R431): a read of a counter of the module clears it, and the value leaves with the answer; a
read of any other changes no register. -/
def Claims.RegisterClears : Prop :=
  ∀ (s : State) (off o : Nat) (m : Word), off % 8 = 0 → sysPlace off = .module o →
    ∀ i, i = .readClear off .sideband ∨ i = .readControlWindow off →
    (moduleReg o = some ⟨.rc, m⟩ → readPlace s 0 (.module o) = mreg s o → ∃ u, exec i s = .next u ∧ mreg u o = 0 ∧
      (∀ p, p ≠ o → mreg u p = mreg s p) ∧ u.out = s.out ++ [.sideband true (leBytes (mreg s o).toNat 8)] ∧
      u = { s with mregs := u.mregs, out := u.out }) ∧
    (moduleReg o = some ⟨.rw, m⟩ ∨ moduleReg o = some ⟨.ro, m⟩ → ∃ u, exec i s = .next u ∧
      u = { s with out := s.out ++ [.sideband true (leBytes (readPlace s 0 (.module o)).toNat 8)] })

/-- DEVMODE_WRITE, HRPTCFG_WRITE, NODEID_WRITE, SFLAGS_CLEAR and STTAIL_WRITE (R70, R236, R323, R417, R420): MODE is written by the
firmware and the side-band, 01 only after CALDONE; a LOGN outside 4 to 12 is none; NODEID is written through the side-band
only; bits of SFLAGS written as 1 are cleared; STTAIL takes a value that
names at most 256 entries behind STHEAD. -/
def Claims.SpecialRegisters : Prop :=
  (∀ (s : State) (v : Word) (w : Writer),
    (w = .firmware ∨ w = .sideband → (v.toNat % 4 ≠ 1 ∨ (mreg s 0x0900).getLsbD 2 = true) →
      ∃ u, exec (.devmodeWrite v w) s = .next u ∧ u = { s with mregs := u.mregs } ∧
        (mreg u 0x0900).toNat % 4 = v.toNat % 4 ∧ (mreg u 0x0900).toNat / 4 = (mreg s 0x0900).toNat / 4) ∧
    (w = .firmware ∨ w = .sideband → v.toNat % 4 = 1 → (mreg s 0x0900).getLsbD 2 = false →
      exec (.devmodeWrite v w) s = .next s) ∧
    (w ≠ .firmware → w ≠ .sideband → exec (.devmodeWrite v w) s = .next s)) ∧
  (∀ (s : State) (v : Word),
    (4 ≤ v.toNat % 16 → v.toNat % 16 ≤ 12 → ∃ u, exec (.hrptcfgWrite v) s = .next u ∧ mreg u 0x0910 = v &&& 0x1F ∧
      u = { s with mregs := u.mregs }) ∧
    (v.toNat % 16 < 4 ∨ 12 < v.toNat % 16 → exec (.hrptcfgWrite v) s = .next s)) ∧
  (∀ (s : State) (v : Word) (w : Writer),
    (w = .sideband → ∃ u, exec (.nodeidWrite v w) s = .next u ∧ mreg u 0x0410 = v &&& 0xFFF ∧
      u = { s with mregs := u.mregs }) ∧
    (w ≠ .sideband → exec (.nodeidWrite v w) s = .next s)) ∧
  (∀ (s : State) (n : Nat) (v : Word), ∃ u, exec (.sflagsClear n v) s = .next u ∧
    sheafAt u n = { sheafAt s n with flags := (sheafAt s n).flags &&& ~~~v } ∧ u = { s with sheaves := u.sheaves }) ∧
  (∀ (s : State) (c d : Nat) (v : Word),
    (d ≤ 256 → (v.toNat + d) % 2 ^ 32 = (creg s c 0x0220).toNat % 2 ^ 32 → ∃ u, exec (.sttailWrite c v) s = .next u ∧
      creg u c 0x0240 = v &&& 0xFFFFFFFF ∧ u = { s with cores := u.cores }) ∧
    ((∀ e, e ≤ 256 → (v.toNat + e) % 2 ^ 32 ≠ (creg s c 0x0220).toNat % 2 ^ 32) → exec (.sttailWrite c v) s = .next s))

/-- XINVC_WRITE and INVALIDATION_COMPLETE (R227): an invalidation is busy until no walk that started before it is in flight, and
no TLB keeps a translation that it names. That a write while one runs waits is log entry 96. -/
def Claims.Invalidations : Prop :=
  (∀ (s : State) (v : Word), (mreg s 0x0808).getLsbD 63 = false → ∃ u, exec (.xinvcWrite v) s = .next u ∧ Quiet s u ∧
    (mreg u 0x0808).getLsbD 63 = true ∧ (mreg u 0x0808).toNat % 2 ^ 10 = v.toNat % 2 ^ 10 ∧
    ∀ c, ∀ e ∈ (coreAt u c).tlb, invalidates (mreg s 0x0800).toNat (mreg u 0x0808).toNat e.asid e.page e.npages = false) ∧
  (∀ (s : State) (v : Word), (mreg s 0x0808).getLsbD 63 = true → ∃ u, exec (.xinvcWrite v) s = .next u ∧
    u = { s with agenda := u.agenda } ∧ Pends s u 1 5 56410 (.registerWrite 0x0808 v .firmware)) ∧
  (∀ s : State, (mreg s 0x0808).getLsbD 63 = true → ∃ u, exec .invalidationComplete s = .next u ∧ Quiet s u ∧
    ((∀ d ∈ s.dies, ∀ w ∈ d.2.walks, w.before = false) → (mreg u 0x0808).getLsbD 63 = false) ∧
    ((∃ d ∈ s.dies, ∃ w ∈ d.2.walks, w.before = true) → u = { s with agenda := u.agenda }))

/-- ADMQHOST_ENABLE and ADMQHOST_DISABLE (R91): a writer that may write it sets queue 0's ring, host and owner from ADMQBASE, or returns
the queue to Free, when its ring is empty; any other writer changes nothing. That a Free queue 0 keeps its other fields
is log entry 78. -/
def Claims.AdminQueue : Prop :=
  ∀ (s : State) (v : Word) (w : Writer) (r : QueueRec), Agreed s 0 r →
    (mayWriteAdmq s w = true → admqReady s = true →
      (∀ d, leaderDie s = some d → d < 4 → ∃ u, exec (.admqhostEnable v w) s = .next u ∧ Quiet s u ∧
        mreg u 0x0428 = v &&& word (2 ^ 63 + 0xFFFF) ∧
        RecordIs s u 0 r
          { r with base := (mreg s 0x0420).toNat / 4096 % 2 ^ 40, logsz := (mreg s 0x0420).toNat % 16,
                   host := v.toNat % 2 ^ 16, rdidx := 0, wridx := 0, age := 0, prio := 0, bfen := false, state := 1,
                   owner := d }) ∧
      ∃ u, exec (.admqhostDisable v w) s = .next u ∧ Quiet s u ∧ RecordIs s u 0 r { r with state := 0 }) ∧
    (mayWriteAdmq s w = false → exec (.admqhostEnable v w) s = .next s ∧ exec (.admqhostDisable v w) s = .next s)

/-! ### Events: the side-band -/

/-- ATTESTATION, READ_CERTIFICATE, SET_RECOVERY_LIST, READ_RECOVERY_LIST and UNKNOWN_COMMAND (R424-R426, R431): each signature has an
index of its own, which advances in flash; a list of at most 8 node IDs is kept in flash; what a read returns; what is NACKed
(the identifier 0x10 at the certificate's start: log entry 12, PRESUMED). -/
def Claims.SidebandCommands : Prop :=
  ∀ s : State,
    let answers := fun (i : Instr) (t : State) (ok : Bool) (bytes : List Byte) =>
      exec i s = .next { t with out := s.out ++ [.sideband ok bytes] }
    (∀ nonce,
      let n := s.flash.keyIndex
      (n < 1024 → answers (.attestation nonce) { s with flash := { s.flash with keyIndex := n + 1 } } true
        (attested s nonce ++ beBytes n 4 ++ padBytes 2496 (Config.identitySignature n (attested s nonce)))) ∧
      (1024 ≤ n → answers (.attestation nonce) s false [])) ∧
    answers .readCertificate s true
      (beBytes 0x10 4 ++ padBytes 32 Config.identityRoot ++ padBytes 32 Config.identitySeed ++ leBytes Config.serial 8 ++
        padBytes 2500 Config.certificateSignature) ∧
    (∀ n ids,
      (n ≤ 8 → ids.length = n → (∀ i ∈ ids, i < 4096) →
        answers (.setRecoveryList n ids) { s with flash := { s.flash with recovery := ids } } true []) ∧
      (8 < n ∨ (∃ i ∈ ids, 4096 ≤ i) → answers (.setRecoveryList n ids) s false [])) ∧
    answers .readRecoveryList s true (leBytes s.flash.recovery.length 1 ++
      (List.range 8).flatMap fun i => leBytes (s.flash.recovery.getD i 0) 2) ∧
    ∀ c, c = 0 ∨ 7 < c → answers (.unknownCommand c) s false []

/-- ENTDAA, SETDASA, RSTDAA, GETPID, GETBCR, GETDCR, GETSTATUS, ENEC, DISEC and RSTACT (R431): a target without a dynamic address takes
one, by its provisioned ID or its static address 0x30 plus the straps; a directed read is answered; in-band
interrupts are enabled and disabled; the action of the next target reset is kept. -/
def Claims.SidebandCodes : Prop :=
  ∀ s : State,
    let answers := fun (i : Instr) (d : Sideband) (ok : Bool) (bytes : List Byte) =>
      exec i s = .next { s with side := d, out := s.out ++ [.sideband ok bytes] }
    (∀ a, s.side.dynamic = none → answers (.entdaa a) { s.side with dynamic := some (a % 128) } true
      (beBytes Config.provisionedId 6 ++ leBytes Config.busCharacteristics 1 ++ leBytes Config.deviceCharacteristics 1)) ∧
    (∀ a, s.side.dynamic ≠ none → answers (.entdaa a) s.side false []) ∧
    (∀ a, s.side.dynamic = none → answers (.setdasa (0x30 + s.side.straps % 4) a) { s.side with dynamic := some (a % 128) }
      true []) ∧
    (∀ a b, b ≠ 0x30 + s.side.straps % 4 → answers (.setdasa b a) s.side false []) ∧
    answers .rstdaa { s.side with dynamic := none } true [] ∧
    (s.side.dynamic ≠ none → answers .getpid s.side true (beBytes Config.provisionedId 6) ∧
      answers .getbcr s.side true (leBytes Config.busCharacteristics 1) ∧
      answers .getdcr s.side true (leBytes Config.deviceCharacteristics 1) ∧
      answers .getstatus s.side true (beBytes Config.targetStatus 2)) ∧
    (s.side.dynamic = none → ∀ i, i = .getpid ∨ i = .getbcr ∨ i = .getdcr ∨ i = .getstatus → answers i s.side false []) ∧
    (∀ e, answers (.enec e) (if e.testBit 0 then { s.side with events := true } else s.side) true []) ∧
    (∀ e, answers (.disec e) (if e.testBit 0 then { s.side with events := false } else s.side) true []) ∧
    ∀ a, answers (.rstact a) { s.side with resetAction := a % 256 } true []

/-! ### Statements of several parts -/

/-- The order of steps (R3, R15, R149, and log entry 1, the model's order): the first pending event that is due runs; with none left in
the cycle and no core that issues, the cycle ends and nothing but the clock, its timers and STRETCHCNT changes; the cycle counter
stays, advances by one, or is 0 after power-on reset. -/
def Obligations.StepOrder : Prop := Claims.StepRunsDueEvent ∧ Claims.StepAdvancesCycle ∧ Claims.CycleCounter

/-- A second exit in a block, and a block that completes without one, are service faults 0x14 and 0x13 (R156). -/
def Obligations.ExitFaults : Prop := Claims.SecondExitFaults ∧ Claims.NoExitFaults

/-- The integer instructions of R180: ADD, SUB and MUL with their MODE, MULH, AND, OR, XOR, SHL, SHR, SAR, MIN, MAX and CMP. -/
def Obligations.IntegerResults : Prop := Claims.AddSubMulResults ∧ Claims.IntegerResults

/-- RD and RDT of full registers, and what each special register reads as (R164, R167). -/
def Obligations.RegisterReads : Prop := Claims.RegisterReads ∧ Claims.SpecialRegisterReads

/-- A RD or RDT of an empty register, and a command without a free entry, do not fire: the thread parks (R151, R164, R247). -/
def Obligations.ParkedInstructions : Prop := Claims.EmptyRegisterParks ∧ Claims.FullCommandBufferParks

/-- Loads ask the own cistern for their bytes, and stores to it are held for the commit (R130, R229, R238, R244). -/
def Obligations.OwnCisternAccesses : Prop := Claims.LoadsOfOwnCistern ∧ Claims.StoresOfOwnCistern

/-- SLICE and TLD read their records of the own cistern; PREF never faults (R184, R211, R243). -/
def Obligations.RecordReads : Prop := Claims.RecordReads ∧ Claims.PrefetchCompletes

/-- A misaligned access, and a system instruction outside a service thread, take the permission fault (R223, R404), whose second word for
the latter is the model's choice (log entry 159). -/
def Obligations.PermissionFaults : Prop := Claims.MisalignedAccessFaults ∧ Claims.SystemNeedsService

/-- The vector integer instructions element by element, wrapping and saturating (R187, R190, R194, R196, R199). -/
def Obligations.VectorIntegerElements : Prop := Claims.VectorIntegerElements ∧ Claims.VectorSaturation

/-- The vector floating-point instructions element by element (R190, R194-R196, R199), and their functions of one element with the cases
that round nothing (R50, R199, R209, R210, R213). -/
def Obligations.VectorFloatElements : Prop := Claims.VectorFloatElements ∧ Claims.FloatFunctions

/-- Floating results are the exact result rounded once (R49, R59, R61-R63, R66), the roots, the table approximations with their tables
and TLI among them (R199, R209, R213). A saturation for every finite operand beyond the largest finite number, also where it rounds
to that number, is the model's reading (log entry 23, DEDUCED). -/
def Obligations.FloatResultsRoundedOnce : Prop :=
  Claims.FloatResultsRoundedOnce ∧ Claims.RootsAndApproximations ∧ Claims.ApproximationTables ∧ Claims.TableInterpolation

/-- Selections, moves, conversions and reductions of vectors (R65, R197, R198, R200-R208). Lanes with one live half, and VRED.BITS of no
live lane, are the model's reading (log entries 25 and 27). -/
def Obligations.VectorMoves : Prop := Claims.VectorMoves ∧ Claims.VectorConversions ∧ Claims.VectorReductions

/-- SACQ and SACQP reserve or park; SLPT goes on once its tick has come (R264-R267). -/
def Obligations.SemaphoreAcquires : Prop := Claims.SemaphoreAcquires ∧ Claims.SleepUntilTick

/-- Binding and using channel registers (R272, R274, R275, R277). -/
def Obligations.ChannelRegisters : Prop := Claims.ChannelBindings ∧ Claims.ChannelTransfers

/-- TADV, TSET, FWAIT and RFENCE hold their effect on `%ltime` or a wait for it; FENCE is held for the commit (R72, R330, R356,
R358-R360). -/
def Obligations.TimeAndFences : Prop := Claims.TimeInstructions ∧ Claims.FenceHeld

/-- JOIN, LEAVE, SPAWN, SPAWN.AT, FILL, WAKE, PARK, YLD and PPT hold their effect for the commit (R361-R369, R414). -/
def Obligations.SheafAndTasks : Prop := Claims.SheafInstructions ∧ Claims.TaskInstructions

/-- TOKEN_DELIVERY brings tokens, bytes, taken values and the answers of cell instructions to their block (R154, R156, R161, R184, R211,
R234, R238, R244, R245, R343). -/
def Obligations.TokensArrive : Prop := Claims.TokensDelivered ∧ Claims.BytesDelivered ∧ Claims.AnswersDelivered

/-- BLOCK_COMMIT: what a commit does to the registers, `%flags` and the flags of the sheaf, to memory, the engines, the channels, the
frames and `%ltime` (R59, R67-R70, R157, R158, R164, R165, R168, R170-R172, R175, R191, R230, R247, R254, R274, R326, R359). -/
def Obligations.CommitWritesRegister : Prop :=
  Claims.CommitWritesRegister ∧ Claims.CommitMergesFlags ∧ Claims.CommitReleasesStores ∧ Claims.CommitAppliesEffect ∧
    Claims.CommitEndsLoop

/-- OWNER_ACCESS: reads, LDS, STS, AMO and BUMP at the owning core (R232, R234, R241, R242). -/
def Obligations.OwnerAccesses : Prop := Claims.OwnerReads ∧ Claims.OwnerUpdates

/-- Store words are applied and acknowledged; refused LDS and STS requests go out again (R230, R234, R235, R326). -/
def Obligations.StoreWords : Prop := Claims.StoreWords ∧ Claims.RefusedRequestsRetry

/-- The engines take commands: hand-over to siphons and matrix units, the start and the end of a copy, and the bytes that a plain copy
of one element writes (R248, R249, R253, R256, R257, R282). One step for all the elements of a copy, and its event in the cycle after its
start, are the model's (log entries 17 and 3). -/
def Obligations.EngineCommands : Prop :=
  Claims.CommandsHandedOver ∧ Claims.SiphonStarts ∧ Claims.CopiesComplete ∧ Claims.CopyOfOneElement

/-- The matrix unit executes its commands (R292-R299). -/
def Obligations.MatrixUnitExecutes : Prop := Claims.MatrixUnitWrites ∧ Claims.MatrixUnitRows

/-- Waits end, and channels move their entries (R266, R267, R274-R276, R369); an entry at an unmatched pipe is log entry 21. -/
def Obligations.WaitsAndChannels : Prop := Claims.WaitsEnd ∧ Claims.ChannelEvents

/-- What messages, acknowledgements and dispatches do to threads (R112, R115, R116, R166, R338, R339, R367-R369, R390). -/
def Obligations.ThreadEvents : Prop :=
  Claims.FillArrives ∧ Claims.WakeAndReport ∧ Claims.FaultAcknowledged ∧ Claims.ScopeMissed ∧ Claims.Steals ∧
    Claims.StolenTaskQueued ∧ Claims.TaskDispatched

/-- What cell instructions decide (R30, R36, R40, R343, R349-R355), and marks, installation and removal of cells (R31, R32, R35, R402). -/
def Obligations.CellEvents : Prop :=
  Claims.CellDecisions ∧ Claims.CellRefusals ∧ Claims.CellReads ∧ Claims.CellWrites ∧ Claims.CellReleases ∧
    Claims.CellBindings ∧ Claims.MarkQueuesTask ∧ Claims.CellEvents

/-- Threads leave and enter slots, and cuts stop and go on (R393-R403). The incarnation after a RESUME on the core of the swap-out and
STATE 3 until the last restore are the model's readings (log entries 103 and 108). -/
def Obligations.SwapsAndCuts : Prop :=
  Claims.Swapping ∧ Claims.ResumeAndTimeouts ∧ Claims.ServiceRegisters ∧ Claims.Cuts

/-- Leases and the election of the leader, doorbells, records, admin packets and waits of queues (R88, R91, R93, R97, R98, R105,
R106). ERRCNT in the owner's record alone, the way of record updates and of admin packets, a claim below a granted epoch and the
start-up with the election are the model's (log entries 74, 63, 158, 125, 107 and 153). -/
def Obligations.LeasesAndQueues : Prop :=
  Claims.LeaseTimes ∧ Claims.LeaseElection ∧ Claims.Doorbells ∧ Claims.RecordReplicas ∧ Claims.AdminPackets ∧ Claims.QueueWaits

/-- Placement, reservation, commit and end of launches, gangs of several modules, the timer wheel and the watchdog (R96, R101, R103, R104,
R108, R113, R121-R124, R416). The way of the requests of a reservation, ERRCNT at an abort, a watchdog period of 0, a completion word at
an address of this module, the turn of a placement pass, the overflow list, and the way of a gang's messages are the model's (log entries
63, 80, 81, 82, 104, 119 and 158). -/
def Obligations.Launches : Prop :=
  Claims.Placement ∧ Claims.Reservations ∧ Claims.RootCommits ∧ Claims.GangDecisions ∧ Claims.GangParts ∧
    Claims.WheelReleases ∧ Claims.Watchdog ∧ Claims.LaunchEnds

/-- The reduction tree: batches, sweeps and announcements (R39, R80-R86). The way of batches, sweeps, announcements and orders to end
between the units is the model's (log entry 63). -/
def Obligations.ReductionTree : Prop :=
  Claims.DeltaBatches ∧ Claims.BatchesApplied ∧ Claims.SweepRequests ∧ Claims.Sweeps ∧ Claims.FrontierAnnounced

/-- Routers and fabric ports (R14, R306-R322). Control flits heard whatever their SEQ, the end that counts a restitution, one packet in a
flit, the service of a node's packets and the slack of a packet that enters at a wake are the model's (log entries 85, 86, 87, 89 and
112). -/
def Obligations.RoutersAndPorts : Prop :=
  Claims.RouterGrants ∧ Claims.SlackDecrements ∧ Claims.RouterPower ∧ Claims.FlitsArrive ∧ Claims.Audits ∧ Claims.Retraining

/-- Start-up, fences, power and heat, the tick, firmware images (R15, R102, R420-R430). The slew of the tick, a loss of power during the
flash write, the place of the calibration, the first lock, what the election waits for, the reader of an error and the units that skip a
cycle are the model's (log entries 91, 92, 107, 123, 153, 154 and 155). -/
def Obligations.Upkeep : Prop :=
  Claims.StartsUp ∧ Claims.EccErrors ∧ Claims.DieFences ∧ Claims.PowerAndHeat ∧ Claims.ClockHalved ∧ Claims.TickSyncs ∧ Claims.Images

/-- Writes and clearing reads of registers, and the side-band (R5, R7, R70, R91, R227, R236, R323, R417, R420, R424-R426, R431). The
object identifier of the certificate, what ADMQHOST leaves of queue 0, a second XINVC and a write of a register that a read clears are the
model's (log entries 12, 78, 96 and 122). -/
def Obligations.RegistersAndSideband : Prop :=
  Claims.RegisterWrites ∧ Claims.RegisterClears ∧ Claims.SpecialRegisters ∧ Claims.Invalidations ∧ Claims.AdminQueue ∧
    Claims.SidebandCommands ∧ Claims.SidebandCodes

/-- The values that the spec gives for reset (R15, R24, R219, R237, R262, R271, R278, R315, R323, R403, R420): the tick and the mode, the
registers that do not reset to 0, the cells, the semaphores, the channels, the matrix unit, the cisterns (zero, every word full); a thread
starts with every register full and 0 and with `%slack` 0x80 (R163, R167). That every slot is Free without a thread is the model's choice
(log entry 7, DESIGN CHOICE). -/
def Obligations.ResetValues : Prop :=
  State.reset.tick = 0 ∧ (mreg State.reset 0x0900).toNat % 4 = 0 ∧ mreg State.reset 0x0400 = 0x186A0 ∧
  (∀ off, off ≠ 0x0400 → mreg State.reset off = 0) ∧
  (∀ c, creg State.reset c 0x0200 = 0x1000 ∧ creg State.reset c 0x0C40 = 0xFFFFFFFF ∧ creg State.reset c 0x0C90 = 0x400 ∧
    creg State.reset c 0x0F20 = 0x10000 ∧ creg State.reset c 0x0F30 = 0x4000 ∧ creg State.reset c 0x0F00 = 0) ∧
  (∀ c k, (slotAt State.reset c k).state = .free ∧ threadAt State.reset c k = none) ∧
  (∀ c i, let e := cellAt (coreAt State.reset c) i
    e.valid = false ∧ e.timeX = timeTop ∧ e.timeY = timeTop ∧ e.stale = timeTop ∧ e.fromA = timeTop ∧ e.fromB = timeTop ∧
      e.pinX = 0 ∧ e.pinY = 0) ∧
  (∀ c m, semAt (coreAt State.reset c) m = Sem.reset ∧ (chanAt (coreAt State.reset c) m).bind = .none) ∧
  (∀ c n, let m := (coreAt State.reset c).mu
    mget 0 m.latch n = 0 ∧ mget 0 m.acc n = 0 ∧ m.wfmt = 1 ∧ m.prog = defaultProgram ∧ m.k0 = 0 ∧ m.k1 = 0 ∧
      mget Staged.reset m.staged n = Staged.reset ∧ (mget ResumeRec.reset m.resume n).valid = false) ∧
  (∀ pa, inCistern pa = true → byteAt State.reset pa = 0 ∧ isFull State.reset pa = true) ∧
  (∀ n, gReg Thread.fresh n = (0, true) ∧ vReg Thread.fresh n = (0, true)) ∧ Thread.fresh.slack = 0x80 ∧
    Thread.fresh.frames = []

end
end

