-- ==== Sys2Proof/Laws/Sparse.lean ====
section
/-! SUPPORT. Laws of the sparse maps: a read after a write, on every map, and that a write keeps the canonical form. -/

namespace Sys2Proof.Machine

variable {α : Type}

theorem mget_mdel_same (d : α) (m : Map α) (k : Nat) : mget d (mdel m k) k = d := by
  induction m with
  | nil => rfl
  | cons e m ih =>
    obtain ⟨a, v⟩ := e
    by_cases h : a = k <;> simp [mdel, mget, h, ih]

theorem mget_mdel_ne (d : α) (m : Map α) {k j : Nat} (h : j ≠ k) : mget d (mdel m k) j = mget d m j := by
  induction m with
  | nil => rfl
  | cons e m ih =>
    obtain ⟨a, v⟩ := e
    by_cases hk : a = k
    · subst hk
      simp [mdel, mget, ih, Ne.symm h]
    · by_cases hj : a = j
      · subst hj
        simp [mdel, mget, hk]
      · simp [mdel, mget, hk, hj, ih]

theorem mget_mins (d : α) (m : Map α) (k j : Nat) (x : α) (hk : ∀ e ∈ m, e.1 ≠ k) :
    mget d (mins m k x) j = if j = k then x else mget d m j := by
  induction m with
  | nil =>
    by_cases hj : j = k
    · simp [mins, mget, hj]
    · simp [mins, mget, hj, Ne.symm hj]
  | cons e m ih =>
    obtain ⟨a, v⟩ := e
    have ha : a ≠ k := hk (a, v) (by simp)
    have hm : ∀ e ∈ m, e.1 ≠ k := fun e he => hk e (by simp [he])
    have ih := ih hm
    by_cases hlt : k < a
    · by_cases hj : j = k
      · simp [mins, mget, hlt, hj]
      · simp [mins, mget, hlt, hj, Ne.symm hj]
    · by_cases hj : a = j
      · subst hj
        simp [mins, mget, hlt, ha]
      · simp [mins, mget, hlt, hj, ih]

theorem mdel_keys (m : Map α) (k : Nat) : ∀ e ∈ mdel m k, e.1 ≠ k := by
  induction m with
  | nil => simp [mdel]
  | cons e m ih =>
    obtain ⟨a, v⟩ := e
    by_cases h : a = k
    · simpa [mdel, h] using ih
    · intro e he
      simp only [mdel, h, if_false, List.mem_cons] at he
      rcases he with rfl | he
      · exact h
      · exact ih e he

/-! ### Canonical form -/

theorem mrising_mono {lo lo' : Nat} (m : Map α) (h : lo' ≤ lo) (w : mrising lo m = true) : mrising lo' m = true := by
  cases m with
  | nil => rfl
  | cons e m =>
    simp only [mrising, Bool.and_eq_true, decide_eq_true_eq] at w ⊢
    exact ⟨by omega, w.2⟩

theorem mdel_rising {lo : Nat} (m : Map α) (k : Nat) (w : mrising lo m = true) : mrising lo (mdel m k) = true := by
  induction m generalizing lo with
  | nil => rfl
  | cons e m ih =>
    obtain ⟨a, v⟩ := e
    simp only [mrising, Bool.and_eq_true, decide_eq_true_eq] at w
    by_cases h : a = k
    · simp only [mdel, h, if_true]
      exact mrising_mono _ (by omega) (ih w.2)
    · simp only [mdel, h, if_false, mrising, Bool.and_eq_true, decide_eq_true_eq]
      exact ⟨w.1, ih w.2⟩

theorem mins_rising {lo : Nat} (m : Map α) (k : Nat) (x : α) (hk : ∀ e ∈ m, e.1 ≠ k) (hl : lo ≤ k)
    (w : mrising lo m = true) : mrising lo (mins m k x) = true := by
  induction m generalizing lo with
  | nil => simp [mins, mrising, hl]
  | cons e m ih =>
    obtain ⟨a, v⟩ := e
    have ha : a ≠ k := hk (a, v) (by simp)
    simp only [mrising, Bool.and_eq_true, decide_eq_true_eq] at w
    by_cases h : k < a
    · simp only [mins, h, if_true, mrising, Bool.and_eq_true, decide_eq_true_eq]
      exact ⟨hl, by omega, w.2⟩
    · simp only [mins, h, if_false, mrising, Bool.and_eq_true, decide_eq_true_eq]
      exact ⟨w.1, ih (fun e he => hk e (by simp [he])) (by omega) w.2⟩

theorem mem_mdel {m : Map α} {k : Nat} {e : Nat × α} (h : e ∈ mdel m k) : e ∈ m := by
  induction m with
  | nil => cases h
  | cons f m ih =>
    obtain ⟨a, v⟩ := f
    by_cases ha : a = k
    · simp only [mdel, ha, if_true] at h
      exact List.mem_cons_of_mem _ (ih h)
    · simp only [mdel, ha, if_false, List.mem_cons] at h
      rcases h with rfl | h
      · exact List.mem_cons_self
      · exact List.mem_cons_of_mem _ (ih h)

theorem mem_mins {m : Map α} {k : Nat} {x : α} {e : Nat × α} (h : e ∈ mins m k x) : e = (k, x) ∨ e ∈ m := by
  induction m with
  | nil => simpa [mins] using h
  | cons f m ih =>
    obtain ⟨a, v⟩ := f
    by_cases ha : k < a
    · simpa [mins, ha] using h
    · simp only [mins, ha, if_false, List.mem_cons] at h
      rcases h with rfl | h
      · exact Or.inr List.mem_cons_self
      · exact (ih h).imp id (List.mem_cons_of_mem _)

/-! ### Writes -/

variable [DecidableEq α]

/-- A read after a write. -/
theorem mget_mset (d : α) (m : Map α) (k j : Nat) (x : α) : mget d (mset d m k x) j = if j = k then x else mget d m j := by
  unfold mset
  by_cases hx : x = d
  · by_cases hj : j = k
    · subst hj
      simp [hx, mget_mdel_same]
    · simp [hx, hj, mget_mdel_ne d m hj]
  · rw [if_neg hx, mget_mins d _ k j x (mdel_keys m k)]
    by_cases hj : j = k
    · simp [hj]
    · simp [hj, mget_mdel_ne d m hj]

@[simp] theorem mget_mset_same (d : α) (m : Map α) (k : Nat) (x : α) : mget d (mset d m k x) k = x := by
  simp [mget_mset]

/-- A read elsewhere, whatever an unlisted key reads as there. -/
theorem mget_mset_ne (d d' : α) (m : Map α) {k j : Nat} (x : α) (h : j ≠ k) :
    mget d' (mset d m k x) j = mget d' m j := by
  unfold mset
  by_cases hx : x = d
  · simp [hx, mget_mdel_ne d' m h]
  · rw [if_neg hx, mget_mins d' _ k j x (mdel_keys m k), if_neg h, mget_mdel_ne d' m h]

/-- A write that keeps the keys rising. -/
theorem mset_rising (d : α) (m : Map α) (k : Nat) (x : α) (w : mrising 0 m = true) : mrising 0 (mset d m k x) = true := by
  unfold mset
  split
  · exact mdel_rising m k w
  · exact mins_rising _ k x (mdel_keys m k) (Nat.zero_le _) (mdel_rising m k w)

/-- The entries of a map after a write. -/
theorem mem_mset {d : α} {m : Map α} {k : Nat} {x : α} {e : Nat × α} (h : e ∈ mset d m k x) : (e = (k, x) ∧ x ≠ d) ∨ e ∈ m := by
  unfold mset at h
  split at h
  · exact Or.inr (mem_mdel h)
  · next hx => exact (mem_mins h).imp (fun he => ⟨he, hx⟩) mem_mdel

/-- A write keeps the canonical form. -/
theorem mset_wf (d : α) (m : Map α) (k : Nat) (x : α) (w : mwf d m = true) : mwf d (mset d m k x) = true := by
  simp only [mwf, Bool.and_eq_true, List.all_eq_true, decide_eq_true_eq] at w ⊢
  refine ⟨mset_rising d m k x w.1, fun e he => ?_⟩
  rcases mem_mset he with ⟨rfl, hx⟩ | he
  · exact hx
  · exact w.2 e he

end Sys2Proof.Machine
end

