-- ==== Sys2Proof/Laws/State.lean ====
section
/-! SUPPORT. Each change of the state, field by field: the field it changes and that every other field stays; and the
components of the state after a change of that kind of component. -/

namespace Sys2Proof.Machine

open Sys2Proof

@[simp] theorem applyUpd_mem (pa : Nat) (b : Byte) (s : State) :
    (applyUpd (.mem pa b) s).cycle = s.cycle ∧
    (applyUpd (.mem pa b) s).issueOver = s.issueOver ∧
    (applyUpd (.mem pa b) s).tick = s.tick ∧
    (applyUpd (.mem pa b) s).tickFrac = s.tickFrac ∧
    (applyUpd (.mem pa b) s).slew = s.slew ∧
    (applyUpd (.mem pa b) s).slewLast = s.slewLast ∧
    (applyUpd (.mem pa b) s).everLocked = s.everLocked ∧
    (applyUpd (.mem pa b) s).locked = s.locked ∧
    (applyUpd (.mem pa b) s).lastSync = s.lastSync ∧
    (applyUpd (.mem pa b) s).agenda = s.agenda ∧
    (applyUpd (.mem pa b) s).timers = s.timers ∧
    (applyUpd (.mem pa b) s).delays = s.delays ∧
    (applyUpd (.mem pa b) s).ctx = s.ctx ∧
    (applyUpd (.mem pa b) s).nextId = s.nextId ∧
    (applyUpd (.mem pa b) s).freeCount = s.freeCount ∧
    (applyUpd (.mem pa b) s).startup = s.startup ∧
    (applyUpd (.mem pa b) s).mem = mset 0 s.mem pa b ∧
    (applyUpd (.mem pa b) s).empty = s.empty ∧
    (applyUpd (.mem pa b) s).mregs = s.mregs ∧
    (applyUpd (.mem pa b) s).qerr = s.qerr ∧
    (applyUpd (.mem pa b) s).slots = s.slots ∧
    (applyUpd (.mem pa b) s).cores = s.cores ∧
    (applyUpd (.mem pa b) s).tlb2 = s.tlb2 ∧
    (applyUpd (.mem pa b) s).dies = s.dies ∧
    (applyUpd (.mem pa b) s).siphons = s.siphons ∧
    (applyUpd (.mem pa b) s).wells = s.wells ∧
    (applyUpd (.mem pa b) s).routers = s.routers ∧
    (applyUpd (.mem pa b) s).ports = s.ports ∧
    (applyUpd (.mem pa b) s).mail = s.mail ∧
    (applyUpd (.mem pa b) s).sheaves = s.sheaves ∧
    (applyUpd (.mem pa b) s).regions = s.regions ∧
    (applyUpd (.mem pa b) s).root = s.root ∧
    (applyUpd (.mem pa b) s).gangs = s.gangs ∧
    (applyUpd (.mem pa b) s).images = s.images ∧
    (applyUpd (.mem pa b) s).reports = s.reports ∧
    (applyUpd (.mem pa b) s).stretchLast = s.stretchLast ∧
    (applyUpd (.mem pa b) s).stretchSince = s.stretchSince ∧
    (applyUpd (.mem pa b) s).cutReports = s.cutReports ∧
    (applyUpd (.mem pa b) s).badRows = s.badRows ∧
    (applyUpd (.mem pa b) s).flash = s.flash ∧
    (applyUpd (.mem pa b) s).side = s.side ∧
    (applyUpd (.mem pa b) s).out = s.out := by
  and_intros <;> rfl

@[simp] theorem applyUpd_wordEmpty (w : Nat) (s : State) :
    (applyUpd (.wordEmpty w) s).cycle = s.cycle ∧
    (applyUpd (.wordEmpty w) s).issueOver = s.issueOver ∧
    (applyUpd (.wordEmpty w) s).tick = s.tick ∧
    (applyUpd (.wordEmpty w) s).tickFrac = s.tickFrac ∧
    (applyUpd (.wordEmpty w) s).slew = s.slew ∧
    (applyUpd (.wordEmpty w) s).slewLast = s.slewLast ∧
    (applyUpd (.wordEmpty w) s).everLocked = s.everLocked ∧
    (applyUpd (.wordEmpty w) s).locked = s.locked ∧
    (applyUpd (.wordEmpty w) s).lastSync = s.lastSync ∧
    (applyUpd (.wordEmpty w) s).agenda = s.agenda ∧
    (applyUpd (.wordEmpty w) s).timers = s.timers ∧
    (applyUpd (.wordEmpty w) s).delays = s.delays ∧
    (applyUpd (.wordEmpty w) s).ctx = s.ctx ∧
    (applyUpd (.wordEmpty w) s).nextId = s.nextId ∧
    (applyUpd (.wordEmpty w) s).freeCount = s.freeCount ∧
    (applyUpd (.wordEmpty w) s).startup = s.startup ∧
    (applyUpd (.wordEmpty w) s).mem = s.mem ∧
    (applyUpd (.wordEmpty w) s).empty = putNat w s.empty ∧
    (applyUpd (.wordEmpty w) s).mregs = s.mregs ∧
    (applyUpd (.wordEmpty w) s).qerr = s.qerr ∧
    (applyUpd (.wordEmpty w) s).slots = s.slots ∧
    (applyUpd (.wordEmpty w) s).cores = s.cores ∧
    (applyUpd (.wordEmpty w) s).tlb2 = s.tlb2 ∧
    (applyUpd (.wordEmpty w) s).dies = s.dies ∧
    (applyUpd (.wordEmpty w) s).siphons = s.siphons ∧
    (applyUpd (.wordEmpty w) s).wells = s.wells ∧
    (applyUpd (.wordEmpty w) s).routers = s.routers ∧
    (applyUpd (.wordEmpty w) s).ports = s.ports ∧
    (applyUpd (.wordEmpty w) s).mail = s.mail ∧
    (applyUpd (.wordEmpty w) s).sheaves = s.sheaves ∧
    (applyUpd (.wordEmpty w) s).regions = s.regions ∧
    (applyUpd (.wordEmpty w) s).root = s.root ∧
    (applyUpd (.wordEmpty w) s).gangs = s.gangs ∧
    (applyUpd (.wordEmpty w) s).images = s.images ∧
    (applyUpd (.wordEmpty w) s).reports = s.reports ∧
    (applyUpd (.wordEmpty w) s).stretchLast = s.stretchLast ∧
    (applyUpd (.wordEmpty w) s).stretchSince = s.stretchSince ∧
    (applyUpd (.wordEmpty w) s).cutReports = s.cutReports ∧
    (applyUpd (.wordEmpty w) s).badRows = s.badRows ∧
    (applyUpd (.wordEmpty w) s).flash = s.flash ∧
    (applyUpd (.wordEmpty w) s).side = s.side ∧
    (applyUpd (.wordEmpty w) s).out = s.out := by
  and_intros <;> rfl

@[simp] theorem applyUpd_wordFull (w : Nat) (s : State) :
    (applyUpd (.wordFull w) s).cycle = s.cycle ∧
    (applyUpd (.wordFull w) s).issueOver = s.issueOver ∧
    (applyUpd (.wordFull w) s).tick = s.tick ∧
    (applyUpd (.wordFull w) s).tickFrac = s.tickFrac ∧
    (applyUpd (.wordFull w) s).slew = s.slew ∧
    (applyUpd (.wordFull w) s).slewLast = s.slewLast ∧
    (applyUpd (.wordFull w) s).everLocked = s.everLocked ∧
    (applyUpd (.wordFull w) s).locked = s.locked ∧
    (applyUpd (.wordFull w) s).lastSync = s.lastSync ∧
    (applyUpd (.wordFull w) s).agenda = s.agenda ∧
    (applyUpd (.wordFull w) s).timers = s.timers ∧
    (applyUpd (.wordFull w) s).delays = s.delays ∧
    (applyUpd (.wordFull w) s).ctx = s.ctx ∧
    (applyUpd (.wordFull w) s).nextId = s.nextId ∧
    (applyUpd (.wordFull w) s).freeCount = s.freeCount ∧
    (applyUpd (.wordFull w) s).startup = s.startup ∧
    (applyUpd (.wordFull w) s).mem = s.mem ∧
    (applyUpd (.wordFull w) s).empty = (s.empty.filter fun x => decide (x ≠ w)) ∧
    (applyUpd (.wordFull w) s).mregs = s.mregs ∧
    (applyUpd (.wordFull w) s).qerr = s.qerr ∧
    (applyUpd (.wordFull w) s).slots = s.slots ∧
    (applyUpd (.wordFull w) s).cores = s.cores ∧
    (applyUpd (.wordFull w) s).tlb2 = s.tlb2 ∧
    (applyUpd (.wordFull w) s).dies = s.dies ∧
    (applyUpd (.wordFull w) s).siphons = s.siphons ∧
    (applyUpd (.wordFull w) s).wells = s.wells ∧
    (applyUpd (.wordFull w) s).routers = s.routers ∧
    (applyUpd (.wordFull w) s).ports = s.ports ∧
    (applyUpd (.wordFull w) s).mail = s.mail ∧
    (applyUpd (.wordFull w) s).sheaves = s.sheaves ∧
    (applyUpd (.wordFull w) s).regions = s.regions ∧
    (applyUpd (.wordFull w) s).root = s.root ∧
    (applyUpd (.wordFull w) s).gangs = s.gangs ∧
    (applyUpd (.wordFull w) s).images = s.images ∧
    (applyUpd (.wordFull w) s).reports = s.reports ∧
    (applyUpd (.wordFull w) s).stretchLast = s.stretchLast ∧
    (applyUpd (.wordFull w) s).stretchSince = s.stretchSince ∧
    (applyUpd (.wordFull w) s).cutReports = s.cutReports ∧
    (applyUpd (.wordFull w) s).badRows = s.badRows ∧
    (applyUpd (.wordFull w) s).flash = s.flash ∧
    (applyUpd (.wordFull w) s).side = s.side ∧
    (applyUpd (.wordFull w) s).out = s.out := by
  and_intros <;> rfl

@[simp] theorem applyUpd_mreg (off : Nat) (v : Word) (s : State) :
    (applyUpd (.mreg off v) s).cycle = s.cycle ∧
    (applyUpd (.mreg off v) s).issueOver = s.issueOver ∧
    (applyUpd (.mreg off v) s).tick = s.tick ∧
    (applyUpd (.mreg off v) s).tickFrac = s.tickFrac ∧
    (applyUpd (.mreg off v) s).slew = s.slew ∧
    (applyUpd (.mreg off v) s).slewLast = s.slewLast ∧
    (applyUpd (.mreg off v) s).everLocked = s.everLocked ∧
    (applyUpd (.mreg off v) s).locked = s.locked ∧
    (applyUpd (.mreg off v) s).lastSync = s.lastSync ∧
    (applyUpd (.mreg off v) s).agenda = s.agenda ∧
    (applyUpd (.mreg off v) s).timers = s.timers ∧
    (applyUpd (.mreg off v) s).delays = s.delays ∧
    (applyUpd (.mreg off v) s).ctx = s.ctx ∧
    (applyUpd (.mreg off v) s).nextId = s.nextId ∧
    (applyUpd (.mreg off v) s).freeCount = s.freeCount ∧
    (applyUpd (.mreg off v) s).startup = s.startup ∧
    (applyUpd (.mreg off v) s).mem = s.mem ∧
    (applyUpd (.mreg off v) s).empty = s.empty ∧
    (applyUpd (.mreg off v) s).mregs = mset (modRegReset off) s.mregs off v ∧
    (applyUpd (.mreg off v) s).qerr = s.qerr ∧
    (applyUpd (.mreg off v) s).slots = s.slots ∧
    (applyUpd (.mreg off v) s).cores = s.cores ∧
    (applyUpd (.mreg off v) s).tlb2 = s.tlb2 ∧
    (applyUpd (.mreg off v) s).dies = s.dies ∧
    (applyUpd (.mreg off v) s).siphons = s.siphons ∧
    (applyUpd (.mreg off v) s).wells = s.wells ∧
    (applyUpd (.mreg off v) s).routers = s.routers ∧
    (applyUpd (.mreg off v) s).ports = s.ports ∧
    (applyUpd (.mreg off v) s).mail = s.mail ∧
    (applyUpd (.mreg off v) s).sheaves = s.sheaves ∧
    (applyUpd (.mreg off v) s).regions = s.regions ∧
    (applyUpd (.mreg off v) s).root = s.root ∧
    (applyUpd (.mreg off v) s).gangs = s.gangs ∧
    (applyUpd (.mreg off v) s).images = s.images ∧
    (applyUpd (.mreg off v) s).reports = s.reports ∧
    (applyUpd (.mreg off v) s).stretchLast = s.stretchLast ∧
    (applyUpd (.mreg off v) s).stretchSince = s.stretchSince ∧
    (applyUpd (.mreg off v) s).cutReports = s.cutReports ∧
    (applyUpd (.mreg off v) s).badRows = s.badRows ∧
    (applyUpd (.mreg off v) s).flash = s.flash ∧
    (applyUpd (.mreg off v) s).side = s.side ∧
    (applyUpd (.mreg off v) s).out = s.out := by
  and_intros <;> rfl

@[simp] theorem applyUpd_qerr (q n : Nat) (s : State) :
    (applyUpd (.qerr q n) s).cycle = s.cycle ∧
    (applyUpd (.qerr q n) s).issueOver = s.issueOver ∧
    (applyUpd (.qerr q n) s).tick = s.tick ∧
    (applyUpd (.qerr q n) s).tickFrac = s.tickFrac ∧
    (applyUpd (.qerr q n) s).slew = s.slew ∧
    (applyUpd (.qerr q n) s).slewLast = s.slewLast ∧
    (applyUpd (.qerr q n) s).everLocked = s.everLocked ∧
    (applyUpd (.qerr q n) s).locked = s.locked ∧
    (applyUpd (.qerr q n) s).lastSync = s.lastSync ∧
    (applyUpd (.qerr q n) s).agenda = s.agenda ∧
    (applyUpd (.qerr q n) s).timers = s.timers ∧
    (applyUpd (.qerr q n) s).delays = s.delays ∧
    (applyUpd (.qerr q n) s).ctx = s.ctx ∧
    (applyUpd (.qerr q n) s).nextId = s.nextId ∧
    (applyUpd (.qerr q n) s).freeCount = s.freeCount ∧
    (applyUpd (.qerr q n) s).startup = s.startup ∧
    (applyUpd (.qerr q n) s).mem = s.mem ∧
    (applyUpd (.qerr q n) s).empty = s.empty ∧
    (applyUpd (.qerr q n) s).mregs = s.mregs ∧
    (applyUpd (.qerr q n) s).qerr = mset 0 s.qerr q n ∧
    (applyUpd (.qerr q n) s).slots = s.slots ∧
    (applyUpd (.qerr q n) s).cores = s.cores ∧
    (applyUpd (.qerr q n) s).tlb2 = s.tlb2 ∧
    (applyUpd (.qerr q n) s).dies = s.dies ∧
    (applyUpd (.qerr q n) s).siphons = s.siphons ∧
    (applyUpd (.qerr q n) s).wells = s.wells ∧
    (applyUpd (.qerr q n) s).routers = s.routers ∧
    (applyUpd (.qerr q n) s).ports = s.ports ∧
    (applyUpd (.qerr q n) s).mail = s.mail ∧
    (applyUpd (.qerr q n) s).sheaves = s.sheaves ∧
    (applyUpd (.qerr q n) s).regions = s.regions ∧
    (applyUpd (.qerr q n) s).root = s.root ∧
    (applyUpd (.qerr q n) s).gangs = s.gangs ∧
    (applyUpd (.qerr q n) s).images = s.images ∧
    (applyUpd (.qerr q n) s).reports = s.reports ∧
    (applyUpd (.qerr q n) s).stretchLast = s.stretchLast ∧
    (applyUpd (.qerr q n) s).stretchSince = s.stretchSince ∧
    (applyUpd (.qerr q n) s).cutReports = s.cutReports ∧
    (applyUpd (.qerr q n) s).badRows = s.badRows ∧
    (applyUpd (.qerr q n) s).flash = s.flash ∧
    (applyUpd (.qerr q n) s).side = s.side ∧
    (applyUpd (.qerr q n) s).out = s.out := by
  and_intros <;> rfl

@[simp] theorem applyUpd_slot (c k : Nat) (x : Slot) (s : State) :
    (applyUpd (.slot c k x) s).cycle = s.cycle ∧
    (applyUpd (.slot c k x) s).issueOver = s.issueOver ∧
    (applyUpd (.slot c k x) s).tick = s.tick ∧
    (applyUpd (.slot c k x) s).tickFrac = s.tickFrac ∧
    (applyUpd (.slot c k x) s).slew = s.slew ∧
    (applyUpd (.slot c k x) s).slewLast = s.slewLast ∧
    (applyUpd (.slot c k x) s).everLocked = s.everLocked ∧
    (applyUpd (.slot c k x) s).locked = s.locked ∧
    (applyUpd (.slot c k x) s).lastSync = s.lastSync ∧
    (applyUpd (.slot c k x) s).agenda = s.agenda ∧
    (applyUpd (.slot c k x) s).timers = s.timers ∧
    (applyUpd (.slot c k x) s).delays = s.delays ∧
    (applyUpd (.slot c k x) s).ctx = s.ctx ∧
    (applyUpd (.slot c k x) s).nextId = s.nextId ∧
    (applyUpd (.slot c k x) s).freeCount = s.freeCount ∧
    (applyUpd (.slot c k x) s).startup = s.startup ∧
    (applyUpd (.slot c k x) s).mem = s.mem ∧
    (applyUpd (.slot c k x) s).empty = s.empty ∧
    (applyUpd (.slot c k x) s).mregs = s.mregs ∧
    (applyUpd (.slot c k x) s).qerr = s.qerr ∧
    (applyUpd (.slot c k x) s).slots = mset Slot.reset s.slots (c * 16 + k) x ∧
    (applyUpd (.slot c k x) s).cores = s.cores ∧
    (applyUpd (.slot c k x) s).tlb2 = s.tlb2 ∧
    (applyUpd (.slot c k x) s).dies = s.dies ∧
    (applyUpd (.slot c k x) s).siphons = s.siphons ∧
    (applyUpd (.slot c k x) s).wells = s.wells ∧
    (applyUpd (.slot c k x) s).routers = s.routers ∧
    (applyUpd (.slot c k x) s).ports = s.ports ∧
    (applyUpd (.slot c k x) s).mail = s.mail ∧
    (applyUpd (.slot c k x) s).sheaves = s.sheaves ∧
    (applyUpd (.slot c k x) s).regions = s.regions ∧
    (applyUpd (.slot c k x) s).root = s.root ∧
    (applyUpd (.slot c k x) s).gangs = s.gangs ∧
    (applyUpd (.slot c k x) s).images = s.images ∧
    (applyUpd (.slot c k x) s).reports = s.reports ∧
    (applyUpd (.slot c k x) s).stretchLast = s.stretchLast ∧
    (applyUpd (.slot c k x) s).stretchSince = s.stretchSince ∧
    (applyUpd (.slot c k x) s).cutReports = s.cutReports ∧
    (applyUpd (.slot c k x) s).badRows = s.badRows ∧
    (applyUpd (.slot c k x) s).flash = s.flash ∧
    (applyUpd (.slot c k x) s).side = s.side ∧
    (applyUpd (.slot c k x) s).out = s.out := by
  and_intros <;> rfl

@[simp] theorem applyUpd_core (c : Nat) (x : Core) (s : State) :
    (applyUpd (.core c x) s).cycle = s.cycle ∧
    (applyUpd (.core c x) s).issueOver = s.issueOver ∧
    (applyUpd (.core c x) s).tick = s.tick ∧
    (applyUpd (.core c x) s).tickFrac = s.tickFrac ∧
    (applyUpd (.core c x) s).slew = s.slew ∧
    (applyUpd (.core c x) s).slewLast = s.slewLast ∧
    (applyUpd (.core c x) s).everLocked = s.everLocked ∧
    (applyUpd (.core c x) s).locked = s.locked ∧
    (applyUpd (.core c x) s).lastSync = s.lastSync ∧
    (applyUpd (.core c x) s).agenda = s.agenda ∧
    (applyUpd (.core c x) s).timers = s.timers ∧
    (applyUpd (.core c x) s).delays = s.delays ∧
    (applyUpd (.core c x) s).ctx = s.ctx ∧
    (applyUpd (.core c x) s).nextId = s.nextId ∧
    (applyUpd (.core c x) s).freeCount = s.freeCount ∧
    (applyUpd (.core c x) s).startup = s.startup ∧
    (applyUpd (.core c x) s).mem = s.mem ∧
    (applyUpd (.core c x) s).empty = s.empty ∧
    (applyUpd (.core c x) s).mregs = s.mregs ∧
    (applyUpd (.core c x) s).qerr = s.qerr ∧
    (applyUpd (.core c x) s).slots = s.slots ∧
    (applyUpd (.core c x) s).cores = mset Core.reset s.cores c x ∧
    (applyUpd (.core c x) s).tlb2 = s.tlb2 ∧
    (applyUpd (.core c x) s).dies = s.dies ∧
    (applyUpd (.core c x) s).siphons = s.siphons ∧
    (applyUpd (.core c x) s).wells = s.wells ∧
    (applyUpd (.core c x) s).routers = s.routers ∧
    (applyUpd (.core c x) s).ports = s.ports ∧
    (applyUpd (.core c x) s).mail = s.mail ∧
    (applyUpd (.core c x) s).sheaves = s.sheaves ∧
    (applyUpd (.core c x) s).regions = s.regions ∧
    (applyUpd (.core c x) s).root = s.root ∧
    (applyUpd (.core c x) s).gangs = s.gangs ∧
    (applyUpd (.core c x) s).images = s.images ∧
    (applyUpd (.core c x) s).reports = s.reports ∧
    (applyUpd (.core c x) s).stretchLast = s.stretchLast ∧
    (applyUpd (.core c x) s).stretchSince = s.stretchSince ∧
    (applyUpd (.core c x) s).cutReports = s.cutReports ∧
    (applyUpd (.core c x) s).badRows = s.badRows ∧
    (applyUpd (.core c x) s).flash = s.flash ∧
    (applyUpd (.core c x) s).side = s.side ∧
    (applyUpd (.core c x) s).out = s.out := by
  and_intros <;> rfl

@[simp] theorem applyUpd_tlb2 (r : Nat) (l : List TlbEntry) (s : State) :
    (applyUpd (.tlb2 r l) s).cycle = s.cycle ∧
    (applyUpd (.tlb2 r l) s).issueOver = s.issueOver ∧
    (applyUpd (.tlb2 r l) s).tick = s.tick ∧
    (applyUpd (.tlb2 r l) s).tickFrac = s.tickFrac ∧
    (applyUpd (.tlb2 r l) s).slew = s.slew ∧
    (applyUpd (.tlb2 r l) s).slewLast = s.slewLast ∧
    (applyUpd (.tlb2 r l) s).everLocked = s.everLocked ∧
    (applyUpd (.tlb2 r l) s).locked = s.locked ∧
    (applyUpd (.tlb2 r l) s).lastSync = s.lastSync ∧
    (applyUpd (.tlb2 r l) s).agenda = s.agenda ∧
    (applyUpd (.tlb2 r l) s).timers = s.timers ∧
    (applyUpd (.tlb2 r l) s).delays = s.delays ∧
    (applyUpd (.tlb2 r l) s).ctx = s.ctx ∧
    (applyUpd (.tlb2 r l) s).nextId = s.nextId ∧
    (applyUpd (.tlb2 r l) s).freeCount = s.freeCount ∧
    (applyUpd (.tlb2 r l) s).startup = s.startup ∧
    (applyUpd (.tlb2 r l) s).mem = s.mem ∧
    (applyUpd (.tlb2 r l) s).empty = s.empty ∧
    (applyUpd (.tlb2 r l) s).mregs = s.mregs ∧
    (applyUpd (.tlb2 r l) s).qerr = s.qerr ∧
    (applyUpd (.tlb2 r l) s).slots = s.slots ∧
    (applyUpd (.tlb2 r l) s).cores = s.cores ∧
    (applyUpd (.tlb2 r l) s).tlb2 = mset [] s.tlb2 r l ∧
    (applyUpd (.tlb2 r l) s).dies = s.dies ∧
    (applyUpd (.tlb2 r l) s).siphons = s.siphons ∧
    (applyUpd (.tlb2 r l) s).wells = s.wells ∧
    (applyUpd (.tlb2 r l) s).routers = s.routers ∧
    (applyUpd (.tlb2 r l) s).ports = s.ports ∧
    (applyUpd (.tlb2 r l) s).mail = s.mail ∧
    (applyUpd (.tlb2 r l) s).sheaves = s.sheaves ∧
    (applyUpd (.tlb2 r l) s).regions = s.regions ∧
    (applyUpd (.tlb2 r l) s).root = s.root ∧
    (applyUpd (.tlb2 r l) s).gangs = s.gangs ∧
    (applyUpd (.tlb2 r l) s).images = s.images ∧
    (applyUpd (.tlb2 r l) s).reports = s.reports ∧
    (applyUpd (.tlb2 r l) s).stretchLast = s.stretchLast ∧
    (applyUpd (.tlb2 r l) s).stretchSince = s.stretchSince ∧
    (applyUpd (.tlb2 r l) s).cutReports = s.cutReports ∧
    (applyUpd (.tlb2 r l) s).badRows = s.badRows ∧
    (applyUpd (.tlb2 r l) s).flash = s.flash ∧
    (applyUpd (.tlb2 r l) s).side = s.side ∧
    (applyUpd (.tlb2 r l) s).out = s.out := by
  and_intros <;> rfl

@[simp] theorem applyUpd_die (d : Nat) (x : Die) (s : State) :
    (applyUpd (.die d x) s).cycle = s.cycle ∧
    (applyUpd (.die d x) s).issueOver = s.issueOver ∧
    (applyUpd (.die d x) s).tick = s.tick ∧
    (applyUpd (.die d x) s).tickFrac = s.tickFrac ∧
    (applyUpd (.die d x) s).slew = s.slew ∧
    (applyUpd (.die d x) s).slewLast = s.slewLast ∧
    (applyUpd (.die d x) s).everLocked = s.everLocked ∧
    (applyUpd (.die d x) s).locked = s.locked ∧
    (applyUpd (.die d x) s).lastSync = s.lastSync ∧
    (applyUpd (.die d x) s).agenda = s.agenda ∧
    (applyUpd (.die d x) s).timers = s.timers ∧
    (applyUpd (.die d x) s).delays = s.delays ∧
    (applyUpd (.die d x) s).ctx = s.ctx ∧
    (applyUpd (.die d x) s).nextId = s.nextId ∧
    (applyUpd (.die d x) s).freeCount = s.freeCount ∧
    (applyUpd (.die d x) s).startup = s.startup ∧
    (applyUpd (.die d x) s).mem = s.mem ∧
    (applyUpd (.die d x) s).empty = s.empty ∧
    (applyUpd (.die d x) s).mregs = s.mregs ∧
    (applyUpd (.die d x) s).qerr = s.qerr ∧
    (applyUpd (.die d x) s).slots = s.slots ∧
    (applyUpd (.die d x) s).cores = s.cores ∧
    (applyUpd (.die d x) s).tlb2 = s.tlb2 ∧
    (applyUpd (.die d x) s).dies = mset Die.reset s.dies d x ∧
    (applyUpd (.die d x) s).siphons = s.siphons ∧
    (applyUpd (.die d x) s).wells = s.wells ∧
    (applyUpd (.die d x) s).routers = s.routers ∧
    (applyUpd (.die d x) s).ports = s.ports ∧
    (applyUpd (.die d x) s).mail = s.mail ∧
    (applyUpd (.die d x) s).sheaves = s.sheaves ∧
    (applyUpd (.die d x) s).regions = s.regions ∧
    (applyUpd (.die d x) s).root = s.root ∧
    (applyUpd (.die d x) s).gangs = s.gangs ∧
    (applyUpd (.die d x) s).images = s.images ∧
    (applyUpd (.die d x) s).reports = s.reports ∧
    (applyUpd (.die d x) s).stretchLast = s.stretchLast ∧
    (applyUpd (.die d x) s).stretchSince = s.stretchSince ∧
    (applyUpd (.die d x) s).cutReports = s.cutReports ∧
    (applyUpd (.die d x) s).badRows = s.badRows ∧
    (applyUpd (.die d x) s).flash = s.flash ∧
    (applyUpd (.die d x) s).side = s.side ∧
    (applyUpd (.die d x) s).out = s.out := by
  and_intros <;> rfl

@[simp] theorem applyUpd_siphon (i : Nat) (x : Siphon) (s : State) :
    (applyUpd (.siphon i x) s).cycle = s.cycle ∧
    (applyUpd (.siphon i x) s).issueOver = s.issueOver ∧
    (applyUpd (.siphon i x) s).tick = s.tick ∧
    (applyUpd (.siphon i x) s).tickFrac = s.tickFrac ∧
    (applyUpd (.siphon i x) s).slew = s.slew ∧
    (applyUpd (.siphon i x) s).slewLast = s.slewLast ∧
    (applyUpd (.siphon i x) s).everLocked = s.everLocked ∧
    (applyUpd (.siphon i x) s).locked = s.locked ∧
    (applyUpd (.siphon i x) s).lastSync = s.lastSync ∧
    (applyUpd (.siphon i x) s).agenda = s.agenda ∧
    (applyUpd (.siphon i x) s).timers = s.timers ∧
    (applyUpd (.siphon i x) s).delays = s.delays ∧
    (applyUpd (.siphon i x) s).ctx = s.ctx ∧
    (applyUpd (.siphon i x) s).nextId = s.nextId ∧
    (applyUpd (.siphon i x) s).freeCount = s.freeCount ∧
    (applyUpd (.siphon i x) s).startup = s.startup ∧
    (applyUpd (.siphon i x) s).mem = s.mem ∧
    (applyUpd (.siphon i x) s).empty = s.empty ∧
    (applyUpd (.siphon i x) s).mregs = s.mregs ∧
    (applyUpd (.siphon i x) s).qerr = s.qerr ∧
    (applyUpd (.siphon i x) s).slots = s.slots ∧
    (applyUpd (.siphon i x) s).cores = s.cores ∧
    (applyUpd (.siphon i x) s).tlb2 = s.tlb2 ∧
    (applyUpd (.siphon i x) s).dies = s.dies ∧
    (applyUpd (.siphon i x) s).siphons = mset Siphon.reset s.siphons i x ∧
    (applyUpd (.siphon i x) s).wells = s.wells ∧
    (applyUpd (.siphon i x) s).routers = s.routers ∧
    (applyUpd (.siphon i x) s).ports = s.ports ∧
    (applyUpd (.siphon i x) s).mail = s.mail ∧
    (applyUpd (.siphon i x) s).sheaves = s.sheaves ∧
    (applyUpd (.siphon i x) s).regions = s.regions ∧
    (applyUpd (.siphon i x) s).root = s.root ∧
    (applyUpd (.siphon i x) s).gangs = s.gangs ∧
    (applyUpd (.siphon i x) s).images = s.images ∧
    (applyUpd (.siphon i x) s).reports = s.reports ∧
    (applyUpd (.siphon i x) s).stretchLast = s.stretchLast ∧
    (applyUpd (.siphon i x) s).stretchSince = s.stretchSince ∧
    (applyUpd (.siphon i x) s).cutReports = s.cutReports ∧
    (applyUpd (.siphon i x) s).badRows = s.badRows ∧
    (applyUpd (.siphon i x) s).flash = s.flash ∧
    (applyUpd (.siphon i x) s).side = s.side ∧
    (applyUpd (.siphon i x) s).out = s.out := by
  and_intros <;> rfl

@[simp] theorem applyUpd_well (w : Nat) (x : Wellhead) (s : State) :
    (applyUpd (.well w x) s).cycle = s.cycle ∧
    (applyUpd (.well w x) s).issueOver = s.issueOver ∧
    (applyUpd (.well w x) s).tick = s.tick ∧
    (applyUpd (.well w x) s).tickFrac = s.tickFrac ∧
    (applyUpd (.well w x) s).slew = s.slew ∧
    (applyUpd (.well w x) s).slewLast = s.slewLast ∧
    (applyUpd (.well w x) s).everLocked = s.everLocked ∧
    (applyUpd (.well w x) s).locked = s.locked ∧
    (applyUpd (.well w x) s).lastSync = s.lastSync ∧
    (applyUpd (.well w x) s).agenda = s.agenda ∧
    (applyUpd (.well w x) s).timers = s.timers ∧
    (applyUpd (.well w x) s).delays = s.delays ∧
    (applyUpd (.well w x) s).ctx = s.ctx ∧
    (applyUpd (.well w x) s).nextId = s.nextId ∧
    (applyUpd (.well w x) s).freeCount = s.freeCount ∧
    (applyUpd (.well w x) s).startup = s.startup ∧
    (applyUpd (.well w x) s).mem = s.mem ∧
    (applyUpd (.well w x) s).empty = s.empty ∧
    (applyUpd (.well w x) s).mregs = s.mregs ∧
    (applyUpd (.well w x) s).qerr = s.qerr ∧
    (applyUpd (.well w x) s).slots = s.slots ∧
    (applyUpd (.well w x) s).cores = s.cores ∧
    (applyUpd (.well w x) s).tlb2 = s.tlb2 ∧
    (applyUpd (.well w x) s).dies = s.dies ∧
    (applyUpd (.well w x) s).siphons = s.siphons ∧
    (applyUpd (.well w x) s).wells = mset Wellhead.reset s.wells w x ∧
    (applyUpd (.well w x) s).routers = s.routers ∧
    (applyUpd (.well w x) s).ports = s.ports ∧
    (applyUpd (.well w x) s).mail = s.mail ∧
    (applyUpd (.well w x) s).sheaves = s.sheaves ∧
    (applyUpd (.well w x) s).regions = s.regions ∧
    (applyUpd (.well w x) s).root = s.root ∧
    (applyUpd (.well w x) s).gangs = s.gangs ∧
    (applyUpd (.well w x) s).images = s.images ∧
    (applyUpd (.well w x) s).reports = s.reports ∧
    (applyUpd (.well w x) s).stretchLast = s.stretchLast ∧
    (applyUpd (.well w x) s).stretchSince = s.stretchSince ∧
    (applyUpd (.well w x) s).cutReports = s.cutReports ∧
    (applyUpd (.well w x) s).badRows = s.badRows ∧
    (applyUpd (.well w x) s).flash = s.flash ∧
    (applyUpd (.well w x) s).side = s.side ∧
    (applyUpd (.well w x) s).out = s.out := by
  and_intros <;> rfl

@[simp] theorem applyUpd_router (r : Nat) (x : Router) (s : State) :
    (applyUpd (.router r x) s).cycle = s.cycle ∧
    (applyUpd (.router r x) s).issueOver = s.issueOver ∧
    (applyUpd (.router r x) s).tick = s.tick ∧
    (applyUpd (.router r x) s).tickFrac = s.tickFrac ∧
    (applyUpd (.router r x) s).slew = s.slew ∧
    (applyUpd (.router r x) s).slewLast = s.slewLast ∧
    (applyUpd (.router r x) s).everLocked = s.everLocked ∧
    (applyUpd (.router r x) s).locked = s.locked ∧
    (applyUpd (.router r x) s).lastSync = s.lastSync ∧
    (applyUpd (.router r x) s).agenda = s.agenda ∧
    (applyUpd (.router r x) s).timers = s.timers ∧
    (applyUpd (.router r x) s).delays = s.delays ∧
    (applyUpd (.router r x) s).ctx = s.ctx ∧
    (applyUpd (.router r x) s).nextId = s.nextId ∧
    (applyUpd (.router r x) s).freeCount = s.freeCount ∧
    (applyUpd (.router r x) s).startup = s.startup ∧
    (applyUpd (.router r x) s).mem = s.mem ∧
    (applyUpd (.router r x) s).empty = s.empty ∧
    (applyUpd (.router r x) s).mregs = s.mregs ∧
    (applyUpd (.router r x) s).qerr = s.qerr ∧
    (applyUpd (.router r x) s).slots = s.slots ∧
    (applyUpd (.router r x) s).cores = s.cores ∧
    (applyUpd (.router r x) s).tlb2 = s.tlb2 ∧
    (applyUpd (.router r x) s).dies = s.dies ∧
    (applyUpd (.router r x) s).siphons = s.siphons ∧
    (applyUpd (.router r x) s).wells = s.wells ∧
    (applyUpd (.router r x) s).routers = mset Router.reset s.routers r x ∧
    (applyUpd (.router r x) s).ports = s.ports ∧
    (applyUpd (.router r x) s).mail = s.mail ∧
    (applyUpd (.router r x) s).sheaves = s.sheaves ∧
    (applyUpd (.router r x) s).regions = s.regions ∧
    (applyUpd (.router r x) s).root = s.root ∧
    (applyUpd (.router r x) s).gangs = s.gangs ∧
    (applyUpd (.router r x) s).images = s.images ∧
    (applyUpd (.router r x) s).reports = s.reports ∧
    (applyUpd (.router r x) s).stretchLast = s.stretchLast ∧
    (applyUpd (.router r x) s).stretchSince = s.stretchSince ∧
    (applyUpd (.router r x) s).cutReports = s.cutReports ∧
    (applyUpd (.router r x) s).badRows = s.badRows ∧
    (applyUpd (.router r x) s).flash = s.flash ∧
    (applyUpd (.router r x) s).side = s.side ∧
    (applyUpd (.router r x) s).out = s.out := by
  and_intros <;> rfl

@[simp] theorem applyUpd_port (p : Nat) (x : Port) (s : State) :
    (applyUpd (.port p x) s).cycle = s.cycle ∧
    (applyUpd (.port p x) s).issueOver = s.issueOver ∧
    (applyUpd (.port p x) s).tick = s.tick ∧
    (applyUpd (.port p x) s).tickFrac = s.tickFrac ∧
    (applyUpd (.port p x) s).slew = s.slew ∧
    (applyUpd (.port p x) s).slewLast = s.slewLast ∧
    (applyUpd (.port p x) s).everLocked = s.everLocked ∧
    (applyUpd (.port p x) s).locked = s.locked ∧
    (applyUpd (.port p x) s).lastSync = s.lastSync ∧
    (applyUpd (.port p x) s).agenda = s.agenda ∧
    (applyUpd (.port p x) s).timers = s.timers ∧
    (applyUpd (.port p x) s).delays = s.delays ∧
    (applyUpd (.port p x) s).ctx = s.ctx ∧
    (applyUpd (.port p x) s).nextId = s.nextId ∧
    (applyUpd (.port p x) s).freeCount = s.freeCount ∧
    (applyUpd (.port p x) s).startup = s.startup ∧
    (applyUpd (.port p x) s).mem = s.mem ∧
    (applyUpd (.port p x) s).empty = s.empty ∧
    (applyUpd (.port p x) s).mregs = s.mregs ∧
    (applyUpd (.port p x) s).qerr = s.qerr ∧
    (applyUpd (.port p x) s).slots = s.slots ∧
    (applyUpd (.port p x) s).cores = s.cores ∧
    (applyUpd (.port p x) s).tlb2 = s.tlb2 ∧
    (applyUpd (.port p x) s).dies = s.dies ∧
    (applyUpd (.port p x) s).siphons = s.siphons ∧
    (applyUpd (.port p x) s).wells = s.wells ∧
    (applyUpd (.port p x) s).routers = s.routers ∧
    (applyUpd (.port p x) s).ports = mset Port.reset s.ports p x ∧
    (applyUpd (.port p x) s).mail = s.mail ∧
    (applyUpd (.port p x) s).sheaves = s.sheaves ∧
    (applyUpd (.port p x) s).regions = s.regions ∧
    (applyUpd (.port p x) s).root = s.root ∧
    (applyUpd (.port p x) s).gangs = s.gangs ∧
    (applyUpd (.port p x) s).images = s.images ∧
    (applyUpd (.port p x) s).reports = s.reports ∧
    (applyUpd (.port p x) s).stretchLast = s.stretchLast ∧
    (applyUpd (.port p x) s).stretchSince = s.stretchSince ∧
    (applyUpd (.port p x) s).cutReports = s.cutReports ∧
    (applyUpd (.port p x) s).badRows = s.badRows ∧
    (applyUpd (.port p x) s).flash = s.flash ∧
    (applyUpd (.port p x) s).side = s.side ∧
    (applyUpd (.port p x) s).out = s.out := by
  and_intros <;> rfl

@[simp] theorem applyUpd_mail (l : List Mail) (s : State) :
    (applyUpd (.mail l) s).cycle = s.cycle ∧
    (applyUpd (.mail l) s).issueOver = s.issueOver ∧
    (applyUpd (.mail l) s).tick = s.tick ∧
    (applyUpd (.mail l) s).tickFrac = s.tickFrac ∧
    (applyUpd (.mail l) s).slew = s.slew ∧
    (applyUpd (.mail l) s).slewLast = s.slewLast ∧
    (applyUpd (.mail l) s).everLocked = s.everLocked ∧
    (applyUpd (.mail l) s).locked = s.locked ∧
    (applyUpd (.mail l) s).lastSync = s.lastSync ∧
    (applyUpd (.mail l) s).agenda = s.agenda ∧
    (applyUpd (.mail l) s).timers = s.timers ∧
    (applyUpd (.mail l) s).delays = s.delays ∧
    (applyUpd (.mail l) s).ctx = s.ctx ∧
    (applyUpd (.mail l) s).nextId = s.nextId ∧
    (applyUpd (.mail l) s).freeCount = s.freeCount ∧
    (applyUpd (.mail l) s).startup = s.startup ∧
    (applyUpd (.mail l) s).mem = s.mem ∧
    (applyUpd (.mail l) s).empty = s.empty ∧
    (applyUpd (.mail l) s).mregs = s.mregs ∧
    (applyUpd (.mail l) s).qerr = s.qerr ∧
    (applyUpd (.mail l) s).slots = s.slots ∧
    (applyUpd (.mail l) s).cores = s.cores ∧
    (applyUpd (.mail l) s).tlb2 = s.tlb2 ∧
    (applyUpd (.mail l) s).dies = s.dies ∧
    (applyUpd (.mail l) s).siphons = s.siphons ∧
    (applyUpd (.mail l) s).wells = s.wells ∧
    (applyUpd (.mail l) s).routers = s.routers ∧
    (applyUpd (.mail l) s).ports = s.ports ∧
    (applyUpd (.mail l) s).mail = l ∧
    (applyUpd (.mail l) s).sheaves = s.sheaves ∧
    (applyUpd (.mail l) s).regions = s.regions ∧
    (applyUpd (.mail l) s).root = s.root ∧
    (applyUpd (.mail l) s).gangs = s.gangs ∧
    (applyUpd (.mail l) s).images = s.images ∧
    (applyUpd (.mail l) s).reports = s.reports ∧
    (applyUpd (.mail l) s).stretchLast = s.stretchLast ∧
    (applyUpd (.mail l) s).stretchSince = s.stretchSince ∧
    (applyUpd (.mail l) s).cutReports = s.cutReports ∧
    (applyUpd (.mail l) s).badRows = s.badRows ∧
    (applyUpd (.mail l) s).flash = s.flash ∧
    (applyUpd (.mail l) s).side = s.side ∧
    (applyUpd (.mail l) s).out = s.out := by
  and_intros <;> rfl

@[simp] theorem applyUpd_sheaf (n : Nat) (x : Sheaf) (s : State) :
    (applyUpd (.sheaf n x) s).cycle = s.cycle ∧
    (applyUpd (.sheaf n x) s).issueOver = s.issueOver ∧
    (applyUpd (.sheaf n x) s).tick = s.tick ∧
    (applyUpd (.sheaf n x) s).tickFrac = s.tickFrac ∧
    (applyUpd (.sheaf n x) s).slew = s.slew ∧
    (applyUpd (.sheaf n x) s).slewLast = s.slewLast ∧
    (applyUpd (.sheaf n x) s).everLocked = s.everLocked ∧
    (applyUpd (.sheaf n x) s).locked = s.locked ∧
    (applyUpd (.sheaf n x) s).lastSync = s.lastSync ∧
    (applyUpd (.sheaf n x) s).agenda = s.agenda ∧
    (applyUpd (.sheaf n x) s).timers = s.timers ∧
    (applyUpd (.sheaf n x) s).delays = s.delays ∧
    (applyUpd (.sheaf n x) s).ctx = s.ctx ∧
    (applyUpd (.sheaf n x) s).nextId = s.nextId ∧
    (applyUpd (.sheaf n x) s).freeCount = s.freeCount ∧
    (applyUpd (.sheaf n x) s).startup = s.startup ∧
    (applyUpd (.sheaf n x) s).mem = s.mem ∧
    (applyUpd (.sheaf n x) s).empty = s.empty ∧
    (applyUpd (.sheaf n x) s).mregs = s.mregs ∧
    (applyUpd (.sheaf n x) s).qerr = s.qerr ∧
    (applyUpd (.sheaf n x) s).slots = s.slots ∧
    (applyUpd (.sheaf n x) s).cores = s.cores ∧
    (applyUpd (.sheaf n x) s).tlb2 = s.tlb2 ∧
    (applyUpd (.sheaf n x) s).dies = s.dies ∧
    (applyUpd (.sheaf n x) s).siphons = s.siphons ∧
    (applyUpd (.sheaf n x) s).wells = s.wells ∧
    (applyUpd (.sheaf n x) s).routers = s.routers ∧
    (applyUpd (.sheaf n x) s).ports = s.ports ∧
    (applyUpd (.sheaf n x) s).mail = s.mail ∧
    (applyUpd (.sheaf n x) s).sheaves = mset Sheaf.reset s.sheaves n x ∧
    (applyUpd (.sheaf n x) s).regions = s.regions ∧
    (applyUpd (.sheaf n x) s).root = s.root ∧
    (applyUpd (.sheaf n x) s).gangs = s.gangs ∧
    (applyUpd (.sheaf n x) s).images = s.images ∧
    (applyUpd (.sheaf n x) s).reports = s.reports ∧
    (applyUpd (.sheaf n x) s).stretchLast = s.stretchLast ∧
    (applyUpd (.sheaf n x) s).stretchSince = s.stretchSince ∧
    (applyUpd (.sheaf n x) s).cutReports = s.cutReports ∧
    (applyUpd (.sheaf n x) s).badRows = s.badRows ∧
    (applyUpd (.sheaf n x) s).flash = s.flash ∧
    (applyUpd (.sheaf n x) s).side = s.side ∧
    (applyUpd (.sheaf n x) s).out = s.out := by
  and_intros <;> rfl

@[simp] theorem applyUpd_region (r : Nat) (x : TreeUnit) (s : State) :
    (applyUpd (.region r x) s).cycle = s.cycle ∧
    (applyUpd (.region r x) s).issueOver = s.issueOver ∧
    (applyUpd (.region r x) s).tick = s.tick ∧
    (applyUpd (.region r x) s).tickFrac = s.tickFrac ∧
    (applyUpd (.region r x) s).slew = s.slew ∧
    (applyUpd (.region r x) s).slewLast = s.slewLast ∧
    (applyUpd (.region r x) s).everLocked = s.everLocked ∧
    (applyUpd (.region r x) s).locked = s.locked ∧
    (applyUpd (.region r x) s).lastSync = s.lastSync ∧
    (applyUpd (.region r x) s).agenda = s.agenda ∧
    (applyUpd (.region r x) s).timers = s.timers ∧
    (applyUpd (.region r x) s).delays = s.delays ∧
    (applyUpd (.region r x) s).ctx = s.ctx ∧
    (applyUpd (.region r x) s).nextId = s.nextId ∧
    (applyUpd (.region r x) s).freeCount = s.freeCount ∧
    (applyUpd (.region r x) s).startup = s.startup ∧
    (applyUpd (.region r x) s).mem = s.mem ∧
    (applyUpd (.region r x) s).empty = s.empty ∧
    (applyUpd (.region r x) s).mregs = s.mregs ∧
    (applyUpd (.region r x) s).qerr = s.qerr ∧
    (applyUpd (.region r x) s).slots = s.slots ∧
    (applyUpd (.region r x) s).cores = s.cores ∧
    (applyUpd (.region r x) s).tlb2 = s.tlb2 ∧
    (applyUpd (.region r x) s).dies = s.dies ∧
    (applyUpd (.region r x) s).siphons = s.siphons ∧
    (applyUpd (.region r x) s).wells = s.wells ∧
    (applyUpd (.region r x) s).routers = s.routers ∧
    (applyUpd (.region r x) s).ports = s.ports ∧
    (applyUpd (.region r x) s).mail = s.mail ∧
    (applyUpd (.region r x) s).sheaves = s.sheaves ∧
    (applyUpd (.region r x) s).regions = mset ⟨[], [], []⟩ s.regions r x ∧
    (applyUpd (.region r x) s).root = s.root ∧
    (applyUpd (.region r x) s).gangs = s.gangs ∧
    (applyUpd (.region r x) s).images = s.images ∧
    (applyUpd (.region r x) s).reports = s.reports ∧
    (applyUpd (.region r x) s).stretchLast = s.stretchLast ∧
    (applyUpd (.region r x) s).stretchSince = s.stretchSince ∧
    (applyUpd (.region r x) s).cutReports = s.cutReports ∧
    (applyUpd (.region r x) s).badRows = s.badRows ∧
    (applyUpd (.region r x) s).flash = s.flash ∧
    (applyUpd (.region r x) s).side = s.side ∧
    (applyUpd (.region r x) s).out = s.out := by
  and_intros <;> rfl

@[simp] theorem applyUpd_root (x : Root) (s : State) :
    (applyUpd (.root x) s).cycle = s.cycle ∧
    (applyUpd (.root x) s).issueOver = s.issueOver ∧
    (applyUpd (.root x) s).tick = s.tick ∧
    (applyUpd (.root x) s).tickFrac = s.tickFrac ∧
    (applyUpd (.root x) s).slew = s.slew ∧
    (applyUpd (.root x) s).slewLast = s.slewLast ∧
    (applyUpd (.root x) s).everLocked = s.everLocked ∧
    (applyUpd (.root x) s).locked = s.locked ∧
    (applyUpd (.root x) s).lastSync = s.lastSync ∧
    (applyUpd (.root x) s).agenda = s.agenda ∧
    (applyUpd (.root x) s).timers = s.timers ∧
    (applyUpd (.root x) s).delays = s.delays ∧
    (applyUpd (.root x) s).ctx = s.ctx ∧
    (applyUpd (.root x) s).nextId = s.nextId ∧
    (applyUpd (.root x) s).freeCount = s.freeCount ∧
    (applyUpd (.root x) s).startup = s.startup ∧
    (applyUpd (.root x) s).mem = s.mem ∧
    (applyUpd (.root x) s).empty = s.empty ∧
    (applyUpd (.root x) s).mregs = s.mregs ∧
    (applyUpd (.root x) s).qerr = s.qerr ∧
    (applyUpd (.root x) s).slots = s.slots ∧
    (applyUpd (.root x) s).cores = s.cores ∧
    (applyUpd (.root x) s).tlb2 = s.tlb2 ∧
    (applyUpd (.root x) s).dies = s.dies ∧
    (applyUpd (.root x) s).siphons = s.siphons ∧
    (applyUpd (.root x) s).wells = s.wells ∧
    (applyUpd (.root x) s).routers = s.routers ∧
    (applyUpd (.root x) s).ports = s.ports ∧
    (applyUpd (.root x) s).mail = s.mail ∧
    (applyUpd (.root x) s).sheaves = s.sheaves ∧
    (applyUpd (.root x) s).regions = s.regions ∧
    (applyUpd (.root x) s).root = x ∧
    (applyUpd (.root x) s).gangs = s.gangs ∧
    (applyUpd (.root x) s).images = s.images ∧
    (applyUpd (.root x) s).reports = s.reports ∧
    (applyUpd (.root x) s).stretchLast = s.stretchLast ∧
    (applyUpd (.root x) s).stretchSince = s.stretchSince ∧
    (applyUpd (.root x) s).cutReports = s.cutReports ∧
    (applyUpd (.root x) s).badRows = s.badRows ∧
    (applyUpd (.root x) s).flash = s.flash ∧
    (applyUpd (.root x) s).side = s.side ∧
    (applyUpd (.root x) s).out = s.out := by
  and_intros <;> rfl

@[simp] theorem applyUpd_gang (n : Nat) (x : Gang) (s : State) :
    (applyUpd (.gang n x) s).cycle = s.cycle ∧
    (applyUpd (.gang n x) s).issueOver = s.issueOver ∧
    (applyUpd (.gang n x) s).tick = s.tick ∧
    (applyUpd (.gang n x) s).tickFrac = s.tickFrac ∧
    (applyUpd (.gang n x) s).slew = s.slew ∧
    (applyUpd (.gang n x) s).slewLast = s.slewLast ∧
    (applyUpd (.gang n x) s).everLocked = s.everLocked ∧
    (applyUpd (.gang n x) s).locked = s.locked ∧
    (applyUpd (.gang n x) s).lastSync = s.lastSync ∧
    (applyUpd (.gang n x) s).agenda = s.agenda ∧
    (applyUpd (.gang n x) s).timers = s.timers ∧
    (applyUpd (.gang n x) s).delays = s.delays ∧
    (applyUpd (.gang n x) s).ctx = s.ctx ∧
    (applyUpd (.gang n x) s).nextId = s.nextId ∧
    (applyUpd (.gang n x) s).freeCount = s.freeCount ∧
    (applyUpd (.gang n x) s).startup = s.startup ∧
    (applyUpd (.gang n x) s).mem = s.mem ∧
    (applyUpd (.gang n x) s).empty = s.empty ∧
    (applyUpd (.gang n x) s).mregs = s.mregs ∧
    (applyUpd (.gang n x) s).qerr = s.qerr ∧
    (applyUpd (.gang n x) s).slots = s.slots ∧
    (applyUpd (.gang n x) s).cores = s.cores ∧
    (applyUpd (.gang n x) s).tlb2 = s.tlb2 ∧
    (applyUpd (.gang n x) s).dies = s.dies ∧
    (applyUpd (.gang n x) s).siphons = s.siphons ∧
    (applyUpd (.gang n x) s).wells = s.wells ∧
    (applyUpd (.gang n x) s).routers = s.routers ∧
    (applyUpd (.gang n x) s).ports = s.ports ∧
    (applyUpd (.gang n x) s).mail = s.mail ∧
    (applyUpd (.gang n x) s).sheaves = s.sheaves ∧
    (applyUpd (.gang n x) s).regions = s.regions ∧
    (applyUpd (.gang n x) s).root = s.root ∧
    (applyUpd (.gang n x) s).gangs = mset Gang.none s.gangs n x ∧
    (applyUpd (.gang n x) s).images = s.images ∧
    (applyUpd (.gang n x) s).reports = s.reports ∧
    (applyUpd (.gang n x) s).stretchLast = s.stretchLast ∧
    (applyUpd (.gang n x) s).stretchSince = s.stretchSince ∧
    (applyUpd (.gang n x) s).cutReports = s.cutReports ∧
    (applyUpd (.gang n x) s).badRows = s.badRows ∧
    (applyUpd (.gang n x) s).flash = s.flash ∧
    (applyUpd (.gang n x) s).side = s.side ∧
    (applyUpd (.gang n x) s).out = s.out := by
  and_intros <;> rfl

@[simp] theorem applyUpd_image (pa : Nat) (x : Option Thread) (s : State) :
    (applyUpd (.image pa x) s).cycle = s.cycle ∧
    (applyUpd (.image pa x) s).issueOver = s.issueOver ∧
    (applyUpd (.image pa x) s).tick = s.tick ∧
    (applyUpd (.image pa x) s).tickFrac = s.tickFrac ∧
    (applyUpd (.image pa x) s).slew = s.slew ∧
    (applyUpd (.image pa x) s).slewLast = s.slewLast ∧
    (applyUpd (.image pa x) s).everLocked = s.everLocked ∧
    (applyUpd (.image pa x) s).locked = s.locked ∧
    (applyUpd (.image pa x) s).lastSync = s.lastSync ∧
    (applyUpd (.image pa x) s).agenda = s.agenda ∧
    (applyUpd (.image pa x) s).timers = s.timers ∧
    (applyUpd (.image pa x) s).delays = s.delays ∧
    (applyUpd (.image pa x) s).ctx = s.ctx ∧
    (applyUpd (.image pa x) s).nextId = s.nextId ∧
    (applyUpd (.image pa x) s).freeCount = s.freeCount ∧
    (applyUpd (.image pa x) s).startup = s.startup ∧
    (applyUpd (.image pa x) s).mem = s.mem ∧
    (applyUpd (.image pa x) s).empty = s.empty ∧
    (applyUpd (.image pa x) s).mregs = s.mregs ∧
    (applyUpd (.image pa x) s).qerr = s.qerr ∧
    (applyUpd (.image pa x) s).slots = s.slots ∧
    (applyUpd (.image pa x) s).cores = s.cores ∧
    (applyUpd (.image pa x) s).tlb2 = s.tlb2 ∧
    (applyUpd (.image pa x) s).dies = s.dies ∧
    (applyUpd (.image pa x) s).siphons = s.siphons ∧
    (applyUpd (.image pa x) s).wells = s.wells ∧
    (applyUpd (.image pa x) s).routers = s.routers ∧
    (applyUpd (.image pa x) s).ports = s.ports ∧
    (applyUpd (.image pa x) s).mail = s.mail ∧
    (applyUpd (.image pa x) s).sheaves = s.sheaves ∧
    (applyUpd (.image pa x) s).regions = s.regions ∧
    (applyUpd (.image pa x) s).root = s.root ∧
    (applyUpd (.image pa x) s).gangs = s.gangs ∧
    (applyUpd (.image pa x) s).images = mset none s.images pa x ∧
    (applyUpd (.image pa x) s).reports = s.reports ∧
    (applyUpd (.image pa x) s).stretchLast = s.stretchLast ∧
    (applyUpd (.image pa x) s).stretchSince = s.stretchSince ∧
    (applyUpd (.image pa x) s).cutReports = s.cutReports ∧
    (applyUpd (.image pa x) s).badRows = s.badRows ∧
    (applyUpd (.image pa x) s).flash = s.flash ∧
    (applyUpd (.image pa x) s).side = s.side ∧
    (applyUpd (.image pa x) s).out = s.out := by
  and_intros <;> rfl

@[simp] theorem applyUpd_reports (l : List Report) (s : State) :
    (applyUpd (.reports l) s).cycle = s.cycle ∧
    (applyUpd (.reports l) s).issueOver = s.issueOver ∧
    (applyUpd (.reports l) s).tick = s.tick ∧
    (applyUpd (.reports l) s).tickFrac = s.tickFrac ∧
    (applyUpd (.reports l) s).slew = s.slew ∧
    (applyUpd (.reports l) s).slewLast = s.slewLast ∧
    (applyUpd (.reports l) s).everLocked = s.everLocked ∧
    (applyUpd (.reports l) s).locked = s.locked ∧
    (applyUpd (.reports l) s).lastSync = s.lastSync ∧
    (applyUpd (.reports l) s).agenda = s.agenda ∧
    (applyUpd (.reports l) s).timers = s.timers ∧
    (applyUpd (.reports l) s).delays = s.delays ∧
    (applyUpd (.reports l) s).ctx = s.ctx ∧
    (applyUpd (.reports l) s).nextId = s.nextId ∧
    (applyUpd (.reports l) s).freeCount = s.freeCount ∧
    (applyUpd (.reports l) s).startup = s.startup ∧
    (applyUpd (.reports l) s).mem = s.mem ∧
    (applyUpd (.reports l) s).empty = s.empty ∧
    (applyUpd (.reports l) s).mregs = s.mregs ∧
    (applyUpd (.reports l) s).qerr = s.qerr ∧
    (applyUpd (.reports l) s).slots = s.slots ∧
    (applyUpd (.reports l) s).cores = s.cores ∧
    (applyUpd (.reports l) s).tlb2 = s.tlb2 ∧
    (applyUpd (.reports l) s).dies = s.dies ∧
    (applyUpd (.reports l) s).siphons = s.siphons ∧
    (applyUpd (.reports l) s).wells = s.wells ∧
    (applyUpd (.reports l) s).routers = s.routers ∧
    (applyUpd (.reports l) s).ports = s.ports ∧
    (applyUpd (.reports l) s).mail = s.mail ∧
    (applyUpd (.reports l) s).sheaves = s.sheaves ∧
    (applyUpd (.reports l) s).regions = s.regions ∧
    (applyUpd (.reports l) s).root = s.root ∧
    (applyUpd (.reports l) s).gangs = s.gangs ∧
    (applyUpd (.reports l) s).images = s.images ∧
    (applyUpd (.reports l) s).reports = l ∧
    (applyUpd (.reports l) s).stretchLast = s.stretchLast ∧
    (applyUpd (.reports l) s).stretchSince = s.stretchSince ∧
    (applyUpd (.reports l) s).cutReports = s.cutReports ∧
    (applyUpd (.reports l) s).badRows = s.badRows ∧
    (applyUpd (.reports l) s).flash = s.flash ∧
    (applyUpd (.reports l) s).side = s.side ∧
    (applyUpd (.reports l) s).out = s.out := by
  and_intros <;> rfl

@[simp] theorem applyUpd_flash (x : Flash) (s : State) :
    (applyUpd (.flash x) s).cycle = s.cycle ∧
    (applyUpd (.flash x) s).issueOver = s.issueOver ∧
    (applyUpd (.flash x) s).tick = s.tick ∧
    (applyUpd (.flash x) s).tickFrac = s.tickFrac ∧
    (applyUpd (.flash x) s).slew = s.slew ∧
    (applyUpd (.flash x) s).slewLast = s.slewLast ∧
    (applyUpd (.flash x) s).everLocked = s.everLocked ∧
    (applyUpd (.flash x) s).locked = s.locked ∧
    (applyUpd (.flash x) s).lastSync = s.lastSync ∧
    (applyUpd (.flash x) s).agenda = s.agenda ∧
    (applyUpd (.flash x) s).timers = s.timers ∧
    (applyUpd (.flash x) s).delays = s.delays ∧
    (applyUpd (.flash x) s).ctx = s.ctx ∧
    (applyUpd (.flash x) s).nextId = s.nextId ∧
    (applyUpd (.flash x) s).freeCount = s.freeCount ∧
    (applyUpd (.flash x) s).startup = s.startup ∧
    (applyUpd (.flash x) s).mem = s.mem ∧
    (applyUpd (.flash x) s).empty = s.empty ∧
    (applyUpd (.flash x) s).mregs = s.mregs ∧
    (applyUpd (.flash x) s).qerr = s.qerr ∧
    (applyUpd (.flash x) s).slots = s.slots ∧
    (applyUpd (.flash x) s).cores = s.cores ∧
    (applyUpd (.flash x) s).tlb2 = s.tlb2 ∧
    (applyUpd (.flash x) s).dies = s.dies ∧
    (applyUpd (.flash x) s).siphons = s.siphons ∧
    (applyUpd (.flash x) s).wells = s.wells ∧
    (applyUpd (.flash x) s).routers = s.routers ∧
    (applyUpd (.flash x) s).ports = s.ports ∧
    (applyUpd (.flash x) s).mail = s.mail ∧
    (applyUpd (.flash x) s).sheaves = s.sheaves ∧
    (applyUpd (.flash x) s).regions = s.regions ∧
    (applyUpd (.flash x) s).root = s.root ∧
    (applyUpd (.flash x) s).gangs = s.gangs ∧
    (applyUpd (.flash x) s).images = s.images ∧
    (applyUpd (.flash x) s).reports = s.reports ∧
    (applyUpd (.flash x) s).stretchLast = s.stretchLast ∧
    (applyUpd (.flash x) s).stretchSince = s.stretchSince ∧
    (applyUpd (.flash x) s).cutReports = s.cutReports ∧
    (applyUpd (.flash x) s).badRows = s.badRows ∧
    (applyUpd (.flash x) s).flash = x ∧
    (applyUpd (.flash x) s).side = s.side ∧
    (applyUpd (.flash x) s).out = s.out := by
  and_intros <;> rfl

@[simp] theorem applyUpd_side (x : Sideband) (s : State) :
    (applyUpd (.side x) s).cycle = s.cycle ∧
    (applyUpd (.side x) s).issueOver = s.issueOver ∧
    (applyUpd (.side x) s).tick = s.tick ∧
    (applyUpd (.side x) s).tickFrac = s.tickFrac ∧
    (applyUpd (.side x) s).slew = s.slew ∧
    (applyUpd (.side x) s).slewLast = s.slewLast ∧
    (applyUpd (.side x) s).everLocked = s.everLocked ∧
    (applyUpd (.side x) s).locked = s.locked ∧
    (applyUpd (.side x) s).lastSync = s.lastSync ∧
    (applyUpd (.side x) s).agenda = s.agenda ∧
    (applyUpd (.side x) s).timers = s.timers ∧
    (applyUpd (.side x) s).delays = s.delays ∧
    (applyUpd (.side x) s).ctx = s.ctx ∧
    (applyUpd (.side x) s).nextId = s.nextId ∧
    (applyUpd (.side x) s).freeCount = s.freeCount ∧
    (applyUpd (.side x) s).startup = s.startup ∧
    (applyUpd (.side x) s).mem = s.mem ∧
    (applyUpd (.side x) s).empty = s.empty ∧
    (applyUpd (.side x) s).mregs = s.mregs ∧
    (applyUpd (.side x) s).qerr = s.qerr ∧
    (applyUpd (.side x) s).slots = s.slots ∧
    (applyUpd (.side x) s).cores = s.cores ∧
    (applyUpd (.side x) s).tlb2 = s.tlb2 ∧
    (applyUpd (.side x) s).dies = s.dies ∧
    (applyUpd (.side x) s).siphons = s.siphons ∧
    (applyUpd (.side x) s).wells = s.wells ∧
    (applyUpd (.side x) s).routers = s.routers ∧
    (applyUpd (.side x) s).ports = s.ports ∧
    (applyUpd (.side x) s).mail = s.mail ∧
    (applyUpd (.side x) s).sheaves = s.sheaves ∧
    (applyUpd (.side x) s).regions = s.regions ∧
    (applyUpd (.side x) s).root = s.root ∧
    (applyUpd (.side x) s).gangs = s.gangs ∧
    (applyUpd (.side x) s).images = s.images ∧
    (applyUpd (.side x) s).reports = s.reports ∧
    (applyUpd (.side x) s).stretchLast = s.stretchLast ∧
    (applyUpd (.side x) s).stretchSince = s.stretchSince ∧
    (applyUpd (.side x) s).cutReports = s.cutReports ∧
    (applyUpd (.side x) s).badRows = s.badRows ∧
    (applyUpd (.side x) s).flash = s.flash ∧
    (applyUpd (.side x) s).side = x ∧
    (applyUpd (.side x) s).out = s.out := by
  and_intros <;> rfl

@[simp] theorem applyUpd_cutReports (l : List Nat) (s : State) :
    (applyUpd (.cutReports l) s).cycle = s.cycle ∧
    (applyUpd (.cutReports l) s).issueOver = s.issueOver ∧
    (applyUpd (.cutReports l) s).tick = s.tick ∧
    (applyUpd (.cutReports l) s).tickFrac = s.tickFrac ∧
    (applyUpd (.cutReports l) s).slew = s.slew ∧
    (applyUpd (.cutReports l) s).slewLast = s.slewLast ∧
    (applyUpd (.cutReports l) s).everLocked = s.everLocked ∧
    (applyUpd (.cutReports l) s).locked = s.locked ∧
    (applyUpd (.cutReports l) s).lastSync = s.lastSync ∧
    (applyUpd (.cutReports l) s).agenda = s.agenda ∧
    (applyUpd (.cutReports l) s).timers = s.timers ∧
    (applyUpd (.cutReports l) s).delays = s.delays ∧
    (applyUpd (.cutReports l) s).ctx = s.ctx ∧
    (applyUpd (.cutReports l) s).nextId = s.nextId ∧
    (applyUpd (.cutReports l) s).freeCount = s.freeCount ∧
    (applyUpd (.cutReports l) s).startup = s.startup ∧
    (applyUpd (.cutReports l) s).mem = s.mem ∧
    (applyUpd (.cutReports l) s).empty = s.empty ∧
    (applyUpd (.cutReports l) s).mregs = s.mregs ∧
    (applyUpd (.cutReports l) s).qerr = s.qerr ∧
    (applyUpd (.cutReports l) s).slots = s.slots ∧
    (applyUpd (.cutReports l) s).cores = s.cores ∧
    (applyUpd (.cutReports l) s).tlb2 = s.tlb2 ∧
    (applyUpd (.cutReports l) s).dies = s.dies ∧
    (applyUpd (.cutReports l) s).siphons = s.siphons ∧
    (applyUpd (.cutReports l) s).wells = s.wells ∧
    (applyUpd (.cutReports l) s).routers = s.routers ∧
    (applyUpd (.cutReports l) s).ports = s.ports ∧
    (applyUpd (.cutReports l) s).mail = s.mail ∧
    (applyUpd (.cutReports l) s).sheaves = s.sheaves ∧
    (applyUpd (.cutReports l) s).regions = s.regions ∧
    (applyUpd (.cutReports l) s).root = s.root ∧
    (applyUpd (.cutReports l) s).gangs = s.gangs ∧
    (applyUpd (.cutReports l) s).images = s.images ∧
    (applyUpd (.cutReports l) s).reports = s.reports ∧
    (applyUpd (.cutReports l) s).stretchLast = s.stretchLast ∧
    (applyUpd (.cutReports l) s).stretchSince = s.stretchSince ∧
    (applyUpd (.cutReports l) s).cutReports = l ∧
    (applyUpd (.cutReports l) s).badRows = s.badRows ∧
    (applyUpd (.cutReports l) s).flash = s.flash ∧
    (applyUpd (.cutReports l) s).side = s.side ∧
    (applyUpd (.cutReports l) s).out = s.out := by
  and_intros <;> rfl

@[simp] theorem applyUpd_sched (key : Nat) (e : Instr) (s : State) :
    (applyUpd (.sched key e) s).cycle = s.cycle ∧
    (applyUpd (.sched key e) s).issueOver = s.issueOver ∧
    (applyUpd (.sched key e) s).tick = s.tick ∧
    (applyUpd (.sched key e) s).tickFrac = s.tickFrac ∧
    (applyUpd (.sched key e) s).slew = s.slew ∧
    (applyUpd (.sched key e) s).slewLast = s.slewLast ∧
    (applyUpd (.sched key e) s).everLocked = s.everLocked ∧
    (applyUpd (.sched key e) s).locked = s.locked ∧
    (applyUpd (.sched key e) s).lastSync = s.lastSync ∧
    (applyUpd (.sched key e) s).agenda = putEvent key e s.agenda ∧
    (applyUpd (.sched key e) s).timers = s.timers ∧
    (applyUpd (.sched key e) s).delays = s.delays ∧
    (applyUpd (.sched key e) s).ctx = s.ctx ∧
    (applyUpd (.sched key e) s).nextId = s.nextId ∧
    (applyUpd (.sched key e) s).freeCount = s.freeCount ∧
    (applyUpd (.sched key e) s).startup = s.startup ∧
    (applyUpd (.sched key e) s).mem = s.mem ∧
    (applyUpd (.sched key e) s).empty = s.empty ∧
    (applyUpd (.sched key e) s).mregs = s.mregs ∧
    (applyUpd (.sched key e) s).qerr = s.qerr ∧
    (applyUpd (.sched key e) s).slots = s.slots ∧
    (applyUpd (.sched key e) s).cores = s.cores ∧
    (applyUpd (.sched key e) s).tlb2 = s.tlb2 ∧
    (applyUpd (.sched key e) s).dies = s.dies ∧
    (applyUpd (.sched key e) s).siphons = s.siphons ∧
    (applyUpd (.sched key e) s).wells = s.wells ∧
    (applyUpd (.sched key e) s).routers = s.routers ∧
    (applyUpd (.sched key e) s).ports = s.ports ∧
    (applyUpd (.sched key e) s).mail = s.mail ∧
    (applyUpd (.sched key e) s).sheaves = s.sheaves ∧
    (applyUpd (.sched key e) s).regions = s.regions ∧
    (applyUpd (.sched key e) s).root = s.root ∧
    (applyUpd (.sched key e) s).gangs = s.gangs ∧
    (applyUpd (.sched key e) s).images = s.images ∧
    (applyUpd (.sched key e) s).reports = s.reports ∧
    (applyUpd (.sched key e) s).stretchLast = s.stretchLast ∧
    (applyUpd (.sched key e) s).stretchSince = s.stretchSince ∧
    (applyUpd (.sched key e) s).cutReports = s.cutReports ∧
    (applyUpd (.sched key e) s).badRows = s.badRows ∧
    (applyUpd (.sched key e) s).flash = s.flash ∧
    (applyUpd (.sched key e) s).side = s.side ∧
    (applyUpd (.sched key e) s).out = s.out := by
  and_intros <;> rfl

@[simp] theorem applyUpd_timer (t : Nat) (e : Instr) (s : State) :
    (applyUpd (.timer t e) s).cycle = s.cycle ∧
    (applyUpd (.timer t e) s).issueOver = s.issueOver ∧
    (applyUpd (.timer t e) s).tick = s.tick ∧
    (applyUpd (.timer t e) s).tickFrac = s.tickFrac ∧
    (applyUpd (.timer t e) s).slew = s.slew ∧
    (applyUpd (.timer t e) s).slewLast = s.slewLast ∧
    (applyUpd (.timer t e) s).everLocked = s.everLocked ∧
    (applyUpd (.timer t e) s).locked = s.locked ∧
    (applyUpd (.timer t e) s).lastSync = s.lastSync ∧
    (applyUpd (.timer t e) s).agenda = s.agenda ∧
    (applyUpd (.timer t e) s).timers = putEvent t e s.timers ∧
    (applyUpd (.timer t e) s).delays = s.delays ∧
    (applyUpd (.timer t e) s).ctx = s.ctx ∧
    (applyUpd (.timer t e) s).nextId = s.nextId ∧
    (applyUpd (.timer t e) s).freeCount = s.freeCount ∧
    (applyUpd (.timer t e) s).startup = s.startup ∧
    (applyUpd (.timer t e) s).mem = s.mem ∧
    (applyUpd (.timer t e) s).empty = s.empty ∧
    (applyUpd (.timer t e) s).mregs = s.mregs ∧
    (applyUpd (.timer t e) s).qerr = s.qerr ∧
    (applyUpd (.timer t e) s).slots = s.slots ∧
    (applyUpd (.timer t e) s).cores = s.cores ∧
    (applyUpd (.timer t e) s).tlb2 = s.tlb2 ∧
    (applyUpd (.timer t e) s).dies = s.dies ∧
    (applyUpd (.timer t e) s).siphons = s.siphons ∧
    (applyUpd (.timer t e) s).wells = s.wells ∧
    (applyUpd (.timer t e) s).routers = s.routers ∧
    (applyUpd (.timer t e) s).ports = s.ports ∧
    (applyUpd (.timer t e) s).mail = s.mail ∧
    (applyUpd (.timer t e) s).sheaves = s.sheaves ∧
    (applyUpd (.timer t e) s).regions = s.regions ∧
    (applyUpd (.timer t e) s).root = s.root ∧
    (applyUpd (.timer t e) s).gangs = s.gangs ∧
    (applyUpd (.timer t e) s).images = s.images ∧
    (applyUpd (.timer t e) s).reports = s.reports ∧
    (applyUpd (.timer t e) s).stretchLast = s.stretchLast ∧
    (applyUpd (.timer t e) s).stretchSince = s.stretchSince ∧
    (applyUpd (.timer t e) s).cutReports = s.cutReports ∧
    (applyUpd (.timer t e) s).badRows = s.badRows ∧
    (applyUpd (.timer t e) s).flash = s.flash ∧
    (applyUpd (.timer t e) s).side = s.side ∧
    (applyUpd (.timer t e) s).out = s.out := by
  and_intros <;> rfl

@[simp] theorem applyUpd_dropDelay (s : State) :
    (applyUpd .dropDelay s).cycle = s.cycle ∧
    (applyUpd .dropDelay s).issueOver = s.issueOver ∧
    (applyUpd .dropDelay s).tick = s.tick ∧
    (applyUpd .dropDelay s).tickFrac = s.tickFrac ∧
    (applyUpd .dropDelay s).slew = s.slew ∧
    (applyUpd .dropDelay s).slewLast = s.slewLast ∧
    (applyUpd .dropDelay s).everLocked = s.everLocked ∧
    (applyUpd .dropDelay s).locked = s.locked ∧
    (applyUpd .dropDelay s).lastSync = s.lastSync ∧
    (applyUpd .dropDelay s).agenda = s.agenda ∧
    (applyUpd .dropDelay s).timers = s.timers ∧
    (applyUpd .dropDelay s).delays = s.delays.drop 1 ∧
    (applyUpd .dropDelay s).ctx = s.ctx ∧
    (applyUpd .dropDelay s).nextId = s.nextId ∧
    (applyUpd .dropDelay s).freeCount = s.freeCount ∧
    (applyUpd .dropDelay s).startup = s.startup ∧
    (applyUpd .dropDelay s).mem = s.mem ∧
    (applyUpd .dropDelay s).empty = s.empty ∧
    (applyUpd .dropDelay s).mregs = s.mregs ∧
    (applyUpd .dropDelay s).qerr = s.qerr ∧
    (applyUpd .dropDelay s).slots = s.slots ∧
    (applyUpd .dropDelay s).cores = s.cores ∧
    (applyUpd .dropDelay s).tlb2 = s.tlb2 ∧
    (applyUpd .dropDelay s).dies = s.dies ∧
    (applyUpd .dropDelay s).siphons = s.siphons ∧
    (applyUpd .dropDelay s).wells = s.wells ∧
    (applyUpd .dropDelay s).routers = s.routers ∧
    (applyUpd .dropDelay s).ports = s.ports ∧
    (applyUpd .dropDelay s).mail = s.mail ∧
    (applyUpd .dropDelay s).sheaves = s.sheaves ∧
    (applyUpd .dropDelay s).regions = s.regions ∧
    (applyUpd .dropDelay s).root = s.root ∧
    (applyUpd .dropDelay s).gangs = s.gangs ∧
    (applyUpd .dropDelay s).images = s.images ∧
    (applyUpd .dropDelay s).reports = s.reports ∧
    (applyUpd .dropDelay s).stretchLast = s.stretchLast ∧
    (applyUpd .dropDelay s).stretchSince = s.stretchSince ∧
    (applyUpd .dropDelay s).cutReports = s.cutReports ∧
    (applyUpd .dropDelay s).badRows = s.badRows ∧
    (applyUpd .dropDelay s).flash = s.flash ∧
    (applyUpd .dropDelay s).side = s.side ∧
    (applyUpd .dropDelay s).out = s.out := by
  and_intros <;> rfl

@[simp] theorem applyUpd_ctx (x : Ctx) (s : State) :
    (applyUpd (.ctx x) s).cycle = s.cycle ∧
    (applyUpd (.ctx x) s).issueOver = s.issueOver ∧
    (applyUpd (.ctx x) s).tick = s.tick ∧
    (applyUpd (.ctx x) s).tickFrac = s.tickFrac ∧
    (applyUpd (.ctx x) s).slew = s.slew ∧
    (applyUpd (.ctx x) s).slewLast = s.slewLast ∧
    (applyUpd (.ctx x) s).everLocked = s.everLocked ∧
    (applyUpd (.ctx x) s).locked = s.locked ∧
    (applyUpd (.ctx x) s).lastSync = s.lastSync ∧
    (applyUpd (.ctx x) s).agenda = s.agenda ∧
    (applyUpd (.ctx x) s).timers = s.timers ∧
    (applyUpd (.ctx x) s).delays = s.delays ∧
    (applyUpd (.ctx x) s).ctx = x ∧
    (applyUpd (.ctx x) s).nextId = s.nextId ∧
    (applyUpd (.ctx x) s).freeCount = s.freeCount ∧
    (applyUpd (.ctx x) s).startup = s.startup ∧
    (applyUpd (.ctx x) s).mem = s.mem ∧
    (applyUpd (.ctx x) s).empty = s.empty ∧
    (applyUpd (.ctx x) s).mregs = s.mregs ∧
    (applyUpd (.ctx x) s).qerr = s.qerr ∧
    (applyUpd (.ctx x) s).slots = s.slots ∧
    (applyUpd (.ctx x) s).cores = s.cores ∧
    (applyUpd (.ctx x) s).tlb2 = s.tlb2 ∧
    (applyUpd (.ctx x) s).dies = s.dies ∧
    (applyUpd (.ctx x) s).siphons = s.siphons ∧
    (applyUpd (.ctx x) s).wells = s.wells ∧
    (applyUpd (.ctx x) s).routers = s.routers ∧
    (applyUpd (.ctx x) s).ports = s.ports ∧
    (applyUpd (.ctx x) s).mail = s.mail ∧
    (applyUpd (.ctx x) s).sheaves = s.sheaves ∧
    (applyUpd (.ctx x) s).regions = s.regions ∧
    (applyUpd (.ctx x) s).root = s.root ∧
    (applyUpd (.ctx x) s).gangs = s.gangs ∧
    (applyUpd (.ctx x) s).images = s.images ∧
    (applyUpd (.ctx x) s).reports = s.reports ∧
    (applyUpd (.ctx x) s).stretchLast = s.stretchLast ∧
    (applyUpd (.ctx x) s).stretchSince = s.stretchSince ∧
    (applyUpd (.ctx x) s).cutReports = s.cutReports ∧
    (applyUpd (.ctx x) s).badRows = s.badRows ∧
    (applyUpd (.ctx x) s).flash = s.flash ∧
    (applyUpd (.ctx x) s).side = s.side ∧
    (applyUpd (.ctx x) s).out = s.out := by
  and_intros <;> rfl

@[simp] theorem applyUpd_newId (s : State) :
    (applyUpd .newId s).cycle = s.cycle ∧
    (applyUpd .newId s).issueOver = s.issueOver ∧
    (applyUpd .newId s).tick = s.tick ∧
    (applyUpd .newId s).tickFrac = s.tickFrac ∧
    (applyUpd .newId s).slew = s.slew ∧
    (applyUpd .newId s).slewLast = s.slewLast ∧
    (applyUpd .newId s).everLocked = s.everLocked ∧
    (applyUpd .newId s).locked = s.locked ∧
    (applyUpd .newId s).lastSync = s.lastSync ∧
    (applyUpd .newId s).agenda = s.agenda ∧
    (applyUpd .newId s).timers = s.timers ∧
    (applyUpd .newId s).delays = s.delays ∧
    (applyUpd .newId s).ctx = s.ctx ∧
    (applyUpd .newId s).nextId = s.nextId + 1 ∧
    (applyUpd .newId s).freeCount = s.freeCount ∧
    (applyUpd .newId s).startup = s.startup ∧
    (applyUpd .newId s).mem = s.mem ∧
    (applyUpd .newId s).empty = s.empty ∧
    (applyUpd .newId s).mregs = s.mregs ∧
    (applyUpd .newId s).qerr = s.qerr ∧
    (applyUpd .newId s).slots = s.slots ∧
    (applyUpd .newId s).cores = s.cores ∧
    (applyUpd .newId s).tlb2 = s.tlb2 ∧
    (applyUpd .newId s).dies = s.dies ∧
    (applyUpd .newId s).siphons = s.siphons ∧
    (applyUpd .newId s).wells = s.wells ∧
    (applyUpd .newId s).routers = s.routers ∧
    (applyUpd .newId s).ports = s.ports ∧
    (applyUpd .newId s).mail = s.mail ∧
    (applyUpd .newId s).sheaves = s.sheaves ∧
    (applyUpd .newId s).regions = s.regions ∧
    (applyUpd .newId s).root = s.root ∧
    (applyUpd .newId s).gangs = s.gangs ∧
    (applyUpd .newId s).images = s.images ∧
    (applyUpd .newId s).reports = s.reports ∧
    (applyUpd .newId s).stretchLast = s.stretchLast ∧
    (applyUpd .newId s).stretchSince = s.stretchSince ∧
    (applyUpd .newId s).cutReports = s.cutReports ∧
    (applyUpd .newId s).badRows = s.badRows ∧
    (applyUpd .newId s).flash = s.flash ∧
    (applyUpd .newId s).side = s.side ∧
    (applyUpd .newId s).out = s.out := by
  and_intros <;> rfl

@[simp] theorem applyUpd_newFree (s : State) :
    (applyUpd .newFree s).cycle = s.cycle ∧
    (applyUpd .newFree s).issueOver = s.issueOver ∧
    (applyUpd .newFree s).tick = s.tick ∧
    (applyUpd .newFree s).tickFrac = s.tickFrac ∧
    (applyUpd .newFree s).slew = s.slew ∧
    (applyUpd .newFree s).slewLast = s.slewLast ∧
    (applyUpd .newFree s).everLocked = s.everLocked ∧
    (applyUpd .newFree s).locked = s.locked ∧
    (applyUpd .newFree s).lastSync = s.lastSync ∧
    (applyUpd .newFree s).agenda = s.agenda ∧
    (applyUpd .newFree s).timers = s.timers ∧
    (applyUpd .newFree s).delays = s.delays ∧
    (applyUpd .newFree s).ctx = s.ctx ∧
    (applyUpd .newFree s).nextId = s.nextId ∧
    (applyUpd .newFree s).freeCount = s.freeCount + 1 ∧
    (applyUpd .newFree s).startup = s.startup ∧
    (applyUpd .newFree s).mem = s.mem ∧
    (applyUpd .newFree s).empty = s.empty ∧
    (applyUpd .newFree s).mregs = s.mregs ∧
    (applyUpd .newFree s).qerr = s.qerr ∧
    (applyUpd .newFree s).slots = s.slots ∧
    (applyUpd .newFree s).cores = s.cores ∧
    (applyUpd .newFree s).tlb2 = s.tlb2 ∧
    (applyUpd .newFree s).dies = s.dies ∧
    (applyUpd .newFree s).siphons = s.siphons ∧
    (applyUpd .newFree s).wells = s.wells ∧
    (applyUpd .newFree s).routers = s.routers ∧
    (applyUpd .newFree s).ports = s.ports ∧
    (applyUpd .newFree s).mail = s.mail ∧
    (applyUpd .newFree s).sheaves = s.sheaves ∧
    (applyUpd .newFree s).regions = s.regions ∧
    (applyUpd .newFree s).root = s.root ∧
    (applyUpd .newFree s).gangs = s.gangs ∧
    (applyUpd .newFree s).images = s.images ∧
    (applyUpd .newFree s).reports = s.reports ∧
    (applyUpd .newFree s).stretchLast = s.stretchLast ∧
    (applyUpd .newFree s).stretchSince = s.stretchSince ∧
    (applyUpd .newFree s).cutReports = s.cutReports ∧
    (applyUpd .newFree s).badRows = s.badRows ∧
    (applyUpd .newFree s).flash = s.flash ∧
    (applyUpd .newFree s).side = s.side ∧
    (applyUpd .newFree s).out = s.out := by
  and_intros <;> rfl

@[simp] theorem applyUpd_sync (ever l : Bool) (last : Nat) (d : Int) (s : State) :
    (applyUpd (.sync ever l last d) s).cycle = s.cycle ∧
    (applyUpd (.sync ever l last d) s).issueOver = s.issueOver ∧
    (applyUpd (.sync ever l last d) s).tick = s.tick ∧
    (applyUpd (.sync ever l last d) s).tickFrac = s.tickFrac ∧
    (applyUpd (.sync ever l last d) s).slew = d ∧
    (applyUpd (.sync ever l last d) s).slewLast = s.slewLast ∧
    (applyUpd (.sync ever l last d) s).everLocked = ever ∧
    (applyUpd (.sync ever l last d) s).locked = l ∧
    (applyUpd (.sync ever l last d) s).lastSync = last ∧
    (applyUpd (.sync ever l last d) s).agenda = s.agenda ∧
    (applyUpd (.sync ever l last d) s).timers = s.timers ∧
    (applyUpd (.sync ever l last d) s).delays = s.delays ∧
    (applyUpd (.sync ever l last d) s).ctx = s.ctx ∧
    (applyUpd (.sync ever l last d) s).nextId = s.nextId ∧
    (applyUpd (.sync ever l last d) s).freeCount = s.freeCount ∧
    (applyUpd (.sync ever l last d) s).startup = s.startup ∧
    (applyUpd (.sync ever l last d) s).mem = s.mem ∧
    (applyUpd (.sync ever l last d) s).empty = s.empty ∧
    (applyUpd (.sync ever l last d) s).mregs = s.mregs ∧
    (applyUpd (.sync ever l last d) s).qerr = s.qerr ∧
    (applyUpd (.sync ever l last d) s).slots = s.slots ∧
    (applyUpd (.sync ever l last d) s).cores = s.cores ∧
    (applyUpd (.sync ever l last d) s).tlb2 = s.tlb2 ∧
    (applyUpd (.sync ever l last d) s).dies = s.dies ∧
    (applyUpd (.sync ever l last d) s).siphons = s.siphons ∧
    (applyUpd (.sync ever l last d) s).wells = s.wells ∧
    (applyUpd (.sync ever l last d) s).routers = s.routers ∧
    (applyUpd (.sync ever l last d) s).ports = s.ports ∧
    (applyUpd (.sync ever l last d) s).mail = s.mail ∧
    (applyUpd (.sync ever l last d) s).sheaves = s.sheaves ∧
    (applyUpd (.sync ever l last d) s).regions = s.regions ∧
    (applyUpd (.sync ever l last d) s).root = s.root ∧
    (applyUpd (.sync ever l last d) s).gangs = s.gangs ∧
    (applyUpd (.sync ever l last d) s).images = s.images ∧
    (applyUpd (.sync ever l last d) s).reports = s.reports ∧
    (applyUpd (.sync ever l last d) s).stretchLast = s.stretchLast ∧
    (applyUpd (.sync ever l last d) s).stretchSince = s.stretchSince ∧
    (applyUpd (.sync ever l last d) s).cutReports = s.cutReports ∧
    (applyUpd (.sync ever l last d) s).badRows = s.badRows ∧
    (applyUpd (.sync ever l last d) s).flash = s.flash ∧
    (applyUpd (.sync ever l last d) s).side = s.side ∧
    (applyUpd (.sync ever l last d) s).out = s.out := by
  and_intros <;> rfl

@[simp] theorem applyUpd_tick (t : Nat) (s : State) :
    (applyUpd (.tick t) s).cycle = s.cycle ∧
    (applyUpd (.tick t) s).issueOver = s.issueOver ∧
    (applyUpd (.tick t) s).tick = t ∧
    (applyUpd (.tick t) s).tickFrac = s.tickFrac ∧
    (applyUpd (.tick t) s).slew = s.slew ∧
    (applyUpd (.tick t) s).slewLast = s.slewLast ∧
    (applyUpd (.tick t) s).everLocked = s.everLocked ∧
    (applyUpd (.tick t) s).locked = s.locked ∧
    (applyUpd (.tick t) s).lastSync = s.lastSync ∧
    (applyUpd (.tick t) s).agenda = s.agenda ∧
    (applyUpd (.tick t) s).timers = s.timers ∧
    (applyUpd (.tick t) s).delays = s.delays ∧
    (applyUpd (.tick t) s).ctx = s.ctx ∧
    (applyUpd (.tick t) s).nextId = s.nextId ∧
    (applyUpd (.tick t) s).freeCount = s.freeCount ∧
    (applyUpd (.tick t) s).startup = s.startup ∧
    (applyUpd (.tick t) s).mem = s.mem ∧
    (applyUpd (.tick t) s).empty = s.empty ∧
    (applyUpd (.tick t) s).mregs = s.mregs ∧
    (applyUpd (.tick t) s).qerr = s.qerr ∧
    (applyUpd (.tick t) s).slots = s.slots ∧
    (applyUpd (.tick t) s).cores = s.cores ∧
    (applyUpd (.tick t) s).tlb2 = s.tlb2 ∧
    (applyUpd (.tick t) s).dies = s.dies ∧
    (applyUpd (.tick t) s).siphons = s.siphons ∧
    (applyUpd (.tick t) s).wells = s.wells ∧
    (applyUpd (.tick t) s).routers = s.routers ∧
    (applyUpd (.tick t) s).ports = s.ports ∧
    (applyUpd (.tick t) s).mail = s.mail ∧
    (applyUpd (.tick t) s).sheaves = s.sheaves ∧
    (applyUpd (.tick t) s).regions = s.regions ∧
    (applyUpd (.tick t) s).root = s.root ∧
    (applyUpd (.tick t) s).gangs = s.gangs ∧
    (applyUpd (.tick t) s).images = s.images ∧
    (applyUpd (.tick t) s).reports = s.reports ∧
    (applyUpd (.tick t) s).stretchLast = s.stretchLast ∧
    (applyUpd (.tick t) s).stretchSince = s.stretchSince ∧
    (applyUpd (.tick t) s).cutReports = s.cutReports ∧
    (applyUpd (.tick t) s).badRows = s.badRows ∧
    (applyUpd (.tick t) s).flash = s.flash ∧
    (applyUpd (.tick t) s).side = s.side ∧
    (applyUpd (.tick t) s).out = s.out := by
  and_intros <;> rfl

@[simp] theorem applyUpd_startup (b : Bool) (s : State) :
    (applyUpd (.startup b) s).cycle = s.cycle ∧
    (applyUpd (.startup b) s).issueOver = s.issueOver ∧
    (applyUpd (.startup b) s).tick = s.tick ∧
    (applyUpd (.startup b) s).tickFrac = s.tickFrac ∧
    (applyUpd (.startup b) s).slew = s.slew ∧
    (applyUpd (.startup b) s).slewLast = s.slewLast ∧
    (applyUpd (.startup b) s).everLocked = s.everLocked ∧
    (applyUpd (.startup b) s).locked = s.locked ∧
    (applyUpd (.startup b) s).lastSync = s.lastSync ∧
    (applyUpd (.startup b) s).agenda = s.agenda ∧
    (applyUpd (.startup b) s).timers = s.timers ∧
    (applyUpd (.startup b) s).delays = s.delays ∧
    (applyUpd (.startup b) s).ctx = s.ctx ∧
    (applyUpd (.startup b) s).nextId = s.nextId ∧
    (applyUpd (.startup b) s).freeCount = s.freeCount ∧
    (applyUpd (.startup b) s).startup = b ∧
    (applyUpd (.startup b) s).mem = s.mem ∧
    (applyUpd (.startup b) s).empty = s.empty ∧
    (applyUpd (.startup b) s).mregs = s.mregs ∧
    (applyUpd (.startup b) s).qerr = s.qerr ∧
    (applyUpd (.startup b) s).slots = s.slots ∧
    (applyUpd (.startup b) s).cores = s.cores ∧
    (applyUpd (.startup b) s).tlb2 = s.tlb2 ∧
    (applyUpd (.startup b) s).dies = s.dies ∧
    (applyUpd (.startup b) s).siphons = s.siphons ∧
    (applyUpd (.startup b) s).wells = s.wells ∧
    (applyUpd (.startup b) s).routers = s.routers ∧
    (applyUpd (.startup b) s).ports = s.ports ∧
    (applyUpd (.startup b) s).mail = s.mail ∧
    (applyUpd (.startup b) s).sheaves = s.sheaves ∧
    (applyUpd (.startup b) s).regions = s.regions ∧
    (applyUpd (.startup b) s).root = s.root ∧
    (applyUpd (.startup b) s).gangs = s.gangs ∧
    (applyUpd (.startup b) s).images = s.images ∧
    (applyUpd (.startup b) s).reports = s.reports ∧
    (applyUpd (.startup b) s).stretchLast = s.stretchLast ∧
    (applyUpd (.startup b) s).stretchSince = s.stretchSince ∧
    (applyUpd (.startup b) s).cutReports = s.cutReports ∧
    (applyUpd (.startup b) s).badRows = s.badRows ∧
    (applyUpd (.startup b) s).flash = s.flash ∧
    (applyUpd (.startup b) s).side = s.side ∧
    (applyUpd (.startup b) s).out = s.out := by
  and_intros <;> rfl

@[simp] theorem applyUpd_stretch (last since : Nat) (s : State) :
    (applyUpd (.stretch last since) s).cycle = s.cycle ∧
    (applyUpd (.stretch last since) s).issueOver = s.issueOver ∧
    (applyUpd (.stretch last since) s).tick = s.tick ∧
    (applyUpd (.stretch last since) s).tickFrac = s.tickFrac ∧
    (applyUpd (.stretch last since) s).slew = s.slew ∧
    (applyUpd (.stretch last since) s).slewLast = s.slewLast ∧
    (applyUpd (.stretch last since) s).everLocked = s.everLocked ∧
    (applyUpd (.stretch last since) s).locked = s.locked ∧
    (applyUpd (.stretch last since) s).lastSync = s.lastSync ∧
    (applyUpd (.stretch last since) s).agenda = s.agenda ∧
    (applyUpd (.stretch last since) s).timers = s.timers ∧
    (applyUpd (.stretch last since) s).delays = s.delays ∧
    (applyUpd (.stretch last since) s).ctx = s.ctx ∧
    (applyUpd (.stretch last since) s).nextId = s.nextId ∧
    (applyUpd (.stretch last since) s).freeCount = s.freeCount ∧
    (applyUpd (.stretch last since) s).startup = s.startup ∧
    (applyUpd (.stretch last since) s).mem = s.mem ∧
    (applyUpd (.stretch last since) s).empty = s.empty ∧
    (applyUpd (.stretch last since) s).mregs = s.mregs ∧
    (applyUpd (.stretch last since) s).qerr = s.qerr ∧
    (applyUpd (.stretch last since) s).slots = s.slots ∧
    (applyUpd (.stretch last since) s).cores = s.cores ∧
    (applyUpd (.stretch last since) s).tlb2 = s.tlb2 ∧
    (applyUpd (.stretch last since) s).dies = s.dies ∧
    (applyUpd (.stretch last since) s).siphons = s.siphons ∧
    (applyUpd (.stretch last since) s).wells = s.wells ∧
    (applyUpd (.stretch last since) s).routers = s.routers ∧
    (applyUpd (.stretch last since) s).ports = s.ports ∧
    (applyUpd (.stretch last since) s).mail = s.mail ∧
    (applyUpd (.stretch last since) s).sheaves = s.sheaves ∧
    (applyUpd (.stretch last since) s).regions = s.regions ∧
    (applyUpd (.stretch last since) s).root = s.root ∧
    (applyUpd (.stretch last since) s).gangs = s.gangs ∧
    (applyUpd (.stretch last since) s).images = s.images ∧
    (applyUpd (.stretch last since) s).reports = s.reports ∧
    (applyUpd (.stretch last since) s).stretchLast = last ∧
    (applyUpd (.stretch last since) s).stretchSince = since ∧
    (applyUpd (.stretch last since) s).cutReports = s.cutReports ∧
    (applyUpd (.stretch last since) s).badRows = s.badRows ∧
    (applyUpd (.stretch last since) s).flash = s.flash ∧
    (applyUpd (.stretch last since) s).side = s.side ∧
    (applyUpd (.stretch last since) s).out = s.out := by
  and_intros <;> rfl

@[simp] theorem applyUpd_out (o : Out) (s : State) :
    (applyUpd (.out o) s).cycle = s.cycle ∧
    (applyUpd (.out o) s).issueOver = s.issueOver ∧
    (applyUpd (.out o) s).tick = s.tick ∧
    (applyUpd (.out o) s).tickFrac = s.tickFrac ∧
    (applyUpd (.out o) s).slew = s.slew ∧
    (applyUpd (.out o) s).slewLast = s.slewLast ∧
    (applyUpd (.out o) s).everLocked = s.everLocked ∧
    (applyUpd (.out o) s).locked = s.locked ∧
    (applyUpd (.out o) s).lastSync = s.lastSync ∧
    (applyUpd (.out o) s).agenda = s.agenda ∧
    (applyUpd (.out o) s).timers = s.timers ∧
    (applyUpd (.out o) s).delays = s.delays ∧
    (applyUpd (.out o) s).ctx = s.ctx ∧
    (applyUpd (.out o) s).nextId = s.nextId ∧
    (applyUpd (.out o) s).freeCount = s.freeCount ∧
    (applyUpd (.out o) s).startup = s.startup ∧
    (applyUpd (.out o) s).mem = s.mem ∧
    (applyUpd (.out o) s).empty = s.empty ∧
    (applyUpd (.out o) s).mregs = s.mregs ∧
    (applyUpd (.out o) s).qerr = s.qerr ∧
    (applyUpd (.out o) s).slots = s.slots ∧
    (applyUpd (.out o) s).cores = s.cores ∧
    (applyUpd (.out o) s).tlb2 = s.tlb2 ∧
    (applyUpd (.out o) s).dies = s.dies ∧
    (applyUpd (.out o) s).siphons = s.siphons ∧
    (applyUpd (.out o) s).wells = s.wells ∧
    (applyUpd (.out o) s).routers = s.routers ∧
    (applyUpd (.out o) s).ports = s.ports ∧
    (applyUpd (.out o) s).mail = s.mail ∧
    (applyUpd (.out o) s).sheaves = s.sheaves ∧
    (applyUpd (.out o) s).regions = s.regions ∧
    (applyUpd (.out o) s).root = s.root ∧
    (applyUpd (.out o) s).gangs = s.gangs ∧
    (applyUpd (.out o) s).images = s.images ∧
    (applyUpd (.out o) s).reports = s.reports ∧
    (applyUpd (.out o) s).stretchLast = s.stretchLast ∧
    (applyUpd (.out o) s).stretchSince = s.stretchSince ∧
    (applyUpd (.out o) s).cutReports = s.cutReports ∧
    (applyUpd (.out o) s).badRows = s.badRows ∧
    (applyUpd (.out o) s).flash = s.flash ∧
    (applyUpd (.out o) s).side = s.side ∧
    (applyUpd (.out o) s).out = s.out ++ [o] := by
  and_intros <;> rfl

/-! ### Components after a change -/

theorem slotAt_changed (c k d j : Nat) (x : Slot) (s : State) : slotAt (applyUpd (.slot c k x) s) d j = if d * 16 + j = c * 16 + k then x else slotAt s d j := by
  simp [slotAt, mget_mset]

theorem coreAt_changed (c d : Nat) (x : Core) (s : State) : coreAt (applyUpd (.core c x) s) d = if d = c then x else coreAt s d := by
  simp [coreAt, mget_mset]

theorem dieAt_changed (c d : Nat) (x : Die) (s : State) : dieAt (applyUpd (.die c x) s) d = if d = c then x else dieAt s d := by
  simp [dieAt, mget_mset]

theorem siphonAt_changed (c d : Nat) (x : Siphon) (s : State) : siphonAt (applyUpd (.siphon c x) s) d = if d = c then x else siphonAt s d := by
  simp [siphonAt, mget_mset]

theorem wellAt_changed (c d : Nat) (x : Wellhead) (s : State) : wellAt (applyUpd (.well c x) s) d = if d = c then x else wellAt s d := by
  simp [wellAt, mget_mset]

theorem routerAt_changed (c d : Nat) (x : Router) (s : State) : routerAt (applyUpd (.router c x) s) d = if d = c then x else routerAt s d := by
  simp [routerAt, mget_mset]

theorem portAt_changed (c d : Nat) (x : Port) (s : State) : portAt (applyUpd (.port c x) s) d = if d = c then x else portAt s d := by
  simp [portAt, mget_mset]

theorem sheafAt_changed (c d : Nat) (x : Sheaf) (s : State) : sheafAt (applyUpd (.sheaf c x) s) d = if d = c then x else sheafAt s d := by
  simp [sheafAt, mget_mset]

theorem byteAt_changed (c d : Nat) (x : Byte) (s : State) : byteAt (applyUpd (.mem c x) s) d = if d = c then x else byteAt s d := by
  simp [byteAt, mget_mset]

theorem mreg_changed (o p : Nat) (v : Word) (s : State) :
    mreg (applyUpd (.mreg o v) s) p = if p = o then v else mreg s p := by
  by_cases h : p = o
  · subst h
    simp [mreg]
  · simp [mreg, h, mget_mset_ne _ _ s.mregs v h]

/-- The slots 0 to 15 of all cores are keyed apart. -/
theorem slotAt_other (c k d j : Nat) (x : Slot) (s : State) (hk : k < 16) (hj : j < 16) (h : ¬(d = c ∧ j = k)) :
    slotAt (applyUpd (.slot c k x) s) d j = slotAt s d j := by
  rw [slotAt_changed, if_neg (by omega)]

/-- The slots that a change of another component leaves alone, and so on for each component: a component is a reading of
one field. -/
theorem components_congr {s t : State} :
    (t.slots = s.slots → ∀ c k, slotAt t c k = slotAt s c k ∧ threadAt t c k = threadAt s c k ∧ blockAt t c k = blockAt s c k) ∧
    (t.cores = s.cores → ∀ c o, coreAt t c = coreAt s c ∧ creg t c o = creg s c o) ∧
    (t.mregs = s.mregs → ∀ o, mreg t o = mreg s o) ∧
    (t.mem = s.mem → ∀ a n, byteAt t a = byteAt s a ∧ natAt t a n = natAt s a n) := by
  refine ⟨fun h c k => ?_, fun h c o => ?_, fun h o => ?_, fun h a n => ?_⟩ <;>
    simp [slotAt, threadAt, blockAt, coreAt, creg, mreg, byteAt, natAt, bytesAt, h]

end Sys2Proof.Machine
end

