-- ==== Sys2Proof/Laws/Ops.lean ====
section
/-! SUPPORT. What the shared operations can do, said once: actions and the changes they log, the canonical form under every
change, and the outcome of an instruction that fires. -/

namespace Sys2Proof.Machine

open Sys2Proof

/-! ### Actions -/

theorem applyAll_append (us vs : List Upd) (s : State) : applyAll (us ++ vs) s = applyAll us (applyAll vs s) := by
  induction us with
  | nil => rfl
  | cons u us ih => simp [applyAll, ih]

@[simp] theorem applyAll_nil (s : State) : applyAll [] s = s := rfl
@[simp] theorem applyAll_cons (u : Upd) (us : List Upd) (s : State) : applyAll (u :: us) s = applyUpd u (applyAll us s) := rfl

/-- An action whose changes depend on the state only and are logged: started with changes already made, it makes the same
ones after them. Every action of the model is one. -/
def Logged {α : Type} (a : Act α) : Prop :=
  ∀ r : Run, a r = ((a ⟨r.st, []⟩).1, ⟨applyAll (a ⟨r.st, []⟩).2.ups r.st, (a ⟨r.st, []⟩).2.ups ++ r.ups⟩)

theorem logged_pure {α : Type} (x : α) : Logged (pure x : Act α) := fun _ => rfl
theorem logged_emit (u : Upd) : Logged (emit u) := fun _ => rfl
theorem logged_look {α : Type} (f : State → α) : Logged (look f) := fun _ => rfl

theorem logged_bind {α β : Type} {a : Act α} {f : α → Act β} (ha : Logged a) (hf : ∀ x, Logged (f x)) : Logged (a >>= f) := by
  intro r
  have step : ∀ q : Run, (a >>= f) q = f (a q).1 (a q).2 := fun _ => rfl
  rw [step r, step ⟨r.st, []⟩, ha r, ha ⟨r.st, []⟩]
  simp only [List.append_nil]
  rw [hf _ ⟨applyAll (a ⟨r.st, []⟩).2.ups r.st, (a ⟨r.st, []⟩).2.ups ++ r.ups⟩,
    hf _ ⟨applyAll (a ⟨r.st, []⟩).2.ups r.st, (a ⟨r.st, []⟩).2.ups⟩]
  simp [applyAll_append]

theorem logged_each {α : Type} (l : List α) {f : α → Act Unit} (hf : ∀ x, Logged (f x)) : Logged (each l f) := by
  induction l with
  | nil => exact logged_pure _
  | cons x l ih => exact logged_bind (hf x) fun _ => ih

theorem logged_onlyIf (c : Bool) {a : Act Unit} (ha : Logged a) : Logged (onlyIf c a) := by
  cases c
  · exact logged_pure _
  · exact ha

/-- The state that an action leaves in its run is the state that its changes make. -/
theorem run_eq_st {a : Act Unit} (h : Logged a) (s : State) : run a s = (a ⟨s, []⟩).2.st := by
  rw [h ⟨s, []⟩]
  rfl

/-! ### The state after an action -/

@[simp] theorem run_pure (s : State) : run (pure ()) s = s := rfl
@[simp] theorem run_emit (u : Upd) (s : State) : run (emit u) s = applyUpd u s := rfl
@[simp] theorem run_look_bind {α : Type} (f : State → α) (g : α → Act Unit) (s : State) :
    run (look f >>= g) s = run (g (f s)) s := rfl

/-- What comes after an action is run on the state that the action leaves. -/
theorem run_bind {α : Type} {a : Act α} {f : α → Act Unit} (ha : Logged a) (hf : ∀ x, Logged (f x)) (s : State) :
    run (a >>= f) s = run (f (a ⟨s, []⟩).1) (a ⟨s, []⟩).2.st := by
  have step : (a >>= f) ⟨s, []⟩ = f (a ⟨s, []⟩).1 (a ⟨s, []⟩).2 := rfl
  have st : (a ⟨s, []⟩).2 = ⟨applyAll (a ⟨s, []⟩).2.ups s, (a ⟨s, []⟩).2.ups⟩ := by
    conv_lhs => rw [ha ⟨s, []⟩]
    simp
  unfold run
  rw [step, hf _ (a ⟨s, []⟩).2]
  simp only [applyAll_append]
  rw [st]

theorem run_seq {a b : Act Unit} (ha : Logged a) (hb : Logged b) (s : State) : run (a >>= fun _ => b) s = run b (run a s) := by
  rw [run_bind ha (fun _ => hb), run_eq_st ha]

theorem run_each_cons {α : Type} (x : α) (l : List α) {f : α → Act Unit} (hf : ∀ x, Logged (f x)) (s : State) :
    run (each (x :: l) f) s = run (each l f) (run (f x) s) :=
  run_seq (hf x) (logged_each l hf) s

@[simp] theorem run_each_nil {α : Type} (f : α → Act Unit) (s : State) : run (each [] f) s = s := rfl

@[simp] theorem run_onlyIf (c : Bool) (a : Act Unit) (s : State) : run (onlyIf c a) s = if c then run a s else s := by
  cases c <;> rfl

/-- An emission for each change of a list. -/
theorem run_each_emit (us : List Upd) (s : State) : run (each us emit) s = applyAll us.reverse s := by
  induction us generalizing s with
  | nil => rfl
  | cons u us ih => rw [run_each_cons u us logged_emit, ih, List.reverse_cons, applyAll_append]; rfl

/-! ### The shared changes of one component -/

@[simp] theorem run_modSlot (c k : Nat) (f : Slot → Slot) (s : State) :
    run (modSlot c k f) s = applyUpd (.slot c k (f (slotAt s c k))) s := rfl
@[simp] theorem mapThread_thread (f : Thread → Thread) (x : Slot) : (mapThread f x).thread = x.thread.map f := rfl
@[simp] theorem mapThread_keeps (f : Thread → Thread) (x : Slot) :
    (mapThread f x).state = x.state ∧ (mapThread f x).incarn = x.incarn ∧ (mapThread f x).starts = x.starts ∧
      (mapThread f x).lastIssue = x.lastIssue ∧ (mapThread f x).gens = x.gens ∧ (mapThread f x).freedAt = x.freedAt :=
  ⟨rfl, rfl, rfl, rfl, rfl, rfl⟩
@[simp] theorem run_modThread (c k : Nat) (f : Thread → Thread) (s : State) :
    run (modThread c k f) s = applyUpd (.slot c k (mapThread f (slotAt s c k))) s := rfl
@[simp] theorem run_modBlock (c k : Nat) (f : Block → Block) (s : State) :
    run (modBlock c k f) s =
      applyUpd (.slot c k (mapThread (fun t => { t with block := t.block.map f }) (slotAt s c k))) s := rfl
@[simp] theorem run_modCore (c : Nat) (f : Core → Core) (s : State) :
    run (modCore c f) s = applyUpd (.core c (f (coreAt s c))) s := rfl
@[simp] theorem run_modDie (d : Nat) (f : Die → Die) (s : State) :
    run (modDie d f) s = applyUpd (.die d (f (dieAt s d))) s := rfl
@[simp] theorem run_modSheaf (n : Nat) (f : Sheaf → Sheaf) (s : State) :
    run (modSheaf n f) s = applyUpd (.sheaf n (f (sheafAt s n))) s := rfl
@[simp] theorem run_modRouter (r : Nat) (f : Router → Router) (s : State) :
    run (modRouter r f) s = applyUpd (.router r (f (routerAt s r))) s := rfl
@[simp] theorem run_modWell (w : Nat) (f : Wellhead → Wellhead) (s : State) :
    run (modWell w f) s = applyUpd (.well w (f (wellAt s w))) s := rfl
@[simp] theorem run_modPort (p : Nat) (f : Port → Port) (s : State) :
    run (modPort p f) s = applyUpd (.port p (f (portAt s p))) s := rfl
@[simp] theorem run_modSiphon (i : Nat) (f : Siphon → Siphon) (s : State) :
    run (modSiphon i f) s = applyUpd (.siphon i (f (siphonAt s i))) s := rfl
@[simp] theorem run_modRoot (f : Root → Root) (s : State) : run (modRoot f) s = applyUpd (.root (f s.root)) s := rfl
@[simp] theorem run_setCreg (c off : Nat) (v : Word) (s : State) :
    run (setCreg c off v) s =
      applyUpd (.core c { coreAt s c with regs := mset (coreRegReset off) (coreAt s c).regs off v }) s := rfl
@[simp] theorem run_later (n phase place : Nat) (e : Instr) (s : State) :
    run (later n phase place e) s = applyUpd (.sched (agendaKey (dueCycle s n e) phase place) e) s := rfl
/-- An event that is to come in a later cycle comes in that cycle, skipped or not; so does one of this cycle that no die holds up. -/
theorem dueCycle_later {n : Nat} (s : State) (e : Instr) (h : 1 ≤ n) : dueCycle s n e = s.cycle + n := by
  unfold dueCycle
  split <;> omega
theorem dueCycle_now {n : Nat} {s : State} {e : Instr} (h : eventSkips s e = false) : dueCycle s n e = s.cycle + n := by
  simp [dueCycle, h]

theorem logged_later (n phase place : Nat) (e : Instr) : Logged (later n phase place e) := fun _ => rfl
theorem logged_modSlot (c k : Nat) (f : Slot → Slot) : Logged (modSlot c k f) := fun _ => rfl
theorem logged_modThread (c k : Nat) (f : Thread → Thread) : Logged (modThread c k f) := fun _ => rfl
theorem logged_modBlock (c k : Nat) (f : Block → Block) : Logged (modBlock c k f) := fun _ => rfl
theorem logged_modCore (c : Nat) (f : Core → Core) : Logged (modCore c f) := fun _ => rfl
theorem logged_modDie (d : Nat) (f : Die → Die) : Logged (modDie d f) := fun _ => rfl
theorem logged_modSheaf (n : Nat) (f : Sheaf → Sheaf) : Logged (modSheaf n f) := fun _ => rfl
theorem logged_modRouter (r : Nat) (f : Router → Router) : Logged (modRouter r f) := fun _ => rfl
theorem logged_modWell (w : Nat) (f : Wellhead → Wellhead) : Logged (modWell w f) := fun _ => rfl
theorem logged_modPort (p : Nat) (f : Port → Port) : Logged (modPort p f) := fun _ => rfl
theorem logged_modSiphon (i : Nat) (f : Siphon → Siphon) : Logged (modSiphon i f) := fun _ => rfl
theorem logged_modRoot (f : Root → Root) : Logged (modRoot f) := fun _ => rfl
theorem logged_setCreg (c off : Nat) (v : Word) : Logged (setCreg c off v) := fun _ => rfl

theorem logged_countReg (c off n : Nat) : Logged (countReg c off n) :=
  logged_bind (logged_look _) fun _ => logged_onlyIf _ (logged_setCreg _ _ _)

theorem logged_countMreg (off n : Nat) : Logged (countMreg off n) :=
  logged_bind (logged_look _) fun _ => logged_onlyIf _ (logged_emit _)

/-! ### Memory -/

theorem logged_putBytes (pa : Nat) (bs : List Byte) : Logged (putBytes pa bs) := by
  induction bs generalizing pa with
  | nil => exact logged_pure _
  | cons b bs ih => exact logged_bind (logged_emit _) fun _ => ih (pa + 1)

/-- A store of bytes changes memory and nothing else. -/
theorem run_putBytes (pa : Nat) (bs : List Byte) (s : State) :
    ∃ m, run (putBytes pa bs) s = { s with mem := m } := by
  induction bs generalizing pa s with
  | nil => exact ⟨s.mem, rfl⟩
  | cons b bs ih =>
    have h : run (putBytes pa (b :: bs)) s = run (putBytes (pa + 1) bs) (applyUpd (.mem pa b) s) :=
      run_seq (logged_emit _) (logged_putBytes _ _) s
    obtain ⟨m, hm⟩ := ih (pa + 1) (applyUpd (.mem pa b) s)
    exact ⟨m, by rw [h, hm]; rfl⟩

/-- A read after a store of bytes: the bytes stored, and every other byte as before. -/
theorem byteAt_putBytes (pa a : Nat) (bs : List Byte) (s : State) :
    byteAt (run (putBytes pa bs) s) a =
      if pa ≤ a ∧ a < pa + bs.length then bs.getD (a - pa) 0 else byteAt s a := by
  induction bs generalizing pa s with
  | nil => simp [putBytes]
  | cons b bs ih =>
    have h : run (putBytes pa (b :: bs)) s = run (putBytes (pa + 1) bs) (applyUpd (.mem pa b) s) :=
      run_seq (logged_emit _) (logged_putBytes _ _) s
    rw [h, ih, byteAt_changed]
    by_cases e : a = pa
    · subst e
      simp
    · by_cases i : pa + 1 ≤ a ∧ a < pa + 1 + bs.length
      · have j : pa ≤ a ∧ a < pa + (b :: bs).length := by simp only [List.length_cons]; omega
        have k : a - pa = a - (pa + 1) + 1 := by omega
        simp only [if_pos i, if_pos j, k, List.getD_cons_succ]
      · have j : ¬(pa ≤ a ∧ a < pa + (b :: bs).length) := by simp only [List.length_cons]; omega
        rw [if_neg i, if_neg j, if_neg e]

/-! ### The canonical form under every change -/

theorem putNat_rising (lo n : Nat) (l : List Nat) (h : lo ≤ n) (w : risingNats lo l = true) :
    risingNats lo (putNat n l) = true := by
  induction l generalizing lo with
  | nil => simp [putNat, risingNats, h]
  | cons m l ih =>
    simp only [risingNats, Bool.and_eq_true, decide_eq_true_eq] at w
    unfold putNat
    split
    · simp only [risingNats, Bool.and_eq_true, decide_eq_true_eq]
      exact ⟨h, by omega, w.2⟩
    · split
      · simp only [risingNats, Bool.and_eq_true, decide_eq_true_eq]
        exact w
      · simp only [risingNats, Bool.and_eq_true, decide_eq_true_eq]
        exact ⟨w.1, ih (m + 1) (by omega) w.2⟩

theorem risingNats_mono {lo lo' : Nat} {l : List Nat} (h : lo' ≤ lo) (w : risingNats lo l = true) : risingNats lo' l = true := by
  cases l with
  | nil => rfl
  | cons a l =>
    simp only [risingNats, Bool.and_eq_true, decide_eq_true_eq] at w ⊢
    exact ⟨by omega, w.2⟩

theorem filter_rising (lo : Nat) (p : Nat → Bool) (l : List Nat) (w : risingNats lo l = true) :
    risingNats lo (l.filter p) = true := by
  induction l generalizing lo with
  | nil => rfl
  | cons a l ih =>
    simp only [risingNats, Bool.and_eq_true, decide_eq_true_eq] at w
    by_cases h : p a = true
    · simp only [List.filter_cons_of_pos h, risingNats, Bool.and_eq_true, decide_eq_true_eq]
      exact ⟨w.1, ih _ w.2⟩
    · rw [List.filter_cons_of_neg h]
      exact risingNats_mono (by omega) (ih _ w.2)

theorem putEvent_inKeyOrder (lo key : Nat) (e : Instr) (l : List (Nat × Instr)) (h : lo ≤ key) (w : inKeyOrder lo l = true) :
    inKeyOrder lo (putEvent key e l) = true := by
  induction l generalizing lo with
  | nil => simp [putEvent, inKeyOrder, h]
  | cons x l ih =>
    obtain ⟨k, y⟩ := x
    simp only [inKeyOrder, Bool.and_eq_true, decide_eq_true_eq] at w
    unfold putEvent
    split
    · simp only [inKeyOrder, Bool.and_eq_true, decide_eq_true_eq]
      exact ⟨h, by omega, w.2⟩
    · simp only [inKeyOrder, Bool.and_eq_true, decide_eq_true_eq]
      exact ⟨w.1, ih k (by omega) w.2⟩

theorem mregs_mset_wf (m : Map Word) (off : Nat) (v : Word) (w : mregsWf m = true) :
    mregsWf (mset (modRegReset off) m off v) = true := by
  simp only [mregsWf, Bool.and_eq_true, List.all_eq_true, decide_eq_true_eq] at w ⊢
  refine ⟨mset_rising _ m off v w.1, fun e he => ?_⟩
  rcases mem_mset he with ⟨rfl, hx⟩ | he
  · exact hx
  · exact w.2 e he

/-- Power-on reset leaves canonical data. -/
theorem afterPowerOn_canonical (s : State) : Canonical (afterPowerOn s) := by
  constructor <;> rfl

/-- Every change keeps the canonical form. -/
theorem applyUpd_canonical (u : Upd) (s : State) (h : Canonical s) : Canonical (applyUpd u s) := by
  obtain ⟨h1, h2, h3, h4, h5, h6, h7, h8, h9, h10, h11, h12, h13, h14, h15, h16, h17, h18⟩ := h
  cases u with
  | mem => exact ⟨mset_wf _ _ _ _ h1, h2, h3, h4, h5, h6, h7, h8, h9, h10, h11, h12, h13, h14, h15, h16, h17, h18⟩
  | wordEmpty => exact ⟨h1, putNat_rising 0 _ _ (Nat.zero_le _) h2, h3, h4, h5, h6, h7, h8, h9, h10, h11, h12, h13, h14, h15, h16, h17, h18⟩
  | wordFull => exact ⟨h1, filter_rising 0 _ _ h2, h3, h4, h5, h6, h7, h8, h9, h10, h11, h12, h13, h14, h15, h16, h17, h18⟩
  | mreg => exact ⟨h1, h2, mregs_mset_wf _ _ _ h3, h4, h5, h6, h7, h8, h9, h10, h11, h12, h13, h14, h15, h16, h17, h18⟩
  | qerr => exact ⟨h1, h2, h3, mset_wf _ _ _ _ h4, h5, h6, h7, h8, h9, h10, h11, h12, h13, h14, h15, h16, h17, h18⟩
  | slot => exact ⟨h1, h2, h3, h4, mset_wf _ _ _ _ h5, h6, h7, h8, h9, h10, h11, h12, h13, h14, h15, h16, h17, h18⟩
  | core => exact ⟨h1, h2, h3, h4, h5, mset_wf _ _ _ _ h6, h7, h8, h9, h10, h11, h12, h13, h14, h15, h16, h17, h18⟩
  | tlb2 => exact ⟨h1, h2, h3, h4, h5, h6, mset_wf _ _ _ _ h7, h8, h9, h10, h11, h12, h13, h14, h15, h16, h17, h18⟩
  | die => exact ⟨h1, h2, h3, h4, h5, h6, h7, mset_wf _ _ _ _ h8, h9, h10, h11, h12, h13, h14, h15, h16, h17, h18⟩
  | siphon => exact ⟨h1, h2, h3, h4, h5, h6, h7, h8, mset_wf _ _ _ _ h9, h10, h11, h12, h13, h14, h15, h16, h17, h18⟩
  | well => exact ⟨h1, h2, h3, h4, h5, h6, h7, h8, h9, mset_wf _ _ _ _ h10, h11, h12, h13, h14, h15, h16, h17, h18⟩
  | router => exact ⟨h1, h2, h3, h4, h5, h6, h7, h8, h9, h10, mset_wf _ _ _ _ h11, h12, h13, h14, h15, h16, h17, h18⟩
  | port => exact ⟨h1, h2, h3, h4, h5, h6, h7, h8, h9, h10, h11, mset_wf _ _ _ _ h12, h13, h14, h15, h16, h17, h18⟩
  | sheaf => exact ⟨h1, h2, h3, h4, h5, h6, h7, h8, h9, h10, h11, h12, mset_wf _ _ _ _ h13, h14, h15, h16, h17, h18⟩
  | region => exact ⟨h1, h2, h3, h4, h5, h6, h7, h8, h9, h10, h11, h12, h13, mset_wf _ _ _ _ h14, h15, h16, h17, h18⟩
  | gang => exact ⟨h1, h2, h3, h4, h5, h6, h7, h8, h9, h10, h11, h12, h13, h14, mset_wf _ _ _ _ h15, h16, h17, h18⟩
  | image => exact ⟨h1, h2, h3, h4, h5, h6, h7, h8, h9, h10, h11, h12, h13, h14, h15, mset_wf _ _ _ _ h16, h17, h18⟩
  | sched => exact ⟨h1, h2, h3, h4, h5, h6, h7, h8, h9, h10, h11, h12, h13, h14, h15, h16, putEvent_inKeyOrder 0 _ _ _ (Nat.zero_le _) h17, h18⟩
  | timer => exact ⟨h1, h2, h3, h4, h5, h6, h7, h8, h9, h10, h11, h12, h13, h14, h15, h16, h17, putEvent_inKeyOrder 0 _ _ _ (Nat.zero_le _) h18⟩
  | powerOn => exact afterPowerOn_canonical s
  | _ => exact ⟨h1, h2, h3, h4, h5, h6, h7, h8, h9, h10, h11, h12, h13, h14, h15, h16, h17, h18⟩

theorem applyAll_canonical (us : List Upd) (s : State) (h : Canonical s) : Canonical (applyAll us s) := by
  induction us with
  | nil => exact h
  | cons u us ih => exact applyUpd_canonical u _ ih

/-- Whatever an action does, it keeps the canonical form. -/
theorem run_canonical (a : Act Unit) (s : State) (h : Canonical s) : Canonical (run a s) := applyAll_canonical _ s h

/-- Memory keeps its canonical form under every change. -/
theorem applyUpd_mem_wf (u : Upd) (s : State) (h : Memory.wf s.mem = true) : Memory.wf (applyUpd u s).mem = true := by
  cases u with
  | mem => exact mset_wf _ _ _ _ h
  | powerOn => rfl
  | _ => exact h

theorem applyAll_mem_wf (us : List Upd) (s : State) (h : Memory.wf s.mem = true) : Memory.wf (applyAll us s).mem = true := by
  induction us with
  | nil => exact h
  | cons u us ih => exact applyUpd_mem_wf u _ ih

/-- Memory keeps its canonical form under every action, the stores of bytes among them. -/
theorem run_mem_wf (a : Act Unit) (s : State) (h : Memory.wf s.mem = true) : Memory.wf (run a s).mem = true :=
  applyAll_mem_wf _ s h

theorem reset_mem_wf : Memory.wf State.reset.mem = true := rfl

/-! ### An instruction that fires -/

/-- An encoded instruction answers a next state exactly when its slot holds it. -/
theorem fire_next {s t : State} {k : Fire → State} : fire s k = .next t ↔ ∃ f, fireAt s = some f ∧ t = k f := by
  unfold fire
  cases h : fireAt s <;> simp [eq_comm]

theorem fire_some {s : State} {f : Fire} (k : Fire → State) (h : fireAt s = some f) : fire s k = .next (k f) := by
  simp [fire, h]

theorem fireAct_some {s : State} {f : Fire} (k : Fire → Act Unit) (h : fireAt s = some f) :
    fireAct s k = .next (run (k f) s) := fire_some _ h

/-- Where the instruction that fires stands, and its thread and block. -/
theorem fireAt_some {s : State} {f : Fire} (h : fireAt s = some f) :
    f.c = s.ctx.core ∧ f.k = s.ctx.slot ∧ f.i = s.ctx.idx ∧ threadAt s f.c f.k = some f.th ∧
      f.th.block = some f.b ∧ f.i < f.b.words.length ∧
      f.l = operand f.b f.i 0 ∧ f.r = operand f.b f.i 1 ∧ f.p = operand f.b f.i 2 := by
  unfold fireAt at h
  split at h
  · cases h
  · next t ht =>
    split at h
    · cases h
    · next b hb =>
      split at h
      · next hi =>
        cases h
        exact ⟨rfl, rfl, rfl, ht, hb, hi, rfl, rfl, rfl⟩
      · cases h

/-- The turn of an instruction changes its slot and its core. -/
theorem takeTurn_run (s : State) (f : Fire) (ta tb : Nat) (fl : NumFlags) (effs : List Eff) :
    run (takeTurn f ta tb fl effs) s = applyAll (turnUpds s f ta tb fl effs).reverse s :=
  run_each_emit _ s

theorem logged_takeTurn (f : Fire) (ta tb : Nat) (fl : NumFlags) (effs : List Eff) : Logged (takeTurn f ta tb fl effs) :=
  logged_bind (logged_look _) fun _ => logged_each _ logged_emit

/-- An instruction that completes leaves everything as it is but its slot, its core and the pending events. -/
theorem complete_keeps (s : State) (f : Fire) (ta tb : Nat) (a b : Token) (fl : NumFlags) (effs : List Eff) :
    ∃ sl co, complete s f ta tb a b fl effs =
      { s with
        slots := sl, cores := co,
        agenda := putEvent (agendaKey (s.cycle + 7) 2 (f.c * 16 + f.k)) (.tokenDelivery (.tokens f.id a b)) s.agenda } :=
  ⟨_, _, rfl⟩

/-- The slot of an instruction that completes. -/
theorem complete_slot (s : State) (f : Fire) (ta tb : Nat) (a b : Token) (fl : NumFlags) (effs : List Eff) :
    slotAt (complete s f ta tb a b fl effs) f.c f.k =
      { slotAt s f.c f.k with
        lastIssue := some s.cycle, thread := some (turnThread s.cycle f ta tb fl effs) } := by
  simp [complete, completeUpds, turnUpds, deliverUpd, slotAt]

/-- Every slot but that of the instruction is as before. -/
theorem complete_other_slot (s : State) (f : Fire) (ta tb : Nat) (a b : Token) (fl : NumFlags) (effs : List Eff) {d j : Nat}
    (h : d * 16 + j ≠ f.c * 16 + f.k) : slotAt (complete s f ta tb a b fl effs) d j = slotAt s d j := by
  simp [complete, completeUpds, turnUpds, deliverUpd, slotAt, mget_mset_ne _ _ _ _ h]

/-- Every core but that of the instruction is as before. -/
theorem complete_other_core (s : State) (f : Fire) (ta tb : Nat) (a b : Token) (fl : NumFlags) (effs : List Eff) {d : Nat}
    (h : d ≠ f.c) : coreAt (complete s f ta tb a b fl effs) d = coreAt s d := by
  simp [complete, completeUpds, turnUpds, deliverUpd, coreAt, mget_mset_ne _ _ _ _ h]

/-- The pending events are those before and those put in. -/
theorem mem_putEvent {key : Nat} {e : Instr} {l : List (Nat × Instr)} {x : Nat × Instr} :
    x ∈ putEvent key e l ↔ x = (key, e) ∨ x ∈ l := by
  induction l with
  | nil => simp [putEvent]
  | cons y l ih =>
    obtain ⟨k, z⟩ := y
    unfold putEvent
    split
    · simp
    · simp [ih]
      tauto

/-! ### The end of a cycle, and the permits of a wellhead -/

/-- At the end of its cycle an event takes effect. -/
theorem run_atCycleEnd_now {place : Nat} {e : Instr} {a : Act Unit} {s : State} (h : isCycleEnd s place = true) :
    run (atCycleEnd place e a) s = run a s := by
  change applyAll ((if isCycleEnd s place = true then a else later 0 7 place e) ⟨s, []⟩).2.ups s = _
  rw [if_pos h]
  rfl

/-- Before that it is put there. -/
theorem run_atCycleEnd_later {place : Nat} {e : Instr} {a : Act Unit} {s : State} (h : isCycleEnd s place = false) :
    run (atCycleEnd place e a) s = applyUpd (.sched (agendaKey (dueCycle s 0 e) 7 place) e) s := by
  change applyAll ((if isCycleEnd s place = true then a else later 0 7 place e) ⟨s, []⟩).2.ups s = _
  rw [if_neg (by simp [h])]
  rfl

/-- A request whose pool has no permit left waits at the wellhead, and enters no router (R228). -/
theorem askWell_waits {w r q : Nat} {p : Packet} {s : State} (hp : poolOf p.msg = some q)
    (hf : poolSize q ≤ ((wellAt s w).held.filter fun h => decide (h = q)).length) :
    run (askWell w r p) s =
      applyUpd (.sched (agendaKey (dueCycle s 7 (.slackDecrement (permitBuffer w) p.id)) 6 (27000 + w)) (.slackDecrement (permitBuffer w) p.id))
        (applyUpd (.well w { wellAt s w with waiting := (wellAt s w).waiting ++ [⟨q, r, p, s.cycle⟩] }) s) := by
  unfold askWell
  rw [hp]
  change applyAll ((if ((wellAt s w).held.filter fun h => decide (h = q)).length < poolSize q then _ else _ : Act Unit) ⟨s, []⟩).2.ups s = _
  rw [if_neg (Nat.not_lt.mpr hf)]
  rfl

/-- A packet enters an input of a router that is up, behind those that are there (R310). -/
theorem enterRouter_up {r i : Nat} {p : Packet} {s : State} (h : (routerAt s r).down = false) :
    (run (enterRouter r i p) s).routers =
      mset Router.reset s.routers r { routerAt s r with packets := (routerAt s r).packets ++
        [(i, { p with out := chooseOut s r p.dst, entered := s.cycle + 1, overdue := none })] } := by
  unfold enterRouter
  change (applyAll ((later 8 6 (r * 8 + i) (.slackDecrement r p.id) >>= fun _ =>
    (if (routerAt s r).down = true then _ else _ : Act Unit)) ⟨s, []⟩).2.ups s).routers = _
  rw [if_neg (by simp [h])]
  rfl

end Sys2Proof.Machine
end

