-- ==== Sys2Proof/Tests/Slice0.lean ====
section
/-! SUPPORT. Tests: decoding, well-formedness, single steps with results from the manual or by hand, and a witness for the
hypotheses of every statement. -/

namespace Sys2Proof.Tests

open Sys2Proof Sys2Proof.Machine

set_option Elab.async false

/-! ### Decoding: words written out from the formats of R129, one for every encoded instruction

The words in hexadecimal are worked encodings that the manual prints; those in binary are written out from the tables. -/

/-- Control (R174-R177, R170, R142). -/
theorem test_decode_control :
    decode 0x03900006#32 = .ok (.br .onTrue 1 6) ∧
    decode 0b0000010_10_11100_111111111_111111111#32 = .ok (.bri .onFalse 7) ∧
    decode 0x060FFFD8#32 = .ok (.call .always 0 0xFFFD8) ∧
    decode 0b0000100_11_01000_111111111_111111111#32 = .ok (.calli .onTrue 2) ∧
    decode 0x0A03FFFF#32 = .ok (.ret .always 0) ∧
    decode 0b0000110_00_10_111111111110_000000101#32 = .ok (.lpb 2 0xFFE 5) ∧
    decode 0x0E00000C#32 = .ok (.lpx .always 0 12) ∧
    decode 0b0001000_0001_000000000010_111111111#32 = .ok (.hnt (.round .rup)) ∧
    decode 0b0001000_0000_000010000000_111111111#32 = .ok (.hnt (.slack 128)) ∧
    decode 0b0001001_1011111011101111_000000101#32 = .ok (.genc 0xBEEF 5) ∧
    decode 0b0001010_1101111010101101_010000101#32 = .ok (.app 0xDEAD 133) ∧
    decode 0b0001011_10_00000_000000110_000000101#32 = .ok (.mov .onFalse 6 5) ∧
    decode 0x1803FE05#32 = .ok (.nul .always 511 5) := by decide

/-- Registers (R134, R164, R165). -/
theorem test_decode_registers :
    decode 0x1B060003#32 = .ok (.rd ⟨4, 6⟩ 0 3) ∧
    decode 0b0001110_000_111111_00000100_10000101#32 = .ok (.rdt ⟨0, 63⟩ 4 133) ∧
    decode 0x1E820000#32 = .ok (.wr ⟨2, 2⟩) := by decide

/-- Integer (R179, R180). -/
theorem test_decode_integer :
    decode 0x2013FE05#32 = .ok (.add .always .i32 .wrap 511 5) ∧
    decode 0x2037FE07#32 = .ok (.add .always .i8 .sat 511 7) ∧
    decode 0b0010001_00_100_01_000000110_000000101#32 = .ok (.sub .always .n64 .sat 6 5) ∧
    decode 0b0010010_11_101_00_000000110_000000101#32 = .ok (.mul .onTrue .n32 .wrap 6 5) ∧
    decode 0b0010011_00_010_00_000000110_000000101#32 = .ok (.mulh .always .i16 6 5) ∧
    decode 0b0010100_00_110_00_000000110_000000101#32 = .ok (.div .always .n16 6 5) ∧
    decode 0b0010101_00_111_00_000000110_000000101#32 = .ok (.rem .always .n8 6 5) ∧
    decode 0b0010110_00_000_00_000000110_000000101#32 = .ok (.andI .always .i64 6 5) ∧
    decode 0b0010111_00_001_00_000000110_000000101#32 = .ok (.orI .always .i32 6 5) ∧
    decode 0b0011000_00_011_00_000000110_000000101#32 = .ok (.xorI .always .i8 6 5) ∧
    decode 0b0011001_00_000_00_000000110_000000101#32 = .ok (.shl .always .i64 6 5) ∧
    decode 0b0011010_00_100_00_000000110_000000101#32 = .ok (.shr .always .n64 6 5) ∧
    decode 0b0011011_10_001_00_000000110_000000101#32 = .ok (.sar .onFalse .i32 6 5) ∧
    decode 0b0011100_00_101_00_000000110_000000101#32 = .ok (.minI .always .n32 6 5) ∧
    decode 0b0011101_00_010_00_000000110_000000101#32 = .ok (.maxI .always .i16 6 5) ∧
    decode 0x3C5BFF04#32 = .ok (.cmp .always .n32 .lt 511 260) ∧
    decode 0x3E03FE09#32 = .ok (.sel 511 9) := by decide

/-- Immediates (R182), LEA, SLICE and BITS (R183-R185). -/
theorem test_decode_immediate :
    decode 0b0100000_00_11111111111111_000000101#32 = .ok (.addi .always 0x3FFF 5) ∧
    decode 0x427FFA82#32 = .ok (.muli .always 0x3FFD 130) ∧
    decode 0b0100010_00_00000011111111_000000101#32 = .ok (.andi .always 255 5) ∧
    decode 0b0100011_00_00000000000001_000000101#32 = .ok (.ori .always 1 5) ∧
    decode 0b0100100_11_10000000000000_000000101#32 = .ok (.xori .onTrue 0x2000 5) ∧
    decode 0x4A000602#32 = .ok (.shli .always 3 2) ∧
    decode 0b0100110_00_00000000111111_000000101#32 = .ok (.shri .always 63 5) ∧
    decode 0b0100111_00_00000000000001_000000101#32 = .ok (.sari .always 1 5) ∧
    decode 0b0101000_00_00000000000010_100000101#32 = .ok (.ceqi .always 2 261) ∧
    decode 0b0101001_00_00000000000011_100000101#32 = .ok (.cnei .always 3 261) ∧
    decode 0b0101010_00_00000000000100_100000101#32 = .ok (.clti .always 4 261) ∧
    decode 0b0101011_00_00000000000101_100000101#32 = .ok (.cgei .always 5 261) ∧
    decode 0x5833FE06#32 = .ok (.lea .always .s3 511 6) ∧
    decode 0x5A13FE04#32 = .ok (.slice .always .ext 511 4) ∧
    decode 0x5C43FE03#32 = .ok (.bits .always .popc 511 3) := by decide

/-- Memory (R238-R246). -/
theorem test_decode_memory :
    decode 0x600BFE83#32 = .ok (.ldN8 .always 2 511 131) ∧
    decode 0b0110001_00_00001_000000010_000000101#32 = .ok (.ldI8 .always 1 2 5) ∧
    decode 0b0110010_00_00010_000000011_000000101#32 = .ok (.ldN16 .always 2 3 5) ∧
    decode 0b0110011_00_00011_000000100_000000101#32 = .ok (.ldI16 .always 3 4 5) ∧
    decode 0b0110100_10_00100_000000101_000000110#32 = .ok (.ldN32 .onFalse 4 5 6) ∧
    decode 0b0110101_00_00101_000000110_000000111#32 = .ok (.ldI32 .always 5 6 7) ∧
    decode 0b0110110_00_11111_100000000_000000101#32 = .ok (.ld64 .always 31 256 5) ∧
    decode 0b0110111_00_00001_000000000000000010#32 = .ok (.st8 .always 1 2) ∧
    decode 0b0111000_00_00010_000000000000000011#32 = .ok (.st16 .always 2 3) ∧
    decode 0b0111001_11_00011_111111111111111111#32 = .ok (.st32 .onTrue 3 0x3FFFF) ∧
    decode 0x74140002#32 = .ok (.st64 .always 5 2) ∧
    decode 0x76040004#32 = .ok (.lds .always 1 0 4) ∧
    decode 0x78080001#32 = .ok (.sts .always 2 1) ∧
    decode 0x7A03FE06#32 = .ok (.amo .always .add .i64 511 6) ∧
    decode 0x7A6FFE05#32 = .ok (.amo .always .cas .n32 511 5) ∧
    decode 0x7C03FE03#32 = .ok (.bump .always 511 3) ∧
    decode 0x7E0001FF#32 = .ok (.pref .always 0) ∧
    decode 0xB0000205#32 = .ok (.vld .always 0 1 5) ∧
    decode 0b1011001_00_00100_000000000000000001#32 = .ok (.vst .always 4 1) ∧
    decode 0xB403FE07#32 = .ok (.vldx .always false 511 7) ∧
    decode 0xB613FFFF#32 = .ok (.vstx 4) := by decide

/-- Vectors (R193-R213). -/
theorem test_decode_vector :
    decode 0x8013FE05#32 = .ok (.vadd .always .bf16 .wrap 511 5) ∧
    decode 0b1000001_00_101_01_111111111_000000101#32 = .ok (.vsub .always .i16 .sat 511 5) ∧
    decode 0b1000010_00_010_00_111111111_000000101#32 = .ok (.vmul .always .fp16 .wrap 511 5) ∧
    decode 0x8603FE07#32 = .ok (.vfma .fp32 .plain 511 7) ∧
    decode 0b1000100_00_011_00_111111111_000000101#32 = .ok (.vmin .always .i32 511 5) ∧
    decode 0b1000101_00_100_00_111111111_000000101#32 = .ok (.vmax .always .n32 511 5) ∧
    decode 0x8C0BFF04#32 = .ok (.vcmp .always .fp32 .lt 511 260) ∧
    decode 0b1000111_00_001_00_111111111_000000101#32 = .ok (.vsel true 511 5) ∧
    decode 0b1001000_00_000_00_111111111_000000101#32 = .ok (.vand .always 511 5) ∧
    decode 0b1001001_00_000_00_111111111_000000101#32 = .ok (.vor .always 511 5) ∧
    decode 0b1001010_00_000_00_111111111_000000101#32 = .ok (.vxor .always 511 5) ∧
    decode 0x9623FE05#32 = .ok (.vshf .always .rot 511 5) ∧
    decode 0b1001100_00_010_00_111111111_000000101#32 = .ok (.vbcst .always .s16 511 5) ∧
    decode 0b1001101_00_000_00_111111111_000000101#32 = .ok (.vins false 511 5) ∧
    decode 0b1001110_00_011_00_111111111_000000101#32 = .ok (.vext .always .i16 511 5) ∧
    decode 0x9E13FE06#32 = .ok (.vmsk .always true 511 6) ∧
    decode 0xA003FE09#32 = .ok (.vcvt .always .bf16Fp32 511 9) ∧
    decode 0xA00BFE09#32 = .ok (.vcvt .always .fp32Bf16 511 9) ∧
    decode 0xA217FE04#32 = .ok (.vred .always .bf16 .max 511 4) ∧
    decode 0b1010010_00_000_00_111111111_000000101#32 = .ok (.vexp2 .always 511 5) ∧
    decode 0b1010011_00_000_00_111111111_000000101#32 = .ok (.vrcp .always 511 5) ∧
    decode 0b1010100_00_000_00_111111111_000000101#32 = .ok (.vrsq .always 511 5) ∧
    decode 0xAA03FE03#32 = .ok (.tld .always 0 511 3) ∧
    decode 0xAC43FE08#32 = .ok (.tli .always 2 511 8) ∧
    decode 0b1010111_00_001_11_111111111_000000101#32 = .ok (.vun .always .bf16 .flr 511 5) := by decide

/-- Matrix unit, copies, semaphores and channels (R291-R299, R254, R264-R277). -/
theorem test_decode_engines :
    decode 0xC003FE03#32 = .ok (.mprog .always 511 3) ∧
    decode 0xC203FFFF#32 = .ok (.mlw .always) ∧ decode 0xC213FFFF#32 = .ok .mlwS ∧
    decode 0xC403FFFF#32 = .ok (.mma .always) ∧ decode 0xC413FFFF#32 = .ok .mmaS ∧
    decode 0xC603FFFF#32 = .ok (.mst .always) ∧ decode 0xC803FFFF#32 = .ok (.mzr .always) ∧
    decode 0xCA0BFE05#32 = .ok (.mstg .always 2 511 5) ∧ decode 0xCA17FE05#32 = .ok (.mstgS 1 511 5) ∧
    decode 0xCC03FFFF#32 = .ok (.mres .always) ∧ decode 0xCC13FFFF#32 = .ok (.mresDrop .always) ∧
    decode 0xCE13FFFF#32 = .ok (.mmov .always .am) ∧ decode 0xCE33FFFF#32 = .ok (.mmov .always .wm) ∧
    decode 0b1101000_00_00000_111111111_000000101#32 = .ok (.cpy .always 511 5) ∧
    decode 0xD013FE04#32 = .ok (.cpyDeal .always 511 4) ∧ decode 0xD023FE04#32 = .ok (.cpyGath .always 511 4) ∧
    decode 0xD033FE04#32 = .ok (.cpyBin .always 511 4) ∧ decode 0xD043FE04#32 = .ok (.cpyX .always 511 4) ∧
    decode 0xD203FE04#32 = .ok (.sacq .always 511 4) ∧
    decode 0b1101010_00_00000_000000110_000000101#32 = .ok (.sacqp .always 6 5) ∧
    decode 0xD603FE02#32 = .ok (.slpt .always 511 2) ∧
    decode 0xD853FE03#32 = .ok (.chb .always 5 511 3) ∧ decode 0xDA13FFFF#32 = .ok (.chu .always 1) ∧
    decode 0xDC07FE06#32 = .ok (.str .always 0 true 511 6) := by decide

/-- Fences, time, sheaves and tasks (R330, R348, R358-R368). -/
theorem test_decode_time :
    decode 0xE017FFFF#32 = .ok (.fence .always .core .rel) ∧ decode 0xE057FFFF#32 = .ok (.fence .always .fab .rel) ∧
    decode 0xE02BFFFF#32 = .ok (.fence .always .region .acq) ∧ decode 0xE03BFFFF#32 = .ok (.fence .always .die .acq) ∧
    decode 0xE04FFFFF#32 = .ok (.fence .always .mod .ar) ∧ decode 0xE1A7FFFF#32 = .ok (.fence .onTrue .region .rel) ∧
    decode 0xE207FE04#32 = .ok (.tadv .always 1 511 4) ∧ decode 0xE403FE04#32 = .ok (.tset .always 511 4) ∧
    decode 0xE603FE04#32 = .ok (.fwait .always 511 4) ∧ decode 0xE803FE04#32 = .ok (.join .always 511 4) ∧
    decode 0xE817FE04#32 = .ok (.leave .always true 511 4) ∧ decode 0xEA03FE04#32 = .ok (.spawn 511 4) ∧
    decode 0xEA13FE04#32 = .ok (.spawnAt 511 4) ∧ decode 0xEC0BFFFF#32 = .ok (.fill .always 2) ∧
    decode 0xEC4FFFFF#32 = .ok (.fill .always 19) := by decide

/-- Parking, cells, traps and system (R349-R357, R369, R404-R407). -/
theorem test_decode_system :
    decode 0b1110111_00_00000_111111111_111111111#32 = .ok (.park .always) ∧
    decode 0b1110111_10_00100_111111111_111111111#32 = .ok (.wake .onFalse) ∧
    decode 0b1110111_00_01000_111111111_111111111#32 = .ok (.yld .always) ∧
    decode 0b1111000_00_00000_000000110_000000101#32 = .ok (.cbind 6 5) ∧
    decode 0b1111000_00_00100_000000110_000000101#32 = .ok (.cunb .always 6 5) ∧
    decode 0b1111001_00_00000_000000110_000000101#32 = .ok (.crd .always 6 5) ∧
    decode 0b1111001_11_00100_000000110_000000101#32 = .ok (.crel .onTrue 6 5) ∧
    decode 0b1111010_00_00000_000000110_000000101#32 = .ok (.cwr .always 6 5) ∧
    decode 0b1111010_00_00100_000000110_000000101#32 = .ok (.ccmt .always 6 5) ∧
    decode 0b1111010_00_01000_000000110_000000101#32 = .ok (.cset 6 5) ∧
    decode 0b1111011_00_00000_000000110_000000101#32 = .ok (.rfence .always 6 5) ∧
    decode 0b1111011_00_00101_000000110_000000101#32 = .ok (.cstat .always true 6 5) ∧
    decode 0xF803FFFF#32 = .ok (.trap .always) ∧ decode 0xF983FFFF#32 = .ok (.trap .onTrue) ∧
    decode 0xF813FFFF#32 = .ok (.tret .always) ∧ decode 0xF817FFFF#32 = .ok (.tretRetry .always) ∧
    decode 0xFA03FFFF#32 = .ok (.ppt .always) ∧ decode 0xFA13FFFF#32 = .ok (.halt .always) ∧
    decode 0xFC000A04#32 = .ok (.sysr .always 5 4) ∧ decode 0xFC13FE04#32 = .ok (.sysw .always 4) := by decide

/-- Words that are no instruction (R136, R131, R135, R173): an opcode without one, a reserved target, a reserved predicate mode, a
reserved TYPE mode. -/
theorem test_decode_illegal :
    (decode 0x00000000#32).toOption = none ∧ (decode 0x5E000000#32).toOption = none ∧ (decode 0xFE03FFFF#32).toOption = none ∧
    (decode 0b0010000_00_00000_111111111_110000000#32).toOption = none ∧
    (decode 0b0010000_01_00000_111111111_000000101#32).toOption = none ∧
    (decode 0b0010000_00_00010_111111111_000000101#32).toOption = none := by decide

/-! ### Well-formed instructions: an ill-formed term for each check, which the check refuses -/

/-- Reserved targets (R131, R132), registers that are not there (R134, R167), a reserved `.SAT`, VUN and VRED form (R193, R199, R208),
a predicated CAS (R241); an event has no word. -/
theorem test_ill_formed_refused :
    wellFormed (.add .always .i64 .wrap 511 384) = false ∧ wellFormed (.genc 0 510) = false ∧
    wellFormed (.rd ⟨0, 0⟩ 0 128) = false ∧ wellFormed (.rd ⟨1, 16⟩ 0 1) = false ∧ wellFormed (.rd ⟨3, 4⟩ 0 1) = false ∧
    wellFormed (.rd ⟨4, 0x18⟩ 0 1) = false ∧ wellFormed (.rd ⟨5, 0⟩ 0 1) = false ∧ wellFormed (.rdt ⟨3, 0⟩ 0 1) = false ∧
    wellFormed (.wr ⟨3, 3⟩) = false ∧ wellFormed (.wr ⟨4, 6⟩) = false ∧ wellFormed (.wr ⟨4, 0x0B⟩) = false ∧
    wellFormed (.vadd .always .bf16 .sat 511 5) = false ∧ wellFormed (.vun .always .n32 .neg 511 5) = false ∧
    wellFormed (.vun .always .i32 .sqrt 511 5) = false ∧ wellFormed (.vred .always .bf16 .bits 511 5) = false ∧
    wellFormed (.amo .onTrue .cas .i64 511 5) = false ∧ wellFormed (.wait 0) = false := by decide

/-- Their well-formed neighbours are accepted. -/
theorem test_well_formed_accepted :
    wellFormed (.add .always .i64 .wrap 511 383) = true ∧ wellFormed (.rd ⟨3, 3⟩ 0 127) = true ∧
    wellFormed (.rd ⟨4, 0x17⟩ 0 1) = true ∧ wellFormed (.wr ⟨3, 4⟩) = true ∧ wellFormed (.wr ⟨4, 0x0A⟩) = true ∧
    wellFormed (.vadd .always .i16 .sat 511 5) = true ∧ wellFormed (.vun .always .fp16 .sqrt 511 5) = true ∧
    wellFormed (.vred .always .fp32 .bits 511 5) = true ∧ wellFormed (.amo .always .cas .i64 511 5) = true := by decide

/-! ### Helpers: a small state whose next instruction has given operands -/

/-- Slot 0 of core 0 holds a block of four words whose instruction 3 has the operands l, r and p; the thread is in no sheaf. -/
def operandBlock (l r p : Token) : Block :=
  { fetchBlock 0x2003FE05 with done := [(0, l, .null), (1, r, .null), (2, p, .null)] }

def operandThread (l r p : Token) : Thread :=
  { Thread.fresh with noSheaf := true, block := some (operandBlock l r p) }

def withThread (t : Thread) (s : State) : State :=
  { s with slots := mset Slot.reset [] 0 { fetchSlot 0 with thread := some t }, ctx := ⟨0, 0, 3⟩ }

def operands (l r p : Token) : State := withThread (operandThread l r p) State.reset

/-- The same in sheaf 7 at a local time. -/
def inSheaf (t : Word) (l r p : Token) : State :=
  withThread { operandThread l r p with noSheaf := false, sheaf := 7, ltime := t } State.reset

/-- The state with a core of its own as core 0. -/
def withCore (c : Core) (s : State) : State := { s with cores := mset Core.reset [] 0 c }

/-- The tokens that an outcome has on their way. -/
def sentTokens (o : Host.Outcome State Fault Refusal) : List (Token × Token) :=
  match o with
  | .next t => t.agenda.filterMap fun e => match e.2 with
    | .tokenDelivery (.tokens _ a b) => some (a, b)
    | _ => none
  | _ => []

/-- One scalar to both targets. -/
def scalars (v : Word) : List (Token × Token) := [(.scalar v, .scalar v)]

/-- The block in slot 0 of core 0 after an outcome. -/
def blockAfter (o : Host.Outcome State Fault Refusal) : Option Block :=
  match o with
  | .next t => blockAt t 0 0
  | _ => none

/-- The effects that the block holds, and its flags. -/
def heldEffects (o : Host.Outcome State Fault Refusal) : List Eff := (blockAfter o).elim [] fun b => b.effs.map (·.2)
def raisedFlags (o : Host.Outcome State Fault Refusal) : NumFlags := (blockAfter o).elim noFlags fun b => b.flags

/-- A test of the next state of an outcome. -/
def nextHas (o : Host.Outcome State Fault Refusal) (p : State → Bool) : Bool :=
  match o with
  | .next t => p t
  | _ => false

/-- A vector with one 32-bit value in all lanes, and one with a value in lane 0 alone. -/
def lanes (n : Nat) : Token := .vec (splat32 n) (BitVec.allOnes 64)
def laneZero (n : Nat) : Token := .vec (BitVec.ofNat 1024 n) 3

/-! ### One step: integers and addresses (R52, R177, R180-R185) -/

/-- 127 + 1 in eight bits wraps to -128 and saturates at 127 with OF. -/
theorem test_add_i8 :
    sentTokens (exec (.add .always .i8 .wrap 511 5) (operands (.scalar 127) (.scalar 1) .null)) =
      scalars 0xFFFFFFFFFFFFFF80 ∧
    sentTokens (exec (.add .always .i8 .sat 511 5) (operands (.scalar 127) (.scalar 1) .null)) = scalars 127 ∧
    raisedFlags (exec (.add .always .i8 .sat 511 5) (operands (.scalar 127) (.scalar 1) .null)) = flagOf := by
  decide +kernel

/-- An unsigned difference below 0: 3 - 5 in 16 bits is 65534, and 0 when it saturates. -/
theorem test_sub_n16 :
    sentTokens (exec (.sub .always .n16 .wrap 511 5) (operands (.scalar 3) (.scalar 5) .null)) = scalars 65534 ∧
    sentTokens (exec (.sub .always .n16 .sat 511 5) (operands (.scalar 3) (.scalar 5) .null)) = scalars 0 := by
  decide +kernel

/-- The product and its upper half: (2^63 - 1) × 2 keeps -2, its upper half is 0; unsigned 2^63 × 2 has the upper half 1. -/
theorem test_mul_mulh :
    sentTokens (exec (.mul .always .i64 .wrap 511 5) (operands (.scalar 0x7FFFFFFFFFFFFFFF) (.scalar 2) .null)) =
      scalars 0xFFFFFFFFFFFFFFFE ∧
    sentTokens (exec (.mulh .always .i64 511 5) (operands (.scalar 0x7FFFFFFFFFFFFFFF) (.scalar 2) .null)) = scalars 0 ∧
    sentTokens (exec (.mulh .always .n64 511 5) (operands (.scalar 0x8000000000000000) (.scalar 2) .null)) = scalars 1 := by
  decide +kernel

/-- Division truncates toward zero; by 0 it gives all ones and the dividend; the least number by -1 gives itself and 0 (R52). -/
theorem test_div_rem :
    sentTokens (exec (.div .always .i32 511 5) (operands (.scalar 0xFFFFFFF9) (.scalar 2) .null)) =
      scalars 0xFFFFFFFFFFFFFFFD ∧
    sentTokens (exec (.rem .always .i32 511 5) (operands (.scalar 0xFFFFFFF9) (.scalar 2) .null)) =
      scalars 0xFFFFFFFFFFFFFFFF ∧
    sentTokens (exec (.div .always .n32 511 5) (operands (.scalar 9) (.scalar 0) .null)) = scalars 0xFFFFFFFF ∧
    sentTokens (exec (.rem .always .n32 511 5) (operands (.scalar 9) (.scalar 0) .null)) = scalars 9 ∧
    sentTokens (exec (.div .always .i32 511 5) (operands (.scalar 0x80000000) (.scalar 0xFFFFFFFF) .null)) =
      scalars 0xFFFFFFFF80000000 ∧
    sentTokens (exec (.rem .always .i32 511 5) (operands (.scalar 0x80000000) (.scalar 0xFFFFFFFF) .null)) = scalars 0 := by
  decide +kernel

/-- Shift counts are taken modulo the width; SAR copies the sign whatever the TYPE. -/
theorem test_shifts :
    sentTokens (exec (.shl .always .i32 511 5) (operands (.scalar 1) (.scalar 31) .null)) = scalars 0xFFFFFFFF80000000 ∧
    sentTokens (exec (.shr .always .n32 511 5) (operands (.scalar 0x80000000) (.scalar 33) .null)) = scalars 0x40000000 ∧
    sentTokens (exec (.sar .always .i16 511 5) (operands (.scalar 0x8000) (.scalar 15) .null)) =
      scalars 0xFFFFFFFFFFFFFFFF := by decide +kernel

/-- -1 is less than 1 as a signed number and greater as an unsigned one. -/
theorem test_cmp_min_max :
    sentTokens (exec (.cmp .always .i64 .lt 511 5) (operands (.scalar 0xFFFFFFFFFFFFFFFF) (.scalar 1) .null)) = scalars 1 ∧
    sentTokens (exec (.cmp .always .n64 .lt 511 5) (operands (.scalar 0xFFFFFFFFFFFFFFFF) (.scalar 1) .null)) = scalars 0 ∧
    sentTokens (exec (.minI .always .i8 511 5) (operands (.scalar 0xFF) (.scalar 1) .null)) = scalars 0xFFFFFFFFFFFFFFFF ∧
    sentTokens (exec (.maxI .always .n8 511 5) (operands (.scalar 0xFF) (.scalar 1) .null)) = scalars 0xFF := by
  decide +kernel

theorem test_logic :
    sentTokens (exec (.andI .always .n8 511 5) (operands (.scalar 0x1FC) (.scalar 0x3F) .null)) = scalars 0x3C ∧
    sentTokens (exec (.orI .always .i8 511 5) (operands (.scalar 0x80) (.scalar 1) .null)) = scalars 0xFFFFFFFFFFFFFF81 ∧
    sentTokens (exec (.xorI .always .i64 511 5) (operands (.scalar 6) (.scalar 3) .null)) = scalars 5 := by decide +kernel

/-- An immediate is sign-extended: #-3 times 5 is -15, and -3 is less than 0. -/
theorem test_immediates :
    sentTokens (exec (.muli .always 0x3FFD 5) (operands (.scalar 5) .null .null)) = scalars 0xFFFFFFFFFFFFFFF1 ∧
    sentTokens (exec (.addi .always 0x3FFF 5) (operands (.scalar 0) .null .null)) = scalars 0xFFFFFFFFFFFFFFFF ∧
    sentTokens (exec (.andi .always 0x2000 5) (operands (.scalar 0xFFFFFFFFFFFFFFFF) .null .null)) = scalars 0xFFFFFFFFFFFFE000 ∧
    sentTokens (exec (.sari .always 4 5) (operands (.scalar 0x8000000000000000) .null .null)) = scalars 0xF800000000000000 ∧
    sentTokens (exec (.cgei .always 0x3FFD 5) (operands (.scalar 0) .null .null)) = scalars 1 ∧
    sentTokens (exec (.clti .always 0x3FFD 5) (operands (.scalar 0) .null .null)) = scalars 0 := by decide +kernel

/-- GENC and APP build a constant from the top; LEA scales; BITS extracts and counts; SEL chooses by bit 0. -/
theorem test_constants_and_fields :
    sentTokens (exec (.genc 0xBEEF 5) (operands .null .null .null)) = scalars 0xBEEF ∧
    sentTokens (exec (.app 0xDEAD 5) (operands (.scalar 0xBEEF) .null .null)) = scalars 0xBEEFDEAD ∧
    sentTokens (exec (.lea .always .s3 511 5) (operands (.scalar 0x1000) (.scalar 5) .null)) = scalars 0x1028 ∧
    sentTokens (exec (.bits .always .sext 511 5) (operands (.scalar 0xF0) (.scalar 0x304) .null)) =
      scalars 0xFFFFFFFFFFFFFFFF ∧
    sentTokens (exec (.bits .always .clz 511 5) (operands (.scalar 1) .null .null)) = scalars 63 ∧
    sentTokens (exec (.bits .always .ctz 511 5) (operands (.scalar 0) .null .null)) = scalars 64 ∧
    sentTokens (exec (.sel 511 5) (operands (.scalar 7) (.scalar 9) (.scalar 2))) = scalars 9 := by decide +kernel

/-- A Null operand, or a predicate that does not hold, makes an instruction emit Null and hold nothing (R155). -/
theorem test_null :
    sentTokens (exec (.add .always .i64 .wrap 511 5) (operands .null (.scalar 1) .null)) = [(.null, .null)] ∧
    sentTokens (exec (.mov .onTrue 511 5) (operands (.scalar 4) .null (.scalar 2))) = [(.null, .null)] ∧
    sentTokens (exec (.mov .onFalse 511 5) (operands (.scalar 4) .null (.scalar 2))) = scalars 4 ∧
    heldEffects (exec (.wr ⟨0, 5⟩) (operands .null .null .null)) = [] := by decide +kernel

/-! ### One step: control, registers, memory -/

/-- BR to the header plus 4 × 6; CALL holds its return address, 32 bytes behind the header of a block of four (R174, R175). -/
theorem test_exits :
    (blockAfter (exec (.br .always 1 6) (operands .null .null .null))).map (·.exit) = some (some ⟨3, false, 0x1018⟩) ∧
    (blockAfter (exec (.bri .always 1) (operands (.scalar 0x2000) .null .null))).map (·.exit) =
      some (some ⟨3, false, 0x2000⟩) ∧
    heldEffects (exec (.call .always 0 0xFFFD8) (operands .null .null .null)) = [.call 0x1018] := by decide +kernel

/-- A register is read as it stands; a write is held for the commit (R164, R165). -/
theorem test_registers :
    sentTokens (exec (.rd ⟨4, 1⟩ 0 5) (operands .null .null .null)) = scalars 0 ∧
    sentTokens (exec (.rd ⟨4, 4⟩ 0 5) (operands .null .null .null)) = scalars 4096 ∧
    sentTokens (exec (.rd ⟨0, 63⟩ 0 5) (operands .null .null .null)) = scalars 0 ∧
    heldEffects (exec (.wr ⟨2, 2⟩) (operands (.scalar 8) .null .null)) = [.writeS 2 8] ∧
    heldEffects (exec (.rdt ⟨0, 7⟩ 0 5) (operands .null .null .null)) = [.takeReg 0 7] := by decide +kernel

/-- A store of two bytes is held with its bytes in little-endian order, at `.l` plus twice the immediate (R1, R130, R238). -/
theorem test_store :
    heldEffects (exec (.st16 .always 3 1) (operands (.scalar 0x2000) (.scalar 0xABCD) .null)) =
      [.store 3 0x80 [(cisternPa 0 0x2002, 0x2002, 0xCD), (cisternPa 0 0x2003, 0x2003, 0xAB)]] := by decide +kernel

/-- A misaligned load takes the permission fault 0x11, reason 6, with its address (R223). -/
theorem test_misaligned :
    nextHas (exec (.ld64 .always 0 0 5) (operands (.scalar 0x2004) .null .null)) (fun t =>
      decide (creg t 0 0x0F10 = 1) && decide (creg t 0 0x1000 = 0x030611) && decide (creg t 0 0x1010 = 0x2004)) = true := by
  decide +kernel

/-- An AMO.ADD at its owner writes the sum and answers with the old value (R241). -/
theorem test_amo_at_owner :
    let s := { operands .null .null .null with mem := [⟨cisternPa 0 0x2000, 0xFF⟩] }
    let r : Req := ⟨⟨0, 0, 0, 3⟩, .amo .add .i64 1 0, (List.range 8).map fun j => (j, cisternPa 0 0x2000 + j), 0, false, .none, .own, none⟩
    nextHas (exec (.ownerAccess r) s) (fun t => decide (word64At t (cisternPa 0 0x2000) = 0x100)) = true := by decide +kernel

/-! ### One step: vectors -/

/-- 1.0 + 2.0 in every FP32 lane is 3.0; the result is null where an operand is null (R190, R194). -/
theorem test_vadd_fp32 :
    sentTokens (exec (.vadd .always .fp32 .wrap 511 5) (operands (lanes 0x3F800000) (laneZero 0x40000000) .null)) =
      [(laneZero 0x40400000, laneZero 0x40400000)] := by decide +kernel

/-- -1 + 1 wraps to 0 in a lane; 2.0 × 3.0 + 1.0 is 7.0; √4.0 is 2.0; 1 / 2.0 is 0.5 (R195, R199, R209). -/
theorem test_vector_lanes :
    sentTokens (exec (.vadd .always .i32 .wrap 511 5) (operands (laneZero 0xFFFFFFFF) (laneZero 1) .null)) =
      [(laneZero 0, laneZero 0)] ∧
    sentTokens (exec (.vfma .fp32 .plain 511 5)
      (operands (laneZero 0x40000000) (laneZero 0x40400000) (laneZero 0x3F800000))) =
      [(laneZero 0x40E00000, laneZero 0x40E00000)] ∧
    sentTokens (exec (.vun .always .fp32 .sqrt 511 5) (operands (laneZero 0x40800000) .null .null)) =
      [(laneZero 0x40000000, laneZero 0x40000000)] ∧
    sentTokens (exec (.vrcp .always 511 5) (operands (laneZero 0x40000000) .null .null)) =
      [(laneZero 0x3F000000, laneZero 0x3F000000)] := by decide +kernel

/-- VRED adds the live lanes; VEXT takes one; VCMP answers all ones (R196, R203, R208). -/
theorem test_vector_reductions :
    sentTokens (exec (.vred .always .i32 .add 511 5) (operands (lanes 2) .null .null)) = scalars 64 ∧
    sentTokens (exec (.vext .always .i32 511 5) (operands (lanes 0x80000000) (.scalar 31) .null)) =
      scalars 0xFFFFFFFF80000000 ∧
    sentTokens (exec (.vcmp .always .i32 .lt 511 5) (operands (laneZero 0xFFFFFFFF) (laneZero 0) .null)) =
      [(laneZero 0xFFFFFFFF, laneZero 0xFFFFFFFF)] := by decide +kernel

/-! ### One step: time, sheaves, traps, events -/

/-- TADV at level 1 keeps the upper digits and adds 2 × 2^16; TSET to an earlier time has status 3 (R72, R358). -/
theorem test_time :
    sentTokens (exec (.tadv .always 1 511 5) (inSheaf 0x1_2345 (.scalar 2) .null .null)) = scalars 0x3_0000 ∧
    heldEffects (exec (.tadv .always 1 511 5) (inSheaf 0x1_2345 (.scalar 2) .null .null)) = [.advance 0x3_0000] ∧
    sentTokens (exec (.tset .always 511 5) (inSheaf 9 (.scalar 8) .null .null)) = scalars 3 := by decide +kernel

/-- LEAVE outside a sheaf has status 6, TSET to the present time status 0 (R358, R362). -/
theorem test_statuses :
    sentTokens (exec (.leave .always false 511 5) (operands .null .null .null)) = scalars 6 ∧
    sentTokens (exec (.tset .always 511 5) (inSheaf 9 (.scalar 9) .null .null)) = scalars 0 ∧
    sentTokens (exec (.join .always 511 5) (inSheaf 9 (.scalar 1) .null .null)) = scalars 2 := by decide +kernel

/-- TRAP without a handler becomes service fault 0x16 with the cause 1 as its reason (R385). -/
theorem test_trap_without_handler :
    nextHas (exec (.trap .always) (operands (.scalar 77) .null .null)) (fun t =>
      decide (creg t 0 0x0F10 = 1) && decide (creg t 0 0x1000 % 2 ^ 16 = 0x0116) && decide (creg t 0 0x1010 = 77)) = true := by
  decide +kernel

/-- SYSR outside a service thread is the permission fault with reason 7 (R404). -/
theorem test_sysr_needs_service :
    nextHas (exec (.sysr .always 511 5) (operands (.scalar 0) .null .null)) (fun t =>
      decide (creg t 0 0x1000 % 2 ^ 16 = 0x0711)) = true := by decide +kernel

/-- The first lock sets the tick to the master's time when that is greater (R102). -/
theorem test_first_sync :
    nextHas (exec (.ieee1588Sync 5000) State.reset) (fun t => decide (t.tick = 5000) && t.locked) = true := by decide +kernel

/-- The side-band answers a directed read only with a dynamic address, which ENTDAA gives (R431). -/
theorem test_sideband_address :
    nextHas (exec .getpid State.reset) (fun t => decide (t.out = [.sideband false []])) = true ∧
    nextHas (exec (.entdaa 0x55) State.reset) (fun t => decide (t.side.dynamic = some 0x55)) = true := by decide +kernel

/-- With nothing due and nothing to issue, the clock goes on: five sevenths of a tick a cycle, ten in start-up (R3, R421). -/
theorem test_clock :
    nextHas (step { State.reset with agenda := [] }) (fun t => decide (t.cycle = 1) && decide (t.tick = 1)) = true ∧
    nextHas (step { State.reset with agenda := [], mregs := [(0x0900, 5)] }) (fun t => decide (t.tick = 0)) = true := by
  decide +kernel

/-- The next step after State.withFetchWord runs the word, here ADD, and not the start-up that is pending. -/
theorem test_fetch_word :
    nextHas (step (State.reset.withFetchWord 32 0x2003FE05)) (fun t => decide (t.agenda.length = 2)) = true := by decide +kernel

/-! ### Witnesses: for each statement with hypotheses, states and operands that meet them, clause by clause

Each theorem is named after the statement, or the part of one, whose hypotheses it meets. -/

/-- What fires in the states above. -/
def firing (s : State) : Fire :=
  (fireAt s).getD ⟨0, 0, 0, Thread.fresh, fetchBlock 0, .null, .null, .null⟩

/-- A next state for a test that succeeds. -/
theorem next_of_nextHas {o : Host.Outcome State Fault Refusal} {p : State → Bool} (h : nextHas o p = true) :
    ∃ t, o = .next t ∧ p t = true := by
  cases o with
  | next t => exact ⟨t, rfl, h⟩
  | fault f => cases h
  | refused r => cases h

/-- Two scalars, with 1 for `.p`. -/
def twoScalars : State := operands (.scalar 0x2000) (.scalar 7) (.scalar 1)

theorem twoScalars_fires2 : Fires2 twoScalars (firing twoScalars) .always 0x2000 7 := by
  unfold Fires2 Fires1 Fires
  decide +kernel

theorem witness_DecodeOfEncode :
    wellFormed (.vstx 31) = true ∧ encode (.vstx 31) = some 0xB67FFFFF#32 ∧
    wellFormed (.rd ⟨4, 0x17⟩ 255 127) = true ∧ encode (.rd ⟨4, 0x17⟩ 255 127) = some 0x1B17FF7F#32 := by decide

theorem witness_DecodedWordsAreEncodings : decode 0xB67FFFFF#32 = .ok (.vstx 31) := by decide

theorem witness_StepRunsDueEvent :
    (∃ e rest, { State.reset with agenda := [(agendaKey 0 0 3, .tickLockLoss)] }.agenda = (agendaKey 0 0 3, e) :: rest ∧
      agendaKey 0 0 3 < agendaKey 0 1 0) ∧
    (∃ e rest, State.reset.agenda = (agendaKey 0 6 0, e) :: rest ∧ agendaKey 0 6 0 < agendaKey (State.reset.cycle + 1) 0 0) ∧
    nextIssue State.reset (listedCores State.reset) = none ∧ { State.reset with issueOver := true }.issueOver = true :=
  ⟨⟨_, _, rfl, by decide⟩, ⟨_, _, rfl, by decide⟩, by decide +kernel, rfl⟩

theorem witness_StepRunsDecodedWord :
    let s := State.reset.withFetchWord 32 0x2003FE05
    s.issueOver = false ∧ (∀ e ∈ s.agenda.head?, agendaKey s.cycle 1 0 ≤ e.1) ∧
    nextIssue s (listedCores s) = some ⟨0, 0, 3⟩ ∧
    blockAt s 0 0 = some (fetchBlock 0x2003FE05) ∧
    decodeNat (wordOf (fetchBlock 0x2003FE05) 3) = .ok (.add .always .i64 .wrap 511 5) := by decide +kernel

theorem witness_StepAdvancesCycle :
    let s := { State.reset with agenda := [] }
    nextIssue s (listedCores s) = none ∧ ∀ e ∈ s.agenda.head?, agendaKey (s.cycle + 1) 0 0 ≤ e.1 := by decide +kernel

/-- The owner of its cycle, and the one able slot in the cycle of another, eight cycles after its last issue. -/
theorem witness_BarrelOrder :
    let s := State.reset.withFetchWord 32 0x2003FE05
    issuer s 0 = some (0, 3) ∧ issuer { s with cycle := 3 } 0 = some (0, 3) ∧
    issuer { s with cycle := 11, slots := [(0, { fetchSlot 0x2003FE05 with lastIssue := some 3 })] } 0 = some (0, 3) := by
  decide +kernel

theorem witness_CycleCounter : ∃ t, step { State.reset with agenda := [] } = .next t ∧ decide (t.cycle = 1) = true :=
  next_of_nextHas (by decide +kernel)

theorem witness_StepKeepsCanonical : let s := { State.reset with agenda := [], mem := [⟨5, 1⟩], empty := [16, 24] }
    Canonical s ∧ ∃ t, step s = .next t ∧ decide (t.cycle = 1) = true :=
  ⟨by constructor <;> decide, next_of_nextHas (by decide +kernel)⟩

theorem witness_CompletionChanges : fireAt twoScalars = some (firing twoScalars) ∧ (firing twoScalars).k < 16 := by
  decide +kernel

/-- A divisor 0, the least number by -1, and neither, in 32 bits. -/
theorem witness_DivRemResults :
    (let s := operands (.scalar 9) (.scalar 0) .null
     Fires2 s (firing s) .always 9 0 ∧ readAs .i32 0 = 0) ∧
    (let s := operands (.scalar 0x80000000) (.scalar 0xFFFFFFFF) .null
     Fires2 s (firing s) .always 0x80000000 0xFFFFFFFF ∧ intSigned .i32 = true ∧ readAs .i32 0x80000000 = leastInt .i32 ∧
       readAs .i32 0xFFFFFFFF = -1) ∧
    (let s := operands (.scalar 9) (.scalar 2) .null
     Fires2 s (firing s) .always 9 2 ∧ readAs .i32 2 ≠ 0) := by
  unfold Fires2 Fires1 Fires
  decide +kernel

/-- Also the witness of AddSubMulResults and of the first clause of LeaAddresses. -/
theorem witness_IntegerResults : Fires2 twoScalars (firing twoScalars) .onTrue 0x2000 7 := by
  unfold Fires2 Fires1 Fires
  decide +kernel

theorem witness_ImmediateResults : Fires1 twoScalars (firing twoScalars) .always 0x2000 ∧
    (let w : Nat := 0x4A008005
     0x25 ≤ opOf w ∧ opOf w ≤ 0x27 ∧ imm14Of w / 2 ^ 6 ≠ 0) ∧
    (let w : Nat := 0x4E800000
     opOf w = 0x27 ∧ imm14Of w / 2 ^ 6 = 0) := by
  unfold Fires1 Fires
  decide +kernel

theorem witness_LeaAddresses :
    opOf 0x5853FE05 = 0x2C ∧ 5 ≤ xhiOf 0x5853FE05 ∧ opOf 0x5807FE05 = 0x2C ∧ xloOf 0x5807FE05 ≠ 0 := by decide

theorem witness_ConstantTokens : Fires twoScalars (firing twoScalars) .always ∧ asScalar (firing twoScalars).l = some 0x2000 := by
  unfold Fires
  decide +kernel

theorem witness_FieldsAndSelection :
    Fires1 twoScalars (firing twoScalars) .always 0x2000 ∧ asScalar (firing twoScalars).r = some 7 ∧
    asScalar (firing twoScalars).p = some 1 ∧
    (let s := operands .null .null .null
     fireAt s = some (firing s) ∧ asScalar (firing s).p = none) := by
  unfold Fires1 Fires
  decide +kernel

/-- A failed predicate, and a Null in each slot, of both lists; WR to a standpipe with a free credit. -/
theorem witness_PredicatedInstructionsEmitNull :
    nullForm (.add .onFalse .i64 .wrap 511 5) = some (.onFalse, 5, 511) ∧ fireAt twoScalars = some (firing twoScalars) ∧
    predicateHolds .onFalse (firing twoScalars) = false ∧
    (let s := operands .null .null .null
     fireAt s = some (firing s) ∧ usesLeft (.add .always .i64 .wrap 511 5) = true ∧ (firing s).l = .null ∧
       usesRight (.add .always .i64 .wrap 511 5) = true ∧ (firing s).r = .null ∧ usesThird (.vins true 511 5) = true ∧
       (nullForm (.vins true 511 5)).isSome = true ∧ (firing s).p = .null) ∧
    ownForm (.vstx 31) = some (.always, 511, 511, true, true, true) := by decide +kernel

theorem witness_ExitsNameNextBlock : Fires twoScalars (firing twoScalars) .onTrue ∧ (firing twoScalars).b.exit = none ∧
    asScalar (firing twoScalars).l = some 0x2000 := by
  unfold Fires
  decide +kernel

/-- A block whose exit has fired, of a thread with a trap latch. -/
def exited : State :=
  withThread { operandThread (.scalar 0x3000) .null .null with
    trap := some ⟨0x1000, 0, [], [], []⟩
    block := some { operandBlock (.scalar 0x3000) .null .null with exit := some ⟨1, false, 0x2000⟩ } } State.reset

theorem witness_SecondExitFaults : Fires exited (firing exited) .always ∧ InProgress (firing exited) ∧
    (firing exited).b.exit = some ⟨1, false, 0x2000⟩ ∧ asScalar (firing exited).l = some 0x3000 ∧
    (firing exited).th.trap = some ⟨0x1000, 0, [], [], []⟩ := by
  unfold Fires InProgress
  decide +kernel

/-- LPB with one frame left over, and with two. -/
def looped (n : Nat) : State :=
  withThread { operandThread (.scalar 5) .null .null with frames := List.replicate n ⟨9, 0, 0x1000, 0x2000⟩ } State.reset

theorem witness_LoopBegin : Fires1 (looped 1) (firing (looped 1)) .always 5 ∧ Fires1 (looped 2) (firing (looped 2)) .always 5 ∧
    (firing (looped 1)).th.frames.length < 2 ∧ (firing (looped 2)).th.frames.length = 2 ∧
    isLoopEnd (firing (looped 2)).b = false := by
  unfold Fires1 Fires
  decide +kernel

theorem witness_RegisterReads : let s := operands .null .null .null
    fireAt s = some (firing s) ∧ (gReg (firing s).th 63).2 = true ∧ (vReg (firing s).th 15).2 = true ∧
    (sReg (coreAt s 0) 15).2 = true := by decide +kernel

/-- Empty registers G5, V5 and S5. -/
def emptied : State :=
  withCore { Core.reset with s := [(5, (0, false))] }
    (withThread { operandThread .null .null .null with g := [(5, (0, false))], v := [(5, (0, false))] } State.reset)

theorem witness_EmptyRegisterParks : fireAt emptied = some (firing emptied) ∧ (gReg (firing emptied).th 5).2 = false ∧
    (vReg (firing emptied).th 5).2 = false ∧ (sReg (coreAt emptied 0) 5).2 = false := by decide +kernel

theorem witness_SpecialRegisterReads : fireAt twoScalars = some (firing twoScalars) := by decide +kernel

theorem witness_RegisterWritesHeld : asScalar (firing twoScalars).l = some 0x2000 ∧
    (let s := operands (lanes 3) .null .null
     fireAt s = some (firing s) ∧ (firing s).l = .vec (splat32 3) (BitVec.allOnes 64)) ∧
    (firing twoScalars).l = .scalar 0x2000 ∧
    (let s := operands .null .null .null
     fireAt s = some (firing s) ∧ (firing s).l = .null) := by decide +kernel

/-- Bytes of the own cistern that nothing protects, at both ends of their range. -/
theorem twoScalars_ownBytes : OwnBytes twoScalars (firing twoScalars) 0x1000 128 ∧
    OwnBytes twoScalars (firing twoScalars) 0x12_6F80 128 :=
  ⟨by constructor <;> decide +kernel, by constructor <;> decide +kernel⟩

/-- What fires there. -/
def two : Fire :=
  ⟨0, 0, 3, operandThread (.scalar 0x2000) (.scalar 7) (.scalar 1), operandBlock (.scalar 0x2000) (.scalar 7) (.scalar 1),
    .scalar 0x2000, .scalar 7, .scalar 1⟩

theorem twoScalars_ownRead (va n : Nat) (h : 0x1000 ≤ va) (g : va + n ≤ 0x12_7000) : OwnRead twoScalars two va n :=
  { low := h, high := g, core := by decide, slot := by decide, locks := by decide +kernel, cells := by decide +kernel
    home := (show reachable twoScalars (.cistern 0 va) = !dieFenced twoScalars (dieOf 0) from rfl).trans (by decide +kernel)
    sent := by decide +kernel
    words := fun w hw => by
      have h : (two.b.words.all fun w => !isStoreOp (opOf w.toNat) && decide (opOf w.toNat ≠ 0x69) &&
        decide (opOf w.toNat ≠ 0x6A)) = true := by decide +kernel
      simpa [and_assoc] using List.all_eq_true.mp h w hw
    effs := fun e he => nomatch he
    pend := fun e he => nomatch he }

theorem witness_LoadsOfOwnCistern : Fires1 twoScalars two .always 0x2000 ∧
    (BitVec.ofInt 64 ((0x2000 : Int) + (0 : BitVec 9).toInt * 8)).toNat % 8 = 0 ∧
    OwnRead twoScalars two 0x2000 128 :=
  ⟨by unfold Fires1 Fires; decide +kernel, by decide, twoScalars_ownRead _ _ (by decide) (by decide)⟩

theorem witness_StoresOfOwnCistern : Fires1 twoScalars (firing twoScalars) .always 0x2000 ∧
    asScalar (firing twoScalars).r = some 7 ∧
    (let s := operands (.scalar 0x2000) (lanes 3) .null
     Fires1 s (firing s) .always 0x2000 ∧ (firing s).r = .vec (splat32 3) (BitVec.allOnes 64)) := by
  unfold Fires1 Fires
  decide +kernel

theorem witness_TakingOperationsAsk : let f := two
    Fires1 twoScalars f .always 0x2000 ∧ latched f.th f.i = none ∧ takingOut f.th f.i = false ∧ asScalar f.r = some 7 ∧
    asScalar f.p = some 1 ∧ (0x2000 : Nat) % amoBytes .n32 = 0 ∧ (0x2000 : Nat) % 8 = 0 := by
  unfold Fires1 Fires
  decide +kernel

/-- SLICE and TLD with their address at a multiple of 16, and TLD elsewhere. -/
theorem witness_RecordReads : let f := two
    Fires1 twoScalars f .always 0x2000 ∧ asScalar f.r = some 7 ∧ (0x2000 : Nat) % 16 = 0 ∧ (0x2000 : Nat) / 64 * 64 = 0x2000 ∧
    (let s := operands (.scalar 0x2008) .null .null
     Fires1 s (firing s) .always 0x2008 ∧ (0x2008 : Nat) % 16 ≠ 0) := by
  unfold Fires1 Fires
  decide +kernel

theorem witness_RecordReads_table : OwnRead twoScalars two 0x2000 276 :=
  twoScalars_ownRead _ _ (by decide) (by decide)

/-- One live lane 31 with index 1: the element at `.l` + 4. -/
def oneLane : State :=
  operands (.scalar 0x2000) (.vec (BitVec.ofNat 1024 (2 ^ (32 * 31))) (BitVec.ofNat 64 (3 * 4 ^ 31))) (lanes 9)

theorem witness_GatherScatter :
    (firing oneLane).r = .vec (BitVec.ofNat 1024 (2 ^ (32 * 31))) (BitVec.ofNat 64 (3 * 4 ^ 31)) ∧
    Fires1 oneLane (firing oneLane) .always 0x2000 ∧
    (BitVec.ofNat 1024 (2 ^ (32 * 31))).toNat / 2 ^ (32 * 31) % 2 ^ 32 = 1 ∧
    (firing oneLane).p = .vec (splat32 9) (BitVec.allOnes 64) := by
  unfold Fires1 Fires
  decide +kernel

theorem witness_MisalignedAccessFaults : let s := operands (.scalar 0x2001) (.scalar 7) .null
    Fires2 s (firing s) .always 0x2001 7 ∧ InProgress (firing s) ∧ (0x2001 : Nat) % 2 ≠ 0 ∧ (0x2001 : Nat) % 4 ≠ 0 ∧
    (0x2001 : Nat) % 8 ≠ 0 := by
  unfold Fires2 Fires1 Fires InProgress
  decide +kernel

theorem witness_PrefetchCompletes : Fires1 twoScalars (firing twoScalars) .always 0x2000 := by
  unfold Fires1 Fires
  decide +kernel

/-- Vectors in all three slots. -/
def threeVectors : State := operands (lanes 0x3F800000) (lanes 0x40000000) (lanes 1)

/-- Also the witness of VectorSaturation, VectorFloatElements and VectorConversions. -/
theorem witness_VectorIntegerElements : Fires threeVectors (firing threeVectors) .always ∧ vtFloat .i16 = none ∧
    vtFloat .n32 = none ∧ vtFloat .bf16 = some bf16 ∧ vtFloat .fp32 = some fp32 := by
  unfold Fires
  decide +kernel

theorem witness_VectorMoves : let s := operands (lanes 5) (.scalar 31) (.scalar 63)
    Fires s (firing s) .always ∧ asScalar (firing s).r = some 31 ∧ asScalar (firing s).p = some 63 ∧
    elemOf false (firing s).l 31 = some 5 ∧ elemOf true (firing s).l 31 = some 0 ∧
    asScalar (firing twoScalars).l = some 0x2000 := by
  unfold Fires
  decide +kernel

theorem witness_VectorReductions : Fires threeVectors (firing threeVectors) .always ∧
    (List.range (elemCount false)).filterMap (elemOf false (firing threeVectors).l) ≠ [] ∧
    (treeNode (fMax fp32) (elemOf false (firing threeVectors).l) 5 0).1 = some 0x3F800000 ∧
    (treeNode (fMin fp32) (fun j => (elemOf true (firing threeVectors).l j).map fun x => (widenHalf bf16 x).1) 6 0).1 = some 0 ∧
    (let s := operands .null .null .null
     Fires s (firing s) .always ∧ (List.range (elemCount true)).filterMap (elemOf true (firing s).l) = [] ∧
       ∀ j, j < 32 → elemOf false (firing s).l j = none) ∧
    (elemOf false (firing threeVectors).l 31).isSome = true := by
  unfold Fires
  decide +kernel

/-- In each layout: a finite pair, a NaN, the two infinities and a zero; for the conversions, numbers inside the range of the
destination, beyond it, and beyond it by half a last place; 1.5 inside the range of I32. -/
theorem witness_FloatResultsRoundedOnce :
    (∀ q ∈ [fp32, bf16, fp16], isFinite q 1 = true ∧ isFinite q (q.signBit + 1) = true ∧ isNaN q (quietNaN q) = true ∧
      isNaN q (quietNaN q - 1) = true ∧ isInf q (2 ^ q.eb * 2 ^ q.fb - 2 ^ q.fb) = true ∧
      isInf q (q.signBit + 2 ^ q.eb * 2 ^ q.fb - 2 ^ q.fb) = true ∧
      signOf q (2 ^ q.eb * 2 ^ q.fb - 2 ^ q.fb) ≠ signOf q (q.signBit + 2 ^ q.eb * 2 ^ q.fb - 2 ^ q.fb) ∧
      floatUnits q 1 + floatUnits q (q.signBit + 1) = 0 ∧ floatUnits q 0 = 0) ∧
    isFinite fp32 0x3F800001 = true ∧ (floatUnits fp32 0x3F800001 * 2 ^ 298).natAbs ≤ topUnits bf16 ∧
    isFinite fp32 0x477FE001 = true ∧ topUnits fp16 < (floatUnits fp32 0x477FE001 * 2 ^ 298).natAbs ∧
    isFinite bf16 0xFF7F = true ∧ topUnits fp16 + lastUnit fp16 ≤ (floatUnits bf16 0xFF7F * 2 ^ 298).natAbs ∧
    isFinite fp16 0x7BFF = true ∧ isFinite fp32 0x3FC00000 = true ∧ floatUnits fp32 0x3FC00000 ≤ (2 ^ 31 - 1) * 2 ^ 298 := by
  decide +kernel

/-- In each layout: a NaN, an infinity, the two zeros, a negative number and the largest encoding; in FP32 the first operands of VEXP2
beyond its range, and a finite number inside it. -/
theorem witness_FloatFunctions :
    (∀ q ∈ [fp32, bf16, fp16], 2 * q.signBit - 1 < 2 * q.signBit ∧ isNaN q (2 * q.signBit - 1) = true ∧
      isInf q (2 ^ q.eb * 2 ^ q.fb - 2 ^ q.fb) = true ∧ isNaN q 0 = false ∧ isNaN q q.signBit = false ∧ isInf q 0 = false ∧
      floatUnits q q.signBit = 0 ∧ isFinite q (q.signBit + 1) = true ∧ floatUnits q (q.signBit + 1) < 0) ∧
    isFinite fp32 0x43000000 = true ∧ 128 * 2 ^ 298 ≤ floatUnits fp32 0x43000000 ∧
    isFinite fp32 0xC3170001 = true ∧ floatUnits fp32 0xC3170001 < -(151 * 2 ^ 298) ∧
    ¬ floatUnits fp32 0xC3170000 < -(151 * 2 ^ 298) ∧ ¬ (128 * 2 ^ 298 : Int) ≤ floatUnits fp32 0x42FFFFFF := by
  decide +kernel

/-- The least and the largest positive number of each layout; the ends of the range of VEXP2; the binary exponents of 1, of the least
number and of the largest. -/
theorem witness_RootsAndApproximations :
    (∀ q ∈ [fp32, bf16, fp16], ∀ x ∈ [1, 2 ^ q.eb * 2 ^ q.fb - 2 ^ q.fb - 1], isFinite q x = true ∧ 0 < floatUnits q x) ∧
    (∀ x ∈ [0xC3170000, 0x42FFFFFF, 0], isFinite fp32 x = true ∧ -(151 * 2 ^ 298) ≤ floatUnits fp32 x ∧
      floatUnits fp32 x < 128 * 2 ^ 298) ∧
    (∀ xe ∈ [(0x3F800000, 298), (1, 149), (0x7F7FFFFF, 425), (0xBF800000, 298)], isFinite fp32 xe.1 = true ∧
      2 ^ xe.2 ≤ (floatUnits fp32 xe.1).natAbs ∧ (floatUnits fp32 xe.1).natAbs < 2 ^ (xe.2 + 1)) ∧
    ∀ xe ∈ [(0x3F800000, 298), (1, 148), (0x7F7FFFFF, 424)], xe.2 % 2 = 0 ∧ 0 < floatUnits fp32 xe.1 ∧
      2 ^ xe.2 ≤ (floatUnits fp32 xe.1).natAbs ∧ (floatUnits fp32 xe.1).natAbs < 2 ^ (xe.2 + 2) := by decide +kernel

/-- The floors of the first entries, which are powers of two, and of the next root. -/
theorem witness_ApproximationTables :
    (let a := 2 ^ 128
     let b := 343987798952690256687074238090730651113
     a ^ 64 ≤ 2 ^ (8192 + 0) ∧ 2 ^ (8192 + 0) < (a + 1) ^ 64 ∧ b ^ 64 ≤ 2 ^ (8193 + 0) ∧ 2 ^ (8193 + 0) < (b + 1) ^ 64) ∧
    (let a := 64 * 2 ^ 128 / 127
     let b := 4096 * 2 ^ 128 / (127 * 128)
     a * (64 + 63) ≤ 64 * 2 ^ 128 ∧ 64 * 2 ^ 128 < (a + 1) * (64 + 63) ∧
       b * ((64 + 63) * (65 + 63)) ≤ 4096 * 2 ^ 128 ∧ 4096 * 2 ^ 128 < (b + 1) * ((64 + 63) * (65 + 63))) ∧
    (let a := 170809717208556588789196953260572734436
     let b := 2 ^ 127
     a ^ 2 * (32 + 95) ≤ 32 * 2 ^ 256 ∧ 32 * 2 ^ 256 < (a + 1) ^ 2 * (32 + 95) ∧
       b ^ 2 * (33 + 95) ≤ 32 * 2 ^ 256 ∧ 32 * 2 ^ 256 < (b + 1) ^ 2 * (33 + 95)) := by decide +kernel

/-- A number of the layout is its own rounding. -/
theorem exact_rounded (x : Nat) (hx : x < 2 * fp32.signBit) (hf : isFinite fp32 x = true)
    (hb : 2 * (floatUnits fp32 x * 2 ^ 298).natAbs < 2 * topUnits fp32 + lastUnit fp32)
    (hs : floatUnits fp32 x * 2 ^ 298 ≠ 0 → signOf fp32 x = decide (floatUnits fp32 x * 2 ^ 298 < 0)) :
    RoundedRne fp32 (floatUnits fp32 x * 2 ^ 298) (x, noFlags) := by
  unfold RoundedRne
  rw [if_pos hb]
  refine ⟨⟨⟨⟨hx, hf⟩, fun z _ => ?_⟩, hs⟩, rfl, rfl, ⟨fun h => (by cases h), fun h => absurd rfl h.1⟩⟩
  simp only [Int.sub_self, Int.natAbs_zero, Nat.zero_le, true_and]
  intro h1 h2
  exact absurd (Int.sub_eq_zero.mp (Int.natAbs_eq_zero.mp h2)) h1

theorem witness_TableInterpolation_rounded :
    let own := fun (x : Nat) => RoundedRne fp32 (floatUnits fp32 x * 2 ^ 298) (x, noFlags)
    own 0x427C0000 ∧ own 0x42800000 ∧ own 0xBF800000 :=
  ⟨exact_rounded _ (by decide +kernel) (by decide +kernel) (by decide +kernel) (by decide +kernel),
    exact_rounded _ (by decide +kernel) (by decide +kernel) (by decide +kernel) (by decide +kernel),
    exact_rounded _ (by decide +kernel) (by decide +kernel) (by decide +kernel) (by decide +kernel)⟩

/-- A table over [0, 64) with the knots 1 and differences 1 that extends at both ends, and one at reset: x = 63, 64 and −1. -/
theorem witness_TableInterpolation :
    (∀ t ∈ [TableBuf.zero, ⟨0, 0, true, true, List.replicate 65 0x3F800000, List.replicate 64 0x3F800000⟩],
      ∀ x ∈ [0x427C0000, 0x42800000, 0xBF800000],
        isFinite fp32 x = true ∧ isFinite fp32 t.lo = true ∧ -20 ≤ t.wlog ∧ t.wlog ≤ 20 ∧ (fSub fp32 x t.lo).1 = x ∧
          floatUnits fp32 x * 2 ^ (298 - t.wlog).toNat = floatUnits fp32 x * 2 ^ 298 ∧ isFinite fp32 (t.knot 63) = true ∧
          isFinite fp32 (t.diff 63) = true) ∧
    floatUnits fp32 0x427C0000 < 64 * 2 ^ 298 ∧ floatUnits fp32 0x42800000 = 64 * 2 ^ 298 ∧ floatUnits fp32 0xBF800000 < 0 ∧
    signOf fp32 0xBF800000 = true ∧ signOf fp32 0x42800000 = false := by decide +kernel

/-! ### Witnesses: engines, semaphores, channels -/

theorem witness_MatrixCommandsHeld : Fires2 twoScalars (firing twoScalars) .always 0x2000 7 ∧
    freeEntries twoScalars 0 0 ≠ 0 ∧ asScalar (firing twoScalars).p = some 1 := by
  unfold Fires2 Fires1 Fires
  decide +kernel

theorem witness_CopiesReadRecord : (0x2000 : Nat) % 64 = 0 ∧ freeEntries twoScalars 0 0 ≠ 0 ∧
    OwnRead twoScalars two 0x2000 64 :=
  ⟨by decide, by decide +kernel, twoScalars_ownRead _ _ (by decide) (by decide)⟩

/-- An engine command of core 0 for tests: it has neither a sheaf nor bytes in the backlog. -/
def command (kind : CmdKind) (l r p : Word) : Cmd :=
  { id := 1, kind := kind, l := l, r := r, p := p, record := [], time := 0, sheaf := none, core := 0, slot := 0, inc := 0,
    asid := 0, nrank := 1, round := .rne, nanTrap := false, slack := 128, stream := .none, backlog := 0, commit := 0, mode := 0,
    shapes := [], stop := none, col := false }

/-- Both command-buffer entries of slot 0 taken. -/
def fullBuffer : State :=
  withCore { Core.reset with cmds := [(0, command .mzr 0 0 0), (1, command .mzr 0 0 0)] } twoScalars

theorem witness_FullCommandBufferParks : Fires2 fullBuffer (firing fullBuffer) .always 0x2000 7 ∧
    freeEntries fullBuffer 0 0 = 0 := by
  unfold Fires2 Fires1 Fires
  decide +kernel

/-- SACQ of amount 2 on semaphore 63, which holds 2, or 1. -/
def semaphored (n : Nat) : State :=
  withCore { Core.reset with sems := [(63, { Sem.reset with count := BitVec.ofNat 32 n })] }
    (operands (.scalar 0x2003F) (.scalar 9) .null)

theorem witness_SemaphoreAcquires :
    Fires1 (semaphored 2) (firing (semaphored 2)) .always 0x2003F ∧ InProgress (firing (semaphored 2)) ∧
    available (semaphored 2) 0 63 = 2 ∧ nanPending (semAt (coreAt (semaphored 2) 0) 63) = false ∧
    Fires1 (semaphored 1) (firing (semaphored 1)) .always 0x2003F ∧ InProgress (firing (semaphored 1)) ∧
    available (semaphored 1) 0 63 < 2 ∧ asScalar (firing (semaphored 1)).r = some 9 ∧ (semaphored 1).tick ≤ 9 ∧
    (let s := { semaphored 1 with tick := 10, mem := [⟨launchPa 0 0 0x81, 0x30⟩] }
     Fires1 s (firing s) .always 0x2003F ∧ InProgress (firing s) ∧ available s 0 63 < 2 ∧ 9 < s.tick ∧
       (firing s).th.hndl = false ∧ word64At s (launchPa 0 0 0x80) ≠ 0) := by
  unfold Fires1 Fires InProgress
  decide +kernel

theorem witness_SleepUntilTick : Fires1 twoScalars (firing twoScalars) .always 0x2000 ∧ twoScalars.tick < 0x2000 ∧
    (let s := { twoScalars with tick := 0x2000 }
     Fires1 s (firing s) .always 0x2000 ∧ 0x2000 ≤ s.tick) := by
  unfold Fires1 Fires
  decide +kernel

/-- Bindings of Q7 and Q0: with two scalars, and in a core whose neighbour to the north is missing. -/
theorem witness_ChannelBindings : Fires twoScalars (firing twoScalars) .always ∧ claimedCredits twoScalars 0 7 = 0 ∧
    asScalar (firing twoScalars).l = some 0x2000 ∧ asScalar (firing twoScalars).r = some 7 ∧ neighbour 0 0 = none := by
  unfold Fires
  decide +kernel

/-- Core 0 with its input Q0 bound to the east and an entry there, its output Q4 bound to the east, matched by core 1. -/
def piped (buf far : List PipeEntry) : State :=
  { operands (.scalar 3) .null .null with
    cores := [(0, { Core.reset with chans := [(0, { Channel.reset with bind := .pipe 1 4, buf := buf }),
                                              (4, { Channel.reset with bind := .pipe 1 0 })] }),
              (1, { Core.reset with chans := [(0, { Channel.reset with bind := .pipe 3 4, buf := far }),
                                              (4, { Channel.reset with bind := .pipe 3 0 })] })] }

theorem witness_ChannelTransfers :
    let full := piped [⟨.scalar 5, none, 0, 0, false⟩] []
    let none_ := piped [] (List.replicate 8 ⟨.scalar 5, none, 0, 0, false⟩)
    fireAt full = some (firing full) ∧ (chanAt (coreAt full 0) 0).bind = .pipe 1 4 ∧ (chanAt (coreAt full 0) 0).preload = [] ∧
    latched (firing full).th 3 = none ∧ (chanAt (coreAt full 0) 0).buf = [⟨.scalar 5, none, 0, 0, false⟩] ∧
    matchedPeer full 0 0 = some (1, 4) ∧ (chanAt (coreAt full 0) 4).bind = .pipe 1 0 ∧ 0 < freeCredits full 0 4 ∧
    (firing full).l ≠ .null ∧ fireAt none_ = some (firing none_) ∧ (chanAt (coreAt none_ 0) 0).buf = [] ∧
    freeCredits none_ 0 4 = 0 := by decide +kernel

/-! ### Witnesses: fences, time, sheaves, tasks, cells, traps -/

theorem witness_FenceHeld : Fires twoScalars (firing twoScalars) .onTrue := by
  unfold Fires
  decide +kernel

/-- In sheaf 7 at time 9: before and after it, below and above the frontier; and outside a sheaf. -/
theorem witness_TimeInstructions :
    (let s := inSheaf 9 (.scalar 8) .null .null
     Fires1 s (firing s) .always 8 ∧ (firing s).th.noSheaf = false ∧ (8 : Nat) < (firing s).th.ltime.toNat ∧
       (frontierAt s 0 7).toNat ≤ 8) ∧
    (let s := withCore { Core.reset with fronts := [(7, 9)] } (inSheaf 9 (.scalar 8) .null .null)
     Fires1 s (firing s) .always 8 ∧ (8 : Nat) < (firing s).th.ltime.toNat ∧ 8 < (frontierAt s 0 7).toNat) ∧
    (let s := inSheaf 9 (.scalar 9) .null .null
     Fires1 s (firing s) .always 9 ∧ (firing s).th.ltime.toNat ≤ 9) ∧
    Fires1 twoScalars (firing twoScalars) .always 0x2000 ∧ (firing twoScalars).th.noSheaf = true := by
  unfold Fires1 Fires
  decide +kernel

theorem witness_SheafInstructions :
    (let s := inSheaf 9 (.scalar 8) (.scalar 7) (.scalar 8)
     Fires s (firing s) .always ∧ (firing s).th.noSheaf = false ∧ asScalar (firing s).l = some 8 ∧
       asScalar (firing s).r = some 7 ∧ asScalar (firing s).p = some 8 ∧ (firing s).th.pins = 0) ∧
    Fires twoScalars (firing twoScalars) .always ∧ (firing twoScalars).th.noSheaf = true ∧
    asScalar (firing twoScalars).l = some 0x2000 ∧ asScalar (firing twoScalars).r = some 7 ∧
    asScalar (firing twoScalars).p = some 1 := by
  unfold Fires
  decide +kernel

theorem witness_TaskInstructions :
    (let s := inSheaf 9 (.scalar 8) (.scalar 7) .null
     Fires s (firing s) .always ∧ asScalar (firing s).l = some 8 ∧ asScalar (firing s).r = some 7 ∧
       (firing s).th.noSheaf = false) ∧
    (let s := inSheaf 9 (.scalar 8) (lanes 7) .null
     (firing s).r = .vec (splat32 7) (BitVec.allOnes 64) ∧ asScalar (firing s).l = some 8) := by
  unfold Fires
  decide +kernel

/-- Cell 63, whose home is core 0, with scalars and with a vector. -/
theorem witness_CellRequests :
    (let s := operands (.scalar 63) (.scalar 64) (.scalar 9)
     Fires1 s (firing s) .always 63 ∧ cellNamed 63 = some (0, 63) ∧ asScalar (firing s).r = some 64 ∧
       asScalar (firing s).p = some 9) ∧
    (let s := operands (.scalar 63) (lanes 4) (.scalar 9)
     (firing s).r = .vec (splat32 4) (BitVec.allOnes 64) ∧ (asScalar (firing s).r).isSome = true) := by
  unfold Fires1 Fires
  decide +kernel

/-- A handler address in the launch page of slot 0. -/
def handled : State := { twoScalars with mem := [⟨launchPa 0 0 0x81, 0x30⟩] }

theorem witness_TrapEntry : Fires1 handled (firing handled) .always 0x2000 ∧ InProgress (firing handled) ∧
    (firing handled).th.hndl = false ∧ word64At handled (launchPa 0 0 0x80) = 0x3000 ∧
    Fires1 twoScalars (firing twoScalars) .always 0x2000 ∧ InProgress (firing twoScalars) ∧
    word64At twoScalars (launchPa 0 0 0x80) = 0 := by
  unfold Fires1 Fires InProgress
  decide +kernel

/-- In a handler, with the latch of the trapped block. -/
def trapped : State :=
  withThread { operandThread (.scalar 0x2000) .null .null with trap := some ⟨0x1000, 0, [], [], []⟩, hndl := true } State.reset

theorem witness_TrapReturnAndHalt : Fires trapped (firing trapped) .always ∧ (firing trapped).b.exit = none ∧
    asScalar (firing trapped).l = some 0x2000 ∧ (firing trapped).th.trap = some ⟨0x1000, 0, [], [], []⟩ ∧
    Fires twoScalars (firing twoScalars) .always ∧ (firing twoScalars).th.trap = none ∧
    pinsAfter (firing twoScalars) = 0 ∧ opensAfter (firing twoScalars) = 0 := by
  unfold Fires
  decide +kernel

/-- A service thread at an offset that is no register, at one that is not aligned, and at SVCENTRY. -/
def serving (off : Word) : State :=
  withThread { operandThread (.scalar off) (.scalar 8) .null with service := true } State.reset

theorem witness_SystemInstructions : Fires1 (serving 0x1004) (firing (serving 0x1004)) .always 0x1004 ∧
    (firing (serving 0x1004)).th.service = true ∧ asScalar (firing (serving 0x1004)).r = some 8 ∧
    (sysReg (sysPlace 0x0900) true).isNone = false := by
  unfold Fires1 Fires
  decide +kernel

theorem witness_SystemNeedsService : Fires2 twoScalars (firing twoScalars) .always 0x2000 7 ∧ InProgress (firing twoScalars) ∧
    (firing twoScalars).th.service = false := by
  unfold Fires2 Fires1 Fires InProgress
  decide +kernel

/-! ### Witnesses: blocks and memory -/

/-- A block whose instruction 3 has fired and waits for its token, with an exit or without one. -/
def awaiting (x : Option ExitFired) : Block :=
  let b := operandBlock .null .null .null
  { b with fired := b.fired ++ [⟨3, 0, 511, 511⟩], exit := x }

def awaitingState (x : Option ExitFired) : State :=
  withThread { operandThread .null .null .null with block := some (awaiting x) } State.reset

/-- The token completes a block with an exit; in a block with an instruction that has not fired it does not. -/
theorem witness_TokensDelivered :
    (let s := awaitingState (some ⟨3, false, 0x2000⟩)
     let x := awaiting (some ⟨3, false, 0x2000⟩)
     threadAt s 0 0 = some { operandThread .null .null .null with block := some x } ∧ x.gen = 0 ∧ x.stopped = false ∧
       x.exit ≠ none ∧ isComplete { x with done := x.done ++ [(3, .null, .null)] } = true ∧
       s.agenda.all fun e => decide (e.2 ≠ .blockCommit 0 0 0)) ∧
    (let x := { operandBlock .null .null .null with done := [] }
     x.exit = none ∧ isComplete { x with done := x.done ++ [(0, .null, .null)] } = false) := by decide +kernel

/-- A block whose instruction 3 is w and waits for the last bytes of an access of a kind, or for an answer. -/
def waitingFor (w : Nat) (kind : AccKind) (op : AccOp) (got : List (Nat × Byte)) : Block :=
  { awaiting (some ⟨2, false, 0x2000⟩) with
    words := (operandBlock .null .null .null).words.take 3 ++ [BitVec.ofNat 32 w],
    pend := [(3, ⟨⟨3, kind, op, false, 8, [], [], 128, .none, none⟩, [], got, 1, 0⟩)] }

def waitingState (b : Block) : State :=
  withThread { operandThread .null .null .null with block := some b, retry := some ⟨0x1000, 0, [0], [], [3]⟩ } State.reset

theorem waiting_awaits (w : Nat) (kind : AccKind) (op : AccOp) (got : List (Nat × Byte)) :
    Awaits (waitingState (waitingFor w kind op got)) ⟨0, 0, 0, 3⟩ (waitingFor w kind op got)
      ⟨⟨3, kind, op, false, 8, [], [], 128, .none, none⟩, [], got, 1, 0⟩ :=
  ⟨⟨rfl, rfl, rfl⟩, rfl⟩

/-- Byte j of the data is j: of a whole access, of the live element of a gather at its place, and of both images. -/
def counted (off n : Nat) : List (Nat × Byte) := (List.range n).map fun j => (off + j, BitVec.ofNat 8 (off + j))

theorem counted_whole (off n : Nat) : ((([] : List (Nat × Byte)) ++ counted off n).map (·.1)).Nodup ∧
    ∀ j, j < n → (off + j, BitVec.ofNat 8 (off + j)) ∈ [] ++ counted off n :=
  ⟨by
    have h : ((List.range n).map fun j => off + j).Nodup := List.Nodup.map (fun a b h => Nat.add_left_cancel h) List.nodup_range
    simpa [counted, Function.comp_def] using h,
   fun j hj => by simpa [counted] using hj⟩

theorem witness_BytesDelivered :
    elemWidth false / 8 * 31 = 124 ∧ (tableOfImage ((List.range 276).map fun _ => 0)).isSome = true ∧
    tableOfImage ((List.range 276).map fun j => BitVec.ofNat 8 j) = none := by decide +kernel

/-- LDS, and STS, in the retry latch; CSTAT, CRD, CREL, CCMT and CBIND that wait for their home. -/
theorem witness_AnswersDelivered :
    (let s := waitingState (waitingFor 0 .atomic .lds [])
     (threadAt s 0 0).bind (·.retry) = some ⟨0x1000, 0, [0], [], [3]⟩ ∧ AccOp.lds ≠ .read ∧ AccOp.sts 9 ≠ .read) ∧
    opOf 0xF600FE05 = 0x7B ∧ opOf 0xF200FE05 = 0x79 ∧ xhiOf 0xF200FE05 = 0 ∧ xhiOf 0xF210FE05 ≠ 0 ∧ opOf 0xF000FE05 = 0x78 := by
  decide +kernel

theorem witness_NoExitFaults :
    let s := awaitingState none
    let f : Fire := ⟨0, 0, 0xFF, { operandThread .null .null .null with block := some (awaiting none) }, awaiting none, .null, .null, .null⟩
    threadAt s f.c f.k = some f.th ∧ f.th.block = some f.b ∧ InProgress f ∧ f.b.gen = 0 ∧ f.b.exit = none ∧
    isComplete { f.b with done := f.b.done ++ [(3, .null, .null)] } = true ∧
    s.agenda.all (fun e => decide (e.2 ≠ .blockCommit 0 0 0)) = true := by
  unfold InProgress
  decide +kernel

/-- A block of one BR at 0x1000 of the cistern, and no block at 0x2000. -/
def blockMemory (next : Word) : State :=
  { withThread { Thread.fresh with noSheaf := true, next := next } State.reset with
    mem := [⟨cisternPa 0 0x1003, 0xA0⟩, ⟨cisternPa 0 0x100B, 2⟩] }

theorem witness_BlockLoads :
    (blockMemory 0x1000).slots.length = 1 ∧
    (fetchOf { Thread.fresh with noSheaf := true, next := 0x1000 }).out = 0 ∧
    (match fetchBlockAt (blockMemory 0x1000) 0 0 0 Xfer.none 0x1000 with
      | .ok bs => decide (wordsOf bs = [0xA0000000, 0, 0x02000000])
      | _ => false) = true ∧
    checkBlock { header := 0xA0000000, mask := 0, addr := 0x1000, words := [0x02000000], frame := false, latched := [] } = none ∧
    (match fetchBlockAt (blockMemory 0x2000) 0 0 0 Xfer.none 0x2000 with
      | .ok bs => decide (wordsOf bs = [0, 0, 0])
      | _ => false) = true ∧
    checkBlock { header := 0, mask := 0, addr := 0x2000, words := [0], frame := false, latched := [] } = some (0, 0xFF) ∧
    threadAt (blockMemory 0x2000) 0 0 = some { Thread.fresh with noSheaf := true, next := 0x2000 } ∧
    isFenced (blockMemory 0x2000) 0 = false := by decide +kernel

/-- A block that holds one register write; the boundary of each kind of register. -/
def writing (e : Eff) : State :=
  withThread { operandThread .null .null .null with
    block := some { awaiting (some ⟨3, false, 0x2000⟩) with effs := [(3, e)] } } State.reset

/-- The block of that state, and its exit. -/
def writtenBlock (e : Eff) : Block := { awaiting (some ⟨3, false, 0x2000⟩) with effs := [(3, e)] }

theorem mayCommit_of {s : State} {t : Thread} {b : Block} {x : ExitFired} (h : threadAt s 0 0 = some t) (hb : t.block = some b)
    (hx : b.exit = some x)
    (g : b.stopped = false ∧ isFenced s 0 = false ∧ t.wait ≠ .swapping ∧ popCounts t.retry = [] ∧
      fullTables s 0 (deltasOf (blockCounts s 0 t b x)) (orderedEffs b) = [] ∧ (t.ending = false ∧ t.owed = []) ∧ dequeFits (coreAt s 0) 0 = true ∧
      fenceScope b isRelease = none ∧ (coreAt s 0).fills = [] ∧ (coreAt s 0).sent = [] ∧ creg s 0 0x0F28 = 0 ∧
      (coreAt s 0).cutSeen = false) : MayCommit s 0 0 t b x :=
  { thread := h, block := hb, exit := hx, running := g.1, core := g.2.1, stays := g.2.2.1, slot := by decide, pops := g.2.2.2.1
    fits := g.2.2.2.2.1, lives := g.2.2.2.2.2.1, spills := g.2.2.2.2.2.2.1, release := g.2.2.2.2.2.2.2.1
    fills := g.2.2.2.2.2.2.2.2.1, sent := g.2.2.2.2.2.2.2.2.2.1, preempt := g.2.2.2.2.2.2.2.2.2.2.1
    cut := g.2.2.2.2.2.2.2.2.2.2.2 }

/-- One register write, at the boundary of its kind. -/
theorem witness_CommitWritesRegister :
    (∀ e ∈ [Eff.writeG 63 9, .writeV 15 0 3, .writeS 15 9, .writeSpecial 0x0A 0x107, .writeSpecial 0x17 9],
      MayCommit (writing e) 0 0 { operandThread .null .null .null with block := some (writtenBlock e) } (writtenBlock e)
        ⟨3, false, 0x2000⟩) ∧
    (∀ e, isLoopEnd (writtenBlock e) = false) ∧ ∀ e, 3 < (writtenBlock e).words.length :=
  ⟨fun e he => by
    simp only [List.mem_cons, List.not_mem_nil, or_false] at he
    rcases he with rfl | rfl | rfl | rfl | rfl <;> exact mayCommit_of rfl rfl rfl (by decide +kernel),
    fun e => (by decide : isLoopEnd (awaiting (some ⟨3, false, 0x2000⟩)) = false),
    fun e => (by decide : 3 < (awaiting (some ⟨3, false, 0x2000⟩)).words.length)⟩

/-- A store of one word of the own cistern, and of core 1's. -/
def wordStore (c : Nat) : Eff := .store 31 128 [(cisternPa c 0x2000, 0x2000, 1), (cisternPa c 0x2007, 0x2007, 2)]

theorem witness_CommitReleasesStores :
    MayCommit (writing (wordStore 0)) 0 0 { operandThread .null .null .null with block := some (writtenBlock (wordStore 0)) }
      (writtenBlock (wordStore 0)) ⟨3, false, 0x2000⟩ ∧
    MayCommit (writing (wordStore 1)) 0 0 { operandThread .null .null .null with block := some (writtenBlock (wordStore 1)) }
      (writtenBlock (wordStore 1)) ⟨3, false, 0x2000⟩ ∧
    localOwner (cisternPa 0 0x2000 / 8 * 8) = .cistern 0 0x2000 ∧ localOwner (cisternPa 1 0x2000 / 8 * 8) = .cistern 1 0x2000 ∧
    cisternPa 1 0x2007 / 8 = cisternPa 1 0x2000 / 8 ∧ reaches (writing (wordStore 1)) 0 (.cistern 1 0x2000) = true :=
  ⟨mayCommit_of rfl rfl rfl (by decide +kernel), mayCommit_of rfl rfl rfl (by decide +kernel),
    by decide +kernel⟩

/-- The other effects: a call, the emptying of each kind of register, a command, a loop, a time. -/
theorem witness_CommitAppliesEffect :
    (∀ e ∈ [Eff.call 0x3000, .takeReg 0 63, .takeReg 1 15, .takeReg 2 15, .command (command .mzr 0 0 0),
        .command (command (.copy 0) 0 0 0), .loop 3 0 0x4000, .loop 3 9 0x4000, .advance 5, .setTime 5],
      MayCommit (writing e) 0 0 { operandThread .null .null .null with block := some (writtenBlock e) } (writtenBlock e)
        ⟨3, false, 0x2000⟩) ∧
    (∀ e, (writtenBlock e).sheaf = none) :=
  ⟨fun e he => by
    simp only [List.mem_cons, List.not_mem_nil, or_false] at he
    rcases he with rfl | rfl | rfl | rfl | rfl | rfl | rfl | rfl | rfl | rfl <;>
      exact mayCommit_of rfl rfl rfl (by decide +kernel),
    fun _ => rfl⟩

/-- A push to a matched standpipe, and a member of sheaf 7 at time 3 that advances to 5. -/
def pushing : State :=
  { piped [] [] with slots := (writing (.push 4 (1, 0) (.scalar 5) 128)).slots }

def advancing : State :=
  let b := { writtenBlock (.advance 5) with sheaf := some 7 }
  withThread { operandThread .null .null .null with noSheaf := false, sheaf := 7, ltime := 3, block := some b } State.reset

theorem witness_CommitAppliesEffect_more :
    (let e := Eff.push 4 (1, 0) (.scalar 5) 128
     MayCommit pushing 0 0 { operandThread .null .null .null with block := some (writtenBlock e) } (writtenBlock e)
        ⟨3, false, 0x2000⟩) ∧
    ∃ t b x, MayCommit advancing 0 0 t b x ∧ sheafOf t = some 7 ∧ (coreAt advancing 0).counts = [] ∧ t.ltime = 3 :=
  ⟨mayCommit_of rfl rfl rfl (by decide +kernel), _, _, _,
    mayCommit_of rfl rfl rfl (by decide +kernel), rfl, by decide +kernel, rfl⟩

/-- Also the witness of CommitMergesFlags: a block without effects that has raised OF, as the end of a loop of count 1 and of count 2, left by its exit or by an LPX, and
outside one. -/
def ending (atEnd lpx : Bool) (n : BitVec 32) : State :=
  withThread { operandThread .null .null .null with
    frames := [⟨n, 3, 0x1000, 0x2000⟩]
    block := some { awaiting (some ⟨3, lpx, 0x2000⟩) with flags := flagOf, header := if atEnd then 0xA0604000#32 else 0xA0600000#32 } }
    State.reset

theorem witness_CommitEndsLoop :
    (∀ n ∈ [1#32, 2#32], ∀ lpx : Bool, ∃ t b, MayCommit (ending true lpx n) 0 0 t b ⟨3, lpx, 0x2000⟩ ∧ b.effs = [] ∧
      isLoopEnd b = true ∧ t.frames = [⟨n, 3, 0x1000, 0x2000⟩]) ∧
    ∃ t b, MayCommit (ending false true 1) 0 0 t b ⟨3, true, 0x2000⟩ ∧ b.effs = [] ∧ isLoopEnd b = false ∧ b.flags = flagOf :=
  ⟨fun n hn lpx => by
    simp only [List.mem_cons, List.not_mem_nil, or_false] at hn
    rcases hn with rfl | rfl <;> cases lpx <;> exact ⟨_, _, mayCommit_of rfl rfl rfl (by decide +kernel), rfl, by decide, rfl⟩,
    _, _, mayCommit_of rfl rfl rfl (by decide +kernel), rfl, by decide, rfl⟩

/-- Requests of core 0 for eight bytes of its own cistern at 0x2000. -/
def ownReq (op : AccOp) : Req :=
  ⟨⟨0, 0, 0, 3⟩, op, (List.range 8).map fun j => (j, cisternPa 0 0x2000 + j), 128, false, .none, .own, none⟩

theorem witness_OwnerReads : ((ownReq .lds).bytes.headD (0, 0)).2 = cisternPa 0 0x2000 ∧
    localOwner (cisternPa 0 0x2000) = .cistern 0 0x2000 ∧ isFull State.reset (cisternPa 0 0x2000) = true ∧
    isFull { State.reset with empty := [cisternPa 0 0x2000 / 8] } (cisternPa 0 0x2000) = false := by decide +kernel

/-- A bump counter of capacity 1 with room, and one without; its count is in the low half. -/
theorem witness_OwnerUpdates :
    let s := { State.reset with mem := [⟨cisternPa 0 0x2004, 1⟩] }
    localOwner (cisternPa 0 0x2000) = .cistern 0 0x2000 ∧ (0x2000 : Nat) + 8 ≤ 0x14_0000 ∧
    natAt s (cisternPa 0 0x2000) 8 = 2 ^ 32 ∧ natAt s (cisternPa 0 0x2000) 8 % 2 ^ 32 + 1 ≤ 1 ∧
    ¬ natAt s (cisternPa 0 0x2000) 8 % 2 ^ 32 + 2 ≤ 1 ∧ isFull s (cisternPa 0 0x2000) = true ∧
    isFull { State.reset with empty := [cisternPa 0 0x2000 / 8] } (cisternPa 0 0x2000) = false := by decide +kernel

def storeWord : StoreWord := ⟨0, 0, 5, 0x2000, cisternPa 0 0x2000 / 8, [(0, 1), (7, 2)], 128, false, none, .own, none⟩

theorem witness_StoreWords :
    localOwner (storeWord.word * 8) = .cistern 0 0x2000 ∧ (∀ b ∈ storeWord.bytes, b.1 < 8) ∧
    (storeWord.bytes.map (·.1)).Nodup ∧ creg State.reset 0 0x0208 = 0 ∧
    (let s := withCore { Core.reset with sent := [⟨0, 0, storeWord, true, false, false⟩] } State.reset
     (coreAt s 0).sent = [⟨0, 0, storeWord, true, false, false⟩] ∧ (ownReq .lds).asker = .own ∧ (coreAt s 0).batches = [] ∧ blockAt s 0 0 = none ∧
       threadAt s 0 0 = none) := by decide +kernel

/-- A refused LDS with the limit far away. -/
def refusedState : State :=
  withThread { operandThread .null .null .null with block := some { operandBlock .null .null .null with
    pend := [(3, ⟨⟨3, .atomic, .lds, true, 8, [], [], 128, .none, none⟩, [], [], 1, 0⟩)] } } State.reset

theorem witness_RefusedRequestsRetry :
    (blockAt refusedState 0 0).map (·.gen) = some 0 ∧ (blockAt refusedState 0 0).map (·.stopped) = some false ∧
    (blockAt refusedState 0 0).bind (pendOf · 3) =
      some ⟨⟨3, .atomic, .lds, true, 8, [], [], 128, .none, none⟩, [], [], 1, 0⟩ ∧
    0 + 1 < (creg refusedState 0 0x0200).toNat % 65536 ∧
    ownerOf refusedState ((ownReq .lds).bytes.headD (0, 0)).2 = .cistern 0 0x2000 ∧ isLeaving refusedState 0 0 = false ∧
    reaches refusedState 0 (.cistern 0 0x2000) = true := by decide +kernel

/-- A walk for the page 0x20 whose tables, from XROOT0 on, end in a 2 MiB page that may be read; XROOT0 is the cistern of core 0 in the
one state, GDDR7 of die 0 in the other. -/
def walkState (root : Word) (u : WalkUse) (l : List (Nat × Option Nat)) (asking : Bool) : State :=
  { State.reset with
    mregs := [(0x1000, root)]
    dies := [(0, { Die.reset with walks := [⟨0, 0x20, [(0, 16, u)], true, false, false, l, asking⟩] })] }

/-- A prefetch of that page, which is GDDR7 of die 0, and the entries that its walk has read. -/
def prefetching : WalkUse := .prefetch ⟨0, 0, 0, 3⟩ 0x20_0040 128 .none

def walkedEntries : List (Nat × Option Nat) := [(0x1000, some 0x2001), (0x2000, some 0x3001), (0x3000, some 0x4001), (0x4008, some 0x0B)]

theorem witness_WalksAndWellheads :
    (let s := walkState 0x1001 prefetching [] false
     (dieAt s 0).walks = [⟨0, 0x20, [(0, 16, prefetching)], true, false, false, [], false⟩] ∧
      (match walkPage s [] 0 0x20 with
        | .more pa => decide (localOwner pa = .gddr 0 16)
        | _ => false) = true ∧
      reaches s (unitRouter 0) (.gddr 0 16) = true ∧
      ((wellAt s (wellOf 0 16)).held.filter fun h => h = walkerPool 0).length < 8) ∧
    (let s := walkState 0x1001 prefetching [] true
     (dieAt s 0).walks = [⟨0, 0x20, [(0, 16, prefetching)], true, false, false, [], true⟩]) ∧
    (∀ u ∈ [WalkUse.load 0x20_0000, .engine (.siphon 0 3), prefetching], let s := walkState 0x1001 u walkedEntries false
      (dieAt s 0).walks = [⟨0, 0x20, [(0, 16, u)], true, false, false, walkedEntries, false⟩] ∧
      (match walkPage s walkedEntries 0 0x20 with
        | .leaf e => decide (e = ⟨0, 0x20, 32, 0, true, false, false, false⟩)
        | _ => false) = true ∧
      (coreAt s 0).tlb = [] ∧ ownerOf s (0 + (0x20_0040 - 0x20 * 2 ^ 16)) = .gddr 0 0 ∧
      reaches s 0 (.gddr 0 0) = true ∧ (wellAt s (wellOf 0 0)).held = []) ∧ (0x20_0040 : Nat) / 2 ^ 16 = 0x20 ∧
    (let s := { State.reset with wells := [(0, { Wellhead.reset with queue := [(.access (ownReq .read), 0)] })] }
     (wellAt s 0).queue = [(.access (ownReq .read), 0)] ∧ (wellAt s 0).stopped = false) := by decide +kernel

/-! ### Witnesses: engines, waits, channels -/

theorem witness_CommandsHandedOver :
    (let s := withCore { Core.reset with cmds := [(0, command (.copy 0) 0 0 0)] } State.reset
     (coreAt s 0).cmds = [(0, command (.copy 0) 0 0 0)] ∧ isCopy (command (.copy 0) 0 0 0) = true ∧
       leastSiphon s (dieOf 0) (List.range 16) = some 0) ∧
    (let s := withCore { Core.reset with cmds := [(0, command .mzr 0 0 0)] } State.reset
     (coreAt s 0).cmds = [(0, command .mzr 0 0 0)] ∧ isCopy (command .mzr 0 0 0) = false ∧ (coreAt s 0).mu.queue.length < 16) ∧
    (let s := withCore { Core.reset with mu := { MatrixUnit.reset with staged := [(0, ⟨some (command (.mma false) 0 0 0), true⟩)] } }
       State.reset
     mget Staged.reset (coreAt s 0).mu.staged 0 = ⟨some (command (.mma false) 0 0 0), true⟩) := by decide +kernel

/-- A run of bytes of the cistern of core c, at its own virtual address. -/
def stretch (c va n : Nat) : Stretch := ⟨va, n, cisternPa c va⟩

/-- A copy of one FP32 element: its record names the shape records at 0x2000 and 0x2040 and a box of one element. -/
def copied (shapes : List Byte) : Cmd :=
  { command (.copy 0) 0 0 0 with
    record := [0, 0x20, 0, 0, 0, 0, 0, 0, 0x40, 0x20] ++ List.replicate 38 0 ++ [1] ++ List.replicate 15 0, shapes := shapes }

/-- A shape record of one FP32 element whose base lies at 256 times b. -/
def oneElement (b : Byte) : List Byte :=
  [0, b] ++ List.replicate 30 0 ++ [1] ++ List.replicate 15 0 ++ [1] ++ List.replicate 15 0

/-- Both shape records, from 0x3000 to 0x3800, have come. -/
def recordsCome : Xfer :=
  { Xfer.none with reads := [stretch 0 0x2000 128], asked := 1, got := [(cisternPa 0 0x2000, oneElement 0x30 ++ oneElement 0x38)] }

/-- The same with the element's bytes located in the cistern. -/
def allLocated : Xfer := { recordsCome with reads := recordsCome.reads ++ [stretch 0 0x3000 4], asked := 2, dests := [stretch 0 0x3800 4] }

/-- The head of siphon 0 before its start. -/
def beforeStart (x : Xfer) : State := { State.reset with siphons := [(0, ⟨[copied []], false, x⟩)] }

/-- The start of a copy whose records are zero ends with a fault, the other one begins, or waits at a core whose table is full. -/
theorem witness_SiphonStarts :
    (let x := { recordsCome with got := [] }
     let s := beforeStart x
     AllCome x ∧ located s (.siphon 0 1) (copied []) (recordRanges (copied [])) [] = (x, []) ∧
       (startedCmd s { copied [] with r := 0x40 } x).stop.isSome = true) ∧
    (let s := beforeStart allLocated
     let d := startedCmd s (copied []) allLocated
     let copy := copyOf d allLocated
     let moves := plannedMoves s copy
     AllCome allLocated ∧ s.delays = [] ∧
       located s (.siphon 0 1) (copied []) (recordRanges (copied [])) [] = (allLocated, []) ∧ d.stop = none ∧
       located s (.siphon 0 1) d (listRanges copy) [] = (allLocated, []) ∧ headersFault copy = none ∧
       located s (.siphon 0 1) d (sourceRanges copy moves.1) (destRanges copy moves.2 ++ headerRanges copy) = (allLocated, []) ∧
       locksFit s (lockEntries 1 (readPas allLocated (sourceRanges copy moves.1)) (writePas allLocated (destRanges copy moves.2))) =
         true) := by
  unfold AllCome
  decide +kernel

theorem witness_CopiesComplete :
    (let x := { recordsCome with withheld := true }
     (siphonAt { State.reset with siphons := [(0, ⟨[copied []], true, x⟩)] } 0) = ⟨[copied []], true, x⟩ ∧ x.withheld = true ∧
       (copied []).r.toNat.testBit 8 = false) ∧
    (let x := { recordsCome with result := some Moved.none }
     x.withheld = false ∧ (copied []).stop = none ∧ x.result = some Moved.none ∧ x.out = 0 ∧ { x with out := 1 }.out ≠ 0) := by
  decide +kernel

/-- One FP32 element, read at 0x3000 of core 0 and written at 0x3800 of core 1. -/
theorem witness_CopyOfOneElement :
    let c := copied (oneElement 0x30 ++ oneElement 0x38)
    let x := { allLocated with dests := [⟨0x3800, 4, cisternPa 1 0x3800⟩], got := [] }
    let s := { State.reset with siphons := [(0, ⟨[c], true, x⟩)] }
    let copy := copyOf c x
    siphonAt s 0 = ⟨[c], true, x⟩ ∧ AllCome x ∧ c.stop = none ∧ c.kind = .copy 0 ∧ fmtOf copy.src.fmt = some .fp32 ∧
    copy.dst.fmt = copy.src.fmt ∧ copy.src.ndim = 0 ∧ copy.dst.ndim = 0 ∧ copy.bx 0 = 1 ∧ copy.og 0 < copy.src.extent 0 ∧
    0 < copy.dst.extent 0 ∧
    (match gotBytes x [] (copy.src.base.toNat + 4 * (copy.og 0 * copy.src.stride 0)) 4, destPas x none copy.dst.base.toNat 4 with
      | .ok bs, .ok ps => decide (bs = [0, 0, 0, 0]) && decide ps.Nodup && ps.all fun p => decide (p / 8 = cisternPa 1 0x3800 / 8)
      | _, _ => false) = true ∧
    ownerOf s (cisternPa 1 0x3800 / 8 * 8) = .cistern 1 0x3800 ∧
    reaches s (engineRouter (.siphon 0 c.id)) (.cistern 1 0x3800) = true ∧ 1 ≠ engineRouter (.siphon 0 c.id) := by
  unfold AllCome
  decide +kernel

/-- A matrix command at the head of the queue of core 0, of whose bytes those at 0x2000 have come, all zero. -/
def withQueue (x : Cmd) (io : Xfer) : State :=
  withCore { Core.reset with mu := { MatrixUnit.reset with queue := [x], busy := true, xfer := io } } State.reset

def weightsCome : Xfer := { Xfer.none with reads := [stretch 0 0x2000 4096], asked := 1 }

theorem witness_MatrixUnitWrites :
    (∀ x ∈ [command .mprog 0 0 0, command .mzr 5 0 0, command (.mmov .aa) 3 0 0, command (.mres true) 0 0 0],
      let s := withQueue x Xfer.none
      (coreAt s 0).mu.queue = [x] ∧ x.core = 0 ∧ (coreAt s 0).mu.busy = true ∧ AllCome (coreAt s 0).mu.xfer ∧
        matrixBlocked s x (coreAt s 0).mu.xfer = false) ∧
    (let x := command (.mlw false) 0x2000 0 0
     let s := withQueue x weightsCome
     AllCome weightsCome ∧ matrixBlocked s x weightsCome = false ∧
       (match weightRows weightsCome x false (List.range 32) with
        | .ok _ => true
        | .error _ => false) = true) := by
  unfold AllCome
  decide +kernel

/-- MMA and MST of one row at 0x2000. -/
def oneRow (k : CmdKind) : Cmd := command k 0x2000 0 0

/-- The row of an MST located in the cistern of a core. -/
def rowOut (c : Nat) : Xfer := { Xfer.none with dests := [⟨0x2000, storeRowBytes 0, cisternPa c 0x2000⟩] }

theorem witness_MatrixUnitRows :
    (let x := oneRow (.mma false)
     let s := withQueue x weightsCome
     (coreAt s 0).mu.queue = [x] ∧ x.core = 0 ∧ ctlRows x.r.toNat = 1 ∧ x.nanTrap = false ∧ AllCome weightsCome ∧
      matrixBlocked s x weightsCome = false ∧
      (match streamRow weightsCome false x.l.toNat x.r.toNat x.p.toNat 0 with
        | .ok _ => true
        | .error _ => false) = true) ∧
    (∀ c ∈ [0, 1], let x := oneRow .mst
     let s := withQueue x (rowOut c)
     AllCome (rowOut c) ∧ matrixBlocked s x (rowOut c) = false ∧ reaches s 0 (.cistern c 0) = true ∧
      reaches s 0 (.cistern c 0x2000) = true ∧ ownerOf s (cisternPa c 0x2000 / 8 * 8) = .cistern c 0x2000 ∧
      (match destPas (rowOut c) none x.l.toNat (storeRowBytes x.r.toNat) with
        | .ok ps => decide ps.Nodup && ps.all fun p => decide (localOwner p = .cistern c (p - cisternPa c 0)) &&
            decide (p / 8 = cisternPa c 0x2000 / 8)
        | .error _ => false) = true) := by
  unfold AllCome
  decide +kernel

/-- A SACQP whose promise of tick 5 has passed. -/
def promised : State :=
  { withThread { operandThread .null .null .null with wait := .semaphore 63 2 (some 5), block := some { operandBlock .null .null .null with
      words := (operandBlock .null .null .null).words.take 3 ++ [0xD400FE05#32] } } State.reset with
    tick := 6, mem := [⟨launchPa 0 0 0x81, 0x30⟩] }

theorem witness_WaitsEnd :
    (let f := firing promised
     threadAt promised f.c f.k = some f.th ∧ f.th.block = some f.b ∧ f.b.stopped = false ∧ f.k < 16 ∧
      f.th.wait = .semaphore 63 2 (some 5) ∧ (5 : Nat) < promised.tick ∧ available promised f.c 63 < 2 ∧ f.th.hndl = false ∧
      word64At promised (launchPa f.c f.k 0x80) ≠ 0 ∧ parkedIndex promised f.c f.k = f.i) ∧
    (let t := { operandThread .null .null .null with wait := .sleep 6 }
     let s := withThread t promised
     threadAt s 0 0 = some t ∧ t.wait = .sleep 6 ∧ 6 ≤ s.tick) ∧
    (let t := { Thread.fresh with wait := .yielding 0 }
     threadAt (withThread t State.reset) 0 0 = some t ∧ 0 ≤ State.reset.cycle ∧ t.waits = []) := by decide +kernel

theorem witness_ChannelEvents :
    (chanAt (coreAt (piped [] []) 1) 0).bind = .pipe 3 4 ∧ neighbour 1 3 = some 0 ∧ (chanAt (coreAt State.reset 1) 0).bind = .none ∧
    (let s := withCore { Core.reset with chans := [(3, { Channel.reset with bind := .stream 0x2000 8 2 1 false })] } State.reset
     (chanAt (coreAt s 0) 3).bind = .stream 0x2000 8 2 1 false ∧ (chanAt (coreAt s 0) 3).ahead = [] ∧
       streamAddr 0x2000 8 1 false = some 0x2008) := by decide +kernel

/-! ### Witnesses: messages of threads, stealing, dispatch -/

/-- A FILL of core 0 for G63 of a thread, whose register is empty in one state and full in the other. -/
def fillMsg : TaskMsg := ⟨0, 0, 0, 0, 0, false, 0, some 15, .scalar 9, 0, none, 128, false, false, false⟩

def fillThread (full : Bool) : Thread := { Thread.fresh with noSheaf := true, g := [(63, (0, full))], wait := .parked }

theorem witness_FillArrives :
    fillMsg.src = fillMsg.core ∧ fillMsg.sel = some 15 ∧ fillMsg.value = .scalar 9 ∧
    threadAt (withThread (fillThread false) State.reset) 0 0 = some (fillThread false) ∧
    (fillThread false).incarn.toNat = fillMsg.inc ∧ fillMsg.sheaf = none ∧ fillMsg.ack = false ∧
    fillMsg.fault = false ∧ fillFull (fillThread false) 15 = false ∧ fillFull { fillThread false with g := [] } 15 = true := by decide +kernel

theorem witness_WakeAndReport :
    (let t := { fillThread false with wait := .parked }
     threadAt (withThread t State.reset) 0 0 = some t ∧ t.incarn.toNat = fillMsg.inc ∧ t.waits = []) ∧
    (let t := { fillThread false with wait := .nothing }
     threadAt (withThread t State.reset) 0 0 = some t ∧ t.wait ≠ .parked) ∧
    (0x1000 ≤ 8 * 0x200 ∧ 8 * 0x24DFF + 8 ≤ 0x12_7000) := by decide +kernel

/-- A thread that waits for the acknowledgement of a fault, outside a sheaf, with a handler. -/
def faulted : Thread :=
  { Thread.fresh with
    noSheaf := true, wait := .fault, retry := some ⟨0x1000, 0, [], [], []⟩,
    block := some { operandBlock .null .null .null with stopped := true } }

theorem witness_FaultAcknowledged :
    let s := { withThread faulted State.reset with mem := [⟨launchPa 0 0 0x81, 0x30⟩] }
    threadAt s 0 0 = some faulted ∧ faulted.wait = .fault ∧ faultSettled s 0 0 faulted = true ∧ faulted.waits = [] ∧
    stopsForCut s 0 0 = false ∧ faulted.hndl = false ∧ word64At s (launchPa 0 0 0x80) ≠ 0 := by decide +kernel

/-- A store word of the running thread that comes back as a scope-miss, alone and with another one of its commit. -/
theorem witness_ScopeMissed :
    let w : SentWord := { word := storeWord, inc := 0, commit := 0, missed := false, again := false, going := true }
    let y : SentWord := { w with word := { storeWord with sid := 6, tag := some .core, word := cisternPa 1 0x2000 / 8 } }
    let f := { two with i := 0xFF }
    (∀ l ∈ [[w], [w, y]], let s := withCore { Core.reset with sent := l } twoScalars
      threadAt s f.c f.k = some f.th ∧ f.th.block = some f.b ∧ InProgress f ∧ f.th.incarn.toNat = w.inc ∧
      (coreAt s f.c).sent = l ∧ w.word.core = f.c ∧ w.word.slot = f.k ∧ w.missed = false ∧ w.again = false ∧
      reaches s f.c (ownerOf s (w.word.word * 8)) = true ∧
      y.word.sid ≠ w.word.sid ∧ y.word.slot = f.k ∧ y.commit = w.commit ∧
      encScope .core < reachOf f.c (ownerOf s (y.word.word * 8))) := by
  unfold InProgress
  decide +kernel

theorem witness_Steals :
    let s := withCore { Core.reset with deque := [⟨0x1000, 0, 5, 7, true⟩] } State.reset
    (⟨3, 0, none, false⟩ : Steal).entry = none ∧ (coreAt s 0).deque = [⟨0x1000, 0, 5, 7, true⟩] ∧ (coreAt s 0).spillCount = 0 := by
  decide +kernel

/-- Core 0 with all sixteen slots taken. -/
def allRunning : State :=
  { State.reset with slots := (List.range 16).map fun k => (k, { fetchSlot 0x2003FE05 with state := .running }) }

theorem witness_StolenTaskQueued :
    (⟨0, 0, some (0x1000, 0, 5, 7), false⟩ : Steal).entry = some (0x1000, 0, 5, 7) ∧ freeSlots allRunning 0 = [] ∧
    isFenced allRunning 0 = false ∧ (coreAt allRunning 0).deque = [] ∧ (coreAt allRunning 0).spillCount = 0 := by decide +kernel

theorem witness_TaskDispatched :
    (let s := withCore { Core.reset with deque := [⟨0x1000, 0, 5, 7, true⟩] } State.reset
     (coreAt s 0).cache = [] ∧ (coreAt s 0).fills = [] ∧ (coreAt s 0).cutSeen = false ∧ (creg s 0 0x0F00).getLsbD 0 = false ∧
       (freeSlots s 0).head? = some 0 ∧ (coreAt s 0).tasks = [] ∧ (coreAt s 0).deque = [⟨0x1000, 0, 5, 7, true⟩] ∧
       mayDispatch s 7 = true ∧ isFenced s 0 = false) ∧
    hasWork allRunning 0 = false := by decide +kernel

/-! ### Witnesses: cells, swapping, cuts -/

/-- A request of core 0 for cell 63, or for no cell. -/
def cellReq (op : CellOp) (cell : Word) : CellReq := ⟨⟨0, 0, 0, 3⟩, op, cell, 0, none, 0, none, 0, 128, false, 0⟩

/-- Cell 63 of core 0 valid, free and bound to nothing. -/
def celled : State := withCore { Core.reset with cells := [(63, { CellEntry.reset with valid := true })] } twoScalars

theorem witness_CellDecisions :
    cellNamed (cellReq .crd (2 ^ 18)).cell = none ∧ cellNamed (cellReq (.cstat 0 false) 63).cell = some (0, 63) ∧
    isCurrent celled ⟨0, 0, 0, 3⟩ = true ∧
    (match decideCell celled (cellReq (.cstat 0 false) 63) with
      | .answer st _ _ => decide (st = 0)
      | _ => false) = true := by decide +kernel

/-- A cell with two bindings, below the time of a CUNB, has to wait for the older one to go. -/
def twiceBound : State :=
  withCore { Core.reset with cells := [(63, { CellEntry.reset with
    valid := true, sheaf := 7, bva := true, bvb := true, fromA := 1, fromB := 2 })] } (inSheaf 9 .null .null .null)

theorem witness_CellDecisions_wait :
    isCurrent twiceBound ⟨0, 0, 0, 3⟩ = true ∧
    (match decideCell twiceBound { cellReq (.cunb 10) 63 with time := 9, sheaf := some 7 } with
      | .wait => true
      | _ => false) = true := by decide +kernel

/-- A cell instruction on cell 63 of core 0 in sheaf 7 at time 5; that cell, with the fields that a case needs. -/
def cellOn (op : CellOp) : CellReq := { cellReq op 63 with time := 5, sheaf := some 7 }

def cellWith (e : CellEntry) (fronts : List (Nat × Word)) : State :=
  withCore { Core.reset with cells := [(63, { e with valid := true, sheaf := 7 })], fronts := fronts } twoScalars

theorem cellOn_own (op : CellOp) (e : CellEntry) (fr : List (Nat × Word)) : OwnCell (cellWith e fr) (cellOn op) 63 :=
  ⟨(by decide +kernel : cellNamed (63 : Word) = some (0, 63)), (by decide +kernel : isCurrent twoScalars ⟨0, 0, 0, 3⟩ = true)⟩

/-- An entry that is not valid, a thread of another sheaf, a fenced core, and a CSET on more than 128 bytes. -/
theorem witness_CellRefusals :
    (let s := withCore Core.reset twoScalars
     OwnCell s (cellOn .crd) 63 ∧ (cellAt (coreAt s 0) 63).valid = false) ∧
    (let s := cellWith CellEntry.reset []
     (cellAt (coreAt s 0) 63).valid = true ∧ (cellReq .crd 63).sheaf ≠ some (cellAt (coreAt s 0) 63).sheaf.toNat ∧
       (cellOn .crd).sheaf = some (cellAt (coreAt s 0) 63).sheaf.toNat ∧ isFenced s 0 = false) ∧
    (let s := { cellWith CellEntry.reset [] with mregs := [(0x0920, 1)] }
     (cellOn (.cwr 9)).sheaf = some (cellAt (coreAt s 0) 63).sheaf.toNat ∧
       isFenced (withCore { Core.reset with cells := (coreAt s 0).cells, regs := [(0x0EC8, 1)] } s) 0 = true) ∧
    (let s := { cellWith CellEntry.reset [] with mem := [⟨cisternPa 0 0x20, 33⟩, ⟨cisternPa 0 0x30, 1⟩] }
     128 < tileSize s 0 (cellAt (coreAt s 0) 63) ∧ isFenced s 0 = false) :=
  ⟨⟨⟨by decide +kernel, by decide +kernel⟩, by decide +kernel⟩, by decide +kernel, by decide +kernel, by decide +kernel⟩

/-- A cell with the version of time 3 in X, and one with 0xFFFF pins; the frontier at 9 and at 4. -/
theorem witness_CellReads :
    (∀ n ∈ [(0 : BitVec 16), 0xFFFF], let e : CellEntry := { CellEntry.reset with timeX := 3, pinX := n }
     let s := cellWith e [(7, 9)]
     let x := cellAt (coreAt s 0) 63
     x.valid = true ∧ (cellOn .crd).sheaf = some x.sheaf.toNat ∧ isFenced s 0 = false ∧ (cellOn .crd).pins < 0xFFFF ∧
       (∀ b, blockAt s 0 0 = some b → b.resv = []) ∧ 5 ≤ (frontierAt s 0 7).toNat ∧ 5 < x.stale.toNat ∧ x.wopen = false ∧
       bufTime x false ≠ timeTop ∧ (bufTime x false).toNat ≤ 5 ∧ bufTime x true = timeTop ∧ bufPins x false = n.toNat) ∧
    (let s := cellWith CellEntry.reset [(7, 4)]
     (frontierAt s 0 7).toNat < (cellOn .crd).time.toNat) := by
  refine ⟨fun n hn => ?_, by decide +kernel⟩
  simp only [List.mem_cons, List.not_mem_nil, or_false] at hn
  rcases hn with rfl | rfl <;>
    exact ⟨by decide +kernel, by decide +kernel, by decide +kernel, by decide +kernel, fun b h => by cases h; rfl, by decide +kernel,
      by decide +kernel, by decide +kernel, by decide +kernel, by decide +kernel, by decide +kernel, by decide +kernel⟩

/-- A write that opens the buffer, one under a binding, one in the past, one while the buffer is open, and one while it is pinned. -/
theorem witness_CellWrites :
    (∀ e ∈ [CellEntry.reset, { CellEntry.reset with bva := true, fromA := 0, brecA := 0x40 }, { CellEntry.reset with timeX := 9 },
        { CellEntry.reset with wopen := true, timeY := 8 }, { CellEntry.reset with pinY := 1 }],
      let s := cellWith e [(7, 9)]
      let x := cellAt (coreAt s 0) 63
      x.valid = true ∧ (cellOn (.cwr 9)).sheaf = some x.sheaf.toNat ∧ isFenced s 0 = false ∧ (cellOn (.cwr 9)).task = none) ∧
    (formulaAt { CellEntry.reset with bva := true, fromA := 0, brecA := 0x40 } 9).isSome = true ∧ formulaAt CellEntry.reset 9 = none ∧
    (9 : Word).toNat ≤ (bufTime { CellEntry.reset with timeX := 9 } false).toNat ∧
    { CellEntry.reset with wopen := true, timeY := 8 }.wopen = true ∧ bufPins { CellEntry.reset with pinY := 1 } true ≠ 0 ∧
    tileSize (cellWith CellEntry.reset []) 0 { CellEntry.reset with valid := true, sheaf := 7 } ≤ 128 := by decide +kernel

/-- The open buffer of the thread's own CWR at 9, and a version that the thread has pinned. -/
theorem witness_CellReleases :
    (let e : CellEntry := { CellEntry.reset with wopen := true, timeY := 9, writer := some (0, 0, 0) }
     let s := cellWith e []
     let x := cellAt (coreAt s 0) 63
     x.valid = true ∧ x.wopen = true ∧ x.writer = some (0, 0, (cellOn (.ccmt 9)).inc) ∧ bufTime x (!x.cur) = 9 ∧
       bufTime x (!x.cur) ≠ 8 ∧ { x with writer := none }.writer ≠ some (0, 0, (cellOn (.ccmt 9)).inc)) ∧
    (let s := cellWith { CellEntry.reset with pinX := 1, addrX := 0x80, shape := 0 } []
     let x := cellAt (coreAt s 0) 63
     allResv s = [] ∧ bufPins x false ≠ 0 ∧ bufPins x true = 0 ∧ cellVa s 0 x false ≠ 1 ∧ cellVa s 0 x true ≠ 1 ∧
       (threadAt s 0 0).isSome = true ∧ (threadAt s 0 0).map (·.pins) = some 0) := by decide +kernel

/-- CUNB and CBIND at 9 of a cell with no, one and two bindings; a record with one precedent, another cell of the core and the cell
itself. -/
theorem witness_CellBindings :
    (∀ e ∈ [CellEntry.reset, { CellEntry.reset with bva := true, fromA := 9 },
        { CellEntry.reset with bva := true, bvb := true, fromA := 1, fromB := 6 },
        { CellEntry.reset with bva := true, bvb := true, fromA := 1, fromB := 4 }],
      let s := cellWith e []
      let x := cellAt (coreAt s 0) 63
      x.valid = true ∧ (cellOn (.cunb 9)).sheaf = some x.sheaf.toNat ∧ allResv s = []) ∧
    (let s := { cellWith CellEntry.reset [] with mem := [⟨cisternPa 0 0x2008, 1⟩] }
     (formulaRec s 0 0x80).nprec = 1 ∧ (formulaRec s 0 0x80).precs = [(0, 0)] ∧ cellById s 0 = none) ∧
    (let s := { cellWith { CellEntry.reset with deps := 0x500 } [] with
       mem := [⟨cisternPa 0 0x2008, 1⟩, ⟨cisternPa 0 0x2011, 0xC0⟩, ⟨cisternPa 0 0x2012, 0x0F⟩, ⟨cisternPa 0 0x2802, 8⟩] }
     (formulaRec s 0 0x80).precs = [(cellId 0 63, 0)] ∧ (cellById s 63).isSome = true ∧
       (edgesFit s 0 63 (cellAt (coreAt s 0) 63) (edgesTo 63 (cellId 0 63) (formulaRec s 0 0x80).precs) = true)) := by decide +kernel

def markMsg : MarkMsg := ⟨1, 0, 63, 5, 7, 0, 0, 0, false, 128, false, false⟩

/-- Cell 63 of core 0 bound at time 0 to the record at 0x1000, whose one precedent is cell 1 over edge 0. -/
def bound (e : CellEntry) (tasks : List RecalcTask) : State :=
  { withCore { Core.reset with cells := [(63, e)], tasks := tasks } State.reset with
    mem := [⟨cisternPa 0 0x1008, 1⟩, ⟨cisternPa 0 0x1011, 0x40⟩] }

def boundCell : CellEntry := { CellEntry.reset with valid := true, bva := true, fromA := 0, brecA := 0x40 }

/-- A mark that queues a task, and one that finds it queued. -/
theorem witness_MarkQueuesTask :
    cellHome markMsg.cell = some (0, 63) ∧ isFenced (bound boundCell []) 0 = false ∧
    (∀ q ∈ [[], [⟨63, 5, false, none, true⟩]], let s := bound boundCell q
      (cellAt (coreAt s 0) 63).valid = true ∧ formulaAt (cellAt (coreAt s 0) 63) markMsg.time = some 0x40 ∧
        (formulaRec s 0 0x40).precs.contains (markMsg.source, markMsg.summary) = true) ∧
    markMsg.time ≠ timeTop ∧ (∀ y ∈ (coreAt (bound boundCell []) 0).tasks, y.cell = 63 → y.time ≠ markMsg.time) ∧
    (∃ y ∈ (coreAt (bound boundCell [⟨63, 5, false, none, true⟩]) 0).tasks, y.cell = 63 ∧ y.time = markMsg.time) ∧
    markMsg.core = 0 := by decide +kernel

theorem witness_CellEvents :
    cellHome markMsg.cell = some (markMsg.core, 63) ∧ (cellAt (coreAt State.reset 0) 63).valid = false ∧
    (let t := { Thread.fresh with wait := .marks 2 }
     threadAt (withThread t State.reset) 0 0 = some t ∧ t.waits = []) ∧
    cellRefused celled 0 62 8 1 = false ∧ cellRefused celled 0 63 8 0 = false := by decide +kernel

/-- A thread on its way out of slot 0, and the cache entries of one that may come back. -/
def leaving : Thread := { Thread.fresh with noSheaf := true, wait := .swapping }

def cachedThread : Cached := ⟨{ Thread.fresh with noSheaf := true, parkedOn := .nothing }, 3, 0, 0, 0, true, ResumeRec.reset, 0⟩

theorem witness_Swapping :
    (let s := withThread leaving State.reset
     threadAt s 0 0 = some leaving ∧ mayLeave s 0 0 leaving = true ∧ leaving.ending = false ∧ freeCache s 0 = some 0) ∧
    (let s := withCore { Core.reset with cache := [(31, cachedThread)] } State.reset
     (coreAt s 0).cache = [(31, cachedThread)] ∧ restoreSlot s 0 cachedThread = some 3 ∧
       (readyEntries s 0).contains 31 = true ∧ isFenced s 0 = false ∧ cachedThread.thread.engs = 0 ∧
       cachedThread.thread.opens = 0) := by decide +kernel

/-- All slots parked for longer than PARKTO, with a cached thread that may come back. -/
def parkedState : State :=
  { withCore { Core.reset with cache := [(0, cachedThread)] } State.reset with
    cycle := 0x2_0000,
    slots := (List.range 16).map fun k =>
      (k, { fetchSlot 0 with thread := some { Thread.fresh with noSheaf := true, wait := .parked, since := 0 } }) }

theorem witness_ResumeAndTimeouts :
    (freeSlots State.reset 0).head? = some 0 ∧ isFenced State.reset 0 = false ∧
    (word64At State.reset (cisternPa 0 0x2000)).toNat / 2 ^ 32 % 4096 = 0 ∧
    freeSlots parkedState 0 = [] ∧ hasWork parkedState 0 = true ∧ longestParked parkedState 0 = some (0, 0) ∧
    (let s := withCore { Core.reset with regs := [(0x0F28, 1)] }
        (withThread { Thread.fresh with noSheaf := true, wait := .parked } State.reset)
     (threadAt s 0 0).map (·.wait) = some .parked ∧ (creg s 0 0x0F28).getLsbD 0 = true ∧
       mget 0 (coreAt s 0).preqSince 0 = 0 ∧ (slotAt s 0 0).state = .running) := by decide +kernel

theorem witness_ServiceRegisters :
    svcRefused State.reset 0 1 = false ∧ (1 : Word).getLsbD 0 = true ∧ (slotAt State.reset 0 15).state = .free ∧
    isFenced State.reset 0 = false ∧ (creg State.reset 0 0x0F28).getLsbD 3 = false := by decide +kernel

theorem witness_Cuts :
    (mreg State.reset 0x0820).toNat / 2 ^ 16 = 0 ∧ (5 : Word).getLsbD 12 = false ∧
    (mreg { State.reset with mregs := [(0x0820, 0x1_0005)] } 0x0820).toNat / 2 ^ 16 ≠ 0 ∧
    (mreg { State.reset with mregs := [(0x0820, 0x2_0005)] } 0x0820).toNat / 2 ^ 16 = 2 ∧
    (coreAt State.reset 0).cutSeen = false := by decide +kernel

/-! ### Witnesses: leases, queues -/

/-- The four dies with one lease record each and the record r of queue q. -/
def dies (l : Nat → Lease) (q : Nat) (r : QueueRec) : State :=
  { State.reset with
    dies := (List.range 4).map fun d => (d, { Die.reset with
      running := true, image := true, lease := l d, recs := [(q, r)], known := [(q, r.version)] }) }

/-- Die 0 leads; no die leads. -/
def ledBy0 : Nat → Lease := fun _ => ⟨some 0, 3, 100, 3, 0, []⟩
def leaderless : Nat → Lease := fun _ => ⟨none, 3, 0, 3, 0, []⟩

/-- Die 1 claims epoch 5 with the grants of dies 0 and 1, and gets that of die 2. -/
def claimant : Nat → Lease := fun d => if d = 1 then ⟨none, 3, 0, 5, 6, [0, 1]⟩ else ⟨none, 3, 0, 3, 0, []⟩

/-- A queue of node 9 on die 0 with a ring of eight packets at 0x10000. -/
def activeRec : QueueRec :=
  { QueueRec.reset with version := 4, host := 9, wridx := 1, rdidx := 0, base := 0x10, logsz := 3, owner := 0, prio := 1, state := 1 }

/-- The same with nothing in its ring. -/
def emptyRec : QueueRec := { activeRec with wridx := 0 }

theorem agreed_all {s : State} {q : Nat} {r : QueueRec}
    (h : ((List.range 4).all fun d => decide (recOn s d q = r)) = true) (g : r.owner < 4) (v : r.version < 2 ^ 32) : Agreed s q r :=
  { replicas := fun d hd => by
      have := List.all_eq_true.mp h d (List.mem_range.mpr hd)
      exact of_decide_eq_true this
    owner := g
    version := v }

theorem witness_LeaseTimes :
    leads (dies ledBy0 5 activeRec) 0 = true ∧ dieFenced (dies ledBy0 5 activeRec) 1 = false ∧
    (dieAt (dies ledBy0 5 activeRec) 1).lease.epoch ≤ 3 ∧ 2 < (dieAt (dies ledBy0 5 activeRec) 1).lease.epoch ∧
    (dieAt (dies leaderless 5 activeRec) 0).lease.expiry ≤ State.reset.tick ∧ dieFenced (dies leaderless 5 activeRec) 0 = false ∧
    (dieAt (dies leaderless 5 activeRec) 0).image = true ∧
    State.reset.tick < (dieAt (dies ledBy0 5 activeRec) 0).lease.expiry ∧
    (dieAt (dies claimant 5 activeRec) 1).lease.claim ≠ 0 ∧
    (dieAt (dies claimant 5 activeRec) 1).lease.expiry ≤ State.reset.tick := by decide +kernel

theorem witness_LeaseElection :
    (let s := dies leaderless 0 activeRec
     (dieAt s 0).lease.expiry ≤ s.tick ∧ dieFenced s 0 = false ∧ (dieAt s 0).lease.epoch < 5 ∧ (dieAt s 0).lease.granted < 5) ∧
    (let s := dies ledBy0 0 activeRec
     s.tick < (dieAt s 0).lease.expiry) ∧
    (let s := dies claimant 0 emptyRec
     (dieAt s 1).lease.claim = (5 + 1) % 2 ^ 32 ∧ dieFenced s 1 = false ∧ (mreg s 0x0900).toNat % 4 = 0 ∧
       (mreg s 0x0900).getLsbD 2 = false ∧ (∀ y ∈ s.cores, y.2.mu.queue = []) ∧ emptyRec.rdidx = emptyRec.wridx ∧
       (liveDies s).length < 2 * ((putNat 2 (dieAt s 1).lease.grants).filter fun d => (liveDies s).contains d).length ∧
       emptyRec.owner ≠ 1) := by decide +kernel

theorem witness_LeaseElection_agreed : Agreed (dies claimant 0 emptyRec) 0 emptyRec :=
  agreed_all (by decide +kernel) (by decide) (by decide)

/-- A free queue, a foreign node, a write too far ahead, and one that is taken. -/
theorem witness_Doorbells : QueueRec.reset.state = 0 ∧ activeRec.state ≠ 0 ∧ activeRec.state ≠ 3 ∧ (8 : Nat) ≠ activeRec.host ∧
    2 ^ activeRec.logsz < (9 + 2 ^ 32 - activeRec.rdidx) % 2 ^ 32 ∧ (8 + 2 ^ 32 - activeRec.rdidx) % 2 ^ 32 ≤ 2 ^ activeRec.logsz ∧
    (8 + 2 ^ 32 - activeRec.wridx) % 2 ^ 32 ≤ 2 ^ activeRec.logsz := by decide

theorem witness_Doorbells_agreed : Agreed (dies ledBy0 5 activeRec) 5 activeRec ∧ Agreed (dies ledBy0 5 QueueRec.reset) 5 QueueRec.reset :=
  ⟨agreed_all (by decide +kernel) (by decide) (by decide), agreed_all (by decide +kernel) (by decide) (by decide)⟩

theorem witness_RecordReplicas : let s := dies ledBy0 5 activeRec
    (5 : Nat) = ((recOn s 1 5).version + 1) % 2 ^ 32 ∧ (7 : Nat) ≠ ((recOn s 1 5).version + 1) % 2 ^ 32 ∧
    isAdminEvent s (.recordUpdate 1 5 activeRec) = false ∧ (7 : Nat) ≠ (recOn s 1 5).version ∧ (4 : Nat) = (recOn s 1 5).version := by decide +kernel

/-- Queue 0 of die 0, with a packet of a kind at the head of its ring at 0x10000. -/
def packeted (q : Nat) (r : QueueRec) (mem : List Host.Cell) : State := { dies ledBy0 q r with mem := mem }

/-- A second record for every die. -/
def alsoRec (q : Nat) (r : QueueRec) (s : State) : State :=
  { s with dies := s.dies.map fun d => (d.1, { d.2 with recs := mset QueueRec.reset d.2.recs q r, known := mset 0 d.2.known q r.version }) }


/-- The launch units of no die run. -/
def stopped (s : State) : State := { s with dies := s.dies.map fun d => (d.1, { d.2 with running := false }) }

/-- QCREATE of queue 5 on die 0 with a ring of 16 packets at 0x20000; QDESTROY of queue 5; WAIT of queue 5 for 1 at 0x3000. -/
def createPacket : State :=
  stopped <| alsoRec 5 QueueRec.reset (packeted 0 { activeRec with base := 0x10 }
    [⟨0x10000, 0x10⟩, ⟨0x10008, 5⟩, ⟨0x10012, 0x40⟩, ⟨0x10013, 0x20⟩])

def destroyPacket (inflt : Nat) : State :=
  stopped <| alsoRec 5 { activeRec with inflt := inflt } (packeted 0 { activeRec with base := 0x10 } [⟨0x10000, 0x11⟩, ⟨0x10008, 5⟩])

theorem witness_AdminPackets :
    (headOfKind createPacket 0 0x10).isSome = true ∧ (headOfKind (destroyPacket 1) 0 0x11).isSome = true ∧
    (headOfKind (destroyPacket 0) 0 0x11).isSome = true ∧
    ((List.range 4).all fun d => decide ((dieAt (destroyPacket 1) d).launch = none) && decide ((dieAt (destroyPacket 1) d).multi = [])) =
      true ∧
    (dieAt createPacket 0).running = false ∧ pkKind (headWords createPacket activeRec) = 0x10 ∧ pw (headWords createPacket activeRec) 1 = 5 ∧
    adminOut createPacket = false := by decide +kernel

theorem witness_AdminPackets_agreed :
    Agreed createPacket 0 activeRec ∧ Agreed createPacket 5 QueueRec.reset ∧ Agreed (destroyPacket 1) 5 { activeRec with inflt := 1 } :=
  ⟨agreed_all (by decide +kernel) (by decide) (by decide), agreed_all (by decide +kernel) (by decide) (by decide),
    agreed_all (by decide +kernel) (by decide) (by decide)⟩

def waitPacket : State := packeted 5 activeRec [⟨0x10000, 0x12⟩, ⟨0x10009, 0x30⟩, ⟨0x10010, 1⟩]

def waitingRec : QueueRec := { activeRec with state := 2, waddr := 0x600, waitval := 1 }

theorem witness_QueueWaits :
    (headOfKind waitPacket 5 0x12).isSome = true ∧
    (let s := packeted 5 waitingRec [⟨0x3000, 1⟩]
     waitingRec.state = 2 ∧ dieFenced s waitingRec.owner = false ∧ upToDate s waitingRec.owner 5 = true ∧
       signalWord s waitingRec = some 1) ∧
    signalWord (packeted 5 waitingRec []) waitingRec = some 0 := by decide +kernel

theorem witness_QueueWaits_agreed : Agreed waitPacket 5 activeRec ∧ Agreed (packeted 5 waitingRec [⟨0x3000, 1⟩]) 5 waitingRec :=
  ⟨agreed_all (by decide +kernel) (by decide) (by decide), agreed_all (by decide +kernel) (by decide) (by decide)⟩

/-! ### Witnesses: launches -/

/-- A ROOT packet for core 0, and a GANG packet of one region, with an argument block of zeros at 0x20000. -/
def rootPacketState : State := packeted 5 activeRec [⟨0x10000, 1⟩, ⟨0x10002, 7⟩, ⟨0x10009, 0x30⟩, ⟨0x10022, 2⟩]

def gangPacketState : State :=
  packeted 5 activeRec [⟨0x10000, 2⟩, ⟨0x10002, 7⟩, ⟨0x10004, 1⟩, ⟨0x10006, 1⟩, ⟨0x10009, 0x30⟩, ⟨0x10022, 2⟩]

theorem witness_Placement :
    dieFenced rootPacketState 0 = false ∧ (dieAt rootPacketState 0).running = true ∧ passQueues rootPacketState 1 = [] ∧
    isCycleEnd rootPacketState (passPlace 0) = false ∧
    (let s := { rootPacketState with issueOver := true, agenda := [], tick := 1999, tickFrac := 4 }
     isCycleEnd s (passPlace 1) = true ∧ nextTick s ≠ s.tick ∧ passQueues s 1 = [] ∧ (dieAt s 1).running = true) ∧
    canServe rootPacketState 0 5 = true ∧ (dieAt rootPacketState 0).launch = none ∧
    (headOfKind rootPacketState 5 1).elim false (fun w => decide (rootPlace rootPacketState 0 5 w = some (0, 0))) = true ∧
    (headOfKind gangPacketState 5 2).elim false (fun w =>
      (gangFit gangPacketState (openDies gangPacketState 0 5 w) (pkRegions w) 16 0).isSome) = true := by decide +kernel

def launch : Launch :=
  { queue := 5, idx := 0, sheaf := 7, entry := 0x3000, ltime := 0, atTick := false, startTick := 0, args := List.replicate 128 0,
    shapes := [], nshape := 0, caddr := 0, multi := false, gang := 0, nmod := 0, leadMod := 0, layer := 0, cores := [0], acks := [],
    refused := false, dropped := false }

/-- Die 0 places that launch; slot 0 of core 0 is reserved for it. -/
def placing : State :=
  { rootPacketState with
    slots := [(0, { Slot.reset with state := .reserved })],
    dies := rootPacketState.dies.map fun d => if d.1 = 0 then (0, { d.2 with launch := some launch }) else d }

theorem witness_Reservations :
    canReserve State.reset 0 0 = true ∧ canReserve placing 0 0 = false ∧ (dieAt placing 0).launch = some launch ∧
    ({ launch with cores := [0, 1] }.acks.length + 1 ≠ { launch with cores := [0, 1] }.cores.length) ∧
    { launch with cores := [0, 1] }.acks.length ≠ ({ launch with cores := [0, 1] }.cores.erase 0).length := by decide +kernel

theorem witness_RootCommits :
    (dieAt placing 0).launch = some launch ∧ (dieAt placing 0).todo = [] ∧ launch.cores = [0] ∧ launch.acks = [] ∧
    launch.refused = false ∧ launch.dropped = false ∧ launch.multi = false ∧ launch.atTick = false ∧ activeRec.owner = 0 ∧ activeRec.state = 1 ∧
    activeRec.rdidx = launch.idx ∧ activeRec.rdidx ≠ activeRec.wridx ∧ pkKind (headWords placing activeRec) = 1 ∧
    (sheafAt placing launch.sheaf).live = false ∧ (slotAt placing 0 launch.layer).state = .reserved ∧
    isFenced placing 0 = false := by decide +kernel

theorem witness_RootCommits_agreed : Agreed placing 5 activeRec := agreed_all (by decide +kernel) (by decide) (by decide)

/-- A message of gang 3 from this module to this one. -/
def gangMsg (nmod : Nat) (unit : Option Nat) : MultiMsg := ⟨3, 0, 0, unit, 5, 0, nmod, 0, []⟩

/-- The first part of a gang of two modules, the only part of a gang of one, and a gang whose time has passed. -/
theorem witness_GangDecisions :
    (let s := { dies ledBy0 5 activeRec with locked := true }
     gangAt s 3 = Gang.none ∧ s.locked = true ∧ leaderDie s ≠ none ∧ (gangMsg 2 none).dest = nodeId s ∧ 1 < (gangMsg 2 none).nmod ∧
       (gangMsg 1 none).nmod ≤ 1) ∧
    leaderDie State.reset = none ∧
    (let s := { dies ledBy0 5 activeRec with tick := 100_000_000, gangs := [(3, ⟨[(0, 5)], [], 2, 0, 0, 0⟩)] }
     leaderDie { s with dies := s.dies.map fun d => (d.1, { d.2 with lease := { d.2.lease with expiry := 200_000_000 } }) } ≠ none ∧
       (gangAt s 3).ready = [(0, 5)] ∧ (gangAt s 3).err = 0 ∧ (gangAt s 3).first + 100_000_000 ≤ s.tick) := by decide +kernel

/-- A part of gang 3 on die 0. -/
def gangPart : State :=
  { rootPacketState with
    slots := [(0, { Slot.reset with state := .reserved })],
    dies := rootPacketState.dies.map fun d => if d.1 = 0 then (0, { d.2 with multi := [{ launch with gang := 3, multi := true }] }) else d }

theorem witness_GangParts :
    leaderDie gangPart = some 0 ∧ (gangMsg 2 none).dest = nodeId gangPart ∧ (gangMsg 2 none).unit = none ∧ (gangMsg 2 none).parts = [] ∧
    (gangMsg 2 (some 0)).unit = some 0 ∧ partOf gangPart 4 = none ∧ partOf gangPart 3 = some (0, { launch with gang := 3, multi := true }) ∧ activeRec.state ≠ 3 ∧
    (slotAt gangPart 0 launch.layer).state = .reserved := by decide +kernel

theorem witness_GangParts_agreed : Agreed gangPart 5 activeRec := agreed_all (by decide +kernel) (by decide) (by decide)

/-- One entry of the wheel of die 0: due with a reserved slot, due with a task, and not due; and one of the overflow list at its turn. -/
def wheeled (e : WheelEntry) (tick : Nat) : State :=
  { State.reset with
    tick := tick, slots := [(0, { Slot.reset with state := .reserved })], dies := [(0, { Die.reset with wheel := [e] })] }

theorem witness_WheelReleases :
    let e : WheelEntry := ⟨5, 0, .start 0 5 0x3000 0, 0, 7, false⟩
    let x : WheelEntry := ⟨5, 0, .task ⟨0x3000, 0, 0, 7, true⟩, 0, 7, true⟩
    (dieAt (wheeled e 5) 0).wheelWait = [] ∧ isFenced (wheeled e 5) 0 = false ∧ e.tick ≤ (wheeled e 5).tick ∧
    (dieAt (wheeled e 5) 0).wheel = [e] ∧ (slotAt (wheeled e 5) 0 0).state = .reserved ∧ x.tick ≤ (wheeled x 5).tick ∧
    (dieAt (wheeled x 5) 0).wheel = [x] ∧ (coreAt (wheeled x 5) 0).deque = [] ∧ (wheeled e 4).tick < e.tick ∧
    (dieAt (wheeled e 5) 0).overflow = [] ∧
    (let s := { State.reset with tick := 4_096_000, dies := [(0, { Die.reset with overflow := [(4_096_000, { e with tick := 8_191_000 })] })] }
     (dieAt s 0).overflow = [(4_096_000, { e with tick := 8_191_000 })] ∧ (dieAt s 0).wheel = [] ∧ (dieAt s 0).wheelWait = [] ∧
       8_191_000 ≤ s.tick + 4_095_000) := by decide +kernel

/-- A queue that waits is watched: it is an event once it has not moved for 100,000 microseconds. -/
theorem witness_Watchdog :
    let s := packeted 5 waitingRec []
    dieFenced s 0 = false ∧ (∀ e ∈ s.timers, e.2 ≠ .watchdogPeriod 0) ∧ watched s 0 = [(5, 0)] ∧ (mreg s 0x0400).toNat % 2 ^ 32 = 100_000 ∧
    s.tick < 0 + 100_000_000 ∧
    (let t := { s with tick := 100_000_000 }
     watched t 0 = [(5, 0)] ∧ 0 + 100_000_000 ≤ t.tick) := by decide +kernel

/-- A live sheaf without a ring to report to, and a report that ends a launch. -/
theorem witness_LaunchEnds :
    (let s := { dies ledBy0 5 activeRec with sheaves := [(7, { Sheaf.reset with live := true, queue := 5 })] }
     (sheafAt s 7).live = true ∧ (sheafAt s 7).ending = false ∧ (sheafAt s 7).caddr = 0 ∧ (mreg s 0x0910).getLsbD 4 = false ∧
       (sheafAt s 7).queue = 5) ∧
    (let x : Report := ⟨1, 5, some 7, 0, 1, 5, false, false⟩
     x.sheaf = some 7 ∧ x.caddr = 0 ∧ x.deadline ≤ 5 ∧ { x with added := true }.added = true) ∧
    (let x : Report := ⟨1, 5, none, cisternPa 0 0x2000, 1, 5, false, false⟩
     let s := { dies ledBy0 5 activeRec with reports := [x] }
     x.caddr ≠ 0 ∧ x.adding = false ∧ ownerOf s x.caddr = .cistern 0 0x2000 ∧
       reaches s (unitRouter (queueRec s x.queue).owner) (.cistern 0 0x2000) = true ∧ localOwner (localPa s x.caddr) = .cistern 0 0x2000 ∧
       (0x2000 : Nat) + 8 ≤ 0x14_0000) := by decide +kernel

/-! ### Witnesses: the reduction tree -/

/-- Core 0 with one delta since cycle 0, and a store word of an earlier commit under way. -/
def counting (sent : List SentWord) (cycle : Nat) : State :=
  { withCore { Core.reset with counts := [⟨7, 5, 1⟩], countsSince := some 0, sent := sent } State.reset with cycle := cycle }

theorem witness_DeltaBatches :
    (let x := coreAt (counting [] 256) 0
     x.batches = [] ∧ x.late = [] ∧ x.counts ≠ [] ∧ x.sent = [] ∧ x.countsSince = some 0 ∧ 0 + 256 ≤ (counting [] 256).cycle ∧
       (counting [] 255).cycle < 0 + 256) ∧
    ∃ w ∈ (coreAt (counting [⟨0, 0, storeWord, true, false, false⟩] 256) 0).sent, w.commit ≤ 256 := by decide +kernel

/-- A batch that every level has room for. -/
theorem witness_BatchesApplied :
    let ds : List Delta := [⟨7, 5, 1⟩]
    ds ≠ [] ∧ (∀ lv ∈ [TreeLevel.region, .die, .module], (treeUnit State.reset lv 0).waiting = [] ∧
      levelFits State.reset lv (treeUnit State.reset lv 0) ⟨ds, none, false⟩ = true) ∧ (coreAt State.reset 0).late = [] := by decide +kernel

/-- One for a region whose table is full, and behind one that waits. -/
theorem witness_BatchesApplied_full :
    let b : DeltaBatch := ⟨[⟨7, 5, 1⟩], none, false⟩
    let full : TreeUnit := ⟨(List.range 256).map fun i => ⟨1, BitVec.ofNat 64 i, 1⟩, [], []⟩
    let s := { State.reset with regions := [(0, full)] }
    let t := { State.reset with regions := [(0, { full with waiting := [(1, ⟨[⟨7, 6, 1⟩], none, false⟩, 3)] })] }
    (∀ w, ((treeUnit s .region 0).waiting ++ [(0, b, 4)]).head? = some w → levelFits s .region (treeUnit s .region 0) w.2.1 = false) ∧
    ∀ w, ((treeUnit t .region 0).waiting ++ [(0, b, 4)]).head? = some w → levelFits t .region (treeUnit t .region 0) w.2.1 = false := by
  refine ⟨fun w h => ?_, fun w h => ?_⟩ <;> (cases Option.some.inj h; decide +kernel)

/-- The dies and the last region can be reached; core 2303 has nothing to wait for; seven of eight cores of a region have reported. -/
theorem witness_SweepRequests :
    (∀ d, d < 4 → treeReaches State.reset d = true) ∧ (287 : Nat) < 288 ∧ (coreAt State.reset 2303).batches = [] ∧
    (coreAt State.reset 2303).late = [] ∧ (coreAt State.reset 2303).sent = [] ∧
    (treeUnit State.reset .region (regionOf 0)).waiting = [] ∧
    (let reps : List (Nat × SweepReport) := (List.range 7).map fun i => (i + 1, ⟨1, 0, 0, 0⟩)
     ((reps.filter fun z : Nat × SweepReport => decide (z.1 ≠ 0) && decide (z.2.sweep = 1)) ++ [((0 : Nat), (⟨1, 0, 0, 0⟩ : SweepReport))]).length = 8) := by
  decide +kernel

/-- A sweep over one live sheaf for which so many dies have reported, and which agrees with the sweep before it. -/
def swept (dies : Nat) : State :=
  { State.reset with
    sheaves := [(7, { Sheaf.reset with live := true })],
    root := { Root.reset with
      started := 5, before := [(7, timeTop, [])],
      tree := { Root.reset.tree with reports := (List.range dies).map fun d => (d, ⟨Root.reset.sweep, 0, 0, 0⟩) } } }

theorem witness_Sweeps :
    sweepOpen (swept 3) = true ∧ sweepOpen (swept 4) = false ∧ (swept 4).root.cutFlag = false ∧
    7 ∈ sweptSheaves (swept 4) ∧ candidate (swept 4).root.tree.table 7 ∈ (swept 4).root.before ∧
    (sheafAt (swept 4) 7).front.toNat < (candidate (swept 4).root.tree.table 7).2.1.toNat ∧
    (candidate (swept 4).root.tree.table 7).2.1 = timeTop ∧
    candidate (swept 4).root.tree.table 7 ∉ State.reset.root.before := by decide +kernel

/-- A cell of sheaf 7 whose inactive buffer waits below the frontier 9. -/
theorem witness_FrontierAnnounced :
    let s := withCore { Core.reset with
      cells := [(63, { CellEntry.reset with valid := true, sheaf := 7, timeY := 5 })], fronts := [(7, 3)] } State.reset
    (3 : Nat) ≤ (frontierAt s 0 7).toNat ∧ (frontierAt s 0 7).toNat < 9 ∧ (∀ k, k < 16 → threadAt s 0 k = none) ∧
    (∀ e ∈ (coreAt s 0).cells, e.2.bva = false ∨ e.2.bvb = false) ∧ waitsToFlip (cellAt (coreAt s 0) 63) = true ∧
    (bufTime (cellAt (coreAt s 0) 63) true).toNat < 9 := by decide +kernel

/-! ### Witnesses: routers and ports -/

/-- A packet in an input of router 30, bound east for core 33, with SLACK n. -/
def packet (n : Nat) : Packet := ⟨1, .core 33, n, false, 0, none, .markAck 33 0 0, 2, 0, none⟩

def routed (n : Nat) : State := { State.reset with routers := [(30, { Router.reset with packets := [(6, packet n)] })] }

/-- The same with router 31 down. -/
def blocked : State :=
  { State.reset with routers := [(30, { Router.reset with packets := [(6, packet 128)] }), (31, { Router.reset with down := true })] }

theorem witness_RouterGrants :
    (routerAt (routed 128) 30).down = false ∧ mget 0 (routerAt (routed 128) 30).free 2 ≤ (routed 128).cycle ∧
    (routerAt (routed 128) 30).packets = [(6, packet 128)] ∧ (packet 128).out = 2 ∧ (packet 128).entered ≤ (routed 128).cycle ∧
    (packet 128).slack ≠ 0 ∧ (packet 128).msg = .markAck 33 0 0 ∧ nextRouter 30 2 ≠ 30 ∧ isLast 30 2 (packet 128).dst = false ∧ nextRouter 30 2 = 31 ∧ (packet 128).overdue = none ∧
    entersDead (routed 128) 30 2 (packet 128).dst = false ∧ (routerAt (routed 128) 31).down = false ∧ (routerAt blocked 30).packets = [(6, packet 128)] ∧
    (routerAt blocked 31).down = true := by decide +kernel

/-- One packet that waits at a router, at a port and for a permit, and a FILL that waits at a core; slack 0, 1 and more. -/
theorem witness_SlackDecrements :
    ({ routed 1 with cycle := 7 }.cycle + 1 - (packet 1).entered) % 8 = 0 ∧ (packet 1).entered ≤ { routed 1 with cycle := 7 }.cycle ∧
    (routerAt (routed 1) 30).packets = [(6, packet 1)] ∧ (packet 0).slack = 0 ∧ (packet 1).slack = 1 ∧ 1 < (packet 2).slack ∧
    (packet 1).exh = false ∧ (packet 1).core < 2304 ∧
    (coreAt (withCore { Core.reset with fills := [(3, fillMsg)] } State.reset) 0).fills = [(3, fillMsg)] ∧ fillMsg.slack ≠ 0 ∧
    (portAt { State.reset with ports := [(2, { Port.reset with queue := [packet 1] })] } 2).queue = [packet 1] ∧
    (wellAt { State.reset with wells := [(2, { Wellhead.reset with waiting := [⟨0, 30, packet 1, 0⟩] })] } 2).waiting =
      [⟨0, 30, packet 1, 0⟩] := by decide +kernel

theorem witness_RouterPower :
    (let s := { State.reset with cycle := 0x400, routers := [(30, { Router.reset with idleSince := 1 })] }
     (routerAt s 30).down = false ∧ (routerAt s 30).packets = [] ∧ (creg s 30 0x0C90).toNat % 2 ^ 16 ≠ 0 ∧
       (routerAt s 30).idleSince + (creg s 30 0x0C90).toNat % 2 ^ 16 ≤ s.cycle + 1) ∧
    (let s := withCore { Core.reset with regs := [(0x0C90, 0)] } State.reset
     (creg s 0 0x0C90).toNat % 2 ^ 16 = 0 ∧ (routerAt s 0).packets = []) ∧
    (routerAt blocked 31).down = true ∧ (routerAt blocked 31).offered = [] ∧
    (let s := { State.reset with routers := [(31, { Router.reset with down := true, offered := [(3, packet 128)] })] }
     (routerAt s 31).down = true ∧ (routerAt s 31).offered = [(3, packet 128)]) := by decide +kernel

/-- Port 0 up, with nothing to send. -/
def linked : State := { State.reset with ports := [(0, { Port.reset with up := true })] }

/-- A flit of a kind and a SEQ on channel 3, and one of a reserved kind; its packet is a store word for core 0. -/
def flit (kind seq : Nat) (data : List Nat) : Flit :=
  ⟨seq, 0, 3, kind, [0, 0, 1, 0], 0, [], [.store 9 storeWord], data, false⟩

theorem sealed_good (f : Flit) (h : f.kind ≤ 6) : flitGood (sealFlit f) = true := by
  simp [flitGood, sealFlit, h, flitCrc, flitHeader, flitBody]

theorem witness_FlitsArrive :
    (portAt linked 0).up = true ∧ (portAt linked 0).training = false ∧ (portAt linked 0).queue = [] ∧
    (portAt linked 0).crcRun + 1 < 64 ∧ (portAt linked 0).sinceAudit + 1 < 4096 ∧ (flit 0 5 []).seq ≠ (portAt linked 0).rxSeq ∧ (flit 0 0 []).seq = (portAt linked 0).rxSeq ∧
    (flit 0 0 []).vc < (portAt linked 0).window.length ∧ (flit 0 0 []).vc < (portAt linked 0).spares.length ∧
    (portAt linked 0).window.getD (flit 0 0 []).vc 0 ≠ 0 ∧ (portAt linked 0).holding = [] ∧
    foreignDest linked (localPa linked (storeWord.word * 8) / 8 * 8) = some (.core 0) ∧
    (let x := { Port.reset with up := true, window := [0, 0, 0, 0], spares := [0, 0, 0, 1] }
     x.window.getD 3 0 = 0 ∧ x.spares.getD 3 0 ≠ 0 ∧ x.spares.getD 2 0 = 0) := by decide +kernel

theorem witness_FlitsArrive_check : flitGood (flit 7 0 []) = false ∧ flitGood (sealFlit (flit 0 0 [])) = true :=
  ⟨by decide, sealed_good _ (by decide)⟩

/-- An audit flit of a channel that lacks units, and of one that has too many. -/
theorem witness_Audits :
    (portAt linked 0).up = true ∧ (portAt linked 0).training = false ∧ (portAt linked 0).queue = [] ∧
    (0 : Nat) < expectedUnits 0 0 ∧ expectedUnits 0 0 < 100 ∧
    4096 ≤ (portAt { State.reset with ports := [(0, { Port.reset with up := true, sinceAudit := 4096 })] } 0).sinceAudit ∧
    (portAt linked 0).sinceAudit < 4096 ∧ (3 : Nat) < 4 := by decide +kernel

theorem witness_Retraining :
    (portAt linked 0).training = false ∧
    (let s := { State.reset with
      tick := 100_000_000, ports := [(0, { Port.reset with training := true, trainingSince := some 0 })] }
     (portAt s 0).training = true ∧ (portAt s 0).timedOut = false ∧ (portAt s 0).replay = [] ∧ (portAt s 0).queue = [] ∧
       (portAt s 0).trainingSince = some 0 ∧ 0 + 100_000_000 ≤ s.tick) ∧
    (portAt { State.reset with ports := [(0, { Port.reset with timedOut := true })] } 0).timedOut = true := by decide +kernel

/-! ### Witnesses: upkeep, registers, the side-band -/

/-- A state at the end of its cycle. -/
def atEnd (s : State) : State := { s with issueOver := true, agenda := [] }

theorem witness_StartsUp :
    { State.reset with startup := false }.startup = false ∧ State.reset.startup = true ∧
    imageGood State.reset State.reset.flash.image = true := by decide +kernel

/-- Errors of a cistern and of a GDDR7 read, by no reader and by a thread whose block runs. -/
theorem witness_EccErrors : isFenced (atEnd State.reset) 2303 = false ∧ isCycleEnd (atEnd State.reset) fencePlace = true ∧
    isCycleEnd twoScalars fencePlace = false ∧ eccReader (.cistern .unknown) = .unknown ∧
    eccReader (.gddr (.thread ⟨0, 0, 0, 3⟩)) = .thread ⟨0, 0, 0, 3⟩ ∧ (blockAt twoScalars 0 0).map (·.gen) = some 0 := by decide +kernel

/-- Die 0 stretched, at the end of a cycle that it has not skipped, with an event of it and one of die 1 in the agenda. -/
theorem witness_ClockHalved :
    let s := { State.reset with
      issueOver := true, agenda := [(agendaKey 1 4 0, .blockLoad 0 0)],
      dies := [(0, { Die.reset with stretched := true })] }
    nextTurn s = .clock ∧ ((dieAt s 0).stretched && !(dieAt s 0).skips) = true ∧ eventDie (.blockLoad 0 0) = some 0 ∧
    eventDie (.blockLoad 576 0) = some 1 ∧ ((dieAt s 1).stretched && !(dieAt s 1).skips) = false := by decide +kernel

theorem witness_DieFences :
    dieFenced (atEnd State.reset) 3 = false ∧ dieFenced (atEnd { State.reset with mregs := [(0x0920, 8)] }) 3 = true ∧
    isCycleEnd (atEnd { State.reset with mregs := [(0x0920, 8)] }) fencePlace = true ∧ dieOf 2303 = 3 := by decide +kernel

theorem witness_PowerAndHeat :
    (let s := { State.reset with cycle := 256, dies := [(0, { Die.reset with stretched := true, sag := true })] }
     (dieAt s 0).stretched = true ∧ (dieAt s 0).hot = false ∧ (dieAt s 0).normalSince + 256 ≤ s.cycle) ∧
    (dieAt State.reset 0).hot = false ∧ (1599 : Nat) < 1600 ∧ 1600 ≤ (1759 : Nat) := by decide +kernel

theorem witness_TickSyncs :
    (let s := { dies leaderless 5 activeRec with
      ports := (List.range 16).map fun p => (p, { Port.reset with up := true, seenUp := true }) }
     portsTrained s = true ∧ dieFenced s 3 = false ∧ (dieAt s 3).image = true ∧ (dieAt s 3).lease.leader = none ∧
       (dieAt s 3).lease.claim = 0) ∧
    let s := { State.reset with everLocked := true, locked := true, lastSync := 5, tick := 1_000_000_005 }
    s.locked = true ∧ s.lastSync + 1_000_000_000 ≤ s.tick ∧
    { s with tick := 1_000_000_004 }.tick < { s with tick := 1_000_000_004 }.lastSync + 1_000_000_000 := by decide +kernel

/-- Die 0 waits for an image from its last source; the shipped image is good, one of another MAGIC is not. -/
def imageless : State := { State.reset with dies := [(0, { Die.reset with asked := 1 })] }

theorem witness_Images :
    (dieAt imageless 0).image = false ∧ (dieAt imageless 0).asked ≠ 0 ∧ dieFenced imageless 0 = false ∧
    imageGood imageless FwImage.shipped = true ∧ imageGood imageless { FwImage.shipped with magic := 0 } = false ∧
    imageless.flash.recovery.length < (dieAt imageless 0).asked ∧ imageGood State.reset (stagedImage State.reset) = false ∧
    leaderDie (dies ledBy0 5 activeRec) ≠ none := by decide +kernel

theorem witness_RegisterWrites :
    (0x100_0210 : Nat) % 8 = 0 ∧ sysPlace 0x100_0210 = .core 0 0x0210 ∧ 0x0210 ∉ [0x0240, 0x0C90, 0x0F00, 0x0F18, 0x0F28, 0x0F48, 0x0F50] ∧
    (coreReg 0x0210).map (fun r => (r.kind, r.mask)) = some (.rw, 0x1FFFFF) ∧ (coreReg 0x0C40).map (·.kind) = some .ro ∧
    (coreReg 0x0C00).map (·.kind) = some .rc ∧ (0x100_0214 : Nat) % 8 ≠ 0 := by decide +kernel

theorem witness_RegisterClears :
    (0x0948 : Nat) % 8 = 0 ∧ sysPlace 0x0948 = .module 0x0948 ∧ (moduleReg 0x0948).map (·.kind) = some .rc ∧
    readPlace State.reset 0 (.module 0x0948) = mreg State.reset 0x0948 ∧ (moduleReg 0x0930).map (·.kind) = some .ro := by
  decide +kernel

theorem witness_SpecialRegisters :
    (2 : Word).toNat % 4 ≠ 1 ∧ (1 : Word).toNat % 4 = 1 ∧ (mreg State.reset 0x0900).getLsbD 2 = false ∧
    (mreg { State.reset with mregs := [(0x0900, 4)] } 0x0900).getLsbD 2 = true ∧ 4 ≤ (4 : Word).toNat % 16 ∧
    (12 : Word).toNat % 16 ≤ 12 ∧ (3 : Word).toNat % 16 < 4 ∧ 12 < (13 : Word).toNat % 16 ∧
    ((0 : Word).toNat + 256) % 2 ^ 32 = (creg (withCore { Core.reset with regs := [(0x0220, 256)] } State.reset) 0 0x0220).toNat % 2 ^ 32 ∧
    (2 ^ 31 + 256) % 2 ^ 32 ≠ (0 : Nat) := by decide +kernel

theorem witness_Invalidations :
    (mreg State.reset 0x0808).getLsbD 63 = false ∧
    (let s := { State.reset with mregs := [(0x0808, word (2 ^ 63))], dies := [(0, { Die.reset with walks := [⟨0, 5, [], true, true, true, [], false⟩] })] }
     (mreg s 0x0808).getLsbD 63 = true ∧ (∃ d ∈ s.dies, ∃ w ∈ d.2.walks, w.before = true)) ∧
    (mreg { State.reset with mregs := [(0x0808, word (2 ^ 63))] } 0x0808).getLsbD 63 = true := by decide +kernel

theorem witness_AdminQueue :
    let s := { dies ledBy0 0 activeRec with mregs := [(0x0420, 0x10004)] }
    mayWriteAdmq s .sideband = true ∧ admqReady { dies ledBy0 0 QueueRec.reset with mregs := [(0x0420, 0x10004)] } = true ∧
    leaderDie s = some 0 ∧ mayWriteAdmq s (.node 8) = false := by decide +kernel

theorem witness_SidebandCommands :
    State.reset.flash.keyIndex < 1024 ∧ 1024 ≤ { State.reset.flash with keyIndex := 1024 }.keyIndex ∧
    (List.replicate 8 4095).length = 8 ∧ (∀ i ∈ List.replicate 8 4095, i < 4096) := by decide +kernel

theorem witness_SidebandCodes :
    State.reset.side.dynamic = none ∧ { State.reset.side with dynamic := some 9 }.dynamic ≠ none ∧
    (0x31 : Nat) ≠ 0x30 + State.reset.side.straps % 4 := by decide +kernel

end Sys2Proof.Tests
end

namespace Sys2Proof.Machine
open Sys2Proof

/-! ### The state after reset -/

/-- Settles O7: every part of the reset state is a default, so every field of the canonical form computes. -/
theorem resetCanonical : Obligations.ResetCanonical := by
  unfold Obligations.ResetCanonical
  constructor <;> rfl

end Sys2Proof.Machine

namespace Sys2Proof.Machine
open Sys2Proof

/-! ### Frames: what an action leaves as it was -/

/-- A relation between the states before and after some changes that any number of changes in a row keep, and that fixes the
cycle. -/
structure Frame where
  rel : State → State → Prop
  refl : ∀ s, rel s s
  trans : ∀ {s t u}, rel s t → rel t u → rel s u
  cycle : ∀ {s t}, rel s t → t.cycle = s.cycle

/-- An action that logs its changes, and whose state after stands in the frame to its state before. -/
structure Keeps (F : Frame) {α : Type} (a : Act α) : Prop where
  logged : Logged a
  rel : ∀ s, F.rel s (a ⟨s, []⟩).2.st

/-- The frame of the cycle counter alone. -/
def clockFrame : Frame where
  rel s t := t.cycle = s.cycle
  refl _ := rfl
  trans h k := k.trans h
  cycle h := h

section
variable {F G : Frame} {α β : Type}

/-- What an action leaves behind a state that other changes have made. -/
theorem Logged.st_append {a : Act α} (h : Logged a) (r : Run) : (a r).2.st = (a ⟨r.st, []⟩).2.st :=
  (congrArg (·.2.st) (h r)).trans (congrArg (·.2.st) (h ⟨r.st, []⟩)).symm

theorem Keeps.mono {a : Act α} (h : Keeps F a) (hFG : ∀ s t, F.rel s t → G.rel s t) : Keeps G a :=
  ⟨h.logged, fun s => hFG _ _ (h.rel s)⟩

/-- Every frame fixes the cycle. -/
theorem Keeps.clock {a : Act α} (h : Keeps F a) : Keeps clockFrame a := h.mono fun _ _ => F.cycle

theorem Keeps.run {a : Act Unit} (h : Keeps F a) (s : State) : F.rel s (run a s) := by
  rw [run_eq_st h.logged]
  exact h.rel s

theorem keeps_pure {x : α} : Keeps F (pure x) := ⟨logged_pure _, F.refl⟩
theorem keeps_look {f : State → α} : Keeps F (look f) := ⟨logged_look _, F.refl⟩
theorem keeps_emit {u : Upd} (h : ∀ s, F.rel s (applyUpd u s)) : Keeps F (emit u) := ⟨logged_emit _, h⟩

theorem keeps_bind {a : Act α} {f : α → Act β} (ha : Keeps F a) (hf : ∀ x, Keeps F (f x)) : Keeps F (a >>= f) := by
  refine ⟨logged_bind ha.logged fun x => (hf x).logged, fun s => F.trans (ha.rel s) ?_⟩
  change F.rel _ (f (a ⟨s, []⟩).1 (a ⟨s, []⟩).2).2.st
  rw [(hf _).logged.st_append]
  exact (hf _).rel _

/-- An action that begins with a look at the state is related to that very state. -/
theorem keeps_look_bind {f : State → α} {g : α → Act β} (hg : ∀ x, Keeps F (g x)) : Keeps F (look f >>= g) :=
  keeps_bind keeps_look hg

theorem keeps_each {l : List α} {f : α → Act Unit} (hf : ∀ x, Keeps F (f x)) : Keeps F (each l f) := by
  induction l with
  | nil => exact keeps_pure
  | cons x l ih => exact keeps_bind (hf x) fun _ => ih

theorem keeps_onlyIf {c : Bool} {a : Act Unit} (ha : Keeps F a) : Keeps F (onlyIf c a) := by
  cases c
  · exact keeps_pure
  · exact ha

theorem keeps_ite {c : Prop} [Decidable c] {a b : Act α} (ha : Keeps F a) (hb : Keeps F b) :
    Keeps F (if c then a else b) := by
  split
  · exact ha
  · exact hb

end

/-- An action that logs its changes, and whose state after stands in the frame to its state before when it begins in `s`. -/
structure KeepsAt (F : Frame) (s : State) {α : Type} (a : Act α) : Prop where
  logged : Logged a
  rel : F.rel s (a ⟨s, []⟩).2.st

section
variable {F G : Frame} {α β : Type} {s : State}

theorem Keeps.at {a : Act α} (h : Keeps F a) : KeepsAt F s a := ⟨h.logged, h.rel s⟩

theorem keeps_look_at {g : State → Act β} (h : ∀ s, KeepsAt F s (g s)) : Keeps F (look id >>= g) :=
  ⟨logged_bind (logged_look _) fun x => (h x).logged, fun s => (h s).rel⟩

theorem keepsAt_look_bind {f : State → α} {g : α → Act β} (h : ∀ x, KeepsAt F s (g x)) : KeepsAt F s (look f >>= g) :=
  ⟨logged_bind (logged_look _) fun x => (h x).logged, (h _).rel⟩

/-- What the first action leaves in the narrower frame G, the second one may rely on. -/
theorem keepsAt_bind {a : Act α} {f : α → Act β} (ha : KeepsAt G s a) (hGF : ∀ t, G.rel s t → F.rel s t)
    (hf : ∀ x t, G.rel s t → KeepsAt F t (f x)) : KeepsAt F s (a >>= f) := by
  refine ⟨logged_bind ha.logged fun x => (hf x s (G.refl s)).logged, F.trans (hGF _ ha.rel) ?_⟩
  change F.rel _ (f (a ⟨s, []⟩).1 (a ⟨s, []⟩).2).2.st
  rw [(hf _ _ (G.refl s)).logged.st_append]
  exact (hf _ _ ha.rel).rel

theorem keepsAt_each {l : List α} {f : α → Act Unit} (hf : ∀ x ∈ l, ∀ t, F.rel s t → KeepsAt F t (f x)) :
    KeepsAt F s (each l f) := by
  induction l generalizing s with
  | nil => exact keeps_pure.at
  | cons x l ih =>
    exact keepsAt_bind (hf x (by simp) s (F.refl s)) (fun _ h => h) fun _ t ht =>
      ih fun y hy u hu => hf y (by simp [hy]) u (F.trans ht hu)

end

/-! ### What an action brings about -/

/-- An action that logs its changes and brings a property about, whatever it starts from. -/
structure Leaves (P : State → Prop) (a : Act Unit) : Prop where
  logged : Logged a
  post : ∀ s, P (run a s)

/-- What the last of two actions brings about holds after both. -/
theorem leaves_seq {F : Frame} {P : State → Prop} {a b : Act Unit} (ha : Keeps F a) (hb : Leaves P b) :
    Leaves P (a >>= fun _ => b) :=
  ⟨logged_bind ha.logged fun _ => hb.logged, fun s => by
    rw [run_seq ha.logged hb.logged]
    exact hb.post _⟩

/-- What the first of two actions brings about holds after both when the second one keeps it. -/
theorem leaves_keeps {F : Frame} {P : State → Prop} {a b : Act Unit} (ha : Leaves P a) (hb : Keeps F b)
    (h : ∀ t u, F.rel t u → P t → P u) : Leaves P (a >>= fun _ => b) :=
  ⟨logged_bind ha.logged fun _ => hb.logged, fun s => by
    rw [run_seq ha.logged hb.logged]
    exact h _ _ (hb.run _) (ha.post s)⟩

theorem leaves_look {α : Type} {P : State → Prop} {f : State → α} {g : α → Act Unit} (h : ∀ x, Leaves P (g x)) :
    Leaves P (look f >>= g) :=
  ⟨logged_bind (logged_look _) fun x => (h x).logged, fun s => (h (f s)).post s⟩

/-- What an action brings about for each item of a list holds for all of them in the end, when the actions keep it. -/
theorem leaves_each {α : Type} {F : Frame} {P : α → State → Prop} {f : α → Act Unit} {l : List α} {i : α} (hk : ∀ i, Keeps F (f i))
    (hp : ∀ i t u, F.rel t u → P i t → P i u) (hf : ∀ i, Leaves (P i) (f i)) (hi : i ∈ l) : Leaves (P i) (each l f) := by
  induction l with
  | nil => cases hi
  | cons j l ih =>
    rcases List.mem_cons.mp hi with rfl | hm
    · exact leaves_keeps (hf i) (keeps_each hk) (hp i)
    · exact leaves_seq (hk j) (ih hm)

/-! ### What keeps the cycle -/

/-- Every change but the power-on reset leaves the cycle. -/
theorem clock_emit {u : Upd} (h : u ≠ .powerOn) : Keeps clockFrame (emit u) :=
  keeps_emit fun s => by
    cases u with
    | powerOn => exact absurd rfl h
    | _ => rfl

end Sys2Proof.Machine

namespace Sys2Proof.Machine
open Sys2Proof

/-! ### The frame of messages and reports -/

/-- What the messages and reports of the module's units leave as it was: the state stays but for the network, memory, the gangs, the
reports, what leaves the module and two registers; no pending event and no timer is lost. -/
structure NetRel (s t : State) : Prop where
  fields : t = { s with
    agenda := t.agenda, timers := t.timers, nextId := t.nextId, mem := t.mem, mregs := t.mregs, routers := t.routers, mail := t.mail,
    gangs := t.gangs, reports := t.reports, stretchLast := t.stretchLast, stretchSince := t.stretchSince, out := t.out }
  mregs : ∀ off, off ≠ 0x0918 → off ≠ 0x0948 → mreg t off = mreg s off
  agenda : ∀ e ∈ s.agenda, e ∈ t.agenda
  timers : ∀ e ∈ s.timers, e ∈ t.timers

theorem NetRel.refl (s : State) : NetRel s s := ⟨rfl, fun _ _ _ => rfl, fun _ h => h, fun _ h => h⟩

theorem NetRel.trans {s t u : State} (h : NetRel s t) (k : NetRel t u) : NetRel s u where
  fields := by
    have hk := k.fields
    rw [h.fields] at hk
    exact hk
  mregs off a b := (k.mregs off a b).trans (h.mregs off a b)
  agenda e he := k.agenda e (h.agenda e he)
  timers e he := k.timers e (h.timers e he)

def netFrame : Frame where
  rel := NetRel
  refl := NetRel.refl
  trans := NetRel.trans
  cycle h := by rw [h.fields]

section
variable {key t : Nat} {e : Instr}

theorem net_emit {u : Upd} (hf : ∀ s, NetRel s (applyUpd u s)) : Keeps netFrame (emit u) := keeps_emit hf

theorem net_sched : Keeps netFrame (emit (.sched key e)) :=
  net_emit fun _ => ⟨rfl, fun _ _ _ => rfl, fun _ h => mem_putEvent.mpr (.inr h), fun _ h => h⟩
theorem net_timer : Keeps netFrame (emit (.timer t e)) :=
  net_emit fun _ => ⟨rfl, fun _ _ _ => rfl, fun _ h => h, fun _ h => mem_putEvent.mpr (.inr h)⟩
theorem net_newId : Keeps netFrame (emit .newId) := net_emit fun _ => ⟨rfl, fun _ _ _ => rfl, fun _ h => h, fun _ h => h⟩
theorem net_mail {l} : Keeps netFrame (emit (.mail l)) :=
  net_emit fun _ => ⟨rfl, fun _ _ _ => rfl, fun _ h => h, fun _ h => h⟩
theorem net_mem {pa b} : Keeps netFrame (emit (.mem pa b)) :=
  net_emit fun _ => ⟨rfl, fun _ _ _ => rfl, fun _ h => h, fun _ h => h⟩
theorem net_gang {n x} : Keeps netFrame (emit (.gang n x)) :=
  net_emit fun _ => ⟨rfl, fun _ _ _ => rfl, fun _ h => h, fun _ h => h⟩
theorem net_reports {l} : Keeps netFrame (emit (.reports l)) :=
  net_emit fun _ => ⟨rfl, fun _ _ _ => rfl, fun _ h => h, fun _ h => h⟩
theorem net_out {o} : Keeps netFrame (emit (.out o)) :=
  net_emit fun _ => ⟨rfl, fun _ _ _ => rfl, fun _ h => h, fun _ h => h⟩
theorem net_stretch {a b} : Keeps netFrame (emit (.stretch a b)) :=
  net_emit fun _ => ⟨rfl, fun _ _ _ => rfl, fun _ h => h, fun _ h => h⟩
theorem net_modRouter {r f} : Keeps netFrame (modRouter r f) :=
  keeps_look_bind fun _ => net_emit fun _ => ⟨rfl, fun _ _ _ => rfl, fun _ h => h, fun _ h => h⟩

/-- A report counts in HRPTSEQ and in the counter of lost ones. -/
theorem net_mreg {off v} (h : off = 0x0918 ∨ off = 0x0948) : Keeps netFrame (emit (.mreg off v)) :=
  net_emit fun s => ⟨rfl, fun p ha hb => by rw [mreg_changed, if_neg (by omega)], fun _ h => h, fun _ h => h⟩

theorem net_countMreg {off n} (h : off = 0x0918 ∨ off = 0x0948) : Keeps netFrame (countMreg off n) :=
  keeps_look_bind fun _ => keeps_onlyIf (net_mreg h)

end

/-! ### The frame of what a fence has done -/

/-- What is left alone by all that ends threads and counts, and by all that answers a message that cannot be delivered: the fenced
cores and dies, the deques, the queued tasks of fenced cores, and the slots without a thread. -/
structure SparesRel (s t : State) : Prop where
  cycle : t.cycle = s.cycle
  fence : ∀ c, creg t c 0x0EC8 = creg s c 0x0EC8
  deque : ∀ c, (coreAt t c).deque = (coreAt s c).deque
  tasks : ∀ c, isFenced s c = true → (coreAt t c).tasks = (coreAt s c).tasks
  thread : ∀ c k, threadAt s c k = none → threadAt t c k = none
  dies : ∀ d, dieFenced t d = dieFenced s d

theorem SparesRel.fenced {s t : State} (h : SparesRel s t) (c : Nat) : isFenced t c = isFenced s c := by
  simp only [isFenced, h.fence]

theorem SparesRel.refl (s : State) : SparesRel s s :=
  ⟨rfl, fun _ => rfl, fun _ => rfl, fun _ _ => rfl, fun _ _ h => h, fun _ => rfl⟩

theorem SparesRel.trans {s t u : State} (h : SparesRel s t) (k : SparesRel t u) : SparesRel s u where
  cycle := k.cycle.trans h.cycle
  fence c := (k.fence c).trans (h.fence c)
  deque c := (k.deque c).trans (h.deque c)
  tasks c hc := (k.tasks c ((h.fenced c).trans hc)).trans (h.tasks c hc)
  thread c j hn := k.thread c j (h.thread c j hn)
  dies d := (k.dies d).trans (h.dies d)

def sparesFrame : Frame where
  rel := SparesRel
  refl := SparesRel.refl
  trans := SparesRel.trans
  cycle := SparesRel.cycle

/-- A change of nothing that the frame speaks of. -/
theorem SparesRel.of_fields {s t : State} (hc : t.cycle = s.cycle) (hx : t.cores = s.cores) (hs : t.slots = s.slots)
    (hd : mreg t 0x0920 = mreg s 0x0920) : SparesRel s t :=
  ⟨hc, fun _ => by simp only [creg, coreAt, hx], fun _ => by simp only [coreAt, hx], fun _ _ => by simp only [coreAt, hx],
    fun _ _ h => by simpa only [threadAt, slotAt, hs] using h, fun _ => by simp only [dieFenced, hd]⟩

theorem Keeps.spares {α : Type} {a : Act α} (h : Keeps netFrame a) : Keeps sparesFrame a :=
  h.mono fun _ _ (r : NetRel _ _) => SparesRel.of_fields (by rw [r.fields]) (by rw [r.fields]) (by rw [r.fields])
    (r.mregs _ (by decide) (by decide))

section

theorem spares_emit {u : Upd} (h : ∀ s, (applyUpd u s).cycle = s.cycle ∧ (applyUpd u s).cores = s.cores ∧
    (applyUpd u s).slots = s.slots ∧ mreg (applyUpd u s) 0x0920 = mreg s 0x0920) : Keeps sparesFrame (emit u) :=
  keeps_emit fun s => by
    obtain ⟨hc, hx, hs, hd⟩ := h s
    exact SparesRel.of_fields hc hx hs hd

theorem spares_reports {l} : Keeps sparesFrame (emit (.reports l)) := spares_emit fun _ => ⟨rfl, rfl, rfl, rfl⟩
theorem spares_mail {l} : Keeps sparesFrame (emit (.mail l)) := spares_emit fun _ => ⟨rfl, rfl, rfl, rfl⟩
theorem spares_modDie {d f} : Keeps sparesFrame (modDie d f) :=
  keeps_look_bind fun _ => spares_emit fun _ => ⟨rfl, rfl, rfl, rfl⟩
theorem spares_modSheaf {n f} : Keeps sparesFrame (modSheaf n f) :=
  keeps_look_bind fun _ => spares_emit fun _ => ⟨rfl, rfl, rfl, rfl⟩
theorem spares_modWell {w f} : Keeps sparesFrame (modWell w f) :=
  keeps_look_bind fun _ => spares_emit fun _ => ⟨rfl, rfl, rfl, rfl⟩
theorem spares_modSiphon {i f} : Keeps sparesFrame (modSiphon i f) :=
  keeps_look_bind fun _ => spares_emit fun _ => ⟨rfl, rfl, rfl, rfl⟩
theorem spares_mreg {off v} (h : off ≠ 0x0920) : Keeps sparesFrame (emit (.mreg off v)) :=
  spares_emit fun s => ⟨rfl, rfl, rfl, by rw [mreg_changed, if_neg h.symm]⟩

/-- A change of a core that leaves its fence, its deque and, while it is fenced, its queued tasks. -/
theorem sparesRel_core {s : State} {c : Nat} {x : Core}
    (hr : mget (coreRegReset 0x0EC8) x.regs 0x0EC8 = creg s c 0x0EC8) (hd : x.deque = (coreAt s c).deque)
    (ht : isFenced s c = true → x.tasks = (coreAt s c).tasks) : SparesRel s (applyUpd (.core c x) s) where
  cycle := rfl
  fence d := by
    by_cases h : d = c
    · subst h
      simpa only [creg, coreAt_changed, if_pos] using hr
    · simp only [creg, coreAt_changed, if_neg h]
  deque d := by
    by_cases h : d = c
    · subst h
      simpa only [coreAt_changed, if_pos] using hd
    · simp only [coreAt_changed, if_neg h]
  tasks d hf := by
    by_cases h : d = c
    · subst h
      simpa only [coreAt_changed, if_pos] using ht hf
    · simp only [coreAt_changed, if_neg h]
  thread _ _ h := h
  dies _ := rfl

theorem spares_modCore {c f} (h : ∀ x : Core, (f x).regs = x.regs ∧ (f x).deque = x.deque ∧ (f x).tasks = x.tasks) :
    Keeps sparesFrame (modCore c f) :=
  ⟨logged_modCore _ _, fun s => by
    obtain ⟨hr, hd, ht⟩ := h (coreAt s c)
    exact sparesRel_core (by rw [hr]; rfl) hd fun _ => ht⟩

theorem spares_setCreg {c off v} (h : off ≠ 0x0EC8) : Keeps sparesFrame (setCreg c off v) :=
  ⟨logged_setCreg _ _ _, fun _ => sparesRel_core (mget_mset_ne _ _ _ v h.symm) rfl fun _ => rfl⟩

theorem spares_countReg {c off n} (h : off ≠ 0x0EC8) : Keeps sparesFrame (countReg c off n) :=
  keeps_look_bind fun _ => keeps_onlyIf (spares_setCreg h)

/-- A change of a slot that gives it no thread where it has none. -/
theorem sparesRel_slot {s : State} {c k : Nat} {x : Slot} (h : (slotAt s c k).thread = none → x.thread = none) :
    SparesRel s (applyUpd (.slot c k x) s) :=
  ⟨rfl, fun _ => rfl, fun _ => rfl, fun _ _ => rfl, fun d j hn => by
    simp only [threadAt, slotAt_changed]
    split
    case isTrue e => exact h (by simpa only [threadAt, slotAt, e] using hn)
    case isFalse => exact hn, fun _ => rfl⟩

theorem spares_modSlot {c k f} (h : ∀ x : Slot, x.thread = none → (f x).thread = none) : Keeps sparesFrame (modSlot c k f) :=
  ⟨logged_modSlot _ _ _, fun _ => sparesRel_slot (h _)⟩

theorem spares_modThread {c k f} : Keeps sparesFrame (modThread c k f) :=
  spares_modSlot fun x h => by rw [mapThread_thread, h, Option.map_none]

end

/-! ### The outcome of a step -/

/-- Every next state of an outcome stands in the frame to s. -/
def Stays (F : Frame) (s : State) (o : Host.Outcome State Fault Refusal) : Prop := ∀ t, o = .next t → F.rel s t

section
variable {F : Frame} {s : State}

theorem stays_next {t : State} (h : F.rel s t) : Stays F s (.next t) := fun _ e => by
  cases e
  exact h
theorem stays_run {a : Act Unit} (h : Keeps F a) : Stays F s (.next (run a s)) := stays_next (h.run s)
theorem stays_fire {k : Fire → State} (h : ∀ f, F.rel s (k f)) : Stays F s (fire s k) := fun t e => by
  obtain ⟨f, -, rfl⟩ := fire_next.mp e
  exact h f
theorem stays_fireAct {k : Fire → Act Unit} (h : ∀ f, Keeps F (k f)) : Stays F s (fireAct s k) :=
  stays_fire fun f => (h f).run s

end

/-! ### The cycle through every action -/

theorem clock_modSlot {c k f} : Keeps clockFrame (modSlot c k f) := keeps_look_bind fun _ => clock_emit nofun
theorem clock_modThread {c k f} : Keeps clockFrame (modThread c k f) := clock_modSlot
theorem clock_modCore {c f} : Keeps clockFrame (modCore c f) := keeps_look_bind fun _ => clock_emit nofun
theorem clock_modDie {d f} : Keeps clockFrame (modDie d f) := keeps_look_bind fun _ => clock_emit nofun
theorem clock_modSheaf {n f} : Keeps clockFrame (modSheaf n f) := keeps_look_bind fun _ => clock_emit nofun
theorem clock_modRouter {r f} : Keeps clockFrame (modRouter r f) := keeps_look_bind fun _ => clock_emit nofun
theorem clock_modWell {w f} : Keeps clockFrame (modWell w f) := keeps_look_bind fun _ => clock_emit nofun
theorem clock_modSiphon {i f} : Keeps clockFrame (modSiphon i f) := keeps_look_bind fun _ => clock_emit nofun
theorem clock_setCreg {c off v} : Keeps clockFrame (setCreg c off v) := clock_modCore
theorem clock_countReg {c off n} : Keeps clockFrame (countReg c off n) := keeps_look_bind fun _ => keeps_onlyIf clock_setCreg
theorem clock_countMreg {off n} : Keeps clockFrame (countMreg off n) :=
  keeps_look_bind fun _ => keeps_onlyIf (clock_emit nofun)

end Sys2Proof.Machine

namespace Sys2Proof.Machine
open Sys2Proof

/-! ### What messages and reports leave as it was -/

theorem net_later {n phase place e} : Keeps netFrame (later n phase place e) := keeps_look_bind fun _ => net_sched

theorem net_atCycle {t phase place e} : Keeps netFrame (atCycle t phase place e) := keeps_look_bind fun _ => net_sched

theorem net_onTick {t e} : Keeps netFrame (onTick t e) := net_timer

theorem net_freshId : Keeps netFrame freshId := keeps_look_bind fun _ => keeps_bind net_newId fun _ => keeps_pure

theorem net_pokeWaits {pa n} : Keeps netFrame (pokeWaits pa n) := keeps_look_bind fun _ => keeps_each fun _ => net_later

theorem net_tellHandler {c k} : Keeps netFrame (tellHandler c k) :=
  keeps_look_bind fun _ => by split <;> exact net_later

theorem net_pokeSlots {c} : Keeps netFrame (pokeSlots c) := net_later

theorem net_wakeRouter {r} : Keeps netFrame (wakeRouter r) :=
  keeps_look_bind fun _ => keeps_onlyIf (keeps_bind net_modRouter fun _ => net_later)

theorem net_enterRouter {r input p} : Keeps netFrame (enterRouter r input p) :=
  keeps_look_bind fun _ => keeps_bind net_later fun _ =>
  keeps_ite (keeps_bind net_modRouter fun _ => net_wakeRouter) (keeps_bind net_modRouter fun _ => net_later)

theorem net_sendFrom {src input dst slack exh core slot m} :
    Keeps netFrame (sendFrom src input dst slack exh core slot m) :=
  keeps_bind net_freshId fun _ => net_enterRouter

theorem net_sendMsg {src dst slack exh core slot m} : Keeps netFrame (sendMsg src dst slack exh core slot m) :=
  net_sendFrom

theorem net_unitSendBy {core src dst phase place e} : Keeps netFrame (unitSendBy core src dst phase place e) :=
  keeps_ite net_later
    (keeps_bind net_freshId fun _ => keeps_look_bind fun _ => keeps_bind net_mail fun _ => net_sendMsg)

theorem net_unitSend {src dst phase place e} : Keeps netFrame (unitSend src dst phase place e) := net_unitSendBy

theorem net_againSoon {phase place e} : Keeps netFrame (againSoon phase place e) :=
  keeps_look_bind fun _ => keeps_onlyIf net_later

theorem net_pokeForeign {pa} : Keeps netFrame (pokeForeign pa) :=
  keeps_look_bind fun _ => by
    split
    · exact net_pokeWaits
    · exact keeps_pure

theorem net_noteWritten {a} : Keeps netFrame (noteWritten a) := by
  unfold noteWritten
  split
  · exact net_pokeForeign
  · exact keeps_pure

theorem net_sendNode {src n m} : Keeps netFrame (sendNode src n m) :=
  keeps_look_bind fun _ => by
    split
    · exact net_sendMsg
    · exact keeps_pure

theorem net_sendBack {src input a core slot slack exh m} :
    Keeps netFrame (sendBack src input a core slot slack exh m) :=
  keeps_look_bind fun _ => by
    dsimp only
    split
    · exact net_sendFrom
    · split
      · exact net_sendFrom
      · exact keeps_pure
    · split
      · split
        · exact net_sendFrom
        · exact keeps_pure
      · exact keeps_pure

theorem net_writeOwn {pa bs} : Keeps netFrame (writeOwn pa bs) :=
  keeps_look_bind fun _ => keeps_bind (keeps_each fun _ => keeps_onlyIf net_mem) fun _ => net_pokeWaits

theorem net_sendReport {d kind queue sheaf err idx flags errevt info} :
    Keeps netFrame (sendReport d kind queue sheaf err idx flags errevt info) :=
  keeps_look_bind fun _ => keeps_bind (keeps_onlyIf net_out) fun _ => keeps_ite keeps_pure
    (keeps_bind (net_mreg (by omega)) fun _ => by
      dsimp only
      split
      · exact keeps_ite (keeps_bind (net_countMreg (by omega)) fun _ => keeps_pure)
            (keeps_bind net_sendNode fun _ => keeps_pure)
      · exact keeps_ite (keeps_bind net_writeOwn fun _ => keeps_pure)
            (keeps_bind (net_countMreg (by omega)) fun _ => keeps_pure)
      · exact keeps_ite (keeps_bind net_writeOwn fun _ => keeps_pure)
            (keeps_bind (net_countMreg (by omega)) fun _ => keeps_pure)
      · exact keeps_bind (net_countMreg (by omega)) fun _ => keeps_pure)

theorem net_plainReport {d kind queue sheaf err idx flags errevt info} :
    Keeps netFrame (plainReport d kind queue sheaf err idx flags errevt info) :=
  keeps_look_bind fun _ => keeps_bind net_sendReport fun _ => by
    split
    · exact keeps_pure
    · exact keeps_look_bind fun _ => keeps_bind net_reports fun _ => net_onTick

theorem net_sendMulti {d kind node m} : Keeps netFrame (sendMulti d kind node m) :=
  keeps_look_bind fun _ => net_unitSend

theorem net_keepGang {g x} : Keeps netFrame (keepGang g x) := net_gang

theorem net_abortGang {d g x err m} : Keeps netFrame (abortGang d g x err m) :=
  keeps_bind (keeps_each fun _ => net_sendMulti) fun _ => net_keepGang

theorem net_lostLock : Keeps netFrame lostLock :=
  keeps_look_bind fun _ => keeps_bind (keeps_each fun _ => keeps_each fun _ => net_sendMulti) fun _ =>
  keeps_each fun _ => keeps_onlyIf net_abortGang

theorem net_moduleReport {kind queue sheaf idx info} : Keeps netFrame (moduleReport kind queue sheaf idx info) :=
  keeps_look_bind fun _ => net_plainReport

theorem net_reportStretch : Keeps netFrame reportStretch :=
  keeps_look_bind fun _ => keeps_onlyIf (keeps_bind net_stretch fun _ => net_moduleReport)

theorem net_openElection : Keeps netFrame openElection :=
  keeps_look_bind fun _ => keeps_onlyIf (keeps_each fun _ => net_onTick)

/-! ### What counts, faults and ends of threads leave as it was -/

theorem spares_modBlock {c k f} : Keeps sparesFrame (modBlock c k f) := spares_modThread

theorem spares_modCell {c i f} : Keeps sparesFrame (modCell c i f) := spares_modCore fun _ => ⟨rfl, rfl, rfl⟩

theorem spares_colourReceived {c col} : Keeps sparesFrame (colourReceived c col) :=
  spares_modCore fun _ => by split <;> exact ⟨rfl, rfl, rfl⟩

theorem spares_formBatch {c} : Keeps sparesFrame (formBatch c) :=
  keeps_look_bind fun _ => spares_modCore fun _ => by split <;> exact ⟨rfl, rfl, rfl⟩

theorem spares_recordCounts {c ds} : Keeps sparesFrame (recordCounts c ds) :=
  keeps_onlyIf (keeps_look_bind fun _ => keeps_look_bind fun _ => keeps_bind (keeps_onlyIf spares_formBatch) fun _ =>
    keeps_look_bind fun _ => keeps_bind (keeps_onlyIf net_later.spares) fun _ =>
    keeps_bind (spares_modCore fun _ => ⟨rfl, rfl, rfl⟩) fun _ =>
    keeps_look_bind fun _ => keeps_onlyIf net_later.spares)

theorem spares_countDie {c sheaf t n} : Keeps sparesFrame (countDie c sheaf t n) := by
  unfold countDie
  split
  · exact keeps_pure
  · exact keeps_onlyIf (keeps_look_bind fun _ => keeps_bind spares_formBatch fun _ =>
        keeps_bind (spares_modCore fun _ => ⟨rfl, rfl, rfl⟩) fun _ => net_later.spares)

theorem spares_countAt {c sheaf t n} : Keeps sparesFrame (countAt c sheaf t n) := by
  unfold countAt
  split
  · exact keeps_pure
  · exact keeps_ite (keeps_onlyIf (spares_countReg (by omega)))
        (keeps_look_bind fun _ => keeps_ite spares_countDie
          (keeps_ite spares_recordCounts
            (keeps_bind (spares_modCore fun _ => ⟨rfl, rfl, rfl⟩) fun _ => net_later.spares)))

theorem spares_errorEvent {sheaf} : Keeps sparesFrame (errorEvent sheaf) := spares_modSheaf

theorem spares_pokeHeld {h} : Keeps sparesFrame (pokeHeld h) :=
  keeps_bind net_later.spares fun _ => keeps_look_bind fun _ =>
  keeps_onlyIf (keeps_bind (keeps_each fun _ => net_later.spares) fun _ => spares_modCore fun _ => ⟨rfl, rfl, rfl⟩)

theorem spares_undoResv {r} : Keeps sparesFrame (undoResv r) := by
  unfold undoResv
  split
  · exact keeps_pure
  · dsimp only
    split
    · exact keeps_bind spares_modCell fun _ => spares_pokeHeld
    · exact keeps_bind spares_modCell fun _ => spares_pokeHeld
    · exact keeps_bind spares_modCell fun _ => spares_pokeHeld
    · exact spares_pokeHeld

theorem spares_releaseBlock {c k} : Keeps sparesFrame (releaseBlock c k) :=
  keeps_look_bind fun _ => by
    split
    · exact keeps_pure
    · exact keeps_onlyIf (keeps_bind (keeps_each fun _ => spares_undoResv) fun _ =>
          keeps_bind (spares_countReg (by omega)) fun _ =>
          keeps_bind spares_modBlock fun _ => keeps_each fun _ => spares_pokeHeld)

theorem spares_clearPending {c k} : Keeps sparesFrame (clearPending c k) :=
  keeps_look_bind fun _ => spares_setCreg (by omega)

theorem spares_serviceFault {c k cause reason index info} :
    Keeps sparesFrame (serviceFault c k cause reason index info) :=
  keeps_look_bind fun _ => by
    split
    · exact keeps_pure
    · exact keeps_onlyIf (keeps_bind spares_releaseBlock fun _ => keeps_look_bind fun _ =>
          keeps_bind spares_modThread fun _ => keeps_bind (spares_setCreg (by omega)) fun _ =>
          keeps_bind (spares_setCreg (by omega)) fun _ => keeps_bind (spares_setCreg (by omega)) fun _ =>
          keeps_bind (spares_setCreg (by omega)) fun _ =>
          keeps_look_bind fun _ => keeps_bind (spares_setCreg (by omega)) fun _ => keeps_onlyIf net_tellHandler.spares)

theorem spares_userTrap {c k cause reason index info svc} :
    Keeps sparesFrame (userTrap c k cause reason index info svc) :=
  keeps_look_bind fun _ => by
    split
    · exact keeps_pure
    · exact keeps_look_bind fun _ => keeps_ite spares_serviceFault
          (keeps_bind spares_releaseBlock fun _ => keeps_bind spares_modThread fun _ => net_later.spares)

theorem spares_takeFault {c k f} : Keeps sparesFrame (takeFault c k f) := keeps_ite spares_userTrap spares_serviceFault

/-- What is left alone by a change of a core's registers that is no fence. -/
def regsFrame : Frame where
  rel s t := SparesRel s t ∧ t.slots = s.slots
  refl s := ⟨SparesRel.refl s, rfl⟩
  trans h k := ⟨h.1.trans k.1, k.2.trans h.2⟩
  cycle h := h.1.cycle

theorem regs_setCreg {c off v} (h : off ≠ 0x0EC8) : Keeps regsFrame (setCreg c off v) :=
  ⟨logged_setCreg _ _ _, fun s => ⟨(spares_setCreg h).rel s, rfl⟩⟩

theorem regs_clearPending {c k} : Keeps regsFrame (clearPending c k) :=
  keeps_look_bind fun _ => regs_setCreg (by omega)

/-- The thread that a fault of this cycle has put aside comes back to a slot that has a thread. -/
theorem spares_restoreThread {s : State} {c k : Nat} {u : Undo} (h : (threadAt s c k).isSome) :
    KeepsAt sparesFrame s (modSlot c k fun x => { x with thread := some u.thread }) :=
  ⟨logged_modSlot _ _ _, sparesRel_slot fun hn => by simp [threadAt, hn] at h⟩

theorem threadAt_of_beforeFault {s : State} {c k n : Nat} {u : Undo} (h : beforeFault s c k n = some u) :
    (threadAt s c k).isSome := by
  unfold beforeFault at h
  split at h
  · split at h
    case isTrue hc => exact hc.2.2
    case isFalse => cases h
  · cases h

theorem spares_raise {c k f} : Keeps sparesFrame (raise c k f) :=
  keeps_look_at fun s => by
    split
    · exact Keeps.at (keeps_bind spares_releaseBlock fun _ => keeps_look_bind fun _ => keeps_bind spares_takeFault fun _ =>
        spares_modSlot fun _ h => h)
    · split
      case h_1 => exact keeps_pure.at
      case h_2 u hu =>
        refine keepsAt_bind (G := regsFrame) regs_clearPending.at (fun _ h => h.1) fun _ t₁ h₁ => keepsAt_bind (G := regsFrame)
          (keeps_each fun _ => regs_setCreg (by omega)).at (fun _ h => h.1) fun _ t₂ h₂ => ?_
        have ht : (threadAt t₂ c k).isSome := by
          have hs : t₂.slots = s.slots := h₂.2.trans h₁.2
          simpa only [threadAt, slotAt, hs] using threadAt_of_beforeFault hu
        exact keepsAt_bind (spares_restoreThread ht) (fun _ h => h) fun _ _ _ =>
          Keeps.at (keeps_bind spares_takeFault fun _ => spares_modSlot fun _ h => h)

theorem spares_countPops {c l} : Keeps sparesFrame (countPops c l) := by
  unfold countPops
  split
  · exact keeps_pure
  · exact keeps_each fun _ => by
        split
        · exact spares_countAt
        · exact keeps_pure

theorem spares_vacate {c k} : Keeps sparesFrame (vacate c k) :=
  keeps_look_bind fun _ => keeps_look_bind fun _ => keeps_bind (spares_modSlot fun _ _ => rfl) fun _ =>
  keeps_look_bind fun _ => keeps_bind (spares_setCreg (by omega)) fun _ => net_pokeSlots.spares

theorem spares_removeThread {c k} : Keeps sparesFrame (removeThread c k) :=
  keeps_look_bind fun _ => by
    split
    · exact keeps_pure
    · exact keeps_bind spares_releaseBlock fun _ => keeps_bind spares_countPops fun _ =>
        keeps_bind spares_countPops fun _ =>
        keeps_bind (keeps_each fun _ => spares_countAt) fun _ => keeps_bind spares_clearPending fun _ => spares_vacate

theorem spares_endThread {c k time} : Keeps sparesFrame (endThread c k time) :=
  keeps_look_bind fun _ => by
    split
    · exact keeps_pure
    · exact keeps_bind (keeps_onlyIf spares_countAt) fun _ => spares_removeThread

theorem spares_modXfer {e f} : Keeps sparesFrame (modXfer e f) := by
  unfold modXfer
  split
  · exact spares_modSiphon
  · exact spares_modCore fun _ => by split <;> exact ⟨rfl, rfl, rfl⟩
  · exact keeps_pure

theorem spares_pokeEngine {e} : Keeps sparesFrame (pokeEngine e) :=
  keeps_look_bind fun _ => by
    split
    · exact keeps_ite net_againSoon.spares net_againSoon.spares
    · split
      · exact net_againSoon.spares
      · exact keeps_pure
    · exact net_againSoon.spares
    · exact net_againSoon.spares
    · exact net_later.spares

theorem spares_engineAnswer {e a} : Keeps sparesFrame (engineAnswer e a) := by
  unfold engineAnswer
  split
  · exact keeps_bind spares_modDie fun _ => spares_pokeEngine
  · exact keeps_bind spares_modThread fun _ => keeps_look_bind fun _ => keeps_onlyIf spares_pokeEngine
  · exact keeps_look_bind fun _ => keeps_bind spares_reports fun _ => spares_pokeEngine
  · exact keeps_bind net_noteWritten.spares fun _ =>
      keeps_bind spares_modXfer fun _ => keeps_look_bind fun _ => keeps_onlyIf spares_pokeEngine

theorem spares_deliverNow {d} : Keeps sparesFrame (deliverNow d) :=
  keeps_look_bind fun _ => by
    dsimp only
    split
    · exact net_later.spares
    · exact spares_engineAnswer
    · exact net_atCycle.spares

theorem spares_unreachableMsg {m} : Keeps sparesFrame (unreachableMsg m) := by
  unfold unreachableMsg
  split
  · exact spares_deliverNow
  · exact spares_deliverNow
  · exact spares_engineAnswer
  · exact spares_engineAnswer
  · exact net_later.spares
  · split
    · exact spares_engineAnswer
    · exact keeps_bind (spares_modCore fun _ => ⟨rfl, rfl, rfl⟩) fun _ => spares_raise
  · split
    · exact spares_engineAnswer
    · exact keeps_bind (spares_modCore fun _ => ⟨rfl, rfl, rfl⟩) fun _ => spares_raise
  · exact keeps_look_bind fun _ =>
      keeps_bind (spares_modCore fun _ => ⟨rfl, rfl, rfl⟩) fun _ => keeps_each fun _ => spares_raise
  · exact keeps_onlyIf (keeps_bind spares_colourReceived fun _ => spares_countAt)
  · exact net_later.spares
  · exact keeps_bind (keeps_onlyIf (keeps_bind spares_colourReceived fun _ => spares_countAt)) fun _ => net_later.spares
  · exact net_later.spares
  · exact net_later.spares
  · split
    · exact keeps_bind spares_colourReceived fun _ => spares_countAt
    · exact keeps_pure
  · exact net_later.spares
  · exact keeps_look_bind fun _ => spares_mail
  · exact keeps_pure

theorem spares_unreachableAt {src m} : Keeps sparesFrame (unreachableAt src m) := by
  unfold unreachableAt
  split
  · exact keeps_ite spares_unreachableMsg net_sendBack.spares
  · exact keeps_ite spares_unreachableMsg net_sendBack.spares
  · exact net_sendBack.spares
  · exact net_sendBack.spares
  · exact spares_unreachableMsg

/-- A task that is queued at a core that is not fenced. -/
theorem sparesRel_tasks {s : State} {c : Nat} {f : Core → List RecalcTask} (h : isFenced s c = false) :
    KeepsAt sparesFrame s (modCore c fun x => { x with tasks := f x }) :=
  ⟨logged_modCore _ _, sparesRel_core rfl rfl fun e => by rw [h] at e; cases e⟩

theorem spares_queueTask {s : State} {h i t held} (hf : isFenced s h = false) :
    KeepsAt sparesFrame s (queueTask h i t held) := by
  refine keepsAt_look_bind fun x => ?_
  split
  · exact (spares_countReg (by omega)).at
  · cases !(tasksOf x i).any fun y => decide (y.time = t)
    · exact keeps_pure.at
    · exact keepsAt_bind (sparesRel_tasks hf) (fun _ h => h) fun _ _ _ =>
        Keeps.at (keeps_bind spares_modCell fun _ => spares_countAt)

theorem clock_queueTask {h i t held} : Keeps clockFrame (queueTask h i t held) :=
  keeps_look_bind fun _ => keeps_ite clock_countReg
    (keeps_onlyIf (keeps_bind clock_modCore fun _ => keeps_bind spares_modCell.clock fun _ => spares_countAt.clock))

theorem spares_armEntry {e} : Keeps sparesFrame (armEntry e) :=
  keeps_look_bind fun _ => keeps_look_bind fun _ => keeps_ite (keeps_bind spares_modDie fun _ => net_onTick.spares)
    (keeps_ite (keeps_bind spares_modDie fun _ => keeps_ite net_later.spares net_onTick.spares) spares_modDie)

theorem spares_setCutState {n} : Keeps sparesFrame (setCutState n) := keeps_look_bind fun _ => spares_mreg (by omega)

theorem spares_cutResumed : Keeps sparesFrame cutResumed := keeps_look_bind fun _ => keeps_onlyIf spares_setCutState

theorem spares_freeReserved {k c} : Keeps sparesFrame (freeReserved k c) :=
  keeps_look_bind fun _ => keeps_onlyIf (keeps_bind (spares_modSlot fun _ h => h) fun _ => net_pokeSlots.spares)

theorem spares_armWaiting {d} : Keeps sparesFrame (armWaiting d) :=
  keeps_look_bind fun _ => keeps_bind spares_modDie fun _ => keeps_each fun _ => spares_armEntry

theorem spares_endCached {c t} : Keeps sparesFrame (endCached c t) :=
  keeps_bind spares_countAt fun _ => keeps_bind spares_countPops fun _ => spares_countPops

theorem spares_holdReachable : ∀ {fuel l}, Keeps sparesFrame (holdReachable fuel l)
  | 0, _ => keeps_pure
  | _ + 1, [] => keeps_pure
  | fuel + 1, (h, i) :: rest => keeps_look_at fun s => by
    refine keepsAt_bind (keepsAt_each fun n hn t hst => ?_) (fun _ h => h) fun _ _ _ => spares_holdReachable.at
    have hf : isFenced t n.1 = false := by
      obtain ⟨d, -, hd⟩ := List.mem_filterMap.mp hn
      split at hd
      · dsimp only at hd
        split at hd
        case isTrue hc =>
          cases hd
          rw [hst.fenced]
          simp only [Bool.and_eq_true, Bool.not_eq_true'] at hc
          exact hc.1.1.2
        case isFalse => cases hd
      · cases hd
    exact keepsAt_bind (spares_queueTask hf) (fun _ h => h) fun _ u hu =>
      keepsAt_bind (sparesRel_tasks ((hu.fenced _).trans hf)) (fun _ h => h) fun _ _ _ => spares_pokeHeld.at

theorem spares_endWaiting {c} : Keeps sparesFrame (endWaiting c) :=
  keeps_look_bind fun _ => keeps_bind spares_modDie fun _ => keeps_bind (keeps_each fun _ =>
      keeps_bind spares_countAt fun _ => by
        split
        · exact spares_freeReserved
        · exact keeps_pure) fun _ => spares_armWaiting

end Sys2Proof.Machine

namespace Sys2Proof.Machine
open Sys2Proof

/-! ### The cycle through every action, in the order of the model

No action but the power-on reset sets the cycle: the proof for an action follows its steps, and cites the lemma of each action that it
uses. -/

theorem clock_modPort {p f} : Keeps clockFrame (modPort p f) := keeps_look_bind fun _ => clock_emit nofun

theorem clock_modRoot {f} : Keeps clockFrame (modRoot f) := keeps_look_bind fun _ => clock_emit nofun

theorem clock_modChan {c q f} : Keeps clockFrame (modChan c q f) := clock_modCore

theorem clock_modSem {c m f} : Keeps clockFrame (modSem c m f) := clock_modCore

theorem clock_atCycleEnd {place e} {a : Act Unit} (ha : Keeps clockFrame a) :
    Keeps clockFrame (atCycleEnd place e a) :=
  keeps_look_bind fun _ => keeps_ite ha net_later.clock

theorem clock_takeDelay : Keeps clockFrame takeDelay :=
  keeps_look_bind fun _ => keeps_bind (clock_emit nofun) fun _ => keeps_pure

theorem clock_freshFree : Keeps clockFrame freshFree :=
  keeps_look_bind fun _ => keeps_bind (clock_emit nofun) fun _ => keeps_pure

theorem clock_putBytes {pa bs} : Keeps clockFrame (putBytes pa bs) := by
  induction bs generalizing pa with
  | nil => exact keeps_pure
  | cons b bs ih => exact keeps_bind (clock_emit nofun) fun _ => ih

theorem clock_writeBytes {pa bs} : Keeps clockFrame (writeBytes pa bs) :=
  keeps_bind clock_putBytes fun _ => net_pokeWaits.clock

theorem clock_writeNat {pa n v} : Keeps clockFrame (writeNat pa n v) := clock_writeBytes

theorem clock_write64 {pa v} : Keeps clockFrame (write64 pa v) := clock_writeNat

theorem clock_fillWord {pa} : Keeps clockFrame (fillWord pa) := keeps_onlyIf (clock_emit nofun)

theorem clock_colourSent {c col} : Keeps clockFrame (colourSent c col) := clock_modCore

theorem clock_takeLate {c ds} : Keeps clockFrame (takeLate c ds) := by
  induction ds with
  | nil => exact keeps_pure
  | cons d ds ih =>
    exact keeps_look_bind fun _ => keeps_ite
      (keeps_bind clock_modCore fun _ => keeps_bind spares_recordCounts.clock fun _ => ih) keeps_pure

theorem clock_mergeSheaf {sheaf f} : Keeps clockFrame (mergeSheaf sheaf f) := by
  unfold mergeSheaf
  split
  · exact keeps_pure
  · exact keeps_onlyIf clock_modSheaf

theorem clock_takeTurn {f ta tb fl effs} : Keeps clockFrame (takeTurn f ta tb fl effs) :=
  ⟨logged_takeTurn _ _ _ _ _, fun _ => rfl⟩

theorem clock_completeAct {f ta tb a b fl effs} : Keeps clockFrame (completeAct f ta tb a b fl effs) :=
  keeps_bind clock_takeTurn fun _ => keeps_look_bind fun _ => clock_emit nofun

theorem clock_parkOn {f w} : Keeps clockFrame (parkOn f w) := keeps_look_bind fun _ => clock_modThread

theorem clock_onThread {c k inc f} : Keeps clockFrame (onThread c k inc f) :=
  keeps_bind clock_modThread fun _ =>
  keeps_look_bind fun _ => keeps_each fun _ => keeps_each fun _ => keeps_onlyIf clock_modCore

theorem clock_acquireCommit {c} : Keeps clockFrame (acquireCommit c) :=
  keeps_look_bind fun _ => keeps_each fun _ => by
    split
    · exact keeps_bind clock_modChan fun _ => net_later.clock
    · exact keeps_pure

theorem clock_goOn {c k} : Keeps clockFrame (goOn c k) :=
  keeps_look_bind fun _ => keeps_bind (keeps_onlyIf clock_acquireCommit) fun _ =>
  keeps_bind clock_modThread fun _ => keeps_look_bind fun _ => keeps_onlyIf net_later.clock

theorem clock_wakeLocal {c k} : Keeps clockFrame (wakeLocal c k) :=
  keeps_look_bind fun _ => by
    split
    · exact keeps_pure
    · exact keeps_ite clock_goOn clock_modThread

theorem clock_raiseFor {id cause reason info} : Keeps clockFrame (raiseFor id cause reason info) :=
  keeps_look_bind fun _ => keeps_onlyIf spares_raise.clock

theorem clock_retryHeld {c k} : Keeps clockFrame (retryHeld c k) := keeps_bind clock_modThread fun _ => clock_goOn

theorem clock_slackEventAt {core slot} : Keeps clockFrame (slackEventAt core slot) :=
  keeps_onlyIf (keeps_bind clock_countReg fun _ => keeps_look_bind fun _ => by
      split
      · exact keeps_onlyIf clock_countReg
      · exact keeps_pure)

theorem clock_slackEvent {p} : Keeps clockFrame (slackEvent p) := clock_slackEventAt

theorem clock_takeMail {id} : Keeps clockFrame (takeMail id) :=
  keeps_look_bind fun _ => by
    split
    · exact keeps_pure
    · exact keeps_bind (clock_emit nofun) fun _ => keeps_each fun _ => net_later.clock

theorem clock_askWell {w r p} : Keeps clockFrame (askWell w r p) := by
  unfold askWell
  split
  · exact net_enterRouter.clock
  · exact keeps_look_bind fun _ =>
      keeps_ite (keeps_bind clock_modWell fun _ => net_enterRouter.clock)
        (keeps_bind clock_modWell fun _ => net_later.clock)

theorem clock_returnPermit {w q} : Keeps clockFrame (returnPermit w q) :=
  keeps_bind clock_modWell fun _ => keeps_look_bind fun _ => by
    split
    · exact keeps_pure
    · exact keeps_bind clock_modWell fun _ => keeps_bind (keeps_onlyIf clock_countReg) fun _ => net_enterRouter.clock

theorem clock_permitBack {w m} : Keeps clockFrame (permitBack w m) := by
  unfold permitBack
  split
  · exact clock_returnPermit
  · exact keeps_pure

theorem clock_sendFromTo {src c k o slack exh m} {own : Act Unit} (hown : Keeps clockFrame own) :
    Keeps clockFrame (sendFromTo src c k o slack exh m own) := by
  unfold sendFromTo
  split
  · exact keeps_ite hown net_sendMsg.clock
  · exact keeps_bind net_freshId.clock fun _ => clock_askWell
  · exact keeps_look_bind fun _ => by
        split
        · exact net_sendMsg.clock
        · exact keeps_pure
  · exact hown
  · exact keeps_pure

theorem clock_sendToOwner {c k o slack exh m} {own : Act Unit} (hown : Keeps clockFrame own) :
    Keeps clockFrame (sendToOwner c k o slack exh m own) :=
  clock_sendFromTo hown

theorem clock_unreachableOut {src m} : Keeps clockFrame (unreachableOut src m) := by
  unfold unreachableOut
  split
  · exact keeps_pure
  · exact keeps_pure
  · exact keeps_pure
  · exact keeps_pure
  · exact spares_unreachableAt.clock

theorem clock_arriveAtFenced {c m} : Keeps clockFrame (arriveAtFenced c m) :=
  keeps_look_bind fun _ => by
    split
    · exact keeps_onlyIf (keeps_bind spares_colourReceived.clock fun _ => spares_countAt.clock)
    · exact keeps_bind (keeps_onlyIf (keeps_bind spares_colourReceived.clock fun _ => spares_countAt.clock)) fun _ =>
        net_sendMsg.clock
    · split
      · exact keeps_bind spares_colourReceived.clock fun _ => spares_countAt.clock
      · exact keeps_pure
    · exact net_later.clock
    · exact net_later.clock
    · exact clock_modCore
    · exact keeps_ite spares_unreachableAt.clock (keeps_onlyIf net_later.clock)
    · exact keeps_ite spares_unreachableAt.clock (keeps_onlyIf net_later.clock)
    · exact clock_takeMail
    · exact keeps_pure

theorem clock_serveAtCore {c m} : Keeps clockFrame (serveAtCore c m) :=
  keeps_look_bind fun _ => by
    split
    · exact net_later.clock
    · exact spares_deliverNow.clock
    · exact net_later.clock
    · exact net_later.clock
    · exact net_later.clock
    · exact net_later.clock
    · exact net_later.clock
    · exact net_later.clock
    · exact net_later.clock
    · exact net_later.clock
    · exact net_later.clock
    · exact net_later.clock
    · exact net_later.clock
    · exact keeps_bind net_later.clock fun _ => net_sendMsg.clock
    · exact clock_takeMail
    · exact keeps_pure
    · exact keeps_pure
    · exact keeps_pure

theorem clock_arriveAtCore {c m} : Keeps clockFrame (arriveAtCore c m) :=
  keeps_look_bind fun _ => by
    split
    · exact spares_engineAnswer.clock
    · exact keeps_ite clock_arriveAtFenced clock_serveAtCore

theorem clock_arriveAtWell {w m} : Keeps clockFrame (arriveAtWell w m) :=
  keeps_look_bind fun _ => keeps_ite spares_unreachableAt.clock
    (keeps_bind clock_takeDelay fun _ => keeps_bind clock_modWell fun _ => net_later.clock)

theorem clock_emitFlit {p f} : Keeps clockFrame (emitFlit p f) :=
  keeps_bind (clock_emit nofun) fun _ =>
  keeps_look_bind fun _ => keeps_bind clock_modPort fun _ => keeps_onlyIf (clock_emit nofun)

theorem clock_insertAudit {p} : Keeps clockFrame (insertAudit p) :=
  keeps_look_bind fun _ => keeps_onlyIf (keeps_bind clock_emitFlit fun _ => clock_modPort)

theorem clock_putFlit {p f} : Keeps clockFrame (putFlit p f) := keeps_bind clock_emitFlit fun _ => clock_insertAudit

theorem clock_putControl {p kind data} : Keeps clockFrame (putControl p kind data) :=
  keeps_look_bind fun _ => clock_putFlit

theorem clock_sendFlit {p vc body} : Keeps clockFrame (sendFlit p vc body) :=
  keeps_look_bind fun _ => keeps_bind clock_modPort fun _ => clock_putFlit

theorem clock_pumpPort {p fuel} : Keeps clockFrame (pumpPort p fuel) := by
  induction fuel with
  | zero => exact keeps_pure
  | succ fuel ih =>
    refine keeps_look_bind fun _ => keeps_ite ?_ keeps_pure
    split
    · exact keeps_pure
    · exact keeps_bind clock_modPort fun _ => keeps_bind clock_sendFlit fun _ => ih

theorem clock_pumpAll {p} : Keeps clockFrame (pumpAll p) := keeps_look_bind fun _ => clock_pumpPort

theorem clock_tellPort {p} : Keeps clockFrame (tellPort p) :=
  keeps_look_bind fun _ =>
  keeps_onlyIf (keeps_bind clock_pumpAll fun _ => keeps_look_bind fun _ => keeps_onlyIf clock_putControl)

theorem clock_arriveAtPort {p k} : Keeps clockFrame (arriveAtPort p k) :=
  keeps_look_bind fun _ => keeps_ite
    (by
      split
      · split
        · exact net_sendMsg.clock
        · exact clock_unreachableOut
      · exact keeps_pure)
    (keeps_bind (keeps_onlyIf clock_slackEvent) fun _ =>
    keeps_bind clock_modPort fun _ => keeps_bind net_later.clock fun _ => clock_pumpPort)

theorem clock_freeWindow {p} : Keeps clockFrame (freeWindow p) :=
  keeps_look_bind fun _ => keeps_onlyIf (keeps_bind clock_modPort fun _ => keeps_each fun _ => clock_modPort)

theorem clock_leaveEntry {r id} : Keeps clockFrame (leaveEntry r id) :=
  keeps_each fun _ =>
    keeps_look_bind fun _ => keeps_onlyIf (keeps_bind clock_modPort fun _ =>
      keeps_look_bind fun _ => keeps_bind clock_freeWindow fun _ => keeps_onlyIf clock_tellPort)

theorem clock_startWalk {d asid page} : Keeps clockFrame (startWalk d asid page) :=
  keeps_bind clock_takeDelay fun _ => net_later.clock

theorem clock_joinWalk {c asid page k use} : Keeps clockFrame (joinWalk c asid page k use) :=
  keeps_look_bind fun _ => keeps_ite clock_modDie (keeps_bind clock_modDie fun _ => keeps_onlyIf clock_startWalk)

theorem clock_nextWalker {d} : Keeps clockFrame (nextWalker d) :=
  keeps_look_bind fun _ => by
    split
    · exact keeps_pure
    · exact keeps_onlyIf (keeps_bind clock_modDie fun _ => clock_startWalk)

theorem clock_sendReq {r} : Keeps clockFrame (sendReq r) :=
  keeps_look_bind fun _ => keeps_ite
    (keeps_bind (keeps_onlyIf net_pokeForeign.clock) fun _ => clock_sendToOwner net_later.clock) spares_deliverNow.clock

theorem clock_sendPend {c k i} : Keeps clockFrame (sendPend c k i) :=
  keeps_look_bind fun _ => by
    split
    · exact keeps_pure
    · split
      · exact keeps_pure
      · split
        · exact keeps_pure
        · exact keeps_onlyIf (keeps_bind spares_modBlock.clock fun _ =>
              keeps_bind (keeps_onlyIf clock_modThread) fun _ =>
              keeps_ite net_atCycle.clock (keeps_each fun _ => clock_sendReq))

theorem clock_sendReady {c k} : Keeps clockFrame (sendReady c k) :=
  keeps_look_bind fun _ => by
    split
    · exact keeps_pure
    · exact keeps_onlyIf (keeps_each fun _ => clock_sendPend)

theorem clock_passed {c k a bytes} : Keeps clockFrame (passed c k a bytes) := by
  unfold passed
  split
  · exact keeps_bind spares_modBlock.clock fun _ => clock_sendReady
  · exact keeps_look_bind fun _ => by split <;> exact spares_modBlock.clock
  · exact keeps_bind spares_modBlock.clock fun _ => clock_sendPend

theorem clock_tryAccess {c k a} : Keeps clockFrame (tryAccess c k a) :=
  keeps_look_bind fun _ => by
    split
    · exact keeps_pure
    · split
      · exact clock_passed
      · exact spares_raise.clock
      · exact keeps_bind spares_modBlock.clock fun _ => clock_joinWalk

theorem clock_fireAccess {f ta tb effs a} : Keeps clockFrame (fireAccess f ta tb effs a) :=
  keeps_bind clock_takeTurn fun _ => clock_tryAccess

theorem clock_launchWord {w} : Keeps clockFrame (launchWord w) :=
  keeps_look_bind fun _ => keeps_bind clock_modCore fun _ => keeps_ite net_later.clock
    (keeps_ite (clock_sendToOwner keeps_pure) (keeps_bind clock_modCore fun _ => spares_raise.clock))

theorem clock_sendWords {c} : Keeps clockFrame (sendWords c) :=
  keeps_look_bind fun _ => keeps_each fun _ => clock_launchWord

theorem clock_checkComplete {c k} : Keeps clockFrame (checkComplete c k) :=
  keeps_look_bind fun _ => by
    split
    · exact keeps_pure
    · exact keeps_look_bind fun _ => keeps_onlyIf (keeps_ite spares_raise.clock net_later.clock)

theorem clock_fireExit {f lpx target effs} : Keeps clockFrame (fireExit f lpx target effs) :=
  keeps_bind clock_takeTurn fun _ =>
  keeps_ite spares_raise.clock (keeps_bind clock_modThread fun _ => keeps_look_bind fun _ => clock_emit nofun)

theorem clock_fireStore {f lsid align parts data} : Keeps clockFrame (fireStore f lsid align parts data) :=
  keeps_bind clock_completeAct fun _ => clock_tryAccess

theorem clock_cancelStore {f} : Keeps clockFrame (cancelStore f) :=
  keeps_bind clock_completeAct fun _ => clock_sendReady

theorem clock_fireTaking {f ta tb a} : Keeps clockFrame (fireTaking f ta tb a) := by
  unfold fireTaking
  split
  · exact clock_completeAct
  · exact keeps_ite (keeps_bind clock_takeTurn fun _ => spares_modBlock.clock) clock_fireAccess

theorem clock_nullTaking {f ta tb} : Keeps clockFrame (nullTaking f ta tb) :=
  keeps_bind clock_completeAct fun _ => clock_modThread

theorem clock_prefetch {e asid a slack st} : Keeps clockFrame (prefetch e asid a slack st) :=
  keeps_look_bind fun _ => by
    split
    · exact keeps_pure
    · exact clock_joinWalk
    · split
      · exact keeps_onlyIf (clock_sendToOwner keeps_pure)
      · exact keeps_pure

theorem clock_traceStore {h off mask src slot kind} : Keeps clockFrame (traceStore h off mask src slot kind) :=
  keeps_look_bind fun _ => keeps_onlyIf (keeps_bind clock_write64 fun _ =>
    keeps_bind clock_writeNat fun _ => keeps_bind clock_setCreg fun _ => keeps_onlyIf clock_countReg)

theorem clock_traceAt {pa mask a e core slot kind} : Keeps clockFrame (traceAt pa mask a e core slot kind) := by
  unfold traceAt
  split
  · exact keeps_onlyIf clock_traceStore
  · exact keeps_pure

theorem clock_writeFor {r pa n v} : Keeps clockFrame (writeFor r pa n v) :=
  keeps_look_bind fun _ => keeps_onlyIf clock_writeNat

theorem clock_serveReq {r} : Keeps clockFrame (serveReq r) :=
  keeps_look_bind fun _ => by
    dsimp only
    split
    · exact keeps_pure
    · exact keeps_ite (keeps_bind (clock_emit nofun) fun _ => keeps_pure) keeps_pure
    · exact keeps_ite keeps_pure
        (keeps_bind clock_write64 fun _ =>
        keeps_bind clock_fillWord fun _ => keeps_bind clock_traceAt fun _ => keeps_pure)
    · exact keeps_bind clock_writeFor fun _ =>
        keeps_bind clock_fillWord fun _ => keeps_bind clock_traceAt fun _ => keeps_pure
    · exact keeps_bind clock_writeFor fun _ =>
        keeps_bind clock_fillWord fun _ => keeps_bind clock_traceAt fun _ => keeps_pure

theorem clock_applyWord {w} : Keeps clockFrame (applyWord w) :=
  keeps_look_bind fun _ => keeps_onlyIf (keeps_bind (keeps_each fun _ => clock_emit nofun) fun _ =>
    keeps_bind clock_fillWord fun _ => keeps_bind net_pokeWaits.clock fun _ => clock_traceAt)

theorem clock_takingEnds {id} : Keeps clockFrame (takingEnds id) := clock_modThread

theorem clock_takeAnew {id} : Keeps clockFrame (takeAnew id) :=
  keeps_look_bind fun _ => keeps_look_bind fun _ => by
    split
    · exact keeps_pure
    · split
      · exact keeps_onlyIf (keeps_ite spares_modBlock.clock (keeps_bind spares_modBlock.clock fun _ => clock_tryAccess))
      · exact keeps_pure

theorem clock_askEntry {d asid page pa} : Keeps clockFrame (askEntry d asid page pa) :=
  keeps_look_bind fun _ =>
  keeps_bind clock_modDie fun _ => keeps_ite (clock_sendFromTo keeps_pure) spares_engineAnswer.clock

theorem clock_fillTlbs {e c} : Keeps clockFrame (fillTlbs e c) :=
  keeps_bind clock_modCore fun _ => keeps_look_bind fun _ => keeps_onlyIf (clock_emit nofun)

theorem clock_loadWalked {c k asid page addr w} : Keeps clockFrame (loadWalked c k asid page addr w) :=
  keeps_look_bind fun _ => by
    split
    · exact keeps_pure
    · exact keeps_onlyIf (by
            split
            · exact net_later.clock
            · exact spares_raise.clock
            · exact keeps_pure)

theorem clock_failedJobs {c k asid page w} : Keeps clockFrame (failedJobs c k asid page w) :=
  keeps_look_bind fun _ => by
    split
    · exact keeps_onlyIf (keeps_each fun _ => by
            split
            · exact keeps_onlyIf spares_raise.clock
            · exact keeps_pure)
    · exact keeps_pure

theorem clock_walkDone {c k asid page w} : Keeps clockFrame (walkDone c k asid page w) :=
  keeps_look_bind fun _ => by
    split
    · exact keeps_pure
    · exact keeps_bind (keeps_onlyIf clock_failedJobs) fun _ => keeps_onlyIf (by
            split
            · exact keeps_pure
            · exact keeps_each fun _ =>
                  keeps_look_bind fun _ => by
                    split
                    · exact keeps_onlyIf spares_raise.clock
                    · exact keeps_pure
                    · exact keeps_bind spares_modBlock.clock fun _ => clock_tryAccess)

theorem clock_nextWalks {c k} : Keeps clockFrame (nextWalks c k) :=
  keeps_look_bind fun _ => by
    split
    · exact keeps_pure
    · split
      · exact keeps_pure
      · exact keeps_each fun _ =>
            keeps_look_bind fun _ => by
              split
              · exact clock_joinWalk
              · exact keeps_pure

theorem clock_walkAnswer {asid page w x} : Keeps clockFrame (walkAnswer asid page w x) := by
  unfold walkAnswer
  split
  · exact keeps_bind clock_walkDone fun _ => keeps_bind clock_nextWalks fun _ => clock_checkComplete
  · exact clock_loadWalked
  · split
    · exact clock_prefetch
    · exact keeps_pure
  · dsimp only
    split
    · exact keeps_bind spares_modXfer.clock fun _ => spares_pokeEngine.clock
    · exact spares_pokeEngine.clock

theorem clock_endWalk {die asid page w e} : Keeps clockFrame (endWalk die asid page w e) :=
  keeps_bind clock_modDie fun _ => by
    dsimp only
    split
    · exact keeps_bind (keeps_each fun _ => clock_fillTlbs) fun _ =>
        keeps_bind clock_nextWalker fun _ => keeps_each fun _ => clock_walkAnswer
    · exact keeps_bind clock_nextWalker fun _ => keeps_each fun _ => clock_walkAnswer

theorem clock_wellServe {w m} : Keeps clockFrame (wellServe w m) := by
  unfold wellServe
  split
  · exact keeps_bind clock_serveReq fun _ =>
      keeps_bind clock_modWell fun _ => keeps_bind net_sendBack.clock fun _ => clock_permitBack
  · exact keeps_bind clock_applyWord fun _ => keeps_bind net_sendBack.clock fun _ => clock_permitBack
  · exact keeps_pure

theorem clock_locate {u c rs ds} : Keeps clockFrame (locate u c rs ds) :=
  keeps_look_bind fun _ =>
  keeps_bind spares_modXfer.clock fun _ => keeps_bind (keeps_each fun _ => clock_joinWalk) fun _ => keeps_pure

theorem clock_serveHere {r} : Keeps clockFrame (serveHere r) :=
  keeps_bind clock_serveReq fun _ => by
    split
    · exact spares_engineAnswer.clock
    · exact keeps_pure

theorem clock_sendEng {u c r} : Keeps clockFrame (sendEng u c r) :=
  keeps_look_bind fun _ => keeps_ite (clock_sendFromTo clock_serveHere) spares_engineAnswer.clock

theorem clock_askBytes {u c} : Keeps clockFrame (askBytes u c) :=
  keeps_look_bind fun _ => keeps_ite (keeps_bind spares_pokeEngine.clock fun _ => keeps_pure)
    (keeps_bind spares_modXfer.clock fun _ =>
    keeps_bind (keeps_each fun _ => clock_sendEng) fun _ => keeps_look_bind fun _ => keeps_pure)

theorem clock_fetch {u c rs} : Keeps clockFrame (fetch u c rs) :=
  keeps_bind clock_locate fun _ => keeps_ite clock_askBytes keeps_pure

theorem clock_sendStore {u c w bytes} : Keeps clockFrame (sendStore u c w bytes) :=
  keeps_look_bind fun _ => keeps_bind net_freshId.clock fun _ =>
  keeps_ite (clock_sendFromTo (keeps_bind clock_applyWord fun _ => spares_engineAnswer.clock)) spares_engineAnswer.clock

theorem clock_sendResult {u c m} : Keeps clockFrame (sendResult u c m) :=
  keeps_bind spares_modXfer.clock fun _ => keeps_each fun _ => clock_sendStore

theorem clock_takeLocks {es} : Keeps clockFrame (takeLocks es) := keeps_each fun _ => clock_modCore

theorem clock_pokeMatrix {core} : Keeps clockFrame (pokeMatrix core) :=
  keeps_bind clock_takeDelay fun _ => keeps_look_bind fun _ => by
    split
    · exact net_later.clock
    · exact keeps_pure

theorem clock_pokeStarts : Keeps clockFrame pokeStarts :=
  keeps_look_bind fun _ => keeps_bind (keeps_each fun _ => keeps_onlyIf spares_pokeEngine.clock) fun _ =>
  keeps_each fun _ => keeps_onlyIf spares_pokeEngine.clock

theorem clock_releaseLocks {cmd} : Keeps clockFrame (releaseLocks cmd) :=
  keeps_look_bind fun _ => keeps_bind (keeps_each fun _ => clock_modCore) fun _ => keeps_onlyIf clock_pokeStarts

theorem clock_mergeEngine {c f} : Keeps clockFrame (mergeEngine c f) :=
  keeps_bind clock_onThread fun _ => clock_mergeSheaf

theorem clock_countedEnd {c} : Keeps clockFrame (countedEnd c) :=
  keeps_bind (keeps_onlyIf spares_colourReceived.clock) fun _ => spares_countAt.clock

theorem clock_finishCommand {c sem inc f fault upd} : Keeps clockFrame (finishCommand c sem inc f fault upd) :=
  keeps_bind clock_mergeEngine fun _ => keeps_bind clock_modSem fun _ => clock_countedEnd

theorem clock_withEntry {f} {k : Act Unit} (hk : Keeps clockFrame k) : Keeps clockFrame (withEntry f k) :=
  keeps_look_bind fun _ => keeps_ite clock_parkOn hk

theorem clock_acquire {f m n ta tb} : Keeps clockFrame (acquire f m n ta tb) :=
  keeps_look_bind fun _ =>
  keeps_ite (keeps_bind clock_modSem fun _ => spares_raise.clock)
    (keeps_bind clock_completeAct fun _ => clock_sendReady)

theorem clock_nullAcquire {f ta tb} : Keeps clockFrame (nullAcquire f ta tb) :=
  keeps_bind clock_completeAct fun _ => clock_sendReady

theorem clock_beginCopy {siphon d} : Keeps clockFrame (beginCopy siphon d) :=
  keeps_bind clock_modSiphon fun _ => keeps_bind clock_takeDelay fun _ => net_later.clock

theorem clock_lockCopy {siphon u d copy} : Keeps clockFrame (lockCopy siphon u d copy) :=
  keeps_look_bind fun _ => by
    split
    exact keeps_bind clock_locate fun _ => keeps_ite
      (keeps_look_bind fun _ => keeps_look_bind fun _ => keeps_onlyIf
        (keeps_bind clock_takeLocks fun _ => clock_beginCopy))
      keeps_pure

theorem clock_startCopy {siphon c} : Keeps clockFrame (startCopy siphon c) :=
  keeps_bind clock_fetch fun _ => keeps_ite
    (keeps_look_bind fun _ => keeps_ite clock_beginCopy
      (keeps_bind clock_fetch fun _ => keeps_ite
        (keeps_look_bind fun _ => by
          split
          · exact clock_beginCopy
          · exact clock_lockCopy) keeps_pure)) keeps_pure

theorem clock_startFollowOn {c slot} : Keeps clockFrame (startFollowOn c slot) :=
  keeps_look_bind fun _ => by
    dsimp only
    split
    · exact keeps_ite keeps_pure
          (keeps_ite (keeps_bind clock_modCore fun _ => keeps_bind spares_countAt.clock fun _ => keeps_pure)
            (keeps_bind clock_modCore fun _ => keeps_bind (keeps_onlyIf clock_colourSent) fun _ =>
            keeps_bind spares_countAt.clock fun _ =>
            keeps_bind clock_onThread fun _ => keeps_bind net_later.clock fun _ => keeps_pure))
    · exact keeps_pure

theorem clock_siphonNext {siphon c} : Keeps clockFrame (siphonNext siphon c) :=
  keeps_bind clock_modCore fun _ => keeps_bind clock_modSiphon fun _ => keeps_look_bind fun _ =>
  keeps_bind (keeps_onlyIf net_later.clock) fun _ => keeps_each fun _ => keeps_onlyIf net_later.clock

theorem clock_completeCopy {siphon c m} : Keeps clockFrame (completeCopy siphon c m) :=
  keeps_bind clock_releaseLocks fun _ => keeps_ite
    (keeps_bind clock_startFollowOn fun _ =>
    keeps_bind clock_countReg fun _ => keeps_bind clock_finishCommand fun _ => clock_siphonNext)
    (keeps_bind keeps_pure fun _ =>
    keeps_bind clock_countReg fun _ => keeps_bind clock_finishCommand fun _ => clock_siphonNext)

theorem clock_askBump {u c pa} : Keeps clockFrame (askBump u c pa) :=
  keeps_bind spares_modXfer.clock fun _ => clock_sendEng

theorem clock_copyEnds {siphon c u m} : Keeps clockFrame (copyEnds siphon c u m) :=
  keeps_look_bind fun _ => keeps_onlyIf clock_completeCopy

theorem clock_moveCopy {siphon c u} : Keeps clockFrame (moveCopy siphon c u) :=
  keeps_bind clock_askBytes fun _ => keeps_ite
    (keeps_look_bind fun _ => by
      dsimp only
      split
      · split
        · exact clock_askBump
        · exact keeps_pure
      · exact keeps_bind clock_sendResult fun _ => clock_copyEnds) keeps_pure

theorem clock_enterQueue {core c} : Keeps clockFrame (enterQueue core c) :=
  keeps_look_bind fun _ => keeps_bind clock_modCore fun _ => keeps_onlyIf clock_pokeMatrix

theorem clock_setAcc {core n v} : Keeps clockFrame (setAcc core n v) := clock_modCore

theorem clock_matrixGoOn {c} : Keeps clockFrame (matrixGoOn c) :=
  keeps_bind clock_pokeMatrix fun _ => keeps_bind net_later.clock fun _ => net_later.clock

theorem clock_matrixLeave {c} : Keeps clockFrame (matrixLeave c) := clock_modCore

theorem clock_matrixEnd {c f fault} : Keeps clockFrame (matrixEnd c f fault) :=
  keeps_bind clock_matrixLeave fun _ => keeps_bind clock_releaseLocks fun _ => keeps_ite
    (keeps_bind clock_mergeEngine fun _ => keeps_bind clock_countedEnd fun _ => clock_matrixGoOn)
    (keeps_bind clock_finishCommand fun _ => clock_matrixGoOn)

theorem clock_matrixStart {u c} : Keeps clockFrame (matrixStart u c) :=
  keeps_look_bind fun _ => keeps_bind clock_locate fun _ => keeps_ite
    (keeps_look_bind fun _ =>
    keeps_onlyIf (keeps_bind clock_takeLocks fun _ => keeps_bind clock_modCore fun _ => clock_pokeMatrix)) keeps_pure

theorem clock_matrixEnds {u c m} : Keeps clockFrame (matrixEnds u c m) :=
  keeps_look_bind fun _ => keeps_onlyIf clock_matrixEnd

theorem clock_matrixWork {u c} {work : Cmd → Xfer → Act Moved} (hwork : ∀ c x, Keeps clockFrame (work c x)) :
    Keeps clockFrame (matrixWork u c work) :=
  keeps_look_bind fun _ => keeps_ite keeps_pure
    (keeps_bind clock_askBytes fun _ => keeps_ite
      (keeps_look_bind fun _ => keeps_bind (hwork _ _) fun _ => keeps_bind clock_sendResult fun _ => clock_matrixEnds)
      keeps_pure)

theorem clock_matrixStep {core kindOk} {work : Cmd → Xfer → Act Moved} (hwork : ∀ c x, Keeps clockFrame (work c x)) :
    Keeps clockFrame (matrixStep core kindOk work) :=
  keeps_look_bind fun _ => by
    dsimp only
    split
    · exact keeps_pure
    · exact keeps_onlyIf (keeps_ite clock_matrixEnd
        (keeps_ite
          (by
            split
            · exact clock_matrixEnds
            · exact clock_matrixWork hwork)
          (by
            split
            · exact clock_matrixEnd
            · exact clock_matrixStart)))

theorem clock_recordStop {c st prog} : Keeps clockFrame (recordStop c st prog) := clock_modCore

theorem clock_runRows {c st io rows f} : Keeps clockFrame (runRows c st io rows f) := by
  induction rows generalizing f with
  | nil => exact keeps_pure
  | cons i rest ih =>
    refine keeps_look_bind fun _ => ?_
    split
    · exact keeps_bind clock_recordStop fun _ => keeps_pure
    · exact keeps_bind clock_setAcc fun _ => keeps_ite
        (keeps_bind clock_recordStop fun _ => keeps_bind clock_countReg fun _ => keeps_pure) ih

theorem clock_countSaturations {c pa n} : Keeps clockFrame (countSaturations c pa n) :=
  keeps_look_bind fun _ => by
    split
    · exact spares_modCell.clock
    · exact clock_countReg

theorem clock_storeRows {c io rows m} : Keeps clockFrame (storeRows c io rows m) := by
  induction rows generalizing m with
  | nil => exact keeps_pure
  | cons i rest ih =>
    refine keeps_look_bind fun _ => ?_
    dsimp only
    split
    · exact keeps_pure
    · exact keeps_bind (keeps_each fun _ => keeps_onlyIf clock_countSaturations) fun _ => ih

theorem clock_loadRows {c io rows} : Keeps clockFrame (loadRows c io rows) := by
  induction rows with
  | nil => exact keeps_pure
  | cons i rest ih =>
    unfold loadRows
    dsimp only
    split
    · exact keeps_pure
    · exact keeps_bind clock_setAcc fun _ => ih

theorem clock_moveImage {c mode io} : Keeps clockFrame (moveImage c mode io) :=
  keeps_look_bind fun _ => by
    dsimp only
    split
    · exact keeps_bind (keeps_each fun _ => clock_setAcc) fun _ => keeps_pure
    · exact keeps_pure
    · exact clock_loadRows
    · exact keeps_pure
    · split
      · exact keeps_pure
      · exact keeps_ite (keeps_bind clock_modCore fun _ => keeps_pure) keeps_pure

theorem clock_reserveCell {r h i y} : Keeps clockFrame (reserveCell r h i y) := by
  unfold reserveCell
  split
  · exact spares_modCell.clock
  · exact spares_modCell.clock
  · exact spares_modCell.clock
  · exact keeps_pure

theorem clock_replyCell {h r status other} : Keeps clockFrame (replyCell h r status other) :=
  keeps_look_bind fun _ => keeps_ite spares_deliverNow.clock net_sendMsg.clock

theorem clock_settleCell {r h i status other resv} : Keeps clockFrame (settleCell r h i status other resv) := by
  unfold settleCell
  dsimp only
  split
  · exact keeps_look_bind fun _ =>
      keeps_bind clock_reserveCell fun _ => keeps_bind spares_modBlock.clock fun _ => clock_replyCell
  · split
    · exact keeps_bind spares_modBlock.clock fun _ => clock_replyCell
    · exact keeps_bind spares_modBlock.clock fun _ => clock_replyCell
    · exact clock_replyCell

theorem clock_addMarks {w n} : Keeps clockFrame (addMarks w n) := clock_onThread

theorem clock_sendMark {h source sum d t sheaf w} : Keeps clockFrame (sendMark h source sum d t sheaf w) := by
  unfold sendMark
  split
  · exact keeps_pure
  · exact keeps_look_bind fun _ => keeps_bind spares_countAt.clock fun _ => keeps_bind clock_addMarks fun _ =>
      keeps_ite net_later.clock (keeps_bind clock_colourSent fun _ => net_sendMsg.clock)

theorem clock_markDependants {h i t zeroOnly w} : Keeps clockFrame (markDependants h i t zeroOnly w) :=
  keeps_look_bind fun _ => keeps_each fun _ => keeps_onlyIf (keeps_ite clock_countReg clock_sendMark)

theorem clock_marksDone {c k} : Keeps clockFrame (marksDone c k) :=
  keeps_look_bind fun _ => by
    split
    · exact keeps_pure
    · split
      · exact keeps_ite spares_removeThread.clock
            (keeps_bind (keeps_each fun _ => spares_countAt.clock) fun _ =>
            keeps_bind clock_modThread fun _ => clock_goOn)
      · exact keeps_pure

theorem clock_marksLess {w} : Keeps clockFrame (marksLess w) :=
  keeps_bind clock_onThread fun _ => keeps_look_bind fun _ => keeps_onlyIf clock_marksDone

theorem clock_endTask {h i w} : Keeps clockFrame (endTask h i w) :=
  keeps_look_bind fun _ => keeps_bind (keeps_each fun _ => by
      split
      · exact keeps_bind spares_modCell.clock fun _ => spares_pokeHeld.clock
      · exact keeps_pure) fun _ => keeps_look_bind fun _ => keeps_bind spares_modCell.clock fun _ => clock_onThread

theorem clock_closeCell {r h i t opens} : Keeps clockFrame (closeCell r h i t opens) :=
  keeps_look_bind fun _ => keeps_ite net_later.clock
    (keeps_bind spares_modCell.clock fun _ => keeps_bind (keeps_onlyIf clock_onThread) fun _ =>
    keeps_bind clock_markDependants fun _ => keeps_bind (keeps_onlyIf clock_endTask) fun _ =>
    keeps_bind spares_pokeHeld.clock fun _ => keeps_look_bind fun _ => keeps_bind (keeps_each fun _ => by
        split
        · exact net_pokeSlots.clock
        · exact keeps_pure) fun _ => clock_marksLess)

theorem clock_fireCell {f ta tb op cell} : Keeps clockFrame (fireCell f ta tb op cell) :=
  keeps_bind clock_takeTurn fun _ => keeps_bind spares_modBlock.clock fun _ => by
    split
    · exact keeps_ite net_later.clock net_sendMsg.clock
    · exact net_later.clock

theorem clock_addEdge {d p} : Keeps clockFrame (addEdge d p) :=
  keeps_look_bind fun _ => by
    split
    · exact keeps_pure
    · exact keeps_onlyIf (keeps_bind clock_writeNat fun _ => clock_writeNat)

theorem clock_removeEdge {d p} : Keeps clockFrame (removeEdge d p) :=
  keeps_look_bind fun _ => by
    split
    · exact keeps_pure
    · exact keeps_onlyIf (keeps_bind (keeps_each fun _ => clock_writeNat) fun _ => clock_writeNat)

theorem clock_retireBinding {h i f} : Keeps clockFrame (retireBinding h i f) :=
  keeps_look_bind fun _ => by
    split
    · exact keeps_pure
    · exact keeps_bind spares_modCell.clock fun _ => keeps_onlyIf (keeps_each fun _ => clock_removeEdge)

theorem clock_dropTasks {h i gone} : Keeps clockFrame (dropTasks h i gone) :=
  keeps_look_bind fun _ =>
  keeps_bind (keeps_each fun _ => keeps_bind clock_modCore fun _ => spares_countAt.clock) fun _ =>
  keeps_onlyIf (keeps_look_bind fun _ => spares_modCell.clock)

theorem clock_installBinding {r h i rec_ precs t} : Keeps clockFrame (installBinding r h i rec_ precs t) :=
  keeps_look_bind fun _ => keeps_bind spares_modCell.clock fun _ => by
    dsimp only
    split
    · exact keeps_bind (keeps_each fun _ => clock_addEdge) fun _ => keeps_bind clock_modCore fun _ =>
        keeps_bind clock_queueTask fun _ => keeps_bind clock_markDependants fun _ => keeps_look_bind fun _ =>
        keeps_bind clock_dropTasks fun _ => keeps_bind clock_retireBinding fun _ => spares_pokeHeld.clock
    · exact keeps_bind clock_dropTasks fun _ => keeps_bind clock_markDependants fun _ => keeps_look_bind fun _ =>
        keeps_bind clock_dropTasks fun _ => keeps_bind clock_retireBinding fun _ => spares_pokeHeld.clock

theorem clock_statusAct {f ta tb n effs} : Keeps clockFrame (statusAct f ta tb n effs) := clock_completeAct

theorem clock_wakeFwaits {c k front} : Keeps clockFrame (wakeFwaits c k front) :=
  keeps_look_bind fun _ => by
    split
    · exact keeps_pure
    · exact keeps_onlyIf (keeps_each fun _ => keeps_onlyIf (keeps_bind clock_acquireCommit fun _ => net_atCycle.clock))

theorem clock_applyFrontier {core sheaf front} : Keeps clockFrame (applyFrontier core sheaf front) :=
  keeps_look_bind fun _ => keeps_onlyIf (keeps_bind clock_modCore fun _ =>
    keeps_bind (keeps_each fun _ => clock_retireBinding) fun _ => keeps_bind (keeps_each fun _ => by
        split
        · exact keeps_pure
        · exact keeps_onlyIf (keeps_bind clock_wakeFwaits fun _ => by
                split
                · exact keeps_onlyIf (keeps_bind clock_acquireCommit fun _ => clock_goOn)
                · exact keeps_pure)) fun _ => spares_pokeHeld.clock)

theorem clock_fetchFrontier {c n} : Keeps clockFrame (fetchFrontier c n) := keeps_look_bind fun _ => clock_applyFrontier

theorem clock_reportMessage {m applied} : Keeps clockFrame (reportMessage m applied) :=
  keeps_onlyIf (keeps_ite net_later.clock net_sendMsg.clock)

theorem clock_dropMessage {c m} : Keeps clockFrame (dropMessage c m) :=
  keeps_bind clock_countReg fun _ => keeps_bind (keeps_onlyIf spares_countAt.clock) fun _ => clock_reportMessage

theorem clock_applyFill {m sel} : Keeps clockFrame (applyFill m sel) :=
  keeps_look_bind fun _ => by
    dsimp only
    split
    · exact keeps_ite (keeps_bind net_freshId.clock fun _ => keeps_bind clock_modCore fun _ => net_later.clock)
          (keeps_bind clock_onThread fun _ => keeps_bind spares_countAt.clock fun _ => clock_reportMessage)
    · exact keeps_ite (keeps_bind net_freshId.clock fun _ => keeps_bind clock_modCore fun _ => net_later.clock)
          (keeps_bind clock_onThread fun _ => keeps_bind spares_countAt.clock fun _ => clock_reportMessage)
    · exact clock_dropMessage

theorem clock_retryFills {c k} : Keeps clockFrame (retryFills c k) :=
  keeps_look_bind fun _ => keeps_each fun _ =>
    keeps_look_bind fun _ => keeps_onlyIf (keeps_bind clock_modCore fun _ => by
        split
        · exact clock_applyFill
        · exact keeps_pure)

theorem clock_faultWakes {m} : Keeps clockFrame (faultWakes m) :=
  keeps_look_bind fun _ => keeps_onlyIf (keeps_ite clock_wakeLocal net_later.clock)

theorem clock_endAccess {c k i p tok effs} : Keeps clockFrame (endAccess c k i p tok effs) := spares_modBlock.clock

theorem clock_takeBytes {id data} : Keeps clockFrame (takeBytes id data) :=
  keeps_look_bind fun _ => by
    split
    · exact keeps_pure
    · exact keeps_onlyIf (by
            split
            · exact keeps_pure
            · exact keeps_bind spares_modBlock.clock fun _ => keeps_onlyIf clock_endAccess)

theorem clock_takeValue {id op v} : Keeps clockFrame (takeValue id op v) :=
  keeps_look_bind fun _ => by
    split
    · exact keeps_pure
    · exact keeps_bind clock_modThread fun _ => by
          dsimp only
          split
          · exact keeps_pure
          · split
            · exact keeps_pure
            · exact keeps_onlyIf (keeps_ite spares_modBlock.clock clock_endAccess)

theorem clock_takeReply {r} : Keeps clockFrame (takeReply r) :=
  keeps_look_bind fun _ => keeps_bind (keeps_onlyIf spares_modBlock.clock) fun _ => keeps_onlyIf (by
    dsimp only
    split <;> exact keeps_bind spares_modBlock.clock fun _ => keeps_onlyIf clock_acquireCommit)

theorem clock_noReply {id} : Keeps clockFrame (noReply id) :=
  keeps_look_bind fun _ => keeps_onlyIf spares_modBlock.clock

theorem clock_deliver {d} : Keeps clockFrame (deliver d) :=
  keeps_look_bind fun _ => by
    split
    · exact keeps_onlyIf spares_modBlock.clock
    · exact clock_takeBytes
    · exact clock_takeValue
    · exact clock_takeReply
    · exact keeps_bind clock_takingEnds fun _ => keeps_bind clock_noReply fun _ => clock_raiseFor
    · exact spares_engineAnswer.clock

theorem clock_askCode {c k t pas} : Keeps clockFrame (askCode c k t pas) :=
  keeps_bind net_freshId.clock fun _ =>
  keeps_bind clock_modThread fun _ => keeps_each fun _ => keeps_look_bind fun _ => clock_sendToOwner keeps_pure

theorem clock_loadWords {c k t ws} : Keeps clockFrame (loadWords c k t ws) := by
  unfold loadWords
  dsimp only
  split
  · exact spares_raise.clock
  · exact clock_modSlot

theorem clock_reducePlace {v a} : Keeps clockFrame (reducePlace v a) := by
  unfold reducePlace
  split
  · exact keeps_look_bind fun _ => clock_emit nofun
  · exact keeps_look_bind fun _ => keeps_ite clock_modCore clock_setCreg
  · exact clock_modSheaf
  · exact keeps_pure

theorem clock_serviceOnly {f ta tb} {k : Act Unit} (hk : Keeps clockFrame k) :
    Keeps clockFrame (serviceOnly f ta tb k) :=
  keeps_ite hk (keeps_bind clock_takeTurn fun _ => spares_raise.clock)

theorem clock_writeEntry {pa e} : Keeps clockFrame (writeEntry pa e) :=
  keeps_bind clock_write64 fun _ => keeps_bind clock_write64 fun _ => keeps_bind clock_write64 fun _ => clock_writeNat

theorem clock_spillOldest {c n} : Keeps clockFrame (spillOldest c n) :=
  keeps_look_bind fun _ => keeps_bind (keeps_each fun _ => clock_writeEntry) fun _ => clock_modCore

theorem clock_pushDeque {c e} : Keeps clockFrame (pushDeque c e) :=
  keeps_look_bind fun _ =>
  keeps_bind (keeps_onlyIf clock_spillOldest) fun _ => keeps_bind clock_modCore fun _ => net_pokeSlots.clock

theorem clock_takeNewest {c} : Keeps clockFrame (takeNewest c) :=
  keeps_look_bind fun _ => keeps_bind (keeps_onlyIf clock_modCore) fun _ => keeps_look_bind fun _ => by
    split
    · exact keeps_pure
    · exact keeps_bind clock_modCore fun _ => keeps_pure

theorem clock_takeOldest {c} : Keeps clockFrame (takeOldest c) :=
  keeps_look_bind fun _ => keeps_ite (keeps_bind clock_modCore fun _ => keeps_pure)
    (by
      split
      · exact keeps_pure
      · exact keeps_bind clock_modCore fun _ => keeps_pure)

theorem clock_popPipe {f ta tb q} : Keeps clockFrame (popPipe f ta tb q) :=
  keeps_look_bind fun _ => by
    split
    · exact keeps_bind clock_completeAct fun _ => keeps_bind clock_modChan fun _ => clock_modThread
    · exact keeps_bind clock_completeAct fun _ => keeps_look_bind fun _ => keeps_bind clock_modChan fun _ =>
        keeps_bind clock_modThread fun _ => by
          split
          · exact keeps_bind clock_modChan fun _ => net_later.clock
          · exact keeps_pure
    · exact clock_parkOn

theorem clock_popStream {f ta tb q base stride count next vec} :
    Keeps clockFrame (popStream f ta tb q base stride count next vec) :=
  keeps_look_bind fun _ => keeps_ite clock_completeAct
    (by
      split
      · exact keeps_bind clock_completeAct fun _ =>
          keeps_bind clock_modChan fun _ => keeps_bind clock_modThread fun _ => net_later.clock
      · exact clock_parkOn)

theorem clock_popChannel {f ta tb q} : Keeps clockFrame (popChannel f ta tb q) := by
  unfold popChannel
  split
  · exact clock_completeAct
  · exact keeps_look_bind fun _ => keeps_ite clock_popPipe
        (by
          split
          · exact clock_completeAct
          · exact clock_popPipe
          · exact clock_popStream)

theorem clock_readFire {f reg ta tb effs} : Keeps clockFrame (readFire f reg ta tb effs) :=
  keeps_look_bind fun _ => by
    split
    · exact clock_completeAct
    · exact clock_parkOn

theorem clock_pushChannel {f q} : Keeps clockFrame (pushChannel f q) :=
  keeps_look_bind fun _ => by
    dsimp only
    split
    · exact clock_completeAct
    · exact keeps_ite clock_parkOn clock_completeAct
    · exact keeps_ite clock_completeAct
          (by
            split
            · exact clock_completeAct
            · exact keeps_bind clock_completeAct fun _ => clock_tryAccess)

theorem clock_whenUnclaimed {f q} {k : Act Unit} (hk : Keeps clockFrame k) :
    Keeps clockFrame (whenUnclaimed f q k) :=
  keeps_look_bind fun _ => keeps_ite clock_parkOn hk

theorem clock_discardEntry {c e} : Keeps clockFrame (discardEntry c e) :=
  keeps_bind clock_countReg fun _ => spares_countAt.clock

theorem clock_releaseWord {c k inc tag w} : Keeps clockFrame (releaseWord c k inc tag w) :=
  keeps_bind net_freshId.clock fun _ => keeps_look_bind fun _ => by
    dsimp only
    split
    · exact keeps_ite clock_applyWord clock_modCore
    · exact clock_modCore

theorem clock_writeRegisters {c k es} : Keeps clockFrame (writeRegisters c k es) :=
  keeps_bind clock_modThread fun _ => keeps_onlyIf clock_modCore

theorem clock_commitCommand {c k t0 sheaf e} : Keeps clockFrame (commitCommand c k t0 sheaf e) :=
  keeps_look_bind fun _ => by
    dsimp only
    split
    · exact keeps_onlyIf (keeps_bind net_freshId.clock fun _ => keeps_bind (keeps_onlyIf clock_colourSent) fun _ =>
          keeps_bind clock_modCore fun _ =>
          keeps_bind clock_modThread fun _ => keeps_ite net_later.clock net_later.clock)
    · exact keeps_bind net_freshId.clock fun _ => clock_modCore
    · exact keeps_pure

theorem clock_commitStream {c q base stride count next vec data} :
    Keeps clockFrame (commitStream c q base stride count next vec data) :=
  keeps_look_bind fun _ => by
    dsimp only
    split
    · exact clock_countReg
    · exact keeps_bind (keeps_each fun _ => keeps_bind (clock_emit nofun) fun _ => clock_fillWord) fun _ =>
        keeps_bind net_pokeWaits.clock fun _ => clock_modChan

theorem clock_commitChannel {c t0 sheaf e} : Keeps clockFrame (commitChannel c t0 sheaf e) := by
  unfold commitChannel
  split
  · exact keeps_onlyIf (keeps_look_bind fun _ => keeps_bind clock_colourSent fun _ => net_later.clock)
  · exact clock_commitStream
  · exact clock_countReg
  · exact keeps_pure

theorem clock_dropInput {c q} : Keeps clockFrame (dropInput c q) :=
  keeps_look_bind fun _ => keeps_onlyIf (keeps_bind (keeps_each fun _ => clock_discardEntry) fun _ =>
    keeps_bind (keeps_onlyIf (keeps_each fun _ => clock_discardEntry)) fun _ => clock_modChan)

theorem clock_commitBinding {c sheaf e} : Keeps clockFrame (commitBinding c sheaf e) := by
  unfold commitBinding
  split
  · exact keeps_bind clock_dropInput fun _ => clock_modChan
  · exact keeps_bind clock_dropInput fun _ => clock_modChan
  · exact keeps_bind clock_dropInput fun _ => keeps_bind clock_modChan fun _ => keeps_onlyIf net_later.clock
  · exact keeps_pure

theorem clock_writeTile {s h e data live} : Keeps clockFrame (writeTile s h e data live) :=
  keeps_bind (keeps_each fun _ => keeps_bind (keeps_onlyIf (clock_emit nofun)) fun _ => clock_fillWord) fun _ =>
  net_pokeWaits.clock

theorem clock_commitCell {c k b i r} : Keeps clockFrame (commitCell c k b i r) := by
  unfold commitCell
  split
  · exact keeps_pure
  · dsimp only
    split
    · exact clock_modThread
    · exact keeps_bind spares_modCell.clock fun _ => keeps_bind clock_modThread fun _ => spares_pokeHeld.clock
    · exact clock_modThread
    · exact net_later.clock
    · exact keeps_look_bind fun _ => keeps_bind clock_writeTile fun _ => net_later.clock
    · exact clock_installBinding
    · exact clock_installBinding
    · exact keeps_onlyIf spares_modCell.clock
    · exact keeps_pure

theorem clock_commitCells {c k b es} : Keeps clockFrame (commitCells c k b es) :=
  keeps_bind (keeps_each fun _ => by
      split
      · exact keeps_onlyIf clock_commitCell
      · exact keeps_pure) fun _ => keeps_bind (keeps_each fun _ => by
      split
      · exact keeps_onlyIf clock_commitCell
      · exact keeps_pure) fun _ => keeps_each fun _ => by
    split
    · exact keeps_onlyIf clock_commitCell
    · exact keeps_pure

theorem clock_commitMessage {c k m} : Keeps clockFrame (commitMessage c k m) :=
  keeps_look_bind fun _ => keeps_ite clock_dropMessage
    (keeps_ite net_later.clock (keeps_bind (keeps_onlyIf clock_colourSent) fun _ => net_sendMsg.clock))

theorem clock_commitSystemWrite {c k inc off slack v} : Keeps clockFrame (commitSystemWrite c k inc off slack v) := by
  unfold commitSystemWrite
  split
  · exact keeps_ite net_later.clock
        (keeps_bind net_freshId.clock fun _ =>
        keeps_look_bind fun _ => keeps_bind clock_modCore fun _ => net_sendMsg.clock)
  · split
    · exact keeps_look_bind fun _ => net_unitSendBy.clock
    · exact net_later.clock

theorem clock_commitOther {c k t sheaf e} : Keeps clockFrame (commitOther c k t sheaf e) := by
  unfold commitOther
  cases e
  case acquire => exact clock_modSem
  case masks => exact clock_modThread
  case loadTable => exact clock_modCore
  case pinErr => exact clock_countReg
  case spawn => exact keeps_onlyIf (keeps_look_bind fun _ => clock_pushDeque)
  case spawnAt =>
    exact keeps_onlyIf (keeps_look_bind fun _ => keeps_bind clock_colourSent fun _ => spares_armEntry.clock)
  case message => exact keeps_onlyIf clock_commitMessage
  case readReduce => exact clock_reducePlace
  case systemWrite => exact clock_commitSystemWrite
  case saturations => exact clock_countReg
  all_goals exact keeps_pure

theorem clock_startSwap {c k} : Keeps clockFrame (startSwap c k) := keeps_bind clock_modThread fun _ => net_later.clock

theorem clock_releaseTaskPins {c k} : Keeps clockFrame (releaseTaskPins c k) :=
  keeps_look_bind fun _ => keeps_each fun _ => by
    split
    · exact keeps_bind spares_modCell.clock fun _ => spares_pokeHeld.clock
    · exact keeps_pure

theorem clock_afterCommit {c k es} : Keeps clockFrame (afterCommit c k es) :=
  keeps_look_bind fun _ => keeps_ite (keeps_bind clock_releaseTaskPins fun _ => spares_removeThread.clock)
    (keeps_bind (keeps_onlyIf clock_releaseTaskPins) fun _ => keeps_bind (keeps_each fun _ => by
        split
        · exact net_later.clock
        · exact keeps_pure) fun _ => keeps_ite clock_startSwap
      (keeps_look_bind fun _ => by
        split
        · exact keeps_pure
        · split
          · exact keeps_pure
          · exact clock_marksDone
          · exact clock_goOn))

theorem clock_commitBlock {c k t b x} : Keeps clockFrame (commitBlock c k t b x) :=
  keeps_look_bind fun _ => keeps_bind (keeps_onlyIf clock_fetchFrontier) fun _ =>
  keeps_bind clock_writeRegisters fun _ => keeps_bind (keeps_each fun _ => clock_releaseWord) fun _ =>
  keeps_bind clock_sendWords fun _ => keeps_bind (keeps_each fun _ => clock_commitCommand) fun _ =>
  keeps_bind (keeps_each fun _ => clock_commitChannel) fun _ => keeps_bind clock_modThread fun _ =>
  keeps_bind clock_mergeSheaf fun _ => keeps_bind spares_recordCounts.clock fun _ => keeps_bind clock_countReg fun _ =>
  keeps_bind clock_modThread fun _ => by
    dsimp only
    split
    on_goal 1 => refine keeps_bind clock_modThread fun _ => ?_
    all_goals
      refine keeps_bind (keeps_each fun _ => clock_commitBinding) fun _ =>
        keeps_bind (keeps_each fun _ => clock_commitOther) fun _ => keeps_bind clock_commitCells fun _ =>
        keeps_bind clock_retryFills fun _ => keeps_bind (keeps_onlyIf clock_acquireCommit) fun _ =>
        keeps_bind clock_countReg fun _ => ?_
      split
      · exact keeps_bind clock_modSheaf fun _ => clock_afterCommit
      · exact clock_afterCommit

theorem clock_holdCommit {c k gen w} : Keeps clockFrame (holdCommit c k gen w) :=
  keeps_look_bind fun _ => keeps_bind clock_modThread fun _ => net_later.clock

theorem clock_writeLaunchPage {c k sheaf} : Keeps clockFrame (writeLaunchPage c k sheaf) :=
  keeps_look_bind fun _ => keeps_bind clock_writeBytes fun _ => keeps_each fun _ => clock_fillWord

theorem clock_startThread {c k x} : Keeps clockFrame (startThread c k x) :=
  keeps_look_bind fun _ => keeps_bind clock_writeLaunchPage fun _ => keeps_bind clock_setCreg fun _ =>
  keeps_bind (keeps_onlyIf clock_fetchFrontier) fun _ => keeps_bind clock_modSlot fun _ => net_later.clock

theorem clock_startService {c} : Keeps clockFrame (startService c) := keeps_look_bind fun _ => clock_startThread

theorem clock_pinPrecedent {u cid} : Keeps clockFrame (pinPrecedent u cid) :=
  keeps_look_bind fun _ => by
    split
    · exact keeps_pure
    · split
      · exact keeps_pure
      · exact keeps_bind spares_modCell.clock fun _ => keeps_pure

theorem clock_pinPrecedents {u ps} : Keeps clockFrame (pinPrecedents u ps) := by
  induction ps with
  | nil => exact keeps_pure
  | cons p ps ih => exact keeps_bind clock_pinPrecedent fun _ => keeps_bind ih fun _ => keeps_pure

theorem clock_dispatchTask {c k t} : Keeps clockFrame (dispatchTask c k t) :=
  keeps_look_bind fun _ => by
    dsimp only
    split
    · exact keeps_pure
    · exact keeps_bind clock_modCore fun _ =>
        keeps_bind spares_modCell.clock fun _ => keeps_bind clock_pinPrecedents fun _ => clock_startThread

theorem clock_passSteal {src x} : Keeps clockFrame (passSteal src x) :=
  keeps_look_bind fun _ => by
    dsimp only
    split
    · exact net_sendMsg.clock
    · exact keeps_ite net_later.clock net_sendMsg.clock

theorem clock_askSteal {c} : Keeps clockFrame (askSteal c) :=
  keeps_look_bind fun _ => keeps_onlyIf (keeps_bind clock_modCore fun _ => clock_passSteal)

theorem clock_fillSlot {c k} : Keeps clockFrame (fillSlot c k) :=
  keeps_look_bind fun _ => keeps_onlyIf (by
      split
      · exact clock_dispatchTask
      · split
        · exact keeps_onlyIf (keeps_bind clock_takeNewest fun _ => clock_startThread)
        · exact keeps_pure)

theorem clock_fillService {c} : Keeps clockFrame (fillService c) :=
  keeps_look_bind fun _ => keeps_onlyIf (keeps_ite clock_startService net_later.clock)

theorem clock_callRestores {c} : Keeps clockFrame (callRestores c) :=
  keeps_look_bind fun _ => keeps_each fun _ => net_later.clock

theorem clock_writeParts {pa l} : Keeps clockFrame (writeParts pa l) := keeps_each fun _ => net_writeOwn.clock

theorem clock_setRecord {c k r} : Keeps clockFrame (setRecord c k r) := clock_modCore

theorem clock_swapThread {c k e t} : Keeps clockFrame (swapThread c k e t) :=
  keeps_look_bind fun _ => keeps_bind (keeps_each fun _ => clock_write64) fun _ => keeps_look_bind fun _ =>
  keeps_bind clock_writeParts fun _ => keeps_bind clock_modCore fun _ =>
  keeps_bind clock_setRecord fun _ => keeps_bind clock_countReg fun _ => spares_vacate.clock

theorem clock_abandonBlock {c k} : Keeps clockFrame (abandonBlock c k) :=
  keeps_bind spares_releaseBlock.clock fun _ => clock_modThread

theorem clock_renameThread {c k inc l jnc} : Keeps clockFrame (renameThread c k inc l jnc) :=
  keeps_look_bind fun _ =>
  keeps_bind (keeps_each fun _ => keeps_each fun _ => keeps_onlyIf spares_modCell.clock) fun _ =>
  keeps_bind (keeps_each fun _ => clock_modSiphon) fun _ => clock_modCore

theorem clock_restoreParts {c pa live} : Keeps clockFrame (restoreParts c pa live) :=
  keeps_look_bind fun _ => clock_modCore

theorem clock_enterSlot {c k inc t pa} : Keeps clockFrame (enterSlot c k inc t pa) :=
  keeps_look_bind fun _ => keeps_bind clock_writeBytes fun _ => keeps_bind clock_modSlot fun _ => clock_goOn

theorem clock_restoreMoved {c pa t} : Keeps clockFrame (restoreMoved c pa t) :=
  keeps_look_bind fun _ => keeps_bind (keeps_each fun _ => clock_modSem) fun _ => keeps_each fun _ => clock_modChan

theorem clock_enterResume {c k from_} : Keeps clockFrame (enterResume c k from_) :=
  keeps_look_bind fun _ => by
    split
    · exact keeps_pure
    · exact keeps_ite keeps_pure (keeps_ite spares_serviceFault.clock clock_modThread)

theorem clock_writePreq {core v} : Keeps clockFrame (writePreq core v) :=
  keeps_look_bind fun _ =>
  keeps_bind clock_setCreg fun _ => keeps_each fun _ => keeps_bind clock_modCore fun _ => net_later.clock

theorem clock_reissueCommit {c k inc n} : Keeps clockFrame (reissueCommit c k inc n) :=
  keeps_look_bind fun _ => keeps_onlyIf (keeps_each fun _ => keeps_bind clock_modCore fun _ => clock_launchWord)

theorem clock_reissueMissed {c k inc} : Keeps clockFrame (reissueMissed c k inc) :=
  keeps_look_bind fun _ => keeps_each fun _ => clock_reissueCommit

theorem clock_endMiss {c k} : Keeps clockFrame (endMiss c k) :=
  keeps_look_bind fun _ => by
    split
    · exact keeps_pure
    · exact keeps_onlyIf net_later.clock

theorem clock_whenSettled {c k again} {act : Thread → Act Unit} (hact : ∀ x, Keeps clockFrame (act x)) :
    Keeps clockFrame (whenSettled c k again act) :=
  keeps_look_bind fun _ => by
    split
    · exact keeps_pure
    · exact keeps_onlyIf (keeps_ite (hact _) net_later.clock)

theorem clock_writeFack {c v} : Keeps clockFrame (writeFack c v) :=
  keeps_look_bind fun _ => keeps_onlyIf (by split <;> exact net_later.clock)

theorem clock_writeSvccfg {core v} : Keeps clockFrame (writeSvccfg core v) :=
  keeps_look_bind fun _ => keeps_onlyIf (keeps_bind clock_setCreg fun _ => keeps_ite
      (keeps_onlyIf (keeps_bind clock_modSlot fun _ => keeps_onlyIf clock_startService))
      (keeps_onlyIf (keeps_bind clock_modSlot fun _ => net_pokeSlots.clock)))

theorem clock_writeCellWord {c i w v} : Keeps clockFrame (writeCellWord c i w v) :=
  keeps_look_bind fun _ => keeps_onlyIf (keeps_ite spares_modCell.clock
      (keeps_ite (keeps_bind spares_modCell.clock fun _ => spares_pokeHeld.clock)
        (keeps_bind spares_modCell.clock fun _ => spares_pokeHeld.clock)))

theorem clock_spillAll {c} : Keeps clockFrame (spillAll c) := keeps_look_bind fun _ => keeps_onlyIf clock_spillOldest

theorem clock_cutStart {c} : Keeps clockFrame (cutStart c) :=
  keeps_look_bind fun _ => keeps_onlyIf (keeps_bind clock_modCore fun _ =>
    keeps_bind (keeps_each fun _ => keeps_onlyIf clock_startSwap) fun _ =>
    keeps_bind clock_spillAll fun _ => net_pokeSlots.clock)

theorem clock_cutImages {c} : Keeps clockFrame (cutImages c) :=
  keeps_look_bind fun _ => keeps_each fun _ => clock_writeParts

theorem clock_cutStop {c} : Keeps clockFrame (cutStop c) :=
  keeps_bind clock_spillAll fun _ => keeps_look_bind fun _ =>
  keeps_bind (keeps_each fun _ => net_writeOwn.clock) fun _ => keeps_bind clock_cutImages fun _ =>
  keeps_ite (keeps_bind clock_modCore fun _ => keeps_each fun _ => net_later.clock) clock_modCore

theorem clock_cutReport {c} : Keeps clockFrame (cutReport c) :=
  keeps_look_bind fun _ => keeps_onlyIf (keeps_bind clock_cutImages fun _ =>
    keeps_bind (clock_emit nofun) fun _ => keeps_look_bind fun _ => keeps_onlyIf spares_setCutState.clock)

theorem clock_cutProgress {c} : Keeps clockFrame (cutProgress c) :=
  keeps_look_bind fun _ => keeps_onlyIf (keeps_bind (keeps_each fun _ => keeps_onlyIf clock_startSwap) fun _ =>
    keeps_bind (keeps_onlyIf clock_cutStop) fun _ =>
    keeps_bind (keeps_onlyIf clock_cutReport) fun _ => keeps_look_bind fun _ => keeps_onlyIf net_later.clock)

theorem clock_cutGo {v} : Keeps clockFrame (cutGo v) :=
  keeps_look_bind fun _ => keeps_onlyIf (keeps_bind (clock_emit nofun) fun _ => keeps_bind (clock_emit nofun) fun _ =>
    keeps_ite (keeps_bind (keeps_each fun _ => clock_cutStart) fun _ => keeps_onlyIf spares_setCutState.clock)
      clock_modRoot)

theorem clock_cutResume : Keeps clockFrame cutResume :=
  keeps_look_bind fun _ => keeps_onlyIf (keeps_bind spares_setCutState.clock fun _ => keeps_bind clock_modRoot fun _ =>
    keeps_bind (clock_emit nofun) fun _ =>
    keeps_bind (keeps_each fun _ => keeps_onlyIf (keeps_bind clock_modCore fun _ => net_pokeSlots.clock)) fun _ =>
    spares_cutResumed.clock)

theorem clock_flushBatches {c bs} : Keeps clockFrame (flushBatches c bs) := by
  induction bs with
  | nil => exact keeps_pure
  | cons b bs ih =>
    exact keeps_look_bind fun _ => keeps_ite
      (keeps_bind clock_modCore fun _ => keeps_bind net_unitSendBy.clock fun _ => ih) keeps_pure

theorem clock_sendBatch {c} : Keeps clockFrame (sendBatch c) :=
  keeps_bind spares_formBatch.clock fun _ =>
  keeps_look_bind fun _ => keeps_bind clock_flushBatches fun _ => keeps_look_bind fun _ => clock_takeLate

theorem clock_setTreeUnit {lv u x} : Keeps clockFrame (setTreeUnit lv u x) := by
  unfold setTreeUnit
  split
  · exact clock_emit nofun
  · exact clock_modDie
  · exact clock_modRoot

theorem clock_releaseBelow {lv from_ x sent} : Keeps clockFrame (releaseBelow lv from_ x sent) :=
  keeps_look_bind fun _ => keeps_onlyIf (by
      split
      · exact clock_takeLate
      · exact keeps_bind clock_setTreeUnit fun _ => keeps_onlyIf net_later.clock)

theorem clock_tellNode {n m} : Keeps clockFrame (tellNode n m) :=
  keeps_look_bind fun _ => keeps_onlyIf (keeps_bind clock_modRoot fun _ => net_sendNode.clock)

theorem clock_applyBatch {lv from_ b sent} : Keeps clockFrame (applyBatch lv from_ b sent) :=
  keeps_look_bind fun _ => keeps_bind clock_setTreeUnit fun _ => keeps_bind (keeps_onlyIf clock_releaseBelow) fun _ =>
  by
    dsimp only
    split
    · exact keeps_onlyIf net_unitSend.clock
    · exact keeps_onlyIf net_unitSend.clock
    · exact keeps_each fun _ => clock_tellNode

theorem clock_acceptBatches {lv u fuel} : Keeps clockFrame (acceptBatches lv u fuel) := by
  induction fuel with
  | zero => exact keeps_pure
  | succ fuel ih =>
    refine keeps_look_bind fun _ => ?_
    dsimp only
    split
    · exact keeps_pure
    · exact keeps_ite (keeps_bind clock_setTreeUnit fun _ => keeps_bind clock_applyBatch fun _ => ih) keeps_pure

theorem clock_startSweep {n} : Keeps clockFrame (startSweep n) :=
  keeps_look_bind fun _ => keeps_bind clock_modRoot fun _ => keeps_each fun _ => net_sendNode.clock

theorem clock_sweepCore {core n cut} : Keeps clockFrame (sweepCore core n cut) :=
  keeps_look_bind fun _ => keeps_bind (keeps_onlyIf (keeps_bind clock_cutStart fun _ => clock_cutProgress)) fun _ =>
  keeps_bind clock_modCore fun _ => clock_sendBatch

theorem clock_announce {n front} : Keeps clockFrame (announce n front) :=
  keeps_look_bind fun _ => keeps_bind clock_modSheaf fun _ =>
  keeps_bind (keeps_each fun _ => net_unitSend.clock) fun _ =>
  keeps_bind (keeps_each fun _ => net_sendNode.clock) fun _ => keeps_onlyIf net_unitSend.clock

theorem clock_cutSweep : Keeps clockFrame cutSweep :=
  keeps_look_bind fun _ => keeps_onlyIf (keeps_bind clock_modRoot fun _ => keeps_onlyIf (keeps_bind
        clock_modRoot fun _ =>
      keeps_look_bind fun _ => keeps_bind (keeps_each fun _ => clock_cutImages) fun _ => spares_setCutState.clock))

theorem clock_answerAsks : Keeps clockFrame answerAsks :=
  keeps_look_bind fun _ => keeps_bind (keeps_each fun _ => clock_tellNode) fun _ => clock_modRoot

theorem clock_updateRec {q f} : Keeps clockFrame (updateRec q f) :=
  keeps_look_bind fun _ =>
  keeps_each fun _ => keeps_bind clock_modDie fun _ => keeps_ite clock_modDie net_unitSend.clock

theorem clock_installRec {d q r} : Keeps clockFrame (installRec d q r) := clock_modDie

theorem clock_refuseDoorbell {q err} : Keeps clockFrame (refuseDoorbell q err) :=
  keeps_bind (clock_emit nofun) fun _ => keeps_look_bind fun _ => clock_installRec

theorem clock_setLease {d leader epoch expiry} : Keeps clockFrame (setLease d leader epoch expiry) :=
  keeps_bind clock_modDie fun _ => net_onTick.clock

theorem clock_grantLease {die epoch} : Keeps clockFrame (grantLease die epoch) :=
  keeps_look_bind fun _ =>
  keeps_bind clock_setLease fun _ => keeps_bind (keeps_each fun _ => net_unitSend.clock) fun _ => net_onTick.clock

theorem clock_endStartup : Keeps clockFrame endStartup :=
  keeps_look_bind fun _ => keeps_onlyIf (keeps_bind (keeps_each fun _ => clock_setCreg) fun _ => clock_emit nofun)

theorem clock_admqEnable {v w} : Keeps clockFrame (admqEnable v w) :=
  keeps_look_bind fun _ => keeps_onlyIf (keeps_bind (clock_emit nofun) fun _ => keeps_onlyIf clock_updateRec)

theorem clock_admqDisable {v w} : Keeps clockFrame (admqDisable v w) :=
  keeps_look_bind fun _ => keeps_onlyIf (keeps_bind (clock_emit nofun) fun _ => keeps_onlyIf clock_updateRec)

theorem clock_addSignal {d seq pa} : Keeps clockFrame (addSignal d seq pa) :=
  keeps_look_bind fun _ => keeps_ite keeps_pure
    (by
      split
      · exact keeps_bind net_sendNode.clock fun _ => keeps_bind net_pokeWaits.clock fun _ => keeps_pure
      · exact keeps_pure
      · exact keeps_pure
      · exact keeps_ite (keeps_bind (clock_sendFromTo net_later.clock) fun _ => keeps_pure) keeps_pure)

theorem clock_finishLaunch {q n} : Keeps clockFrame (finishLaunch q n) :=
  keeps_bind clock_updateRec fun _ => clock_modSheaf

theorem clock_finishReport {r} : Keeps clockFrame (finishReport r) := by
  unfold finishReport
  split
  · exact clock_finishLaunch
  · exact keeps_pure

theorem clock_settle {r} : Keeps clockFrame (settle r) :=
  keeps_look_bind fun _ =>
  keeps_bind clock_addSignal fun _ => keeps_ite (keeps_look_bind fun _ => clock_emit nofun) clock_finishReport

theorem clock_reportThen {kind queue sheaf err idx flags errevt caddr ends} :
    Keeps clockFrame (reportThen kind queue sheaf err idx flags errevt caddr ends) :=
  keeps_look_bind fun _ => keeps_bind net_sendReport.clock fun _ => by
    split
    · exact keeps_bind net_freshId.clock fun _ => clock_settle
    · exact keeps_look_bind fun _ => keeps_bind (clock_emit nofun) fun _ => net_onTick.clock

theorem clock_takeReport {seq p} : Keeps clockFrame (takeReport seq p) :=
  keeps_look_bind fun _ => by
    split
    · exact keeps_pure
    · exact keeps_bind (clock_emit nofun) fun _ => keeps_pure

theorem clock_loseReport {seq} : Keeps clockFrame (loseReport seq) :=
  keeps_look_bind fun _ => keeps_bind clock_takeReport fun _ => by
    split
    · exact keeps_bind clock_countMreg fun _ => clock_settle
    · exact keeps_pure

theorem clock_refuseHead {q w err} : Keeps clockFrame (refuseHead q w err) :=
  keeps_look_bind fun _ => keeps_bind (clock_emit nofun) fun _ => keeps_bind clock_updateRec fun _ => clock_reportThen

theorem clock_byLeader {e} {a : ℕ → Act Unit} (ha : ∀ x, Keeps clockFrame (a x)) : Keeps clockFrame (byLeader e a) :=
  keeps_look_bind fun _ => by
    split
    · exact (ha _)
    · exact net_onTick.clock

theorem clock_atLeader {kind m} {a : ℕ → Act Unit} (ha : ∀ x, Keeps clockFrame (a x)) :
    Keeps clockFrame (atLeader kind m a) :=
  clock_byLeader fun _ => keeps_look_bind fun _ => keeps_ite (ha _) net_sendNode.clock

theorem clock_tellPart {d kind m} : Keeps clockFrame (tellPart d kind m) :=
  keeps_look_bind fun _ => by
    split
    · exact net_unitSend.clock
    · exact keeps_pure

theorem clock_dropPart {d l} : Keeps clockFrame (dropPart d l) :=
  keeps_look_bind fun _ => keeps_bind (keeps_each fun _ => spares_freeReserved.clock) fun _ =>
  keeps_bind clock_modDie fun _ => net_sendMulti.clock

theorem clock_adminNext : Keeps clockFrame adminNext := clock_updateRec

theorem clock_applyCreate {w} : Keeps clockFrame (applyCreate w) := keeps_look_bind fun _ => clock_updateRec

theorem clock_applyDestroy {w} : Keeps clockFrame (applyDestroy w) :=
  keeps_look_bind fun _ => keeps_bind clock_updateRec fun _ => keeps_look_bind fun _ =>
  keeps_bind (keeps_each fun _ => keeps_each fun _ => clock_dropPart) fun _ => keeps_bind (keeps_each fun _ => by
      split
      · exact keeps_onlyIf (keeps_bind clock_modDie fun _ => keeps_onlyIf net_sendMulti.clock)
      · exact keeps_pure) fun _ => keeps_look_bind fun _ => keeps_onlyIf clock_updateRec

theorem clock_noteSignal {q fresh} : Keeps clockFrame (noteSignal q fresh) :=
  keeps_look_bind fun _ => keeps_onlyIf clock_modDie

theorem clock_applyWait {q w} : Keeps clockFrame (applyWait q w) :=
  keeps_look_bind fun _ => keeps_bind clock_updateRec fun _ => keeps_bind clock_noteSignal fun _ => net_onTick.clock

theorem clock_startReserve {d l} : Keeps clockFrame (startReserve d l) :=
  keeps_look_bind fun _ => keeps_bind clock_modDie fun _ => keeps_each fun _ => net_unitSend.clock

theorem clock_createSheaf {l members lead nodes} : Keeps clockFrame (createSheaf l members lead nodes) :=
  keeps_look_bind fun _ => keeps_bind clock_freshFree fun _ =>
  keeps_bind (keeps_each fun _ => clock_modCore) fun _ => keeps_bind clock_modRoot fun _ => clock_emit nofun

theorem clock_startMembers {l first tick atOnce} : Keeps clockFrame (startMembers l first tick atOnce) :=
  keeps_look_bind fun _ => keeps_each fun _ =>
    keeps_bind spares_countAt.clock fun _ => keeps_ite
      (keeps_bind spares_countAt.clock fun _ => spares_freeReserved.clock)
      (keeps_ite clock_startThread spares_armEntry.clock)

theorem clock_commitRec {q} : Keeps clockFrame (commitRec q) := clock_updateRec

theorem clock_commitLaunch {l gang} : Keeps clockFrame (commitLaunch l gang) :=
  keeps_look_bind fun _ => keeps_bind clock_createSheaf fun _ => keeps_bind clock_commitRec fun _ =>
  by split; exact keeps_bind (keeps_onlyIf (keeps_each fun _ => clock_countReg)) fun _ => clock_startMembers

theorem clock_servePass {d fuel} : Keeps clockFrame (servePass d fuel) := by
  induction fuel with
  | zero => exact keeps_pure
  | succ fuel ih =>
    refine keeps_look_bind fun s => ?_
    split
    case h_1 => exact keeps_pure
    case h_2 =>
      have hadmin (w : List Nat) (o : Nat) (rest : List Nat) : Keeps clockFrame (
          if o = d ∨ dieFenced s o then do
            if pkKind w = 0x10 then applyCreate w else applyDestroy w
            adminNext
            servePass d fuel
          else do
            unitSend (unitRouter d) (unitRouter o) 4 (placeFrom d o) (if pkKind w = 0x10 then .qcreate else .qdestroy)
            modDie d fun x => { x with todo := rest }
            servePass d fuel) :=
        keeps_ite
          (keeps_ite (keeps_bind clock_applyCreate fun _ => keeps_bind clock_adminNext fun _ => ih)
            (keeps_bind clock_applyDestroy fun _ => keeps_bind clock_adminNext fun _ => ih))
          (keeps_bind net_unitSend.clock fun _ => keeps_bind clock_modDie fun _ => ih)
      refine keeps_ite (keeps_bind clock_modDie fun _ => ih) (keeps_ite (keeps_bind clock_refuseHead fun _ => ih) ?_)
      split
      · exact net_later.clock
      · exact net_later.clock
      · exact hadmin _ _ _
      · exact hadmin _ _ _
      · exact keeps_bind clock_applyWait fun _ => ih

theorem clock_adminDone : Keeps clockFrame adminDone :=
  keeps_bind clock_adminNext fun _ =>
  keeps_look_bind fun _ => keeps_bind clock_modDie fun _ => keeps_onlyIf clock_servePass

theorem clock_adminArrives {kind} {apply : List ℕ → Act Unit} (happly : ∀ x, Keeps clockFrame (apply x)) :
    Keeps clockFrame (adminArrives kind apply) :=
  keeps_look_bind fun _ => by
    split
    · exact keeps_bind (happly _) fun _ => keeps_onlyIf clock_adminDone
    · exact keeps_pure

theorem clock_hearRec {die q r} : Keeps clockFrame (hearRec die q r) :=
  keeps_look_bind fun _ => keeps_bind clock_installRec fun _ => keeps_onlyIf clock_adminDone

theorem clock_blockHead {d q w} : Keeps clockFrame (blockHead d q w) :=
  keeps_look_bind fun _ => keeps_bind (keeps_onlyIf clock_updateRec) fun _ => clock_modDie

theorem clock_placeHead {q kind fit} : Keeps clockFrame (placeHead q kind fit) :=
  keeps_look_bind fun _ => keeps_onlyIf (by
      split
      · exact keeps_pure
      · split
        · exact clock_startReserve
        · exact keeps_bind clock_blockHead fun _ => clock_servePass)

theorem clock_partReady {d l} : Keeps clockFrame (partReady d l) :=
  keeps_look_bind fun _ => keeps_bind clock_modDie fun _ => net_sendMulti.clock

theorem clock_decideLaunch {d l} : Keeps clockFrame (decideLaunch d l) :=
  keeps_look_bind fun _ => keeps_bind clock_modDie fun _ => keeps_ite
    (keeps_bind (keeps_each fun _ => spares_freeReserved.clock) fun _ =>
    keeps_bind (keeps_onlyIf clock_blockHead) fun _ => clock_servePass)
    (keeps_ite (keeps_bind clock_partReady fun _ => clock_servePass)
      (keeps_bind clock_commitLaunch fun _ => clock_servePass))

theorem clock_commitPart {m} : Keeps clockFrame (commitPart m) :=
  keeps_look_bind fun _ => by
    split
    · exact keeps_pure
    · exact keeps_bind clock_modDie fun _ => keeps_bind clock_createSheaf fun _ => keeps_bind clock_commitRec fun _ =>
        keeps_bind (keeps_onlyIf (keeps_each fun _ => clock_countReg)) fun _ => clock_startMembers

theorem clock_abortPart {m} : Keeps clockFrame (abortPart m) :=
  keeps_look_bind fun _ => by
    split
    · exact keeps_pure
    · exact keeps_bind (keeps_each fun _ => spares_freeReserved.clock) fun _ => keeps_bind clock_modDie fun _ =>
        keeps_onlyIf (keeps_bind (clock_emit nofun) fun _ => keeps_bind clock_updateRec fun _ => clock_reportThen)

theorem clock_releaseEntry {d e} : Keeps clockFrame (releaseEntry d e) :=
  keeps_look_bind fun _ => keeps_ite spares_countDie.clock
    (by
      split
      · exact keeps_onlyIf clock_startThread
      · exact keeps_ite (keeps_bind spares_colourReceived.clock fun _ => clock_pushDeque)
            (keeps_bind clock_modDie fun _ => net_onTick.clock))

theorem clock_armOverflow {d} : Keeps clockFrame (armOverflow d) :=
  keeps_look_bind fun _ =>
  keeps_look_bind fun _ => keeps_bind clock_modDie fun _ => keeps_each fun _ => spares_armEntry.clock

theorem clock_resumeAdmin : Keeps clockFrame resumeAdmin :=
  keeps_look_bind fun _ => keeps_bind (keeps_onlyIf net_later.clock) fun _ => keeps_onlyIf clock_adminNext

theorem clock_fenceCore {c cause} : Keeps clockFrame (fenceCore c cause) :=
  keeps_look_bind fun _ => keeps_onlyIf (keeps_bind clock_setCreg fun _ =>
    keeps_bind (keeps_each fun _ => spares_countAt.clock) fun _ => keeps_bind (keeps_each fun _ => by
        split
        · exact spares_endThread.clock
        · exact keeps_pure) fun _ => keeps_bind (keeps_each fun _ => spares_endCached.clock) fun _ =>
    keeps_bind spares_endWaiting.clock fun _ => keeps_bind clock_modCore fun _ =>
    keeps_bind spares_holdReachable.clock fun _ => keeps_bind spares_pokeHeld.clock fun _ =>
    keeps_bind spares_cutResumed.clock fun _ =>
    keeps_bind (keeps_each fun _ => spares_errorEvent.clock) fun _ => net_moduleReport.clock)

theorem clock_fenceDie {d} : Keeps clockFrame (fenceDie d) :=
  keeps_look_bind fun _ => keeps_onlyIf (keeps_bind (clock_emit nofun) fun _ =>
    keeps_bind (keeps_each fun _ => clock_fenceCore) fun _ => keeps_bind (keeps_each fun _ =>
        keeps_bind clock_modWell fun _ => keeps_bind (keeps_each fun _ => spares_unreachableAt.clock) fun _ =>
        keeps_each fun _ => spares_unreachableAt.clock) fun _ => by
      dsimp only
      split
      · exact keeps_bind (keeps_each fun _ => spares_freeReserved.clock) fun _ =>
          keeps_bind clock_modDie fun _ => net_moduleReport.clock
      · exact keeps_bind clock_modDie fun _ => net_moduleReport.clock)

theorem clock_withhold {r} : Keeps clockFrame (withhold r) := by
  unfold withhold
  split
  · exact keeps_pure
  · exact keeps_pure
  · exact clock_modThread
  · exact clock_modDie
  · exact clock_modThread
  · exact spares_modXfer.clock

theorem clock_eccFence {core a} : Keeps clockFrame (eccFence core a) := by
  unfold eccFence
  split
  · exact clock_fenceCore
  · exact clock_fenceCore
  · exact clock_fenceDie

theorem clock_stretchDie {d f} : Keeps clockFrame (stretchDie d f) :=
  keeps_look_bind fun _ => keeps_bind clock_modDie fun _ => keeps_bind net_later.clock fun _ => net_reportStretch.clock

theorem clock_takeSync {time} : Keeps clockFrame (takeSync time) :=
  keeps_look_bind fun _ => keeps_bind (keeps_onlyIf (clock_emit nofun)) fun _ =>
  keeps_bind (clock_emit nofun) fun _ => keeps_bind net_onTick.clock fun _ => net_openElection.clock

theorem clock_askSource {d fuel} : Keeps clockFrame (askSource d fuel) := by
  induction fuel with
  | zero => exact keeps_pure
  | succ fuel ih =>
    refine keeps_look_bind fun _ => keeps_bind clock_modDie fun _ => ?_
    split
    · exact clock_emit nofun
    · exact keeps_ite ih net_sendNode.clock

theorem clock_askImage {d} : Keeps clockFrame (askImage d) := clock_askSource

theorem clock_startDie {d version} : Keeps clockFrame (startDie d version) :=
  keeps_bind clock_modDie fun _ => keeps_bind (clock_emit nofun) fun _ => net_openElection.clock

theorem clock_takeImage {d i} : Keeps clockFrame (takeImage d i) :=
  keeps_look_bind fun _ => keeps_onlyIf (keeps_ite
      (keeps_bind (clock_emit nofun) fun _ => keeps_bind net_moduleReport.clock fun _ => clock_startDie)
      (keeps_ite net_later.clock clock_askImage))

theorem clock_takeStaged : Keeps clockFrame takeStaged := keeps_look_bind fun _ => keeps_onlyIf (clock_emit nofun)

theorem clock_startCore {c} : Keeps clockFrame (startCore c) :=
  keeps_look_bind fun _ => keeps_bind (keeps_onlyIf net_later.clock) fun _ => net_pokeSlots.clock

theorem clock_trainPort {p} : Keeps clockFrame (trainPort p) :=
  keeps_look_bind fun _ => keeps_bind clock_modPort fun _ => keeps_bind clock_putControl fun _ => net_onTick.clock

theorem clock_startUp : Keeps clockFrame startUp :=
  keeps_look_bind fun _ => keeps_bind (clock_emit nofun) fun _ =>
  keeps_bind (keeps_each fun _ => keeps_ite clock_startDie clock_askImage) fun _ =>
  keeps_bind (keeps_each fun _ => clock_trainPort) fun _ => keeps_bind (keeps_each fun _ => clock_startCore) fun _ =>
  keeps_bind (keeps_each fun _ => keeps_bind net_onTick.clock fun _ => net_onTick.clock) fun _ => net_later.clock

theorem clock_countPort {p off} : Keeps clockFrame (countPort p off) := clock_countMreg

theorem clock_injectPacket {p dst slack exh core slot m} :
    Keeps clockFrame (injectPacket p dst slack exh core slot m) :=
  keeps_bind net_freshId.clock fun _ => by
    dsimp only
    split
    · exact keeps_bind clock_askWell fun _ => keeps_pure
    · exact keeps_bind net_enterRouter.clock fun _ => keeps_pure

theorem clock_answerAt {p a core slot slack exh m} : Keeps clockFrame (answerAt p a core slot slack exh m) :=
  net_sendBack.clock

theorem clock_readWindow {off} : Keeps clockFrame (readWindow off) :=
  keeps_look_bind fun _ => by
    dsimp only
    split
    · exact keeps_pure
    · exact keeps_bind (keeps_onlyIf clock_reducePlace) fun _ => keeps_pure

theorem clock_injectUnit {p r slack exh m} : Keeps clockFrame (injectUnit p r slack exh m) :=
  keeps_bind clock_injectPacket fun _ => keeps_pure

theorem clock_takeRequest {p r} : Keeps clockFrame (takeRequest p r) :=
  keeps_look_bind fun _ => by
    dsimp only
    split
    · exact keeps_bind clock_injectPacket fun _ => keeps_pure
    · split
      · exact clock_injectUnit
      · exact keeps_bind clock_answerAt fun _ => keeps_pure
    · exact keeps_bind clock_answerAt fun _ => keeps_pure

theorem clock_takeStore {p w} : Keeps clockFrame (takeStore p w) :=
  keeps_look_bind fun _ => by
    split
    · exact keeps_bind clock_injectPacket fun _ => keeps_pure
    · exact keeps_ite clock_injectUnit (keeps_bind clock_answerAt fun _ => keeps_pure)
    · exact keeps_bind clock_answerAt fun _ => keeps_pure

theorem clock_eachPacket {α : Type} {l : List α} {f : α → Act (List Nat)} (hf : ∀ x, Keeps clockFrame (f x)) :
    Keeps clockFrame (eachPacket l f) := by
  induction l with
  | nil => exact keeps_pure
  | cons x l ih => exact keeps_bind (hf x) fun _ => keeps_bind ih fun _ => keeps_pure

theorem clock_takeWrite {p node addr bytes slack exh} : Keeps clockFrame (takeWrite p node addr bytes slack exh) :=
  clock_eachPacket fun _ => clock_takeStore

theorem clock_takeRead {p node addr n tag slack exh} : Keeps clockFrame (takeRead p node addr n tag slack exh) :=
  keeps_look_bind fun _ => clock_eachPacket fun _ =>
    keeps_ite
      (keeps_bind keeps_pure fun _ =>
      keeps_ite (keeps_bind keeps_pure fun _ => keeps_pure) (keeps_bind clock_takeRequest fun _ => keeps_pure))
      (keeps_bind clock_takeRequest fun _ =>
      keeps_ite (keeps_bind keeps_pure fun _ => keeps_pure) (keeps_bind clock_takeRequest fun _ => keeps_pure))

theorem clock_takeSignal {p addr} : Keeps clockFrame (takeSignal p addr) :=
  keeps_look_bind fun _ => by
    split
    · exact keeps_bind clock_injectPacket fun _ => keeps_pure
    · exact keeps_pure

theorem clock_takeNode {p void slack exh m} : Keeps clockFrame (takeNode p void slack exh m) :=
  keeps_look_bind fun _ => by
    split
    · exact keeps_pure
    · exact keeps_pure
    · exact keeps_bind (keeps_onlyIf clock_takeSync) fun _ => keeps_pure
    · exact clock_takeSignal
    · exact clock_injectUnit

theorem clock_takeFabric {p void m} : Keeps clockFrame (takeFabric p void m) :=
  keeps_look_bind fun _ => by
    split
    · exact clock_takeWrite
    · exact clock_takeRead
    · exact clock_takeRequest
    · exact clock_takeStore
    · exact clock_takeNode
    · split
      · exact keeps_bind clock_injectPacket fun _ => keeps_pure
      · exact keeps_pure

theorem clock_writeWindow {p node off v} : Keeps clockFrame (writeWindow p node off v) :=
  keeps_look_bind fun _ => by split <;> exact net_later.clock

theorem clock_serveNumbered {m} : Keeps clockFrame (serveNumbered m) :=
  keeps_look_bind fun _ => by
    split
    · exact net_later.clock
    · exact clock_modRoot
    · exact keeps_pure

theorem clock_takeTurns {node fuel} : Keeps clockFrame (takeTurns node fuel) := by
  induction fuel with
  | zero => exact keeps_pure
  | succ fuel ih =>
    refine keeps_look_bind fun _ => ?_
    split
    · exact keeps_pure
    · exact keeps_bind clock_modRoot fun _ => keeps_bind clock_serveNumbered fun _ => ih

theorem clock_takeNumbered {node seq m} : Keeps clockFrame (takeNumbered node seq m) :=
  keeps_bind clock_modRoot fun _ => keeps_look_bind fun _ => clock_takeTurns

theorem clock_serveNode {m} : Keeps clockFrame (serveNode m) :=
  keeps_look_bind fun _ => by
    split
    · exact net_later.clock
    · exact net_later.clock
    · exact net_later.clock
    · exact clock_takeNumbered
    · exact clock_takeNumbered
    · exact clock_modRoot
    · exact keeps_onlyIf clock_announce
    · exact keeps_each fun _ => clock_takeImage
    · exact keeps_pure

theorem clock_arriveFromPort {r p m} : Keeps clockFrame (arriveFromPort r p m) :=
  keeps_look_bind fun _ => by
    split
    · exact clock_serveNode
    · split
      · exact keeps_bind clock_readWindow fun _ => net_sendBack.clock
      · exact keeps_pure
    · split
      · exact keeps_bind clock_writeWindow fun _ => net_sendBack.clock
      · exact keeps_pure

theorem clock_retrain {p} : Keeps clockFrame (retrain p) := keeps_look_bind fun _ => keeps_onlyIf clock_trainPort

theorem clock_resendFrom {p seq void} : Keeps clockFrame (resendFrom p seq void) :=
  keeps_look_bind fun _ => keeps_each fun _ => keeps_look_bind fun _ => clock_putFlit

theorem clock_comeUp {port f seq free} : Keeps clockFrame (comeUp port f seq free) :=
  keeps_look_bind fun _ => keeps_bind clock_modPort fun _ => keeps_bind (keeps_onlyIf clock_countPort) fun _ =>
  keeps_bind clock_insertAudit fun _ =>
  keeps_bind clock_resendFrom fun _ => keeps_bind clock_pumpAll fun _ => net_openElection.clock

theorem clock_badFlit {p} : Keeps clockFrame (badFlit p) :=
  keeps_look_bind fun _ => keeps_bind clock_countPort fun _ =>
  keeps_bind clock_modPort fun _ => keeps_bind clock_putControl fun _ => keeps_onlyIf clock_retrain

theorem clock_takeHeader {p f} : Keeps clockFrame (takeHeader p f) := keeps_bind clock_modPort fun _ => clock_pumpAll

theorem clock_goodFlit {p f} {a : Act Unit} (ha : Keeps clockFrame a) : Keeps clockFrame (goodFlit p f a) :=
  keeps_look_bind fun _ => keeps_onlyIf (keeps_ite (keeps_bind clock_takeHeader fun _ => ha) clock_badFlit)

theorem clock_takeEntry {p f} : Keeps clockFrame (takeEntry p f) :=
  keeps_look_bind fun _ => keeps_bind (keeps_onlyIf clock_countPort) fun _ => keeps_bind clock_modPort fun _ =>
  keeps_bind (clock_eachPacket fun _ => clock_takeFabric) fun _ => keeps_bind clock_modPort fun _ => clock_freeWindow

theorem clock_modPacket {r id f} : Keeps clockFrame (modPacket r id f) := clock_modRouter

theorem clock_stampOverdue {r p} : Keeps clockFrame (stampOverdue r p) :=
  keeps_look_bind fun _ => keeps_onlyIf (keeps_bind (keeps_onlyIf clock_slackEvent) fun _ => clock_modPacket)

theorem clock_missWord {r p w} : Keeps clockFrame (missWord r p w) :=
  keeps_bind net_sendMsg.clock fun _ => by
    split
    · exact clock_permitBack
    · exact keeps_pure

theorem clock_passOutput {r out p} : Keeps clockFrame (passOutput r out p) := by
  unfold passOutput
  dsimp only
  split
  · exact clock_missWord
  · exact keeps_ite
        (by
          split
          · split
            · exact clock_arriveFromPort
            · exact clock_arriveAtCore
          · exact clock_arriveAtWell
          · exact clock_arriveAtPort)
        (keeps_look_bind fun _ => keeps_ite spares_unreachableAt.clock net_enterRouter.clock)

theorem clock_startIdle {r} : Keeps clockFrame (startIdle r) :=
  keeps_look_bind fun _ => keeps_onlyIf (keeps_bind clock_modRouter fun _ => keeps_onlyIf net_later.clock)

theorem clock_grantPacket {router out input p} : Keeps clockFrame (grantPacket router out input p) :=
  keeps_look_bind fun _ => keeps_bind clock_modRouter fun _ => keeps_bind clock_passOutput fun _ =>
  keeps_bind (keeps_onlyIf clock_leaveEntry) fun _ =>
  keeps_bind clock_startIdle fun _ => keeps_look_bind fun _ => keeps_onlyIf net_later.clock

theorem clock_slackInRouter {r pkt} : Keeps clockFrame (slackInRouter r pkt) :=
  keeps_look_bind fun _ => keeps_look_bind fun _ => by
    split
    · exact keeps_pure
    · exact keeps_onlyIf
          (keeps_bind (keeps_onlyIf clock_slackEvent) fun _ => keeps_bind clock_modPacket fun _ => net_later.clock)

theorem clock_slackOfFill {c n} : Keeps clockFrame (slackOfFill c n) :=
  keeps_look_bind fun _ => by
    split
    · exact keeps_pure
    · exact keeps_onlyIf
          (keeps_bind (keeps_onlyIf clock_slackEventAt) fun _ => keeps_bind clock_modCore fun _ => net_later.clock)

theorem clock_slackAtPort {p pkt} : Keeps clockFrame (slackAtPort p pkt) :=
  keeps_look_bind fun _ => by
    split
    · exact keeps_pure
    · exact keeps_onlyIf
          (keeps_bind (keeps_onlyIf clock_slackEvent) fun _ => keeps_bind clock_modPort fun _ => net_later.clock)

theorem clock_slackAtWell {w pkt} : Keeps clockFrame (slackAtWell w pkt) :=
  keeps_look_bind fun _ => by
    split
    · exact keeps_pure
    · exact keeps_onlyIf
          (keeps_bind (keeps_onlyIf clock_slackEvent) fun _ => keeps_bind clock_modWell fun _ => net_later.clock)

theorem clock_writeDevmode {v w} : Keeps clockFrame (writeDevmode v w) :=
  keeps_look_bind fun _ => by
    split
    · exact keeps_onlyIf (clock_emit nofun)
    · exact keeps_onlyIf (clock_emit nofun)
    · exact keeps_pure

theorem clock_writeHrptcfg {v} : Keeps clockFrame (writeHrptcfg v) := keeps_onlyIf (clock_emit nofun)

theorem clock_writeNodeid {v w} : Keeps clockFrame (writeNodeid v w) := keeps_onlyIf (clock_emit nofun)

theorem clock_clearSflags {n v} : Keeps clockFrame (clearSflags n v) := clock_modSheaf

theorem clock_writeSttail {c v} : Keeps clockFrame (writeSttail c v) :=
  keeps_look_bind fun _ => keeps_onlyIf clock_setCreg

theorem clock_dropTranslations : Keeps clockFrame dropTranslations :=
  keeps_look_bind fun _ => keeps_bind (keeps_each fun _ => clock_modCore) fun _ =>
  keeps_bind (keeps_each fun _ => clock_emit nofun) fun _ => keeps_each fun _ => keeps_onlyIf clock_modDie

theorem clock_writeXinvc {v} : Keeps clockFrame (writeXinvc v) :=
  keeps_look_bind fun _ => keeps_ite net_later.clock
    (keeps_bind clock_takeDelay fun _ => keeps_bind (clock_emit nofun) fun _ =>
    keeps_bind clock_dropTranslations fun _ => keeps_bind (keeps_each fun _ => clock_modDie) fun _ => net_later.clock)

theorem clock_writeCutctl {v} : Keeps clockFrame (writeCutctl v) :=
  keeps_look_bind fun _ => keeps_ite (keeps_ite clock_cutGo (clock_emit nofun)) (keeps_onlyIf clock_cutResume)

theorem clock_writeModule {off v w} : Keeps clockFrame (writeModule off v w) :=
  keeps_look_bind fun _ => by
    split
    · exact net_later.clock
    · split
      · exact keeps_bind (clock_emit nofun) fun _ => keeps_each fun _ => net_later.clock
      · exact clock_writeNodeid
      · exact keeps_onlyIf (clock_emit nofun)
      · exact keeps_ite clock_admqEnable clock_admqDisable
      · exact clock_writeXinvc
      · exact clock_writeCutctl
      · exact clock_writeDevmode
      · exact clock_writeHrptcfg
      · exact keeps_bind (clock_emit nofun) fun _ => keeps_onlyIf clock_takeStaged
      · split
        · exact keeps_onlyIf (clock_emit nofun)
        · exact keeps_pure

theorem clock_writeSem {c m w v} : Keeps clockFrame (writeSem c m w v) := by
  unfold writeSem
  split
  · exact keeps_bind clock_modSem fun _ => net_pokeSlots.clock
  · exact clock_modSem
  · exact keeps_pure

theorem clock_writeCore {c off v} : Keeps clockFrame (writeCore c off v) :=
  keeps_ite clock_writeSem
    (by
      split
      · exact clock_writeSttail
      · exact keeps_bind clock_setCreg fun _ => keeps_onlyIf net_later.clock
      · exact clock_writeSvccfg
      · exact clock_writeFack
      · exact clock_writePreq
      · exact net_later.clock
      · exact net_later.clock
      · split
        · exact keeps_onlyIf clock_setCreg
        · exact keeps_pure)

theorem clock_writePlace {p v w} : Keeps clockFrame (writePlace p v w) := by
  unfold writePlace
  split
  · exact clock_writeModule
  · exact clock_writeCore
  · exact keeps_onlyIf clock_writeCellWord
  · exact clock_clearSflags
  · split
    · exact keeps_bind clock_write64 fun _ => clock_fillWord
    · exact keeps_pure
  · exact keeps_pure

theorem clock_sideReply {bytes} : Keeps clockFrame (sideReply bytes) := clock_emit nofun

theorem clock_sideNack : Keeps clockFrame sideNack := clock_emit nofun

theorem clock_directed {bytes} : Keeps clockFrame (directed bytes) :=
  keeps_look_bind fun _ => keeps_ite clock_sideReply clock_sideNack

end Sys2Proof.Machine

namespace Sys2Proof.Machine
open Sys2Proof

/-! ### The cycle through every instruction -/

theorem clock_scalar1 {p ta tb s k} : Stays clockFrame s (scalar1 p ta tb s k) :=
  stays_fire fun _ => by split <;> exact rfl

theorem clock_scalar2 {p ta tb s k} : Stays clockFrame s (scalar2 p ta tb s k) :=
  stays_fire fun _ => by split <;> exact rfl

theorem clock_tokenOp {p ta tb s k} : Stays clockFrame s (tokenOp p ta tb s k) :=
  stays_fire fun _ => by split <;> exact rfl

theorem clock_exitPlain {p lpx s target effs} : Stays clockFrame s (exitPlain p lpx s target effs) :=
  stays_fire fun _ => by
    split
    · exact clock_fireExit.run _
    · exact rfl

theorem clock_exitToken {p s effs} : Stays clockFrame s (exitToken p s effs) :=
  stays_fire fun _ => by
    split
    · exact clock_fireExit.run _
    · exact rfl

theorem clock_loadWith {p lsid imm9 ta s kind align size} :
    Stays clockFrame s (loadWith p lsid imm9 ta s kind align size) :=
  stays_fireAct fun _ => by
    split
    · exact clock_fireAccess
    · exact clock_completeAct

theorem clock_storeWith {p lsid imm18 s n} : Stays clockFrame s (storeWith p lsid imm18 s n) :=
  stays_fireAct fun _ => by
    split
    · exact clock_fireStore
    · exact clock_cancelStore

theorem clock_execVst {p lsid imm18 s} : Stays clockFrame s (execVst p lsid imm18 s) :=
  stays_fireAct fun _ => by
    split
    · exact clock_fireStore
    · exact clock_cancelStore

theorem clock_execVldx {p half tb ta s} : Stays clockFrame s (execVldx p half tb ta s) :=
  stays_fireAct fun _ => by
    dsimp only
    split
    · exact keeps_ite clock_completeAct clock_fireAccess
    · exact clock_completeAct

theorem clock_execVstx {lsid s} : Stays clockFrame s (execVstx lsid s) :=
  stays_fireAct fun _ => by
    dsimp only
    split
    · exact clock_fireStore
    · exact clock_cancelStore

theorem clock_execLds {p lsid imm9 ta s} : Stays clockFrame s (execLds p lsid imm9 ta s) :=
  stays_fireAct fun _ => by
    dsimp only
    split
    · exact clock_fireTaking
    · exact clock_nullTaking

theorem clock_execSts {p lsid imm18 s} : Stays clockFrame s (execSts p lsid imm18 s) :=
  stays_fireAct fun _ => by
    dsimp only
    split
    · exact clock_fireTaking
    · exact clock_nullTaking

theorem clock_execAmo {p aop aty tb ta s} : Stays clockFrame s (execAmo p aop aty tb ta s) :=
  stays_fireAct fun _ => by
    dsimp only
    split
    · exact clock_fireTaking
    · exact clock_nullTaking

theorem clock_execBump {p tb ta s} : Stays clockFrame s (execBump p tb ta s) :=
  stays_fireAct fun _ => by
    split
    · exact clock_fireTaking
    · exact clock_nullTaking

theorem clock_execPref {p imm9 s} : Stays clockFrame s (execPref p imm9 s) :=
  stays_fireAct fun _ =>
    keeps_bind clock_completeAct fun _ => by
      split
      · exact clock_prefetch
      · exact keeps_pure

theorem clock_execSlice {p slsel tb ta s} : Stays clockFrame s (execSlice p slsel tb ta s) :=
  stays_fireAct fun _ => by
    split
    · exact clock_fireAccess
    · exact clock_completeAct

theorem clock_execTld {p buf tb ta s} : Stays clockFrame s (execTld p buf tb ta s) :=
  stays_fireAct fun _ => by
    split
    · exact keeps_ite clock_completeAct clock_fireAccess
    · exact clock_completeAct

theorem clock_execOwnerAccess {r s} : Stays clockFrame s (execOwnerAccess r s) :=
  stays_run (keeps_bind clock_serveReq fun _ => by
      dsimp only
      split
      · exact keeps_ite
            (by
              split
              · exact spares_deliverNow.clock
              · exact net_later.clock) net_sendBack.clock
      · exact keeps_pure)

theorem clock_execStoreWordApply {w s} : Stays clockFrame s (execStoreWordApply w s) :=
  stays_run (keeps_bind clock_applyWord fun _ => by
      split
      · exact net_sendBack.clock
      · exact keeps_pure)

theorem clock_execLdsStsRefusal {r s} : Stays clockFrame s (execLdsStsRefusal r s) :=
  stays_run (keeps_bind clock_countReg fun _ => keeps_ite
      (by
        dsimp only
        split
        · exact keeps_pure
        · exact keeps_bind spares_modBlock.clock fun _ =>
            keeps_ite (keeps_bind clock_takingEnds fun _ => spares_raise.clock) net_later.clock)
      (keeps_bind clock_takingEnds fun _ => clock_takeAnew))

theorem clock_execPageWalk {die asid page s} : Stays clockFrame s (execPageWalk die asid page s) :=
  stays_run (by
      split
      · exact keeps_pure
      · exact keeps_onlyIf (keeps_ite (keeps_bind clock_modDie fun _ => net_later.clock)
              (by
                split
                · exact clock_askEntry
                · exact clock_endWalk)))

theorem clock_execWellheadRequest {well s} : Stays clockFrame s (execWellheadRequest well s) :=
  stays_run (by
      split
      · exact keeps_pure
      · exact keeps_onlyIf (keeps_bind clock_modWell fun _ => clock_wellServe))

theorem clock_copyWith {mode p tb ta s} : Stays clockFrame s (copyWith mode p tb ta s) :=
  stays_fireAct fun _ => by
    split
    · exact clock_withEntry clock_fireAccess
    · exact clock_completeAct

theorem clock_execSacq {p tb ta s} : Stays clockFrame s (execSacq p tb ta s) :=
  stays_fireAct fun _ => by
    split
    · exact keeps_ite clock_parkOn clock_acquire
    · exact clock_nullAcquire

theorem clock_execSacqp {p tb ta s} : Stays clockFrame s (execSacqp p tb ta s) :=
  stays_fireAct fun _ => by
    split
    · exact keeps_ite clock_acquire (keeps_ite spares_raise.clock (keeps_bind clock_parkOn fun _ => net_onTick.clock))
    · exact clock_nullAcquire

theorem clock_execSlpt {p tb ta s} : Stays clockFrame s (execSlpt p tb ta s) :=
  stays_fireAct fun _ => by
    split
    · exact keeps_ite clock_completeAct (keeps_bind clock_parkOn fun _ => net_onTick.clock)
    · exact clock_completeAct

theorem clock_execPromiseMissed {core slot s} : Stays clockFrame s (execPromiseMissed core slot s) :=
  stays_run (by
      split
      · exact keeps_pure
      · split
        · exact keeps_onlyIf spares_raise.clock
        · exact keeps_pure)

theorem clock_execSlptWake {core slot s} : Stays clockFrame s (execSlptWake core slot s) :=
  stays_run (by
      split
      · exact keeps_pure
      · split
        · exact keeps_onlyIf clock_modThread
        · exact keeps_pure)

theorem clock_execCommandHandover {core s} : Stays clockFrame s (execCommandHandover core s) :=
  stays_run (by
      split
      · exact keeps_pure
      · split
        · exact keeps_pure
        · exact keeps_bind clock_modCore fun _ => keeps_bind clock_modSiphon fun _ =>
            keeps_bind clock_takeDelay fun _ => keeps_bind net_later.clock fun _ => net_later.clock)

theorem clock_execSiphonStart {siphon s} : Stays clockFrame s (execSiphonStart siphon s) :=
  stays_run (by
      dsimp only
      split
      · exact keeps_pure
      · exact keeps_onlyIf clock_startCopy)

theorem clock_execCopyCompletion {siphon s} : Stays clockFrame s (execCopyCompletion siphon s) :=
  stays_run (by
      dsimp only
      split
      · exact keeps_pure
      · exact keeps_onlyIf (keeps_ite clock_completeCopy
              (by
                split
                · exact clock_completeCopy
                · exact clock_copyEnds
                · exact clock_moveCopy)))

theorem clock_matrixFire {p s kind ops} : Stays clockFrame s (matrixFire p s kind ops) :=
  stays_fireAct fun _ => by
    split
    · exact clock_withEntry clock_completeAct
    · exact clock_completeAct

theorem clock_execMprog {p tb ta s} : Stays clockFrame s (execMprog p tb ta s) :=
  stays_fireAct fun _ => by
    split
    · exact clock_withEntry clock_completeAct
    · exact clock_completeAct

theorem clock_stageFire {p n tb ta s scaled ops} : Stays clockFrame s (stageFire p n tb ta s scaled ops) :=
  stays_fireAct fun _ => by split <;> exact clock_completeAct

theorem clock_execMatrixHandover {core s} : Stays clockFrame s (execMatrixHandover core s) :=
  stays_run (by
      split
      · exact keeps_pure
      · exact keeps_onlyIf (keeps_bind clock_modCore fun _ => keeps_bind clock_enterQueue fun _ => net_later.clock))

theorem clock_execFollowOnStart {core s} : Stays clockFrame s (execFollowOnStart core s) :=
  stays_run (by
      dsimp only
      split
      · exact keeps_pure
      · split
        · exact keeps_pure
        · exact keeps_onlyIf (keeps_bind clock_modCore fun _ => keeps_bind clock_enterQueue fun _ => net_later.clock))

theorem clock_execMprogInstall {core s} : Stays clockFrame s (execMprogInstall core s) :=
  stays_run (by
      split
      · exact keeps_pure
      · exact keeps_onlyIf (keeps_bind clock_modCore fun _ => clock_matrixEnd))

theorem clock_execMlwExecution {core s} : Stays clockFrame s (execMlwExecution core s) :=
  stays_run (clock_matrixStep fun _ _ => by
      split
      · exact keeps_pure
      · exact keeps_bind clock_modCore fun _ => keeps_pure)

theorem clock_execMresExecution {core s} : Stays clockFrame s (execMresExecution core s) :=
  stays_run (clock_matrixStep fun _ _ =>
      keeps_look_bind fun _ => keeps_bind clock_modCore fun _ => keeps_ite keeps_pure clock_runRows)

theorem clock_execMzrExecution {core s} : Stays clockFrame s (execMzrExecution core s) :=
  stays_run (clock_matrixStep fun _ _ => keeps_bind (keeps_each fun _ => clock_setAcc) fun _ => keeps_pure)

theorem clock_execMmovExecution {core s} : Stays clockFrame s (execMmovExecution core s) :=
  stays_run (clock_matrixStep fun _ _ => by
      split
      · exact clock_moveImage
      · exact keeps_pure)

theorem clock_execMark {m s} : Stays clockFrame s (execMark m s) :=
  stays_run (by
    split
    · exact keeps_pure
    · exact keeps_bind (keeps_onlyIf spares_colourReceived.clock) fun _ =>
        keeps_bind (keeps_onlyIf spares_countAt.clock) fun _ => keeps_ite
          (keeps_bind clock_queueTask fun _ => keeps_bind clock_markDependants fun _ =>
            keeps_bind spares_pokeHeld.clock fun _ => keeps_ite net_later.clock net_sendMsg.clock)
          (keeps_ite net_later.clock net_sendMsg.clock))

theorem clock_execHeldDecision {r s} : Stays clockFrame s (execHeldDecision r s) :=
  stays_run (by
      split
      · exact clock_closeCell
      · exact clock_replyCell
      · exact keeps_ite
            (by
              split
              · exact clock_modCore
              · exact clock_settleCell) clock_replyCell)

theorem clock_cellInstr {p ta tb s ops} : Stays clockFrame s (cellInstr p ta tb s ops) :=
  stays_fireAct fun _ => by
    split
    · exact clock_fireCell
    · exact clock_completeAct

theorem clock_execTset {p tb ta s} : Stays clockFrame s (execTset p tb ta s) :=
  stays_fireAct fun _ => by
    split
    · exact keeps_ite clock_statusAct clock_statusAct
    · exact clock_completeAct

theorem clock_execFwait {p tb ta s} : Stays clockFrame s (execFwait p tb ta s) :=
  stays_fireAct fun _ => by
    split
    · split
      · exact clock_statusAct
      · exact keeps_ite clock_statusAct
            (keeps_ite (keeps_bind clock_statusAct fun _ => clock_acquireCommit) clock_takeTurn)
    · exact clock_completeAct

theorem clock_execRfence {p tb ta s} : Stays clockFrame s (execRfence p tb ta s) :=
  stays_fireAct fun _ => by
    split
    · exact keeps_ite clock_statusAct (keeps_ite clock_statusAct clock_statusAct)
    · exact clock_completeAct

theorem clock_execJoin {p tb ta s} : Stays clockFrame s (execJoin p tb ta s) :=
  stays_fireAct fun _ => by
    split
    · exact keeps_ite clock_statusAct (keeps_ite clock_statusAct clock_statusAct)
    · exact clock_completeAct

theorem clock_execLeave {p exit tb ta s} : Stays clockFrame s (execLeave p exit tb ta s) :=
  stays_fireAct fun _ =>
    keeps_ite (keeps_ite clock_statusAct (keeps_ite clock_statusAct clock_statusAct)) clock_completeAct

theorem clock_execSpawn {tb ta s} : Stays clockFrame s (execSpawn tb ta s) :=
  stays_fireAct fun _ => by
    split
    · exact keeps_ite clock_statusAct (keeps_ite clock_statusAct clock_statusAct)
    · exact clock_completeAct

theorem clock_execSpawnAt {tb ta s} : Stays clockFrame s (execSpawnAt tb ta s) :=
  stays_fireAct fun _ => by
    split
    · exact keeps_ite clock_statusAct clock_statusAct
    · exact clock_completeAct

theorem clock_execYldExpiry {core slot s} : Stays clockFrame s (execYldExpiry core slot s) :=
  stays_run (by
      split
      · exact keeps_pure
      · split
        · exact keeps_onlyIf clock_goOn
        · exact keeps_pure)

theorem clock_execFillArrival {m s} : Stays clockFrame s (execFillArrival m s) :=
  stays_run (keeps_bind (keeps_onlyIf spares_colourReceived.clock) fun _ => by
      split
      · exact clock_applyFill
      · exact keeps_pure)

theorem clock_execWakeArrival {m s} : Stays clockFrame s (execWakeArrival m s) :=
  stays_run (keeps_ite clock_faultWakes
      (by
        split
        · exact keeps_bind clock_wakeLocal fun _ => clock_reportMessage
        · exact keeps_bind clock_onThread fun _ => clock_reportMessage
        · exact clock_dropMessage))

theorem clock_execTokenDelivery {d s} : Stays clockFrame s (execTokenDelivery d s) :=
  stays_run (keeps_bind clock_deliver fun _ => by
      split
      · exact keeps_pure
      · exact clock_checkComplete)

theorem clock_execBlockLoad {core slot s} : Stays clockFrame s (execBlockLoad core slot s) :=
  stays_run (by
      split
      · exact keeps_pure
      · exact keeps_onlyIf (by
              split
              · exact clock_loadWords
              · exact clock_askCode
              · exact clock_joinWalk
              · exact spares_raise.clock))

theorem clock_execSysr {p tb ta s} : Stays clockFrame s (execSysr p tb ta s) :=
  stays_fireAct fun _ => by
    split
    · exact clock_serviceOnly clock_completeAct
    · exact clock_completeAct

theorem clock_execSysw {p ta s} : Stays clockFrame s (execSysw p ta s) :=
  stays_fireAct fun _ => by
    split
    · exact clock_serviceOnly clock_completeAct
    · exact clock_completeAct

theorem clock_execChb {p q tb ta s} : Stays clockFrame s (execChb p q tb ta s) :=
  stays_fireAct fun _ => by
    split
    · exact clock_whenUnclaimed clock_completeAct
    · exact clock_completeAct

theorem clock_execStr {p q vecS tb ta s} : Stays clockFrame s (execStr p q vecS tb ta s) :=
  stays_fireAct fun _ => by
    split
    · exact clock_whenUnclaimed clock_completeAct
    · exact clock_completeAct

theorem clock_execStandpipePush {src dst tok sheaf time slack col s} :
    Stays clockFrame s (execStandpipePush src dst tok sheaf time slack col s) :=
  stays_run (keeps_bind spares_colourReceived.clock fun _ => keeps_ite clock_modChan clock_discardEntry)

theorem clock_execStreamReadAhead {core q s} : Stays clockFrame s (execStreamReadAhead core q s) :=
  stays_run (by
    dsimp only
    split
    · split
      · exact keeps_bind clock_modChan fun _ => net_later.clock
      · exact keeps_pure
    · exact keeps_pure)

theorem clock_execBlockCommit {core slot gen s} : Stays clockFrame s (execBlockCommit core slot gen s) :=
  stays_run (by
      split
      · exact keeps_pure
      · split
        · exact keeps_pure
        · split
          · exact keeps_pure
          · exact keeps_onlyIf (keeps_ite (keeps_bind clock_countReg fun _ => clock_holdCommit)
                  (keeps_ite (keeps_bind (keeps_each fun _ => net_later.clock) fun _ => clock_holdCommit)
                    (keeps_ite clock_holdCommit clock_commitBlock))))

theorem clock_execStealRequest {victim x s} : Stays clockFrame s (execStealRequest victim x s) :=
  stays_run (keeps_bind clock_takeOldest fun _ => by
      split
      · exact keeps_bind clock_colourSent fun _ => keeps_bind net_sendMsg.clock fun _ => net_pokeSlots.clock
      · exact clock_passSteal)

theorem clock_execStealReply {x s} : Stays clockFrame s (execStealReply x s) :=
  stays_run (by
      dsimp only
      split
      · exact keeps_ite (keeps_bind spares_colourReceived.clock fun _ => spares_countDie.clock)
            (keeps_ite net_later.clock
              (keeps_bind clock_modCore fun _ => keeps_bind spares_colourReceived.clock fun _ => by
                split
                · exact keeps_bind clock_startThread fun _ => net_pokeSlots.clock
                · exact clock_pushDeque))
      · exact keeps_bind clock_modCore fun _ => net_later.clock)

theorem clock_execSwapOut {core slot s} : Stays clockFrame s (execSwapOut core slot s) :=
  stays_run (by
      split
      · exact keeps_pure
      · exact keeps_onlyIf (keeps_ite net_later.clock
              (keeps_ite spares_removeThread.clock
                (keeps_bind (keeps_each fun _ => spares_countAt.clock) fun _ => keeps_bind clock_modThread fun _ =>
                keeps_bind clock_abandonBlock fun _ => keeps_look_bind fun _ => by
                  split
                  · exact clock_swapThread
                  · exact net_later.clock))))

theorem clock_execRestore {core entry s} : Stays clockFrame s (execRestore core entry s) :=
  stays_run (by
      split
      · exact keeps_pure
      · split
        · exact keeps_pure
        · exact keeps_onlyIf (keeps_bind clock_modCore fun _ =>
              keeps_bind (keeps_onlyIf (keeps_bind clock_renameThread fun _ => clock_setCreg)) fun _ =>
              keeps_bind clock_restoreParts fun _ =>
              keeps_bind clock_setRecord fun _ => keeps_bind clock_enterSlot fun _ => spares_cutResumed.clock))

theorem clock_execCtxout {core entry s} : Stays clockFrame s (execCtxout core entry s) :=
  stays_run (by
      split
      · exact keeps_pure
      · exact keeps_onlyIf (keeps_bind net_writeOwn.clock fun _ => keeps_bind clock_writeParts fun _ =>
            keeps_bind (clock_emit nofun) fun _ => keeps_bind clock_modCore fun _ => spares_cutResumed.clock))

theorem clock_execResume {core addr s} : Stays clockFrame s (execResume core addr s) :=
  stays_run (by
      split
      · exact keeps_pure
      · exact keeps_onlyIf (keeps_bind clock_setCreg fun _ => keeps_bind (clock_emit nofun) fun _ =>
            keeps_bind clock_restoreParts fun _ => keeps_bind clock_setRecord fun _ =>
            keeps_bind (keeps_onlyIf clock_restoreMoved) fun _ => keeps_bind clock_writeBytes fun _ =>
            keeps_bind clock_modSlot fun _ =>
            keeps_bind (keeps_onlyIf clock_enterResume) fun _ => keeps_look_bind fun _ => keeps_onlyIf clock_goOn))

theorem clock_execParkTimeout {core s} : Stays clockFrame s (execParkTimeout core s) :=
  stays_run (keeps_onlyIf (by
        split
        · exact clock_startSwap
        · exact net_later.clock))

theorem clock_execPreemptTimeout {core slot since s} : Stays clockFrame s (execPreemptTimeout core slot since s) :=
  stays_run (by
      split
      · exact keeps_pure
      · exact keeps_onlyIf (keeps_ite clock_startSwap net_later.clock))

theorem clock_execTrap {p s} : Stays clockFrame s (execTrap p s) :=
  stays_fireAct fun _ => by
    split
    · exact keeps_bind clock_takeTurn fun _ => spares_raise.clock
    · exact clock_completeAct

theorem clock_execTretRetry {p s} : Stays clockFrame s (execTretRetry p s) :=
  stays_fireAct fun _ => by
    split
    · exact clock_fireExit
    · exact clock_completeAct

theorem clock_execHalt {p s} : Stays clockFrame s (execHalt p s) :=
  stays_fireAct fun _ =>
    keeps_ite (keeps_ite (keeps_bind clock_takeTurn fun _ => spares_raise.clock) clock_completeAct) clock_completeAct

theorem clock_execScopeMiss {w s} : Stays clockFrame s (execScopeMiss w s) :=
  stays_run (by
      dsimp only
      split
      · exact keeps_pure
      · exact keeps_bind clock_modCore fun _ =>
          keeps_bind (keeps_onlyIf spares_serviceFault.clock) fun _ => clock_reissueMissed)

theorem clock_execStoreAcknowledgement {core slot sid s} :
    Stays clockFrame s (execStoreAcknowledgement core slot sid s) :=
  stays_run (by
      dsimp only
      split
      · exact keeps_bind clock_sendWords fun _ => keeps_bind clock_sendReady fun _ => keeps_onlyIf net_later.clock
      · exact keeps_bind (keeps_onlyIf clock_countReg) fun _ => keeps_bind net_pokeForeign.clock fun _ =>
          keeps_bind clock_modCore fun _ => keeps_bind clock_reissueMissed fun _ => keeps_bind clock_endMiss fun _ =>
          keeps_bind clock_sendWords fun _ => keeps_bind clock_sendReady fun _ => keeps_onlyIf net_later.clock)

theorem clock_execFackRetry {core slot s} : Stays clockFrame s (execFackRetry core slot s) :=
  stays_run (clock_whenSettled fun _ =>
      keeps_bind spares_clearPending.clock fun _ =>
      keeps_bind clock_modThread fun _ => keeps_ite clock_startSwap clock_retryHeld)

theorem clock_execFackTrap {core slot s} : Stays clockFrame s (execFackTrap core slot s) :=
  stays_run (clock_whenSettled fun _ =>
      keeps_bind spares_clearPending.clock fun _ => keeps_bind clock_modThread fun _ => spares_userTrap.clock)

theorem clock_execFackEnd {core slot s} : Stays clockFrame s (execFackEnd core slot s) :=
  stays_run (clock_whenSettled fun _ => by
      dsimp only
      split
      · exact keeps_bind spares_errorEvent.clock fun _ => spares_endThread.clock
      · exact spares_endThread.clock)

theorem clock_execTaskDispatch {core s} : Stays clockFrame s (execTaskDispatch core s) :=
  stays_run (keeps_bind (keeps_onlyIf (keeps_each fun _ => clock_retryFills)) fun _ =>
    keeps_bind clock_fillService fun _ => keeps_bind (keeps_each fun _ => clock_fillSlot) fun _ =>
    keeps_bind clock_callRestores fun _ => keeps_bind clock_cutProgress fun _ => keeps_bind clock_askSteal fun _ =>
    keeps_look_bind fun _ => keeps_bind (keeps_onlyIf net_later.clock) fun _ => keeps_onlyIf net_later.clock)

theorem clock_intOp {p ty mode tb ta s k} : Stays clockFrame s (intOp p ty mode tb ta s k) := clock_scalar2

theorem clock_execBits {p bop tb ta s} : Stays clockFrame s (execBits p bop tb ta s) := by
  unfold execBits
  split
  · exact clock_scalar2
  · exact clock_scalar2
  · exact clock_scalar1

theorem clock_execSweepRequest {core n cut s} : Stays clockFrame s (execSweepRequest core n cut s) :=
  stays_run (keeps_ite clock_sweepCore
      (keeps_ite
        (keeps_bind clock_startSweep fun _ =>
        keeps_bind (keeps_each fun _ => net_unitSend.clock) fun _ => net_later.clock)
        (keeps_ite (keeps_each fun _ => net_unitSend.clock) (keeps_each fun _ => net_unitSend.clock))))

theorem clock_execSweepComplete {s} : Stays clockFrame s (execSweepComplete s) :=
  stays_run (keeps_ite net_later.clock
      (keeps_bind (keeps_each fun _ => keeps_onlyIf clock_announce) fun _ => keeps_bind clock_cutSweep fun _ =>
      keeps_bind clock_answerAsks fun _ =>
      keeps_bind clock_modRoot fun _ => keeps_look_bind fun _ => net_atCycle.clock))

theorem clock_execLeaseExpiry {die s} : Stays clockFrame s (execLeaseExpiry die s) :=
  stays_run (keeps_ite clock_modDie
      (keeps_ite (keeps_bind clock_modDie fun _ => net_onTick.clock)
        (keeps_bind clock_modDie fun _ =>
        keeps_bind (keeps_each fun _ => net_unitSend.clock) fun _ => net_onTick.clock)))

theorem clock_execLeaseRenewal {e s} : Stays clockFrame s (execLeaseRenewal e s) :=
  stays_run (by
      split
      · exact keeps_onlyIf (keeps_bind clock_grantLease fun _ => clock_endStartup)
      · exact keeps_onlyIf clock_setLease)

theorem clock_execReportAcknowledgement {seq s} : Stays clockFrame s (execReportAcknowledgement seq s) :=
  stays_run (keeps_bind clock_takeReport fun _ => by
      split
      · exact clock_settle
      · exact keeps_pure)

theorem clock_execReportTimeout {seq s} : Stays clockFrame s (execReportTimeout seq s) :=
  stays_run (keeps_bind clock_takeReport fun _ => by
      split
      · exact clock_finishReport
      · exact clock_loseReport)

theorem clock_execWait {q s} : Stays clockFrame s (execWait q s) :=
  stays_run (by
      split
      · exact clock_applyWait
      · exact keeps_pure)

theorem clock_execWaitPoll {q s} : Stays clockFrame s (execWaitPoll q s) :=
  stays_run (keeps_onlyIf (keeps_bind clock_noteSignal fun _ =>
      keeps_bind (keeps_onlyIf (keeps_bind clock_freshFree fun _ => keeps_pure)) fun _ =>
      keeps_ite clock_updateRec (keeps_onlyIf net_onTick.clock)))

theorem clock_execRecordUpdate {die q r s} : Stays clockFrame s (execRecordUpdate die q r s) :=
  stays_run (keeps_ite clock_hearRec (keeps_onlyIf (keeps_bind clock_installRec fun _ => net_unitSend.clock)))

theorem clock_execRecordFetchReply {die q r s} : Stays clockFrame s (execRecordFetchReply die q r s) :=
  stays_run (by
      split
      · exact clock_hearRec
      · exact net_unitSend.clock)

theorem clock_execPlacementPass {die s} : Stays clockFrame s (execPlacementPass die s) :=
  stays_run (keeps_onlyIf (clock_atCycleEnd (keeps_ite net_later.clock
          (keeps_bind net_onTick.clock fun _ =>
          keeps_onlyIf (keeps_bind clock_modDie fun _ => keeps_onlyIf clock_servePass)))))

theorem clock_execReserveAck {die core ok s} : Stays clockFrame s (execReserveAck die core ok s) :=
  stays_run (by
      split
      · exact keeps_pure
      · exact keeps_ite clock_decideLaunch clock_modDie)

theorem clock_execMultiReady {m s} : Stays clockFrame s (execMultiReady m s) :=
  stays_run (clock_atLeader fun _ =>
      keeps_bind (keeps_onlyIf net_onTick.clock) fun _ => keeps_ite
        (keeps_bind net_sendMulti.clock fun _ => net_keepGang.clock)
        (keeps_ite net_abortGang.clock
          (keeps_ite (keeps_bind (clock_emit nofun) fun _ => keeps_each fun _ => net_sendMulti.clock)
            (clock_emit nofun))))

theorem clock_execMultiCommit {m s} : Stays clockFrame s (execMultiCommit m s) :=
  stays_run (by
      split
      · exact clock_commitPart
      · exact clock_atLeader fun _ => clock_tellPart)

theorem clock_execMultiAbort {m s} : Stays clockFrame s (execMultiAbort m s) :=
  stays_run (by
      split
      · exact clock_abortPart
      · exact clock_atLeader fun _ =>
            keeps_look_bind fun _ => keeps_bind clock_tellPart fun _ => keeps_onlyIf net_abortGang.clock)

theorem clock_execTimerWheelRelease {die s} : Stays clockFrame s (execTimerWheelRelease die s) :=
  stays_run (keeps_bind clock_modDie fun _ => keeps_bind (keeps_each fun _ => clock_releaseEntry) fun _ =>
    keeps_bind spares_armWaiting.clock fun _ => clock_armOverflow)

theorem clock_execWatchdogPeriod {die s} : Stays clockFrame s (execWatchdogPeriod die s) :=
  stays_run (keeps_onlyIf (keeps_bind
        (keeps_each fun _ => keeps_bind clock_countMreg fun _ => by split; exact net_plainReport.clock) fun _ =>
      keeps_bind clock_modDie fun _ => keeps_onlyIf net_onTick.clock))

theorem clock_execLeaseGrant {claimant epoch granter s} :
    Stays clockFrame s (execLeaseGrant claimant epoch granter s) :=
  stays_run (keeps_onlyIf (keeps_bind clock_modDie fun _ => keeps_onlyIf (keeps_bind clock_modDie fun _ =>
        keeps_bind clock_grantLease fun _ =>
        keeps_bind (keeps_onlyIf clock_updateRec) fun _ => keeps_bind clock_resumeAdmin fun _ => clock_endStartup)))

theorem clock_execJunctionTemperature {die temp s} : Stays clockFrame s (execJunctionTemperature die temp s) :=
  stays_run (keeps_bind clock_modDie fun _ => keeps_look_bind fun _ => keeps_bind (clock_emit nofun) fun _ =>
    keeps_ite (keeps_each fun _ => net_later.clock) (keeps_ite clock_stretchDie (keeps_onlyIf clock_stretchDie)))

theorem clock_execTickLockLoss {s} : Stays clockFrame s (execTickLockLoss s) :=
  stays_run (keeps_onlyIf
      (keeps_bind (clock_emit nofun) fun _ => keeps_bind net_moduleReport.clock fun _ => net_lostLock.clock))

theorem clock_execRetrainTimeout {port s} : Stays clockFrame s (execRetrainTimeout port s) :=
  stays_run (keeps_onlyIf (keeps_bind clock_modPort fun _ =>
      keeps_bind (keeps_each fun _ => clock_arriveAtPort) fun _ => net_openElection.clock))

theorem clock_execDataFlit {port f s} : Stays clockFrame s (execDataFlit port f s) :=
  stays_run (keeps_onlyIf (keeps_ite clock_badFlit
        (keeps_ite clock_modPort
          (keeps_ite clock_retrain
            (keeps_bind clock_takeHeader fun _ => keeps_bind clock_takeEntry fun _ => clock_tellPort)))))

theorem clock_execAuditFlit {port f used avail s} : Stays clockFrame s (execAuditFlit port f used avail s) :=
  stays_run (clock_goodFlit (keeps_each fun _ => keeps_ite clock_putControl (keeps_onlyIf clock_putControl)))

theorem clock_execRestitutionFlit {port f grant s} : Stays clockFrame s (execRestitutionFlit port f grant s) :=
  stays_run (clock_goodFlit (keeps_bind clock_countPort fun _ => keeps_bind clock_modPort fun _ => clock_pumpAll))

theorem clock_execRouterGrant {router out s} : Stays clockFrame s (execRouterGrant router out s) :=
  stays_run (keeps_onlyIf (keeps_bind (keeps_each fun _ => clock_stampOverdue) fun _ => keeps_look_bind fun _ => by
        split
        · exact keeps_pure
        · exact keeps_ite (keeps_bind net_wakeRouter.clock fun _ => net_againSoon.clock) clock_grantPacket))

theorem clock_execSlackDecrement {buffer pkt s} : Stays clockFrame s (execSlackDecrement buffer pkt s) :=
  stays_run
    (keeps_ite clock_slackInRouter (keeps_ite clock_slackOfFill (keeps_ite clock_slackAtPort clock_slackAtWell)))

theorem clock_execRouterPowerDown {router s} : Stays clockFrame s (execRouterPowerDown router s) :=
  stays_run (keeps_onlyIf (keeps_ite (keeps_bind clock_modRouter fun _ => clock_countReg) net_later.clock))

theorem clock_execRouterWake {router s} : Stays clockFrame s (execRouterWake router s) :=
  stays_run (keeps_onlyIf (keeps_bind clock_modRouter fun _ =>
      keeps_bind (keeps_each fun _ => net_enterRouter.clock) fun _ => clock_startIdle))

theorem clock_execInvalidationComplete {s} : Stays clockFrame s (execInvalidationComplete s) :=
  stays_run (keeps_onlyIf (keeps_ite net_later.clock (keeps_bind clock_dropTranslations fun _ => clock_emit nofun)))

theorem clock_execReadClear {off reader s} : Stays clockFrame s (execReadClear off reader s) :=
  stays_run (keeps_bind clock_readWindow fun _ => by
      split
      · exact clock_emit nofun
      · exact keeps_look_bind fun _ => net_sendBack.clock
      · exact keeps_pure)

/-- Every instruction but the power-on reset and the loss of power leaves the cycle. -/
theorem clock_exec {i : Instr} {s : State} (hp : i ≠ .powerOnReset) (hl : ∀ b, i ≠ .powerLoss b) :
    Stays clockFrame s (exec i s) := by
  unfold exec
  cases i with
  | powerOnReset => exact absurd rfl hp
  | powerLoss b => exact absurd rfl (hl b)
  | br | call | lpx => exact clock_exitPlain
  | bri | calli | ret | tret => exact clock_exitToken
  | lpb | vcvt => exact stays_fire fun _ => by split <;> exact rfl
  | hnt => exact stays_fire fun _ => rfl
  | genc | mov | nul | sel | vadd | vsub | vmul | vfma | vmin | vmax | vcmp | vsel | vand | vor | vxor | vshf
  | vbcst | vins | vext | vmsk | vred | vexp2 | vrcp | vrsq | tli | vun => exact clock_tokenOp
  | app | addi | muli | andi | ori | xori | shli | shri | sari | ceqi | cnei | clti | cgei => exact clock_scalar1
  | rd => exact stays_fireAct fun _ => keeps_ite clock_popChannel clock_readFire
  | rdt => exact stays_fireAct fun _ => clock_readFire
  | wr => exact stays_fireAct fun _ => keeps_ite clock_pushChannel clock_completeAct
  | add | sub | mul | mulh | div | rem | minI | maxI => exact clock_intOp
  | andI | orI | xorI | shl | shr | sar | cmp | lea => exact clock_scalar2
  | slice => exact clock_execSlice
  | bits => exact clock_execBits
  | ldN8 | ldI8 | ldN16 | ldI16 | ldN32 | ldI32 | ld64 | vld => exact clock_loadWith
  | st8 | st16 | st32 | st64 => exact clock_storeWith
  | lds => exact clock_execLds
  | sts => exact clock_execSts
  | amo => exact clock_execAmo
  | bump => exact clock_execBump
  | pref => exact clock_execPref
  | tld => exact clock_execTld
  | vst => exact clock_execVst
  | vldx => exact clock_execVldx
  | vstx => exact clock_execVstx
  | mprog => exact clock_execMprog
  | mlw | mlwS | mma | mmaS | mst | mzr | mres | mresDrop | mmov => exact clock_matrixFire
  | mstg | mstgS => exact clock_stageFire
  | cpy | cpyDeal | cpyGath | cpyBin | cpyX => exact clock_copyWith
  | sacq => exact clock_execSacq
  | sacqp => exact clock_execSacqp
  | slpt => exact clock_execSlpt
  | chb => exact clock_execChb
  | chu => exact stays_fireAct fun _ => keeps_ite (clock_whenUnclaimed clock_completeAct) clock_completeAct
  | str => exact clock_execStr
  | fence => exact stays_fireAct fun _ => keeps_bind clock_completeAct fun _ => clock_sendReady
  | tadv | fill | wake | yld | ppt => exact stays_fireAct fun _ => by split <;> exact clock_completeAct
  | tset => exact clock_execTset
  | fwait => exact clock_execFwait
  | join => exact clock_execJoin
  | leave => exact clock_execLeave
  | spawn => exact clock_execSpawn
  | spawnAt => exact clock_execSpawnAt
  | park => exact stays_fireAct fun _ => clock_completeAct
  | cbind | cunb | crd | crel | cwr | ccmt | cset | cstat => exact clock_cellInstr
  | rfence => exact clock_execRfence
  | trap => exact clock_execTrap
  | tretRetry => exact clock_execTretRetry
  | halt => exact clock_execHalt
  | sysr => exact clock_execSysr
  | sysw => exact clock_execSysw
  | stretchEnd => exact stays_run (keeps_onlyIf (keeps_bind clock_modDie fun _ => net_reportStretch.clock))
  | dieFence => exact stays_run (clock_atCycleEnd clock_fenceDie)
  | leaseRenewal => exact clock_execLeaseRenewal
  | leaseExpiry => exact clock_execLeaseExpiry
  | leaseClaim => exact stays_run (keeps_onlyIf (keeps_bind clock_modDie fun _ => net_unitSend.clock))
  | leaseGrant => exact clock_execLeaseGrant
  | queueDoorbell => exact stays_run (keeps_ite clock_updateRec clock_refuseDoorbell)
  | recordUpdate => exact clock_execRecordUpdate
  | rootPacket | gangPacket => exact stays_run clock_placeHead
  | placementPass => exact clock_execPlacementPass
  | reserve => exact stays_run (keeps_bind (keeps_onlyIf clock_modSlot) fun _ => net_unitSendBy.clock)
  | reserveAck => exact clock_execReserveAck
  | multiReady => exact clock_execMultiReady
  | multiCommit => exact clock_execMultiCommit
  | multiAbort => exact clock_execMultiAbort
  | multiReadyTimeout => exact stays_run (clock_byLeader fun _ => keeps_onlyIf net_abortGang.clock)
  | timerWheelRelease => exact clock_execTimerWheelRelease
  | waitPoll => exact clock_execWaitPoll
  | watchdogPeriod => exact clock_execWatchdogPeriod
  | stealRequest => exact clock_execStealRequest
  | stealReply => exact clock_execStealReply
  | stealBackoff => exact stays_run (keeps_bind clock_modCore fun _ => net_pokeSlots.clock)
  | blockLoad => exact clock_execBlockLoad
  | tokenDelivery => exact clock_execTokenDelivery
  | blockCommit => exact clock_execBlockCommit
  | fillArrival => exact clock_execFillArrival
  | wakeArrival => exact clock_execWakeArrival
  | reportWordAdd => exact stays_run (keeps_onlyIf (keeps_bind clock_write64 fun _ => clock_fillWord))
  | ownerAccess => exact clock_execOwnerAccess
  | storeWordApply => exact clock_execStoreWordApply
  | storeAcknowledgement => exact clock_execStoreAcknowledgement
  | ldsStsRefusal => exact clock_execLdsStsRefusal
  | ldsStsResend => exact stays_run (keeps_ite clock_sendReq (keeps_bind clock_takingEnds fun _ => clock_takeAnew))
  | pageWalk => exact clock_execPageWalk
  | wellheadRequest => exact clock_execWellheadRequest
  | invalidationComplete => exact clock_execInvalidationComplete
  | commandHandover => exact clock_execCommandHandover
  | siphonStart => exact clock_execSiphonStart
  | copyCompletion => exact clock_execCopyCompletion
  | followOnStart => exact clock_execFollowOnStart
  | matrixHandover => exact clock_execMatrixHandover
  | mprogInstall => exact clock_execMprogInstall
  | mlwExecution => exact clock_execMlwExecution
  | mmaExecution => exact stays_run (clock_matrixStep fun _ _ => clock_runRows)
  | mstExecution => exact stays_run (clock_matrixStep fun _ _ => clock_storeRows)
  | mzrExecution => exact clock_execMzrExecution
  | mmovExecution => exact clock_execMmovExecution
  | mresExecution => exact clock_execMresExecution
  | promiseMissed => exact clock_execPromiseMissed
  | slptWake => exact clock_execSlptWake
  | yldExpiry => exact clock_execYldExpiry
  | standpipePush => exact clock_execStandpipePush
  | creditReturn => exact stays_run clock_modChan
  | streamReadAhead => exact clock_execStreamReadAhead
  | routerGrant => exact clock_execRouterGrant
  | slackDecrement => exact clock_execSlackDecrement
  | routerPowerDown => exact clock_execRouterPowerDown
  | routerWake => exact clock_execRouterWake
  | dataFlit => exact clock_execDataFlit
  | idleFlit => exact stays_run (clock_goodFlit keeps_pure)
  | replayFlit => exact stays_run (clock_goodFlit (keeps_bind clock_countPort fun _ => clock_resendFrom))
  | auditInsertion => exact stays_run clock_insertAudit
  | auditFlit => exact clock_execAuditFlit
  | restitutionFlit => exact clock_execRestitutionFlit
  | clampFlit => exact stays_run (clock_goodFlit (keeps_bind clock_countPort fun _ => clock_modPort))
  | portRetrain | alignmentLoss => exact stays_run clock_retrain
  | restartFlit => exact stays_run (keeps_onlyIf (keeps_ite clock_comeUp clock_countPort))
  | retrainTimeout => exact clock_execRetrainTimeout
  | scopeMiss => exact clock_execScopeMiss
  | batchAgeExpiry => exact stays_run (keeps_onlyIf clock_sendBatch)
  | deltaBatch => exact stays_run clock_sendBatch
  | batchApply => exact stays_run (keeps_bind clock_setTreeUnit fun _ => clock_acceptBatches)
  | sweepRequest => exact clock_execSweepRequest
  | sweepComplete => exact clock_execSweepComplete
  | frontierAnnouncement => exact stays_run clock_applyFrontier
  | launchEnd => exact stays_run (keeps_onlyIf (keeps_bind clock_modSheaf fun _ => clock_reportThen))
  | reportTimeout => exact clock_execReportTimeout
  | heldDecision => exact clock_execHeldDecision
  | mark => exact clock_execMark
  | markAck => exact stays_run clock_marksLess
  | taskDispatch => exact clock_execTaskDispatch
  | fackRetry => exact clock_execFackRetry
  | fackTrap => exact clock_execFackTrap
  | fackEnd => exact clock_execFackEnd
  | parkTimeout => exact clock_execParkTimeout
  | preemptTimeout => exact clock_execPreemptTimeout
  | swapOut => exact clock_execSwapOut
  | restore => exact clock_execRestore
  | ctxout => exact clock_execCtxout
  | resume => exact clock_execResume
  | cutMarker => exact stays_run (keeps_bind clock_modChan fun _ => clock_cutProgress)
  | cellInstall | cellRemove =>
    exact stays_run (keeps_onlyIf (keeps_bind spares_modCell.clock fun _ => spares_pokeHeld.clock))
  | registerWrite => exact stays_run (keeps_onlyIf clock_writePlace)
  | reportAcknowledgement => exact clock_execReportAcknowledgement
  | recoveryImageReply => exact stays_run clock_takeImage
  | fwstageGo => exact stays_run clock_takeStaged
  | devmodeWrite => exact stays_run clock_writeDevmode
  | supplySag => exact stays_run clock_stretchDie
  | junctionTemperature => exact clock_execJunctionTemperature
  | uncorrectableEcc => exact stays_run (keeps_bind clock_withhold fun _ => clock_atCycleEnd clock_eccFence)
  | ieee1588Sync => exact stays_run clock_takeSync
  | tickLockLoss => exact clock_execTickLockLoss
  | admqhostEnable => exact stays_run clock_admqEnable
  | admqhostDisable => exact stays_run clock_admqDisable
  | recordFetchReply => exact clock_execRecordFetchReply
  | qcreate => exact stays_run (clock_adminArrives fun _ => clock_applyCreate)
  | qdestroy => exact stays_run (clock_adminArrives fun _ => clock_applyDestroy)
  | wait => exact clock_execWait
  | xinvcWrite => exact stays_run clock_writeXinvc
  | sttailWrite => exact stays_run clock_writeSttail
  | preqWrite => exact stays_run clock_writePreq
  | svccfgWrite => exact stays_run clock_writeSvccfg
  | cutctlGo => exact stays_run clock_cutGo
  | cutctlResume => exact stays_run clock_cutResume
  | hrptcfgWrite => exact stays_run clock_writeHrptcfg
  | nodeidWrite => exact stays_run clock_writeNodeid
  | sflagsClear => exact stays_run clock_clearSflags
  | readClear => exact clock_execReadClear
  | readControlWindow => exact stays_run (keeps_bind clock_readWindow fun _ => clock_sideReply)
  | writeControlWindow => exact stays_run (keeps_bind (keeps_onlyIf clock_writePlace) fun _ => clock_sideReply)
  | attestation | setRecoveryList | entdaa | setdasa =>
    exact stays_run (keeps_ite (keeps_bind (clock_emit nofun) fun _ => clock_sideReply) clock_sideNack)
  | fenceDie => exact stays_run (keeps_ite (keeps_bind net_later.clock fun _ => clock_sideReply) clock_sideNack)
  | readCertificate | readRecoveryList => exact stays_run clock_sideReply
  | unknownCommand => exact stays_run (keeps_onlyIf clock_sideNack)
  | rstdaa | rstact => exact stays_run (keeps_bind (clock_emit nofun) fun _ => clock_sideReply)
  | getpid | getbcr | getdcr | getstatus => exact stays_run clock_directed
  | enec | disec => exact stays_run (keeps_bind (keeps_onlyIf (clock_emit nofun)) fun _ => clock_sideReply)
  | correctedEccError => exact stays_run clock_countReg

end Sys2Proof.Machine

namespace Sys2Proof.Machine
open Sys2Proof

/-! ### The turn of a step -/

section
variable {s : State} {k bound : Nat} {e : Instr} {rest : List (Nat × Instr)}

theorem dueBefore_of_lt (hs : s.agenda = (k, e) :: rest) (h : k < bound) :
    dueBefore s bound = some (e, { s with agenda := rest }) := by
  simp only [dueBefore, hs, if_pos h]

theorem dueBefore_none (h : ∀ x ∈ s.agenda.head?, bound ≤ x.1) : dueBefore s bound = none := by
  unfold dueBefore
  split
  case h_1 => rfl
  case h_2 k e rest hs => rw [if_neg (by simpa [hs] using h)]

theorem nextIssuing_none (h : s.issueOver = true ∨ nextIssue s (listedCores s) = none) : nextIssuing s = none := by
  unfold nextIssuing
  rcases h with h | h <;> simp [h]

/-- The issue of a cycle comes before the next cycle. -/
theorem agendaKey_issue_le (n : Nat) : agendaKey n 1 0 ≤ agendaKey (n + 1) 0 0 := by
  simp only [agendaKey, phases, places]
  omega

theorem stepRunsDueEvent : Claims.StepRunsDueEvent := by
  intro s k e rest hs
  refine ⟨fun h => ?_, fun h1 h2 hi => ?_⟩
  · simp only [step, nextTurn, dueBefore_of_lt hs h]
  · have h0 : dueBefore s (agendaKey s.cycle 1 0) = none := dueBefore_none (by simpa [hs] using h1)
    simp only [step, nextTurn, h0, nextIssuing_none hi, dueBefore_of_lt hs h2]

theorem step_clock (hi : s.issueOver = true ∨ nextIssue s (listedCores s) = none)
    (ha : ∀ x ∈ s.agenda.head?, agendaKey (s.cycle + 1) 0 0 ≤ x.1) : step s = .next (advanceClock s) := by
  have h0 : dueBefore s (agendaKey s.cycle 1 0) = none :=
    dueBefore_none fun x hx => (agendaKey_issue_le _).trans (ha x hx)
  simp only [step, nextTurn, h0, nextIssuing_none hi, dueBefore_none ha]

end

/-! ### A cycle that dies skip -/

section
variable {α : Type} [DecidableEq α] {d : α} {p : Nat → Bool} {f : Nat → α → α}

omit [DecidableEq α] in
theorem le_of_mem_mrising {lo k : Nat} {m : Map α} (h : mrising lo m = true) (hk : k ∈ m.map Prod.fst) : lo ≤ k := by
  induction m generalizing lo with
  | nil => cases hk
  | cons e m ih =>
    obtain ⟨ha, hm⟩ : lo ≤ e.1 ∧ mrising (e.1 + 1) m = true := by simpa [mrising] using h
    rcases List.mem_cons.mp hk with rfl | hk
    · exact ha
    · exact ha.trans ((Nat.le_succ _).trans (ih hm hk))

/-- When the entries of a map that satisfy p are changed one by one, in rising order, each of them reads as its changed entry, and any
other key as before. -/
theorem mget_changeEntries {lo k : Nat} {m acc : Map α} (h : mrising lo m = true) :
    mget d (m.foldl (fun l e => if p e.1 then mset d l e.1 (f e.1 e.2) else l) acc) k =
      if k ∈ m.map Prod.fst ∧ p k = true then f k (mget d m k) else mget d acc k := by
  induction m generalizing lo acc with
  | nil => simp
  | cons e m ih =>
    obtain ⟨ha, hm⟩ : lo ≤ e.1 ∧ mrising (e.1 + 1) m = true := by simpa [mrising] using h
    rw [List.foldl_cons, ih hm, mget]
    by_cases hek : k = e.1
    · have hn : k ∉ m.map Prod.fst := fun hk => absurd (le_of_mem_mrising hm hk) (by omega)
      have hl : k ∈ (e :: m).map Prod.fst := List.mem_cons.mpr (.inl hek)
      rw [if_neg fun hk => hn hk.1, if_pos hek.symm, ← hek]
      by_cases hp : p k = true
      · rw [if_pos hp, if_pos ⟨hl, hp⟩, mget_mset_same]
      · rw [if_neg hp, if_neg fun h => hp h.2]
    · have hacc : mget d (if p e.1 then mset d acc e.1 (f e.1 e.2) else acc) k = mget d acc k := by
        split
        · exact mget_mset_ne _ _ _ _ hek
        · rfl
      have hl : k ∈ (e :: m).map Prod.fst ↔ k ∈ m.map Prod.fst := by simp [hek]
      rw [hacc, if_neg (fun hk : e.1 = k => hek hk.symm)]
      simp only [hl]

/-- The unconditional rising order of a canonical map. -/
theorem mrising_of_mwf {m : Map α} (h : mwf d m = true) : mrising 0 m = true := by
  simp only [mwf, Bool.and_eq_true] at h
  exact h.1

/-- An entry of a changed map is the entry as it was, or the changed one. -/
theorem mget_mapWhere {g : α → α} {m : Map α} (h : mwf d m = true) (k : Nat) :
    mget d (mapWhere d p g m) k = mget d m k ∨ mget d (mapWhere d p g m) k = g (mget d m k) := by
  rw [mapWhere, mget_changeEntries (f := fun _ => g) (mrising_of_mwf h)]
  split
  · exact .inr rfl
  · exact .inl rfl

end

/-- What a skipped cycle leaves of a thread: all but the cycles that it counts by. -/
def SameButCycles (th u : Thread) : Prop :=
  u = { th with
    since := u.since, wait := u.wait, waits := u.waits, resumeWaits := u.resumeWaits, parkedOn := u.parkedOn, block := u.block } ∧
  u.block.map (fun b : Block => { b with fired := b.fired.map fun (f : Fired) => { f with cycle := 0 } }) =
    th.block.map fun b : Block => { b with fired := b.fired.map fun (f : Fired) => { f with cycle := 0 } }

theorem sameButCycles_refl (th : Thread) : SameButCycles th th := ⟨rfl, rfl⟩

theorem sameButCycles_shiftThread (th : Thread) : SameButCycles th (shiftThread th) := by
  refine ⟨rfl, ?_⟩
  simp [shiftThread, Option.map_map, Function.comp_def]

theorem skipCycle_none {s : State} (h : ∀ d ∈ s.dies, d.2.skips = false) : skipCycle [] s = s := by
  have ha : s.dies.any (fun d => d.2.skips) = false := by simpa using h
  simp only [skipCycle, ha]
  rfl

/-- A skipped cycle changes only what counts cycles. -/
theorem skipCycle_fields (ds : List Nat) (s : State) : skipCycle ds s = { s with
    agenda := (skipCycle ds s).agenda, slots := (skipCycle ds s).slots, cores := (skipCycle ds s).cores,
    routers := (skipCycle ds s).routers, dies := (skipCycle ds s).dies } := by
  unfold skipCycle
  split <;> rfl

/-- A slot after a skipped cycle is as it was, or counts from one cycle later. -/
theorem slotAt_skipCycle {s : State} (h : mwf Slot.reset s.slots = true) (ds : List Nat) (c k : Nat) :
    slotAt (skipCycle ds s) c k = slotAt s c k ∨ slotAt (skipCycle ds s) c k = shiftSlot (slotAt s c k) := by
  unfold skipCycle
  split
  · exact .inl rfl
  · simp only [slotAt]
    exact mget_mapWhere h _

/-- The state whose dies begin the next cycle when the clock advances. -/
def timersTaken (s : State) : State :=
  let t := dueTimers (s.cycle + 1) (nextTick s) (afterWrap (s.tick + (passingTicks s).1) s.timers) s.agenda
  { s with timers := t.1, agenda := t.2 }

/-- What the end of a cycle leaves as it was: all but the clock, the pending events and what counts cycles. -/
theorem advanceClock_fields (s : State) : advanceClock s =
    let t := advanceClock s
    let u := skipCycle (skipNext s) (timersTaken s)
    { s with
      cycle := s.cycle + 1, issueOver := false, tick := t.tick, tickFrac := t.tickFrac, slew := t.slew, slewLast := t.slewLast,
      timers := t.timers, agenda := t.agenda, slots := u.slots, cores := u.cores, routers := u.routers, dies := u.dies,
      stretchSince := t.stretchSince, mregs := t.mregs } := by
  have hb : beginCycle (timersTaken s) = { skipCycle (skipNext s) (timersTaken s) with
      stretchSince := (beginCycle (timersTaken s)).stretchSince, mregs := (beginCycle (timersTaken s)).mregs } := rfl
  have h : advanceClock s = { beginCycle (timersTaken s) with
      cycle := s.cycle + 1, issueOver := false, tick := nextTick s, tickFrac := (s.tickFrac + cycleSevenths s) % 7,
      slew := (passingTicks s).2, slewLast := if (passingTicks s).2 = s.slew then s.slewLast else nextTick s } := rfl
  rw [skipCycle_fields] at hb
  rw [h, hb]
  rfl

/-- Only STRETCHCNT changes among the module's registers. -/
theorem mreg_advanceClock (s : State) {off : Nat} (h : off ≠ 0x0928) : mreg (advanceClock s) off = mreg s off := by
  change mget _ (if (skipNext s).isEmpty then s.mregs else mset _ s.mregs 0x0928 _) off = _
  split
  · rfl
  · exact mget_mset_ne _ _ _ _ h

theorem slotAt_advanceClock {s : State} (h : Canonical s) (c k : Nat) :
    slotAt (advanceClock s) c k = slotAt s c k ∨ slotAt (advanceClock s) c k = shiftSlot (slotAt s c k) := by
  have hs : slotAt (advanceClock s) c k = slotAt (skipCycle (skipNext s) (timersTaken s)) c k := rfl
  rw [hs]
  exact slotAt_skipCycle (s := timersTaken s) h.slots _ c k

/-- While no die's clock is stretched, the end of a cycle skips none. -/
theorem skipCycle_unstretched {s : State} (h : ∀ d ∈ s.dies, d.2.stretched = false ∧ d.2.skips = false) :
    skipCycle (skipNext s) (timersTaken s) = timersTaken s := by
  have hn : skipNext s = [] := by
    simp only [skipNext, List.map_eq_nil_iff, List.filter_eq_nil_iff]
    intro d hd
    simp [(h d hd).1]
  rw [hn]
  exact skipCycle_none fun d hd => (h d hd).2

/-- A thread at the end of a cycle keeps all but the cycles that it counts by. -/
theorem threadAt_advanceClock {s : State} (hs : Canonical s) (c k : Nat) :
    (threadAt s c k = none → threadAt (advanceClock s) c k = none) ∧
      ∀ th, threadAt s c k = some th → ∃ u, threadAt (advanceClock s) c k = some u ∧ SameButCycles th u := by
  simp only [threadAt]
  rcases slotAt_advanceClock hs c k with h | h
  · rw [h]
    exact ⟨id, fun th ht => ⟨th, ht, sameButCycles_refl th⟩⟩
  · rw [h]
    exact ⟨fun ht => by simp only [shiftSlot, ht, Option.map_none],
      fun th ht => ⟨shiftThread th, by simp only [shiftSlot, ht, Option.map_some], sameButCycles_shiftThread th⟩⟩

theorem stepAdvancesCycle : Claims.StepAdvancesCycle := by
  intro s hi ha
  have hf := advanceClock_fields s
  refine ⟨advanceClock s, step_clock hi ha, rfl, rfl, by rw [hf], by rw [hf], by rw [hf], by rw [hf], by rw [hf], by rw [hf],
    by rw [hf], by rw [hf], by rw [hf], by rw [hf], by rw [hf], by rw [hf], fun off => mreg_advanceClock s, fun h => ?_,
    fun hs c k _ => ?_⟩
  · have hu := skipCycle_unstretched h
    rw [hf, hu]
    exact ⟨rfl, rfl, rfl, rfl⟩
  · obtain ⟨hn, ht⟩ := threadAt_advanceClock hs c k
    rcases slotAt_advanceClock hs c k with h | h <;> exact ⟨by simp only [h, shiftSlot], by simp only [h, shiftSlot], hn, ht⟩

/-! ### The cycle counter -/

/-- The power-on reset sets the cycle to 0, or begins the start-up (R6, R420). -/
theorem cycle_powerOnReset {s t : State} (h : exec .powerOnReset s = .next t) : t.cycle = s.cycle ∨ t.cycle = 0 := by
  have ht : t = run (if s.startup then startUp else emit .powerOn) s := by
    cases h
    rfl
  rw [ht]
  split
  · exact .inl (clock_startUp.run s)
  · exact .inr rfl

theorem cycle_powerLoss {s t : State} {b : Bool} (h : exec (.powerLoss b) s = .next t) : t.cycle = s.cycle ∨ t.cycle = 0 := by
  cases h
  exact .inr (by cases b <;> rfl)

theorem wellFormed_of_decodeNat {w : Nat} {i : Instr} (h : decodeNat w = .ok i) : wellFormed i = true := by
  unfold decodeNat at h
  split at h
  case h_1 => cases h
  case h_2 =>
    split at h
    case isTrue hw =>
      cases h
      exact hw
    case isFalse => cases h

/-- A word that a slot issues is well-formed, so none of the events. -/
theorem wellFormed_of_issued {s : State} {x : Ctx} {i : Instr} (h : issuedInstr s x = some i) : wellFormed i = true := by
  unfold issuedInstr at h
  split at h
  case h_1 => cases h
  case h_2 b _ =>
    cases hd : decodeNat (wordOf b x.idx) with
    | error e => simp [hd, Except.toOption] at h
    | ok j =>
      simp only [hd, Except.toOption, Option.some.injEq] at h
      exact h ▸ wellFormed_of_decodeNat hd

/-- The turn of a step keeps the cycle until the step's own instruction. -/
theorem cycle_of_nextTurn {s u : State} {e : Instr} (h : nextTurn s = .event e u) : u.cycle = s.cycle := by
  have hd : ∀ {b : Nat} {p : Instr × State}, dueBefore s b = some p → p.2.cycle = s.cycle := by
    intro b p hp
    unfold dueBefore at hp
    split at hp
    · cases hp
    · split at hp <;> cases hp
      rfl
  unfold nextTurn at h
  split at h
  case h_1 hb =>
    cases h
    exact hd hb
  case h_2 =>
    split at h
    · cases h
    · split at h
      case h_1 hb =>
        cases h
        exact hd hb
      case h_2 => cases h

theorem cycleCounter : Claims.CycleCounter := by
  intro s t h
  unfold step at h
  split at h
  case h_1 e u hu =>
    rw [← cycle_of_nextTurn hu]
    by_cases hp : e = .powerOnReset
    · subst hp
      exact (cycle_powerOnReset h).imp id fun h0 => .inr ⟨h0, .inl ⟨u, hu⟩⟩
    · by_cases hl : ∃ b, e = .powerLoss b
      · obtain ⟨b, rfl⟩ := hl
        exact (cycle_powerLoss h).imp id fun h0 => .inr ⟨h0, .inr ⟨b, u, hu⟩⟩
      · exact .inl (clock_exec hp (fun b hb => hl ⟨b, hb⟩) t h)
  case h_2 x _ =>
    split at h
    case h_1 i hi =>
      have hw := wellFormed_of_issued hi
      have hc := clock_exec (i := i) (s := { s with ctx := x }) (by rintro rfl; cases hw) (by rintro b rfl; cases hw)
      exact .inl (hc t h)
    case h_2 => cases h
  case h_3 =>
    cases h
    exact .inr (.inl rfl)

/-- Settles O8: the turn of a step read off its agenda, the fields of the end of a cycle, and the frame of the cycle counter over every
instruction. -/
theorem stepOrder : Obligations.StepOrder := ⟨stepRunsDueEvent, stepAdvancesCycle, cycleCounter⟩

end Sys2Proof.Machine

namespace Sys2Proof.Machine
open Sys2Proof

/-! ### Registers after a write -/

/-- A core register after a write of a core register. -/
theorem creg_setCreg (c d o p : Nat) (v : Word) (s : State) :
    creg (run (setCreg c o v) s) d p = if d = c ∧ p = o then v else creg s d p := by
  rw [run_setCreg]
  simp only [creg, coreAt_changed]
  by_cases hd : d = c
  · by_cases hp : p = o
    · simp [hd, hp]
    · simp [hd, hp, mget_mset_ne _ _ _ v hp]
  · simp [hd]

/-- A register write that stores its bits: not one of those with a behaviour of its own, nor a word of a semaphore. -/
theorem writeCore_plain {c o : Nat} (v : Word) (ho : o ∉ Claims.coreSpecial) (hs : o < 0x0400 ∨ 0x0C00 ≤ o) :
    writeCore c o v = match coreReg o with
      | some r => onlyIf (decide (r.kind = .rw)) (setCreg c o (v &&& r.mask))
      | none => pure () := by
  unfold writeCore
  rw [if_neg (by omega)]
  simp only [Claims.coreSpecial, List.mem_cons, List.not_mem_nil, or_false, not_or] at ho
  obtain ⟨h1, h2, h3, h4, h5, h6, h7⟩ := ho
  split
  case h_8 => rfl
  all_goals contradiction

theorem registerWrites : Claims.RegisterWrites := by
  refine ⟨fun s off c o v m w ha hp ho hs => ?_, fun s off v w ha => ?_, fun s off v => ⟨_, rfl, rfl⟩⟩
  · have hw : exec (.registerWrite off v w) s = .next (run (writeCore c o v) s) := by
      simp [exec, execRegisterWrite, ha, hp, writePlace]
    rw [hw, writeCore_plain v ho hs]
    constructor
    · intro hr
      refine ⟨run (setCreg c o (v &&& m)) s, by simp [hr], ?_, fun d p hdp => ?_, rfl⟩
      · rw [creg_setCreg, if_pos ⟨rfl, rfl⟩]
      · rw [creg_setCreg, if_neg fun h => hdp (by rw [h.1, h.2])]
    · rintro (hr | hr) <;> simp [hr]
  · simp [exec, execRegisterWrite, ha]

/-! ### Reads of the control window -/

/-- A read of the control window by the side-band answers with the value of the place. A register that a read clears is reduced by
it. -/
theorem run_readWindow_reply {s : State} {off o : Nat} {r : RegInfo} (ha : off % 8 = 0) (hp : sysPlace off = .module o)
    (hr : moduleReg o = some r) :
    run (do let v ← readWindow off; emit (.out (.sideband true (leBytes v.toNat 8)))) s =
      applyUpd (.out (.sideband true (leBytes (readPlace s 0 (.module o)).toNat 8)))
        (run (onlyIf (decide (r.kind = .rc) && decide (readPlace s 0 (.module o) ≠ 0))
          (reducePlace (readPlace s 0 (.module o)) (.module o))) s) := by
  have hw : readWindow off = (do
      let s ← look id
      let v := readPlace s 0 (.module o)
      onlyIf (decide (r.kind = .rc) && decide (v ≠ 0)) (reducePlace v (.module o))
      pure v) := by
    unfold readWindow
    simp [ha, hp, sysReg, hr]
  rw [hw]
  rfl

theorem registerClears : Claims.RegisterClears := by
  intro s off o m ha hp i hi
  have hx : ∀ r, moduleReg o = some r → exec i s = .next
      (applyUpd (.out (.sideband true (leBytes (readPlace s 0 (.module o)).toNat 8)))
        (run (onlyIf (decide (r.kind = .rc) && decide (readPlace s 0 (.module o) ≠ 0))
          (reducePlace (readPlace s 0 (.module o)) (.module o))) s)) := by
    intro r hr
    rw [← run_readWindow_reply ha hp hr]
    rcases hi with rfl | rfl <;> rfl
  constructor
  · intro hr hv
    rw [hx _ hr, hv]
    by_cases h0 : mreg s o = 0
    · rw [run_onlyIf, if_neg (by simp [h0])]
      exact ⟨_, rfl, h0, fun p _ => rfl, rfl, rfl⟩
    · have hz : run (reducePlace (mreg s o) (.module o)) s = applyUpd (.mreg o 0) s := by
        have hr : run (reducePlace (mreg s o) (.module o)) s = applyUpd (.mreg o (mreg s o - mreg s o)) s := rfl
        exact hr.trans (congrArg (fun v => applyUpd (.mreg o v) s) (BitVec.sub_self _))
      rw [run_onlyIf, if_pos (by simpa using h0), hz]
      refine ⟨_, rfl, ?_, fun p hp => ?_, rfl, rfl⟩
      · change mreg (applyUpd (.mreg o 0) s) o = 0
        rw [mreg_changed, if_pos rfl]
      · change mreg (applyUpd (.mreg o 0) s) p = mreg s p
        rw [mreg_changed, if_neg hp]
  · rintro (hr | hr) <;> exact ⟨_, hx _ hr, rfl⟩

/-! ### Registers with a behaviour of their own -/

/-- MODE takes the low two bits of a value, and the bits above them stay. -/
theorem word_mode (a v : Word) :
    (word (a.toNat / 4 * 4 + v.toNat % 4)).toNat % 4 = v.toNat % 4 ∧
      (word (a.toNat / 4 * 4 + v.toNat % 4)).toNat / 4 = a.toNat / 4 := by
  have ha := a.isLt
  have hw : (word (a.toNat / 4 * 4 + v.toNat % 4)).toNat = a.toNat / 4 * 4 + v.toNat % 4 := by
    simp only [word, BitVec.toNat_ofNat]
    omega
  rw [hw]
  omega

theorem devmodeWrite_spec (s : State) (v : Word) (w : Writer) :
    (w = .firmware ∨ w = .sideband → (v.toNat % 4 ≠ 1 ∨ (mreg s 0x0900).getLsbD 2 = true) →
      ∃ u, exec (.devmodeWrite v w) s = .next u ∧ u = { s with mregs := u.mregs } ∧
        (mreg u 0x0900).toNat % 4 = v.toNat % 4 ∧ (mreg u 0x0900).toNat / 4 = (mreg s 0x0900).toNat / 4) ∧
    (w = .firmware ∨ w = .sideband → v.toNat % 4 = 1 → (mreg s 0x0900).getLsbD 2 = false →
      exec (.devmodeWrite v w) s = .next s) ∧
    (w ≠ .firmware → w ≠ .sideband → exec (.devmodeWrite v w) s = .next s) := by
  have hx : w = .firmware ∨ w = .sideband → exec (.devmodeWrite v w) s = .next
      (if decide (v.toNat % 4 = 1) && !(mreg s 0x0900).getLsbD 2 then s
        else applyUpd (.mreg 0x0900 (word ((mreg s 0x0900).toNat / 4 * 4 + v.toNat % 4))) s) := by
    rintro (rfl | rfl) <;>
      simp only [exec, execDevmodeWrite, writeDevmode, run_look_bind, run_onlyIf, run_emit] <;>
      cases decide (v.toNat % 4 = 1) && !(mreg s 0x0900).getLsbD 2 <;> rfl
  refine ⟨fun hw hv => ?_, fun hw hv hc => ?_, fun hf hs => ?_⟩
  · rw [hx hw, if_neg (by rcases hv with hv | hv <;> simp [hv])]
    refine ⟨_, rfl, rfl, ?_⟩
    rw [mreg_changed, if_pos rfl]
    exact word_mode _ _
  · rw [hx hw, if_pos (by rw [hc, hv]; rfl)]
  · cases w
    case firmware => exact absurd rfl hf
    case sideband => exact absurd rfl hs
    all_goals rfl

theorem hrptcfgWrite_spec (s : State) (v : Word) :
    (4 ≤ v.toNat % 16 → v.toNat % 16 ≤ 12 → ∃ u, exec (.hrptcfgWrite v) s = .next u ∧ mreg u 0x0910 = v &&& 0x1F ∧
      u = { s with mregs := u.mregs }) ∧
    (v.toNat % 16 < 4 ∨ 12 < v.toNat % 16 → exec (.hrptcfgWrite v) s = .next s) := by
  have hx : exec (.hrptcfgWrite v) s = .next
      (if decide (4 ≤ v.toNat % 16) && decide (v.toNat % 16 ≤ 12) then applyUpd (.mreg 0x0910 (v &&& 0x1F)) s else s) :=
    congrArg _ (run_onlyIf _ _ s)
  refine ⟨fun h4 h12 => ?_, fun h => ?_⟩
  · rw [hx, if_pos (by simp [h4, h12])]
    exact ⟨_, rfl, by rw [mreg_changed, if_pos rfl], rfl⟩
  · rw [hx, if_neg (by simp only [Bool.and_eq_true, decide_eq_true_eq]; omega)]

theorem nodeidWrite_spec (s : State) (v : Word) (w : Writer) :
    (w = .sideband → ∃ u, exec (.nodeidWrite v w) s = .next u ∧ mreg u 0x0410 = v &&& 0xFFF ∧
      u = { s with mregs := u.mregs }) ∧
    (w ≠ .sideband → exec (.nodeidWrite v w) s = .next s) := by
  have hx : exec (.nodeidWrite v w) s = .next (if decide (w = .sideband) then applyUpd (.mreg 0x0410 (v &&& 0xFFF)) s else s) :=
    congrArg _ (run_onlyIf _ _ s)
  refine ⟨fun h => ?_, fun h => ?_⟩
  · rw [hx, if_pos (by simpa using h)]
    exact ⟨_, rfl, by rw [mreg_changed, if_pos rfl], rfl⟩
  · rw [hx, if_neg (by simpa using h)]

/-- STTAIL takes a value that names at most 256 entries behind STHEAD, modulo 2^32 (R417). -/
theorem sttailWrite_spec (s : State) (c d : Nat) (v : Word) :
    (d ≤ 256 → (v.toNat + d) % 2 ^ 32 = (creg s c 0x0220).toNat % 2 ^ 32 → ∃ u, exec (.sttailWrite c v) s = .next u ∧
      creg u c 0x0240 = v &&& 0xFFFFFFFF ∧ u = { s with cores := u.cores }) ∧
    ((∀ e, e ≤ 256 → (v.toNat + e) % 2 ^ 32 ≠ (creg s c 0x0220).toNat % 2 ^ 32) → exec (.sttailWrite c v) s = .next s) := by
  have hx : exec (.sttailWrite c v) s = .next
      (if decide (((creg s c 0x0220).toNat % 2 ^ 32 + 2 ^ 32 - v.toNat % 2 ^ 32) % 2 ^ 32 ≤ 256) then
        run (setCreg c 0x0240 (v &&& 0xFFFFFFFF)) s else s) := by
    have hw : exec (.sttailWrite c v) s = .next (run (writeSttail c v) s) := rfl
    rw [hw, writeSttail, run_look_bind, run_onlyIf]
  refine ⟨fun hd he => ?_, fun he => ?_⟩
  · rw [hx, if_pos (by simp only [decide_eq_true_eq]; omega)]
    exact ⟨_, rfl, by rw [creg_setCreg, if_pos ⟨rfl, rfl⟩], rfl⟩
  · rw [hx, if_neg]
    simp only [decide_eq_true_eq]
    intro hle
    exact he _ hle (by omega)

theorem specialRegisters : Claims.SpecialRegisters := by
  refine ⟨devmodeWrite_spec, hrptcfgWrite_spec, nodeidWrite_spec, fun s n v => ⟨_, rfl, ?_, rfl⟩, sttailWrite_spec⟩
  rw [clearSflags, run_modSheaf, sheafAt_changed, if_pos rfl]

/-! ### The side-band -/

theorem attestation_spec (s : State) (nonce : List Byte) : execAttestation nonce s = .next (if s.flash.keyIndex < 1024 then
    { s with flash := { s.flash with keyIndex := s.flash.keyIndex + 1 }, out := s.out ++ [.sideband true
      (attested s nonce ++ beBytes s.flash.keyIndex 4 ++
        padBytes 2496 (Config.identitySignature s.flash.keyIndex (attested s nonce)))] }
    else { s with out := s.out ++ [.sideband false []] }) := by
  unfold execAttestation keyIndices
  dsimp only
  split <;> rfl

theorem sidebandCommands : Claims.SidebandCommands := by
  intro s answers
  refine ⟨fun nonce => ⟨fun h => ?_, fun h => ?_⟩, rfl, fun n ids => ⟨fun hn hl hi => ?_, fun h => ?_⟩, rfl, fun c hc => ?_⟩
  · exact (attestation_spec s nonce).trans (by rw [if_pos h])
  · exact (attestation_spec s nonce).trans (by rw [if_neg (Nat.not_lt.mpr h)])
  · simp only [answers, exec, execSetRecoveryList]
    rw [if_pos ⟨hn, hl, by simpa using hi⟩]
    rfl
  · simp only [answers, exec, execSetRecoveryList]
    rw [if_neg]
    · rfl
    · rintro ⟨hn, -, hi⟩
      rcases h with h | ⟨i, hi', h⟩
      · omega
      · exact absurd (by simpa using List.all_eq_true.mp hi i hi') (Nat.not_lt.mpr h)
  · simp only [answers, exec, execUnknownCommand, run_onlyIf]
    rw [if_pos (by simpa using hc)]
    rfl

/-- A directed read is answered by a target with a dynamic address, and NACKed by one without (R431). -/
theorem run_directed (s : State) (bytes : List Byte) : run (directed bytes) s =
    { s with out := s.out ++ [if s.side.dynamic.isSome then .sideband true bytes else .sideband false []] } := by
  have hx : run (directed bytes) s = run (if s.side.dynamic.isSome then sideReply bytes else sideNack) s := rfl
  rw [hx]
  split <;> rfl

theorem entdaa_spec (s : State) (a : Nat) : execEntdaa a s = .next (if s.side.dynamic.isNone then
    { s with side := { s.side with dynamic := some (a % 128) }, out := s.out ++ [.sideband true
      (beBytes Config.provisionedId 6 ++ leBytes Config.busCharacteristics 1 ++ leBytes Config.deviceCharacteristics 1)] }
    else { s with out := s.out ++ [.sideband false []] }) := by
  unfold execEntdaa
  split <;> rfl

theorem setdasa_spec (s : State) (b a : Nat) : execSetdasa b a s =
    .next (if b = 0x30 + s.side.straps % 4 ∧ s.side.dynamic.isNone then
      { s with side := { s.side with dynamic := some (a % 128) }, out := s.out ++ [.sideband true []] }
      else { s with out := s.out ++ [.sideband false []] }) := by
  unfold execSetdasa staticAddress
  split <;> rfl

theorem sidebandCodes : Claims.SidebandCodes := by
  intro s answers
  refine ⟨fun a h => ?_, fun a h => ?_, fun a h => ?_, fun a b h => ?_, rfl, fun h => ?_, fun h i hi => ?_, fun e => ?_,
    fun e => ?_, fun a => rfl⟩
  · exact (entdaa_spec s a).trans (by rw [if_pos (by simp [h])])
  · exact (entdaa_spec s a).trans (by rw [if_neg (by simpa [Option.isNone_iff_eq_none] using h)])
  · exact (setdasa_spec s _ a).trans (by rw [if_pos ⟨rfl, by simp [h]⟩])
  · exact (setdasa_spec s b a).trans (by rw [if_neg fun hb => h hb.1])
  · have hd (bytes : List Byte) : run (directed bytes) s = { s with out := s.out ++ [.sideband true bytes] } := by
      rw [run_directed, if_pos (Option.isSome_iff_ne_none.mpr h)]
    exact ⟨congrArg _ (hd _), congrArg _ (hd _), congrArg _ (hd _), congrArg _ (hd _)⟩
  · have hd (bytes : List Byte) : run (directed bytes) s = { s with out := s.out ++ [.sideband false []] } := by
      rw [run_directed, if_neg (by simp [h])]
    rcases hi with rfl | rfl | rfl | rfl <;> exact congrArg _ (hd _)
  · simp only [answers, exec, execEnec]
    cases e.testBit 0 <;> rfl
  · simp only [answers, exec, execDisec]
    cases e.testBit 0 <;> rfl

end Sys2Proof.Machine

namespace Sys2Proof.Machine
open Sys2Proof

/-! ### Invalidations -/

/-- What an invalidation leaves as it was: the state stays but for the translation buffers, the walks and what is to come. -/
def transFrame : Frame where
  rel s t := t = { s with cores := t.cores, tlb2 := t.tlb2, dies := t.dies, agenda := t.agenda, delays := t.delays }
  refl _ := rfl
  trans h k := by
    rw [h] at k
    exact k
  cycle h := by rw [h]

theorem trans_modCore {c f} : Keeps transFrame (modCore c f) := keeps_look_bind fun _ => keeps_emit fun _ => rfl
theorem trans_later {n phase place e} : Keeps transFrame (later n phase place e) :=
  keeps_look_bind fun _ => keeps_emit fun _ => rfl

/-- What a change of the shared buffers and the walks leaves as it was. -/
def sharedFrame : Frame where
  rel s t := t = { s with tlb2 := t.tlb2, dies := t.dies }
  refl _ := rfl
  trans h k := by
    rw [h] at k
    exact k
  cycle h := by rw [h]

theorem Keeps.ofShared {a : Act Unit} (h : Keeps sharedFrame a) : Keeps transFrame a :=
  h.mono fun s t (r : t = _) => by
    rw [r]
    exact rfl

theorem sharedFrame_eq {s t : State} (h : sharedFrame.rel s t) : t = { s with tlb2 := t.tlb2, dies := t.dies } := h

theorem transFrame_eq {s t : State} (h : transFrame.rel s t) :
    t = { s with cores := t.cores, tlb2 := t.tlb2, dies := t.dies, agenda := t.agenda, delays := t.delays } := h

/-- The cores' buffers lose what XINVC names. -/
def dropTlbs (a c : Nat) (s : State) : Act Unit :=
  each (s.cores.filter fun x => x.2.tlb.any fun e => invalidates a c e.asid e.page e.npages) fun x =>
    modCore x.1 fun y => { y with tlb := keepEntries a c y.tlb }

/-- The shared buffers lose what XINVC names, and the walks of it start again. -/
def dropShared (a c : Nat) (s : State) : Act Unit := do
  each (s.tlb2.filter fun x => x.2.any fun e => invalidates a c e.asid e.page e.npages) fun x =>
    emit (.tlb2 x.1 (keepEntries a c x.2))
  each (List.range 4) fun d =>
    onlyIf ((dieAt s d).walks.any fun w => invalidates a c w.asid w.page 1)
      (modDie d fun x => { x with
        walks := x.walks.map fun w => if invalidates a c w.asid w.page 1 then { w with stale := true } else w })

theorem run_dropTranslations (s : State) : run dropTranslations s =
    run (do
      dropTlbs (mreg s 0x0800).toNat (mreg s 0x0808).toNat s
      dropShared (mreg s 0x0800).toNat (mreg s 0x0808).toNat s) s := rfl

theorem trans_dropTlbs {a c s} : Keeps transFrame (dropTlbs a c s) := keeps_each fun _ => trans_modCore

theorem shared_modDie {d f} : Keeps sharedFrame (modDie d f) := keeps_look_bind fun _ => keeps_emit fun _ => rfl

theorem shared_dropShared {a c s} : Keeps sharedFrame (dropShared a c s) :=
  keeps_bind (keeps_each fun _ => keeps_emit fun _ => rfl) fun _ => keeps_each fun _ => keeps_onlyIf shared_modDie

theorem trans_dropTranslations : Keeps transFrame dropTranslations :=
  keeps_look_bind fun s => keeps_bind (trans_dropTlbs (s := s)) fun _ => (shared_dropShared (s := s)).ofShared

/-- After some cores have lost the entries named, the buffer of a core of the list has none of them, and that of any other core is as it
was. -/
theorem tlb_keepEntries {a c : Nat} {l : List (Nat × Core)} {s : State} {d : Nat} {e : TlbEntry}
    (he : e ∈ (coreAt (run (each l fun x => modCore x.1 fun y => { y with tlb := keepEntries a c y.tlb }) s) d).tlb) :
    e ∈ (coreAt s d).tlb ∧ (d ∈ l.map Prod.fst → invalidates a c e.asid e.page e.npages = false) := by
  induction l generalizing s with
  | nil => exact ⟨he, nofun⟩
  | cons x l ih =>
    rw [run_each_cons x l fun _ => logged_modCore _ _] at he
    obtain ⟨hm, hl⟩ := ih he
    rw [run_modCore, coreAt_changed] at hm
    by_cases hd : d = x.1
    · rw [if_pos hd, keepEntries, List.mem_filter] at hm
      obtain ⟨hm, hv⟩ := hm
      exact ⟨by rwa [hd], fun _ => by simpa using hv⟩
    · rw [if_neg hd] at hm
      refine ⟨hm, fun h => hl ?_⟩
      simpa [hd] using h

/-- An entry that reads as other than the unlisted one is listed under its key. -/
theorem mem_of_mget {α : Type} {d : α} {m : Map α} {k : Nat} (h : mget d m k ≠ d) : (k, mget d m k) ∈ m := by
  induction m with
  | nil => exact absurd rfl h
  | cons e m ih =>
    rw [mget] at h ⊢
    split
    case isTrue he => exact List.mem_cons.mpr (.inl (by rw [← he]))
    case isFalse he =>
      rw [if_neg he] at h
      exact List.mem_cons_of_mem _ (ih h)

/-- No buffer of a core keeps what the invalidation names (R227). -/
theorem tlb_dropTlbs {a c : Nat} {s : State} {d : Nat} {e : TlbEntry} (he : e ∈ (coreAt (run (dropTlbs a c s) s) d).tlb) :
    invalidates a c e.asid e.page e.npages = false := by
  obtain ⟨hm, hl⟩ := tlb_keepEntries he
  by_contra hv
  refine hv (hl ?_)
  have hc : coreAt s d ≠ Core.reset := fun h => by
    rw [h] at hm
    cases hm
  refine List.mem_map.mpr ⟨(d, coreAt s d), List.mem_filter.mpr ⟨mem_of_mget hc, ?_⟩, rfl⟩
  exact List.any_eq_true.mpr ⟨e, hm, by simpa using hv⟩

theorem coreAt_dropShared {a c : Nat} {s t : State} (d : Nat) : coreAt (run (dropShared a c s) t) d = coreAt t d := by
  have h : run (dropShared a c s) t = _ := shared_dropShared.run t
  rw [h]
  rfl

theorem tlb_dropTranslations {s : State} {d : Nat} {e : TlbEntry} (he : e ∈ (coreAt (run dropTranslations s) d).tlb) :
    invalidates (mreg s 0x0800).toNat (mreg s 0x0808).toNat e.asid e.page e.npages = false := by
  rw [run_dropTranslations, run_seq trans_dropTlbs.logged shared_dropShared.logged, coreAt_dropShared] at he
  exact tlb_dropTlbs he

/-- XINVC as it stands while the invalidation of a value runs: its fields and BUSY (R227). -/
def xinvcBusy (v : Word) : Word := word (v.toNat % 2 ^ 10 + v.toNat / 2 ^ 16 % 2 ^ 16 * 2 ^ 16 + 2 ^ 63)

theorem xinvcBusy_toNat (v : Word) : (xinvcBusy v).toNat = v.toNat % 2 ^ 10 + v.toNat / 2 ^ 16 % 2 ^ 16 * 2 ^ 16 + 2 ^ 63 := by
  rw [xinvcBusy, word, BitVec.toNat_ofNat]
  omega

theorem xinvcBusy_busy (v : Word) : (xinvcBusy v).getLsbD 63 = true := by
  rw [BitVec.getLsbD, xinvcBusy_toNat, Nat.testBit_eq_decide_div_mod_eq]
  simp only [decide_eq_true_eq]
  omega

theorem xinvcBusy_fields (v : Word) : (xinvcBusy v).toNat % 2 ^ 10 = v.toNat % 2 ^ 10 := by
  rw [xinvcBusy_toNat]
  omega

/-- What follows once the buffers have lost what an invalidation names: the walks in flight hold up its end. -/
def awaitWalks (extra : Nat) : Act Unit := do
  each (List.range 4) fun d => modDie d fun x => { x with walks := x.walks.map fun w => { w with before := true } }
  later (1 + extra) 5 56420 .invalidationComplete

theorem trans_awaitWalks {n} : Keeps transFrame (awaitWalks n) :=
  keeps_bind (keeps_each fun _ => shared_modDie).ofShared fun _ => trans_later

theorem coreAt_awaitWalks {n : Nat} {s : State} (d : Nat) : coreAt (run (awaitWalks n) s) d = coreAt s d := by
  have hk : Keeps sharedFrame (each (List.range 4) fun d =>
      modDie d fun x => { x with walks := x.walks.map fun w => { w with before := true } }) := keeps_each fun _ => shared_modDie
  rw [awaitWalks, run_seq hk.logged (logged_later _ _ _ _), run_later]
  have hc : (run (each (List.range 4) fun d =>
      modDie d fun x => { x with walks := x.walks.map fun w => { w with before := true } }) s).cores = s.cores := by
    rw [sharedFrame_eq (hk.run s)]
  exact congrArg (mget Core.reset · d) hc

theorem transFrame_mreg {s t : State} (h : transFrame.rel s t) (off : Nat) : mreg t off = mreg s off := by
  rw [transFrame_eq h]
  rfl

theorem transFrame_quiet {s t : State} (h : transFrame.rel s t) : Quiet s t := by
  rw [transFrame_eq h]
  exact ⟨rfl, rfl⟩

/-- The state as an invalidation begins. -/
def xinvcTaken (v : Word) (s : State) : State := applyUpd (.mreg 0x0808 (xinvcBusy v)) (applyUpd .dropDelay s)

theorem run_writeXinvc_idle {s : State} {v : Word} (h : (mreg s 0x0808).getLsbD 63 = false) :
    run (writeXinvc v) s = run (awaitWalks (s.delays.headD 0)) (run dropTranslations (xinvcTaken v s)) := by
  have hx : run (writeXinvc v) s = run (takeDelay >>= fun extra =>
      emit (.mreg 0x0808 (xinvcBusy v)) >>= fun _ => dropTranslations >>= fun _ => awaitWalks extra) s := by
    unfold writeXinvc
    rw [run_look_bind, if_neg (by simpa using h)]
    rfl
  have hl (n : Nat) : Logged (dropTranslations >>= fun _ => awaitWalks n) :=
    (keeps_bind trans_dropTranslations fun _ => trans_awaitWalks).logged
  rw [hx, run_bind clock_takeDelay.logged fun n => logged_bind (logged_emit _) fun _ => hl n, run_seq (logged_emit _) (hl _),
    run_seq trans_dropTranslations.logged trans_awaitWalks.logged]
  rfl

theorem mreg_xinvcTaken_0808 (s : State) (v : Word) : mreg (xinvcTaken v s) 0x0808 = xinvcBusy v := by
  rw [xinvcTaken, mreg_changed, if_pos rfl]

theorem mreg_xinvcTaken_0800 (s : State) (v : Word) : mreg (xinvcTaken v s) 0x0800 = mreg s 0x0800 := by
  rw [xinvcTaken, mreg_changed, if_neg (by omega)]
  rfl

theorem invalidationBegins {s : State} {v : Word} (h : (mreg s 0x0808).getLsbD 63 = false) :
    ∃ u, exec (.xinvcWrite v) s = .next u ∧ Quiet s u ∧
    (mreg u 0x0808).getLsbD 63 = true ∧ (mreg u 0x0808).toNat % 2 ^ 10 = v.toNat % 2 ^ 10 ∧
    ∀ c, ∀ e ∈ (coreAt u c).tlb, invalidates (mreg s 0x0800).toNat (mreg u 0x0808).toNat e.asid e.page e.npages = false := by
  have hu : transFrame.rel (xinvcTaken v s) (run (writeXinvc v) s) := by
    rw [run_writeXinvc_idle h]
    exact transFrame.trans (trans_dropTranslations.run _) (trans_awaitWalks.run _)
  have hb : mreg (run (writeXinvc v) s) 0x0808 = xinvcBusy v := (transFrame_mreg hu _).trans (mreg_xinvcTaken_0808 s v)
  obtain ⟨hm, hs⟩ := transFrame_quiet hu
  refine ⟨run (writeXinvc v) s, rfl, ⟨hm, hs⟩, by rw [hb, xinvcBusy_busy], by rw [hb, xinvcBusy_fields],
    fun c e he => ?_⟩
  rw [run_writeXinvc_idle h, coreAt_awaitWalks] at he
  have ht := tlb_dropTranslations he
  rwa [mreg_xinvcTaken_0808, mreg_xinvcTaken_0800, ← hb] at ht

/-- A value of XINVC with BUSY taken away. -/
theorem xinvc_cleared (v : Word) : (v &&& word (2 ^ 63 - 1)).getLsbD 63 = false := by
  have h : (word (2 ^ 63 - 1)).getLsbD 63 = false := by decide
  rw [BitVec.getLsbD_and, h, Bool.and_false]

/-- An invalidation ends once no walk that started before it is in flight (R227). -/
theorem invalidationEnds {s : State} (h : (mreg s 0x0808).getLsbD 63 = true) :
    ∃ u, exec .invalidationComplete s = .next u ∧ Quiet s u ∧
    ((∀ d ∈ s.dies, ∀ w ∈ d.2.walks, w.before = false) → (mreg u 0x0808).getLsbD 63 = false) ∧
    ((∃ d ∈ s.dies, ∃ w ∈ d.2.walks, w.before = true) → u = { s with agenda := u.agenda }) := by
  have hx : exec .invalidationComplete s = .next (if (s.dies.any fun d => d.2.walks.any (·.before)) = true then
      run (later 1 5 56420 .invalidationComplete) s
      else applyUpd (.mreg 0x0808 (mreg s 0x0808 &&& word (2 ^ 63 - 1))) (run dropTranslations s)) := by
    unfold exec execInvalidationComplete
    dsimp only
    rw [run_onlyIf, if_pos h]
    split
    · rfl
    · rw [run_seq trans_dropTranslations.logged (logged_emit _), run_emit]
  rw [hx]
  refine ⟨_, rfl, ?_⟩
  split
  case isTrue hw =>
    refine ⟨⟨rfl, rfl⟩, fun hn => ?_, fun _ => rfl⟩
    obtain ⟨d, hd, hw⟩ := List.any_eq_true.mp hw
    obtain ⟨w, hwd, hb⟩ := List.any_eq_true.mp hw
    rw [hn d hd w hwd] at hb
    cases hb
  case isFalse hw =>
    obtain ⟨hm, hs⟩ := transFrame_quiet (trans_dropTranslations.run s)
    refine ⟨⟨hm, hs⟩, fun _ => ?_, fun ⟨d, hd, w, hwd, hb⟩ => ?_⟩
    · rw [mreg_changed, if_pos rfl, xinvc_cleared]
    · exact absurd (List.any_eq_true.mpr ⟨d, hd, List.any_eq_true.mpr ⟨w, hwd, hb⟩⟩) hw

/-- A write of XINVC while one runs waits (log entry 96). -/
theorem xinvcWrite_busy {s : State} {v : Word} (h : (mreg s 0x0808).getLsbD 63 = true) :
    exec (.xinvcWrite v) s = .next (run (later 1 5 56410 (.registerWrite 0x0808 v .firmware)) s) := by
  have hx : exec (.xinvcWrite v) s = .next (run (writeXinvc v) s) := rfl
  rw [hx, writeXinvc, run_look_bind]
  exact congrArg _ (congrArg (run · s) (if_pos h))

theorem invalidations : Claims.Invalidations :=
  ⟨fun _ _ => invalidationBegins, fun _ _ h => ⟨_, xinvcWrite_busy h, rfl, mem_putEvent.mpr (.inl rfl)⟩, fun _ => invalidationEnds⟩

end Sys2Proof.Machine

namespace Sys2Proof.Machine
open Sys2Proof

/-! ### Messages on their way -/

/-- A packet waits in a router, taken in or offered. -/
def Queued (s : State) (r : Nat) (x : Nat × Packet) : Prop := x ∈ (routerAt s r).packets ++ (routerAt s r).offered

/-- What a message leaves as it was, among what a state has on its way: no mail, no packet and no pending event is lost. -/
structure MailRel (s t : State) : Prop where
  cycle : t.cycle = s.cycle
  mem : t.mem = s.mem
  slots : t.slots = s.slots
  mregs : t.mregs = s.mregs
  agenda : ∀ e ∈ s.agenda, e ∈ t.agenda
  mail : ∀ m ∈ s.mail, m ∈ t.mail
  packets : ∀ r x, Queued s r x → Queued t r x

def mailFrame : Frame where
  rel := MailRel
  refl _ := ⟨rfl, rfl, rfl, rfl, fun _ h => h, fun _ h => h, fun _ _ h => h⟩
  trans h k :=
    ⟨k.cycle.trans h.cycle, k.mem.trans h.mem, k.slots.trans h.slots, k.mregs.trans h.mregs, fun e he => k.agenda e (h.agenda e he),
      fun m hm => k.mail m (h.mail m hm), fun r x hx => k.packets r x (h.packets r x hx)⟩
  cycle := MailRel.cycle

section
variable {s t : State}

theorem mail_modDie {d f} : Keeps mailFrame (modDie d f) :=
  keeps_look_bind fun _ => keeps_emit fun _ => ⟨rfl, rfl, rfl, rfl, fun _ h => h, fun _ h => h, fun _ _ h => h⟩

theorem mail_later {n phase place e} : Keeps mailFrame (later n phase place e) :=
  keeps_look_bind fun _ => keeps_emit fun _ =>
    ⟨rfl, rfl, rfl, rfl, fun _ h => mem_putEvent.mpr (.inr h), fun _ h => h, fun _ _ h => h⟩

theorem mail_freshId : Keeps mailFrame freshId :=
  keeps_look_bind fun _ => keeps_bind
    (keeps_emit fun _ => ⟨rfl, rfl, rfl, rfl, fun _ h => h, fun _ h => h, fun _ _ h => h⟩) fun _ => keeps_pure

/-- A router that loses no packet. -/
theorem mail_modRouter {r f} (h : ∀ x : Router, x.packets ++ x.offered ⊆ (f x).packets ++ (f x).offered) :
    Keeps mailFrame (modRouter r f) :=
  ⟨logged_modRouter _ _, fun s => ⟨rfl, rfl, rfl, rfl, fun _ h => h, fun _ h => h, fun p x hx => by
    change Queued (applyUpd (.router r (f (routerAt s r))) s) p x
    rw [Queued] at hx
    rw [Queued, routerAt_changed]
    split
    case isTrue hp =>
      subst hp
      exact h _ hx
    case isFalse => exact hx⟩⟩

theorem mail_wakeRouter {r} : Keeps mailFrame (wakeRouter r) :=
  keeps_look_bind fun _ => keeps_onlyIf (keeps_bind (mail_modRouter fun _ => List.Subset.refl _) fun _ => mail_later)

theorem subset_offer {α : Type} (x : α) (p q : List α) : p ++ q ⊆ p ++ (q ++ [x]) :=
  fun y hy => by
    rw [← List.append_assoc]
    exact List.mem_append_left _ hy

theorem subset_take {α : Type} (x : α) (p q : List α) : p ++ q ⊆ (p ++ [x]) ++ q := by
  intro y hy
  simp only [List.mem_append] at hy ⊢
  tauto

theorem mail_offer {r x} : Keeps mailFrame (modRouter r fun y => { y with offered := y.offered ++ [x] }) :=
  mail_modRouter fun _ => subset_offer _ _ _

theorem mail_take {r x} : Keeps mailFrame (modRouter r fun y => { y with packets := y.packets ++ [x] }) :=
  mail_modRouter fun _ => subset_take _ _ _

theorem mail_enterRouter {r i p} : Keeps mailFrame (enterRouter r i p) :=
  keeps_look_bind fun _ => keeps_bind mail_later fun _ => keeps_ite
    (keeps_bind mail_offer fun _ => mail_wakeRouter) (keeps_bind mail_take fun _ => mail_later)

theorem mail_sendMsg {src dst slack exh core slot m} : Keeps mailFrame (sendMsg src dst slack exh core slot m) :=
  keeps_bind mail_freshId fun _ => mail_enterRouter

theorem queued_offer {r : Nat} {x : Nat × Packet} :
    Queued (run (modRouter r fun y => { y with offered := y.offered ++ [x] }) s) r x := by
  rw [Queued, run_modRouter, routerAt_changed, if_pos rfl]
  simp

theorem queued_take {r : Nat} {x : Nat × Packet} :
    Queued (run (modRouter r fun y => { y with packets := y.packets ++ [x] }) s) r x := by
  rw [Queued, run_modRouter, routerAt_changed, if_pos rfl]
  simp

/-- A packet that enters a router waits there. -/
theorem enterRouter_queued {r i : Nat} {p : Packet} : Queued (run (enterRouter r i p) s) r
    (i, { p with out := chooseOut s r p.dst, entered := s.cycle + 1, overdue := none }) := by
  have hl {c : Prop} [Decidable c] {x : Nat × Packet} {n phase place : Nat} {e : Instr} :=
    keeps_ite (c := c) (keeps_bind (mail_offer (r := r) (x := x)) fun _ => mail_wakeRouter (r := r))
      (keeps_bind (mail_take (r := r) (x := x)) fun _ => mail_later (n := n) (phase := phase) (place := place) (e := e))
  rw [enterRouter, run_look_bind, run_seq (logged_later _ _ _ _) hl.logged]
  split
  · rw [run_seq mail_offer.logged mail_wakeRouter.logged]
    exact (mail_wakeRouter.run _).packets _ _ queued_offer
  · rw [run_seq mail_take.logged mail_later.logged]
    exact (mail_later.run _).packets _ _ queued_take

end

/-- A message of a unit is on its way between two routers. -/
def Sent (t : State) (src dst phase place : Nat) (e : Instr) : Prop :=
  ∃ id, (⟨id, src, dst, phase, place, e, false⟩ : Mail) ∈ t.mail ∧
    ∃ x, Queued t src x ∧ x.1 = 6 ∧ x.2.id ≠ id ∧ x.2.msg = .unit id ∧ x.2.dst = .core dst ∧ x.2.slack = 32 ∧ x.2.exh = false

theorem Sent.mono {t u : State} {src dst phase place : Nat} {e : Instr} (h : Sent t src dst phase place e) (r : MailRel t u) :
    Sent u src dst phase place e := by
  obtain ⟨id, hm, x, hq, hx⟩ := h
  exact ⟨id, r.mail _ hm, x, r.packets _ _ hq, hx⟩

/-- A message joins the mail. -/
def addMail (m : Mail) : Act Unit := do
  let l ← look (·.mail)
  emit (.mail (l ++ [m]))

theorem mail_addMail {m} : Keeps mailFrame (addMail m) :=
  ⟨logged_bind (logged_look _) fun _ => logged_emit _, fun _ =>
    ⟨rfl, rfl, rfl, rfl, fun _ h => h, fun _ h => List.mem_append_left _ h, fun _ _ h => h⟩⟩

theorem unitSendBy_ne {core src dst phase place : Nat} {e : Instr} (hne : src ≠ dst) :
    unitSendBy core src dst phase place e = (do
      let id ← freshId
      addMail ⟨id, src, dst, phase, place, e, false⟩
      sendMsg src (.core dst) 32 false core none (.unit id)) := by
  rw [unitSendBy, if_neg hne]
  rfl

theorem mail_unitSendBy {core src dst phase place : Nat} {e : Instr} : Keeps mailFrame (unitSendBy core src dst phase place e) := by
  by_cases h : src = dst
  · rw [unitSendBy, if_pos h]
    exact mail_later
  · rw [unitSendBy_ne h]
    exact keeps_bind mail_freshId fun _ => keeps_bind mail_addMail fun _ => mail_sendMsg

theorem mail_unitSend {src dst phase place : Nat} {e : Instr} : Keeps mailFrame (unitSend src dst phase place e) := mail_unitSendBy

theorem run_freshId {s : State} {k : Nat → Act Unit} (hk : ∀ n, Logged (k n)) :
    run (freshId >>= k) s = run (k s.nextId) (applyUpd .newId s) :=
  run_bind mail_freshId.logged hk s

/-- A message of a unit to another router is on its way there. -/
theorem sent_unitSendBy {core src dst phase place : Nat} {e : Instr} {s : State} (hne : src ≠ dst) :
    Sent (run (unitSendBy core src dst phase place e) s) src dst phase place e := by
  have hl (m : Mail) (n : Nat) : Logged (addMail m >>= fun _ => sendMsg src (.core dst) 32 false core none (.unit n)) :=
    logged_bind mail_addMail.logged fun _ => mail_sendMsg.logged
  rw [unitSendBy_ne hne, run_freshId fun n => hl _ n, run_seq mail_addMail.logged mail_sendMsg.logged]
  refine ⟨s.nextId, (mail_sendMsg.run _).mail _ (List.mem_append_right _ (List.mem_singleton.mpr rfl)), ?_⟩
  rw [sendMsg, sendFrom, run_freshId fun _ => mail_enterRouter.logged]
  exact ⟨_, enterRouter_queued, rfl, Nat.succ_ne_self _, rfl, rfl, rfl, rfl⟩

theorem mailed_of_sent {s t : State} {src dst phase place : Nat} {e : Instr} (hne : src ≠ dst) (h : Sent t src dst phase place e) :
    Mailed s t src dst phase place e := by
  rw [Mailed, if_neg hne]
  exact h

/-! ### An update of a queue record -/

section
variable {q : Nat} {n : QueueRec}

/-- What the owner of a record does for one die: its own copy, or a message. -/
def updateDie (q : Nat) (n : QueueRec) (d : Nat) : Act Unit := do
  modDie d fun x => { x with known := mset 0 x.known q n.version }
  if d = n.owner then modDie d fun x => { x with recs := mset QueueRec.reset x.recs q n }
  else unitSend (unitRouter n.owner) (unitRouter d) 5 (recPlace d q) (.recordUpdate d q n)

theorem mail_updateDie {d} : Keeps mailFrame (updateDie q n d) :=
  keeps_bind mail_modDie fun _ => keeps_ite mail_modDie mail_unitSend

theorem recOn_modDie_known {s : State} {d e p : Nat} {f : Die → Die} (h : ∀ x : Die, (f x).recs = x.recs) :
    recOn (run (modDie d f) s) e p = recOn s e p := by
  simp only [recOn, run_modDie, dieAt_changed]
  split
  case isTrue he => rw [h, he]
  case isFalse => rfl

theorem recOn_modDie_recs {s : State} {d e : Nat} :
    recOn (run (modDie d fun x => { x with recs := mset QueueRec.reset x.recs q n }) s) e q = if e = d then n else recOn s e q := by
  simp only [recOn, run_modDie, dieAt_changed]
  split
  · exact mget_mset_same _ _ _ _
  · rfl

theorem recOn_unitSend {s : State} {src dst phase place d p : Nat} {e : Instr} :
    recOn (run (unitSend src dst phase place e) s) d p = recOn s d p := by
  rw [(net_unitSend.run s).fields]
  rfl

theorem recOn_updateDie {s : State} {d e : Nat} :
    recOn (run (updateDie q n d) s) e q = if e = d ∧ d = n.owner then n else recOn s e q := by
  rw [updateDie, run_seq mail_modDie.logged (keeps_ite mail_modDie mail_unitSend).logged]
  have hk : ∀ e, recOn (run (modDie d fun x => { x with known := mset 0 x.known q n.version }) s) e q = recOn s e q :=
    fun e => recOn_modDie_known fun _ => rfl
  by_cases hd : d = n.owner
  · rw [if_pos hd, recOn_modDie_recs, hk]
    simp only [hd, and_true]
  · rw [if_neg hd, if_neg fun h => hd h.2, recOn_unitSend, hk]

/-- The routers of the units of two dies are two. -/
theorem unitRouter_ne {d e : Nat} (h : d ≠ e) : unitRouter d ≠ unitRouter e := by
  simp only [unitRouter]
  omega

theorem sent_updateDie {s : State} {d : Nat} (hd : d ≠ n.owner) :
    Sent (run (updateDie q n d) s) (unitRouter n.owner) (unitRouter d) 5 (recPlace d q) (.recordUpdate d q n) := by
  rw [updateDie, run_seq mail_modDie.logged (keeps_ite mail_modDie mail_unitSend).logged, if_neg hd]
  exact sent_unitSendBy (unitRouter_ne fun h => hd h.symm)

/-- After the owner has done so for some dies, it holds the new record, and each other one of them has it on its way. -/
theorem recOn_updateDies {l : List Nat} {s : State} {e : Nat} :
    recOn (run (each l (updateDie q n)) s) e q = if e ∈ l ∧ e = n.owner then n else recOn s e q := by
  induction l generalizing s with
  | nil => simp
  | cons d l ih =>
    rw [run_each_cons d l fun _ => mail_updateDie.logged, ih, recOn_updateDie]
    by_cases hl : e ∈ l ∧ e = n.owner
    · rw [if_pos hl, if_pos ⟨List.mem_cons_of_mem _ hl.1, hl.2⟩]
    · rw [if_neg hl]
      by_cases hd : e = d ∧ d = n.owner
      · rw [if_pos hd, if_pos ⟨by simp [hd.1], hd.1.trans hd.2⟩]
      · rw [if_neg hd, if_neg]
        rintro ⟨hm, ho⟩
        rcases List.mem_cons.mp hm with rfl | hm
        · exact hd ⟨rfl, ho⟩
        · exact hl ⟨hm, ho⟩

theorem sent_updateDies {l : List Nat} {s : State} {d : Nat} (hl : d ∈ l) (hd : d ≠ n.owner) :
    Sent (run (each l (updateDie q n)) s) (unitRouter n.owner) (unitRouter d) 5 (recPlace d q) (.recordUpdate d q n) :=
  (leaves_each
    (P := fun d t => d ≠ n.owner → Sent t (unitRouter n.owner) (unitRouter d) 5 (recPlace d q) (.recordUpdate d q n))
    (fun _ => mail_updateDie) (fun _ _ _ r h hd => (h hd).mono r)
    (fun _ => ⟨mail_updateDie.logged, fun _ hd => sent_updateDie hd⟩) hl).post s hd

end

/-! ### The newest replica -/

theorem newerRec_self (r : QueueRec) : newerRec r r = r := by
  simp [newerRec]

/-- The next version is the newer one of two (R93). -/
theorem newerRec_next {r n : QueueRec} (hr : r.version < 2 ^ 32) (hn : n.version = (r.version + 1) % 2 ^ 32) :
    newerRec r n = n ∧ newerRec n r = n := by
  simp only [newerRec]
  constructor
  · rw [if_pos]
    omega
  · rw [if_neg]
    omega

theorem queueRec_of_agreed {s : State} {q : Nat} {r : QueueRec} (h : Agreed s q r) : queueRec s q = r := by
  simp only [queueRec, h.replicas 0 (by omega), h.replicas 1 (by omega), h.replicas 2 (by omega), h.replicas 3 (by omega),
    newerRec_self, h.replicas _ h.owner, if_pos]

/-- Once the owner holds the next version of what all dies agreed on, that is the record of the queue. -/
theorem queueRec_of_owner {t : State} {q : Nat} {r n : QueueRec} (hr : r.version < 2 ^ 32) (ho : n.owner < 4)
    (hn : n.version = (r.version + 1) % 2 ^ 32) (h : ∀ d, d < 4 → recOn t d q = if d = n.owner then n else r) :
    queueRec t q = n := by
  obtain ⟨h1, h2⟩ := newerRec_next hr hn
  have hnew : newerRec (newerRec (newerRec (recOn t 0 q) (recOn t 1 q)) (recOn t 2 q)) (recOn t 3 q) = n := by
    rw [h 0 (by omega), h 1 (by omega), h 2 (by omega), h 3 (by omega)]
    obtain h | h | h | h : n.owner = 0 ∨ n.owner = 1 ∨ n.owner = 2 ∨ n.owner = 3 := by omega
    all_goals simp [h, h1, h2, newerRec_self]
  rw [queueRec, hnew]
  simp only [h _ ho, if_pos]

/-- An update of a record on whose replicas the dies agree (R93). -/
theorem recordIs_updateRec {s : State} {q : Nat} {r : QueueRec} {f : QueueRec → QueueRec} (h : Agreed s q r)
    (ho : (f r).owner < 4) : RecordIs s (run (updateRec q f) s) q r (f r) := by
  have hx : run (updateRec q f) s =
      run (each (List.range 4) (updateDie q { f r with version := (r.version + 1) % 2 ^ 32 })) s := by
    rw [updateRec, run_look_bind]
    dsimp only [id]
    rw [queueRec_of_agreed h]
    rfl
  rw [hx]
  refine ⟨queueRec_of_owner h.version ho rfl fun d hd => ?_, fun d hd hne => mailed_of_sent ?_ (sent_updateDies ?_ hne)⟩
  · rw [recOn_updateDies, h.replicas d hd]
    simp [hd]
  · exact unitRouter_ne fun h => hne h.symm
  · simpa using hd

theorem mail_updateRec {q f} : Keeps mailFrame (updateRec q f) :=
  keeps_look_bind fun _ => keeps_each fun _ => mail_updateDie

/-! ### Queue 0 -/

/-- ADMQHOST as it stands after a write. -/
def admqWritten (v : Word) (s : State) : State := applyUpd (.mreg 0x0428 (v &&& word (2 ^ 63 + 0xFFFF))) s

/-- A write of ADMQHOST and an update of queue 0's record (R91). -/
theorem admqWritten_updateRec {s : State} {v : Word} {r : QueueRec} {f : QueueRec → QueueRec} (h : Agreed s 0 r)
    (ho : (f r).owner < 4) :
    Quiet s (run (updateRec 0 f) (admqWritten v s)) ∧
      mreg (run (updateRec 0 f) (admqWritten v s)) 0x0428 = v &&& word (2 ^ 63 + 0xFFFF) ∧
      RecordIs s (run (updateRec 0 f) (admqWritten v s)) 0 r (f r) := by
  have ha : Agreed (admqWritten v s) 0 r := ⟨h.replicas, h.owner, h.version⟩
  have hm : MailRel (admqWritten v s) (run (updateRec 0 f) (admqWritten v s)) := mail_updateRec.run _
  obtain ⟨hq, hs⟩ := recordIs_updateRec ha ho
  refine ⟨⟨hm.mem, hm.slots⟩, ?_, hq, fun d hd hne => ?_⟩
  · rw [mreg, hm.mregs]
    exact (mreg_changed _ _ _ s).trans (if_pos rfl)
  · have hne' := unitRouter_ne fun h => hne h.symm
    have hd := hs d hd hne
    rw [Mailed, if_neg hne'] at hd
    rw [Mailed, if_neg hne']
    exact hd

theorem run_admqEnable {s : State} {v : Word} {w : Writer} (hw : mayWriteAdmq s w = true) (hr : admqReady s = true) :
    run (admqEnable v w) s = run (updateRec 0 fun r =>
      { r with
        base := (mreg s 0x0420).toNat / 4096 % 2 ^ 40, logsz := (mreg s 0x0420).toNat % 16, host := v.toNat % 2 ^ 16, rdidx := 0,
        wridx := 0, age := 0, prio := 0, bfen := false, state := 1, owner := (leaderDie s).getD r.owner }) (admqWritten v s) := by
  rw [admqEnable, run_look_bind]
  dsimp only [id]
  rw [hw, hr, run_onlyIf, if_pos rfl, run_seq (logged_emit _) (keeps_onlyIf mail_updateRec).logged, run_onlyIf, if_pos rfl]
  rfl

theorem run_admqDisable {s : State} {v : Word} {w : Writer} (hw : mayWriteAdmq s w = true) (hr : admqReady s = true) :
    run (admqDisable v w) s = run (updateRec 0 fun r => { r with state := 0 }) (admqWritten v s) := by
  rw [admqDisable, run_look_bind]
  dsimp only [id]
  rw [hw, hr, run_onlyIf, if_pos rfl, run_seq (logged_emit _) (keeps_onlyIf mail_updateRec).logged, run_onlyIf, if_pos rfl]
  rfl

theorem adminQueue : Claims.AdminQueue := by
  intro s v w r ha
  refine ⟨fun hw hr => ⟨fun d hl hd => ?_, ?_⟩, fun hw => ⟨?_, ?_⟩⟩
  · have hx : exec (.admqhostEnable v w) s = .next (run (admqEnable v w) s) := rfl
    rw [hx, run_admqEnable hw hr, hl]
    exact ⟨_, rfl, admqWritten_updateRec ha hd⟩
  · have hx : exec (.admqhostDisable v w) s = .next (run (admqDisable v w) s) := rfl
    rw [hx, run_admqDisable hw hr]
    obtain ⟨hq, -, hrec⟩ := admqWritten_updateRec (v := v) (f := fun r => { r with state := 0 }) ha ha.owner
    exact ⟨_, rfl, hq, hrec⟩
  · have hx : exec (.admqhostEnable v w) s = .next (run (admqEnable v w) s) := rfl
    rw [hx, admqEnable, run_look_bind]
    dsimp only [id]
    rw [hw]
    rfl
  · have hx : exec (.admqhostDisable v w) s = .next (run (admqDisable v w) s) := rfl
    rw [hx, admqDisable, run_look_bind]
    dsimp only [id]
    rw [hw]
    rfl

/-- Settles O60: each register from the one action that writes it, an invalidation from what it drops, queue 0 from the update of a
record, the side-band from its replies. -/
theorem registersAndSideband : Obligations.RegistersAndSideband :=
  ⟨registerWrites, registerClears, specialRegisters, invalidations, adminQueue, sidebandCommands, sidebandCodes⟩

end Sys2Proof.Machine

namespace Sys2Proof.Machine
open Sys2Proof

/-! ### A core that is fenced -/

/-- What all the changes of a fence but those of the fence registers leave alone: these registers, and the slots without a thread. -/
structure LeftRel (s t : State) : Prop where
  cycle : t.cycle = s.cycle
  fence : ∀ c, creg t c 0x0EC8 = creg s c 0x0EC8
  thread : ∀ c k, threadAt s c k = none → threadAt t c k = none
  dies : ∀ d, dieFenced t d = dieFenced s d

def leftFrame : Frame where
  rel := LeftRel
  refl _ := ⟨rfl, fun _ => rfl, fun _ _ h => h, fun _ => rfl⟩
  trans h k := ⟨k.cycle.trans h.cycle, fun c => (k.fence c).trans (h.fence c), fun c j hn => k.thread c j (h.thread c j hn),
    fun d => (k.dies d).trans (h.dies d)⟩
  cycle := LeftRel.cycle

theorem Keeps.left {α : Type} {a : Act α} (h : Keeps sparesFrame a) : Keeps leftFrame a :=
  h.mono fun _ _ (r : SparesRel _ _) => ⟨r.cycle, r.fence, r.thread, r.dies⟩

/-- What a fence keeps: every fenced core and every fenced die stays fenced. -/
structure FenceRel (s t : State) : Prop where
  cycle : t.cycle = s.cycle
  core : ∀ c, isFenced s c = true → isFenced t c = true
  die : ∀ d, dieFenced s d = true → dieFenced t d = true

def fenceFrame : Frame where
  rel := FenceRel
  refl _ := ⟨rfl, fun _ h => h, fun _ h => h⟩
  trans h k := ⟨k.cycle.trans h.cycle, fun c hc => k.core c (h.core c hc), fun d hd => k.die d (h.die d hd)⟩
  cycle := FenceRel.cycle

theorem LeftRel.fenced {s t : State} (h : LeftRel s t) (c : Nat) : isFenced t c = isFenced s c := by
  simp only [isFenced, h.fence]

theorem Keeps.fence {α : Type} {a : Act α} (h : Keeps leftFrame a) : Keeps fenceFrame a :=
  h.mono fun _ _ (r : LeftRel _ _) => ⟨r.cycle, fun c hc => (r.fenced c).trans hc, fun d hd => (r.dies d).trans hd⟩

/-- A frame from what a run of the action leaves. -/
theorem keeps_of_run {F : Frame} {a : Act Unit} (hl : Logged a) (h : ∀ s, F.rel s (run a s)) : Keeps F a :=
  ⟨hl, fun s => by
    rw [← run_eq_st hl]
    exact h s⟩

/-- The thread of a slot ends. -/
def endSlot (s : State) (c k : Nat) : Act Unit :=
  match threadAt s c k with
  | some t => endThread c k t.ltime
  | none => pure ()

/-- The threads of a core end. -/
def endThreads (s : State) (c : Nat) : Act Unit := each (List.range 16) (endSlot s c)

/-- A core that is fenced holds nothing more. -/
def emptied (x : Core) : Core :=
  { x with
    deque := [], spillHead := 0, spillCount := 0, spillCols := [], fills := [], tasks := [], cache := [],
    chans := x.chans.map (fun q => (q.1, emptyChannel q.2)) }

/-- What others see of a fence. -/
def tellFence (s : State) (c : Nat) : Act Unit := do
  holdReachable cellFuel (((coreAt s c).cells.filter fun e => e.2.valid).map fun e => (c, e.1))
  pokeHeld c
  cutResumed
  each (affectedSheaves s c) errorEvent
  moduleReport 6 0 0 c 0

/-- A core is emptied, and others see it. -/
def emptyCore (s : State) (c : Nat) : Act Unit := do
  modCore c emptied
  tellFence s c

/-- What follows the end of the threads. -/
def endRest (s : State) (c : Nat) : Act Unit := do
  each (coreAt s c).cache fun e => endCached c e.2.thread
  endWaiting c
  emptyCore s c

/-- A fence from its first change to its last. -/
def fenceSteps (s : State) (c cause : Nat) : Act Unit := do
  setCreg c 0x0EC8 (word (1 + cause % 256 * 256))
  each (droppedItems s c) fun x => countAt c x.1 x.2 (-1)
  endThreads s c
  endRest s c

theorem fenceCore_eq (c cause : Nat) : fenceCore c cause = (do
    let s ← look id
    onlyIf (!isFenced s c) (fenceSteps s c cause)) := rfl

section
variable {s : State} {c cause : Nat}

theorem spares_endSlot {k} : Keeps sparesFrame (endSlot s c k) := by
  unfold endSlot
  split
  · exact spares_endThread
  · exact keeps_pure

theorem spares_endThreads : Keeps sparesFrame (endThreads s c) := keeps_each fun _ => spares_endSlot

theorem spares_tellFence : Keeps sparesFrame (tellFence s c) :=
  keeps_bind spares_holdReachable fun _ => keeps_bind spares_pokeHeld fun _ => keeps_bind spares_cutResumed fun _ =>
  keeps_bind (keeps_each fun _ => spares_errorEvent) fun _ => net_moduleReport.spares

/-- The value of the fence register of a fenced core names it fenced. -/
theorem fenceWord_fenced : (word (1 + cause % 256 * 256)).getLsbD 0 = true := by
  have h : (word (1 + cause % 256 * 256)).toNat % 2 = 1 := by
    rw [word, BitVec.toNat_ofNat]
    omega
  rw [BitVec.getLsbD, Nat.testBit_zero, h]
  rfl

theorem isFenced_setCreg (d : Nat) : isFenced (run (setCreg c 0x0EC8 (word (1 + cause % 256 * 256))) s) d =
    if d = c then true else isFenced s d := by
  rw [isFenced, creg_setCreg]
  by_cases h : d = c
  · rw [if_pos ⟨h, rfl⟩, if_pos h, fenceWord_fenced]
  · rw [if_neg fun k => h k.1, if_neg h]
    rfl

theorem fence_setCreg : Keeps fenceFrame (setCreg c 0x0EC8 (word (1 + cause % 256 * 256))) :=
  keeps_of_run (logged_setCreg _ _ _) fun s => ⟨rfl, fun d hd => by
    rw [isFenced_setCreg, hd, ite_self], fun _ h => h⟩

theorem left_emptied : Keeps leftFrame (modCore c emptied) :=
  keeps_of_run (logged_modCore _ _) fun s => ⟨rfl, fun d => by
    simp only [creg, run_modCore, coreAt_changed]
    split
    case isTrue h => rw [h]; rfl
    case isFalse => rfl, fun _ _ h => h, fun d => by
    rw [run_modCore]
    rfl⟩

theorem left_emptyCore : Keeps leftFrame (emptyCore s c) := keeps_bind left_emptied fun _ => spares_tellFence.left

theorem left_endRest : Keeps leftFrame (endRest s c) :=
  keeps_bind (keeps_each fun _ => spares_endCached.left) fun _ => keeps_bind spares_endWaiting.left fun _ => left_emptyCore

theorem left_endWork : Keeps leftFrame (endThreads s c >>= fun _ => endRest s c) :=
  keeps_bind spares_endThreads.left fun _ => left_endRest

theorem left_dropWork : Keeps leftFrame (each (droppedItems s c) (fun x => countAt c x.1 x.2 (-1)) >>= fun _ =>
    endThreads s c >>= fun _ => endRest s c) :=
  keeps_bind (keeps_each fun _ => spares_countAt.left) fun _ => left_endWork

theorem fence_fenceSteps : Keeps fenceFrame (fenceSteps s c cause) := keeps_bind fence_setCreg fun _ => left_dropWork.fence

theorem fence_fenceCore : Keeps fenceFrame (fenceCore c cause) := by
  rw [fenceCore_eq]
  exact keeps_look_bind fun _ => keeps_onlyIf fence_fenceSteps

/-! ### What a fence leaves of its core -/

theorem leaves_vacate {k : Nat} : Leaves (fun t => threadAt t c k = none) (vacate c k) :=
  leaves_look fun _ => leaves_look fun _ => leaves_keeps
    ⟨logged_modSlot _ _ _, fun s => by
      rw [run_modSlot, threadAt, slotAt_changed, if_pos rfl]⟩
    (keeps_look_bind fun _ => keeps_bind (spares_setCreg (by omega)) fun _ => net_pokeSlots.spares)
    fun _ _ (r : SparesRel _ _) => r.thread c k

theorem removeThread_none {k : Nat} : threadAt (run (removeThread c k) s) c k = none := by
  rw [removeThread, run_look_bind]
  split
  case h_1 h => exact h
  case h_2 t h =>
    exact (leaves_seq spares_releaseBlock (leaves_seq spares_countPops (leaves_seq spares_countPops
      (leaves_seq (keeps_each fun _ => spares_countAt) (leaves_seq spares_clearPending leaves_vacate))))).post s

theorem endThread_none {k : Nat} {time : Word} : threadAt (run (endThread c k time) s) c k = none := by
  rw [endThread, run_look_bind]
  split
  case h_1 h => exact h
  case h_2 t h =>
    exact (leaves_seq (P := fun t => threadAt t c k = none) (keeps_onlyIf spares_countAt)
      ⟨spares_removeThread.logged, fun _ => removeThread_none⟩).post s

/-- After the end of the threads of some slots, these slots have none. -/
theorem endSlots_none {t : State} {l : List Nat} (h : ∀ k, threadAt s c k = none → threadAt t c k = none) {k : Nat}
    (hk : k ∈ l) : threadAt (run (each l (endSlot s c)) t) c k = none := by
  induction l generalizing t with
  | nil => cases hk
  | cons j l ih =>
    rw [run_each_cons j l fun _ => spares_endSlot.logged]
    have hj : SparesRel t (run (endSlot s c j) t) := spares_endSlot.run t
    rcases List.mem_cons.mp hk with rfl | hm
    · refine SparesRel.thread ((keeps_each fun _ => spares_endSlot).run _) c k ?_
      unfold endSlot
      split
      case h_1 => exact endThread_none
      case h_2 hn => exact h k hn
    · exact ih (fun k hn => hj.thread c k (h k hn)) hm

/-- A core without items, and without tasks once it is fenced. -/
def Bare (c : Nat) (t : State) : Prop :=
  (coreAt t c).deque = [] ∧ (isFenced t c = true → (coreAt t c).tasks = [])

theorem leaves_emptyCore : Leaves (Bare c) (emptyCore s c) :=
  leaves_keeps
    ⟨logged_modCore _ _, fun t => by
      rw [Bare, run_modCore, coreAt_changed, if_pos rfl]
      exact ⟨rfl, fun _ => rfl⟩⟩
    spares_tellFence fun _ _ (r : SparesRel _ _) h =>
      ⟨(r.deque c).trans h.1, fun hf => by
        have ht := (r.fenced c).symm.trans hf
        exact (r.tasks c ht).trans (h.2 ht)⟩

theorem leaves_endRest : Leaves (Bare c) (endRest s c) :=
  leaves_seq (keeps_each fun _ => spares_endCached) (leaves_seq spares_endWaiting leaves_emptyCore)

/-- What a fence leaves of a core (R427): its register names the cause, and it has no thread, no item and no task. -/
theorem fenceCore_spec (h : isFenced s c = false) : let u := run (fenceCore c cause) s
    creg u c 0x0EC8 = word (1 + cause % 256 * 256) ∧ (∀ k, k < 16 → threadAt u c k = none) ∧ (coreAt u c).deque = [] ∧
      (coreAt u c).tasks = [] := by
  let v := word (1 + cause % 256 * 256)
  let t₁ := run (setCreg c 0x0EC8 v) s
  let t₂ := run (each (droppedItems s c) fun x => countAt c x.1 x.2 (-1)) t₁
  let t₃ := run (endThreads s c) t₂
  have hd : Keeps sparesFrame (each (droppedItems s c) fun x => countAt c x.1 x.2 (-1)) := keeps_each fun _ => spares_countAt
  have hu : run (fenceCore c cause) s = run (endRest s c) t₃ := by
    rw [fenceCore_eq, run_look_bind]
    dsimp only [id]
    rw [h, run_onlyIf, Bool.not_false, if_pos rfl, fenceSteps, run_seq (logged_setCreg _ _ _) left_dropWork.logged,
      run_seq hd.logged left_endWork.logged, run_seq spares_endThreads.logged left_endRest.logged]
  have h₂ : SparesRel t₁ t₂ := hd.run t₁
  have h₃ : SparesRel t₂ t₃ := spares_endThreads.run t₂
  have h₄ : LeftRel t₃ (run (endRest s c) t₃) := left_endRest.run t₃
  have hc : creg (run (endRest s c) t₃) c 0x0EC8 = v := by
    rw [h₄.fence, h₃.fence, h₂.fence, creg_setCreg, if_pos ⟨rfl, rfl⟩]
  intro u
  rw [show u = run (endRest s c) t₃ from hu]
  obtain ⟨hdeque, htasks⟩ := (leaves_endRest (s := s) (c := c)).post t₃
  refine ⟨hc, fun k hk => ?_, hdeque, htasks ?_⟩
  · exact h₄.thread c k (endSlots_none (fun j hn => h₂.thread c j hn) (List.mem_range.mpr hk))
  · rw [isFenced, hc, fenceWord_fenced]

theorem isFenced_fenceCore : isFenced (run (fenceCore c cause) s) c = true := by
  cases h : isFenced s c with
  | true => exact (fence_fenceCore.run s).core c h
  | false => rw [isFenced, (fenceCore_spec h).1, fenceWord_fenced]

end

end Sys2Proof.Machine

namespace Sys2Proof.Machine
open Sys2Proof

/-! ### Errors of the memories -/

/-- What data that is withheld leaves as it was. -/
structure HoldRel (s t : State) : Prop where
  cycle : t.cycle = s.cycle
  issueOver : t.issueOver = s.issueOver
  agenda : t.agenda = s.agenda
  mem : t.mem = s.mem
  fence : ∀ c, creg t c 0x0EC8 = creg s c 0x0EC8

def holdFrame : Frame where
  rel := HoldRel
  refl _ := ⟨rfl, rfl, rfl, rfl, fun _ => rfl⟩
  trans h k := ⟨k.cycle.trans h.cycle, k.issueOver.trans h.issueOver, k.agenda.trans h.agenda, k.mem.trans h.mem,
    fun c => (k.fence c).trans (h.fence c)⟩
  cycle := HoldRel.cycle

theorem hold_emit {u : Upd} (h : ∀ s, (applyUpd u s).cycle = s.cycle ∧ (applyUpd u s).issueOver = s.issueOver ∧
    (applyUpd u s).agenda = s.agenda ∧ (applyUpd u s).mem = s.mem ∧ (applyUpd u s).cores = s.cores) : Keeps holdFrame (emit u) :=
  keeps_emit fun s => by
    obtain ⟨hc, hi, ha, hm, hx⟩ := h s
    exact ⟨hc, hi, ha, hm, fun _ => by simp only [creg, coreAt, hx]⟩

theorem hold_modThread {c k f} : Keeps holdFrame (modThread c k f) :=
  keeps_look_bind fun _ => hold_emit fun _ => ⟨rfl, rfl, rfl, rfl, rfl⟩
theorem hold_modDie {d f} : Keeps holdFrame (modDie d f) := keeps_look_bind fun _ => hold_emit fun _ => ⟨rfl, rfl, rfl, rfl, rfl⟩
theorem hold_modSiphon {n f} : Keeps holdFrame (modSiphon n f) :=
  keeps_look_bind fun _ => hold_emit fun _ => ⟨rfl, rfl, rfl, rfl, rfl⟩

theorem hold_modCore {c : Nat} {f : Core → Core} (h : ∀ x : Core, (f x).regs = x.regs) : Keeps holdFrame (modCore c f) :=
  keeps_of_run (logged_modCore _ _) fun s => ⟨rfl, rfl, rfl, rfl, fun d => by
    simp only [creg, run_modCore, coreAt_changed]
    split
    case isTrue hd => rw [h, hd]
    case isFalse => rfl⟩

theorem hold_modXfer {e f} : Keeps holdFrame (modXfer e f) := by
  unfold modXfer
  split
  · exact hold_modSiphon
  · exact hold_modCore fun _ => by split <;> rfl
  · exact keeps_pure

theorem hold_withhold {r} : Keeps holdFrame (withhold r) := by
  unfold withhold
  split
  · exact keeps_pure
  · exact keeps_pure
  · exact hold_modThread
  · exact hold_modDie
  · exact hold_modThread
  · exact hold_modXfer

theorem HoldRel.isCycleEnd {s t : State} (h : HoldRel s t) (place : Nat) : isCycleEnd t place = isCycleEnd s place := by
  simp only [Machine.isCycleEnd, h.issueOver, h.agenda, h.cycle]

theorem HoldRel.isFenced {s t : State} (h : HoldRel s t) (c : Nat) : isFenced t c = isFenced s c := by
  simp only [Machine.isFenced, h.fence]

section
variable {s : State} {c : Nat} {x : EccSource}

theorem run_uncorrectableEcc : exec (.uncorrectableEcc c x) s =
    .next (run (atCycleEnd fencePlace (.uncorrectableEcc c (unreadEcc x)) (eccFence c x)) (run (withhold (eccReader x)) s)) := by
  have h : exec (.uncorrectableEcc c x) s = .next (run (withhold (eccReader x) >>= fun _ =>
    atCycleEnd fencePlace (.uncorrectableEcc c (unreadEcc x)) (eccFence c x)) s) := rfl
  rw [h, run_seq hold_withhold.logged (clock_atCycleEnd clock_eccFence).logged]

/-- At the end of the cycle the fence comes. -/
theorem uncorrectableEcc_now (h : isCycleEnd s fencePlace = true) : exec (.uncorrectableEcc c x) s =
    .next (run (eccFence c x) (run (withhold (eccReader x)) s)) := by
  rw [run_uncorrectableEcc, run_atCycleEnd_now]
  exact ((hold_withhold.run s).isCycleEnd _).trans h

/-- Before that it waits for it. -/
theorem uncorrectableEcc_later (h : isCycleEnd s fencePlace = false) : exec (.uncorrectableEcc c x) s =
    .next (applyUpd (.sched (agendaKey s.cycle 7 fencePlace) (.uncorrectableEcc c (unreadEcc x)))
      (run (withhold (eccReader x)) s)) := by
  have ht : HoldRel s (run (withhold (eccReader x)) s) := hold_withhold.run s
  rw [run_uncorrectableEcc, run_atCycleEnd_later ((ht.isCycleEnd _).trans h), dueCycle_now rfl, ht.cycle, Nat.add_zero]

theorem eccFences {n : Nat} {r : EccReader} (hx : (n = 1 ∧ x = .cistern r) ∨ (n = 2 ∧ x = .gddr r)) (hf : isFenced s c = false)
    (he : isCycleEnd s fencePlace = true) : ∃ u, exec (.uncorrectableEcc c x) s = .next u ∧
      isFenced u c = true ∧ creg u c 0x0EC8 = word (1 + n * 256) ∧ (∀ k, k < 16 → threadAt u c k = none) ∧
      (coreAt u c).deque = [] ∧ (coreAt u c).tasks = [] := by
  have hn : eccFence c x = fenceCore c n ∧ n % 256 = n := by
    rcases hx with ⟨rfl, rfl⟩ | ⟨rfl, rfl⟩ <;> exact ⟨rfl, rfl⟩
  have hf' : isFenced (run (withhold (eccReader x)) s) c = false := ((hold_withhold.run s).isFenced c).trans hf
  obtain ⟨hr, ht, hd, hk⟩ := fenceCore_spec (cause := n) hf'
  rw [uncorrectableEcc_now he, hn.1]
  exact ⟨_, rfl, isFenced_fenceCore, by rw [hr, hn.2], ht, hd, hk⟩

theorem pendOf_dropPend (i : Nat) (b : Block) : pendOf (dropPend i b) i = none := by
  simp [pendOf, dropPend]

/-- The data that a thread reads and that has an error does not come (log entry 154). -/
theorem blockAt_withhold {id : ExecId} {b : Block} (hb : blockAt s id.core id.slot = some b) (hg : b.gen = id.gen) :
    blockAt (run (withhold (.thread id)) s) id.core id.slot = some (dropPend id.idx b) := by
  simp only [blockAt, threadAt, withhold, run_modThread, slotAt_changed, if_pos] at hb ⊢
  rw [mapThread_thread]
  cases ht : (slotAt s id.core id.slot).thread with
  | none => simp [ht] at hb
  | some th =>
    rw [ht, Option.bind_some] at hb
    simp [hb, hg]

theorem eccErrors : Claims.EccErrors := by
  refine ⟨fun s c n r x hx hf he => eccFences hx hf he, fun s c x he => ?_, fun s c x hx he => ?_, fun s c => ?_⟩
  · have ht : HoldRel s (run (withhold (eccReader x)) s) := hold_withhold.run s
    refine ⟨_, uncorrectableEcc_later he, ht.mem, mem_putEvent.mpr (.inl rfl), fun hx => ?_, fun id b hx hb hg => ?_⟩
    · rw [hx]
      rfl
    · rw [hx]
      exact ⟨_, blockAt_withhold hb hg, pendOf_dropPend _ _⟩
  · rw [uncorrectableEcc_now he]
    have hd : exec (.dieFence (dieOf c)) s = .next (run (atCycleEnd fencePlace (.dieFence (dieOf c)) (fenceDie (dieOf c))) s) := rfl
    rw [hd, run_atCycleEnd_now he]
    rcases hx with rfl | rfl <;> rfl
  · exact ⟨_, rfl, creg_setCreg .. |>.trans (if_pos ⟨rfl, rfl⟩), rfl⟩

end

end Sys2Proof.Machine

namespace Sys2Proof.Machine
open Sys2Proof

/-! ### A die that is fenced -/

/-- The wellheads of a die stop. -/
def stopWells (s : State) (d : Nat) : Act Unit :=
  each (List.range 48) fun i => do
    let x := wellAt s (wellOf d i)
    modWell (wellOf d i) fun x => { x with stopped := true, queue := [], waiting := [] }
    each x.queue fun e => unreachableAt (destRouter (.well (wellOf d i))).1 e.1
    each x.waiting fun e => unreachableAt e.router e.packet.msg

/-- The launch unit of a die stops, and the module reports it. -/
def stopUnit (d : Nat) : Act Unit := do
  modDie d fun x => { x with launch := none, todo := [], running := false }
  moduleReport 7 d 0 0 0

/-- A launch that is under way is given up. -/
def stopLaunch (s : State) (d : Nat) : Act Unit :=
  match (dieAt s d).launch with
  | some l => do
    each l.acks (freeReserved l.layer)
    stopUnit d
  | none => stopUnit d

/-- A fence of a die after its bit of FENCESTAT. -/
def fenceDieSteps (s : State) (d : Nat) : Act Unit := do
  each (List.range 576) fun i => fenceCore (d * 576 + i) 3
  stopWells s d
  stopLaunch s d

/-- The state with the bit of a die in FENCESTAT. -/
def dieMarked (d : Nat) (s : State) : State := applyUpd (.mreg 0x0920 (mreg s 0x0920 ||| word (2 ^ d))) s

theorem fenceDie_eq (d : Nat) : fenceDie d = (do
    let s ← look id
    onlyIf (decide (d < 4) && !dieFenced s d) (do
      emit (.mreg 0x0920 (mreg s 0x0920 ||| word (2 ^ d)))
      fenceDieSteps s d)) := by
  unfold fenceDie fenceDieSteps stopWells stopLaunch stopUnit
  rfl

section
variable {s : State} {d : Nat}

theorem spares_stopWells : Keeps sparesFrame (stopWells s d) :=
  keeps_each fun _ => keeps_bind spares_modWell fun _ => keeps_bind (keeps_each fun _ => spares_unreachableAt) fun _ =>
  keeps_each fun _ => spares_unreachableAt

theorem spares_stopUnit : Keeps sparesFrame (stopUnit d) := keeps_bind spares_modDie fun _ => net_moduleReport.spares

theorem spares_stopLaunch : Keeps sparesFrame (stopLaunch s d) := by
  unfold stopLaunch
  split
  · exact keeps_bind (keeps_each fun _ => spares_freeReserved) fun _ => spares_stopUnit
  · exact spares_stopUnit

theorem fence_fenceDieSteps : Keeps fenceFrame (fenceDieSteps s d) :=
  keeps_bind (keeps_each fun _ => fence_fenceCore) fun _ => keeps_bind spares_stopWells.left.fence fun _ =>
  spares_stopLaunch.left.fence

theorem run_fenceDie (hd : d < 4) (hf : dieFenced s d = false) :
    run (fenceDie d) s = run (fenceDieSteps s d) (dieMarked d s) := by
  rw [fenceDie_eq, run_look_bind]
  dsimp only [id]
  rw [hf, decide_eq_true hd, run_onlyIf, Bool.not_false, Bool.and_self, if_pos rfl, run_seq (logged_emit _) fence_fenceDieSteps.logged]
  rfl

theorem fenceDie_fenced (hf : dieFenced s d = true) : run (fenceDie d) s = s := by
  rw [fenceDie_eq, run_look_bind]
  dsimp only [id]
  rw [hf, run_onlyIf, Bool.not_true, Bool.and_false]
  rfl

/-- The launch unit of a die that is fenced has stopped. -/
def Stopped (d : Nat) (t : State) : Prop := (dieAt t d).running = false ∧ (dieAt t d).launch = none

theorem leaves_stopUnit : Leaves (Stopped d) (stopUnit d) :=
  leaves_keeps
    ⟨logged_modDie _ _, fun t => by
      rw [Stopped, run_modDie, dieAt_changed, if_pos rfl]
      exact ⟨rfl, rfl⟩⟩
    net_moduleReport fun t u (r : NetRel t u) h => by
      rw [Stopped, dieAt, r.fields]
      exact h

theorem leaves_stopLaunch : Leaves (Stopped d) (stopLaunch s d) := by
  unfold stopLaunch
  split
  · exact leaves_seq (keeps_each fun _ => spares_freeReserved) leaves_stopUnit
  · exact leaves_stopUnit

theorem leaves_fenceCores {i : Nat} (hi : i < 576) :
    Leaves (fun t => isFenced t (d * 576 + i) = true) (each (List.range 576) fun i => fenceCore (d * 576 + i) 3) :=
  leaves_each (P := fun i t => isFenced t (d * 576 + i) = true) (fun _ => fence_fenceCore) (fun _ _ _ (r : FenceRel _ _) h => r.core _ h)
    (fun _ => ⟨fence_fenceCore.logged, fun _ => isFenced_fenceCore⟩) (List.mem_range.mpr hi)

theorem isFenced_fenceDieSteps {i : Nat} (hi : i < 576) : Leaves (fun t => isFenced t (d * 576 + i) = true) (fenceDieSteps s d) :=
  leaves_keeps (leaves_fenceCores hi) (keeps_bind spares_stopWells.left.fence fun _ => spares_stopLaunch.left.fence)
    fun _ _ (r : FenceRel _ _) h => r.core _ h

theorem dieFenced_dieMarked (hd : d < 4) : dieFenced (dieMarked d s) d = true := by
  rw [dieFenced, dieMarked, mreg_changed, if_pos rfl, BitVec.getLsbD_or]
  have h : (word (2 ^ d)).getLsbD d = true := by
    obtain rfl | rfl | rfl | rfl : d = 0 ∨ d = 1 ∨ d = 2 ∨ d = 3 := by omega
    all_goals decide
  rw [h, Bool.or_true]

theorem fenceDie_spec (hd : d < 4) (hf : dieFenced s d = false) : let u := run (fenceDie d) s
    dieFenced u d = true ∧ Stopped d u ∧ ∀ c, c < 2304 → dieOf c = d → isFenced u c = true := by
  intro u
  have hu : u = run (fenceDieSteps s d) (dieMarked d s) := run_fenceDie hd hf
  have hs : Leaves (Stopped d) (fenceDieSteps s d) :=
    leaves_seq (keeps_each fun _ => fence_fenceCore) (leaves_seq spares_stopWells leaves_stopLaunch)
  have hr : FenceRel (dieMarked d s) u := by
    rw [hu]
    exact fence_fenceDieSteps.run _
  refine ⟨hr.die d (dieFenced_dieMarked hd), ?_, fun c _ hc => ?_⟩
  · rw [hu]
    exact hs.post _
  · have hi : c = d * 576 + c % 576 := by
      rw [dieOf] at hc
      omega
    rw [hu, hi]
    exact (isFenced_fenceDieSteps (Nat.mod_lt _ (by omega))).post _

/-- The event that fences a die at the end of a cycle. -/
theorem dieFence_now (he : isCycleEnd s fencePlace = true) : exec (.dieFence d) s = .next (run (fenceDie d) s) := by
  have h : exec (.dieFence d) s = .next (run (atCycleEnd fencePlace (.dieFence d) (fenceDie d)) s) := rfl
  rw [h, run_atCycleEnd_now he]

theorem dieFence_later (he : isCycleEnd s fencePlace = false) : exec (.dieFence d) s =
    .next (applyUpd (.sched (agendaKey s.cycle 7 fencePlace) (.dieFence d)) s) := by
  have h : exec (.dieFence d) s = .next (run (atCycleEnd fencePlace (.dieFence d) (fenceDie d)) s) := rfl
  rw [h, run_atCycleEnd_later he, dueCycle_now rfl, Nat.add_zero]

theorem dieFences : Claims.DieFences := by
  refine ⟨fun s d hd hf he => ?_, fun s d he => ?_, fun s d hf he => ?_, fun s d hd => ?_, fun s d hd => ?_⟩
  · obtain ⟨h1, ⟨h2, h3⟩, h4⟩ := fenceDie_spec hd hf
    exact ⟨_, dieFence_now he, h1, h2, h3, h4⟩
  · exact ⟨_, dieFence_later he, rfl, mem_putEvent.mpr (.inl rfl)⟩
  · rw [dieFence_now he, fenceDie_fenced hf]
  · have hx : exec (.fenceDie d) s = .next (run (later 0 7 fencePlace (.dieFence d) >>= fun _ => sideReply []) s) :=
      congrArg (fun a => Host.Outcome.next (run a s)) (if_pos hd)
    exact ⟨_, hx, rfl, rfl, mem_putEvent.mpr (.inl rfl)⟩
  · have hx : exec (.fenceDie d) s = .next (run sideNack s) :=
      congrArg (fun a => Host.Outcome.next (run a s)) (if_neg (Nat.not_lt.mpr hd))
    exact hx

end

end Sys2Proof.Machine

namespace Sys2Proof.Machine
open Sys2Proof

/-! ### Power and heat -/

theorem NetRel.dieAt {s t : State} (h : NetRel s t) (d : Nat) : dieAt t d = dieAt s d := by
  rw [h.fields]
  rfl

theorem NetRel.slots {s t : State} (h : NetRel s t) : t.slots = s.slots := by
  rw [h.fields]

section
variable {s : State} {d n : Nat}

/-- The state as the clock of a die begins to be stretched, before the report of it. -/
def stretchBegun (d : Nat) (f : Die → Die) (s : State) : State :=
  applyUpd (.sched (agendaKey (s.cycle + 257) 5 (29140 + d)) (.stretchEnd d))
    (applyUpd (.die d { f (dieAt s d) with stretched := true, normalSince := s.cycle + 1 }) s)

theorem run_stretchDie {f : Die → Die} : run (stretchDie d f) s = run reportStretch (stretchBegun d f s) := by
  rw [stretchDie, run_look_bind, run_seq (logged_modDie _ _) (logged_bind (logged_later _ _ _ _) fun _ => net_reportStretch.logged),
    run_seq (logged_later _ _ _ _) net_reportStretch.logged, run_later, dueCycle_later _ _ (by omega)]
  rfl

/-- The clock of a die is stretched until its sensors have read normal for 256 cycles (R430). -/
theorem stretchDie_spec {f : Die → Die} : let u := run (stretchDie d f) s
    dieAt u d = { f (dieAt s d) with stretched := true, normalSince := s.cycle + 1 } ∧
      Pends s u 257 5 (29140 + d) (.stretchEnd d) ∧ u.slots = s.slots := by
  intro u
  have hr : NetRel (stretchBegun d f s) u := by
    change NetRel (stretchBegun d f s) (run (stretchDie d f) s)
    rw [run_stretchDie]
    exact net_reportStretch.run _
  refine ⟨(hr.dieAt d).trans ((dieAt_changed d d _ s).trans (if_pos rfl)), ?_, hr.slots⟩
  rw [Pends, dueCycle_later _ _ (by omega)]
  exact hr.agenda _ (mem_putEvent.mpr (.inl rfl))

theorem stretchEnd_spec (hs : (dieAt s d).stretched = true) (hh : (dieAt s d).hot = false)
    (hn : (dieAt s d).normalSince + 256 ≤ s.cycle) :
    ∃ u, exec (.stretchEnd d) s = .next u ∧ (dieAt u d).stretched = false ∧ (dieAt u d).sag = false ∧ u.slots = s.slots := by
  have hx : exec (.stretchEnd d) s =
      .next (run reportStretch (applyUpd (.die d { dieAt s d with stretched := false, sag := false }) s)) := by
    have hc : ((dieAt s d).stretched && !(dieAt s d).hot && decide ((dieAt s d).normalSince + 256 ≤ s.cycle)) = true := by
      simp [hs, hh, hn]
    unfold exec execStretchEnd
    dsimp only
    rw [run_onlyIf, if_pos hc, run_seq (logged_modDie _ _) net_reportStretch.logged]
    rfl
  have hr : NetRel (applyUpd (.die d { dieAt s d with stretched := false, sag := false }) s) _ := net_reportStretch.run _
  have hd := (hr.dieAt d).trans ((dieAt_changed d d _ s).trans (if_pos rfl))
  exact ⟨_, hx, by rw [hd], by rw [hd], hr.slots⟩

/-- The highest temperature of the four dies. -/
def hottestTemp (t : State) : Nat := (List.range 4).foldl (fun m d => max m (dieAt t d).temp) 0

theorem hottestTemp_eq (t : State) : hottestTemp t =
    max (max (max (dieAt t 0).temp (dieAt t 1).temp) (dieAt t 2).temp) (dieAt t 3).temp := by
  have h : hottestTemp t = max (max (max (max 0 (dieAt t 0).temp) (dieAt t 1).temp) (dieAt t 2).temp) (dieAt t 3).temp := rfl
  rw [h, Nat.zero_max]

/-- The state with the new temperature of a die, and JTEMP with the highest. -/
def heated (d n : Nat) (s : State) : State :=
  let t := applyUpd (.die d { dieAt s d with temp := n % 2 ^ 16 }) s
  applyUpd (.mreg 0x0938 (word (hottestTemp t))) t

/-- What a temperature brings about: the fence of all dies, a stretched clock, or its end. -/
def heatAct (s : State) (d n : Nat) : Act Unit :=
  if 110 * 16 ≤ n then each (List.range 4) fun d => later 0 7 fencePlace (.dieFence d)
  else if 100 * 16 ≤ n then stretchDie d fun x => { x with hot := true }
  else onlyIf (dieAt s d).hot (stretchDie d fun x => { x with hot := false })

theorem clock_heatAct : Keeps clockFrame (heatAct s d n) :=
  keeps_ite (keeps_each fun _ => net_later.clock) (keeps_ite clock_stretchDie (keeps_onlyIf clock_stretchDie))

theorem junctionTemperature_eq : exec (.junctionTemperature d n) s = .next (run (heatAct s d n) (heated d n s)) := by
  have hx : exec (.junctionTemperature d n) s = .next (run (modDie d (fun x => { x with temp := n % 2 ^ 16 }) >>= fun _ =>
      look id >>= fun t => emit (.mreg 0x0938 (word (hottestTemp t))) >>= fun _ => heatAct s d n) s) := rfl
  have hl : Logged (look id >>= fun t => emit (.mreg 0x0938 (word (hottestTemp t))) >>= fun _ => heatAct s d n) :=
    logged_bind (logged_look _) fun _ => logged_bind (logged_emit _) fun _ => clock_heatAct.logged
  rw [hx, run_seq (logged_modDie _ _) hl, run_look_bind, run_seq (logged_emit _) clock_heatAct.logged]
  rfl

theorem dieAt_heated : dieAt (heated d n s) d = { dieAt s d with temp := n % 2 ^ 16 } :=
  (dieAt_changed d d _ s).trans (if_pos rfl)

theorem jtemp_heated : mreg (heated d n s) 0x0938 = word (hottestTemp (heated d n s)) := (mreg_changed _ _ _ _).trans (if_pos rfl)

theorem heat_normal (hn : n < 1600) (hh : (dieAt s d).hot = false) : ∃ u, exec (.junctionTemperature d n) s = .next u ∧
    dieAt u d = { dieAt s d with temp := n } ∧ Quiet s u ∧
    mreg u 0x0938 = word (max (max (max (dieAt u 0).temp (dieAt u 1).temp) (dieAt u 2).temp) (dieAt u 3).temp) := by
  have ha : heatAct s d n = onlyIf false (stretchDie d fun x => { x with hot := false }) := by
    rw [heatAct, if_neg (by omega), if_neg (by omega), hh]
  rw [junctionTemperature_eq, ha]
  refine ⟨heated d n s, rfl, ?_, ⟨rfl, rfl⟩, jtemp_heated.trans (congrArg word (hottestTemp_eq _))⟩
  rw [dieAt_heated, Nat.mod_eq_of_lt (by omega)]

theorem heat_hot (h1 : 1600 ≤ n) (h2 : n < 1760) : ∃ u, exec (.junctionTemperature d n) s = .next u ∧
    (dieAt u d).stretched = true ∧ (dieAt u d).hot = true ∧ u.slots = s.slots := by
  have ha : heatAct s d n = stretchDie d fun x => { x with hot := true } := by
    rw [heatAct, if_neg (by omega), if_pos (by omega)]
  obtain ⟨hd, -, hs⟩ := stretchDie_spec (s := heated d n s) (d := d) (f := fun x => { x with hot := true })
  rw [junctionTemperature_eq, ha]
  exact ⟨_, rfl, by rw [hd], by rw [hd], hs⟩

/-- An event that each of several items puts at the end of the cycle is pending after all of them. -/
theorem leaves_cycleEnds {l : List Nat} {e : Nat → Instr} {place i : Nat} (he : ∀ i t, eventSkips t (e i) = false) (hi : i ∈ l) :
    Leaves (fun t => (agendaKey t.cycle 7 place, e i) ∈ t.agenda) (each l fun i => later 0 7 place (e i)) :=
  leaves_each (P := fun i t => (agendaKey t.cycle 7 place, e i) ∈ t.agenda) (fun _ => mail_later)
    (fun _ _ _ (r : MailRel _ _) h => by
      rw [r.cycle]
      exact r.agenda _ h)
    (fun i => ⟨logged_later _ _ _ _, fun t => by
      rw [run_later, dueCycle_now (he i t)]
      exact mem_putEvent.mpr (.inl rfl)⟩) hi

theorem heat_fence (h : 1760 ≤ n) : ∃ u, exec (.junctionTemperature d n) s = .next u ∧
    Quiet s u ∧ ∀ e, e < 4 → Pends s u 0 7 fencePlace (.dieFence e) := by
  have ha : heatAct s d n = each (List.range 4) fun d => later 0 7 fencePlace (.dieFence d) := by
    rw [heatAct, if_pos (by omega)]
  have hr : MailRel (heated d n s) (run (each (List.range 4) fun d => later 0 7 fencePlace (.dieFence d)) (heated d n s)) :=
    (keeps_each fun _ => mail_later).run _
  rw [junctionTemperature_eq, ha]
  refine ⟨_, rfl, ⟨hr.mem, hr.slots⟩, fun e he => ?_⟩
  have hp := (leaves_cycleEnds (e := Instr.dieFence) (place := fencePlace) (fun _ _ => rfl) (List.mem_range.mpr he)).post (heated d n s)
  rw [hr.cycle] at hp
  exact hp

theorem powerAndHeat : Claims.PowerAndHeat := by
  refine ⟨fun s d => ?_, fun s d => stretchEnd_spec, fun s d n => heat_normal, fun s d n => heat_hot, fun s d n => heat_fence⟩
  obtain ⟨hd, hp, hs⟩ := stretchDie_spec (s := s) (d := d) (f := fun x => { x with sag := true })
  exact ⟨_, rfl, by rw [hd], by rw [hd], by rw [hd], hp, hs⟩

end

end Sys2Proof.Machine

namespace Sys2Proof.Machine
open Sys2Proof

/-! ### The tick -/

/-- A timer that is set, and nothing else. -/
structure TimerRel (s t : State) : Prop where
  fields : t = { s with timers := t.timers }
  timers : ∀ e ∈ s.timers, e ∈ t.timers

def timerFrame : Frame where
  rel := TimerRel
  refl _ := ⟨rfl, fun _ h => h⟩
  trans h k := ⟨by
    have hk := k.fields
    rw [h.fields] at hk
    exact hk, fun e he => k.timers e (h.timers e he)⟩
  cycle h := by rw [h.fields]

theorem timer_onTick {n e} : Keeps timerFrame (onTick n e) := keeps_emit fun _ => ⟨rfl, fun _ h => mem_putEvent.mpr (.inr h)⟩

theorem timer_openElection : Keeps timerFrame openElection := keeps_look_bind fun _ => keeps_onlyIf (keeps_each fun _ => timer_onTick)

/-- A die that has an image and no leader, and claims no lease: its election is to come. -/
def Waiting (s : State) (d : Nat) : Prop :=
  d < 4 ∧ dieFenced s d = false ∧ (dieAt s d).image = true ∧ (dieAt s d).lease.leader = none ∧ (dieAt s d).lease.claim = 0

section
variable {s : State} {d : Nat}

theorem timed_each {l : List Nat} {n i : Nat} {e : Nat → Instr} (hi : i ∈ l) :
    Timed (run (each l fun i => onTick n (e i)) s) n (e i) :=
  (leaves_each (P := fun i t => Timed t n (e i)) (fun _ => timer_onTick) (fun _ _ _ (r : TimerRel _ _) h => r.timers _ h)
    (fun _ => ⟨timer_onTick.logged, fun _ => mem_putEvent.mpr (.inl rfl)⟩) hi).post s

/-- Once the election is open, each die that waits looks to its lease (R98, R420). -/
theorem openElection_timed (ho : electionOpen s = true) (hd : Waiting s d) : ∃ n, Timed (run openElection s) n (.leaseExpiry d) := by
  have hr : TimerRel s (run openElection s) := timer_openElection.run s
  by_cases ht : s.timers.any fun e => decide (e.2 = .leaseExpiry d)
  · obtain ⟨⟨n, e⟩, hm, he⟩ := List.any_eq_true.mp ht
    refine ⟨n, hr.timers _ ?_⟩
    rw [← of_decide_eq_true he]
    exact hm
  · obtain ⟨h4, hf, hi, hl, hc⟩ := hd
    have hm : d ∈ (liveDies s).filter fun d =>
        let x := dieAt s d
        x.image && x.lease.leader.isNone && decide (x.lease.claim = 0) && !(s.timers.any fun e => decide (e.2 = .leaseExpiry d)) := by
      simp only [liveDies, List.mem_filter, List.mem_range, hf, hi, hl, hc, ht, h4]
      exact ⟨⟨trivial, rfl⟩, rfl⟩
    rw [openElection, run_look_bind]
    dsimp only [id]
    rw [ho, run_onlyIf, if_pos rfl]
    exact ⟨_, timed_each hm⟩

/-- The tick that a sync leaves: the first one sets it, if the master's time is greater. -/
def syncTick (s : State) (m : Nat) : Nat := if s.everLocked then s.tick else max s.tick (m % 2 ^ 64)

/-- The state that a sync leaves, before the dies look to their leases. -/
def synced (m : Nat) (s : State) : State :=
  { s with
    everLocked := true, locked := true, tick := syncTick s m, lastSync := syncTick s m,
    slew := ((m % 2 ^ 64 : Nat) : Int) - (syncTick s m : Int), timers := putEvent (syncTick s m + lockTicks) .tickLockLoss s.timers }

theorem run_takeSync {m : Nat} : run (takeSync m) s = run openElection (synced m s) := by
  have hx : run (takeSync m) s = run (onlyIf (decide (syncTick s m ≠ s.tick)) (emit (.tick (syncTick s m))) >>= fun _ =>
      emit (.sync true true (syncTick s m) (((m % 2 ^ 64 : Nat) : Int) - (syncTick s m : Int))) >>= fun _ =>
      onTick (syncTick s m + lockTicks) .tickLockLoss >>= fun _ => openElection) s := rfl
  have hl : Logged (onTick (syncTick s m + lockTicks) .tickLockLoss >>= fun _ => openElection) :=
    (keeps_bind timer_onTick fun _ => timer_openElection).logged
  have ht : run (onlyIf (decide (syncTick s m ≠ s.tick)) (emit (.tick (syncTick s m)))) s = { s with tick := syncTick s m } := by
    rw [run_onlyIf]
    split
    case isTrue => rfl
    case isFalse h =>
      have h : syncTick s m = s.tick := by simpa using h
      rw [h]
  rw [hx, run_seq (logged_onlyIf _ (logged_emit _)) (logged_bind (logged_emit _) fun _ => hl), ht, run_seq (logged_emit _) hl,
    run_seq timer_onTick.logged timer_openElection.logged]
  rfl

theorem sync_spec (m : Nat) : ∃ u, exec (.ieee1588Sync m) s = .next u ∧ u.everLocked = true ∧ u.locked = true ∧
    u.tick = (if s.everLocked then s.tick else max s.tick (m % 2 ^ 64)) ∧ u.lastSync = u.tick ∧
    u.slew = ((m % 2 ^ 64 : Nat) : Int) - (u.tick : Int) ∧
    Timed u (u.tick + 1_000_000_000) .tickLockLoss ∧ Quiet s u ∧
    (portsTrained s = true → ∀ d, d < 4 → dieFenced s d = false → (dieAt s d).image = true → (dieAt s d).lease.leader = none →
      (dieAt s d).lease.claim = 0 → ∃ n, Timed u n (.leaseExpiry d)) := by
  have hx : exec (.ieee1588Sync m) s = .next (run openElection (synced m s)) := by
    have he : exec (.ieee1588Sync m) s = .next (run (takeSync m) s) := rfl
    rw [he, run_takeSync]
  have hr : TimerRel (synced m s) (run openElection (synced m s)) := timer_openElection.run _
  have ho (hp : portsTrained s = true) : electionOpen (synced m s) = true := by
    have hp' : portsTrained (synced m s) = true := hp
    rw [electionOpen, hp']
    exact Bool.or_true _
  have hw (hp : portsTrained s = true) (d : Nat) (hd : Waiting s d) : ∃ n, Timed (run openElection (synced m s)) n (.leaseExpiry d) :=
    openElection_timed (ho hp) hd
  generalize run openElection (synced m s) = u at hx hr hw
  obtain ⟨hu, ht⟩ := hr
  have htick : u.tick = syncTick s m := congrArg (·.tick) hu
  refine ⟨u, hx, congrArg (·.everLocked) hu, congrArg (·.locked) hu, htick, (congrArg (·.lastSync) hu).trans htick.symm, ?_, ?_,
    ⟨congrArg (·.mem) hu, congrArg (·.slots) hu⟩, fun hp d hd hf hi hl hc => hw hp d ⟨hd, hf, hi, hl, hc⟩⟩
  · rw [htick]
    exact congrArg (·.slew) hu
  · rw [htick]
    exact ht _ (mem_putEvent.mpr (.inl rfl))

theorem tickSyncs : Claims.TickSyncs := by
  refine ⟨fun s m => sync_spec m, fun s hl => ⟨fun h => ?_, fun h => ?_⟩⟩
  · have hx : exec .tickLockLoss s = .next (run (moduleReport 5 0 0 0 0 >>= fun _ => lostLock)
        (applyUpd (.sync s.everLocked false s.lastSync s.slew) s)) := by
      have hc : (s.locked && decide (s.lastSync + lockTicks ≤ s.tick)) = true := by
        rw [hl, Bool.true_and]
        exact decide_eq_true h
      have hk := keeps_bind (net_moduleReport (kind := 5) (queue := 0) (sheaf := 0) (idx := 0) (info := 0)) fun _ => net_lostLock
      unfold exec execTickLockLoss
      dsimp only
      rw [run_onlyIf, if_pos hc, run_seq (logged_emit _) hk.logged]
      rfl
    have hr : NetRel (applyUpd (.sync s.everLocked false s.lastSync s.slew) s) _ :=
      (keeps_bind (net_moduleReport (kind := 5) (queue := 0) (sheaf := 0) (idx := 0) (info := 0)) fun _ => net_lostLock).run _
    exact ⟨_, hx, by rw [hr.fields]; rfl, hr.slots⟩
  · have hc : (s.locked && decide (s.lastSync + lockTicks ≤ s.tick)) = false := by
      rw [hl, Bool.true_and]
      exact decide_eq_false (Nat.not_le.mpr h)
    unfold exec execTickLockLoss
    dsimp only
    rw [run_onlyIf, hc]
    rfl

/-! ### Firmware images -/

/-- The state as a die starts with an image of a version, before the dies look to their leases. -/
def dieStarted (d version : Nat) (s : State) : State :=
  applyUpd (.mreg 0x0930 (word version)) (applyUpd (.die d { dieAt s d with image := true, running := true }) s)

theorem run_startDie {v : Nat} : run (startDie d v) s = run openElection (dieStarted d v s) := by
  rw [startDie, run_seq (logged_modDie _ _) (logged_bind (logged_emit _) fun _ => timer_openElection.logged),
    run_seq (logged_emit _) timer_openElection.logged]
  rfl

theorem timer_startDie {v : Nat} : TimerRel (dieStarted d v s) (run (startDie d v) s) := by
  rw [run_startDie]
  exact timer_openElection.run _

/-- A die that asks for an image takes the answer (R424). -/
theorem run_takeImage {i : FwImage} (hi : (dieAt s d).image = false) (ha : (dieAt s d).asked ≠ 0) (hf : dieFenced s d = false) :
    run (takeImage d i) s = run (if imageGood s i then do
        emit (.flash { s.flash with image := i })
        moduleReport 9 0 0 0 i.version
        startDie d i.version
      else if s.flash.recovery.length < (dieAt s d).asked then later 0 7 fencePlace (.dieFence d)
      else askImage d) s := by
  have hc : (!(dieAt s d).image && decide (0 < (dieAt s d).asked) && !dieFenced s d) = true := by
    simp [hi, hf, Nat.pos_of_ne_zero ha]
  rw [takeImage, run_look_bind]
  dsimp only [id]
  rw [run_onlyIf, if_pos hc]

theorem takeImage_good {i : FwImage} (hi : (dieAt s d).image = false) (ha : (dieAt s d).asked ≠ 0) (hf : dieFenced s d = false)
    (hg : imageGood s i = true) : ∃ u, exec (.recoveryImageReply d i) s = .next u ∧ u.flash = { s.flash with image := i } ∧
      (dieAt u d).image = true ∧ (dieAt u d).running = true ∧ mreg u 0x0930 = word i.version ∧ u.slots = s.slots := by
  have hs : Logged (startDie d i.version) := clock_startDie.logged
  have hx : exec (.recoveryImageReply d i) s =
      .next (run (startDie d i.version) (run (moduleReport 9 0 0 0 i.version) (applyUpd (.flash { s.flash with image := i }) s))) := by
    have he : exec (.recoveryImageReply d i) s = .next (run (takeImage d i) s) := rfl
    rw [he, run_takeImage hi ha hf, if_pos hg, run_seq (logged_emit _) (logged_bind net_moduleReport.logged fun _ => hs),
      run_seq net_moduleReport.logged hs]
    rfl
  have hr : NetRel (applyUpd (.flash { s.flash with image := i }) s)
      (run (moduleReport 9 0 0 0 i.version) (applyUpd (.flash { s.flash with image := i }) s)) := net_moduleReport.run _
  generalize run (moduleReport 9 0 0 0 i.version) (applyUpd (.flash { s.flash with image := i }) s) = t at hx hr
  have hd : TimerRel (dieStarted d i.version t) (run (startDie d i.version) t) := timer_startDie
  generalize run (startDie d i.version) t = u at hx hd
  have hu := hd.fields
  have hdie : dieAt u d = { dieAt t d with image := true, running := true } := by
    rw [hu]
    exact (dieAt_changed d d _ t).trans (if_pos rfl)
  have hreg : mreg u 0x0930 = word i.version := by
    rw [hu]
    exact (mreg_changed _ _ _ _).trans (if_pos rfl)
  exact ⟨u, hx, (congrArg (·.flash) hu).trans (congrArg (·.flash) hr.fields), by rw [hdie], by rw [hdie], hreg,
    (congrArg (·.slots) hu).trans hr.slots⟩

theorem takeImage_none {i : FwImage} (hi : (dieAt s d).image = false) (ha : (dieAt s d).asked ≠ 0) (hf : dieFenced s d = false)
    (hg : imageGood s i = false) (hr : s.flash.recovery.length < (dieAt s d).asked) :
    exec (.recoveryImageReply d i) s = .next (run (later 0 7 fencePlace (.dieFence d)) s) := by
  have he : exec (.recoveryImageReply d i) s = .next (run (takeImage d i) s) := rfl
  rw [he, run_takeImage hi ha hf, if_neg (by simp [hg]), if_pos hr]

theorem fwstageGo_eq : exec .fwstageGo s = .next (if (leaderDie s).isSome && imageGood s (stagedImage s) then
    { s with flash := { s.flash with image := stagedImage s, floor := (stagedImage s).version } } else s) := by
  have he : exec .fwstageGo s = .next (run takeStaged s) := rfl
  rw [he, takeStaged, run_look_bind]
  dsimp only [id]
  rw [run_onlyIf]
  rfl

theorem images : Claims.Images := by
  refine ⟨fun s d i hi ha hf => ⟨takeImage_good hi ha hf, fun hg hr => ?_⟩, fun s => ⟨fun hl hg => ?_, fun hg => ?_⟩⟩
  · exact ⟨_, takeImage_none hi ha hf hg hr, rfl, mem_putEvent.mpr (.inl rfl)⟩
  · rw [fwstageGo_eq, if_pos (by simp [Option.isSome_iff_ne_none.mpr hl, hg])]
  · rw [fwstageGo_eq, if_neg (by simp [hg])]

end

end Sys2Proof.Machine

namespace Sys2Proof.Machine
open Sys2Proof

/-! ### A clock at half its frequency -/

/-- Whether a die skips the cycle that begins. -/
def Skips (s : State) (d : Nat) : Bool := (dieAt s d).stretched && !(dieAt s d).skips

section
variable {s : State} {d : Nat}

/-- A listed entry of a map in rising order is what its key reads as. -/
theorem mget_of_mem {α : Type} {dflt v : α} {lo k : Nat} {m : Map α} (h : mrising lo m = true) (hm : (k, v) ∈ m) :
    mget dflt m k = v := by
  induction m generalizing lo with
  | nil => cases hm
  | cons e m ih =>
    obtain ⟨-, hr⟩ : lo ≤ e.1 ∧ mrising (e.1 + 1) m = true := by simpa [mrising] using h
    rw [mget]
    rcases List.mem_cons.mp hm with rfl | hm
    · exact if_pos rfl
    · have hk := le_of_mem_mrising hr (List.mem_map.mpr ⟨_, hm, rfl⟩)
      rw [if_neg (by omega), ih hr hm]

theorem dieAt_of_mem (hs : Canonical s) {x : Nat × Die} (hx : x ∈ s.dies) : dieAt s x.1 = x.2 :=
  mget_of_mem (mrising_of_mwf hs.dies) hx

/-- The dies whose clocks skip the next cycle are listed. -/
theorem mem_skipNext (hs : Canonical s) : d ∈ skipNext s ↔ Skips s d = true := by
  constructor
  · intro h
    obtain ⟨x, hx, rfl⟩ := List.mem_map.mp h
    obtain ⟨hm, hp⟩ := List.mem_filter.mp hx
    rw [Skips, dieAt_of_mem hs hm]
    exact hp
  · intro h
    have hne : dieAt s d ≠ Die.reset := fun he => by
      rw [Skips, he] at h
      cases h
    exact List.mem_map.mpr ⟨(d, dieAt s d), List.mem_filter.mpr ⟨mem_of_mget hne, h⟩, rfl⟩

theorem contains_skipNext (hs : Canonical s) : (skipNext s).contains d = Skips s d := by
  rw [Bool.eq_iff_iff, List.contains_iff_mem, mem_skipNext hs]

/-- How a skipped cycle counts in STRETCHCNT: once for each die. -/
theorem length_skipNext (hs : Canonical s) : (skipNext s).length = (s.dies.filter fun x => Skips s x.1).length := by
  rw [skipNext, List.length_map]
  congr 1
  refine List.filter_congr fun x hx => ?_
  rw [Skips, dieAt_of_mem hs hx]

/-- No die skips a cycle that none of the listed ones skips. -/
theorem skips_of_any {t : State} (h : (t.dies.any fun d => d.2.skips) = false) : (dieAt t d).skips = false := by
  by_contra hc
  have hne : dieAt t d ≠ Die.reset := fun he => hc (by rw [he]; rfl)
  have hs : (t.dies.any fun d => d.2.skips) = true :=
    List.any_eq_true.mpr ⟨(d, dieAt t d), mem_of_mget hne, by simpa using hc⟩
  rw [h] at hs
  cases hs

/-- Each die after a skipped cycle (R430). -/
theorem dieAt_skipCycle (hs : Canonical s) : dieAt (skipCycle (skipNext s) (timersTaken s)) d = skipDie (skipNext s) d (dieAt s d) := by
  unfold skipCycle
  split
  case isTrue h =>
    simp only [Bool.and_eq_true, Bool.not_eq_true', List.isEmpty_iff] at h
    obtain ⟨hn, ha⟩ := h
    have hd : (dieAt s d).skips = false := skips_of_any (t := timersTaken s) ha
    have hr : skipDie [] d (dieAt s d) = { dieAt s d with skips := false } := rfl
    rw [hn, hr, ← hd]
    rfl
  case isFalse =>
    have hg : mget Die.reset (s.dies.foldl (fun l e => mset Die.reset l e.1 (skipDie (skipNext s) e.1 e.2)) s.dies) d =
        if d ∈ s.dies.map Prod.fst ∧ true = true then skipDie (skipNext s) d (dieAt s d) else dieAt s d :=
      mget_changeEntries (p := fun _ => true) (f := skipDie (skipNext s)) (mrising_of_mwf hs.dies)
    refine Eq.trans hg ?_
    split
    case isTrue => rfl
    case isFalse hd =>
      have he : dieAt s d = Die.reset := by
        by_contra hne
        exact hd ⟨List.mem_map.mpr ⟨_, mem_of_mget hne, rfl⟩, rfl⟩
      have hn : (skipNext s).contains d = false := by rw [contains_skipNext hs, Skips, he]; rfl
      rw [skipDie, hn, he]
      rfl

/-! ### What waits for a clock -/

theorem mem_dueTimers {c tick : Nat} {l ag : List (Nat × Instr)} {e : Nat × Instr} (he : e ∈ ag) : e ∈ (dueTimers c tick l ag).2 := by
  induction l generalizing ag with
  | nil => exact he
  | cons x l ih =>
    rw [dueTimers]
    split
    · exact ih (mem_putEvent.mpr (.inr he))
    · exact he

/-- An event as it stands once the dies of a list have skipped a cycle. -/
def shifted (ds : List Nat) (e : Nat × Instr) : Nat × Instr :=
  if (eventDie e.2).elim false ds.contains then (e.1 + phases * places, shiftEvent e.2) else e

theorem shiftAgenda_eq (ds : List Nat) (l : List (Nat × Instr)) :
    shiftAgenda ds l = l.foldl (fun m e => putEvent (shifted ds e).1 (shifted ds e).2 m) [] := by
  rw [shiftAgenda]
  congr 1
  funext m e
  rw [shifted]
  split <;> rfl

theorem mem_foldl_putEvent {f : Nat × Instr → Nat × Instr} {l m : List (Nat × Instr)} {x : Nat × Instr} :
    x ∈ l.foldl (fun m e => putEvent (f e).1 (f e).2 m) m ↔ x ∈ l.map f ∨ x ∈ m := by
  induction l generalizing m with
  | nil => simp
  | cons e l ih =>
    rw [List.foldl_cons, ih, mem_putEvent, List.map_cons, List.mem_cons]
    tauto

theorem mem_shiftAgenda {ds : List Nat} {l : List (Nat × Instr)} {e : Nat × Instr} (he : e ∈ l) : shifted ds e ∈ shiftAgenda ds l := by
  rw [shiftAgenda_eq, mem_foldl_putEvent]
  exact .inl (List.mem_map.mpr ⟨e, he, rfl⟩)

/-- What waits for the clock of a die that skips a cycle waits a cycle longer, and anything else is due as before (R430). -/
theorem mem_agenda_advanceClock {e : Nat × Instr} (he : e ∈ s.agenda) : shifted (skipNext s) e ∈ (advanceClock s).agenda := by
  change shifted (skipNext s) e ∈ (skipCycle (skipNext s) (timersTaken s)).agenda
  have ht : e ∈ (timersTaken s).agenda := mem_dueTimers he
  unfold skipCycle
  split
  case isTrue h =>
    simp only [Bool.and_eq_true, List.isEmpty_iff] at h
    have hn : shifted [] e = e := by
      rw [shifted, if_neg]
      cases eventDie e.2 <;> simp
    rw [h.1, hn]
    exact ht
  case isFalse => exact mem_shiftAgenda ht

theorem addSat64_zero (v : Word) : addSat64 v 0 = v := by
  have hv := v.isLt
  rw [addSat64, if_neg (by omega)]
  simp [word]

/-- STRETCHCNT at the end of a cycle. -/
theorem stretchCount_advanceClock : mreg (advanceClock s) 0x0928 = addSat64 (mreg s 0x0928) (skipNext s).length := by
  change mget _ (if (skipNext s).isEmpty then s.mregs else mset _ s.mregs 0x0928 (addSat64 (mreg s 0x0928) (skipNext s).length)) 0x0928 = _
  split
  case isTrue h =>
    rw [List.isEmpty_iff.mp h, List.length_nil, addSat64_zero]
    rfl
  case isFalse => exact mget_mset_same _ _ _ _

theorem clockHalved : Claims.ClockHalved := by
  intro s hs ht skips
  have hstep : step s = .next (advanceClock s) := by rw [step, ht]
  refine ⟨advanceClock s, hstep, fun d => ?_, ?_, fun e he => ⟨fun d hd hk => ?_, fun hk => ?_⟩⟩
  · have hd : dieAt (advanceClock s) d = skipDie (skipNext s) d (dieAt s d) := dieAt_skipCycle hs
    have hc : (skipNext s).contains d = skips d := contains_skipNext hs
    rw [hd, skipDie, hc]
    cases skips d <;> exact ⟨rfl, rfl⟩
  · rw [stretchCount_advanceClock, length_skipNext hs]
    rfl
  · have hm := mem_agenda_advanceClock he
    rwa [shifted, hd, Option.elim_some, contains_skipNext hs, if_pos (show Skips s d = true from hk)] at hm
  · have hm := mem_agenda_advanceClock he
    rwa [shifted, if_neg] at hm
    cases hd : eventDie e.2 with
    | none => simp
    | some d =>
      rw [Option.elim_some, contains_skipNext hs]
      exact Bool.eq_false_iff.mp (hk d hd)

end

end Sys2Proof.Machine

namespace Sys2Proof.Machine
open Sys2Proof

/-! ### Start-up -/

/-- A die that runs an image. -/
def DieUp (d : Nat) (t : State) : Prop := (dieAt t d).running = true ∧ (dieAt t d).image = true

/-- A port that trains. -/
def PortTrains (p : Nat) (t : State) : Prop := (portAt t p).training = true ∧ (portAt t p).up = false

/-- What each step of start-up keeps, with an image of version v. -/
structure StartRel (v : Nat) (s t : State) : Prop where
  cycle : t.cycle = s.cycle
  mem : t.mem = s.mem
  slots : t.slots = s.slots
  startup : t.startup = s.startup
  calibration : mreg t 0x0900 = mreg s 0x0900
  version : mreg s 0x0930 = word v → mreg t 0x0930 = word v
  dies : ∀ d, DieUp d s → DieUp d t
  ports : ∀ p, PortTrains p s → PortTrains p t

def startFrame (v : Nat) : Frame where
  rel := StartRel v
  refl _ := ⟨rfl, rfl, rfl, rfl, rfl, id, fun _ => id, fun _ => id⟩
  trans h k := ⟨k.cycle.trans h.cycle, k.mem.trans h.mem, k.slots.trans h.slots, k.startup.trans h.startup,
    k.calibration.trans h.calibration, fun hv => k.version (h.version hv), fun d hd => k.dies d (h.dies d hd),
    fun p hp => k.ports p (h.ports p hp)⟩
  cycle := StartRel.cycle

section
variable {v : Nat} {s : State}

/-- A change of nothing that start-up sets. -/
theorem start_emit {u : Upd} (h : ∀ s, (applyUpd u s).cycle = s.cycle ∧ (applyUpd u s).mem = s.mem ∧
    (applyUpd u s).slots = s.slots ∧ (applyUpd u s).startup = s.startup ∧ (applyUpd u s).mregs = s.mregs ∧
    (applyUpd u s).dies = s.dies ∧ (applyUpd u s).ports = s.ports) : Keeps (startFrame v) (emit u) :=
  keeps_emit fun s => by
    obtain ⟨hc, hm, hs, hu, hr, hd, hp⟩ := h s
    exact ⟨hc, hm, hs, hu, by simp only [mreg, hr], by simp only [mreg, hr, imp_self], fun d => by simp only [DieUp, dieAt, hd, imp_self],
      fun p => by simp only [PortTrains, portAt, hp, imp_self]⟩

theorem start_later {n phase place e} : Keeps (startFrame v) (later n phase place e) :=
  keeps_look_bind fun _ => start_emit fun _ => ⟨rfl, rfl, rfl, rfl, rfl, rfl, rfl⟩
theorem start_onTick {n e} : Keeps (startFrame v) (onTick n e) := start_emit fun _ => ⟨rfl, rfl, rfl, rfl, rfl, rfl, rfl⟩
theorem start_out {o} : Keeps (startFrame v) (emit (.out o)) := start_emit fun _ => ⟨rfl, rfl, rfl, rfl, rfl, rfl, rfl⟩
theorem start_timers {a : Act Unit} (h : Keeps timerFrame a) : Keeps (startFrame v) a :=
  h.mono fun s t (r : TimerRel s t) => by
    have ht := r.fields
    have hr : t.mregs = s.mregs := congrArg (·.mregs) ht
    have hd : t.dies = s.dies := congrArg (·.dies) ht
    have hp : t.ports = s.ports := congrArg (·.ports) ht
    exact ⟨congrArg (·.cycle) ht, congrArg (·.mem) ht, congrArg (·.slots) ht, congrArg (·.startup) ht, by simp only [mreg, hr],
      by simp only [mreg, hr, imp_self], fun d => by simp only [DieUp, dieAt, hd, imp_self],
      fun p => by simp only [PortTrains, portAt, hp, imp_self]⟩

/-- A port that trains goes on training. -/
theorem start_modPort {p : Nat} {f : Port → Port}
    (h : ∀ x : Port, x.training = true ∧ x.up = false → (f x).training = true ∧ (f x).up = false) : Keeps (startFrame v) (modPort p f) :=
  keeps_of_run (logged_modPort _ _) fun s => ⟨rfl, rfl, rfl, rfl, rfl, id, fun _ => id, fun q hq => by
    rw [PortTrains, run_modPort, portAt_changed]
    split
    case isTrue hp =>
      subst hp
      exact h _ hq
    case isFalse => exact hq⟩

theorem start_emitFlit {p f} : Keeps (startFrame v) (emitFlit p f) :=
  keeps_bind start_out fun _ => keeps_look_bind fun _ => keeps_bind (start_modPort fun _ => id) fun _ => keeps_onlyIf start_out

theorem start_insertAudit {p} : Keeps (startFrame v) (insertAudit p) :=
  keeps_look_bind fun _ => keeps_onlyIf (keeps_bind start_emitFlit fun _ => start_modPort fun _ => id)

theorem start_putControl {p kind data} : Keeps (startFrame v) (putControl p kind data) :=
  keeps_look_bind fun _ => keeps_bind start_emitFlit fun _ => start_insertAudit

/-- What follows the first step of a port's training. -/
def trainRest (s : State) (p : Nat) : Act Unit := do
  putControl p 6 ((portAt s p).rxSeq :: (portAt s p).window)
  onTick (s.tick + 100_000_000) (.retrainTimeout p)

theorem start_trainRest {p} : Keeps (startFrame v) (trainRest s p) := keeps_bind start_putControl fun _ => start_onTick

theorem trainPort_eq (p : Nat) : trainPort p = (do
    let s ← look id
    modPort p fun x => { x with up := false, training := true, trainingSince := some s.tick, timedOut := false }
    trainRest s p) := rfl

theorem start_trainPort {p} : Keeps (startFrame v) (trainPort p) := by
  rw [trainPort_eq]
  exact keeps_look_bind fun _ => keeps_bind (start_modPort fun _ _ => ⟨rfl, rfl⟩) fun _ => start_trainRest

theorem leaves_trainPort {p} : Leaves (PortTrains p) (trainPort p) := by
  rw [trainPort_eq]
  exact leaves_look fun s => leaves_keeps (F := startFrame 0)
    ⟨logged_modPort _ _, fun t => by
      rw [PortTrains, run_modPort, portAt_changed, if_pos rfl]
      exact ⟨rfl, rfl⟩⟩
    start_trainRest fun _ _ (r : StartRel _ _ _) h => r.ports p h

theorem start_startCore {c} : Keeps (startFrame v) (startCore c) :=
  keeps_look_bind fun _ => keeps_bind (keeps_onlyIf start_later) fun _ => start_later

theorem start_modDie {d : Nat} : Keeps (startFrame v) (modDie d fun x => { x with image := true, running := true }) :=
  keeps_of_run (logged_modDie _ _) fun s => ⟨rfl, rfl, rfl, rfl, rfl, id, fun e he => by
    rw [DieUp, run_modDie, dieAt_changed]
    split
    · exact ⟨rfl, rfl⟩
    · exact he, fun _ => id⟩

theorem start_version : Keeps (startFrame v) (emit (.mreg 0x0930 (word v))) :=
  keeps_emit fun s => ⟨rfl, rfl, rfl, rfl, (mreg_changed _ _ _ s).trans (if_neg (by omega)),
    fun _ => (mreg_changed _ _ _ s).trans (if_pos rfl), fun _ => id, fun _ => id⟩

theorem start_startDie {d} : Keeps (startFrame v) (startDie d v) :=
  keeps_bind start_modDie fun _ => keeps_bind start_version fun _ => start_timers timer_openElection

/-- A die that has started runs, and the version is that of its image. -/
def DieStarted (v d : Nat) (t : State) : Prop := DieUp d t ∧ mreg t 0x0930 = word v

theorem leaves_startDie {d} : Leaves (DieStarted v d) (startDie d v) :=
  ⟨(start_startDie (v := v)).logged, fun s => by
    have hr : TimerRel (dieStarted d v s) (run (startDie d v) s) := timer_startDie
    have hd : dieAt (dieStarted d v s) d = { dieAt s d with image := true, running := true } :=
      (dieAt_changed d d _ s).trans (if_pos rfl)
    have hm : mreg (dieStarted d v s) 0x0930 = word v := (mreg_changed _ _ _ _).trans (if_pos rfl)
    have hs : StartRel v (dieStarted d v s) (run (startDie d v) s) := by
      rw [run_startDie]
      exact (start_timers timer_openElection).run _
    refine ⟨hs.dies d ?_, hs.version hm⟩
    rw [DieUp, hd]
    exact ⟨rfl, rfl⟩⟩

/-- Start-up with a good image in flash, after its first change. -/
def startSteps (s : State) : Act Unit := do
  each (List.range 4) fun d => startDie d s.flash.image.version
  each (List.range 16) trainPort
  each (List.range 2304) startCore
  each (List.range 4) fun d => do
    onTick s.tick (.placementPass d)
    onTick (s.tick + watchTicks s) (.watchdogPeriod d)
  later 1 5 29001 (.sweepRequest sweepRoot 1 false)

/-- The last step of start-up: the sweeps begin. -/
def SweepPends (t : State) : Prop := (agendaKey (t.cycle + 1) 5 29001, Instr.sweepRequest sweepRoot 1 false) ∈ t.agenda

theorem leaves_sweep : Leaves SweepPends (later 1 5 29001 (.sweepRequest sweepRoot 1 false)) :=
  ⟨logged_later _ _ _ _, fun t => by
    rw [run_later, dueCycle_later _ _ (by omega)]
    exact mem_putEvent.mpr (.inl rfl)⟩

theorem start_cores : Keeps (startFrame v) (each (List.range 2304) startCore) := keeps_each fun _ => start_startCore
theorem start_ports : Keeps (startFrame v) (each (List.range 16) trainPort) := keeps_each fun _ => start_trainPort
theorem start_dies : Keeps (startFrame v) (each (List.range 4) fun d => startDie d v) := keeps_each fun _ => start_startDie
theorem start_watch {m n : Nat} : Keeps (startFrame v) (each (List.range 4) fun d =>
    onTick m (.placementPass d) >>= fun _ => onTick n (.watchdogPeriod d)) :=
  keeps_each fun _ => keeps_bind start_onTick fun _ => start_onTick

theorem start_startSteps : Keeps (startFrame s.flash.image.version) (startSteps s) :=
  keeps_bind start_dies fun _ => keeps_bind start_ports fun _ => keeps_bind start_cores fun _ => keeps_bind start_watch fun _ => start_later

theorem dieStarted_startSteps {d : Nat} (hd : d < 4) : Leaves (DieStarted s.flash.image.version d) (startSteps s) :=
  have hk : ∀ e t u, StartRel s.flash.image.version t u → DieStarted s.flash.image.version e t → DieStarted s.flash.image.version e u :=
    fun e _ _ r h => ⟨r.dies e h.1, r.version h.2⟩
  leaves_keeps (leaves_each (fun _ => start_startDie) hk (fun _ => leaves_startDie) (List.mem_range.mpr hd))
    (keeps_bind start_ports fun _ => keeps_bind start_cores fun _ => keeps_bind start_watch fun _ => start_later) (hk d)

theorem portTrains_startSteps {p : Nat} (hp : p < 16) : Leaves (PortTrains p) (startSteps s) :=
  have hk : ∀ q t u, StartRel 0 t u → PortTrains q t → PortTrains q u := fun q _ _ r => r.ports q
  leaves_seq (start_dies (v := s.flash.image.version)) (leaves_keeps
    (leaves_each (fun _ => start_trainPort) hk (fun _ => leaves_trainPort) (List.mem_range.mpr hp))
    (keeps_bind start_cores fun _ => keeps_bind start_watch fun _ => start_later) (hk p))

theorem sweepPends_startSteps : Leaves SweepPends (startSteps s) :=
  leaves_seq start_dies (leaves_seq (start_ports (v := 0)) (leaves_seq (start_cores (v := 0))
    (leaves_seq (start_watch (v := 0)) leaves_sweep)))

theorem powerOnReset_startUp (hs : s.startup = true) (hg : imageGood s s.flash.image = true) :
    exec .powerOnReset s = .next (run (startSteps s) (applyUpd (.startup false) s)) := by
  have hx : exec .powerOnReset s = .next (run (if s.startup then startUp else emit .powerOn) s) := rfl
  have hu : run startUp s = run (emit (.startup false) >>= fun _ => startSteps s) s := by
    rw [startUp, run_look_bind]
    simp only [id, hg, if_true, startSteps]
  rw [hx, hs, if_pos rfl, hu, run_seq (logged_emit _) start_startSteps.logged]
  rfl

theorem startsUp_spec (hs : s.startup = true) (hg : imageGood s s.flash.image = true) :
    ∃ u, exec .powerOnReset s = .next u ∧ Quiet s u ∧
    u.startup = false ∧ mreg u 0x0900 = mreg s 0x0900 ∧ mreg u 0x0930 = word s.flash.image.version ∧
    (∀ d, d < 4 → (dieAt u d).running = true ∧ (dieAt u d).image = true) ∧
    (∀ p, p < 16 → (portAt u p).training = true ∧ (portAt u p).up = false) ∧
    Pends s u 1 5 29001 (.sweepRequest 2304 1 false) := by
  have hr : StartRel s.flash.image.version (applyUpd (.startup false) s) (run (startSteps s) (applyUpd (.startup false) s)) :=
    start_startSteps.run _
  have hd (d : Nat) (h : d < 4) := (dieStarted_startSteps (s := s) h).post (applyUpd (.startup false) s)
  have hp (p : Nat) (h : p < 16) := (portTrains_startSteps (s := s) h).post (applyUpd (.startup false) s)
  have hw : SweepPends (run (startSteps s) (applyUpd (.startup false) s)) := sweepPends_startSteps.post _
  refine ⟨_, powerOnReset_startUp hs hg, ⟨hr.mem, hr.slots⟩, hr.startup, hr.calibration, (hd 0 (by omega)).2, fun d h => (hd d h).1, hp, ?_⟩
  rw [Pends, dueCycle_later _ _ (by omega)]
  rw [SweepPends, hr.cycle] at hw
  exact hw

end

theorem startsUp : Claims.StartsUp := by
  refine ⟨fun s h => ?_, fun s b => ?_, fun s => startsUp_spec⟩
  · have hx : exec .powerOnReset s = .next (run (if s.startup then startUp else emit .powerOn) s) := rfl
    rw [hx, h]
    rfl
  · cases b <;> rfl

/-- Settles O59: start-up by what each of its steps keeps and brings about, fences by the frame of all that ends work, the clock by the
fields of a skipped cycle, the tick and the images by the one action of each. -/
theorem upkeep : Obligations.Upkeep := ⟨startsUp, eccErrors, dieFences, powerAndHeat, clockHalved, tickSyncs, images⟩

end Sys2Proof.Machine

namespace Sys2Proof.Machine
open Sys2Proof

/-! ### Values after reset -/

/-- Of the registers of the module only the one at 0x0400 does not reset to 0. -/
theorem modRegReset_zero {off : Nat} (h : off ≠ 0x0400) : modRegReset off = 0 := by
  unfold modRegReset
  split
  · exact absurd rfl h
  · rfl

/-- Settles O9: every map of the reset state is empty, so every part reads as its default, which computes. -/
theorem resetValues : Obligations.ResetValues := by
  refine ⟨rfl, rfl, rfl, ?_, ?_, ?_, ?_, ?_, ?_, ?_, ?_, rfl, rfl⟩
  case refine_1 => exact fun off h => modRegReset_zero h
  case refine_2 => exact fun c => ⟨rfl, rfl, rfl, rfl, rfl, rfl⟩
  case refine_3 => exact fun c k => ⟨rfl, rfl⟩
  case refine_4 => exact fun c i => ⟨rfl, rfl, rfl, rfl, rfl, rfl, rfl, rfl⟩
  case refine_5 => exact fun c m => ⟨rfl, rfl⟩
  case refine_6 => exact fun c n => ⟨rfl, rfl, rfl, rfl, rfl, rfl, rfl, rfl⟩
  case refine_7 => exact fun pa h => ⟨rfl, rfl⟩
  case refine_8 => exact fun n => ⟨rfl, rfl⟩

end Sys2Proof.Machine

namespace Sys2Proof.Machine
open Sys2Proof

/-! ### What a port changes -/

/-- What a port leaves as it was that sends flits or frees entries: all but the ports and what has left the module, of which nothing is
lost. -/
structure PortsRel (s t : State) : Prop where
  fields : t = { s with ports := t.ports, out := t.out }
  out : ∀ o ∈ s.out, o ∈ t.out

theorem PortsRel.refl (s : State) : PortsRel s s := ⟨rfl, fun _ h => h⟩

theorem PortsRel.trans {s t u : State} (h : PortsRel s t) (k : PortsRel t u) : PortsRel s u where
  fields := by
    have hk := k.fields
    rw [h.fields] at hk
    exact hk
  out o ho := k.out o (h.out o ho)

def portsFrame : Frame where
  rel := PortsRel
  refl := PortsRel.refl
  trans := PortsRel.trans
  cycle h := by rw [h.fields]

/-- A port that has only sent flits: all but the marker period and what it counts for its audits is as it was. -/
def SameLink (x y : Port) : Prop :=
  y = { x with period := y.period, sinceAudit := y.sinceAudit, usedSinceAudit := y.usedSinceAudit }

/-- What flits that leave port p leave as it was. -/
structure LinkRel (p : Nat) (s t : State) : Prop extends PortsRel s t where
  port : SameLink (portAt s p) (portAt t p)

def linkFrame (p : Nat) : Frame where
  rel := LinkRel p
  refl s := ⟨PortsRel.refl s, rfl⟩
  trans h k := ⟨h.toPortsRel.trans k.toPortsRel, by
    have hk : SameLink _ _ := k.port
    have hh : SameLink _ _ := h.port
    unfold SameLink at hk hh ⊢
    rw [hh] at hk
    exact hk⟩
  cycle h := by rw [h.fields]

theorem PortsRel.quiet {s t : State} (h : PortsRel s t) : Quiet s t := ⟨by rw [h.fields], by rw [h.fields]⟩
theorem PortsRel.mreg {s t : State} (h : PortsRel s t) (off : Nat) : mreg t off = mreg s off := by
  rw [h.fields]
  rfl
theorem PortsRel.routerAt {s t : State} (h : PortsRel s t) (r : Nat) : routerAt t r = routerAt s r := by
  rw [h.fields]
  rfl

section
variable {p : Nat}

theorem Keeps.ports {α : Type} {a : Act α} (h : Keeps (linkFrame p) a) : Keeps portsFrame a :=
  h.mono fun _ _ (r : LinkRel p _ _) => r.toPortsRel

theorem ports_modPort {f : Port → Port} : Keeps portsFrame (modPort p f) :=
  keeps_look_bind fun _ => keeps_emit fun _ => ⟨rfl, fun _ h => h⟩

theorem link_out {o : Out} : Keeps (linkFrame p) (emit (.out o)) :=
  keeps_emit fun _ => ⟨⟨rfl, fun _ h => List.mem_append_left _ h⟩, rfl⟩

theorem link_modPort {f : Port → Port} (h : ∀ x, SameLink x (f x)) : Keeps (linkFrame p) (modPort p f) :=
  keeps_of_run (logged_modPort _ _) fun s => ⟨⟨rfl, fun _ h => h⟩, by
    rw [run_modPort, portAt_changed, if_pos rfl]
    exact h _⟩

/-! ### Flits that leave a port -/

/-- A port after a flit. -/
def sentFlit (g : Flit) (x : Port) : Port :=
  { x with sinceAudit := x.sinceAudit + 1, period := if x.period.length + 1 < 25 then x.period ++ [g] else [] }

/-- The control flit of a KIND that a port sends (R318). -/
def controlFlit (x : Port) (kind : Nat) (data : List Nat) : Flit := flitOf x kind 2 x.txSeq [] data false

/-- What follows a flit on its way out. -/
def countFlit (p : Nat) (g : Flit) : Act Unit := do
  let x ← look (portAt · p)
  let l := x.period ++ [g]
  modPort p fun y => { y with period := if l.length < 25 then l else [], sinceAudit := y.sinceAudit + 1 }
  onlyIf (decide (25 ≤ l.length)) (emit (.out (.marker p ((List.range 8).map (laneMarker l)))))

theorem link_countFlit {g : Flit} : Keeps (linkFrame p) (countFlit p g) :=
  keeps_look_bind fun _ => keeps_bind (link_modPort fun _ => rfl) fun _ => keeps_onlyIf link_out

theorem link_emitFlit {g : Flit} : Keeps (linkFrame p) (emitFlit p g) := keeps_bind link_out fun _ => link_countFlit

theorem link_insertAudit : Keeps (linkFrame p) (insertAudit p) :=
  keeps_look_bind fun _ => keeps_onlyIf (keeps_bind link_emitFlit fun _ => link_modPort fun _ => rfl)

theorem link_putFlit {g : Flit} : Keeps (linkFrame p) (putFlit p g) := keeps_bind link_emitFlit fun _ => link_insertAudit

theorem link_putControl {kind : Nat} {data : List Nat} : Keeps (linkFrame p) (putControl p kind data) :=
  keeps_look_bind fun _ => link_putFlit

theorem emitFlit_sends (g : Flit) (s : State) : Out.flit p g ∈ (run (emitFlit p g) s).out := by
  have hr : run (emitFlit p g) s = run (countFlit p g) (applyUpd (.out (.flit p g)) s) := run_seq (logged_emit _) link_countFlit.logged s
  rw [hr]
  exact (link_countFlit.run _).out _ (List.mem_append_right _ (List.mem_singleton.mpr rfl))

theorem putFlit_sends (g : Flit) (s : State) : Out.flit p g ∈ (run (putFlit p g) s).out := by
  rw [putFlit, run_seq link_emitFlit.logged link_insertAudit.logged]
  exact (link_insertAudit.run _).out _ (emitFlit_sends g s)

theorem putControl_sends (kind : Nat) (data : List Nat) (s : State) :
    Out.flit p (controlFlit (portAt s p) kind data) ∈ (run (putControl p kind data) s).out := by
  rw [putControl, run_look_bind]
  exact putFlit_sends _ s

theorem portAt_emitFlit (g : Flit) (s : State) : portAt (run (emitFlit p g) s) p = sentFlit g (portAt s p) := by
  have hr : run (emitFlit p g) s = run (onlyIf (decide (25 ≤ ((portAt s p).period ++ [g]).length))
      (emit (.out (.marker p ((List.range 8).map (laneMarker ((portAt s p).period ++ [g])))))))
      (applyUpd (.port p (sentFlit g (portAt s p))) (applyUpd (.out (.flit p g)) s)) := by
    have hc : run (emitFlit p g) s = run (countFlit p g) (applyUpd (.out (.flit p g)) s) :=
      run_seq (logged_emit _) link_countFlit.logged s
    rw [hc, countFlit, run_look_bind, run_seq (logged_modPort _ _) (logged_onlyIf _ (logged_emit _)), run_modPort]
    simp only [sentFlit, List.length_append, List.length_singleton]
    rfl
  rw [hr, run_onlyIf]
  have hp : portAt (applyUpd (.port p (sentFlit g (portAt s p))) (applyUpd (.out (.flit p g)) s)) p = sentFlit g (portAt s p) :=
    (portAt_changed _ _ _ _).trans (if_pos rfl)
  split <;> exact hp

/-- A port sends no audit while it is down or has sent few flits. -/
theorem run_insertAudit_none {s : State} (h : (portAt s p).up = false ∨ (portAt s p).sinceAudit < 4096) : run (insertAudit p) s = s := by
  have hc : ((portAt s p).up && !(portAt s p).training && decide (4096 ≤ (portAt s p).sinceAudit)) = false := by
    rcases h with h | h
    · rw [h, Bool.false_and, Bool.false_and]
    · rw [decide_eq_false (Nat.not_le.mpr h), Bool.and_false]
  rw [insertAudit, run_look_bind, hc, run_onlyIf]
  rfl

theorem portAt_putControl {s : State} (kind : Nat) (data : List Nat) (h : (portAt s p).up = false ∨ (portAt s p).sinceAudit + 1 < 4096) :
    portAt (run (putControl p kind data) s) p = sentFlit (controlFlit (portAt s p) kind data) (portAt s p) := by
  have he := portAt_emitFlit (p := p) (controlFlit (portAt s p) kind data) s
  rw [putControl, run_look_bind, putFlit, run_seq link_emitFlit.logged link_insertAudit.logged, run_insertAudit_none]
  · exact he
  · change (portAt (run (emitFlit p (controlFlit (portAt s p) kind data)) s) p).up = false ∨
      (portAt (run (emitFlit p (controlFlit (portAt s p) kind data)) s) p).sinceAudit < 4096
    rw [he]
    exact h

/-- The CRC covers all of a flit but itself. -/
theorem flitCrc_sealFlit (g : Flit) : flitCrc (sealFlit g) = flitCrc g := by
  cases g
  simp only [flitCrc, flitHeader, flitBody, sealFlit]

/-- A flit as it leaves passes its check: the CRC is that of its other bytes (R318). -/
theorem flitGood_sealFlit {g : Flit} (h : g.kind ≤ 6) : flitGood (sealFlit g) = true := by
  cases g
  rw [flitGood, flitCrc_sealFlit]
  exact Bool.and_eq_true_iff.mpr ⟨decide_eq_true h, decide_eq_true rfl⟩

theorem flitGood_flitOf {x : Port} {kind vc seq : Nat} {body : List FabricMsg} {data : List Nat} {void : Bool} (h : kind ≤ 6) :
    flitGood (flitOf x kind vc seq body data void) = true := by
  rw [flitOf]
  exact flitGood_sealFlit h

theorem run_countPort (off : Nat) (s : State) : run (countPort p off) s =
    applyUpd (.mreg (0x2_0000 + 0x100 * p + off) (addSat64 (mreg s (0x2_0000 + 0x100 * p + off)) 1)) s := rfl

theorem logged_countPort (off : Nat) : Logged (countPort p off) := logged_countMreg _ _

theorem mreg_countPort (off : Nat) (s : State) : mreg (run (countPort p off) s) (0x2_0000 + 0x100 * p + off) =
    addSat64 (mreg s (0x2_0000 + 0x100 * p + off)) 1 := (mreg_changed _ _ _ _).trans (if_pos rfl)

end

/-! ### Retraining -/

section
variable {s : State} {p : Nat} {f : Flit}

/-- The port as it begins to train. -/
def trained (t : Nat) (x : Port) : Port := { x with up := false, training := true, trainingSince := some t, timedOut := false }

/-- The state as a port begins to train, before its restart flit. -/
def trainingBegun (p : Nat) (s : State) : State := applyUpd (.port p (trained s.tick (portAt s p))) s

theorem portAt_trainingBegun : portAt (trainingBegun p s) p = trained s.tick (portAt s p) := (portAt_changed _ _ _ _).trans (if_pos rfl)

theorem run_trainPort : run (trainPort p) s = applyUpd (.timer (s.tick + 100_000_000) (.retrainTimeout p))
    (run (putControl p 6 ((portAt s p).rxSeq :: (portAt s p).window)) (trainingBegun p s)) := by
  have ha : run (trainPort p) s = run (trainRest s p) (trainingBegun p s) := by
    rw [trainPort_eq, run_look_bind, run_seq (logged_modPort _ _) (start_trainRest (v := 0)).logged]
    rfl
  rw [ha, trainRest, run_seq link_putControl.logged timer_onTick.logged]
  rfl

/-- A port that begins to train tells the SEQ and the free entries that it has (R322). -/
theorem trainPort_spec : ∃ g, portAt (run (trainPort p) s) p = sentFlit g (trained s.tick (portAt s p)) ∧
    Quiet s (run (trainPort p) s) ∧ Timed (run (trainPort p) s) (s.tick + 100_000_000) (.retrainTimeout p) ∧
    Out.flit p g ∈ (run (trainPort p) s).out ∧ g.kind = 6 ∧ g.data = (portAt s p).rxSeq :: (portAt s p).window := by
  rw [run_trainPort]
  have hq := portAt_putControl (s := trainingBegun p s) (p := p) 6 ((portAt s p).rxSeq :: (portAt s p).window)
    (.inl (by rw [portAt_trainingBegun]; rfl))
  have ho := putControl_sends (p := p) 6 ((portAt s p).rxSeq :: (portAt s p).window) (trainingBegun p s)
  have hr : LinkRel p (trainingBegun p s) _ := (link_putControl (kind := 6) (data := (portAt s p).rxSeq :: (portAt s p).window)).run _
  rw [portAt_trainingBegun] at hq ho
  generalize run (putControl p 6 ((portAt s p).rxSeq :: (portAt s p).window)) (trainingBegun p s) = v at hq ho hr
  exact ⟨_, hq, hr.quiet, mem_putEvent.mpr (.inl rfl), ho, rfl, rfl⟩

theorem run_retrain (h : (portAt s p).training = false) : run (retrain p) s = run (trainPort p) s := by
  rw [retrain, run_look_bind, run_onlyIf, h]
  rfl

theorem run_retrain_training (h : (portAt s p).training = true) : run (retrain p) s = s := by
  rw [retrain, run_look_bind, run_onlyIf, h]
  rfl

end

/-! ### The header of a flit that arrives -/

theorem Quiet.trans {s t u : State} (h : Quiet s t) (k : Quiet t u) : Quiet s u := ⟨k.1.trans h.1, k.2.trans h.2⟩

theorem quiet_port {s : State} {p : Nat} {x : Port} : Quiet s (applyUpd (.port p x) s) := ⟨rfl, rfl⟩

theorem quiet_countPort {s : State} {p : Nat} (off : Nat) : Quiet s (run (countPort p off) s) := ⟨rfl, rfl⟩

/-- A port that is up and has nothing to send. -/
structure PortIdle (s : State) (p : Nat) : Prop where
  up : (portAt s p).up = true
  training : (portAt s p).training = false
  queue : (portAt s p).queue = []

theorem PortIdle.running {s : State} {p : Nat} (h : PortIdle s p) : ((portAt s p).up && !(portAt s p).training) = true := by
  rw [h.up, h.training]
  rfl

/-- A port after the header of a good flit (R318-R320). -/
def takeHead (f : Flit) (x : Port) : Port :=
  { x with
    crcRun := 0, acked := f.ackseq, replay := x.replay.filter fun e => !seqFrom e.1 f.ackseq,
    avail := (List.range 4).map fun v => x.avail.getD v 0 + (f.freed.getD v 0 + 2 ^ 16 - x.fseen.getD v 0) % 2 ^ 16,
    fseen := (List.range 4).map fun v => f.freed.getD v 0 }

/-- The state after the header of a good flit. -/
def headed (p : Nat) (f : Flit) (s : State) : State := applyUpd (.port p (takeHead f (portAt s p))) s

/-- A port has taken what a header tells of the flits acknowledged and the entries freed at the other end. -/
def Heard (f : Flit) (x y : Port) : Prop :=
  y.acked = f.ackseq ∧ y.replay = x.replay.filter (fun e => !seqFrom e.1 f.ackseq) ∧
    ∀ v, v < 4 → y.avail.getD v 0 = x.avail.getD v 0 + (f.freed.getD v 0 + 2 ^ 16 - x.fseen.getD v 0) % 2 ^ 16

theorem getD_map_range {n v : Nat} (g : Nat → Nat) (h : v < n) : ((List.range n).map g).getD v 0 = g v := by
  simp [List.getD_eq_getElem?_getD, h]

theorem getD_onNth {v : Nat} {l : List Nat} (g : Nat → Nat) (h : v < l.length) : (onNth v g l).getD v 0 = g (l.getD v 0) := by
  rw [onNth, getD_map_range _ h, if_pos rfl]

section
variable {s : State} {p : Nat} {f : Flit}

theorem portAt_headed : portAt (headed p f s) p = takeHead f (portAt s p) := (portAt_changed _ _ _ _).trans (if_pos rfl)

theorem heard_takeHead {x : Port} : Heard f x (takeHead f x) := ⟨rfl, rfl, fun _ h => getD_map_range _ h⟩

/-- A port with an empty queue has nothing to send. -/
theorem run_pumpAll_none (h : (portAt s p).queue = []) : run (pumpAll p) s = s := by
  rw [pumpAll, run_look_bind, h]
  rfl

theorem run_takeHeader (h : (portAt s p).queue = []) : run (takeHeader p f) s = headed p f s := by
  have hs : run (takeHeader p f) s = run (pumpAll p) (headed p f s) := run_seq (logged_modPort _ _) clock_pumpAll.logged s
  rw [hs, run_pumpAll_none]
  rw [portAt_headed]
  exact h

theorem run_goodFlit {a : Act Unit} (h : PortIdle s p) (hg : flitGood f = true) (ha : Logged a) :
    run (goodFlit p f a) s = run a (headed p f s) := by
  rw [goodFlit, run_look_bind, run_onlyIf, h.running, if_pos rfl, if_pos hg, run_seq clock_takeHeader.logged ha,
    run_takeHeader h.queue]

theorem run_goodFlit_bad {a : Act Unit} (h : PortIdle s p) (hg : flitGood f = false) : run (goodFlit p f a) s = run (badFlit p) s := by
  rw [goodFlit, run_look_bind, run_onlyIf, h.running, if_pos rfl, if_neg (by rw [hg]; exact Bool.false_ne_true)]

/-! ### A flit that fails its check -/

/-- The state after a flit that fails its check, before the port asks for its replay. -/
def badCounted (p : Nat) (s : State) : State :=
  applyUpd (.port p { portAt s p with crcRun := (portAt s p).crcRun + 1 }) (run (countPort p 0x20) s)

theorem portAt_badCounted : portAt (badCounted p s) p = { portAt s p with crcRun := (portAt s p).crcRun + 1 } :=
  (portAt_changed _ _ _ _).trans (if_pos rfl)

theorem quiet_badCounted : Quiet s (badCounted p s) := (quiet_countPort 0x20).trans quiet_port

theorem mreg_port {x : Port} (off : Nat) : mreg (applyUpd (.port p x) s) off = mreg s off := rfl

theorem run_badFlit (h : (portAt s p).crcRun + 1 < 64) :
    run (badFlit p) s = run (putControl p 5 [(portAt s p).rxSeq]) (badCounted p s) := by
  have hl : Logged (onlyIf (decide (64 ≤ (portAt s p).crcRun + 1)) (retrain p)) := logged_onlyIf _ clock_retrain.logged
  have hp : Logged (putControl p 5 [(portAt s p).rxSeq] >>= fun _ => onlyIf (decide (64 ≤ (portAt s p).crcRun + 1)) (retrain p)) :=
    logged_bind link_putControl.logged fun _ => hl
  rw [badFlit, run_look_bind, run_seq (logged_countPort _) (logged_bind (logged_modPort _ _) fun _ => hp),
    run_seq (logged_modPort _ _) hp, run_seq link_putControl.logged hl, run_onlyIf, decide_eq_false (Nat.not_le.mpr h),
    if_neg Bool.false_ne_true]
  rfl

/-- A flit that fails its check is counted, and the port answers with the SEQ that it expects (R318, R319). -/
theorem badFlit_spec (hc : (portAt s p).crcRun + 1 < 64) (ha : (portAt s p).sinceAudit + 1 < 4096) : ∃ g,
    portAt (run (badFlit p) s) p = sentFlit g { portAt s p with crcRun := (portAt s p).crcRun + 1 } ∧
    Out.flit p g ∈ (run (badFlit p) s).out ∧ g.kind = 5 ∧ g.data = [(portAt s p).rxSeq] ∧
    mreg (run (badFlit p) s) (0x2_0000 + 0x100 * p + 0x20) = addSat64 (mreg s (0x2_0000 + 0x100 * p + 0x20)) 1 ∧
    Quiet s (run (badFlit p) s) := by
  have hq := portAt_putControl (s := badCounted p s) (p := p) 5 [(portAt s p).rxSeq] (.inr (by rw [portAt_badCounted]; exact ha))
  have ho := putControl_sends (p := p) 5 [(portAt s p).rxSeq] (badCounted p s)
  have hr : LinkRel p (badCounted p s) _ := (link_putControl (kind := 5) (data := [(portAt s p).rxSeq])).run _
  rw [portAt_badCounted] at hq ho
  rw [run_badFlit hc]
  generalize run (putControl p 5 [(portAt s p).rxSeq]) (badCounted p s) = u at hq ho hr
  refine ⟨_, hq, ho, rfl, rfl, ?_, quiet_badCounted.trans hr.quiet⟩
  rw [hr.mreg, badCounted, mreg_port, mreg_countPort]

end

end Sys2Proof.Machine

namespace Sys2Proof.Machine
open Sys2Proof

/-! ### A data flit in sequence -/

/-- A port after a data flit in sequence has taken an entry of its channel, or else a spare (R320). -/
def takes (f : Flit) (x : Port) : Port :=
  let spare := decide (x.window.getD f.vc 0 = 0)
  { x with
    rxSeq := (x.rxSeq + 1) % 2 ^ 16,
    window := if spare then x.window else onNth f.vc (· - 1) x.window,
    spares := if spare then onNth f.vc (· - 1) x.spares else x.spares }

/-- LNKSPARE counts a data flit that takes a spare. -/
def countSpare (p : Nat) (f : Flit) (x : Port) : Act Unit := onlyIf (decide (x.window.getD f.vc 0 = 0)) (countPort p 0x18)

/-- The entry holds its packets until they have gone on from the corner router. -/
def holdEntry (p vc : Nat) (ids : List Nat) : Act Unit := do
  modPort p fun y => { y with holding := y.holding ++ [(vc, ids)] }
  freeWindow p

/-- The state after a data flit has taken its entry, before its packets enter the mesh. -/
def entryTaken (p : Nat) (f : Flit) (s : State) : State :=
  let t := run (countSpare p f (portAt s p)) s
  applyUpd (.port p (takes f (portAt t p))) t

section
variable {s t : State} {p : Nat} {f : Flit}

theorem logged_countSpare {x : Port} : Logged (countSpare p f x) := logged_onlyIf _ (logged_countPort _)

theorem run_takeEntry : run (takeEntry p f) s =
    run (eachPacket f.body (takeFabric p f.void) >>= holdEntry p f.vc) (entryTaken p f s) := by
  have hh : ∀ ids, Logged (holdEntry p f.vc ids) := fun _ => logged_bind (logged_modPort _ _) fun _ => clock_freeWindow.logged
  have he : Logged (eachPacket f.body (takeFabric p f.void) >>= holdEntry p f.vc) :=
    logged_bind (clock_eachPacket fun _ => clock_takeFabric).logged hh
  have hx : run (takeEntry p f) s = run (countSpare p f (portAt s p) >>= fun _ => modPort p (fun y =>
      { y with
        rxSeq := (y.rxSeq + 1) % 2 ^ 16,
        window := if decide ((portAt s p).window.getD f.vc 0 = 0) then y.window else onNth f.vc (· - 1) y.window,
        spares := if decide ((portAt s p).window.getD f.vc 0 = 0) then onNth f.vc (· - 1) y.spares else y.spares }) >>= fun _ =>
      (eachPacket f.body (takeFabric p f.void) >>= holdEntry p f.vc)) s := rfl
  have hc : portAt (run (countSpare p f (portAt s p)) s) p = portAt s p := by
    rw [countSpare, run_onlyIf]
    split <;> rfl
  rw [hx, run_seq logged_countSpare (logged_bind (logged_modPort _ _) fun _ => he), run_seq (logged_modPort _ _) he, run_modPort, entryTaken]
  simp only [takes, hc]

theorem portAt_entryTaken : portAt (entryTaken p f s) p = takes f (portAt s p) := by
  have hc : portAt (run (countSpare p f (portAt s p)) s) p = portAt s p := by
    rw [countSpare, run_onlyIf]
    split <;> rfl
  rw [entryTaken]
  simp only [portAt_changed, if_true, hc]

theorem quiet_entryTaken : Quiet s (entryTaken p f s) := by
  rw [entryTaken, countSpare, run_onlyIf]
  split
  · exact (quiet_countPort 0x18).trans quiet_port
  · exact quiet_port

/-- Of the registers of the module only LNKSPARE of the port counts. -/
theorem mreg_entryTaken {off : Nat} (h : off ≠ 0x2_0000 + 0x100 * p + 0x18) : mreg (entryTaken p f s) off = mreg s off := by
  rw [entryTaken, mreg_port, countSpare, run_onlyIf]
  split
  · rw [run_countPort, mreg_changed, if_neg h]
  · rfl

theorem mreg_entryTaken_spare (h : (portAt s p).window.getD f.vc 0 = 0) :
    mreg (entryTaken p f s) (0x2_0000 + 0x100 * p + 0x18) = addSat64 (mreg s (0x2_0000 + 0x100 * p + 0x18)) 1 := by
  rw [entryTaken, mreg_port, countSpare, run_onlyIf, decide_eq_true h, if_pos rfl, mreg_countPort]

/-! ### The store word that it brings -/

theorem localPa_congr (h : mreg t 0x0410 = mreg s 0x0410) (pa : Nat) : localPa t pa = localPa s pa := by
  rw [localPa, localPa, nodeId, nodeId, h]

theorem foreignDest_congr (h : mreg t 0x0920 = mreg s 0x0920) (pa : Nat) : foreignDest t pa = foreignDest s pa := by
  have hf (d : Nat) : dieFenced t d = dieFenced s d := by rw [dieFenced, dieFenced, h]
  have hg (d w : Nat) : reachable t (.gddr d w) = reachable s (.gddr d w) := by rw [reachable, reachable, hf]
  have hc (c o : Nat) : reachable t (.cistern c o) = reachable s (.cistern c o) := by rw [reachable, reachable, hf]
  rw [foreignDest, foreignDest]
  cases localOwner pa with
  | gddr d w => dsimp only; rw [hg]
  | cistern c o => dsimp only; rw [hc]
  | _ => rfl

/-- The store word of another node as this module serves it. -/
def servedWord (s : State) (node : Nat) (w : StoreWord) : StoreWord :=
  { w with word := localPa s (w.word * 8) / 8, asker := .peer node, tag := none }

/-- The packet that carries it to its owner. -/
def servedPacket (s : State) (node c : Nat) (w : StoreWord) (id : Nat) : Packet :=
  ⟨id, .core c, (servedWord s node w).slack, (servedWord s node w).exh, 2304, none, .store (servedWord s node w), 6, 0, none⟩

theorem servedWord_word (s : State) (node : Nat) (w : StoreWord) : (servedWord s node w).word = localPa s (w.word * 8) / 8 := by
  cases w
  rfl

theorem servedWord_slack (s : State) (node : Nat) (w : StoreWord) : (servedWord s node w).slack = w.slack ∧ (servedWord s node w).exh = w.exh := by
  cases w
  exact ⟨rfl, rfl⟩

theorem run_storeArrives {node c : Nat} {w : StoreWord} {void : Bool} {k : List Nat → Act Unit} (hk : ∀ l, Logged (k l))
    (hd : foreignDest s (localPa s (w.word * 8) / 8 * 8) = some (.core c)) :
    run (eachPacket [.store node w] (takeFabric p void) >>= k) s =
      run (k [s.nextId]) (run (enterRouter (cornerRouter p) 6 (servedPacket s node c w s.nextId)) (applyUpd .newId s)) := by
  have hd' : foreignDest s ((servedWord s node w).word * 8) = some (.core c) := by
    rw [servedWord_word]
    exact hd
  have hx : eachPacket [.store node w] (takeFabric p void) >>= k = look id >>= fun s => takeStore p (servedWord s node w) >>= k := by
    simp only [eachPacket, takeFabric, bind_assoc, pure_bind, List.append_nil]
    rfl
  rw [hx, run_look_bind, takeStore, bind_assoc, run_look_bind]
  simp only [id, hd', bind_assoc]
  simp only [injectPacket, bind_assoc, pure_bind]
  have hj : ∀ id, Logged (enterRouter (cornerRouter p) 6 (servedPacket s node c w id) >>= fun _ => k [id]) :=
    fun id => logged_bind mail_enterRouter.logged fun _ => hk _
  have hi := run_freshId (s := s) (k := fun id => enterRouter (cornerRouter p) 6 (servedPacket s node c w id) >>= fun _ => k [id]) hj
  rw [run_seq mail_enterRouter.logged (hk _)] at hi
  exact hi

end
end Sys2Proof.Machine

namespace Sys2Proof.Machine
open Sys2Proof

/-! ### What a data flit does -/

section
variable {s t : State} {p : Nat} {f : Flit}

theorem run_freeWindow_none (h : ∀ e ∈ (portAt s p).holding, e.2.isEmpty = false) : run (freeWindow p) s = s := by
  have hd : ((portAt s p).holding.filter fun e => e.2.isEmpty) = [] :=
    List.filter_eq_nil_iff.mpr fun e he => by rw [h e he]; exact Bool.false_ne_true
  rw [freeWindow, run_look_bind, hd, run_onlyIf]
  rfl

/-- A port with nothing to send tells what it has received by an idle flit. -/
theorem run_tellPort (h : PortIdle s p) : run (tellPort p) s = run (putControl p 1 []) s := by
  have hl (x : Port) : Logged (onlyIf (decide (x.txSeq = (portAt s p).txSeq)) (putControl p 1 [])) := logged_onlyIf _ link_putControl.logged
  rw [tellPort, run_look_bind, run_onlyIf, h.running, if_pos rfl,
    run_seq clock_pumpAll.logged (logged_bind (logged_look _) fun x => hl x), run_pumpAll_none h.queue, run_look_bind, run_onlyIf,
    decide_eq_true rfl, if_pos rfl]

/-- What a data flit does at a port that is up (R319, R320). -/
def dataSteps (p : Nat) (f : Flit) (x : Port) : Act Unit :=
  if !flitGood f then badFlit p
  else if f.seq ≠ x.rxSeq then modPort p fun x => { x with crcRun := 0 }
  else if x.window.getD f.vc 0 = 0 ∧ x.spares.getD f.vc 0 = 0 then retrain p
  else do
    takeHeader p f
    takeEntry p f
    tellPort p

theorem exec_dataFlit (h : PortIdle s p) : exec (.dataFlit p f) s = .next (run (dataSteps p f (portAt s p)) s) := by
  have hx : exec (.dataFlit p f) s =
      .next (run (onlyIf ((portAt s p).up && !(portAt s p).training) (dataSteps p f (portAt s p))) s) := rfl
  rw [hx, run_onlyIf, h.running, if_pos rfl]

/-! ### Packets that enter a router, and the ports -/

theorem portAt_enterRouter {r i q : Nat} {k : Packet} : portAt (run (enterRouter r i k) s) q = portAt s q := by
  have hr : NetRel s (run (enterRouter r i k) s) := net_enterRouter.run s
  rw [hr.fields]
  rfl

theorem portAt_newId (q : Nat) : portAt (applyUpd .newId s) q = portAt s q := rfl

/-- What a packet leaves as it was that enters a router for a port. -/
theorem mail_entersFor {r i q : Nat} {k : Packet} {x : Port} :
    MailRel s (applyUpd (.port q x) (run (enterRouter r i k) (applyUpd .newId s))) := by
  have hr : MailRel (applyUpd .newId s) (run (enterRouter r i k) (applyUpd .newId s)) := mail_enterRouter.run _
  generalize run (enterRouter r i k) (applyUpd .newId s) = u at hr
  exact ⟨hr.cycle, hr.mem, hr.slots, hr.mregs, hr.agenda, hr.mail, hr.packets⟩

/-- A packet in a router is the one that has entered, but for its output and its waits. -/
theorem enterRouter_same {r i : Nat} {k : Packet} : ∃ y, Queued (run (enterRouter r i k) s) r (i, y) ∧
    y.id = k.id ∧ y.dst = k.dst ∧ y.slack = k.slack ∧ y.exh = k.exh ∧ y.msg = k.msg := by
  cases k
  exact ⟨_, enterRouter_queued, rfl, rfl, rfl, rfl, rfl⟩

/-- The state once the store word of a data flit has entered its corner router. -/
def wordEntered (p : Nat) (f : Flit) (node c : Nat) (w : StoreWord) (s : State) : State :=
  let t := entryTaken p f (headed p f s)
  run (enterRouter (cornerRouter p) 6 (servedPacket t node c w t.nextId)) (applyUpd .newId t)

/-- A port whose newest entry holds one packet. -/
def holds (vc id : Nat) (x : Port) : Port := { x with holding := x.holding ++ [(vc, [id])] }

/-- The state once the entry of the flit holds that word. -/
def wordHeld (p : Nat) (f : Flit) (node c : Nat) (w : StoreWord) (s : State) : State :=
  let t := wordEntered p f node c w s
  applyUpd (.port p (holds f.vc (entryTaken p f (headed p f s)).nextId (portAt t p))) t

section
variable {node c : Nat} {w : StoreWord}

theorem portAt_wordEntered : portAt (wordEntered p f node c w s) p = takes f (takeHead f (portAt s p)) := by
  rw [wordEntered, portAt_enterRouter, portAt_newId, portAt_entryTaken, portAt_headed]

theorem portAt_wordHeld : portAt (wordHeld p f node c w s) p =
    holds f.vc (entryTaken p f (headed p f s)).nextId (takes f (takeHead f (portAt s p))) := by
  rw [wordHeld, portAt_changed, if_pos rfl, portAt_wordEntered]

/-- What the way of a store word into the mesh leaves as it was. -/
theorem mail_wordHeld : MailRel (entryTaken p f (headed p f s)) (wordHeld p f node c w s) := by
  rw [wordHeld, wordEntered]
  exact mail_entersFor

theorem queued_wordHeld : ∃ k, Queued (wordHeld p f node c w s) (cornerRouter p) (6, k) ∧
    k.id = (entryTaken p f (headed p f s)).nextId ∧ k.dst = .core c ∧ k.slack = w.slack ∧ k.exh = w.exh ∧
    k.msg = .store (servedWord (entryTaken p f (headed p f s)) node w) := by
  generalize ht : entryTaken p f (headed p f s) = t
  obtain ⟨hs, he⟩ := servedWord_slack t node w
  obtain ⟨k, hq, hid, hd, hsl, hx, hm⟩ := enterRouter_same (s := applyUpd .newId t) (r := cornerRouter p) (i := 6)
    (k := servedPacket t node c w t.nextId)
  refine ⟨k, ?_, hid, hd, hsl.trans hs, hx.trans he, hm⟩
  rw [wordHeld, wordEntered, ht]
  exact hq

end

end
end Sys2Proof.Machine

namespace Sys2Proof.Machine
open Sys2Proof

section
variable {s t : State} {p : Nat} {f : Flit} {node c : Nat} {w : StoreWord}

theorem run_holdEntry {id : Nat} (h : (portAt s p).holding = []) :
    run (holdEntry p f.vc [id]) s = applyUpd (.port p (holds f.vc id (portAt s p))) s := by
  have hm : run (holdEntry p f.vc [id]) s = run (freeWindow p) (applyUpd (.port p (holds f.vc id (portAt s p))) s) :=
    run_seq (logged_modPort _ _) clock_freeWindow.logged s
  rw [hm, run_freeWindow_none]
  intro e he
  rw [portAt_changed, if_pos rfl, holds, h] at he
  rw [List.mem_singleton.mp he]
  rfl

theorem mreg_taken {off : Nat} (h : off < 0x2_0000) : mreg (entryTaken p f (headed p f s)) off = mreg s off := by
  rw [mreg_entryTaken (by omega), headed, mreg_port]

/-- A good data flit in sequence that finds room: its store word enters the mesh, the entry holds it, and the port tells. -/
theorem run_dataSteps_taken (h : PortIdle s p) (hg : flitGood f = true) (hs : f.seq = (portAt s p).rxSeq)
    (hr : (portAt s p).window.getD f.vc 0 ≠ 0 ∨ (portAt s p).spares.getD f.vc 0 ≠ 0) (hh : (portAt s p).holding = [])
    (hb : f.body = [.store node w]) (hd : foreignDest s (localPa s (w.word * 8) / 8 * 8) = some (.core c)) :
    run (dataSteps p f (portAt s p)) s = run (putControl p 1 []) (wordHeld p f node c w s) := by
  have hk (l : List Nat) : Logged (holdEntry p f.vc l) := logged_bind (logged_modPort _ _) fun _ => clock_freeWindow.logged
  have hd' : foreignDest (entryTaken p f (headed p f s)) (localPa (entryTaken p f (headed p f s)) (w.word * 8) / 8 * 8) =
      some (.core c) := by
    rw [foreignDest_congr (mreg_taken (by omega)), localPa_congr (mreg_taken (by omega))]
    exact hd
  have hw : (portAt (wordEntered p f node c w s) p).holding = [] := by
    rw [portAt_wordEntered]
    exact hh
  have he : run (takeEntry p f) (headed p f s) = wordHeld p f node c w s := by
    rw [run_takeEntry, hb, run_storeArrives hk hd', ← wordEntered, run_holdEntry hw, wordHeld]
  have hi : PortIdle (wordHeld p f node c w s) p := by
    constructor <;> rw [portAt_wordHeld]
    · exact h.up
    · exact h.training
    · exact h.queue
  rw [dataSteps, hg, if_neg (by simp), if_neg (by simp [hs]), if_neg fun ⟨a, b⟩ => hr.elim (· a) (· b),
    run_seq clock_takeHeader.logged (logged_bind clock_takeEntry.logged fun _ => clock_tellPort.logged), run_takeHeader h.queue,
    run_seq clock_takeEntry.logged clock_tellPort.logged, he, run_tellPort hi]

/-- A port that has taken a data flit, by what it was: the header is heard, SEQ goes on, and an entry or else a spare is taken. -/
structure FlitTaken (f : Flit) (id : Nat) (x y : Port) : Prop where
  heard : Heard f x y
  rxSeq : y.rxSeq = (x.rxSeq + 1) % 2 ^ 16
  entry : x.window.getD f.vc 0 ≠ 0 → y.window.getD f.vc 0 = x.window.getD f.vc 0 - 1 ∧ y.spares = x.spares
  spare : x.window.getD f.vc 0 = 0 → y.window = x.window ∧ y.spares.getD f.vc 0 = x.spares.getD f.vc 0 - 1
  holding : y.holding = [(f.vc, [id])]

theorem takes_entry {x : Port} (h : x.window.getD f.vc 0 ≠ 0) :
    (takes f x).window = onNth f.vc (· - 1) x.window ∧ (takes f x).spares = x.spares := by
  rw [takes, decide_eq_false h]
  exact ⟨rfl, rfl⟩

theorem takes_spare {x : Port} (h : x.window.getD f.vc 0 = 0) :
    (takes f x).window = x.window ∧ (takes f x).spares = onNth f.vc (· - 1) x.spares := by
  rw [takes, decide_eq_true h]
  exact ⟨rfl, rfl⟩

theorem taken_holds {x : Port} {id : Nat} (hv : f.vc < x.window.length) (hn : f.vc < x.spares.length) (hh : x.holding = []) :
    FlitTaken f id x (holds f.vc id (takes f (takeHead f x))) where
  heard := ⟨rfl, rfl, fun _ h => getD_map_range _ h⟩
  rxSeq := rfl
  entry hw := by
    obtain ⟨he, hs⟩ := takes_entry (f := f) (x := takeHead f x) hw
    exact ⟨(congrArg (·.getD f.vc 0) he).trans (getD_onNth _ hv), hs⟩
  spare hw := by
    obtain ⟨he, hs⟩ := takes_spare (f := f) (x := takeHead f x) hw
    exact ⟨he, (congrArg (·.getD f.vc 0) hs).trans (getD_onNth _ hn)⟩
  holding := congrArg (· ++ _) hh

theorem FlitTaken.link {x y z : Port} {id : Nat} (h : FlitTaken f id x y) (k : SameLink y z) : FlitTaken f id x z := by
  rw [k]
  exact ⟨h.heard, h.rxSeq, h.entry, h.spare, h.holding⟩

/-- An idle flit acknowledges the data flit that the port has just taken. -/
theorem ackseq_controlFlit {y : Port} {n : Nat} (h : y.rxSeq = (n + 1) % 2 ^ 16) (data : List Nat) :
    (controlFlit y 1 data).ackseq = n % 2 ^ 16 := by
  have ha : (controlFlit y 1 data).ackseq = (y.rxSeq + 2 ^ 16 - 1) % 2 ^ 16 := rfl
  rw [ha, h]
  omega

theorem dataFlit_taken (h : PortIdle s p) (hg : flitGood f = true) (hs : f.seq = (portAt s p).rxSeq)
    (hv : f.vc < (portAt s p).window.length) (hn : f.vc < (portAt s p).spares.length)
    (hr : (portAt s p).window.getD f.vc 0 ≠ 0 ∨ (portAt s p).spares.getD f.vc 0 ≠ 0) (hh : (portAt s p).holding = [])
    (hb : f.body = [.store node w]) (hd : foreignDest s (localPa s (w.word * 8) / 8 * 8) = some (.core c)) :
    ∃ u g k, exec (.dataFlit p f) s = .next u ∧ Heard f (portAt s p) (portAt u p) ∧
      (portAt u p).rxSeq = ((portAt s p).rxSeq + 1) % 2 ^ 16 ∧
      ((portAt s p).window.getD f.vc 0 ≠ 0 → (portAt u p).window.getD f.vc 0 = (portAt s p).window.getD f.vc 0 - 1 ∧
        (portAt u p).spares = (portAt s p).spares) ∧
      ((portAt s p).window.getD f.vc 0 = 0 → (portAt u p).window = (portAt s p).window ∧
        (portAt u p).spares.getD f.vc 0 = (portAt s p).spares.getD f.vc 0 - 1 ∧
        mreg u (0x2_0000 + 0x100 * p + 0x18) = addSat64 (mreg s (0x2_0000 + 0x100 * p + 0x18)) 1) ∧
      (portAt u p).holding = [(f.vc, [k.id])] ∧
      (6, k) ∈ (routerAt u (cornerRouter p)).packets ++ (routerAt u (cornerRouter p)).offered ∧ k.dst = .core c ∧
      k.slack = w.slack ∧ k.exh = w.exh ∧ k.msg = .store (servedWord s node w) ∧
      Out.flit p g ∈ u.out ∧ g.kind = 1 ∧ g.ackseq = (portAt s p).rxSeq % 2 ^ 16 ∧ Quiet s u := by
  obtain ⟨k, hq, hid, hkd, hks, hkx, hkm⟩ := queued_wordHeld (p := p) (f := f) (node := node) (c := c) (w := w) (s := s)
  have hx : exec (.dataFlit p f) s = .next (run (putControl p 1 []) (wordHeld p f node c w s)) := by
    rw [exec_dataFlit h, run_dataSteps_taken h hg hs hr hh hb hd]
  have hm : MailRel (entryTaken p f (headed p f s)) (wordHeld p f node c w s) := mail_wordHeld
  have hl : LinkRel p (wordHeld p f node c w s) (run (putControl p 1 []) (wordHeld p f node c w s)) := link_putControl.run _
  have ho := putControl_sends (p := p) 1 [] (wordHeld p f node c w s)
  have hv : FlitTaken f k.id (portAt s p) (portAt (wordHeld p f node c w s) p) := by
    rw [portAt_wordHeld, hid]
    exact taken_holds hv hn hh
  have hms : servedWord (entryTaken p f (headed p f s)) node w = servedWord s node w := by
    rw [servedWord, servedWord, localPa_congr (mreg_taken (by omega))]
  generalize wordHeld p f node c w s = v at hq hm hl ho hx hv
  generalize run (putControl p 1 []) v = u at hl hx ho
  have hu : FlitTaken f k.id (portAt s p) (portAt u p) := hv.link hl.port
  refine ⟨u, _, k, hx, hu.heard, hu.rxSeq, hu.entry, fun hw => ⟨(hu.spare hw).1, (hu.spare hw).2, ?_⟩, hu.holding, ?_, hkd, hks, hkx,
    hkm.trans (congrArg Msg.store hms), ho, rfl, ackseq_controlFlit hv.rxSeq [], ?_⟩
  · have hw' : (portAt (headed p f s) p).window.getD f.vc 0 = 0 := by
      rw [portAt_headed]
      exact hw
    rw [hl.mreg, mreg, hm.mregs, ← mreg, mreg_entryTaken_spare hw', headed, mreg_port]
  · rw [hl.routerAt]
    exact hq
  · have hq : Quiet s (entryTaken p f (headed p f s)) := quiet_port.trans quiet_entryTaken
    exact (hq.trans ⟨hm.mem, hm.slots⟩).trans hl.quiet

end
end Sys2Proof.Machine

namespace Sys2Proof.Machine
open Sys2Proof

/-! ### Flits that arrive -/

section
variable {s t : State} {p : Nat} {f : Flit}

/-- Whatever its KIND, a flit that fails its check is dropped and counted. -/
theorem exec_badFlit (h : PortIdle s p) (hg : flitGood f = false) {i : Instr} {used : List (Nat × Nat)} {avail : List Nat} {told : Nat × Nat}
    (hi : i = .dataFlit p f ∨ i = .idleFlit p f ∨ i = .replayFlit p f ∨ i = .auditFlit p f used avail ∨
      i = .restitutionFlit p f told ∨ i = .clampFlit p f told) : exec i s = .next (run (badFlit p) s) := by
  rcases hi with rfl | hi
  · rw [exec_dataFlit h, dataSteps, hg]
    rfl
  have hc : ∃ a, exec i s = .next (run (goodFlit p f a) s) := by
    rcases hi with rfl | rfl | rfl | rfl | rfl <;> exact ⟨_, rfl⟩
  obtain ⟨a, ha⟩ := hc
  rw [ha, run_goodFlit_bad h hg]

theorem idleFlit_heard (h : PortIdle s p) (hg : flitGood f = true) : exec (.idleFlit p f) s = .next (headed p f s) := by
  have hx : exec (.idleFlit p f) s = .next (run (goodFlit p f (pure ())) s) := rfl
  rw [hx, run_goodFlit h hg (logged_pure _), run_pure]

theorem dataFlit_outOfSequence (h : PortIdle s p) (hg : flitGood f = true) (hs : f.seq ≠ (portAt s p).rxSeq) :
    exec (.dataFlit p f) s = .next (applyUpd (.port p { portAt s p with crcRun := 0 }) s) := by
  rw [exec_dataFlit h, dataSteps, hg, if_neg (by simp), if_pos hs, run_modPort]

theorem dataFlit_noRoom (h : PortIdle s p) (hg : flitGood f = true) (hs : f.seq = (portAt s p).rxSeq)
    (hw : (portAt s p).window.getD f.vc 0 = 0) (hp : (portAt s p).spares.getD f.vc 0 = 0) :
    exec (.dataFlit p f) s = .next (run (trainPort p) s) := by
  rw [exec_dataFlit h, dataSteps, hg, if_neg (by simp), if_neg (by simp [hs]), if_pos ⟨hw, hp⟩, run_retrain h.training]

theorem flitsArrive : Claims.FlitsArrive := by
  intro s p f hup htr hq
  have h : PortIdle s p := ⟨hup, htr, hq⟩
  refine ⟨fun hg hc ha i used avail told hi => ?_, fun hg => ?_, fun hg hs => ?_, fun hg hs hw hn => ?_,
    fun node w c hg hs hv hn hr hh hb hd => dataFlit_taken h hg hs hv hn hr hh hb hd⟩
  · obtain ⟨g, hx⟩ := badFlit_spec (s := s) (p := p) hc ha
    exact ⟨_, g, exec_badFlit h hg hi, hx⟩
  · have hd : Heard f (portAt s p) (portAt (headed p f s) p) := by
      rw [portAt_headed]
      exact heard_takeHead
    exact ⟨_, idleFlit_heard h hg, hd, ⟨rfl, rfl⟩⟩
  · exact ⟨_, dataFlit_outOfSequence h hg hs, (portAt_changed _ _ _ _).trans (if_pos rfl), rfl⟩
  · obtain ⟨g, hx, hqt, -⟩ := trainPort_spec (s := s) (p := p)
    exact ⟨_, dataFlit_noRoom h hg hs hw hn, by rw [hx]; rfl, by rw [hx]; rfl, by rw [hx]; rfl, hqt⟩

/-! ### Replays and audits -/

/-- A good flit of a KIND with its data has left a port. -/
def SentControl (p kind : Nat) (data : List Nat) (t : State) : Prop :=
  ∃ g, Out.flit p g ∈ t.out ∧ flitGood g = true ∧ g.kind = kind ∧ g.data = data

/-- A good data flit has left a port with the SEQ, the channel and the packets of an entry of the replay buffer. -/
def Resent (p : Nat) (e : Nat × Nat × List FabricMsg) (t : State) : Prop :=
  ∃ g, Out.flit p g ∈ t.out ∧ flitGood g = true ∧ g.kind = 0 ∧ g.seq = e.1 ∧ g.vc = e.2.1 ∧ g.body = e.2.2

theorem leaves_putControl {kind : Nat} {data : List Nat} (hk : kind ≤ 6) : Leaves (SentControl p kind data) (putControl p kind data) :=
  ⟨link_putControl.logged, fun s => ⟨_, putControl_sends kind data s, flitGood_flitOf hk, rfl, rfl⟩⟩

theorem SentControl.mono {kind : Nat} {data : List Nat} {q : Nat} (h : SentControl p kind data s) (r : LinkRel q s t) :
    SentControl p kind data t := by
  obtain ⟨g, hg, hx⟩ := h
  exact ⟨g, r.out _ hg, hx⟩

/-- One entry of the replay buffer leaves again. -/
def resendOne (p : Nat) (void : Bool) (e : Nat × Nat × List FabricMsg) : Act Unit := do
  let x ← look (portAt · p)
  putFlit p (flitOf x 0 e.2.1 e.1 e.2.2 [] void)

theorem link_resendOne {void : Bool} {e : Nat × Nat × List FabricMsg} : Keeps (linkFrame p) (resendOne p void e) :=
  keeps_look_bind fun _ => link_putFlit

theorem leaves_resendOne {void : Bool} {e : Nat × Nat × List FabricMsg} : Leaves (Resent p e) (resendOne p void e) :=
  leaves_look fun _ => ⟨link_putFlit.logged, fun s => ⟨_, putFlit_sends _ s, flitGood_flitOf (by omega), rfl, rfl, rfl, rfl⟩⟩

theorem run_resendFrom {seq : Nat} {void : Bool} : run (resendFrom p seq void) s =
    run (each ((portAt s p).replay.filter fun e => seqFrom seq e.1) (resendOne p void)) s := rfl

theorem link_resendFrom {seq : Nat} {void : Bool} : Keeps (linkFrame p) (resendFrom p seq void) :=
  keeps_look_bind fun _ => keeps_each fun _ => link_resendOne

theorem resent_resendFrom {seq : Nat} {void : Bool} {e : Nat × Nat × List FabricMsg} (he : e ∈ (portAt s p).replay)
    (hs : seqFrom seq e.1 = true) : Resent p e (run (resendFrom p seq void) s) := by
  rw [run_resendFrom]
  exact (leaves_each (P := Resent p) (fun _ => link_resendOne)
    (fun _ _ _ (r : LinkRel p _ _) ⟨g, hg, hx⟩ => ⟨g, r.out _ hg, hx⟩) (fun _ => leaves_resendOne)
    (List.mem_filter.mpr ⟨he, hs⟩)).post s

theorem replayFlit_spec (h : PortIdle s p) (hg : flitGood f = true) : ∃ u, exec (.replayFlit p f) s = .next u ∧ Quiet s u ∧
    mreg u (0x2_0000 + 0x100 * p + 0x08) = addSat64 (mreg s (0x2_0000 + 0x100 * p + 0x08)) 1 ∧
    ∀ e ∈ (portAt s p).replay, seqFrom e.1 f.ackseq = false → seqFrom (f.data.getD 0 0) e.1 = true → Resent p e u := by
  have hx : exec (.replayFlit p f) s = .next (run (resendFrom p (f.data.getD 0 0) false) (run (countPort p 0x08) (headed p f s))) := by
    have he : exec (.replayFlit p f) s =
      .next (run (goodFlit p f (countPort p 0x08 >>= fun _ => resendFrom p (f.data.getD 0 0) false)) s) := rfl
    rw [he, run_goodFlit h hg (logged_bind (logged_countPort _) fun _ => link_resendFrom.logged),
      run_seq (logged_countPort _) link_resendFrom.logged]
  have hp : portAt (run (countPort p 0x08) (headed p f s)) p = takeHead f (portAt s p) := portAt_headed
  have hm : mreg (run (countPort p 0x08) (headed p f s)) (0x2_0000 + 0x100 * p + 0x08) =
      addSat64 (mreg s (0x2_0000 + 0x100 * p + 0x08)) 1 := by
    rw [mreg_countPort, headed, mreg_port]
  have hq : Quiet s (run (countPort p 0x08) (headed p f s)) := quiet_port.trans (quiet_countPort _)
  generalize run (countPort p 0x08) (headed p f s) = v at hx hp hm hq
  have hl : LinkRel p v (run (resendFrom p (f.data.getD 0 0) false) v) := link_resendFrom.run v
  refine ⟨_, hx, hq.trans hl.quiet, (hl.mreg _).trans hm, fun e he ha hs => resent_resendFrom ?_ hs⟩
  rw [hp]
  exact List.mem_filter.mpr ⟨he, by rw [ha]; rfl⟩

/-- After 4,096 flits an audit leaves (R321). -/
theorem insertAudit_spec (h : PortIdle s p) (ha : 4096 ≤ (portAt s p).sinceAudit) :
    Quiet s (run (insertAudit p) s) ∧ (portAt (run (insertAudit p) s) p).sinceAudit = 0 ∧
    (portAt (run (insertAudit p) s) p).usedSinceAudit = [0, 0, 0, 0] ∧
    SentControl p 2 ((portAt s p).sent ++ (portAt s p).fseen ++ (portAt s p).avail) (run (insertAudit p) s) := by
  obtain ⟨g, hg⟩ : ∃ g, g = controlFlit (portAt s p) 2 ((portAt s p).sent ++ (portAt s p).fseen ++ (portAt s p).avail) := ⟨_, rfl⟩
  have hx : run (insertAudit p) s = run (modPort p fun x => { x with sinceAudit := 0, usedSinceAudit := [0, 0, 0, 0] })
      (run (emitFlit p g) s) := by
    rw [insertAudit, run_look_bind, run_onlyIf, h.running, decide_eq_true ha, Bool.true_and, if_pos rfl,
      run_seq link_emitFlit.logged (logged_modPort _ _), hg]
    rfl
  have hl : LinkRel p s (run (emitFlit p g) s) := link_emitFlit.run s
  have ho := emitFlit_sends (p := p) g s
  rw [hx, run_modPort]
  generalize run (emitFlit p g) s = v at hl ho
  refine ⟨hl.quiet, ?_, ?_, g, ho, ?_, ?_, ?_⟩
  · rw [portAt_changed, if_pos rfl]
  · rw [portAt_changed, if_pos rfl]
  · rw [hg]
    exact flitGood_flitOf (by omega)
  · rw [hg]
    rfl
  · rw [hg]
    rfl

/-- What the receiver of an audit sends for a channel (R321). -/
def auditChannel (p : Nat) (used : List (Nat × Nat)) (avail : List Nat) (v : Nat) : Act Unit :=
  let e := expectedUnits (used.getD v (0, 0)).1 (used.getD v (0, 0)).2
  let a := avail.getD v 0
  if a < e then putControl p 3 [v, e - a] else onlyIf (decide (e < a)) (putControl p 4 [v, e])

/-- A channel that lacks units is granted them, and one that has too many is told the number that it should have. -/
def Audited (p : Nat) (used : List (Nat × Nat)) (avail : List Nat) (v : Nat) (t : State) : Prop :=
  let e := expectedUnits (used.getD v (0, 0)).1 (used.getD v (0, 0)).2
  let a := avail.getD v 0
  (a < e → SentControl p 3 [v, e - a] t) ∧ (e < a → SentControl p 4 [v, e] t)

section
variable {used : List (Nat × Nat)} {avail : List Nat}

theorem link_auditChannel {v : Nat} : Keeps (linkFrame p) (auditChannel p used avail v) :=
  keeps_ite link_putControl (keeps_onlyIf link_putControl)

theorem leaves_auditChannel {v : Nat} : Leaves (Audited p used avail v) (auditChannel p used avail v) := by
  refine ⟨link_auditChannel.logged, fun s => ⟨fun hl => ?_, fun hl => ?_⟩⟩
  · rw [auditChannel, if_pos hl]
    exact (leaves_putControl (by omega)).post s
  · rw [auditChannel, if_neg (Nat.not_lt.mpr hl.le), decide_eq_true hl]
    exact (leaves_putControl (by omega)).post s

theorem auditFlit_spec (h : PortIdle s p) (hg : flitGood f = true) : ∃ u, exec (.auditFlit p f used avail) s = .next u ∧ Quiet s u ∧
    ∀ v, v < 4 → Audited p used avail v u := by
  have hk : Keeps (linkFrame p) (each (List.range 4) (auditChannel p used avail)) := keeps_each fun _ => link_auditChannel
  have hx : exec (.auditFlit p f used avail) s = .next (run (each (List.range 4) (auditChannel p used avail)) (headed p f s)) := by
    have he : exec (.auditFlit p f used avail) s =
      .next (run (goodFlit p f (each (List.range 4) (auditChannel p used avail))) s) := rfl
    rw [he, run_goodFlit h hg hk.logged]
  have hl : LinkRel p (headed p f s) (run (each (List.range 4) (auditChannel p used avail)) (headed p f s)) := hk.run _
  refine ⟨_, hx, hl.quiet, fun v hv => ?_⟩
  exact (leaves_each (P := Audited p used avail) (fun _ => link_auditChannel)
    (fun _ _ _ (r : LinkRel p _ _) ⟨ha, hb⟩ => ⟨fun hl => (ha hl).mono r, fun hl => (hb hl).mono r⟩)
    (fun _ => leaves_auditChannel) (List.mem_range.mpr hv)).post _

end

/-- The state of a port that has counted a restitution or a clamp. -/
def restituted (p : Nat) (g : Port → Port) (t : State) : State :=
  applyUpd (.port p (g (portAt t p))) (run (countPort p 0x10) t)

theorem portAt_restituted {g : Port → Port} : portAt (restituted p g (headed p f s)) p = g (takeHead f (portAt s p)) := by
  rw [restituted, portAt_changed, if_pos rfl, portAt_headed]

theorem mreg_restituted {g : Port → Port} : mreg (restituted p g (headed p f s)) (0x2_0000 + 0x100 * p + 0x10) =
    addSat64 (mreg s (0x2_0000 + 0x100 * p + 0x10)) 1 := by
  rw [restituted, mreg_port, mreg_countPort, headed, mreg_port]

theorem quiet_restituted {g : Port → Port} : Quiet s (restituted p g (headed p f s)) :=
  (quiet_port.trans (quiet_countPort 0x10)).trans quiet_port

theorem run_restitute {g : Port → Port} :
    run (countPort p 0x10 >>= fun _ => modPort p g) t = restituted p g t := by
  rw [run_seq (logged_countPort _) (logged_modPort _ _)]
  rfl

/-- The units of a channel of a port, after a grant or a clamp. -/
def grants (v : Nat) (n : Nat → Nat) (x : Port) : Port := { x with avail := onNth v n x.avail }

theorem avail_grants {v : Nat} {n : Nat → Nat} {x : Port} (hv : v < 4) : (grants v n (takeHead f x)).avail.getD v 0 =
    n (x.avail.getD v 0 + (f.freed.getD v 0 + 2 ^ 16 - x.fseen.getD v 0) % 2 ^ 16) := by
  have hl : v < (takeHead f x).avail.length := by
    rw [takeHead, List.length_map, List.length_range]
    exact hv
  rw [grants, getD_onNth _ hl]
  exact congrArg n (getD_map_range _ hv)

theorem restitutionFlit_spec (h : PortIdle s p) (hg : flitGood f = true) (v n : Nat) :
    exec (.restitutionFlit p f (v, n)) s = .next (restituted p (grants v (· + n)) (headed p f s)) := by
  have he : exec (.restitutionFlit p f (v, n)) s = .next (run (goodFlit p f
    (countPort p 0x10 >>= fun _ => modPort p (grants v (· + n)) >>= fun _ => pumpAll p)) s) := rfl
  have hl : Logged (modPort p (grants v (· + n)) >>= fun _ => pumpAll p) := logged_bind (logged_modPort _ _) fun _ => clock_pumpAll.logged
  have hq : (portAt (restituted p (grants v (· + n)) (headed p f s)) p).queue = [] := by
    rw [portAt_restituted]
    exact h.queue
  rw [he, run_goodFlit h hg (logged_bind (logged_countPort _) fun _ => hl), ← bind_assoc,
    run_seq (logged_bind (logged_countPort _) fun _ => logged_modPort _ _) clock_pumpAll.logged, run_restitute, run_pumpAll_none hq]

theorem clampFlit_spec (h : PortIdle s p) (hg : flitGood f = true) (v n : Nat) :
    exec (.clampFlit p f (v, n)) s =
      .next (restituted p (fun x => grants v (fun _ => n - x.usedSinceAudit.getD v 0) x) (headed p f s)) := by
  have he : exec (.clampFlit p f (v, n)) s = .next (run (goodFlit p f
    (countPort p 0x10 >>= fun _ => modPort p (fun x => grants v (fun _ => n - x.usedSinceAudit.getD v 0) x))) s) := rfl
  rw [he, run_goodFlit h hg (logged_bind (logged_countPort _) fun _ => logged_modPort _ _), run_restitute]

theorem audits : Claims.Audits := by
  intro s p f hup htr hq
  have h : PortIdle s p := ⟨hup, htr, hq⟩
  refine ⟨fun hg => replayFlit_spec h hg, fun ha => ?_, fun ha => ?_, fun used avail hg => auditFlit_spec h hg, fun v n hg hv => ⟨?_, ?_⟩⟩
  · obtain ⟨hqt, hs, hu, g, hx⟩ := insertAudit_spec h ha
    exact ⟨_, g, rfl, hqt, hs, hu, hx⟩
  · have hx : exec (.auditInsertion p) s = .next (run (insertAudit p) s) := rfl
    rw [hx, run_insertAudit_none (.inr ha)]
  · refine ⟨_, restitutionFlit_spec h hg v n, quiet_restituted, ?_, mreg_restituted⟩
    rw [portAt_restituted, avail_grants hv]
  · refine ⟨_, clampFlit_spec h hg v n, quiet_restituted, ?_, mreg_restituted⟩
    rw [portAt_restituted, avail_grants hv]
    rfl

end
end Sys2Proof.Machine

namespace Sys2Proof.Machine
open Sys2Proof

/-! ### A port that comes up again -/

section
variable {s t : State} {p : Nat} {f : Flit}

/-- A port y after the restart flit of the other end, with the replay buffer of x (R322). -/
def riseFrom (f : Flit) (seq : Nat) (free : List Nat) (x y : Port) : Port :=
  let again := x.replay.filter fun e => seqFrom seq e.1
  { y with
    replay := again, up := true, training := false, trainingSince := none, crcRun := 0, seenUp := true, acked := f.ackseq,
    fseen := (List.range 4).map fun v => f.freed.getD v 0,
    avail := (List.range 4).map fun v => free.getD v 0 - (again.filter fun e => decide (e.2.1 = v)).length }

/-- A port after the restart flit, by its own replay buffer. -/
def risen (f : Flit) (seq : Nat) (free : List Nat) (x : Port) : Port := riseFrom f seq free x x

/-- What leaves the port once it is up: an audit that is due, and the flits that the other end has not. -/
def sendAgain (p seq : Nat) : Act Unit := do
  insertAudit p
  resendFrom p seq true

theorem link_sendAgain {seq : Nat} : Keeps (linkFrame p) (sendAgain p seq) := keeps_bind link_insertAudit fun _ => link_resendFrom

/-- The state as a port comes up, before flits leave it. -/
def portRisen (p : Nat) (f : Flit) (told : Nat × List Nat) (s : State) : State :=
  run (onlyIf (portAt s p).seenUp (countPort p 0x28)) (applyUpd (.port p (risen f told.1 told.2 (portAt s p))) s)

theorem portAt_portRisen {told : Nat × List Nat} : portAt (portRisen p f told s) p = risen f told.1 told.2 (portAt s p) := by
  have hp : portAt (applyUpd (.port p (risen f told.1 told.2 (portAt s p))) s) p = risen f told.1 told.2 (portAt s p) :=
    (portAt_changed _ _ _ _).trans (if_pos rfl)
  rw [portRisen, run_onlyIf]
  split <;> exact hp

theorem quiet_portRisen {told : Nat × List Nat} : Quiet s (portRisen p f told s) := by
  rw [portRisen, run_onlyIf]
  split
  · exact quiet_port.trans (quiet_countPort _)
  · exact quiet_port

theorem comeUp_eq (seq : Nat) (free : List Nat) : comeUp p f seq free = (do
    let x ← look (portAt · p)
    modPort p (riseFrom f seq free x)
    onlyIf x.seenUp (countPort p 0x28)
    sendAgain p seq
    pumpAll p
    openElection) := by
  simp only [comeUp, sendAgain, bind_assoc]
  rfl

theorem run_comeUp {told : Nat × List Nat} (hq : (portAt s p).queue = []) : run (comeUp p f told.1 told.2) s =
    run openElection (run (sendAgain p told.1) (portRisen p f told s)) := by
  have hl : Logged (pumpAll p >>= fun _ => openElection) := logged_bind clock_pumpAll.logged fun _ => timer_openElection.logged
  have ha : Logged (sendAgain p told.1 >>= fun _ => pumpAll p >>= fun _ => openElection) := logged_bind link_sendAgain.logged fun _ => hl
  have ho : Logged (onlyIf (portAt s p).seenUp (countPort p 0x28)) := logged_onlyIf _ (logged_countPort _)
  have hn : (portAt (run (sendAgain p told.1) (portRisen p f told s)) p).queue = [] := by
    have hr : LinkRel p _ (run (sendAgain p told.1) (portRisen p f told s)) := link_sendAgain.run _
    have hp : SameLink _ _ := hr.port
    rw [portAt_portRisen] at hp
    rw [hp]
    exact hq
  rw [comeUp_eq, run_look_bind, run_seq (logged_modPort _ _) (logged_bind ho fun _ => ha), run_modPort, ← risen, run_seq ho ha,
    ← portRisen, run_seq link_sendAgain.logged hl,
    run_seq clock_pumpAll.logged timer_openElection.logged, run_pumpAll_none hn]

/-- What a restart flit does at a port that trains. -/
def restartSteps (p : Nat) (f : Flit) (told : Nat × List Nat) : Act Unit :=
  if flitGood f then comeUp p f told.1 told.2 else countPort p 0x20

theorem exec_restartFlit (told : Nat × List Nat) : exec (.restartFlit p f told) s =
    .next (run (onlyIf ((portAt s p).training && !(portAt s p).timedOut) (restartSteps p f told)) s) := rfl

theorem restartFlit_up {told : Nat × List Nat} (ht : (portAt s p).training = true) (ho : (portAt s p).timedOut = false)
    (hg : flitGood f = true) (hr : (portAt s p).replay = []) (hq : (portAt s p).queue = []) :
    ∃ u, exec (.restartFlit p f told) s = .next u ∧ Quiet s u ∧ (portAt u p).up = true ∧ (portAt u p).training = false ∧
      ∀ v, v < 4 → (portAt u p).avail.getD v 0 = told.2.getD v 0 ∧ (portAt u p).fseen.getD v 0 = f.freed.getD v 0 := by
  have hx : exec (.restartFlit p f told) s = .next (run openElection (run (sendAgain p told.1) (portRisen p f told s))) := by
    rw [exec_restartFlit, ht, ho, restartSteps, if_pos hg, run_onlyIf, if_pos (by rfl), run_comeUp hq]
  have hl : LinkRel p (portRisen p f told s) (run (sendAgain p told.1) (portRisen p f told s)) := link_sendAgain.run _
  have hp : SameLink _ _ := hl.port
  have hqt : Quiet s (run (sendAgain p told.1) (portRisen p f told s)) := quiet_portRisen.trans hl.quiet
  rw [portAt_portRisen] at hp
  generalize run (sendAgain p told.1) (portRisen p f told s) = v at hx hp hqt
  have he : TimerRel v (run openElection v) := timer_openElection.run v
  have hu : portAt (run openElection v) p = portAt v p := by
    rw [he.fields]
    rfl
  refine ⟨_, hx, hqt.trans ⟨by rw [he.fields], by rw [he.fields]⟩, ?_, ?_, fun v hv => ⟨?_, ?_⟩⟩
  · rw [hu, hp]
    rfl
  · rw [hu, hp]
    rfl
  · rw [hu, hp, risen, riseFrom, hr]
    exact getD_map_range _ hv
  · rw [hu, hp]
    exact getD_map_range _ hv

theorem restartFlit_bad {told : Nat × List Nat} (ht : (portAt s p).training = true) (ho : (portAt s p).timedOut = false)
    (hg : flitGood f = false) : exec (.restartFlit p f told) s = .next (run (countPort p 0x20) s) := by
  rw [exec_restartFlit, ht, ho, restartSteps, if_neg (by rw [hg]; exact Bool.false_ne_true), run_onlyIf, if_pos (by rfl)]

theorem restartFlit_late {told : Nat × List Nat} (ho : (portAt s p).timedOut = true) : exec (.restartFlit p f told) s = .next s := by
  rw [exec_restartFlit, ho, Bool.not_true, Bool.and_false, run_onlyIf, if_neg Bool.false_ne_true]

/-! ### A port that stays down -/

/-- A port past its limit. -/
def givenUp (x : Port) : Port := { x with timedOut := true, queue := [] }

theorem retrainTimeout_spec {n : Nat} (ht : (portAt s p).training = true) (ho : (portAt s p).timedOut = false)
    (hs : (portAt s p).trainingSince = some n) (hn : n + 100_000_000 ≤ s.tick) (hq : (portAt s p).queue = []) :
    exec (.retrainTimeout p) s = .next (run openElection (applyUpd (.port p (givenUp (portAt s p))) s)) := by
  have hx : exec (.retrainTimeout p) s = .next (run (onlyIf ((portAt s p).training && !(portAt s p).timedOut &&
      (portAt s p).trainingSince.elim false fun t => decide (t + 100_000_000 ≤ s.tick)) (modPort p givenUp >>= fun _ =>
      each (portAt s p).queue (arriveAtPort p) >>= fun _ => openElection)) s) := rfl
  have hl : Logged (each ([] : List Packet) (arriveAtPort p) >>= fun _ => openElection) :=
    logged_bind (logged_pure _) fun _ => timer_openElection.logged
  rw [hx, ht, ho, hs, Option.elim_some, decide_eq_true hn, run_onlyIf, if_pos (by rfl), hq, run_seq (logged_modPort _ _) hl]
  rfl

theorem retraining : Claims.Retraining := by
  intro s p f
  refine ⟨fun i hi => ?_, fun ht ho => ⟨fun told hg hr hq => restartFlit_up ht ho hg hr hq, fun told hg => ?_⟩,
    fun told ho => restartFlit_late ho, fun n ht ho hs hn hq => ?_⟩
  · have hx : exec i s = .next (run (retrain p) s) := by rcases hi with rfl | rfl <;> rfl
    refine ⟨fun ht => ?_, fun ht => ?_⟩
    · rw [hx, run_retrain_training ht]
    · obtain ⟨g, hp, hq, htm, hg⟩ := trainPort_spec (s := s) (p := p)
      exact ⟨_, g, by rw [hx, run_retrain ht], hq, hp, htm, hg⟩
  · exact ⟨_, restartFlit_bad ht ho hg, rfl, mreg_countPort _ _⟩
  · have he : TimerRel (applyUpd (.port p (givenUp (portAt s p))) s) _ := timer_openElection.run _
    refine ⟨_, retrainTimeout_spec ht ho hs hn hq, ?_, ?_⟩
    · rw [he.fields]
      refine ((portAt_changed _ _ _ _).trans (if_pos rfl)).trans ?_
      rw [givenUp, ← hq]
    · rw [he.fields]
      rfl

end
end Sys2Proof.Machine

namespace Sys2Proof.Machine
open Sys2Proof

/-! ### Routers that are idle -/

/-- What a router that begins to count its idle cycles leaves as it was: every router but for that count, and all else but what is to
come, of which nothing is lost. -/
structure IdleRel (s t : State) : Prop where
  fields : t = { s with routers := t.routers, agenda := t.agenda }
  router : ∀ q, routerAt t q = { routerAt s q with idleSince := (routerAt t q).idleSince }
  agenda : ∀ e ∈ s.agenda, e ∈ t.agenda

def idleFrame : Frame where
  rel := IdleRel
  refl _ := ⟨rfl, fun _ => rfl, fun _ h => h⟩
  trans h k := ⟨by
    have hk := k.fields
    rw [h.fields] at hk
    exact hk, fun q => by
    have hk := k.router q
    rw [h.router q] at hk
    exact hk, fun e he => k.agenda e (h.agenda e he)⟩
  cycle h := by rw [h.fields]

theorem IdleRel.quiet {s t : State} (h : IdleRel s t) : Quiet s t := ⟨by rw [h.fields], by rw [h.fields]⟩

section
variable {s : State} {r : Nat}

theorem idle_later {n phase place : Nat} {e : Instr} : Keeps idleFrame (later n phase place e) :=
  keeps_look_bind fun _ => keeps_emit fun _ => ⟨rfl, fun _ => rfl, fun _ h => mem_putEvent.mpr (.inr h)⟩

theorem idle_againSoon {phase place : Nat} {e : Instr} : Keeps idleFrame (againSoon phase place e) :=
  keeps_look_bind fun _ => keeps_onlyIf idle_later

theorem idle_since {n : Nat} : Keeps idleFrame (modRouter r fun x => { x with idleSince := n }) :=
  keeps_of_run (logged_modRouter _ _) fun s => ⟨rfl, fun q => by
    rw [run_modRouter, routerAt_changed]
    split
    case isTrue h => rw [h]
    case isFalse => rfl, fun _ h => h⟩

theorem idle_startIdle : Keeps idleFrame (startIdle r) :=
  keeps_look_bind fun _ => keeps_onlyIf (keeps_bind idle_since fun _ => keeps_onlyIf idle_later)

/-- A packet that enters a router that is up. -/
theorem routerAt_enterRouter {i q : Nat} {k : Packet} (h : (routerAt s r).down = false) : routerAt (run (enterRouter r i k) s) q =
    if q = r then { routerAt s r with packets := (routerAt s r).packets ++
      [(i, { k with out := chooseOut s r k.dst, entered := s.cycle + 1, overdue := none })] } else routerAt s q := by
  rw [routerAt, enterRouter_up h, mget_mset]
  rfl

theorem quiet_enterRouter {i : Nat} {k : Packet} : Quiet s (run (enterRouter r i k) s) := by
  have hr : MailRel s (run (enterRouter r i k) s) := mail_enterRouter.run s
  exact ⟨hr.mem, hr.slots⟩

/-! ### Power-down and wake -/

theorem powerDown_idle (hd : (routerAt s r).down = false) (hp : (routerAt s r).packets = [])
    (hn : (creg s r 0x0C90).toNat % 2 ^ 16 ≠ 0) (hi : (routerAt s r).idleSince + (creg s r 0x0C90).toNat % 2 ^ 16 ≤ s.cycle + 1) :
    exec (.routerPowerDown r) s =
      .next (run (countReg r 0x0C98 1) (applyUpd (.router r { routerAt s r with down := true }) s)) := by
  have hl : decide ((routerAt s r).packets.length = 0) = true := by
    rw [hp]
    rfl
  unfold exec execRouterPowerDown
  dsimp only
  rw [run_onlyIf, hd, hl, decide_eq_true hn, if_pos (by rfl), if_pos (by omega), run_seq (logged_modRouter _ _) (logged_countReg _ _ _),
    run_modRouter]

theorem powerDown_never (hn : (creg s r 0x0C90).toNat % 2 ^ 16 = 0) : exec (.routerPowerDown r) s = .next s := by
  unfold exec execRouterPowerDown
  dsimp only
  rw [run_onlyIf, decide_eq_false (not_not.mpr hn), Bool.and_false, if_neg Bool.false_ne_true]

theorem run_countReg_one (c off : Nat) : run (countReg c off 1) s = run (setCreg c off (addSat64 (creg s c off) 1)) s := rfl

/-- A router that is up again, before the packets in front of it enter. -/
def wokenUp (x : Router) : Router := { x with down := false, waking := false, offered := [] }

/-- The state once a router is up again. -/
def woken (r : Nat) (s : State) : State := applyUpd (.router r (wokenUp (routerAt s r))) s

theorem routerAt_woken : routerAt (woken r s) r = wokenUp (routerAt s r) := (routerAt_changed _ _ _ _).trans (if_pos rfl)

theorem exec_routerWake (hd : (routerAt s r).down = true) : exec (.routerWake r) s =
    .next (run (startIdle r) (run (each (routerAt s r).offered fun e => enterRouter r e.1 e.2) (woken r s))) := by
  have hx : exec (.routerWake r) s = .next (run (onlyIf (routerAt s r).down (modRouter r wokenUp >>= fun _ =>
      each (routerAt s r).offered (fun e => enterRouter r e.1 e.2) >>= fun _ => startIdle r)) s) := rfl
  have hl : Logged (each (routerAt s r).offered fun e => enterRouter r e.1 e.2) := logged_each _ fun _ => mail_enterRouter.logged
  rw [hx, run_onlyIf, if_pos hd, run_seq (logged_modRouter _ _) (logged_bind hl fun _ => idle_startIdle.logged), run_modRouter,
    run_seq hl idle_startIdle.logged, woken]

theorem routerPower : Claims.RouterPower := by
  refine ⟨fun s r hd hp => ⟨fun hn hi => ?_, powerDown_never⟩, fun s r hd => ⟨fun ho => ?_, fun i p ho => ?_⟩⟩
  · refine ⟨_, powerDown_idle hd hp hn hi, ?_, ?_, ⟨rfl, rfl⟩⟩
    · exact (routerAt_changed _ _ _ _).trans (if_pos rfl)
    · rw [run_countReg_one, creg_setCreg, if_pos ⟨rfl, rfl⟩]
      rfl
  · have hx := exec_routerWake hd
    rw [ho, run_each_nil] at hx
    have hi : IdleRel (woken r s) (run (startIdle r) (woken r s)) := idle_startIdle.run _
    have hr := hi.router r
    rw [routerAt_woken] at hr
    exact ⟨_, hx, by rw [hr]; rfl, by rw [hr]; rfl, by rw [hr]; rfl, by rw [hr, List.append_nil]; rfl, hi.quiet⟩
  · have hx := exec_routerWake hd
    rw [ho, run_each_cons _ _ fun _ => mail_enterRouter.logged, run_each_nil] at hx
    have hw : (routerAt (woken r s) r).down = false := by
      rw [routerAt_woken]
      rfl
    have hp := routerAt_enterRouter (i := i) (q := r) (k := p) hw
    have hq : Quiet s (run (enterRouter r i p) (woken r s)) := Quiet.trans ⟨rfl, rfl⟩ quiet_enterRouter
    rw [if_pos rfl, routerAt_woken] at hp
    dsimp only at hx
    generalize run (enterRouter r i p) (woken r s) = v at hx hp hq
    have hi : IdleRel v (run (startIdle r) v) := idle_startIdle.run v
    have hr := hi.router r
    rw [hp] at hr
    exact ⟨_, _, hx, by rw [hr]; rfl, by rw [hr]; rfl, by rw [hr]; rfl, by rw [hr]; rfl, hq.trans hi.quiet⟩

end
end Sys2Proof.Machine

namespace Sys2Proof.Machine
open Sys2Proof

/-! ### The winner of an output -/

section
variable {s t : State} {r out i : Nat} {p : Packet}

/-- A router whose one packet an output may grant. -/
structure OnePacket (s : State) (r out i : Nat) (p : Packet) : Prop where
  packets : (routerAt s r).packets = [(i, p)]
  input : i < 7
  bound : p.out = out
  entered : p.entered ≤ s.cycle
  slack : p.slack ≠ 0
  overdue : p.overdue = none

theorem OnePacket.candidateOf (h : OnePacket s r out i p) (j : Nat) : candidateOf s r out j = if j = i then some p else none := by
  have hp : presentable s r out j = if j = i then [p] else [] := by
    rw [presentable, h.packets]
    by_cases hj : j = i
    · simp [hj, h.bound, h.entered]
    · simp [hj, Ne.symm hj]
  rw [Machine.candidateOf, hp]
  by_cases hj : j = i
  · rw [if_pos hj, if_pos hj]
    rfl
  · rw [if_neg hj, if_neg hj]

theorem OnePacket.candidates (h : OnePacket s r out i p) : candidates s r out = [(i, p)] := by
  have hc : (fun j => (Machine.candidateOf s r out j).map fun q => (j, q)) = fun j => if j = i then some (j, p) else none := by
    funext j
    rw [h.candidateOf]
    split <;> rfl
  rw [Machine.candidates, hc]
  have hi := h.input
  interval_cases i <;> rfl

/-- The one candidate wins, wherever the rotation pointer stands (R311). -/
theorem OnePacket.winner (h : OnePacket s r out i p) : winner s r out = some (i, p) := by
  have he : earliestOverdue [(i, p)] = none := by simp [earliestOverdue, h.overdue]
  have hf (n : Nat) : fromPointer n [(i, p)] = [(i, p)] := by
    by_cases hn : n ≤ i
    · simp [fromPointer, hn]
    · simp [fromPointer, hn, Nat.lt_of_not_le hn]
  rw [Machine.winner, h.candidates, he, hf]
  rfl

/-- A candidate that has slack left is not stamped. -/
theorem OnePacket.run_stampOverdue (h : OnePacket s r out i p) : run (stampOverdue r p) s = s := by
  rw [stampOverdue, run_look_bind, run_onlyIf, decide_eq_false h.slack, Bool.false_and, if_neg Bool.false_ne_true]

/-! ### The grant of a packet -/

/-- What an output does once its candidates are stamped. -/
def grantSteps (r out : Nat) : Act Unit := do
  let t ← look id
  match winner t r out with
  | none => pure ()
  | some (input, p) =>
    if waitsBelow t r out p.dst then do
      wakeRouter (nextRouter r out)
      againSoon 5 (4096 + r * 7 + out) (.routerGrant r out)
    else grantPacket r out input p

theorem clock_grantSteps : Keeps clockFrame (grantSteps r out) :=
  keeps_look_bind fun _ => by
    split
    · exact keeps_pure
    · exact keeps_ite (keeps_bind net_wakeRouter.clock fun _ => net_againSoon.clock) clock_grantPacket

theorem exec_routerGrant (h : OnePacket s r out i p) (hd : (routerAt s r).down = false) (hf : mget 0 (routerAt s r).free out ≤ s.cycle) :
    exec (.routerGrant r out) s = .next (run (if waitsBelow s r out p.dst then do
        wakeRouter (nextRouter r out)
        againSoon 5 (4096 + r * 7 + out) (.routerGrant r out)
      else grantPacket r out i p) s) := by
  have hx : exec (.routerGrant r out) s = .next (run (onlyIf (!(routerAt s r).down && decide (mget 0 (routerAt s r).free out ≤ s.cycle))
      (each (candidates s r out) (fun x => stampOverdue r x.2) >>= fun _ => grantSteps r out)) s) := rfl
  have hl (x : Nat × Packet) : Logged (stampOverdue r x.2) := clock_stampOverdue.logged
  rw [hx, run_onlyIf, hd, decide_eq_true hf, if_pos (by rfl), h.candidates, run_seq (logged_each _ hl) clock_grantSteps.logged,
    run_each_cons _ _ hl, run_each_nil, h.run_stampOverdue, grantSteps, run_look_bind, id, h.winner]

/-- A packet that no wellhead, port or core beside its output takes goes on into the next router. -/
theorem run_passOutput (hl : isLast r out p.dst = false) (hm : ∀ w, p.msg ≠ .store w) (hd : entersDead s r out p.dst = false) :
    run (passOutput r out p) s = run (enterRouter (nextRouter r out) (facingInput out) p) s := by
  have hx : passOutput r out p = look id >>= fun s => (if entersDead s r out p.dst then unreachableAt r p.msg
      else enterRouter (nextRouter r out) (facingInput out) p) := by
    rw [passOutput]
    split
    next hw =>
      split at hw
      · exact absurd ‹_› (hm _)
      · contradiction
    next => rw [if_neg (by rw [hl]; exact Bool.false_ne_true)]
  rw [hx, run_look_bind, id, if_neg (by rw [hd]; exact Bool.false_ne_true)]

/-- A router after one of its packets has been granted by an output. -/
def grantedFrom (s : State) (out i : Nat) (p : Packet) (x : Router) : Router :=
  { x with
    packets := x.packets.filter fun e => decide (e.2.id ≠ p.id), pointers := mset 0 x.pointers out ((i + 1) % 7),
    free := mset 0 x.free out (s.cycle + 1) }

/-- The state once a packet has left a router by an output. -/
def granted (r out i : Nat) (p : Packet) (s : State) : State := applyUpd (.router r (grantedFrom s out i p (routerAt s r))) s

/-- What follows a granted packet at its router. -/
def afterGrant (r out i n : Nat) : Act Unit := do
  onlyIf (decide (i = 6)) (leaveEntry r n)
  startIdle r
  let u ← look id
  onlyIf ((routerAt u r).packets.any fun e => decide (e.2.out = out)) (later 1 5 (4096 + r * 7 + out) (.routerGrant r out))

theorem grantPacket_eq : grantPacket r out i p = (do
    let now ← look (·.cycle)
    modRouter r fun x => { x with
      packets := x.packets.filter fun e => decide (e.2.id ≠ p.id), pointers := mset 0 x.pointers out ((i + 1) % 7),
      free := mset 0 x.free out (now + 1) }
    passOutput r out p
    afterGrant r out i p.id) := rfl

theorem logged_afterGrant {n : Nat} : Logged (afterGrant r out i n) :=
  logged_bind (logged_onlyIf _ clock_leaveEntry.logged) fun _ => logged_bind idle_startIdle.logged fun _ =>
    logged_bind (logged_look _) fun _ => logged_onlyIf _ (logged_later _ _ _ _)

theorem run_grantPacket : run (grantPacket r out i p) s =
    run (afterGrant r out i p.id) (run (passOutput r out p) (granted r out i p s)) := by
  rw [grantPacket_eq, run_look_bind, run_seq (logged_modRouter _ _) (logged_bind clock_passOutput.logged fun _ => logged_afterGrant),
    run_seq clock_passOutput.logged logged_afterGrant]
  rfl

end
end Sys2Proof.Machine

namespace Sys2Proof.Machine
open Sys2Proof

/-! ### The entries of a port that a packet leaves -/

section
variable {p : Nat}

theorem ports_sendFlit {vc : Nat} {body : List FabricMsg} : Keeps portsFrame (sendFlit p vc body) :=
  keeps_look_bind fun _ => keeps_bind ports_modPort fun _ => link_putFlit.ports

theorem ports_pumpPort {fuel : Nat} : Keeps portsFrame (pumpPort p fuel) := by
  induction fuel with
  | zero => exact keeps_pure
  | succ fuel ih =>
    refine keeps_look_bind fun _ => keeps_ite ?_ keeps_pure
    split
    · exact keeps_pure
    · exact keeps_bind ports_modPort fun _ => keeps_bind ports_sendFlit fun _ => ih

theorem ports_pumpAll : Keeps portsFrame (pumpAll p) := keeps_look_bind fun _ => ports_pumpPort

theorem ports_tellPort : Keeps portsFrame (tellPort p) :=
  keeps_look_bind fun _ => keeps_onlyIf (keeps_bind ports_pumpAll fun _ => keeps_look_bind fun _ => keeps_onlyIf link_putControl.ports)

theorem ports_freeWindow : Keeps portsFrame (freeWindow p) :=
  keeps_look_bind fun _ => keeps_onlyIf (keeps_bind ports_modPort fun _ => keeps_each fun _ => ports_modPort)

theorem ports_leaveEntry {r n : Nat} : Keeps portsFrame (leaveEntry r n) :=
  keeps_each fun _ => keeps_look_bind fun _ => keeps_onlyIf (keeps_bind ports_modPort fun _ => keeps_look_bind fun _ =>
    keeps_bind ports_freeWindow fun _ => keeps_onlyIf ports_tellPort)

end

/-! ### Grants -/

section
variable {s : State} {r out i : Nat} {p : Packet}

/-- What follows a grant leaves every router as it was but for its idle count. -/
theorem afterGrant_keeps {n : Nat} : Quiet s (run (afterGrant r out i n) s) ∧
    ∀ q, routerAt (run (afterGrant r out i n) s) q =
      { routerAt s q with idleSince := (routerAt (run (afterGrant r out i n) s) q).idleSince } := by
  have hk : Keeps idleFrame (startIdle r >>= fun _ => look id >>= fun u =>
      onlyIf ((routerAt u r).packets.any fun e => decide (e.2.out = out)) (later 1 5 (4096 + r * 7 + out) (.routerGrant r out))) :=
    keeps_bind idle_startIdle fun _ => keeps_look_bind fun _ => keeps_onlyIf idle_later
  have hl : Keeps portsFrame (onlyIf (decide (i = 6)) (leaveEntry r n)) := keeps_onlyIf ports_leaveEntry
  have hp : PortsRel s _ := hl.run s
  rw [afterGrant, run_seq hl.logged hk.logged]
  generalize run (onlyIf (decide (i = 6)) (leaveEntry r n)) s = v at hp
  have hi : IdleRel v _ := hk.run v
  refine ⟨hp.quiet.trans hi.quiet, fun q => ?_⟩
  have hq := hi.router q
  rw [hp.routerAt] at hq
  exact hq

theorem entersDead_router {x : Router} {d : Dest} : entersDead (applyUpd (.router r x) s) r out d = entersDead s r out d := rfl

theorem grant_passes (h : OnePacket s r out i p) (hd : (routerAt s r).down = false) (hf : mget 0 (routerAt s r).free out ≤ s.cycle)
    (hl : isLast r out p.dst = false) (hm : ∀ w, p.msg ≠ .store w) (he : entersDead s r out p.dst = false)
    (hn : (routerAt s (nextRouter r out)).down = false) : exec (.routerGrant r out) s = .next (run (afterGrant r out i p.id)
      (run (enterRouter (nextRouter r out) (facingInput out) p) (granted r out i p s))) := by
  have hw : waitsBelow s r out p.dst = false := by
    rw [waitsBelow, hn, Bool.and_false]
  have hd' : entersDead (granted r out i p s) r out p.dst = false := entersDead_router.trans he
  rw [exec_routerGrant h hd hf, if_neg (by rw [hw]; exact Bool.false_ne_true), run_grantPacket, run_passOutput hl hm hd']

/-- A router that is down is woken, which takes 32 cycles (R316). -/
theorem wakeRouter_spec {n : Nat} (hd : (routerAt s n).down = true) : let u := run (wakeRouter n) s
    (routerAt u n).waking = true ∧ (∀ q, q ≠ n → routerAt u q = routerAt s q) ∧ Quiet s u ∧
    ((routerAt s n).waking = false → (agendaKey (s.cycle + 32) 5 n, Instr.routerWake n) ∈ u.agenda) := by
  cases hw : (routerAt s n).waking with
  | true =>
    have hx : run (wakeRouter n) s = s := by
      rw [wakeRouter, run_look_bind, run_onlyIf, hd, hw]
      rfl
    rw [hx]
    exact ⟨hw, fun _ _ => rfl, ⟨rfl, rfl⟩, nofun⟩
  | false =>
    have hx : run (wakeRouter n) s = applyUpd (.sched (agendaKey (s.cycle + 32) 5 n) (.routerWake n))
        (applyUpd (.router n { routerAt s n with waking := true }) s) := by
      rw [wakeRouter, run_look_bind, run_onlyIf, hd, hw, if_pos (by rfl), run_seq (logged_modRouter _ _) (logged_later _ _ _ _), run_later,
        dueCycle_later _ _ (by omega)]
      rfl
    rw [hx]
    refine ⟨?_, fun q hq => ?_, ⟨rfl, rfl⟩, fun _ => mem_putEvent.mpr (.inl rfl)⟩
    · exact congrArg Router.waking ((routerAt_changed _ _ _ _).trans (if_pos rfl))
    · exact (routerAt_changed _ _ _ _).trans (if_neg hq)

theorem grantedFrom_pointers {x : Router} : mget 0 (grantedFrom s out i p x).pointers out = (i + 1) % 7 := by
  simp only [grantedFrom, mget_mset_same]

theorem grantedFrom_free {x : Router} : mget 0 (grantedFrom s out i p x).free out = s.cycle + 1 := by
  simp only [grantedFrom, mget_mset_same]

theorem granted_enters (h : OnePacket s r out i p) (hd : (routerAt s r).down = false) (hf : mget 0 (routerAt s r).free out ≤ s.cycle)
    (hl : isLast r out p.dst = false) (hm : ∀ w, p.msg ≠ .store w) (hne : nextRouter r out ≠ r)
    (he : entersDead s r out p.dst = false) (hn : (routerAt s (nextRouter r out)).down = false) :
    ∃ u o, exec (.routerGrant r out) s = .next u ∧ (routerAt u r).packets = [] ∧
      mget 0 (routerAt u r).pointers out = (i + 1) % 7 ∧ mget 0 (routerAt u r).free out = s.cycle + 1 ∧
      (routerAt u (nextRouter r out)).packets = (routerAt s (nextRouter r out)).packets ++
        [(facingInput out, { p with out := o, entered := s.cycle + 1 })] ∧ Quiet s u := by
  have hg : routerAt (granted r out i p s) r = grantedFrom s out i p (routerAt s r) := (routerAt_changed _ _ _ _).trans (if_pos rfl)
  have hg' : routerAt (granted r out i p s) (nextRouter r out) = routerAt s (nextRouter r out) :=
    (routerAt_changed _ _ _ _).trans (if_neg hne)
  have hn' : (routerAt (granted r out i p s) (nextRouter r out)).down = false := by
    rw [hg']
    exact hn
  have hx := grant_passes h hd hf hl hm he hn
  have hr := routerAt_enterRouter (i := facingInput out) (q := r) (k := p) hn'
  have hr' := routerAt_enterRouter (i := facingInput out) (q := nextRouter r out) (k := p) hn'
  have hq : Quiet s (run (enterRouter (nextRouter r out) (facingInput out) p) (granted r out i p s)) :=
    Quiet.trans ⟨rfl, rfl⟩ quiet_enterRouter
  rw [if_neg hne.symm, hg] at hr
  rw [if_pos rfl, hg'] at hr'
  generalize run (enterRouter (nextRouter r out) (facingInput out) p) (granted r out i p s) = v at hx hr hr' hq
  obtain ⟨ha, hk⟩ := afterGrant_keeps (s := v) (r := r) (out := out) (i := i) (n := p.id)
  have hkr := hk r
  have hkn := hk (nextRouter r out)
  rw [hr] at hkr
  rw [hr'] at hkn
  refine ⟨_, chooseOut (granted r out i p s) (nextRouter r out) p.dst, hx, ?_, ?_, ?_, ?_, hq.trans ha⟩
  · rw [hkr, grantedFrom, h.packets]
    simp
  · rw [hkr]
    exact grantedFrom_pointers (s := s) (p := p)
  · rw [hkr]
    exact grantedFrom_free (i := i) (p := p)
  · rw [hkn, h.overdue]
    rfl

/-- While the next router is down, the packet stays and the router is woken (R316). -/
theorem grant_wakes (h : OnePacket s r out i p) (hd : (routerAt s r).down = false) (hf : mget 0 (routerAt s r).free out ≤ s.cycle)
    (hl : isLast r out p.dst = false) (hne : nextRouter r out ≠ r) (hn : (routerAt s (nextRouter r out)).down = true) :
    ∃ u, exec (.routerGrant r out) s = .next u ∧ (routerAt u r).packets = [(i, p)] ∧
      (routerAt u (nextRouter r out)).waking = true ∧ Quiet s u ∧
      ((routerAt s (nextRouter r out)).waking = false → Pends s u 32 5 (nextRouter r out) (.routerWake (nextRouter r out))) := by
  have hw : waitsBelow s r out p.dst = true := by
    rw [waitsBelow, hn, hl]
    rfl
  have hx := exec_routerGrant h hd hf
  rw [if_pos hw, run_seq net_wakeRouter.logged idle_againSoon.logged] at hx
  obtain ⟨ha, hb, hc, hg⟩ := wakeRouter_spec hn
  generalize run (wakeRouter (nextRouter r out)) s = v at hx ha hb hc hg
  have hi : IdleRel v (run (againSoon 5 (4096 + r * 7 + out) (.routerGrant r out)) v) := idle_againSoon.run v
  refine ⟨_, hx, ?_, ?_, hc.trans hi.quiet, fun hk => ?_⟩
  · rw [hi.router r, hb r hne.symm]
    exact h.packets
  · rw [hi.router (nextRouter r out)]
    exact ha
  · rw [Pends, dueCycle_later _ _ (by omega)]
    exact hi.agenda _ (hg hk)

theorem routerGrants : Claims.RouterGrants := by
  intro s r out i p hd hf hi hp ho hent hsl hl hm hne he hov
  have h : OnePacket s r out i p := ⟨hp, hi, ho, hent, hsl, hov⟩
  exact ⟨granted_enters h hd hf hl hm hne he, grant_wakes h hd hf hl hne⟩

end
end Sys2Proof.Machine

namespace Sys2Proof.Machine
open Sys2Proof

/-! ### Exhausted slack -/

/-- What a counter of a core leaves as it was: all but the registers of cores. -/
structure CountRel (s t : State) : Prop where
  fields : t = { s with cores := t.cores }
  core : ∀ c, coreAt t c = { coreAt s c with regs := (coreAt t c).regs }

def countFrame : Frame where
  rel := CountRel
  refl _ := ⟨rfl, fun _ => rfl⟩
  trans h k := ⟨by
    have hk := k.fields
    rw [h.fields] at hk
    exact hk, fun c => by
    have hk := k.core c
    rw [h.core c] at hk
    exact hk⟩
  cycle h := by rw [h.fields]

section
variable {s : State}

theorem count_setCreg {c off : Nat} {v : Word} : Keeps countFrame (setCreg c off v) :=
  keeps_of_run (logged_setCreg _ _ _) fun s => ⟨rfl, fun d => by
    rw [run_setCreg, coreAt_changed]
    split
    case isTrue h => rw [h]
    case isFalse => rfl⟩

theorem count_countReg {c off n : Nat} : Keeps countFrame (countReg c off n) :=
  keeps_look_bind fun _ => keeps_onlyIf count_setCreg

/-- What an exhausted-slack event counts at a core that has issued the packet, beside its SLKEXH (R314). -/
def countSlot (core : Nat) (slot : Option Nat) : Act Unit := do
  let rep ← look fun s => (creg s core 0x0C80).getLsbD 0
  match slot with
  | some k => onlyIf rep (countReg core (0x0E00 + 8 * k) 1)
  | none => pure ()

theorem count_countSlot {core : Nat} {slot : Option Nat} : Keeps countFrame (countSlot core slot) :=
  keeps_look_bind fun _ => by
    split
    · exact keeps_onlyIf count_countReg
    · exact keeps_pure

theorem slackEventAt_eq (core : Nat) (slot : Option Nat) : slackEventAt core slot =
    onlyIf (decide (core < 2304)) (countReg core 0x0C88 1 >>= fun _ => countSlot core slot) := rfl

theorem count_slackEventAt {core : Nat} {slot : Option Nat} : Keeps countFrame (slackEventAt core slot) := by
  rw [slackEventAt_eq]
  exact keeps_onlyIf (keeps_bind count_countReg fun _ => count_countSlot)

theorem creg_countSlot {core : Nat} {slot : Option Nat} : creg (run (countSlot core slot) s) core 0x0C88 = creg s core 0x0C88 := by
  rw [countSlot, run_look_bind]
  cases slot with
  | none => rfl
  | some k =>
    dsimp only
    rw [run_onlyIf]
    split
    · rw [run_countReg_one, creg_setCreg, if_neg (by omega)]
    · rfl

/-- SLKEXH counts an exhausted-slack event at the issuing core (R314). -/
theorem creg_slackEventAt {core : Nat} {slot : Option Nat} (h : core < 2304) :
    creg (run (slackEventAt core slot) s) core 0x0C88 = addSat64 (creg s core 0x0C88) 1 := by
  rw [slackEventAt_eq, run_onlyIf, decide_eq_true h, if_pos rfl, run_seq count_countReg.logged count_countSlot.logged, creg_countSlot,
    run_countReg_one, creg_setCreg, if_pos ⟨rfl, rfl⟩]

/-! ### The slack of a packet that waits -/

/-- Slack and EXH after eight more cycles. -/
def lessSlack (k : Packet) : Packet := { k with slack := k.slack - 1, exh := k.exh || decide (k.slack = 1) }

/-- The event of a packet whose slack comes to 0. -/
def lastSlack (k : Packet) : Act Unit := onlyIf (decide (k.slack = 1) && !k.exh) (slackEvent k)

theorem count_lastSlack {k : Packet} : Keeps countFrame (lastSlack k) := keeps_onlyIf count_slackEventAt

theorem CountRel.quiet {t : State} (h : CountRel s t) : Quiet s t := ⟨by rw [h.fields], by rw [h.fields]⟩

/-- Eight more cycles of a packet: the event of its last slack, its slack, and the next eight cycles. -/
def losesSlack (a b : Act Unit) (place : Nat) (e : Instr) : Act Unit := do
  a
  b
  later 8 6 place e

/-- The state once its slack is less, before the next eight cycles begin. -/
def slackLess (a b : Act Unit) (s : State) : State := run b (run a s)

/-- A change of one component that keeps memory, the slots and the cycle. -/
structure Tame (b : Act Unit) : Prop where
  logged : Logged b
  quiet : ∀ t, Quiet t (run b t)
  cycle : ∀ t, (run b t).cycle = t.cycle

theorem tame_modRouter {r : Nat} {f : Router → Router} : Tame (modRouter r f) := ⟨logged_modRouter _ _, fun _ => ⟨rfl, rfl⟩, fun _ => rfl⟩
theorem tame_modCore {c : Nat} {f : Core → Core} : Tame (modCore c f) := ⟨logged_modCore _ _, fun _ => ⟨rfl, rfl⟩, fun _ => rfl⟩
theorem tame_modPort {p : Nat} {f : Port → Port} : Tame (modPort p f) := ⟨logged_modPort _ _, fun _ => ⟨rfl, rfl⟩, fun _ => rfl⟩
theorem tame_modWell {w : Nat} {f : Wellhead → Wellhead} : Tame (modWell w f) := ⟨logged_modWell _ _, fun _ => ⟨rfl, rfl⟩, fun _ => rfl⟩

theorem run_losesSlack {a b : Act Unit} {place : Nat} {e : Instr} (ha : Keeps countFrame a) (hb : Tame b) :
    run (losesSlack a b place e) s = applyUpd (.sched (agendaKey (s.cycle + 8) 6 place) e) (slackLess a b s) := by
  have hc : CountRel s (run a s) := ha.run s
  have ht : (slackLess a b s).cycle = s.cycle := (hb.cycle _).trans (by rw [hc.fields])
  have hx : run (losesSlack a b place e) s = run (later 8 6 place e) (slackLess a b s) := by
    rw [losesSlack, run_seq ha.logged (logged_bind hb.logged fun _ => logged_later _ _ _ _), run_seq hb.logged (logged_later _ _ _ _)]
    rfl
  rw [hx, run_later, dueCycle_later _ _ (by omega), ht]

theorem losesSlack_spec {i : Instr} {a b : Act Unit} {place : Nat} {c : Bool}
    (hx : exec i s = .next (run (onlyIf c (losesSlack a b place i)) s)) (hc : c = true) (ha : Keeps countFrame a) (hb : Tame b) :
    ∃ u, exec i s = .next u ∧ u = applyUpd (.sched (agendaKey (s.cycle + 8) 6 place) i) (slackLess a b s) ∧
      Pends s u 8 6 place i ∧ Quiet s u := by
  have hq : Quiet s (slackLess a b s) := (CountRel.quiet (ha.run s)).trans (hb.quiet _)
  rw [hc, run_onlyIf, if_pos rfl, run_losesSlack ha hb] at hx
  refine ⟨_, hx, rfl, ?_, hq⟩
  rw [Pends, dueCycle_later _ _ (by omega)]
  exact mem_putEvent.mpr (.inl rfl)

theorem exec_slackDecrement (b n : Nat) : exec (.slackDecrement b n) s = .next (run (
    if b < 2304 then slackInRouter b n
    else if b < 4608 then slackOfFill (b - 2304) n
    else if b < 4624 then slackAtPort (b - 4608) n
    else slackAtWell (b - 4624) n) s) := rfl

/-! ### The four buffers -/

theorem slackDecrement_router {r i : Nat} {p : Packet} (hr : r < 2304) (hp : (routerAt s r).packets = [(i, p)]) :
    exec (.slackDecrement r p.id) s = .next (run (onlyIf (decide (p.slack ≠ 0) && decide (p.entered ≤ s.cycle) &&
      decide ((s.cycle + 1 - p.entered) % 8 = 0))
      (losesSlack (lastSlack p) (modPacket r p.id lessSlack) (r * 8 + i) (.slackDecrement r p.id))) s) := by
  have hf : ((routerAt s r).packets ++ (routerAt s r).offered).find? (fun e => decide (e.2.id = p.id)) = some (i, p) := by
    rw [hp]
    simp
  rw [exec_slackDecrement, if_pos hr, slackInRouter, run_look_bind, run_look_bind, hf]
  rfl

theorem packets_slackLess {r i : Nat} {p : Packet} (hp : (routerAt s r).packets = [(i, p)]) :
    (routerAt (slackLess (lastSlack p) (modPacket r p.id lessSlack) s) r).packets = [(i, lessSlack p)] := by
  have hc : CountRel s (run (lastSlack p) s) := count_lastSlack.run s
  have hr : routerAt (run (lastSlack p) s) r = routerAt s r := by
    rw [hc.fields]
    rfl
  rw [slackLess, modPacket, run_modRouter, routerAt_changed, if_pos rfl, hr, hp]
  simp

theorem routerSlack_spec {r i : Nat} {p : Packet} (hr : r < 2304) (hp : (routerAt s r).packets = [(i, p)]) (hs : p.slack ≠ 0)
    (he : p.entered ≤ s.cycle) (hm : (s.cycle + 1 - p.entered) % 8 = 0) :
    ∃ u, exec (.slackDecrement r p.id) s = .next u ∧ (routerAt u r).packets = [(i, lessSlack p)] ∧
      Pends s u 8 6 (r * 8 + i) (.slackDecrement r p.id) ∧ Quiet s u ∧ (1 < p.slack → u.cores = s.cores) ∧
      (p.slack = 1 → p.exh = false → p.core < 2304 → creg u p.core 0x0C88 = addSat64 (creg s p.core 0x0C88) 1) := by
  obtain ⟨u, hx, hu, hpe, hq⟩ := losesSlack_spec (slackDecrement_router hr hp) (by simp [hs, he, hm]) count_lastSlack tame_modRouter
  refine ⟨u, hx, ?_, hpe, hq, fun h1 => ?_, fun h1 hx hc => ?_⟩ <;> rw [hu]
  · exact packets_slackLess hp
  · have hn : run (lastSlack p) s = s := by
      rw [lastSlack, run_onlyIf, decide_eq_false (by omega), Bool.false_and, if_neg Bool.false_ne_true]
    rw [slackLess, hn]
    rfl
  · have hv : run (lastSlack p) s = run (slackEventAt p.core p.slot) s := by
      rw [lastSlack, run_onlyIf, h1, hx, if_pos (by rfl), slackEvent]
    rw [slackLess, hv, ← creg_slackEventAt (slot := p.slot) hc]
    rfl

/-- A fill after eight more cycles at a full register. -/
def lessFill (m : TaskMsg) : TaskMsg := { m with slack := m.slack - 1, exh := m.exh || decide (m.slack = 1) }

/-- The event of a fill whose slack comes to 0. -/
def lastFill (m : TaskMsg) : Act Unit := onlyIf (decide (m.slack = 1) && !m.exh) (slackEventAt m.src (some m.srcSlot))

theorem count_lastFill {m : TaskMsg} : Keeps countFrame (lastFill m) := keeps_onlyIf count_slackEventAt

/-- The fills at a core, when one of them has waited eight more cycles. -/
def modFill (c n : Nat) : Act Unit :=
  modCore c fun x => { x with fills := x.fills.map fun e => if e.1 = n then (n, lessFill e.2) else e }

theorem slackDecrement_fill {c n : Nat} {m : TaskMsg} (hc : c < 2304) (hf : (coreAt s c).fills = [(n, m)]) :
    exec (.slackDecrement (fillBuffer c) n) s = .next (run (onlyIf (decide (m.slack ≠ 0))
      (losesSlack (lastFill m) (modFill c n) (23000 + c) (.slackDecrement (fillBuffer c) n))) s) := by
  have hi : (coreAt s c).fills.find? (fun e => decide (e.1 = n)) = some (n, m) := by
    rw [hf]
    simp
  have hl : ¬ fillBuffer c < 2304 ∧ fillBuffer c < 4608 ∧ fillBuffer c - 2304 = c := by
    rw [fillBuffer]
    omega
  obtain ⟨h1, h2, h3⟩ := hl
  rw [exec_slackDecrement, if_neg h1, if_pos h2, h3, slackOfFill, run_look_bind, hi]
  rfl

theorem fills_slackLess {c n : Nat} {m : TaskMsg} (hf : (coreAt s c).fills = [(n, m)]) :
    (coreAt (slackLess (lastFill m) (modFill c n) s) c).fills = [(n, lessFill m)] := by
  have hv : CountRel s (run (lastFill m) s) := count_lastFill.run s
  rw [slackLess, modFill, run_modCore, coreAt_changed, if_pos rfl, hv.core c, hf]
  simp

theorem fillSlack_spec {c n : Nat} {m : TaskMsg} (hc : c < 2304) (hf : (coreAt s c).fills = [(n, m)]) (hs : m.slack ≠ 0) :
    ∃ u, exec (.slackDecrement (fillBuffer c) n) s = .next u ∧ (coreAt u c).fills = [(n, lessFill m)] ∧
      Pends s u 8 6 (23000 + c) (.slackDecrement (fillBuffer c) n) ∧ Quiet s u := by
  obtain ⟨u, hx, hu, hpe, hq⟩ := losesSlack_spec (slackDecrement_fill hc hf) (decide_eq_true hs) count_lastFill tame_modCore
  refine ⟨u, hx, ?_, hpe, hq⟩
  rw [hu]
  exact fills_slackLess hf

/-- The queue of a port, when one of its packets has waited eight more cycles. -/
def modQueued (q n : Nat) : Act Unit :=
  modPort q fun x => { x with queue := x.queue.map fun k => if k.id = n then lessSlack k else k }

theorem slackDecrement_port {q : Nat} {p : Packet} (hq : q < 16) (hp : (portAt s q).queue = [p]) :
    exec (.slackDecrement (portBuffer q) p.id) s = .next (run (onlyIf (decide (p.slack ≠ 0))
      (losesSlack (lastSlack p) (modQueued q p.id) (26000 + q) (.slackDecrement (portBuffer q) p.id))) s) := by
  have hi : (portAt s q).queue.find? (fun k => decide (k.id = p.id)) = some p := by
    rw [hp]
    simp
  have hl : ¬ portBuffer q < 2304 ∧ ¬ portBuffer q < 4608 ∧ portBuffer q < 4624 ∧ portBuffer q - 4608 = q := by
    rw [portBuffer]
    omega
  obtain ⟨h1, h2, h3, h4⟩ := hl
  rw [exec_slackDecrement, if_neg h1, if_neg h2, if_pos h3, h4, slackAtPort, run_look_bind, hi]
  rfl

theorem queue_slackLess {q : Nat} {p : Packet} (hp : (portAt s q).queue = [p]) :
    (portAt (slackLess (lastSlack p) (modQueued q p.id) s) q).queue = [lessSlack p] := by
  have hv : CountRel s (run (lastSlack p) s) := count_lastSlack.run s
  have hr : portAt (run (lastSlack p) s) q = portAt s q := by
    rw [hv.fields]
    rfl
  rw [slackLess, modQueued, run_modPort, portAt_changed, if_pos rfl, hr, hp]
  simp

theorem portSlack_spec {q : Nat} {p : Packet} (hq : q < 16) (hp : (portAt s q).queue = [p]) (hs : p.slack ≠ 0) :
    ∃ u, exec (.slackDecrement (portBuffer q) p.id) s = .next u ∧ (portAt u q).queue = [lessSlack p] ∧
      Pends s u 8 6 (26000 + q) (.slackDecrement (portBuffer q) p.id) ∧ Quiet s u := by
  obtain ⟨u, hx, hu, hpe, hqt⟩ := losesSlack_spec (slackDecrement_port hq hp) (decide_eq_true hs) count_lastSlack tame_modPort
  refine ⟨u, hx, ?_, hpe, hqt⟩
  rw [hu]
  exact queue_slackLess hp

/-- The packets that wait for a permit of a wellhead, when one of them has waited eight more cycles. -/
def modWaiting (w n : Nat) : Act Unit :=
  modWell w fun x => { x with waiting := x.waiting.map fun y => if y.packet.id = n then { y with packet := lessSlack y.packet } else y }

theorem slackDecrement_well {w : Nat} {e : WaitReq} (he : (wellAt s w).waiting = [e]) :
    exec (.slackDecrement (permitBuffer w) e.packet.id) s = .next (run (onlyIf (decide (e.packet.slack ≠ 0))
      (losesSlack (lastSlack e.packet) (modWaiting w e.packet.id) (27000 + w) (.slackDecrement (permitBuffer w) e.packet.id))) s) := by
  have hi : (wellAt s w).waiting.find? (fun y => decide (y.packet.id = e.packet.id)) = some e := by
    rw [he]
    simp
  have hl : ¬ permitBuffer w < 2304 ∧ ¬ permitBuffer w < 4608 ∧ ¬ permitBuffer w < 4624 ∧ permitBuffer w - 4624 = w := by
    rw [permitBuffer]
    omega
  obtain ⟨h1, h2, h3, h4⟩ := hl
  rw [exec_slackDecrement, if_neg h1, if_neg h2, if_neg h3, h4, slackAtWell, run_look_bind, hi]
  rfl

theorem waiting_slackLess {w : Nat} {e : WaitReq} (he : (wellAt s w).waiting = [e]) :
    (wellAt (slackLess (lastSlack e.packet) (modWaiting w e.packet.id) s) w).waiting = [{ e with packet := lessSlack e.packet }] := by
  have hv : CountRel s (run (lastSlack e.packet) s) := count_lastSlack.run s
  have hr : wellAt (run (lastSlack e.packet) s) w = wellAt s w := by
    rw [hv.fields]
    rfl
  rw [slackLess, modWaiting, run_modWell, wellAt_changed, if_pos rfl, hr, he]
  simp

theorem wellSlack_spec {w : Nat} {e : WaitReq} (he : (wellAt s w).waiting = [e]) (hs : e.packet.slack ≠ 0) :
    ∃ u, exec (.slackDecrement (permitBuffer w) e.packet.id) s = .next u ∧
      (wellAt u w).waiting = [{ e with packet := lessSlack e.packet }] ∧
      Pends s u 8 6 (27000 + w) (.slackDecrement (permitBuffer w) e.packet.id) ∧ Quiet s u := by
  obtain ⟨u, hx, hu, hpe, hqt⟩ := losesSlack_spec (slackDecrement_well he) (decide_eq_true hs) count_lastSlack tame_modWell
  refine ⟨u, hx, ?_, hpe, hqt⟩
  rw [hu]
  exact waiting_slackLess he

theorem slackDecrements : Claims.SlackDecrements := by
  intro s r i p hr
  refine ⟨fun hp => ⟨fun hs => ?_, fun hs he hm => routerSlack_spec hr hp hs he hm⟩, fun n m hf hs => fillSlack_spec hr hf hs,
    fun q hq hp hs => portSlack_spec hq hp hs, fun w e he hp hs => ?_⟩
  · rw [slackDecrement_router hr hp, run_onlyIf, hs]
    rfl
  · subst hp
    exact wellSlack_spec he hs

end

/-- Settles O58: what a port sends and leaves as it was, the flits by the steps of their arrival, the routers by what a grant, a wake and
eight cycles of waiting change. -/
theorem routersAndPorts : Obligations.RoutersAndPorts :=
  ⟨routerGrants, slackDecrements, routerPower, flitsArrive, audits, retraining⟩

end Sys2Proof.Machine

namespace Sys2Proof.Machine
open Sys2Proof

/-! ### Messages of the units of the tree -/

section
variable {F G : Frame} {s t u : State} {src dst phase place : Nat} {e : Instr}

theorem MailRel.quiet (h : MailRel s t) : Quiet s t := ⟨h.mem, h.slots⟩

/-- The message of a unit that has been sent in this cycle is on its way. -/
def OnWay (src dst phase place : Nat) (e : Instr) (t : State) : Prop := Mailed t t src dst phase place e

theorem OnWay.mailed (h : OnWay src dst phase place e t) (hc : t.cycle = s.cycle) : Mailed s t src dst phase place e := by
  unfold OnWay Mailed Pends at h
  unfold Mailed Pends
  rw [dueCycle_later _ _ (by omega)] at h ⊢
  rwa [hc] at h

theorem OnWay.mono (h : OnWay src dst phase place e t) (r : MailRel t u) : OnWay src dst phase place e u := by
  by_cases hne : src = dst
  · rw [OnWay, Mailed, if_pos hne, Pends, dueCycle_later _ _ (by omega)] at h
    rw [OnWay, Mailed, if_pos hne, Pends, dueCycle_later _ _ (by omega), r.cycle]
    exact r.agenda _ h
  · rw [OnWay, Mailed, if_neg hne] at h
    exact mailed_of_sent hne (Sent.mono h r)

theorem leaves_unitSendBy {core : Nat} : Leaves (OnWay src dst phase place e) (unitSendBy core src dst phase place e) := by
  refine ⟨mail_unitSendBy.logged, fun s => ?_⟩
  by_cases hne : src = dst
  · rw [OnWay, Mailed, if_pos hne, Pends, dueCycle_later _ _ (by omega), unitSendBy, if_pos hne, run_later,
      dueCycle_later _ _ (by omega)]
    exact mem_putEvent.mpr (.inl rfl)
  · exact mailed_of_sent hne (sent_unitSendBy hne)

theorem leaves_unitSend : Leaves (OnWay src dst phase place e) (unitSend src dst phase place e) := leaves_unitSendBy

/-- Messages of one unit to each of several others. -/
theorem leaves_unitSends {α : Type} {l : List α} {i : α} {dst place : α → Nat} {ev : α → Instr} (hi : i ∈ l) :
    Leaves (OnWay src (dst i) phase (place i) (ev i)) (each l fun i => unitSend src (dst i) phase (place i) (ev i)) :=
  leaves_each (P := fun i => OnWay src (dst i) phase (place i) (ev i)) (fun _ => mail_unitSend) (fun _ _ _ r h => h.mono r)
    (fun _ => leaves_unitSend) hi

theorem mail_core {c : Nat} {x : Core} : MailRel s (applyUpd (.core c x) s) :=
  ⟨rfl, rfl, rfl, rfl, fun _ h => h, fun _ h => h, fun _ _ h => h⟩

theorem mail_modRoot {f} : Keeps mailFrame (modRoot f) :=
  keeps_look_bind fun _ => keeps_emit fun _ => ⟨rfl, rfl, rfl, rfl, fun _ h => h, fun _ h => h, fun _ _ h => h⟩

theorem mail_setTreeUnit {lv u x} : Keeps mailFrame (setTreeUnit lv u x) := by
  cases lv with
  | region => exact keeps_emit fun _ => ⟨rfl, rfl, rfl, rfl, fun _ h => h, fun _ h => h, fun _ _ h => h⟩
  | die => exact mail_modDie
  | module => exact mail_modRoot

theorem mail_sendNode {r n m} : Keeps mailFrame (sendNode r n m) :=
  keeps_look_bind fun _ => by
    split
    · exact mail_sendMsg
    · exact keeps_pure

theorem mail_atCycle {n phase place e} : Keeps mailFrame (atCycle n phase place e) :=
  keeps_look_bind fun _ => keeps_emit fun _ =>
    ⟨rfl, rfl, rfl, rfl, fun _ h => mem_putEvent.mpr (.inr h), fun _ h => h, fun _ _ h => h⟩

theorem NetRel.coreAt (h : NetRel s t) (c : Nat) : coreAt t c = coreAt s c := by
  rw [h.fields]
  rfl

theorem NetRel.sheaves (h : NetRel s t) : t.sheaves = s.sheaves := by rw [h.fields]

theorem NetRel.root (h : NetRel s t) : t.root = s.root := by rw [h.fields]

theorem NetRel.treeUnit (h : NetRel s t) (lv : TreeLevel) (u : Nat) : treeUnit t lv u = treeUnit s lv u := by
  rw [h.fields]
  cases lv <;> rfl

/-- An action for each item of a list has, for an item of the list, run its action from a state that the items before have left. -/
theorem run_each_mem {α : Type} {l : List α} {i : α} {f : α → Act Unit} (hf : ∀ x, Keeps F (f x)) (hi : i ∈ l) :
    ∃ t, F.rel s t ∧ F.rel (run (f i) t) (run (each l f) s) := by
  induction l generalizing s with
  | nil => cases hi
  | cons j l ih =>
    rw [run_each_cons j l fun x => (hf x).logged]
    rcases List.mem_cons.mp hi with rfl | hm
    · exact ⟨s, F.refl s, (keeps_each hf).run _⟩
    · obtain ⟨t, h, k⟩ := ih (s := run (f j) s) hm
      exact ⟨t, F.trans ((hf j).run s) h, k⟩

/-- An action for each item of a list changes nothing when none of them does. -/
theorem run_each_unchanged {α : Type} {l : List α} {f : α → Act Unit} (hl : ∀ x, Logged (f x)) (h : ∀ x ∈ l, run (f x) s = s) :
    run (each l f) s = s := by
  induction l with
  | nil => rfl
  | cons x l ih => rw [run_each_cons x l hl, h x (by simp), ih fun y hy => h y (by simp [hy])]

end

/-! ### The batches of a core (R80, R336) -/

section
variable {s : State} {c n : Nat}

/-- What a core sends of the batches that it has formed, and the counts that it records then. -/
def sendFormed (c : Nat) : Act Unit := do
  let l ← look fun s => (coreAt s c).batches
  flushBatches c l
  let d ← look fun s => (coreAt s c).late
  takeLate c d

theorem run_sendBatch : run (sendBatch c) s = run (sendFormed c) (run (formBatch c) s) :=
  run_seq spares_formBatch.logged
    (logged_bind (logged_look _) fun _ => logged_bind clock_flushBatches.logged fun _ =>
      logged_bind (logged_look _) fun _ => clock_takeLate.logged) s

theorem run_sendFormed {b : Batch} (hb : (coreAt s c).batches = [b]) : run (sendFormed c) s =
    let t := run (flushBatches c [b]) s
    run (takeLate c (coreAt t c).late) t := by
  rw [sendFormed, run_look_bind, hb,
    run_seq clock_flushBatches.logged (logged_bind (logged_look _) fun _ => clock_takeLate.logged), run_look_bind]

/-- The core as its one batch leaves. -/
def batchLeft (c : Nat) (s : State) : State := applyUpd (.core c { coreAt s c with batches := (coreAt s c).batches.drop 1 }) s

/-- The state once it has left for the aggregator of the region. -/
def batchSent (c : Nat) (b : Batch) (s : State) : State :=
  run (unitSendBy c c (regionRouter (regionOf c)) 5 29000 (.batchApply .region c b.batch b.formed)) (batchLeft c s)

theorem coreAt_batchSent {b : Batch} : coreAt (batchSent c b s) c = { coreAt s c with batches := (coreAt s c).batches.drop 1 } := by
  have hr : NetRel (batchLeft c s) (batchSent c b s) := net_unitSendBy.run _
  rw [hr.coreAt, batchLeft, coreAt_changed, if_pos rfl]

/-- A batch of which every store is acknowledged leaves. -/
theorem sendFormed_acked {b : Batch} (hb : (coreAt s c).batches = [b]) (hl : (coreAt s c).late = [])
    (ha : storesAcked (coreAt s c) b.formed = true) : run (sendFormed c) s = batchSent c b s := by
  have hn : Logged (flushBatches c []) := clock_flushBatches.logged
  have hf : run (flushBatches c [b]) s = batchSent c b s := by
    rw [flushBatches, run_look_bind, if_pos ha, run_seq (logged_modCore _ _) (logged_bind net_unitSendBy.logged fun _ => hn),
      run_seq net_unitSendBy.logged hn]
    rfl
  rw [run_sendFormed hb, hf]
  dsimp only
  rw [coreAt_batchSent, hl]
  rfl

/-- One that waits for a store stays. -/
theorem sendFormed_waits {b : Batch} (hb : (coreAt s c).batches = [b]) (hl : (coreAt s c).late = [])
    (ha : storesAcked (coreAt s c) b.formed = false) : run (sendFormed c) s = s := by
  have hf : run (flushBatches c [b]) s = s := by
    rw [flushBatches, run_look_bind, if_neg (by rw [ha]; exact Bool.false_ne_true)]
    rfl
  rw [run_sendFormed hb, hf]
  dsimp only
  rw [hl]
  rfl

/-- What the one batch of a core brings about when no count waits for room, and when no store of the core is under way. -/
theorem sendFormed_spec {b : Batch} (hb : (coreAt s c).batches = [b]) (hl : (coreAt s c).late = []) :
    let u := run (sendFormed c) s
    MailRel s u ∧ (coreAt u c).counts = (coreAt s c).counts ∧
      ((coreAt s c).sent = [] → (coreAt u c).batches = [] ∧
        OnWay c (regionRouter (regionOf c)) 5 29000 (.batchApply .region c b.batch b.formed) u) ∧
      (storesAcked (coreAt s c) b.formed = false → (coreAt u c).batches = [b]) := by
  cases ha : storesAcked (coreAt s c) b.formed with
  | false =>
    rw [sendFormed_waits hb hl ha]
    refine ⟨mailFrame.refl s, rfl, fun hs => ?_, fun _ => hb⟩
    simp [storesAcked, hs] at ha
  | true =>
    rw [sendFormed_acked hb hl ha]
    refine ⟨mailFrame.trans mail_core (mail_unitSendBy.run _), ?_, fun _ => ⟨?_, leaves_unitSendBy.post _⟩, nofun⟩
    · rw [coreAt_batchSent]
    · rw [coreAt_batchSent, hb]
      rfl

/-- The core as it forms a batch of its whole table. -/
def batchFormed (c : Nat) (s : State) : State :=
  applyUpd (.core c { coreAt s c with
    batches := (coreAt s c).batches ++ [⟨⟨(coreAt s c).counts, none, false⟩, s.cycle⟩], counts := [], countsSince := none }) s

theorem run_formBatch (h : (coreAt s c).counts ≠ []) : run (formBatch c) s = batchFormed c s := by
  rw [formBatch, run_look_bind, run_modCore, if_neg (by simpa using h)]
  rfl

theorem coreAt_batchFormed : coreAt (batchFormed c s) c = { coreAt s c with
    batches := (coreAt s c).batches ++ [⟨⟨(coreAt s c).counts, none, false⟩, s.cycle⟩], counts := [], countsSince := none } :=
  (coreAt_changed _ _ _ _).trans (if_pos rfl)

theorem sendBatch_spec (hb : (coreAt s c).batches = []) (hl : (coreAt s c).late = []) (hc : (coreAt s c).counts ≠ []) :
    let b : DeltaBatch := ⟨(coreAt s c).counts, none, false⟩
    let u := run (sendBatch c) s
    Quiet s u ∧ (coreAt u c).counts = [] ∧
      ((coreAt s c).sent = [] → (coreAt u c).batches = [] ∧
        Mailed s u c (regionRouter (regionOf c)) 5 29000 (.batchApply .region c b s.cycle)) ∧
      ((∃ w ∈ (coreAt s c).sent, w.commit ≤ s.cycle) → (coreAt u c).batches = [⟨b, s.cycle⟩]) := by
  intro b u
  have hu : u = run (sendFormed c) (batchFormed c s) := by
    rw [← run_formBatch hc]
    exact run_sendBatch
  have hf := coreAt_batchFormed (c := c) (s := s)
  rw [hb] at hf
  obtain ⟨hm, hcounts, hsends, hwaits⟩ :=
    sendFormed_spec (s := batchFormed c s) (c := c) (b := ⟨b, s.cycle⟩) (by rw [hf]; rfl) (by rw [hf, hl])
  rw [← hu, hf] at hcounts hsends hwaits
  rw [← hu] at hm
  have hr : MailRel s u := mailFrame.trans mail_core hm
  refine ⟨hr.quiet, hcounts, fun hs => ?_, fun hw => hwaits ?_⟩
  · obtain ⟨hnone, hway⟩ := hsends hs
    exact ⟨hnone, hway.mailed hr.cycle⟩
  · simpa [storesAcked] using hw

theorem deltaBatches : Claims.DeltaBatches := by
  intro s c hb hl hc
  have hage : exec (.batchAgeExpiry c) s =
      .next (run (onlyIf ((coreAt s c).countsSince.elim false fun n => decide (n + 256 ≤ s.cycle)) (sendBatch c)) s) := rfl
  refine ⟨⟨_, rfl, sendBatch_spec hb hl hc⟩, fun n hn ho => ⟨_, ?_, sendBatch_spec hb hl hc⟩, fun n hn ho => ?_⟩
  · rw [hage, hn, Option.elim_some, decide_eq_true ho, run_onlyIf, if_pos rfl]
  · rw [hage, hn, Option.elim_some, decide_eq_false (by omega), run_onlyIf, if_neg Bool.false_ne_true]

end
end Sys2Proof.Machine

namespace Sys2Proof.Machine
open Sys2Proof

/-! ### Units of the tree (R81, R82) -/

section
variable {s t : State} {lv : TreeLevel} {x n u : Nat}

theorem treeUnit_setTreeUnit {y : TreeUnit} : treeUnit (run (setTreeUnit lv u y) s) lv u = y := by
  cases lv with
  | region => exact mget_mset_same _ _ _ _
  | die =>
    change (dieAt (run (modDie u fun d => { d with tree := y }) s) u).tree = y
    rw [run_modDie, dieAt_changed, if_pos rfl]
  | module => rfl

/-- The units of the other levels stay. -/
theorem treeUnit_setTreeUnit_ne {lw : TreeLevel} {v : Nat} {y : TreeUnit} (h : lw ≠ lv) :
    treeUnit (run (setTreeUnit lv u y) s) lw v = treeUnit s lw v := by
  cases lv <;> cases lw
  case region.region | die.die | module.module => exact absurd rfl h
  case die.region | die.module | region.module | module.region => rfl
  case region.die => rfl
  case module.die => rfl

theorem setTreeUnit_keeps {y : TreeUnit} : (run (setTreeUnit lv u y) s).sheaves = s.sheaves ∧
    (run (setTreeUnit lv u y) s).cores = s.cores ∧ (run (setTreeUnit lv u y) s).mail = s.mail ∧
    (run (setTreeUnit lv u y) s).agenda = s.agenda := by
  cases lv <;> exact ⟨rfl, rfl, rfl, rfl⟩

/-- The state with the batches of a list waiting at a unit. -/
def withWaiting (lv : TreeLevel) (u : Nat) (l : List (Nat × DeltaBatch × Nat)) (s : State) : State :=
  run (setTreeUnit lv u { treeUnit s lv u with waiting := l }) s

theorem withWaiting_keeps {l} : (withWaiting lv u l s).sheaves = s.sheaves ∧ (withWaiting lv u l s).cores = s.cores ∧
    (withWaiting lv u l s).mail = s.mail ∧ (withWaiting lv u l s).agenda = s.agenda := setTreeUnit_keeps

theorem atFrontier_congr (h : t.sheaves = s.sheaves) : atFrontier t = atFrontier s := by
  funext d
  rw [atFrontier, sheafAt, h]
  rfl

theorem levelDeltas_congr (h : t.sheaves = s.sheaves) (lv : TreeLevel) (b : DeltaBatch) : levelDeltas t lv b = levelDeltas s lv b := by
  cases lv with
  | module => simp only [levelDeltas, ownDeltas, atFrontier_congr h, sheafAt, h]
  | _ => rfl

theorem levelFits_congr (h : t.sheaves = s.sheaves) (lv : TreeLevel) (y : TreeUnit) (b : DeltaBatch) :
    levelFits t lv y b = levelFits s lv y b := by
  rw [levelFits, levelDeltas_congr h, ← levelFits]

/-- Whether a level accepts a batch is a matter of its table. -/
theorem levelFits_table {y z : TreeUnit} (h : z.table = y.table) (b : DeltaBatch) : levelFits s lv z b = levelFits s lv y b := by
  rw [levelFits, h, ← levelFits]

theorem treeUnit_withWaiting {l} : treeUnit (withWaiting lv u l s) lv u = { treeUnit s lv u with waiting := l } := treeUnit_setTreeUnit

theorem mail_withWaiting {l} : MailRel s (withWaiting lv u l s) := mail_setTreeUnit.run s

theorem exec_batchApply {b : DeltaBatch} (h : (b.deltas.isEmpty && b.report.isNone) = false) :
    exec (.batchApply lv x b n) s =
      let l := (treeUnit s lv (levelUnit lv x)).waiting ++ [(x, b, n)]
      .next (run (acceptBatches lv (levelUnit lv x) l.length) (withWaiting lv (levelUnit lv x) l s)) := by
  change Host.Outcome.next (run (do
    let l := if b.deltas.isEmpty && b.report.isNone then (treeUnit s lv (levelUnit lv x)).waiting
      else (treeUnit s lv (levelUnit lv x)).waiting ++ [(x, b, n)]
    setTreeUnit lv (levelUnit lv x) { treeUnit s lv (levelUnit lv x) with waiting := l }
    acceptBatches lv (levelUnit lv x) l.length) s) = _
  rw [h]
  exact congrArg _ (run_seq mail_setTreeUnit.logged clock_acceptBatches.logged s)

/-- A unit that accepts the batch that has waited longest applies it. -/
theorem accept_fits {w : Nat × DeltaBatch × Nat} {ws} {k : Nat} (hw : (treeUnit s lv u).waiting = w :: ws)
    (hf : levelFits s lv (treeUnit s lv u) w.2.1 = true) : run (acceptBatches lv u (k + 1)) s =
      run (acceptBatches lv u k) (run (applyBatch lv w.1 w.2.1 w.2.2) (withWaiting lv u ws s)) := by
  rw [acceptBatches, run_look_bind]
  dsimp only [id]
  rw [hw]
  dsimp only
  rw [if_pos hf, run_seq mail_setTreeUnit.logged (logged_bind clock_applyBatch.logged fun _ => clock_acceptBatches.logged),
    run_seq clock_applyBatch.logged clock_acceptBatches.logged]
  rfl

theorem accept_full {w : Nat × DeltaBatch × Nat} {ws} {k : Nat} (hw : (treeUnit s lv u).waiting = w :: ws)
    (hf : levelFits s lv (treeUnit s lv u) w.2.1 = false) : run (acceptBatches lv u k) s = s := by
  cases k with
  | zero => rfl
  | succ k =>
    rw [acceptBatches, run_look_bind]
    dsimp only [id]
    rw [hw]
    dsimp only
    rw [if_neg (by rw [hf]; exact Bool.false_ne_true)]
    rfl

/-- The state in which a unit applies a batch that it has accepted at once. -/
def accepting (lv : TreeLevel) (x : Nat) (b : DeltaBatch) (n : Nat) (s : State) : State :=
  withWaiting lv (levelUnit lv x) [] (withWaiting lv (levelUnit lv x) [(x, b, n)] s)

theorem treeUnit_accepting {b : DeltaBatch} (hw : (treeUnit s lv (levelUnit lv x)).waiting = []) :
    treeUnit (accepting lv x b n s) lv (levelUnit lv x) = treeUnit s lv (levelUnit lv x) := by
  rw [accepting, treeUnit_withWaiting, treeUnit_withWaiting, ← hw]

theorem treeUnit_accepting_ne {b : DeltaBatch} {lw : TreeLevel} {v : Nat} (h : lw ≠ lv) :
    treeUnit (accepting lv x b n s) lw v = treeUnit s lw v :=
  (treeUnit_setTreeUnit_ne h).trans (treeUnit_setTreeUnit_ne h)

theorem accepting_keeps {b : DeltaBatch} : (accepting lv x b n s).sheaves = s.sheaves ∧ (accepting lv x b n s).cores = s.cores ∧
    (accepting lv x b n s).mail = s.mail ∧ (accepting lv x b n s).agenda = s.agenda := by
  simp only [accepting, withWaiting_keeps, and_self]

theorem mail_accepting {b : DeltaBatch} : MailRel s (accepting lv x b n s) := mailFrame.trans mail_withWaiting mail_withWaiting

/-- A batch that comes where none waits and that is accepted is applied. -/
theorem exec_batchApply_fits {b : DeltaBatch} (h : (b.deltas.isEmpty && b.report.isNone) = false)
    (hw : (treeUnit s lv (levelUnit lv x)).waiting = []) (hf : levelFits s lv (treeUnit s lv (levelUnit lv x)) b = true) :
    exec (.batchApply lv x b n) s = .next (run (applyBatch lv x b n) (accepting lv x b n s)) := by
  rw [exec_batchApply h, hw]
  dsimp only
  rw [List.nil_append, List.length_singleton, accept_fits (by rw [treeUnit_withWaiting])]
  · rfl
  · rw [levelFits_congr withWaiting_keeps.1, levelFits_table (y := treeUnit s lv (levelUnit lv x)) (by rw [treeUnit_withWaiting]), hf]

/-- A unit with a batch of a unit below applied. -/
def appliedUnit (s : State) (lv : TreeLevel) (x : Nat) (b : DeltaBatch) : TreeUnit :=
  withReport x b { treeUnit s lv (levelUnit lv x) with table := addDeltas (levelDeltas s lv b) (treeUnit s lv (levelUnit lv x)).table }

/-- What a unit sends on of a batch that it has applied. -/
def passOn (s : State) (lv : TreeLevel) (x : Nat) (b : DeltaBatch) (n : Nat) : Act Unit :=
  let u := levelUnit lv x
  let up : DeltaBatch := { b with report := reportOn s lv (appliedUnit s lv x b) b }
  let goesOn := !up.deltas.isEmpty || up.report.isSome
  match lv with
  | .region => onlyIf goesOn (unitSend (regionRouter u) (unitRouter (u / 72)) 5 29000 (.batchApply .die u up n))
  | .die => onlyIf goesOn (unitSend (unitRouter u) rootRouter 5 29000 (.batchApply .module u up n))
  | .module => each (leadNodes s b.deltas) fun k => tellNode k fun me q => .batch me q (foreignDeltas s b.deltas k)

theorem mail_tellNode {k m} : Keeps mailFrame (tellNode k m) :=
  keeps_look_bind fun _ => keeps_onlyIf (keeps_bind mail_modRoot fun _ => mail_sendNode)

theorem mail_passOn {b : DeltaBatch} : Keeps mailFrame (passOn s lv x b n) := by
  cases lv with
  | region => exact keeps_onlyIf mail_unitSend
  | die => exact keeps_onlyIf mail_unitSend
  | module => exact keeps_each fun _ => mail_tellNode

theorem run_applyBatch {b : DeltaBatch} : run (applyBatch lv x b n) s =
    run (passOn s lv x b n) (run (onlyIf (!b.deltas.isEmpty) (releaseBelow lv x b n))
      (run (setTreeUnit lv (levelUnit lv x) (appliedUnit s lv x b)) s)) := by
  have hr : Logged (onlyIf (!b.deltas.isEmpty) (releaseBelow lv x b n)) := logged_onlyIf _ clock_releaseBelow.logged
  have hx : applyBatch lv x b n = (do
    let s ← look id
    setTreeUnit lv (levelUnit lv x) (appliedUnit s lv x b)
    onlyIf (!b.deltas.isEmpty) (releaseBelow lv x b n)
    passOn s lv x b n) := rfl
  rw [hx, run_look_bind, run_seq mail_setTreeUnit.logged (logged_bind hr fun _ => mail_passOn.logged), run_seq hr mail_passOn.logged]
  rfl

theorem appliedUnit_accepting {b : DeltaBatch} (hw : (treeUnit s lv (levelUnit lv x)).waiting = []) :
    appliedUnit (accepting lv x b n s) lv x b = appliedUnit s lv x b := by
  rw [appliedUnit, treeUnit_accepting hw, levelDeltas_congr accepting_keeps.1]
  rfl

/-- A core whose counts all have room has none to record when its region's aggregator applies a batch of it. -/
theorem releaseBelow_region {b : DeltaBatch} (hl : (coreAt s x).late = []) : run (releaseBelow .region x b n) s = s := by
  rw [releaseBelow, run_look_bind, run_onlyIf]
  split
  · change run (takeLate x (coreAt s x).late) s = s
    rw [hl]
    rfl
  · rfl

/-- A unit below that has amounts of a batch taken back from its table. -/
def lessUnit (s : State) (lw : TreeLevel) (x : Nat) (b : DeltaBatch) : TreeUnit :=
  { treeUnit s lw x with table := lessDeltas (levelDeltas s lw b) (treeUnit s lw x).table }

/-- What a unit below does once the unit above has applied its batch: its table gives it up, and what waits there is looked at again. -/
def giveUp (s : State) (lw : TreeLevel) (x : Nat) (b : DeltaBatch) (n : Nat) : Act Unit := do
  setTreeUnit lw x (lessUnit s lw x b)
  onlyIf (!(treeUnit s lw x).waiting.isEmpty)
    (later 0 5 29000 (.batchApply lw (((treeUnit s lw x).waiting.headD (0, noBatch, 0)).1) noBatch n))

theorem releaseBelow_eq {lw : TreeLevel} {b : DeltaBatch} (h : levelBelow lv = some lw) : releaseBelow lv x b n = (do
    let s ← look id
    onlyIf (decide (x < unitsBelow lv)) (giveUp s lw x b n)) := by
  rw [releaseBelow, h]
  rfl

theorem mail_giveUp {lw : TreeLevel} {b : DeltaBatch} : Keeps mailFrame (giveUp s lw x b n) :=
  keeps_bind mail_setTreeUnit fun _ => keeps_onlyIf mail_later

theorem mail_releaseBelow {lw : TreeLevel} {b : DeltaBatch} (h : levelBelow lv = some lw) : Keeps mailFrame (releaseBelow lv x b n) := by
  rw [releaseBelow_eq h]
  exact keeps_look_bind fun _ => keeps_onlyIf mail_giveUp

theorem treeUnit_giveUp {lw lz : TreeLevel} {z : Nat} {b : DeltaBatch} : treeUnit (run (giveUp s lw x b n) s) lz z =
    treeUnit (run (setTreeUnit lw x (lessUnit s lw x b)) s) lz z := by
  rw [giveUp, run_seq mail_setTreeUnit.logged (logged_onlyIf _ (logged_later _ _ _ _)), run_onlyIf]
  split
  · exact (net_later.run _ : NetRel _ _).treeUnit lz z
  · rfl

theorem treeUnit_releaseBelow {lw : TreeLevel} {z : Nat} {b : DeltaBatch} (h : levelBelow lv = some lw) (hn : lv ≠ lw) :
    treeUnit (run (releaseBelow lv x b n) s) lv z = treeUnit s lv z ∧
      (x < unitsBelow lv → treeUnit (run (releaseBelow lv x b n) s) lw x = lessUnit s lw x b) := by
  rw [releaseBelow_eq h, run_look_bind, run_onlyIf]
  dsimp only [id]
  by_cases hx : x < unitsBelow lv
  · rw [decide_eq_true hx, if_pos rfl, treeUnit_giveUp, treeUnit_giveUp]
    exact ⟨treeUnit_setTreeUnit_ne hn, fun _ => treeUnit_setTreeUnit⟩
  · rw [decide_eq_false hx, if_neg Bool.false_ne_true]
    exact ⟨rfl, fun h => absurd h hx⟩

/-! ### What the root sends -/

/-- What a message of the root leaves as it was: the counts of the root, its cut flag and the sheaves. -/
structure RootRel (s t : State) : Prop extends MailRel s t where
  tree : t.root.tree = s.root.tree
  cut : t.root.cutFlag = s.root.cutFlag
  sheaves : t.sheaves = s.sheaves

def rootFrame : Frame where
  rel := RootRel
  refl s := ⟨mailFrame.refl s, rfl, rfl, rfl⟩
  trans h k := ⟨mailFrame.trans h.toMailRel k.toMailRel, k.tree.trans h.tree, k.cut.trans h.cut, k.sheaves.trans h.sheaves⟩
  cycle h := h.toMailRel.cycle

theorem root_of_net {a : Act Unit} (hm : Keeps mailFrame a) (hn : Keeps netFrame a) : Keeps rootFrame a :=
  ⟨hm.logged, fun s => ⟨hm.rel s, by rw [(hn.rel s : NetRel _ _).root], by rw [(hn.rel s : NetRel _ _).root], (hn.rel s : NetRel _ _).sheaves⟩⟩

theorem root_modRoot {f : Root → Root} (h : ∀ r, (f r).tree = r.tree ∧ (f r).cutFlag = r.cutFlag) : Keeps rootFrame (modRoot f) :=
  ⟨logged_modRoot _, fun s => ⟨mail_modRoot.rel s, (h s.root).1, (h s.root).2, rfl⟩⟩

theorem root_sendNode {r n m} : Keeps rootFrame (sendNode r n m) := root_of_net mail_sendNode net_sendNode

theorem root_tellNode {k m} : Keeps rootFrame (tellNode k m) :=
  keeps_look_bind fun _ => keeps_onlyIf (keeps_bind (root_modRoot fun _ => ⟨rfl, rfl⟩) fun _ => root_sendNode)

/-- A message of a unit after changes that lose nothing: no unit of the tree changes, and the message is on its way. -/
theorem unitSend_after {src dst phase place : Nat} {e : Instr} (h : MailRel s t) :
    let v := run (unitSend src dst phase place e) t
    Quiet s v ∧ (∀ lz z, treeUnit v lz z = treeUnit t lz z) ∧ Mailed s v src dst phase place e := by
  have hm : MailRel s (run (unitSend src dst phase place e) t) := mailFrame.trans h (mail_unitSend.run t)
  exact ⟨hm.quiet, (net_unitSend.run t : NetRel _ _).treeUnit, (leaves_unitSend.post t).mailed hm.cycle⟩

/-! ### Batches of deltas (R81, R82, R85) -/

/-- What waits at a unit and what its level has room for allow it to apply a batch at once. -/
structure Accepts (s : State) (lv : TreeLevel) (x : Nat) (b : DeltaBatch) : Prop where
  waiting : (treeUnit s lv (levelUnit lv x)).waiting = []
  fits : levelFits s lv (treeUnit s lv (levelUnit lv x)) b = true

/-- The state in which a unit has applied a batch, before the unit below hears of it and the batch travels on. -/
def applied (lv : TreeLevel) (x : Nat) (b : DeltaBatch) (n : Nat) (s : State) : State :=
  run (setTreeUnit lv (levelUnit lv x) (appliedUnit s lv x b)) (accepting lv x b n s)

theorem mail_applied {b : DeltaBatch} : MailRel s (applied lv x b n s) := mailFrame.trans mail_accepting (mail_setTreeUnit.run _)

theorem applied_keeps {b : DeltaBatch} : (applied lv x b n s).sheaves = s.sheaves ∧ (applied lv x b n s).cores = s.cores ∧
    (applied lv x b n s).mail = s.mail ∧ (applied lv x b n s).agenda = s.agenda := by
  simp only [applied, setTreeUnit_keeps, accepting_keeps, and_self]

theorem treeUnit_applied {b : DeltaBatch} : treeUnit (applied lv x b n s) lv (levelUnit lv x) = appliedUnit s lv x b :=
  treeUnit_setTreeUnit

theorem treeUnit_applied_ne {b : DeltaBatch} {lw : TreeLevel} {v : Nat} (h : lw ≠ lv) :
    treeUnit (applied lv x b n s) lw v = treeUnit s lw v :=
  (treeUnit_setTreeUnit_ne h).trans (treeUnit_accepting_ne h)

theorem exec_batchApply_accepts {b : DeltaBatch} (h : (b.deltas.isEmpty && b.report.isNone) = false) (ha : Accepts s lv x b) :
    exec (.batchApply lv x b n) s = .next (run (passOn (accepting lv x b n s) lv x b n)
      (run (onlyIf (!b.deltas.isEmpty) (releaseBelow lv x b n)) (applied lv x b n s))) := by
  rw [exec_batchApply_fits h ha.waiting ha.fits, run_applyBatch, appliedUnit_accepting ha.waiting]
  rfl

section
variable {ds : List Delta} (hd : ds ≠ [])
include hd

theorem exec_deltas (ha : Accepts s lv x ⟨ds, none, false⟩) : exec (.batchApply lv x ⟨ds, none, false⟩ n) s =
    .next (run (passOn (accepting lv x ⟨ds, none, false⟩ n s) lv x ⟨ds, none, false⟩ n)
      (run (releaseBelow lv x ⟨ds, none, false⟩ n) (applied lv x ⟨ds, none, false⟩ n s))) := by
  have he : ds.isEmpty = false := by simpa using hd
  rw [exec_batchApply_accepts (by simp [he]) ha, run_onlyIf, he]
  rfl

theorem passOn_region : passOn t .region x ⟨ds, none, false⟩ n =
    unitSend (regionRouter (regionOf x)) (unitRouter (regionOf x / 72)) 5 29000 (.batchApply .die (regionOf x) ⟨ds, none, false⟩ n) := by
  cases ds with
  | nil => exact absurd rfl hd
  | cons d ds => rfl

theorem passOn_die : passOn t .die x ⟨ds, none, false⟩ n =
    unitSend (unitRouter (x / 72)) rootRouter 5 29000 (.batchApply .module (x / 72) ⟨ds, none, false⟩ n) := by
  cases ds with
  | nil => exact absurd rfl hd
  | cons d ds => rfl

theorem deltas_region (ha : Accepts s .region x ⟨ds, none, false⟩) (hl : (coreAt s x).late = []) :
    ∃ u, exec (.batchApply .region x ⟨ds, none, false⟩ n) s = .next u ∧ Quiet s u ∧
      treeUnit u .region (regionOf x) =
        { treeUnit s .region (regionOf x) with table := addDeltas ds (treeUnit s .region (regionOf x)).table } ∧
      Mailed s u (regionRouter (regionOf x)) (unitRouter (regionOf x / 72)) 5 29000
        (.batchApply .die (regionOf x) ⟨ds, none, false⟩ n) := by
  refine ⟨_, exec_deltas hd ha, ?_⟩
  rw [releaseBelow_region (by rw [coreAt, applied_keeps.2.1]; exact hl), passOn_region hd]
  obtain ⟨hq, hu, hs⟩ := unitSend_after (mail_applied (lv := .region) (x := x) (n := n) (b := ⟨ds, none, false⟩) (s := s))
  exact ⟨hq, (hu _ _).trans treeUnit_applied, hs⟩

theorem deltas_die (ha : Accepts s .die x ⟨ds, none, false⟩) (hx : x < 288) :
    ∃ u, exec (.batchApply .die x ⟨ds, none, false⟩ n) s = .next u ∧ Quiet s u ∧
      treeUnit u .die (x / 72) = { treeUnit s .die (x / 72) with table := addDeltas ds (treeUnit s .die (x / 72)).table } ∧
      treeUnit u .region x = { treeUnit s .region x with
        table := addDeltas (ds.map fun d => { d with net := -d.net }) (treeUnit s .region x).table } ∧
      Mailed s u (unitRouter (x / 72)) rootRouter 5 29000 (.batchApply .module (x / 72) ⟨ds, none, false⟩ n) := by
  refine ⟨_, exec_deltas hd ha, ?_⟩
  rw [passOn_die hd]
  obtain ⟨hdie, hregion⟩ := treeUnit_releaseBelow (s := applied .die x ⟨ds, none, false⟩ n s) (lv := .die) (x := x) (n := n)
    (z := x / 72) (b := ⟨ds, none, false⟩) rfl (by decide)
  have hr : MailRel s (run (releaseBelow .die x ⟨ds, none, false⟩ n) (applied .die x ⟨ds, none, false⟩ n s)) :=
    mailFrame.trans mail_applied ((mail_releaseBelow rfl).run _)
  generalize run (releaseBelow .die x ⟨ds, none, false⟩ n) (applied .die x ⟨ds, none, false⟩ n s) = v at hdie hregion hr ⊢
  obtain ⟨hq, hu, hs⟩ := unitSend_after hr
  refine ⟨hq, (hu _ _).trans (hdie.trans treeUnit_applied), ?_, hs⟩
  rw [hu, hregion hx, lessUnit, treeUnit_applied_ne (by decide)]
  rfl

theorem deltas_module (ha : Accepts s .module x ⟨ds, none, false⟩) :
    ∃ u, exec (.batchApply .module x ⟨ds, none, false⟩ n) s = .next u ∧ Quiet s u ∧
      u.root.tree = { s.root.tree with table := addDeltas ((ownDeltas s ds).map (atFrontier s)) s.root.tree.table } := by
  refine ⟨_, exec_deltas hd ha, ?_⟩
  obtain ⟨htree, -⟩ := treeUnit_releaseBelow (s := applied .module x ⟨ds, none, false⟩ n s) (lv := .module) (x := x) (n := n)
    (z := 0) (b := ⟨ds, none, false⟩) rfl (by decide)
  have hr : MailRel s (run (releaseBelow .module x ⟨ds, none, false⟩ n) (applied .module x ⟨ds, none, false⟩ n s)) :=
    mailFrame.trans mail_applied ((mail_releaseBelow rfl).run _)
  generalize run (releaseBelow .module x ⟨ds, none, false⟩ n) (applied .module x ⟨ds, none, false⟩ n s) = v at htree hr ⊢
  have hp : Keeps rootFrame (passOn (accepting .module x ⟨ds, none, false⟩ n s) .module x ⟨ds, none, false⟩ n) :=
    keeps_each fun _ => root_tellNode
  have hv : RootRel v _ := hp.run v
  exact ⟨(mailFrame.trans hr hv.toMailRel : MailRel _ _).quiet, hv.tree.trans (htree.trans treeUnit_applied)⟩

end

/-- A batch that finds no room behind those that wait, or that itself has none, waits (R82). -/
theorem deltas_wait {b : DeltaBatch} (hb : (b.deltas.isEmpty && b.report.isNone) = false)
    (h : ∀ w, ((treeUnit s lv (levelUnit lv x)).waiting ++ [(x, b, n)]).head? = some w →
      levelFits s lv (treeUnit s lv (levelUnit lv x)) w.2.1 = false) :
    ∃ u, exec (.batchApply lv x b n) s = .next u ∧ Quiet s u ∧ treeUnit u lv (levelUnit lv x) =
      { treeUnit s lv (levelUnit lv x) with waiting := (treeUnit s lv (levelUnit lv x)).waiting ++ [(x, b, n)] } := by
  refine ⟨_, exec_batchApply hb, ?_⟩
  generalize hl : (treeUnit s lv (levelUnit lv x)).waiting ++ [(x, b, n)] = l at h ⊢
  cases l with
  | nil => simp at hl
  | cons w ws =>
    have hf : levelFits (withWaiting lv (levelUnit lv x) (w :: ws) s) lv
        (treeUnit (withWaiting lv (levelUnit lv x) (w :: ws) s) lv (levelUnit lv x)) w.2.1 = false := by
      rw [levelFits_congr withWaiting_keeps.1, levelFits_table (y := treeUnit s lv (levelUnit lv x)) (by rw [treeUnit_withWaiting])]
      exact h w rfl
    rw [accept_full (by rw [treeUnit_withWaiting]) hf]
    exact ⟨mail_withWaiting.quiet, treeUnit_withWaiting⟩

theorem batchesApplied : Claims.BatchesApplied := by
  intro s x n ds hd
  refine ⟨fun ⟨hw, hf⟩ hl => deltas_region hd ⟨hw, hf⟩ hl, fun ⟨hw, hf⟩ hx => deltas_die hd ⟨hw, hf⟩ hx,
    fun ⟨hw, hf⟩ => deltas_module hd ⟨hw, hf⟩, fun lv hh => deltas_wait ?_ hh⟩
  simpa using hd

end
end Sys2Proof.Machine

namespace Sys2Proof.Machine
open Sys2Proof

/-! ### The way of a sweep down the tree (R80, R82, R83, R86) -/

section
variable {s : State} {n : Nat} {cut : Bool}

/-- The root as a sweep starts. -/
def sweepStarted (s : State) (n : Nat) (r : Root) : Root :=
  { r with sweep := n, started := s.cycle, pending := ((countedSheaves s).flatMap fun x => x.2.nodes).dedup,
           tree := { r.tree with reports := [] } }

/-- The requests of a sweep to the units of the dies that the root reaches, and the look for its end in the next cycle. -/
def askDies (s : State) (n : Nat) (cut : Bool) : Act Unit := do
  each ((List.range 4).filter (treeReaches s)) fun d =>
    unitSend rootRouter (unitRouter d) 5 29001 (.sweepRequest (sweepDie d) n cut)
  later 1 7 60000 .sweepComplete

theorem net_askDies : Keeps netFrame (askDies s n cut) := keeps_bind (keeps_each fun _ => net_unitSend) fun _ => net_later
theorem mail_askDies : Keeps mailFrame (askDies s n cut) := keeps_bind (keeps_each fun _ => mail_unitSend) fun _ => mail_later

/-- The requests of a sweep to other modules (log entry 136). -/
def askNodes (s : State) (n : Nat) : Act Unit :=
  each ((countedSheaves s).flatMap fun x => x.2.nodes).dedup fun m => sendNode rootRouter m (.sweep (nodeId s) n)

theorem net_askNodes : Keeps netFrame (askNodes s n) := keeps_each fun _ => net_sendNode
theorem mail_askNodes : Keeps mailFrame (askNodes s n) := keeps_each fun _ => mail_sendNode

theorem exec_sweepRequest_root : exec (.sweepRequest 2304 n cut) s =
    .next (run (askDies s n cut) (run (askNodes s n) (applyUpd (.root (sweepStarted s n s.root)) s))) := by
  have hx : exec (.sweepRequest 2304 n cut) s = .next (run (startSweep n >>= fun _ => askDies s n cut) s) := rfl
  have hs : startSweep n = (do
    let s ← look id
    modRoot (sweepStarted s n)
    askNodes s n) := rfl
  rw [hx, run_seq clock_startSweep.logged mail_askDies.logged, hs, run_look_bind, run_seq (logged_modRoot _) mail_askNodes.logged]
  rfl

theorem leaves_askDies_end : Leaves (fun t => (agendaKey (t.cycle + 1) 7 60000, Instr.sweepComplete) ∈ t.agenda) (askDies s n cut) :=
  leaves_seq (F := mailFrame) (keeps_each fun _ => mail_unitSend)
    ⟨logged_later _ _ _ _, fun t => by
      rw [run_later, dueCycle_later _ _ (by omega)]
      exact mem_putEvent.mpr (.inl rfl)⟩

theorem leaves_askDies {d : Nat} (hd : d < 4) (hr : treeReaches s d = true) :
    Leaves (OnWay rootRouter (unitRouter d) 5 29001 (.sweepRequest (sweepDie d) n cut)) (askDies s n cut) :=
  leaves_keeps (F := mailFrame)
    (leaves_unitSends (dst := unitRouter) (place := fun _ => 29001) (ev := fun d => .sweepRequest (sweepDie d) n cut)
      (List.mem_filter.mpr ⟨List.mem_range.mpr hd, hr⟩))
    mail_later fun _ _ r h => h.mono r

theorem sweepRequest_root : ∃ u, exec (.sweepRequest 2304 n cut) s = .next u ∧ Quiet s u ∧ u.root.sweep = n ∧
    u.root.started = s.cycle ∧ u.root.tree = { s.root.tree with reports := [] } ∧ Pends s u 1 7 60000 .sweepComplete ∧
    ∀ d, d < 4 → treeReaches s d = true →
      Mailed s u rootRouter (unitRouter d) 5 29001 (.sweepRequest (2305 + d) n cut) := by
  let t := run (askNodes s n) (applyUpd (.root (sweepStarted s n s.root)) s)
  have hm : MailRel s (run (askDies s n cut) t) :=
    mailFrame.trans (mailFrame.trans (mail_modRoot.run s) (mail_askNodes.run _)) (mail_askDies.run t)
  have hroot : (run (askDies s n cut) t).root = sweepStarted s n s.root :=
    (net_askDies.run t : NetRel _ _).root.trans (net_askNodes.run _ : NetRel _ _).root
  have hend := (leaves_askDies_end (s := s) (n := n) (cut := cut)).post t
  refine ⟨_, exec_sweepRequest_root, hm.quiet, by rw [hroot]; rfl, by rw [hroot]; rfl, by rw [hroot]; rfl, ?_, fun d hd hr => ?_⟩
  · rw [Pends, dueCycle_later _ _ (by omega), ← hm.cycle]
    exact hend
  · exact ((leaves_askDies hd hr).post t).mailed hm.cycle

/-- The state after messages from one router to others: nothing but the messages is new, and each is on its way. -/
theorem unitSends_spec {α : Type} {l : List α} {src phase : Nat} {dst place : α → Nat} {ev : α → Instr} :
    let u := run (each l fun i => unitSend src (dst i) phase (place i) (ev i)) s
    Quiet s u ∧ ∀ i ∈ l, Mailed s u src (dst i) phase (place i) (ev i) := by
  have hm : MailRel s (run (each l fun i => unitSend src (dst i) phase (place i) (ev i)) s) := (keeps_each fun _ => mail_unitSend).run s
  exact ⟨hm.quiet, fun i hi => ((leaves_unitSends hi).post s).mailed hm.cycle⟩

theorem sweepRequest_die {d : Nat} (hd : d < 4) : ∃ u, exec (.sweepRequest (2305 + d) n cut) s = .next u ∧ Quiet s u ∧
    ∀ i, i < 72 → Mailed s u (unitRouter d) (regionRouter (d * 72 + i)) 5 29001 (.sweepRequest (2309 + (d * 72 + i)) n cut) := by
  obtain ⟨hq, hs⟩ := unitSends_spec (s := s) (l := List.range 72) (src := unitRouter d) (phase := 5)
    (dst := fun i => regionRouter (d * 72 + i)) (place := fun _ => 29001) (ev := fun i => .sweepRequest (2309 + (d * 72 + i)) n cut)
  refine ⟨_, ?_, hq, fun i hi => hs i (List.mem_range.mpr hi)⟩
  change execSweepRequest (2305 + d) n cut s = _
  have hu : 2305 + d - sweepDie 0 = d := Nat.add_sub_cancel_left _ _
  rw [execSweepRequest, if_neg (by rw [sweepRoot]; omega), if_neg (by rw [sweepRoot]; omega), if_pos (by rw [sweepRegion]; omega), hu]
  rfl

theorem sweepRequest_region {r : Nat} : ∃ u, exec (.sweepRequest (2309 + r) n cut) s = .next u ∧ Quiet s u ∧
    ∀ c ∈ regionCores r, Mailed s u (regionRouter r) c 5 29001 (.sweepRequest c n cut) := by
  obtain ⟨hq, hs⟩ := unitSends_spec (s := s) (l := regionCores r) (src := regionRouter r) (phase := 5)
    (dst := fun c => c) (place := fun _ => 29001) (ev := fun c => .sweepRequest c n cut)
  refine ⟨_, ?_, hq, hs⟩
  change execSweepRequest (2309 + r) n cut s = _
  have hu : 2309 + r - sweepRegion 0 = r := Nat.add_sub_cancel_left _ _
  rw [execSweepRequest, if_neg (by rw [sweepRoot]; omega), if_neg (by rw [sweepRoot]; omega), if_neg (by rw [sweepRegion]; omega), hu]

/-! ### Reports (R83, R86) -/

/-- The core with its table as a batch behind those formed before, with its report. -/
def reportFormed (c n : Nat) (s : State) : State :=
  applyUpd (.core c { coreAt s c with
    batches := (coreAt s c).batches ++ [⟨⟨(coreAt s c).counts, some (coreReport (coreAt s c) n), isFenced s c⟩, s.cycle⟩], counts := [],
    countsSince := none }) s

theorem coreAt_reportFormed {c : Nat} : coreAt (reportFormed c n s) c = { coreAt s c with
    batches := (coreAt s c).batches ++ [⟨⟨(coreAt s c).counts, some (coreReport (coreAt s c) n), isFenced s c⟩, s.cycle⟩], counts := [],
    countsSince := none } :=
  (coreAt_changed _ _ _ _).trans (if_pos rfl)

/-- A core without counts forms no batch. -/
theorem formBatch_none {c : Nat} (h : (coreAt s c).counts = []) : run (formBatch c) s = applyUpd (.core c (coreAt s c)) s := by
  rw [formBatch, run_look_bind, run_modCore, h]
  rfl

theorem exec_sweepRequest_core {c : Nat} (hc : c < 2304) : exec (.sweepRequest c n false) s =
    .next (run (sendFormed c) (applyUpd (.core c (coreAt (reportFormed c n s) c)) (reportFormed c n s))) := by
  have hx : sweepCore c n false = (do
    let s ← look id
    onlyIf false (do
      cutStart c
      cutProgress c)
    modCore c fun x =>
      { x with
        batches := x.batches ++ [⟨⟨x.counts, some (coreReport x n), isFenced s c⟩, s.cycle⟩], counts := [], countsSince := none }
    sendBatch c) := rfl
  change execSweepRequest c n false s = _
  rw [execSweepRequest, if_pos (by rw [sweepRoot]; exact hc), hx, run_look_bind,
    run_seq (logged_onlyIf _ (keeps_bind clock_cutStart fun _ => clock_cutProgress).logged)
      (logged_bind (logged_modCore _ _) fun _ => clock_sendBatch.logged),
    run_onlyIf, if_neg Bool.false_ne_true, run_seq (logged_modCore _ _) clock_sendBatch.logged, run_sendBatch]
  rw [← formBatch_none (by rw [coreAt_reportFormed])]
  rfl

theorem sweepRequest_core {c : Nat} (hc : c < 2304) (hb : (coreAt s c).batches = []) (hl : (coreAt s c).late = [])
    (hs : (coreAt s c).sent = []) : ∃ u, exec (.sweepRequest c n false) s = .next u ∧ Quiet s u ∧ (coreAt u c).counts = [] ∧
      (coreAt u c).batches = [] ∧ Mailed s u c (regionRouter (regionOf c)) 5 29000
        (.batchApply .region c ⟨(coreAt s c).counts, some (coreReport (coreAt s c) n), isFenced s c⟩ s.cycle) := by
  have hf : coreAt (applyUpd (.core c (coreAt (reportFormed c n s) c)) (reportFormed c n s)) c = _ :=
    ((coreAt_changed _ _ _ _).trans (if_pos rfl)).trans coreAt_reportFormed
  rw [hb] at hf
  obtain ⟨hm, hcounts, hsends, -⟩ := sendFormed_spec
    (s := applyUpd (.core c (coreAt (reportFormed c n s) c)) (reportFormed c n s)) (c := c)
    (b := ⟨⟨(coreAt s c).counts, some (coreReport (coreAt s c) n), isFenced s c⟩, s.cycle⟩) (by rw [hf]; rfl) (by rw [hf, hl])
  have hr : MailRel s _ := mailFrame.trans (mailFrame.trans mail_core mail_core) hm
  obtain ⟨hnone, hway⟩ := hsends (by rw [hf, hs])
  exact ⟨_, exec_sweepRequest_core hc, hr.quiet, by rw [hcounts, hf], hnone, hway.mailed hr.cycle⟩

/-- Reports of one sweep as one: the sums of what each has counted. -/
theorem mergeReports_eq (l : List (Nat × SweepReport)) : mergeReports l n =
    ⟨n, (l.map fun z => z.2.sent).sum, (l.map fun z => z.2.received).sum, (l.map fun z => z.2.flips).sum⟩ := by
  have h (a b c : Nat) : l.foldl (fun a r => (⟨n, a.sent + r.2.sent, a.received + r.2.received, a.flips + r.2.flips⟩ : SweepReport))
      ⟨n, a, b, c⟩ = ⟨n, a + (l.map fun z => z.2.sent).sum, b + (l.map fun z => z.2.received).sum,
        c + (l.map fun z => z.2.flips).sum⟩ := by
    induction l generalizing a b c with
    | nil => rfl
    | cons z l ih => simp only [List.foldl_cons, ih, List.map_cons, List.sum_cons, Nat.add_assoc]
  rw [mergeReports, h, Nat.zero_add, Nat.zero_add, Nat.zero_add]

/-- The reports that a unit has once one more has come from a unit below. -/
def reportsWith (y : TreeUnit) (c : Nat) (r : SweepReport) : List (Nat × SweepReport) :=
  (y.reports.filter fun z => decide (z.1 ≠ c) && decide (z.2.sweep = r.sweep)) ++ [(c, r)]

/-- A report without deltas is applied at once where no batch waits. -/
theorem exec_report {lv : TreeLevel} {x : Nat} {r : SweepReport} (hw : (treeUnit s lv (levelUnit lv x)).waiting = []) :
    exec (.batchApply lv x ⟨[], some r, false⟩ n) s = .next (run (passOn (accepting lv x ⟨[], some r, false⟩ n s) lv x
      ⟨[], some r, false⟩ n) (applied lv x ⟨[], some r, false⟩ n s)) := by
  rw [exec_batchApply_accepts rfl ⟨hw, rfl⟩, run_onlyIf, if_neg (by simp)]

/-- A report alone is passed on, as one with those of the other cores of the region, by the last of them. -/
theorem passOn_report {c : Nat} {r : SweepReport} {reps : List (Nat × SweepReport)}
    (h : (appliedUnit s .region c ⟨[], some r, false⟩).reports = reps) : passOn s .region c ⟨[], some r, false⟩ n =
      if reps.length = 8 then unitSend (regionRouter (regionOf c)) (unitRouter (regionOf c / 72)) 5 29000
        (.batchApply .die (regionOf c) ⟨[], some (mergeReports reps r.sweep), false⟩ n) else pure () := by
  unfold passOn reportOn
  rw [h]
  by_cases h8 : reps.length = 8 <;> simp [reporters, h8, onlyIf, levelUnit]

theorem report_region {c : Nat} {r : SweepReport} (hw : (treeUnit s .region (regionOf c)).waiting = []) :
    let y := treeUnit s .region (regionOf c)
    let reps := reportsWith y c r
    let total := fun (p : SweepReport → Nat) => (reps.map fun z => p z.2).sum
    ∃ u, exec (.batchApply .region c ⟨[], some r, false⟩ n) s = .next u ∧ Quiet s u ∧
      treeUnit u .region (regionOf c) = { y with reports := reps } ∧
      (reps.length < 8 → u.mail = s.mail ∧ u.agenda = s.agenda) ∧
      (reps.length = 8 → Mailed s u (regionRouter (regionOf c)) (unitRouter (regionOf c / 72)) 5 29000
        (.batchApply .die (regionOf c) ⟨[], some ⟨r.sweep, total (·.sent), total (·.received), total (·.flips)⟩, false⟩ n)) := by
  intro y reps total
  have hx := exec_report (n := n) (r := r) (x := c) (lv := .region) hw
  have hu : treeUnit (applied .region c ⟨[], some r, false⟩ n s) .region (regionOf c) = { y with reports := reps } := treeUnit_applied
  rw [passOn_report (reps := reps) (by rw [appliedUnit_accepting hw]; rfl), mergeReports_eq] at hx
  by_cases h8 : reps.length = 8
  · rw [if_pos h8] at hx
    obtain ⟨hq, hv, hs⟩ := unitSend_after (mail_applied (lv := .region) (x := c) (n := n) (b := ⟨[], some r, false⟩) (s := s))
    exact ⟨_, hx, hq, (hv _ _).trans hu, fun h => absurd h8 (Nat.ne_of_lt h), fun _ => hs⟩
  · rw [if_neg h8, run_pure] at hx
    exact ⟨_, hx, mail_applied.quiet, hu, fun _ => applied_keeps.2.2, fun h => absurd h h8⟩

theorem sweepRequests : Claims.SweepRequests :=
  ⟨fun _ _ _ => sweepRequest_root, fun _ _ _ _ hd => sweepRequest_die hd, fun _ _ _ _ _ => sweepRequest_region,
    fun _ _ _ hc hb hl hs => sweepRequest_core hc hb hl hs, fun _ _ _ _ hw => report_region hw⟩

end
end Sys2Proof.Machine

namespace Sys2Proof.Machine
open Sys2Proof

/-! ### Frontier announcements of the root (R83, R84) -/

section
variable {s t : State} {n m : Nat} {f v : Word} {A : Prop}

/-- What announcements of the root leave as it was; the frontier of sheaf n moves to v at most, and only when A holds. -/
structure AnnounceRel (n : Nat) (v : Word) (A : Prop) (s t : State) : Prop extends MailRel s t where
  cores : t.cores = s.cores
  dies : t.dies = s.dies
  root : t.root = s.root
  queue : ∀ m, (sheafAt t m).queue = (sheafAt s m).queue
  front : (sheafAt t n).front = (sheafAt s n).front ∨ A ∧ (sheafAt t n).front = v

def announceFrame (n : Nat) (v : Word) (A : Prop) : Frame where
  rel := AnnounceRel n v A
  refl s := ⟨mailFrame.refl s, rfl, rfl, rfl, fun _ => rfl, .inl rfl⟩
  trans h k := ⟨mailFrame.trans h.toMailRel k.toMailRel, k.cores.trans h.cores, k.dies.trans h.dies, k.root.trans h.root,
    fun m => (k.queue m).trans (h.queue m), k.front.elim (fun e => e ▸ h.front) .inr⟩
  cycle h := h.toMailRel.cycle

theorem announce_of_net {a : Act Unit} (hm : Keeps mailFrame a) (hn : Keeps netFrame a) : Keeps (announceFrame n v A) a :=
  ⟨hm.logged, fun s => by
    have h : NetRel s _ := hn.rel s
    refine ⟨hm.rel s, ?_, ?_, h.root, fun m => ?_, .inl ?_⟩
    · rw [h.fields]
    · rw [h.fields]
    · rw [sheafAt, h.sheaves, ← sheafAt]
    · rw [sheafAt, h.sheaves, ← sheafAt]⟩

/-- What the root sends of an announcement (R83, R84, R416). -/
def announceSends (s : State) (n : Nat) (f : Word) : Act Unit := do
  each (listedCoreNums s) fun c => unitSend rootRouter c 5 (51200 + c) (.frontierAnnouncement c n f)
  each (sheafAt s n).nodes fun m => sendNode rootRouter m (.announce n f)
  onlyIf (decide (f = timeTop)) (unitSend rootRouter (unitRouter (queueRec s (sheafAt s n).queue).owner) 5 55000 (.launchEnd n))

theorem mail_announceSends : Keeps mailFrame (announceSends s n f) :=
  keeps_bind (keeps_each fun _ => mail_unitSend) fun _ => keeps_bind (keeps_each fun _ => mail_sendNode) fun _ =>
    keeps_onlyIf mail_unitSend

theorem net_announceSends : Keeps netFrame (announceSends s n f) :=
  keeps_bind (keeps_each fun _ => net_unitSend) fun _ => keeps_bind (keeps_each fun _ => net_sendNode) fun _ =>
    keeps_onlyIf net_unitSend

/-- The sheaf as a frontier of it is announced. -/
def frontMoved (n : Nat) (f : Word) (s : State) : State :=
  applyUpd (.sheaf n { sheafAt s n with front := f, moved := s.tick }) s

theorem run_announce : run (announce n f) s = run (announceSends s n f) (frontMoved n f s) := by
  have hx : announce n f = (do
    let s ← look id
    modSheaf n fun x => { x with front := f, moved := s.tick }
    announceSends s n f) := rfl
  rw [hx, run_look_bind, run_seq (logged_modSheaf _ _) mail_announceSends.logged]
  rfl

theorem announce_announce (h : m = n → A ∧ f = v) : Keeps (announceFrame n v A) (announce m f) :=
  keeps_of_run clock_announce.logged fun s => by
    have hm : AnnounceRel n v A s (frontMoved m f s) := by
      refine ⟨⟨rfl, rfl, rfl, rfl, fun _ h => h, fun _ h => h, fun _ _ h => h⟩, rfl, rfl, rfl, fun k => ?_, ?_⟩
      · rw [frontMoved, sheafAt_changed]
        split
        case isTrue hk => rw [hk]
        case isFalse => rfl
      · rw [frontMoved, sheafAt_changed]
        by_cases hn : n = m
        · obtain ⟨ha, hv⟩ := h hn.symm
          rw [if_pos hn]
          exact .inr ⟨ha, hv⟩
        · rw [if_neg hn]
          exact .inl rfl
    rw [run_announce]
    exact (announceFrame n v A).trans hm ((announce_of_net mail_announceSends net_announceSends).run _)

/-- What an announcement brings about. -/
structure Announced (s : State) (n : Nat) (f : Word) (t : State) : Prop where
  front : (sheafAt t n).front = f
  cores : ∀ c ∈ listedCoreNums s, OnWay rootRouter c 5 (51200 + c) (.frontierAnnouncement c n f) t
  ends : f = timeTop → OnWay rootRouter (unitRouter (queueRec s (sheafAt s n).queue).owner) 5 55000 (.launchEnd n) t

theorem announced_announce : Announced s n f (run (announce n f) s) := by
  rw [run_announce]
  refine ⟨?_, fun c hc => ?_, fun hf => ?_⟩
  · rw [sheafAt, (net_announceSends.run _ : NetRel _ _).sheaves, ← sheafAt, frontMoved, sheafAt_changed, if_pos rfl]
  · exact (leaves_keeps (F := mailFrame)
      (leaves_unitSends (dst := fun c => c) (place := fun c => 51200 + c) (ev := fun c => .frontierAnnouncement c n f) hc)
      (keeps_bind (keeps_each fun _ => mail_sendNode) fun _ => keeps_onlyIf mail_unitSend) fun _ _ r h => h.mono r).post _
  · refine (leaves_seq (F := mailFrame) (keeps_each fun _ => mail_unitSend)
      (leaves_seq (F := mailFrame) (keeps_each fun _ => mail_sendNode) ⟨logged_onlyIf _ mail_unitSend.logged, fun t => ?_⟩)).post _
    rw [run_onlyIf, decide_eq_true hf, if_pos rfl]
    exact leaves_unitSend.post t

/-! ### The end of a sweep (R83) -/

/-- Whether two sweeps agree on the candidate of a sheaf and it is above the frontier. -/
def agreedAbove (s : State) (n : Nat) : Bool :=
  let x := candidate s.root.tree.table n
  s.root.before.contains x && decide ((sheafAt s x.1).front.toNat < x.2.1.toNat)

/-- What the end of a sweep announces for a sheaf. -/
def announceAgreed (s : State) (n : Nat) : Act Unit :=
  let x := candidate s.root.tree.table n
  onlyIf (agreedAbove s n) (announce x.1 x.2.1)

/-- The candidate of a sheaf is one of that sheaf. -/
theorem candidate_sheaf (tab : List Delta) : (candidate tab n).1 = n := by
  unfold candidate
  split <;> rfl

theorem announce_announceAgreed : Keeps (announceFrame n (candidate s.root.tree.table n).2.1 (agreedAbove s n = true)) (announceAgreed s m) := by
  rw [announceAgreed, candidate_sheaf]
  cases ha : agreedAbove s m with
  | false => exact keeps_pure
  | true => exact announce_announce fun h => by subst h; exact ⟨ha, rfl⟩

/-- The root keeps the candidates of a sweep for the next one. -/
def keepCandidates (s : State) : Act Unit :=
  modRoot fun r => { r with before := (sweptSheaves s).map (candidate s.root.tree.table) }

theorem root_keepCandidates : Keeps rootFrame (keepCandidates s) := root_modRoot fun _ => ⟨rfl, rfl⟩

/-- The steps of a sweep's end behind its announcements and the cut. -/
def sweepRest (s : State) : Act Unit := do
  answerAsks
  keepCandidates s
  let q ← look (·.root)
  atCycle (max (s.cycle + 1) (s.root.started + 1024)) 5 29001 (.sweepRequest sweepRoot (s.root.sweep + 1) q.cutFlag)

theorem logged_sweepRest : Logged (sweepRest s) :=
  logged_bind clock_answerAsks.logged fun _ => logged_bind root_keepCandidates.logged fun _ => logged_bind (logged_look _) fun _ =>
    net_atCycle.logged

theorem each_map {α β : Type} (g : α → β) (l : List α) (f : β → Act Unit) : each (l.map g) f = each l fun x => f (g x) := by
  induction l with
  | nil => rfl
  | cons x l ih =>
    rw [List.map_cons, each, each, ih]

theorem run_cutSweep_none (h : s.root.cutFlag = false) : run cutSweep s = s := by
  rw [cutSweep, run_look_bind]
  dsimp only
  rw [h]
  rfl

/-- The state once the end of a sweep has announced what it agrees on. -/
def sweepAnnounced (s : State) : State := run (each (sweptSheaves s) (announceAgreed s)) s

theorem announceRel_sweepAnnounced :
    AnnounceRel n (candidate s.root.tree.table n).2.1 (agreedAbove s n = true) s (sweepAnnounced s) :=
  (keeps_each fun _ => announce_announceAgreed).run s

theorem exec_sweepComplete_closed (ho : sweepOpen s = false) (hc : s.root.cutFlag = false) :
    exec .sweepComplete s = .next (run (sweepRest s) (sweepAnnounced s)) := by
  have hx : exec .sweepComplete s = .next (run (if sweepOpen s then later 1 7 60000 .sweepComplete else do
      each ((sweptSheaves s).map (candidate s.root.tree.table)) fun x =>
        onlyIf (s.root.before.contains x && decide ((sheafAt s x.1).front.toNat < x.2.1.toNat)) (announce x.1 x.2.1)
      cutSweep
      sweepRest s) s) := rfl
  have he : Logged (each (sweptSheaves s) (announceAgreed s)) :=
    (keeps_each fun _ => announce_announceAgreed (n := 0) : Keeps (announceFrame 0 _ _) _).logged
  rw [hx, if_neg (by rw [ho]; exact Bool.false_ne_true), each_map]
  change Host.Outcome.next (run (each (sweptSheaves s) (announceAgreed s) >>= fun _ => cutSweep >>= fun _ => sweepRest s) s) = _
  have hr : (sweepAnnounced s).root = s.root := (announceRel_sweepAnnounced (n := 0)).root
  rw [run_seq he (logged_bind clock_cutSweep.logged fun _ => logged_sweepRest), ← sweepAnnounced,
    run_seq clock_cutSweep.logged logged_sweepRest, run_cutSweep_none (by rw [hr, hc])]

theorem root_answerAsks : Keeps rootFrame answerAsks :=
  keeps_look_bind fun _ => keeps_bind (keeps_each fun _ => root_tellNode) fun _ => root_modRoot fun _ => ⟨rfl, rfl⟩

/-- The state before the next sweep is asked for. -/
def sweepDone (s t : State) : State := run (keepCandidates s) (run answerAsks t)

theorem root_sweepDone : RootRel t (sweepDone s t) := rootFrame.trans (root_answerAsks.run t) (root_keepCandidates.run _)

theorem run_sweepRest : run (sweepRest s) t = run (atCycle (max (s.cycle + 1) (s.root.started + 1024)) 5 29001
    (.sweepRequest sweepRoot (s.root.sweep + 1) t.root.cutFlag)) (sweepDone s t) := by
  have hq : Logged (look (·.root) >>= fun q => atCycle (max (s.cycle + 1) (s.root.started + 1024)) 5 29001
      (.sweepRequest sweepRoot (s.root.sweep + 1) q.cutFlag)) := logged_bind (logged_look _) fun _ => net_atCycle.logged
  rw [sweepRest, run_seq clock_answerAsks.logged (logged_bind root_keepCandidates.logged fun _ => hq),
    run_seq root_keepCandidates.logged hq, run_look_bind, ← sweepDone, root_sweepDone.cut]

theorem sweepComplete_open (ho : sweepOpen s = true) : ∃ u, exec .sweepComplete s = .next u ∧ u = { s with agenda := u.agenda } ∧
    Pends s u 1 7 60000 .sweepComplete := by
  have hx : exec .sweepComplete s = .next (run (later 1 7 60000 .sweepComplete) s) := by
    change execSweepComplete s = _
    rw [execSweepComplete, if_pos ho]
  exact ⟨_, hx, rfl, mem_putEvent.mpr (.inl rfl)⟩

theorem RootRel.front {u : State} (h : RootRel t u) (n : Nat) : sheafAt u n = sheafAt t n := by
  rw [sheafAt, h.sheaves, ← sheafAt]

theorem root_atCycle {k phase place : Nat} {e : Instr} : Keeps rootFrame (atCycle k phase place e) :=
  root_of_net mail_atCycle net_atCycle

theorem root_sweepRest : RootRel t (run (sweepRest s) t) := by
  rw [run_sweepRest]
  exact rootFrame.trans root_sweepDone (root_atCycle.run _)

/-- The next sweep is asked for at least 1,024 cycles after the start of this one. -/
theorem sweepRest_asks (hc : t.cycle = s.cycle) (hf : t.root.cutFlag = false) :
    (agendaKey (max (s.cycle + 1) (s.root.started + 1024)) 5 29001, Instr.sweepRequest 2304 (s.root.sweep + 1) false)
      ∈ (run (sweepRest s) t).agenda := by
  have hcy : (sweepDone s t).cycle = s.cycle := (rootFrame.cycle root_sweepDone).trans hc
  have hmax : max (sweepDone s t).cycle (max (s.cycle + 1) (s.root.started + 1024)) = max (s.cycle + 1) (s.root.started + 1024) := by
    omega
  rw [run_sweepRest, hf]
  refine mem_putEvent.mpr (.inl ?_)
  rw [hmax]
  rfl

theorem queueRec_congr (h : t.dies = s.dies) (q : Nat) : queueRec t q = queueRec s q := by
  have hr : recOn t = recOn s := by
    funext d p
    rw [recOn, dieAt, h]
    rfl
  rw [queueRec, hr]
  rfl

/-- A sheaf on whose candidate two sweeps agree is announced when a sweep ends. -/
theorem announced_sweepAnnounced (hn : n ∈ sweptSheaves s) (ha : agreedAbove s n = true) :
    Announced s n (candidate s.root.tree.table n).2.1 (sweepAnnounced s) := by
  obtain ⟨t, h, k⟩ := run_each_mem (F := announceFrame n (candidate s.root.tree.table n).2.1 (agreedAbove s n = true)) (s := s)
    (f := announceAgreed s) (fun _ => announce_announceAgreed) hn
  have h : AnnounceRel _ _ _ s t := h
  have hx : announceAgreed s n = announce n (candidate s.root.tree.table n).2.1 := by
    rw [announceAgreed, candidate_sheaf, ha]
    rfl
  rw [hx] at k
  have k : AnnounceRel _ _ _ _ (sweepAnnounced s) := k
  have ht := announced_announce (s := t) (n := n) (f := (candidate s.root.tree.table n).2.1)
  refine ⟨?_, fun c hc => (ht.cores c ?_).mono k.toMailRel, fun hf => ?_⟩
  · rcases k.front with hk | ⟨-, hk⟩
    · exact hk.trans ht.front
    · exact hk
  · rwa [listedCoreNums, h.cores, h.slots, ← listedCoreNums]
  · have hq : queueRec t (sheafAt t n).queue = queueRec s (sheafAt s n).queue := by
      rw [h.queue, queueRec_congr h.dies]
    have he := (ht.ends hf).mono k.toMailRel
    rwa [hq] at he

theorem sweepComplete_closed (ho : sweepOpen s = false) (hc : s.root.cutFlag = false) (hn : n ∈ sweptSheaves s) :
    let x := candidate s.root.tree.table n
    ∃ u, exec .sweepComplete s = .next u ∧ Quiet s u ∧ u.root.tree = s.root.tree ∧
      (agendaKey (max (s.cycle + 1) (s.root.started + 1024)) 5 29001, Instr.sweepRequest 2304 (s.root.sweep + 1) false)
        ∈ u.agenda ∧
      (x ∈ s.root.before → (sheafAt s n).front.toNat < x.2.1.toNat → (sheafAt u n).front = x.2.1 ∧
        (∀ c ∈ listedCoreNums s, Mailed s u rootRouter c 5 (51200 + c) (.frontierAnnouncement c n x.2.1)) ∧
        (x.2.1 = timeTop → Mailed s u rootRouter (unitRouter (queueRec s (sheafAt s n).queue).owner) 5 55000 (.launchEnd n))) ∧
      (x ∉ s.root.before → (sheafAt u n).front = (sheafAt s n).front) := by
  intro x
  have h : AnnounceRel n x.2.1 (agreedAbove s n = true) s (sweepAnnounced s) := announceRel_sweepAnnounced
  have k : RootRel (sweepAnnounced s) (run (sweepRest s) (sweepAnnounced s)) := root_sweepRest
  have hm : MailRel s (run (sweepRest s) (sweepAnnounced s)) := mailFrame.trans h.toMailRel k.toMailRel
  refine ⟨_, exec_sweepComplete_closed ho hc, hm.quiet, by rw [k.tree, h.root], sweepRest_asks h.cycle (by rw [h.root, hc]),
    fun hb hf => ?_, fun hb => ?_⟩
  · have ha : agreedAbove s n = true := by
      simp only [agreedAbove, candidate_sheaf, Bool.and_eq_true, List.contains_iff_mem, decide_eq_true_eq]
      exact ⟨hb, hf⟩
    have hann := announced_sweepAnnounced hn ha
    exact ⟨by rw [k.front, hann.front], fun c hc => ((hann.cores c hc).mono k.toMailRel).mailed hm.cycle,
      fun he => ((hann.ends he).mono k.toMailRel).mailed hm.cycle⟩
  · rw [k.front]
    rcases h.front with hk | ⟨ha, -⟩
    · exact hk
    · simp only [agreedAbove, Bool.and_eq_true, List.contains_iff_mem] at ha
      exact absurd ha.1 hb

theorem sweeps : Claims.Sweeps := ⟨fun _ ho => sweepComplete_open ho, fun _ _ ho hc hn => sweepComplete_closed ho hc hn⟩

end
end Sys2Proof.Machine

namespace Sys2Proof.Machine
open Sys2Proof

/-! ### What counts and pokes leave as it was -/

/-- What marks leave as it was: memory, and of each core the cells, the queued tasks, the frontiers that it knows and its colour. -/
structure CellsRel (s t : State) : Prop where
  cycle : t.cycle = s.cycle
  mem : t.mem = s.mem
  cells : ∀ c, (coreAt t c).cells = (coreAt s c).cells
  tasks : ∀ c, (coreAt t c).tasks = (coreAt s c).tasks
  fronts : ∀ c, (coreAt t c).fronts = (coreAt s c).fronts
  colour : ∀ c, (coreAt t c).colour = (coreAt s c).colour

def cellsFrame : Frame where
  rel := CellsRel
  refl _ := ⟨rfl, rfl, fun _ => rfl, fun _ => rfl, fun _ => rfl, fun _ => rfl⟩
  trans h k := ⟨k.cycle.trans h.cycle, k.mem.trans h.mem, fun c => (k.cells c).trans (h.cells c),
    fun c => (k.tasks c).trans (h.tasks c), fun c => (k.fronts c).trans (h.fronts c), fun c => (k.colour c).trans (h.colour c)⟩
  cycle := CellsRel.cycle

/-- What counts and pokes leave as it was: that, and every slot. -/
structure TallyRel (s t : State) : Prop extends CellsRel s t where
  slots : t.slots = s.slots

def tallyFrame : Frame where
  rel := TallyRel
  refl s := ⟨cellsFrame.refl s, rfl⟩
  trans h k := ⟨cellsFrame.trans h.toCellsRel k.toCellsRel, k.slots.trans h.slots⟩
  cycle h := h.toCellsRel.cycle

theorem Keeps.cells {α : Type} {a : Act α} (h : Keeps tallyFrame a) : Keeps cellsFrame a := h.mono fun _ _ => TallyRel.toCellsRel

section
variable {s t : State} {c h n : Nat} {f : Word}

/-- A change of a core that leaves its cells, its tasks, its frontiers and its colour. -/
theorem tallyRel_core {x : Core} (hx : x.cells = (coreAt s c).cells ∧ x.tasks = (coreAt s c).tasks ∧
    x.fronts = (coreAt s c).fronts ∧ x.colour = (coreAt s c).colour) : TallyRel s (applyUpd (.core c x) s) := by
  obtain ⟨hc, ht, hf, hl⟩ := hx
  refine ⟨⟨rfl, rfl, fun d => ?_, fun d => ?_, fun d => ?_, fun d => ?_⟩, rfl⟩ <;>
  · rw [coreAt_changed]
    split
    case isTrue h => subst h; assumption
    case isFalse => rfl

theorem tally_modCore {f : Core → Core} (hf : ∀ x : Core, (f x).cells = x.cells ∧ (f x).tasks = x.tasks ∧
    (f x).fronts = x.fronts ∧ (f x).colour = x.colour) : Keeps tallyFrame (modCore c f) :=
  ⟨logged_modCore _ _, fun _ => tallyRel_core (hf _)⟩

theorem tally_of_net {a : Act Unit} (hm : Keeps mailFrame a) (hn : Keeps netFrame a) : Keeps tallyFrame a :=
  ⟨hm.logged, fun s => by
    have r : NetRel s _ := hn.rel s
    have k : MailRel s _ := hm.rel s
    exact ⟨⟨k.cycle, k.mem, fun c => by rw [r.coreAt], fun c => by rw [r.coreAt], fun c => by rw [r.coreAt],
      fun c => by rw [r.coreAt]⟩, k.slots⟩⟩

theorem tally_later {k phase place : Nat} {e : Instr} : Keeps tallyFrame (later k phase place e) := tally_of_net mail_later net_later

theorem tally_setCreg {off v} : Keeps tallyFrame (setCreg c off v) := tally_modCore fun _ => ⟨rfl, rfl, rfl, rfl⟩

theorem tally_countReg {off k} : Keeps tallyFrame (countReg c off k) := keeps_look_bind fun _ => keeps_onlyIf tally_setCreg

theorem tally_pokeHeld : Keeps tallyFrame (pokeHeld h) :=
  keeps_bind tally_later fun _ => keeps_look_bind fun _ => keeps_onlyIf (keeps_bind (keeps_each fun _ => tally_later) fun _ =>
    tally_modCore fun _ => ⟨rfl, rfl, rfl, rfl⟩)

theorem tally_colourReceived {col} : Keeps tallyFrame (colourReceived c col) :=
  tally_modCore fun _ => by split <;> exact ⟨rfl, rfl, rfl, rfl⟩

theorem tally_colourSent {col} : Keeps tallyFrame (colourSent c col) :=
  tally_modCore fun _ => by split <;> exact ⟨rfl, rfl, rfl, rfl⟩

theorem tally_formBatch : Keeps tallyFrame (formBatch c) :=
  keeps_look_bind fun _ => tally_modCore fun _ => by split <;> exact ⟨rfl, rfl, rfl, rfl⟩

theorem tally_recordCounts {ds} : Keeps tallyFrame (recordCounts c ds) :=
  keeps_onlyIf (keeps_look_bind fun _ => keeps_look_bind fun _ => keeps_bind (keeps_onlyIf tally_formBatch) fun _ =>
    keeps_look_bind fun _ => keeps_bind (keeps_onlyIf tally_later) fun _ =>
    keeps_bind (tally_modCore fun _ => ⟨rfl, rfl, rfl, rfl⟩) fun _ => keeps_look_bind fun _ => keeps_onlyIf tally_later)

theorem tally_countDie {sheaf k n} : Keeps tallyFrame (countDie c sheaf k n) := by
  unfold countDie
  split
  · exact keeps_pure
  · exact keeps_onlyIf (keeps_look_bind fun _ => keeps_bind tally_formBatch fun _ =>
      keeps_bind (tally_modCore fun _ => ⟨rfl, rfl, rfl, rfl⟩) fun _ => tally_later)

theorem tally_countAt {sheaf k n} : Keeps tallyFrame (countAt c sheaf k n) := by
  unfold countAt
  split
  · exact keeps_pure
  · exact keeps_ite (keeps_onlyIf tally_countReg) (keeps_look_bind fun _ => keeps_ite tally_countDie
      (keeps_ite tally_recordCounts (keeps_bind (tally_modCore fun _ => ⟨rfl, rfl, rfl, rfl⟩) fun _ => tally_later)))

/-! ### An announced frontier at a core (R39, R42, R83) -/

/-- A read from a map of which the values of a kind have changed. -/
theorem mget_changeIf {α : Type} {d : α} {p : α → Prop} [DecidablePred p] {g : α → α} (hd : ¬ p d) (m : Map α) (k : Nat) :
    mget d (m.map fun e => if p e.2 then (e.1, g e.2) else e) k = if p (mget d m k) then g (mget d m k) else mget d m k := by
  induction m with
  | nil => rw [List.map_nil, mget, if_neg hd]
  | cons e m ih =>
    rw [List.map_cons]
    by_cases hp : p e.2 <;> by_cases hk : e.1 = k <;> simp [mget, hp, hk, ih]

/-- A core that knows a frontier, its cells flipped. -/
def frontKnown (n : Nat) (f : Word) (x : Core) : Core :=
  { x with
    fronts := mset 0 x.fronts n f,
    cells := x.cells.map fun e => if e.2.valid ∧ e.2.sheaf.toNat = n then (e.1, flipCell f e.2) else e }

theorem cellAt_frontKnown (x : Core) (i : Nat) : cellAt (frontKnown n f x) i =
    if (cellAt x i).valid ∧ (cellAt x i).sheaf.toNat = n then flipCell f (cellAt x i) else cellAt x i :=
  mget_changeIf (p := fun e : CellEntry => e.valid ∧ e.sheaf.toNat = n) (fun h => Bool.false_ne_true h.1) x.cells i

theorem flipCell_bindings (e : CellEntry) : (flipCell f e).bva = e.bva ∧ (flipCell f e).bvb = e.bvb := by
  unfold flipCell setBufTime
  split
  · split <;> exact ⟨rfl, rfl⟩
  · exact ⟨rfl, rfl⟩

theorem frontKnown_bindings {x : Core} (hx : ∀ e ∈ x.cells, e.2.bva = false ∨ e.2.bvb = false) (i : Nat) :
    (cellAt (frontKnown n f x) i).bva = false ∨ (cellAt (frontKnown n f x) i).bvb = false := by
  have h : (cellAt x i).bva = false ∨ (cellAt x i).bvb = false := by
    by_cases hm : cellAt x i = CellEntry.reset
    · rw [hm]
      exact .inl rfl
    · exact hx _ (mem_of_mget hm)
  rw [cellAt_frontKnown]
  split
  · rwa [(flipCell_bindings _).1, (flipCell_bindings _).2]
  · exact h

/-- A cell with one binding has none that retires. -/
theorem retireBinding_none {i : Nat} (h : (cellAt (coreAt s c) i).bva = false ∨ (cellAt (coreAt s c) i).bvb = false) :
    run (retireBinding c i f) s = s := by
  have hr : retiring f (cellAt (coreAt s c) i) = none := by
    rcases h with h | h <;> simp [retiring, h]
  rw [retireBinding, run_look_bind]
  dsimp only [id]
  rw [hr]
  rfl

/-- What an announced frontier does to the thread of a slot: waits that are over end (R45, R336). -/
def frontThread (s : State) (c n : Nat) (f : Word) (k : Nat) : Act Unit :=
  match threadAt s c k with
  | none => pure ()
  | some t => onlyIf (decide (sheafOf t = some n)) (do
    wakeFwaits c k f
    match t.wait with
    | .frontier u => onlyIf (decide (u.toNat < f.toNat)) (do
        acquireCommit c
        goOn c k)
    | _ => pure ())

theorem clock_frontThread {k} : Keeps clockFrame (frontThread s c n f k) := by
  unfold frontThread
  split
  · exact keeps_pure
  · exact keeps_onlyIf (keeps_bind clock_wakeFwaits fun _ => by
      split
      · exact keeps_onlyIf (keeps_bind clock_acquireCommit fun _ => clock_goOn)
      · exact keeps_pure)

/-- What follows on the flips. -/
def frontSteps (s : State) (c n : Nat) (f : Word) : Act Unit := do
  each ((coreAt s c).cells.filter fun e => e.2.valid && decide (e.2.sheaf.toNat = n)) fun e => retireBinding c e.1 f
  each (List.range 16) (frontThread s c n f)
  pokeHeld c

theorem applyFrontier_eq : applyFrontier c n f = (do
    let s ← look id
    onlyIf (decide ((frontierAt s c n).toNat < f.toNat)) (do
      modCore c (frontKnown n f)
      frontSteps s c n f)) := rfl

/-- The state as a core knows a frontier. -/
def coreFront (c n : Nat) (f : Word) (s : State) : State := applyUpd (.core c (frontKnown n f (coreAt s c))) s

theorem coreAt_coreFront {d : Nat} : coreAt (coreFront c n f s) d = if d = c then frontKnown n f (coreAt s c) else coreAt s d :=
  coreAt_changed _ _ _ _

theorem run_frontSteps (ht : ∀ k, k < 16 → threadAt s c k = none)
    (hb : ∀ e ∈ (coreAt s c).cells, e.2.bva = false ∨ e.2.bvb = false) :
    run (frontSteps s c n f) (coreFront c n f s) = run (pokeHeld c) (coreFront c n f s) := by
  have hr : run (each ((coreAt s c).cells.filter fun e => e.2.valid && decide (e.2.sheaf.toNat = n)) fun e =>
      retireBinding c e.1 f) (coreFront c n f s) = coreFront c n f s :=
    run_each_unchanged (fun _ => clock_retireBinding.logged) fun e _ => retireBinding_none (by
      rw [coreAt_coreFront, if_pos rfl]
      exact frontKnown_bindings hb e.1)
  have hk : run (each (List.range 16) (frontThread s c n f)) (coreFront c n f s) = coreFront c n f s :=
    run_each_unchanged (fun _ => clock_frontThread.logged) fun k hm => by
      rw [frontThread, ht k (List.mem_range.mp hm)]
      rfl
  have hl : Logged (each (List.range 16) (frontThread s c n f)) := logged_each _ fun _ => clock_frontThread.logged
  rw [frontSteps, run_seq (logged_each _ fun _ => clock_retireBinding.logged) (logged_bind hl fun _ => tally_pokeHeld.logged), hr,
    run_seq hl tally_pokeHeld.logged, hk]

theorem frontier_old (h : f.toNat ≤ (frontierAt s c n).toNat) : exec (.frontierAnnouncement c n f) s = .next s := by
  change Host.Outcome.next (run (applyFrontier c n f) s) = _
  rw [applyFrontier_eq, run_look_bind]
  dsimp only [id]
  rw [run_onlyIf, decide_eq_false (Nat.not_lt.mpr h), if_neg Bool.false_ne_true]

theorem exec_frontier (h : (frontierAt s c n).toNat < f.toNat) (ht : ∀ k, k < 16 → threadAt s c k = none)
    (hb : ∀ e ∈ (coreAt s c).cells, e.2.bva = false ∨ e.2.bvb = false) :
    exec (.frontierAnnouncement c n f) s = .next (run (pokeHeld c) (coreFront c n f s)) := by
  have hl : Logged (frontSteps s c n f) := logged_bind (logged_each _ fun _ => clock_retireBinding.logged) fun _ =>
    logged_bind (logged_each _ fun _ => clock_frontThread.logged) fun _ => tally_pokeHeld.logged
  change Host.Outcome.next (run (applyFrontier c n f) s) = _
  rw [applyFrontier_eq, run_look_bind]
  dsimp only [id]
  rw [run_onlyIf, decide_eq_true h, if_pos rfl, run_seq (logged_modCore _ _) hl, ← run_frontSteps ht hb]
  rfl

theorem CellsRel.cellAt (r : CellsRel s t) (c i : Nat) : cellAt (coreAt t c) i = cellAt (coreAt s c) i := by
  rw [Machine.cellAt, r.cells, ← Machine.cellAt]

theorem CellsRel.frontierAt (r : CellsRel s t) (c n : Nat) : frontierAt t c n = frontierAt s c n := by
  rw [Machine.frontierAt, r.fronts, ← Machine.frontierAt]

theorem frontierAt_coreFront {m : Nat} : frontierAt (coreFront c n f s) c m = if m = n then f else frontierAt s c m := by
  rw [frontierAt, coreAt_coreFront, if_pos rfl]
  exact mget_mset _ _ _ _ _

theorem frontierAnnounced : Claims.FrontierAnnounced := by
  intro s c n f
  refine ⟨frontier_old, fun h ht hb => ?_⟩
  have r : TallyRel (coreFront c n f s) (run (pokeHeld c) (coreFront c n f s)) := tally_pokeHeld.run _
  refine ⟨_, exec_frontier h ht hb, ?_, r.mem, fun m hm => ?_, fun i => ?_⟩
  · rw [r.frontierAt, frontierAt_coreFront, if_pos rfl]
  · rw [r.frontierAt, frontierAt_coreFront, if_neg hm]
  · dsimp only
    rw [r.cellAt, coreAt_coreFront, if_pos rfl, cellAt_frontKnown]
    by_cases hv : (cellAt (coreAt s c) i).valid = true ∧ (cellAt (coreAt s c) i).sheaf.toNat = n
    · rw [if_pos hv, flipCell]
      simp [hv]
    · rw [if_neg hv, if_neg fun k => hv ⟨k.1, k.2.1⟩]

end

/-- Settles O57: a unit of the tree, a core or the root changes by one change of its own, and what it sends is on its way after it. -/
theorem reductionTree : Obligations.ReductionTree := ⟨deltaBatches, batchesApplied, sweepRequests, sweeps, frontierAnnounced⟩

end Sys2Proof.Machine

namespace Sys2Proof.Machine
open Sys2Proof

/-! ### Cells after a change -/

section
variable {s t : State} {c d h i j k n inc : Nat}

/-- The core whose cell changes. -/
theorem coreAt_modCell {f : CellEntry → CellEntry} : coreAt (run (modCell c i f) s) d =
    if d = c then { coreAt s c with cells := mset CellEntry.reset (coreAt s c).cells i (f (cellAt (coreAt s c) i)) } else coreAt s d :=
  coreAt_changed _ _ _ _

theorem cellAt_modCell {f : CellEntry → CellEntry} : cellAt (coreAt (run (modCell c i f) s) c) j =
    if j = i then f (cellAt (coreAt s c) i) else cellAt (coreAt s c) j := by
  rw [coreAt_modCell, if_pos rfl]
  exact mget_mset _ _ _ _ _

/-! ### Threads by their incarnation -/

/-- The thread in a context cache changes, where the one that is named is held there. -/
def onCached (s : State) (c k inc : Nat) (f : Thread → Thread) : Act Unit :=
  each s.cores fun x => each x.2.cache fun e =>
    onlyIf (decide (e.2.core = c) && decide (e.2.slot = k) && decide (e.2.thread.incarn.toNat = inc))
      (modCore x.1 fun y => { y with cache := y.cache.map fun z =>
        if z.1 = e.1 then (z.1, { z.2 with thread := f z.2.thread }) else z })

theorem tally_onCached {f} : Keeps tallyFrame (onCached s c k inc f) :=
  keeps_each fun _ => keeps_each fun _ => keeps_onlyIf (tally_modCore fun _ => ⟨rfl, rfl, rfl, rfl⟩)

/-- A thread changed when it has an incarnation. -/
def ifIncarn (inc : Nat) (f : Thread → Thread) (t : Thread) : Thread := if t.incarn.toNat = inc then f t else t

theorem run_onThread {f : Thread → Thread} : run (onThread c k inc f) s =
    let t := run (modThread c k (ifIncarn inc f)) s
    run (onCached t c k inc f) t :=
  run_seq (logged_modThread _ _ _) (logged_bind (logged_look id) fun s => (tally_onCached (s := s)).logged) s

theorem cells_modThread {f} : Keeps cellsFrame (modThread c k f) :=
  ⟨logged_modThread _ _ _, fun _ => ⟨rfl, rfl, fun _ => rfl, fun _ => rfl, fun _ => rfl, fun _ => rfl⟩⟩

theorem cells_onThread {f} : Keeps cellsFrame (onThread c k inc f) :=
  keeps_bind cells_modThread fun _ => keeps_look_bind fun s => (tally_onCached (s := s)).cells

theorem threadAt_onThread {f : Thread → Thread} :
    threadAt (run (onThread c k inc f) s) c k = (threadAt s c k).map (ifIncarn inc f) := by
  rw [run_onThread]
  dsimp only
  rw [threadAt, slotAt, (tally_onCached.run _ : TallyRel _ _).slots, ← slotAt, run_modThread, slotAt_changed, if_pos rfl,
    mapThread_thread]
  rfl

/-! ### Marks (R31, R32) -/

theorem cells_sendMark {source sum d t sheaf w} : Keeps cellsFrame (sendMark h source sum d t sheaf w) := by
  unfold sendMark
  split
  · exact keeps_pure
  · exact keeps_look_bind fun _ => keeps_bind tally_countAt.cells fun _ => keeps_bind cells_onThread fun _ =>
      keeps_ite tally_later.cells (keeps_bind tally_colourSent.cells fun _ => (tally_of_net mail_sendMsg net_sendMsg).cells)

theorem cells_markDependants {t zeroOnly w} : Keeps cellsFrame (markDependants h i t zeroOnly w) :=
  keeps_look_bind fun _ => keeps_each fun _ => keeps_onlyIf (keeps_ite tally_countReg.cells cells_sendMark)

/-- What a mark counts where it lands. -/
def markCounts (m : MarkMsg) (h : Nat) : Act Unit := do
  onlyIf (decide (((cellHome m.source).getD (h, 0)).1 ≠ h)) (colourReceived h m.col)
  onlyIf m.counted (countAt h (some m.sheaf) m.time (-1))

theorem tally_markCounts {m} : Keeps tallyFrame (markCounts m h) :=
  keeps_bind (keeps_onlyIf tally_colourReceived) fun _ => keeps_onlyIf tally_countAt

/-- Whether a mark finds a binding in force at its time that names its edge. -/
def markNames (s : State) (m : MarkMsg) (h i : Nat) : Bool :=
  (cellAt (coreAt s h) i).valid && !isFenced s h && (formulaAt (cellAt (coreAt s h) i) m.time).elim false fun r =>
    (formulaRec s h r).precs.contains (m.source, m.summary)

/-- The closure of a mark that has queued its task. -/
def markClosure (m : MarkMsg) (h i : Nat) : Act Unit := do
  markDependants h i m.time true ⟨m.core, m.slot, m.inc⟩
  pokeHeld h

theorem cells_markClosure {m} : Keeps cellsFrame (markClosure m h i) := keeps_bind cells_markDependants fun _ => tally_pokeHeld.cells

/-- The acknowledgement of a mark. -/
def markReply (m : MarkMsg) (h : Nat) : Act Unit :=
  if m.core = h then later 1 5 h (.markAck m.core m.slot m.inc)
  else sendMsg h (.core m.core) m.slack m.exh m.core (some m.slot) (.markAck m.core m.slot m.inc)

theorem tally_markReply {m} : Keeps tallyFrame (markReply m h) :=
  keeps_ite tally_later (tally_of_net mail_sendMsg net_sendMsg)

theorem markReply_pends {m : MarkMsg} (hc : t.cycle = s.cycle) (hm : m.core = h) :
    Pends s (run (markReply m h) t) 1 5 h (.markAck m.core m.slot m.inc) := by
  rw [markReply, if_pos hm, run_later, Pends, dueCycle_later _ _ (by omega), dueCycle_later _ _ (by omega), hc]
  exact mem_putEvent.mpr (.inl rfl)

theorem exec_mark {m : MarkMsg} (hc : cellHome m.cell = some (h, i)) : exec (.mark m) s = .next (run (do
    markCounts m h
    if markNames s m h i then do
      queueTask h i m.time false
      markClosure m h i
      markReply m h
    else markReply m h) s) := by
  change execMark m s = _
  unfold execMark
  rw [hc]
  rfl

theorem exec_mark_named {m : MarkMsg} (hc : cellHome m.cell = some (h, i)) (hn : markNames s m h i = true) :
    exec (.mark m) s = .next (run (markReply m h) (run (markClosure m h i) (run (queueTask h i m.time false)
      (run (markCounts m h) s)))) := by
  have hr : Logged (markReply m h) := tally_markReply.logged
  have hl : Logged (markClosure m h i >>= fun _ => markReply m h) := logged_bind cells_markClosure.logged fun _ => hr
  rw [exec_mark hc, if_pos hn, run_seq tally_markCounts.logged (logged_bind clock_queueTask.logged fun _ => hl),
    run_seq clock_queueTask.logged hl, run_seq cells_markClosure.logged hr]

theorem exec_mark_unnamed {m : MarkMsg} (hc : cellHome m.cell = some (h, i)) (hn : markNames s m h i = false) :
    exec (.mark m) s = .next (run (markReply m h) (run (markCounts m h) s)) := by
  rw [exec_mark hc, if_neg (by rw [hn]; exact Bool.false_ne_true), run_seq tally_markCounts.logged tally_markReply.logged]

/-! ### The task that a mark queues (R31, R35) -/

/-- A cell with STALE at the least time queued. -/
def staleBy (t : Word) (e : CellEntry) : CellEntry := { e with stale := if t.toNat < e.stale.toNat then t else e.stale }

/-- A core with one more task queued. -/
def withTask (i : Nat) (t : Word) (x : Core) : Core := { x with tasks := x.tasks ++ [⟨i, t, false, none, x.colour⟩] }

/-- The state with a task queued, before it is counted. -/
def taskQueued (h i : Nat) (t : Word) (s : State) : State := run (modCell h i (staleBy t)) (run (modCore h (withTask i t)) s)

theorem coreAt_withTask {w : Word} : coreAt (run (modCore h (withTask i w)) s) d = if d = h then withTask i w (coreAt s h) else coreAt s d :=
  coreAt_changed _ _ _ _

theorem taskQueued_keeps {w : Word} : (taskQueued h i w s).cycle = s.cycle ∧ (taskQueued h i w s).mem = s.mem := ⟨rfl, rfl⟩

theorem tasks_taskQueued {w : Word} : (coreAt (taskQueued h i w s) h).tasks = (withTask i w (coreAt s h)).tasks := by
  rw [taskQueued, coreAt_modCell, if_pos rfl, coreAt_withTask, if_pos rfl]

theorem cellAt_taskQueued {w : Word} : cellAt (coreAt (taskQueued h i w s) h) j =
    if j = i then staleBy w (cellAt (coreAt s h) i) else cellAt (coreAt s h) j := by
  rw [taskQueued, cellAt_modCell, coreAt_withTask, if_pos rfl]
  rfl

theorem coreAt_taskQueued_ne {w : Word} (hd : d ≠ h) : coreAt (taskQueued h i w s) d = coreAt s d := by
  rw [taskQueued, coreAt_modCell, if_neg hd, coreAt_withTask, if_neg hd]

/-- Whether a task of a cell is queued for a time. -/
theorem tasksOf_any {x : Core} {w : Word} : ((tasksOf x i).any fun y => decide (y.time = w)) = true ↔
    ∃ y ∈ x.tasks, y.cell = i ∧ y.time = w := by
  simp [tasksOf]

/-- A task for ⊤, and one that is queued already, is not queued. -/
theorem queueTask_none {w : Word} (hw : w = timeTop ∨ ∃ y ∈ (coreAt s h).tasks, y.cell = i ∧ y.time = w) :
    TallyRel s (run (queueTask h i w false) s) := by
  rw [queueTask, run_look_bind]
  by_cases ht : w = timeTop
  · rw [if_pos ht]
    exact tally_countReg.run s
  · rw [if_neg ht, tasksOf_any.mpr (hw.resolve_left ht)]
    exact tallyFrame.refl s

theorem queueTask_new {w : Word} (ht : w ≠ timeTop) (hw : ∀ y ∈ (coreAt s h).tasks, y.cell = i → y.time ≠ w) :
    TallyRel (taskQueued h i w s) (run (queueTask h i w false) s) := by
  have ha : ((tasksOf (coreAt s h) i).any fun y => decide (y.time = w)) = false := by
    rw [Bool.eq_false_iff, ne_eq, tasksOf_any]
    rintro ⟨y, hy, hi, he⟩
    exact hw y hy hi he
  rw [queueTask, run_look_bind, if_neg ht, ha, run_onlyIf, Bool.not_false, if_pos rfl,
    run_seq (logged_modCore _ _) (logged_bind spares_modCell.logged fun _ => tally_countAt.logged),
    run_seq spares_modCell.logged tally_countAt.logged]
  exact tally_countAt.run _

/-- What a mark whose edge is named brings about beside what it queues. -/
theorem mark_named {m : MarkMsg} {t : State} (hc : cellHome m.cell = some (h, i)) (hn : markNames s m h i = true)
    (hq : CellsRel t (run (queueTask h i m.time false) (run (markCounts m h) s))) (ht : t.cycle = s.cycle) :
    ∃ u, exec (.mark m) s = .next u ∧ CellsRel t u ∧ (m.core = h → Pends s u 1 5 h (.markAck m.core m.slot m.inc)) := by
  have hr := cellsFrame.trans hq (cells_markClosure (m := m) (h := h) (i := i).run _)
  refine ⟨_, exec_mark_named hc hn, cellsFrame.trans hr (tally_markReply.cells.run _), markReply_pends ?_⟩
  exact (cellsFrame.cycle hr).trans ht

theorem markQueuesTask : Claims.MarkQueuesTask := by
  intro s m h i r hc x e hv hf hb hp
  have hn : markNames s m h i = true := by
    simp only [markNames, Bool.and_eq_true]
    refine ⟨⟨hv, by rw [hf]; rfl⟩, ?_⟩
    rw [hb]
    exact hp
  have h₁ : TallyRel s (run (markCounts m h) s) := tally_markCounts.run s
  have hcore : (coreAt (run (markCounts m h) s) h).tasks = x.tasks := h₁.tasks h
  refine ⟨fun ht hw => ?_, fun hw => ?_⟩
  · have hq := queueTask_new (s := run (markCounts m h) s) (h := h) (i := i) ht (by rw [hcore]; exact hw)
    obtain ⟨u, hx, hu, ha⟩ := mark_named hc hn hq.toCellsRel (taskQueued_keeps.1.trans h₁.cycle)
    have hk : ∀ j, cellAt (coreAt u h) j = if j = i then staleBy m.time e else cellAt x j := fun j => by
      rw [hu.cellAt, cellAt_taskQueued, h₁.cellAt, h₁.cellAt]
    refine ⟨u, hx, ⟨?_, (hk i).trans (if_pos rfl)⟩, fun j hj => (hk j).trans (if_neg hj), fun g hg => ?_, hu.mem.trans (taskQueued_keeps.2.trans h₁.mem), ha⟩
    · rw [hu.tasks, tasks_taskQueued, withTask, hcore, h₁.colour]
    · rw [hu.cells, coreAt_taskQueued_ne hg, h₁.cells]
  · have hq := tallyFrame.trans h₁ (queueTask_none (s := run (markCounts m h) s) (h := h) (i := i) (by rw [hcore]; exact hw))
    obtain ⟨u, hx, hu, ha⟩ := mark_named hc hn (TallyRel.toCellsRel hq) rfl
    exact ⟨u, hx, ⟨hu.tasks h, hu.cellAt h i⟩, fun j _ => hu.cellAt h j, fun g _ => hu.cells g, hu.mem, ha⟩

/-! ### Acknowledged marks, installed and removed cells (R31, R32, R402) -/

theorem mark_invalid {m : MarkMsg} (hc : cellHome m.cell = some (m.core, i)) (hv : (cellAt (coreAt s m.core) i).valid = false) :
    ∃ u, exec (.mark m) s = .next u ∧ (coreAt u m.core).cells = (coreAt s m.core).cells ∧ u.mem = s.mem ∧ u.slots = s.slots ∧
      Pends s u 1 5 m.core (.markAck m.core m.slot m.inc) := by
  have h₁ : TallyRel s (run (markCounts m m.core) s) := tally_markCounts.run s
  have hu : TallyRel s (run (markReply m m.core) (run (markCounts m m.core) s)) := tallyFrame.trans h₁ (tally_markReply.run _)
  exact ⟨_, exec_mark_unnamed hc (by simp [markNames, hv]), hu.cells _, hu.mem, hu.slots, markReply_pends h₁.cycle rfl⟩

/-- A thread that still waits for marks stays. -/
theorem marksDone_waits {t : Thread} (ht : threadAt s c k = some t) (hw : t.wait = .marks (n + 1)) : run (marksDone c k) s = s := by
  rw [marksDone, run_look_bind, ht]
  dsimp only
  rw [hw]
  rfl

theorem markAck_less {t : Thread} (ht : threadAt s c k = some t) (hw : t.wait = .marks (n + 2)) :
    ∃ u th, exec (.markAck c k t.incarn.toNat) s = .next u ∧ threadAt u c k = some th ∧ th.wait = .marks (n + 1) ∧
      u.mem = s.mem := by
  let v := run (onThread c k t.incarn.toNat (mapMarks (· - 1))) s
  have hv : threadAt v c k = some (mapMarks (· - 1) t) := by
    rw [threadAt_onThread, ht, Option.map_some, ifIncarn, if_pos rfl]
  have hm : (mapMarks (· - 1) t).wait = .marks (n + 1) := by
    rw [mapMarks, hw]
    rfl
  have hx : exec (.markAck c k t.incarn.toNat) s = .next v := by
    change Host.Outcome.next (run (marksLess ⟨c, k, t.incarn.toNat⟩) s) = _
    rw [marksLess, run_seq cells_onThread.logged (logged_bind (logged_look _) fun _ => logged_onlyIf _ clock_marksDone.logged),
      run_look_bind, run_onlyIf]
    split
    · rw [marksDone_waits hv hm]
    · rfl
  exact ⟨v, _, hx, hv, hm, (cells_onThread.run s : CellsRel _ _).mem⟩

/-- A directory entry changes, and what its core holds is looked at again. -/
theorem modCell_pokeHeld {f : CellEntry → CellEntry} : let u := run (modCell c i f >>= fun _ => pokeHeld c) s
    cellAt (coreAt u c) i = f (cellAt (coreAt s c) i) ∧ (∀ j, j ≠ i → cellAt (coreAt u c) j = cellAt (coreAt s c) j) ∧
      u.mem = s.mem ∧ u.slots = s.slots := by
  have hr : TallyRel (run (modCell c i f) s) (run (pokeHeld c) (run (modCell c i f) s)) := tally_pokeHeld.run _
  rw [run_seq spares_modCell.logged tally_pokeHeld.logged]
  refine ⟨?_, fun j hj => ?_, hr.mem, hr.slots⟩
  · rw [hr.cellAt, cellAt_modCell, if_pos rfl]
  · rw [hr.cellAt, cellAt_modCell, if_neg hj]

theorem cellInstall_spec (h : cellRefused s c i 8 1 = false) : ∃ u, exec (.cellInstall c i) s = .next u ∧
    cellAt (coreAt u c) i = { cellAt (coreAt s c) i with valid := true } ∧
    (∀ j, j ≠ i → cellAt (coreAt u c) j = cellAt (coreAt s c) j) ∧ u.mem = s.mem ∧ u.slots = s.slots := by
  refine ⟨_, ?_, modCell_pokeHeld (f := fun e => { e with valid := true })⟩
  change execCellInstall c i s = _
  rw [execCellInstall, h]
  rfl

theorem cellRemove_spec (h : cellRefused s c i 8 0 = false) : ∃ u, exec (.cellRemove c i) s = .next u ∧
    cellAt (coreAt u c) i = { cellAt (coreAt s c) i with valid := false, writer := none } ∧
    (∀ j, j ≠ i → cellAt (coreAt u c) j = cellAt (coreAt s c) j) ∧ u.mem = s.mem ∧ u.slots = s.slots := by
  refine ⟨_, ?_, modCell_pokeHeld (f := fun e => { e with valid := false, writer := none })⟩
  change execCellRemove c i s = _
  rw [execCellRemove, h]
  rfl

theorem cellMarks : Claims.CellEvents :=
  ⟨fun _ _ _ hc hv => mark_invalid hc hv, fun _ _ _ _ _ ht hw _ => markAck_less ht hw,
    fun _ _ _ => ⟨cellInstall_spec, cellRemove_spec⟩⟩

end
end Sys2Proof.Machine

namespace Sys2Proof.Machine
open Sys2Proof

/-! ### A request that decides (R343) -/

/-- What a change of slots, of cores and of pending events leaves as it was. -/
def memFrame : Frame where
  rel s t := t.cycle = s.cycle ∧ t.mem = s.mem
  refl _ := ⟨rfl, rfl⟩
  trans h k := ⟨k.1.trans h.1, k.2.trans h.2⟩
  cycle h := h.1

section
variable {s t u : State} {r : CellReq} {i st : Nat} {o : Token} {z : Option (Bool × Word)}

theorem mem_modCell {c j f} : Keeps memFrame (modCell c j f) := ⟨logged_modCore _ _, fun _ => ⟨rfl, rfl⟩⟩
theorem mem_modBlock {c k f} : Keeps memFrame (modBlock c k f) := ⟨logged_modBlock _ _ _, fun _ => ⟨rfl, rfl⟩⟩

theorem mem_reserveCell {h y} : Keeps memFrame (reserveCell r h i y) := by
  unfold reserveCell
  split
  · exact mem_modCell
  · exact mem_modCell
  · exact mem_modCell
  · exact keeps_pure

/-- A block with one more effect held for its commit. -/
def withEff (idx : Nat) (e : Eff) (b : Block) : Block := { b with effs := b.effs ++ [(idx, e)] }

/-- The effect that the block of a decided request holds beside a reservation: of CREL a count in PINERR, of CCMT the commit. -/
def heldEff (r : CellReq) (st : Nat) : Option Eff :=
  match r.op, st with
  | .crel _, 0 => some .pinErr
  | .ccmt _, 0 => some (.cell r true)
  | _, _ => none

/-- A block with a reservation and the effect that it will have. -/
def withResv (r : CellReq) (y : Bool) (old : Word) (precs : List (Nat × Nat)) (b : Block) : Block :=
  { b with resv := b.resv ++ [⟨r.id.idx, r, y, old, precs⟩], effs := b.effs ++ [(r.id.idx, .cell r true)] }

/-- What a decided request keeps: its reservation at the home core, and what its block holds for the commit. -/
def settleKeeps (r : CellReq) (h i st : Nat) (z : Option (Bool × Word)) : Act Unit :=
  match z with
  | some (y, old) => do
    let precs ← look (precsRead · h r)
    reserveCell r h i y
    modBlock r.id.core r.id.slot (withResv r y old precs)
  | none =>
    match heldEff r st with
    | some e => modBlock r.id.core r.id.slot (withEff r.id.idx e)
    | none => pure ()

theorem heldEff_crel {a : Word} (hop : r.op = .crel a) : heldEff r 0 = some .pinErr := by simp only [heldEff, hop]
theorem heldEff_ccmt {t : Word} (hop : r.op = .ccmt t) : heldEff r 0 = some (.cell r true) := by simp only [heldEff, hop]

theorem heldEff_none (hcrel : ∀ a, r.op = .crel a → st ≠ 0) (hccmt : ∀ t, r.op = .ccmt t → st ≠ 0) : heldEff r st = none := by
  unfold heldEff
  split
  case h_1 ho => exact absurd rfl (hcrel _ ho)
  case h_2 ho => exact absurd rfl (hccmt _ ho)
  case h_3 => rfl

theorem settleCell_eq {h : Nat} : settleCell r h i st o z = settleKeeps r h i st z >>= fun _ => replyCell h r st o := by
  unfold settleCell settleKeeps
  cases z with
  | some z => rfl
  | none =>
    dsimp only
    split
    case h_1 ho =>
      rw [heldEff_crel ho]
      exact rfl
    case h_2 ho =>
      rw [heldEff_ccmt ho]
      exact rfl
    case h_3 hcrel hccmt =>
      rw [heldEff_none hcrel hccmt]
      exact rfl

theorem mem_settleKeeps {h : Nat} : Keeps memFrame (settleKeeps r h i st z) := by
  unfold settleKeeps
  split
  · exact keeps_look_bind fun _ => keeps_bind mem_reserveCell fun _ => mem_modBlock
  · split
    · exact mem_modBlock
    · exact keeps_pure

/-- The state once a request of the issuing core has been decided, before its reply. -/
def settled (s : State) (r : CellReq) (i st : Nat) (z : Option (Bool × Word)) : State := run (settleKeeps r r.id.core i st z) s

theorem run_atCycle {n phase place : Nat} {e : Instr} :
    run (atCycle n phase place e) s = applyUpd (.sched (agendaKey (max s.cycle n) phase place) e) s := rfl

/-- The reply of a decision at the issuing core itself. -/
theorem replyCell_own : run (replyCell r.id.core r st o) s = run (atCycle (firstDelivery s r.id) 2 (slotPlace r.id.core r.id.slot)
    (.tokenDelivery (.cell ⟨r.id, st, o⟩))) s := by
  rw [replyCell, run_look_bind]
  dsimp only
  rw [if_pos rfl, deliverNow, run_look_bind]
  dsimp only [id, deliveryId]

theorem applyUpd_sched_frame (k : Nat) (e : Instr) (t : State) :
    applyUpd (.sched k e) t = { t with agenda := (applyUpd (.sched k e) t).agenda } := rfl

/-- The reply changes the pending events only. -/
theorem decides_of_reply {P : State → Prop} (hx : exec (.heldDecision r) s = .next (run (replyCell r.id.core r st o) t))
    (hc : t.cycle = s.cycle) (hm : t.mem = s.mem) (hP : ∀ u, u = { t with agenda := u.agenda } → P u) : Decides s r st o P := by
  rw [replyCell_own, run_atCycle] at hx
  generalize hk : agendaKey _ _ _ = k at hx
  refine ⟨_, hx, hm, hP _ (applyUpd_sched_frame k _ t), max t.cycle (firstDelivery t r.id), ?_, ?_⟩
  · rw [hc]
    exact Nat.le_max_left _ _
  · rw [show agendaKey _ 2 (r.id.core * 16 + r.id.slot) = k from hk]
    exact mem_putEvent.mpr (.inl rfl)

theorem exec_held_unnamed (hop : ∀ t o, r.op ≠ .close t o) (hn : cellNamed r.cell = none) :
    exec (.heldDecision r) s = .next (run (replyCell r.id.core r 9 .null) s) := by
  change execHeldDecision r s = _
  unfold execHeldDecision
  rw [hn]
  split
  case h_1 ho _ => exact absurd ho (hop _ _)
  case h_2 => rfl
  case h_3 => contradiction

theorem exec_held_own (hop : ∀ t o, r.op ≠ .close t o) (hc : OwnCell s r i) : exec (.heldDecision r) s = .next (run
    (match decideCell s r with
    | .wait => modCore r.id.core fun x => { x with held := x.held ++ [r] }
    | .answer st o z => settleCell r r.id.core i st o z) s) := by
  change execHeldDecision r s = _
  unfold execHeldDecision
  rw [hc.named]
  split
  case h_1 ho _ => exact absurd ho (hop _ _)
  case h_2 => contradiction
  case h_3 he _ =>
    cases he
    rw [if_pos hc.current] <;> rfl

theorem staysHeld_of_wait (hop : ∀ t o, r.op ≠ .close t o) (hc : OwnCell s r i) (hd : decideCell s r = .wait) : StaysHeld s r := by
  have hx := exec_held_own hop hc
  rw [hd] at hx
  exact ⟨_, hx, rfl, by rw [run_modCore, coreAt_changed, if_pos rfl]⟩

theorem decides_of_answer {P : State → Prop} (hop : ∀ t o, r.op ≠ .close t o) (hc : OwnCell s r i)
    (hd : decideCell s r = .answer st o z) (hP : ∀ u, u = { settled s r i st z with agenda := u.agenda } → P u) :
    Decides s r st o P := by
  have hx := exec_held_own hop hc
  rw [hd] at hx
  dsimp only at hx
  rw [settleCell_eq, run_seq mem_settleKeeps.logged clock_replyCell.logged] at hx
  obtain ⟨hcy, hm⟩ := mem_settleKeeps.run (F := memFrame) (a := settleKeeps r r.id.core i st z) s
  exact decides_of_reply hx hcy hm hP

theorem decides_status (hop : ∀ t o, r.op ≠ .close t o) (hc : OwnCell s r i) (hd : decideCell s r = .answer st o z) :
    Decides s r st o fun _ => True := decides_of_answer hop hc hd fun _ _ => trivial

theorem cellDecisions : Claims.CellDecisions := by
  intro s r i hop
  refine ⟨fun hn => decides_of_reply (exec_held_unnamed hop hn) rfl rfl fun _ h => h, fun hn hcur => ⟨fun hd => ?_, fun st o z hd => ?_⟩⟩
  · exact staysHeld_of_wait hop ⟨hn, hcur⟩ hd
  · exact decides_status hop ⟨hn, hcur⟩ hd

/-! ### The statuses that come first (R349, R354) -/

theorem decideCell_invalid (hc : OwnCell s r i) (hv : (cellAt (coreAt s r.id.core) i).valid = false) : decideCell s r = refuseBy 9 := by
  rw [decideCell, hc.named]
  dsimp only
  rw [hv]
  rfl

theorem decideCell_foreign (hc : OwnCell s r i) (hv : (cellAt (coreAt s r.id.core) i).valid = true) (ho : ∀ n b, r.op ≠ .cstat n b)
    (hs : r.sheaf ≠ some (cellAt (coreAt s r.id.core) i).sheaf.toNat) : decideCell s r = refuseBy 6 := by
  rw [decideCell, hc.named]
  dsimp only
  rw [hv]
  split
  case isTrue h => cases h
  case isFalse =>
    split
    case h_1 h => exact absurd h (ho _ _)
    case h_2 => rfl

/-- The decision of a cell instruction on a cell that is valid and of the thread's sheaf. -/
def decideOp (s : State) (r : CellReq) (h i : Nat) (e : CellEntry) : Decided :=
  match r.op with
  | .crd => decideCrd s h e r
  | .crel addr => decideCrel s h i e r addr
  | .cwr t => decideWrite s h i e r t
  | .ccmt t => decideCcmt e r t
  | .cset t _ _ => if isFenced s h then refuseBy 5 else if 128 < tileSize s h e then refuseBy 7 else decideWrite s h i e r t
  | .cbind off t => decideBind s h i e r (some (off / 64)) t
  | .cunb t => decideBind s h i e r none t
  | _ => refuseBy 9

/-- A cell instruction on a valid cell of the issuing core, by a thread of its sheaf. -/
structure OwnOp (s : State) (r : CellReq) (i : Nat) : Prop extends OwnCell s r i where
  valid : (cellAt (coreAt s r.id.core) i).valid = true
  sheaf : r.sheaf = some (cellAt (coreAt s r.id.core) i).sheaf.toNat

theorem OwnOp.decideCell (h : OwnOp s r i) (ho : ∀ n b, r.op ≠ .cstat n b) :
    decideCell s r = decideOp s r r.id.core i (cellAt (coreAt s r.id.core) i) := by
  rw [Machine.decideCell, h.named]
  dsimp only
  rw [h.valid, if_neg (by decide)]
  unfold decideOp
  cases hop : r.op with
  | cstat n b => exact absurd hop (ho n b)
  | _ => exact if_neg fun hn => hn h.sheaf

section
variable (h : OwnOp s r i)
include h

theorem OwnOp.crd (ho : r.op = .crd) : Machine.decideCell s r = decideCrd s r.id.core (cellAt (coreAt s r.id.core) i) r := by
  rw [h.decideCell (by rw [ho]; nofun), decideOp, ho]

theorem OwnOp.crel {a : Word} (ho : r.op = .crel a) :
    Machine.decideCell s r = decideCrel s r.id.core i (cellAt (coreAt s r.id.core) i) r a := by
  rw [h.decideCell (by rw [ho]; nofun), decideOp, ho]

theorem OwnOp.cwr {t : Word} (ho : r.op = .cwr t) :
    Machine.decideCell s r = decideWrite s r.id.core i (cellAt (coreAt s r.id.core) i) r t := by
  rw [h.decideCell (by rw [ho]; nofun), decideOp, ho]

theorem OwnOp.ccmt {t : Word} (ho : r.op = .ccmt t) : Machine.decideCell s r = decideCcmt (cellAt (coreAt s r.id.core) i) r t := by
  rw [h.decideCell (by rw [ho]; nofun), decideOp, ho]

theorem OwnOp.cset {t : Word} {a b} (ho : r.op = .cset t a b) : Machine.decideCell s r =
    if isFenced s r.id.core then refuseBy 5
    else if 128 < tileSize s r.id.core (cellAt (coreAt s r.id.core) i) then refuseBy 7
    else decideWrite s r.id.core i (cellAt (coreAt s r.id.core) i) r t := by
  rw [h.decideCell (by rw [ho]; nofun), decideOp, ho]

theorem OwnOp.cbind {off : Nat} {t : Word} (ho : r.op = .cbind off t) :
    Machine.decideCell s r = decideBind s r.id.core i (cellAt (coreAt s r.id.core) i) r (some (off / 64)) t := by
  rw [h.decideCell (by rw [ho]; nofun), decideOp, ho]

theorem OwnOp.cunb {t : Word} (ho : r.op = .cunb t) :
    Machine.decideCell s r = decideBind s r.id.core i (cellAt (coreAt s r.id.core) i) r none t := by
  rw [h.decideCell (by rw [ho]; nofun), decideOp, ho]

/-- A read or write of a cell of a fenced core fails. -/
theorem OwnOp.fenced (hf : isFenced s r.id.core = true) (ho : r.op = .crd ∨ (∃ t, r.op = .cwr t) ∨ (∃ t a b, r.op = .cset t a b)) :
    Machine.decideCell s r = refuseBy 5 := by
  rcases ho with ho | ⟨t, ho⟩ | ⟨t, a, b, ho⟩
  · rw [h.crd ho, decideCrd, if_pos hf]
  · rw [h.cwr ho, decideWrite, if_pos hf]
  · rw [h.cset ho, if_pos hf]

end

theorem cellRefusals : Claims.CellRefusals := by
  intro s r i hc e
  refine ⟨fun hv hop => decides_status hop hc (decideCell_invalid hc hv), fun hv hop ho hs =>
    decides_status hop hc (decideCell_foreign hc hv ho hs), fun hv hs => ?_⟩
  have h : OwnOp s r i := ⟨hc, hv, hs⟩
  refine ⟨fun hf ho => decides_status ?_ hc (h.fenced hf ho), fun t a b hf ho hn => decides_status ?_ hc (?_ : _ = refuseBy 7)⟩
  · rcases ho with ho | ⟨t, ho⟩ | ⟨t, a, b, ho⟩ <;> rw [ho] <;> nofun
  · rw [ho]
    nofun
  · rw [h.cset ho, if_neg (by rw [hf]; exact Bool.false_ne_true), if_pos hn]

end
end Sys2Proof.Machine

namespace Sys2Proof.Machine
open Sys2Proof

/-! ### Committed versions of a cell (R29, R36) -/

/-- Buffer y of a cell holds a version that is committed, at a time at or below u. -/
abbrev Committed (e : CellEntry) (u : Nat) (y : Bool) : Prop :=
  bufTime e y ≠ timeTop ∧ (y = e.cur ∨ e.wopen = false) ∧ (bufTime e y).toNat ≤ u

section
variable {e : CellEntry} {u : Word}

theorem committed_cur {n : Nat} : Committed e n e.cur ↔ bufTime e e.cur ≠ timeTop ∧ (bufTime e e.cur).toNat ≤ n := by
  simp [Committed]

theorem committed_other {n : Nat} :
    Committed e n (!e.cur) ↔ bufTime e (!e.cur) ≠ timeTop ∧ e.wopen = false ∧ (bufTime e (!e.cur)).toNat ≤ n := by
  simp [Committed]

theorem mem_versions {x : Bool × Word} :
    x ∈ versions e ↔ (bufTime e e.cur ≠ timeTop ∧ x = (e.cur, bufTime e e.cur)) ∨
      (e.wopen = false ∧ bufTime e (!e.cur) ≠ timeTop ∧ x = (!e.cur, bufTime e (!e.cur))) := by
  simp only [versions, List.mem_append]
  split <;> split <;> simp_all

/-- What is left of the versions that CRD chooses from: the current one, then the one that waits to flip. -/
theorem filter_versions : ((versions e).filter fun v => decide (v.2.toNat ≤ u.toNat)) =
    (if Committed e u.toNat e.cur then [(e.cur, bufTime e e.cur)] else []) ++
      (if Committed e u.toNat (!e.cur) then [(!e.cur, bufTime e (!e.cur))] else []) := by
  simp only [committed_cur, committed_other]
  rw [versions, List.filter_append]
  congr 1
  · by_cases h : bufTime e e.cur = timeTop <;> simp [h, List.filter_cons]
  · by_cases h : bufTime e (!e.cur) = timeTop <;> cases e.wopen <;> simp [h, List.filter_cons]

theorem newestAt_none (h : ∀ y, ¬Committed e u.toNat y) : newestAt e u = none := by
  rw [newestAt, filter_versions, if_neg (h _), if_neg (h _)]
  rfl

/-- The newest of the committed versions is the one that no other is newer than. -/
theorem newestAt_some {y : Bool} (hy : Committed e u.toNat y)
    (hn : Committed e u.toNat (!y) → (bufTime e (!y)).toNat < (bufTime e y).toNat) : newestAt e u = some (y, bufTime e y) := by
  rw [newestAt, filter_versions]
  obtain rfl | rfl : y = e.cur ∨ y = !e.cur := Bool.eq_or_eq_not y e.cur
  · rw [if_pos hy]
    split
    case isTrue ho => simp [Nat.not_lt.mpr (Nat.le_of_lt (hn ho))]
    case isFalse => rfl
  · rw [if_pos hy]
    rw [Bool.not_not] at hn
    split
    case isTrue hc => simp [hn hc]
    case isFalse => rfl

end

/-! ### CRD, CWR and CSET (R30, R36, R350, R352) -/

section
variable {s t u : State} {r : CellReq} {i st : Nat} {y : Bool} {old : Word}

theorem coreAt_eq_of_cores {c : Nat} (h : u.cores = t.cores) : coreAt u c = coreAt t c := by rw [coreAt, coreAt, h]
theorem blockAt_eq_of_slots {c k : Nat} (h : u.slots = t.slots) : blockAt u c k = blockAt t c k := by
  rw [blockAt, threadAt, slotAt, blockAt, threadAt, slotAt, h]

theorem settled_reserved : settled s r i st (some (y, old)) =
    run (modBlock r.id.core r.id.slot (withResv r y old (precsRead s r.id.core r))) (run (reserveCell r r.id.core i y) s) := by
  rw [settled, settleKeeps, run_look_bind, run_seq mem_reserveCell.logged (logged_modBlock _ _ _)]

/-- The cell as the reservation leaves it. -/
theorem cellAt_settled {f : CellEntry → CellEntry} (hf : reserveCell r r.id.core i y = modCell r.id.core i f)
    (hu : u = { settled s r i st (some (y, old)) with agenda := u.agenda }) :
    cellAt (coreAt u r.id.core) i = f (cellAt (coreAt s r.id.core) i) := by
  have hc : u.cores = (run (reserveCell r r.id.core i y) s).cores := by rw [congrArg State.cores hu, settled_reserved]; rfl
  rw [coreAt_eq_of_cores hc, hf, cellAt_modCell, if_pos rfl]

theorem reserveCell_crd {h : Nat} (hop : r.op = .crd) : reserveCell r h i y = modCell h i fun e => setPins y (bufPins e y + 1) e := by
  rw [reserveCell, hop]

theorem reserveCell_write {h : Nat} {t : Word} (hop : r.op = .cwr t ∨ ∃ a b, r.op = .cset t a b) : reserveCell r h i y =
    modCell h i fun e => { setBufTime y t e with wopen := true, writer := some (r.id.core, r.id.slot, r.inc) } := by
  rcases hop with hop | ⟨a, b, hop⟩ <;> rw [reserveCell, hop]

theorem unreserved (h : ∀ b, blockAt s r.id.core r.id.slot = some b → b.resv = []) (p : CellResv → Bool) :
    ((blockAt s r.id.core r.id.slot).elim 0 fun b => (b.resv.filter p).length) = 0 := by
  cases hb : blockAt s r.id.core r.id.slot with
  | none => rfl
  | some b =>
    rw [Option.elim_some, h b hb]
    rfl

section
variable {h : Nat} {e : CellEntry}

theorem decideCrd_full (hf : isFenced s h = false) (hp : 0xFFFF ≤ r.pins) : decideCrd s h e r = refuseBy 7 := by
  rw [decideCrd, if_neg (by rw [hf]; exact Bool.false_ne_true), if_pos (Nat.le_add_right_of_le hp)]

/-- CRD at u waits before it looks for a version: for the frontier, for STALE, or for an open buffer. -/
abbrev ReadWaits (s : State) (h : Nat) (e : CellEntry) (u : Nat) : Prop :=
  (frontierAt s h e.sheaf.toNat).toNat < u ∨ e.stale.toNat ≤ u ∨ (e.wopen = true ∧ (bufTime e (!e.cur)).toNat ≤ u)

theorem readWaits_iff {n : Nat} : ((frontierAt s h e.sheaf.toNat).toNat < n || decide (e.stale.toNat ≤ n) ||
    (e.wopen && decide ((bufTime e (!e.cur)).toNat ≤ n))) = true ↔ ReadWaits s h e n := by
  simp only [Bool.or_eq_true, Bool.and_eq_true, decide_eq_true_eq, or_assoc]

section
variable (hf : isFenced s h = false) (hp : r.pins < 0xFFFF) (hr : ∀ b, blockAt s r.id.core r.id.slot = some b → b.resv = [])
include hf hp hr

theorem decideCrd_wait (hw : ReadWaits s h e r.time.toNat ∨ newestAt e r.time = none) : decideCrd s h e r = .wait := by
  rw [decideCrd, if_neg (by rw [hf]; exact Bool.false_ne_true), unreserved hr, if_neg (by omega)]
  split
  case isTrue => rfl
  case isFalse hno => rw [hw.resolve_left fun hw => hno (readWaits_iff.mpr hw)]

theorem decideCrd_version {v : Bool × Word} (hw : ¬ReadWaits s h e r.time.toNat) (hv : newestAt e r.time = some v) :
    decideCrd s h e r = if bufPins e v.1 < 0xFFFF then .answer 0 (.scalar (cellVa s h e v.1)) (some (v.1, 0)) else .wait := by
  rw [decideCrd, if_neg (by rw [hf]; exact Bool.false_ne_true), unreserved hr, if_neg (by omega),
    if_neg fun hno => hw (readWaits_iff.mp hno), hv]

end

/-- A write at t comes too late (R30, R352). -/
abbrev PastWrite (s : State) (h : Nat) (e : CellEntry) (r : CellReq) (t : Word) : Prop :=
  t.toNat < r.time.toNat ∨ (t = r.time ∧ cellState s h e ≠ 0) ∨
    (bufTime e e.cur ≠ timeTop ∧ t.toNat ≤ (bufTime e e.cur).toNat) ∨
    (e.wopen = false ∧ bufTime e (!e.cur) ≠ timeTop ∧ t.toNat ≤ (bufTime e (!e.cur)).toNat) ∨ t = timeTop

/-- The other buffer of a cell is open, or waits to flip. -/
abbrev BusyCell (e : CellEntry) : Prop := e.wopen = true ∨ bufTime e (!e.cur) ≠ timeTop

theorem any_versions {t : Word} : ((versions e).any fun v => decide (t.toNat ≤ v.2.toNat)) = true ↔
    (bufTime e e.cur ≠ timeTop ∧ t.toNat ≤ (bufTime e e.cur).toNat) ∨
      (e.wopen = false ∧ bufTime e (!e.cur) ≠ timeTop ∧ t.toNat ≤ (bufTime e (!e.cur)).toNat) := by
  simp only [List.any_eq_true, mem_versions, decide_eq_true_eq]
  constructor
  · rintro ⟨x, ⟨hc, rfl⟩ | ⟨hw, hn, rfl⟩, hle⟩
    · exact .inl ⟨hc, hle⟩
    · exact .inr ⟨hw, hn, hle⟩
  · rintro (⟨hc, hle⟩ | ⟨hw, hn, hle⟩)
    · exact ⟨_, .inl ⟨hc, rfl⟩, hle⟩
    · exact ⟨_, .inr ⟨hw, hn, rfl⟩, hle⟩

theorem busyCell_iff : (e.wopen || waitsToFlip e) = true ↔ BusyCell e := by
  cases hw : e.wopen <;> simp [waitsToFlip, BusyCell, hw]

/-- The decision of a write by a thread that runs no recalculation, on a core that is not fenced. -/
theorem decideWrite_eq {t : Word} (hf : isFenced s h = false) (ht : r.task = none) : decideWrite s h i e r t =
    if (formulaAt e t).isSome = true then refuseBy 4
    else if PastWrite s h e r t then refuseBy 3
    else if BusyCell e then refuseBy 2
    else if bufPins e (!e.cur) ≠ 0 then .wait
    else .answer 0 (.scalar (cellVa s h e (!e.cur))) (some (!e.cur, bufTime e (!e.cur))) := by
  have hpast : (t.toNat < r.time.toNat || (decide (t = r.time) && decide (cellState s h e ≠ 0)) || decide (t = timeTop) ||
      (versions e).any fun v => decide (t.toNat ≤ v.2.toNat)) = true ↔ PastWrite s h e r t := by
    simp only [Bool.or_eq_true, Bool.and_eq_true, decide_eq_true_eq, any_versions]
    tauto
  rw [decideWrite, if_neg (by rw [hf]; exact Bool.false_ne_true), ht, Option.elim_none, if_neg Bool.false_ne_true]
  simp only [hpast, busyCell_iff]

end

theorem cellReads : Claims.CellReads := by
  intro s r i hc hop
  dsimp only
  intro hv hs hf hr
  have hclose : ∀ t o, r.op ≠ .close t o := by rw [hop]; nofun
  have hd := (OwnOp.mk hc hv hs).crd hop
  refine ⟨fun hp => decides_status hclose hc (hd.trans (decideCrd_full hf hp)), fun hp => ?_⟩
  refine ⟨fun hw => staysHeld_of_wait hclose hc (hd.trans (decideCrd_wait hf hp hr ?_)), fun hfr hst ho y hy hn => ?_⟩
  · obtain hw | hw | hw | hw := hw
    · exact .inl (.inl hw)
    · exact .inl (.inr (.inl hw))
    · exact .inl (.inr (.inr hw))
    · exact .inr (newestAt_none hw)
  · have hgo : ¬ReadWaits s r.id.core (cellAt (coreAt s r.id.core) i) r.time.toNat := by
      rintro (hw | hw | hw)
      · exact Nat.not_lt.mpr hfr hw
      · exact Nat.not_lt.mpr hw hst
      · exact ho hw
    rw [decideCrd_version hf hp hr hgo (newestAt_some hy hn)] at hd
    exact ⟨fun hpin => decides_of_answer hclose hc (hd.trans (if_pos hpin)) fun u hu =>
        cellAt_settled (f := fun e => setPins y (bufPins e y + 1) e) (reserveCell_crd hop) hu,
      fun hpin => staysHeld_of_wait hclose hc (hd.trans (if_neg hpin.not_lt))⟩

theorem cellWrites : Claims.CellWrites := by
  intro s r i t hc
  dsimp only
  intro hop hv hs hf ht
  have h : OwnOp s r i := ⟨hc, hv, hs⟩
  have hclose : ∀ t o, r.op ≠ .close t o := by
    rcases hop with hop | ⟨a, b, hop, -⟩ <;> rw [hop] <;> nofun
  have hd : Machine.decideCell s r = decideWrite s r.id.core i (cellAt (coreAt s r.id.core) i) r t := by
    rcases hop with hop | ⟨a, b, hop, hn⟩
    · exact h.cwr hop
    · rw [h.cset hop, if_neg (by rw [hf]; exact Bool.false_ne_true), if_neg (Nat.not_lt.mpr hn)]
  have hwr : r.op = .cwr t ∨ ∃ a b, r.op = .cset t a b := hop.imp_right fun ⟨a, b, ho, _⟩ => ⟨a, b, ho⟩
  rw [decideWrite_eq hf ht] at hd
  refine ⟨fun hb => decides_status hclose hc (hd.trans (if_pos hb)), fun hb => ?_⟩
  rw [if_neg (by rw [hb]; exact Bool.false_ne_true)] at hd
  refine ⟨fun hp => decides_status hclose hc (hd.trans (if_pos hp)), fun hp hy => ?_, fun hp hy hpin => ?_, fun hp hy hpin => ?_⟩
  · rw [if_neg hp] at hd
    exact decides_status hclose hc (hd.trans (if_pos hy))
  · rw [if_neg hp, if_neg hy] at hd
    exact staysHeld_of_wait hclose hc (hd.trans (if_pos hpin))
  · rw [if_neg hp, if_neg hy, if_neg (not_not.mpr hpin)] at hd
    exact decides_of_answer hclose hc hd fun u hu => cellAt_settled (reserveCell_write hwr) hu

end
end Sys2Proof.Machine

namespace Sys2Proof.Machine
open Sys2Proof

/-! ### CCMT and CREL (R351, R353) -/

section
variable {s u : State} {r : CellReq} {i st c k h : Nat} {e : CellEntry} {y : Bool} {old : Word}

theorem blockAt_modBlock {f : Block → Block} : blockAt (run (modBlock c k f) s) c k = (blockAt s c k).map f := by
  rw [run_modBlock, blockAt, threadAt, slotAt_changed, if_pos rfl, mapThread_thread, blockAt, threadAt]
  cases (slotAt s c k).thread <;> rfl

theorem blockAt_of_current {id : ExecId} (hc : isCurrent s id = true) : ∃ b, blockAt s id.core id.slot = some b := by
  unfold isCurrent at hc
  split at hc
  case h_1 b hb => exact ⟨b, hb⟩
  case h_2 => cases hc

/-- A block that a decided request has changed holds what the change adds to its effects. -/
theorem blockHas_modBlock {id : ExecId} {f : Block → Block} {x : Nat × Eff} (hc : isCurrent s id = true)
    (hu : u.slots = (run (modBlock id.core id.slot f) s).slots) (hf : ∀ b, x ∈ (f b).effs) :
    BlockHas u id.core id.slot fun b => x ∈ b.effs := by
  obtain ⟨b, hb⟩ := blockAt_of_current hc
  refine ⟨f b, ?_, hf b⟩
  rw [blockAt_eq_of_slots hu, blockAt_modBlock, hb]
  rfl

/-- A request decided without a reservation holds its effect for the commit. -/
theorem holds_of_heldEff {x : Eff} (hc : isCurrent s r.id = true) (hx : heldEff r st = some x)
    (hu : u = { settled s r i st none with agenda := u.agenda }) : BlockHas u r.id.core r.id.slot fun b => (r.id.idx, x) ∈ b.effs := by
  refine blockHas_modBlock (f := withEff r.id.idx x) hc ?_ fun b => List.mem_append_right _ (List.mem_singleton_self _)
  rw [congrArg State.slots hu, settled, settleKeeps]
  dsimp only
  rw [hx]

theorem slots_reserveCell : (run (reserveCell r h i y) s).slots = s.slots := by
  unfold reserveCell
  split <;> rfl

theorem isCurrent_eq_of_slots {t : State} {id : ExecId} (h : t.slots = s.slots) : isCurrent t id = isCurrent s id := by
  rw [isCurrent, isCurrent, blockAt_eq_of_slots h]

/-- A request decided with a reservation holds it, and its own effect, for the commit. -/
theorem holds_of_reserved (hc : isCurrent s r.id = true) (hu : u = { settled s r i st (some (y, old)) with agenda := u.agenda }) :
    BlockHas u r.id.core r.id.slot fun b => (r.id.idx, .cell r true) ∈ b.effs := by
  have hcur : isCurrent (run (reserveCell r r.id.core i y) s) r.id = true := (isCurrent_eq_of_slots slots_reserveCell).trans hc
  refine blockHas_modBlock (f := withResv r y old (precsRead s r.id.core r)) hcur ?_
    fun b => List.mem_append_right _ (List.mem_singleton_self _)
  rw [congrArg State.slots hu, settled_reserved]

theorem decideCcmt_foreign {t : Word} (hm : ¬(e.wopen = true ∧ e.writer = some (r.id.core, r.id.slot, r.inc))) :
    decideCcmt e r t = refuseBy 2 := by
  rw [decideCcmt, if_pos]
  simp only [Bool.or_eq_true, Bool.not_eq_true', decide_eq_true_eq]
  by_contra hn
  obtain ⟨hw, hr⟩ := not_or.mp hn
  exact hm ⟨Bool.not_eq_false _ ▸ hw, not_not.mp hr⟩

theorem decideCcmt_mine {t : Word} (hm : e.wopen = true ∧ e.writer = some (r.id.core, r.id.slot, r.inc)) :
    decideCcmt e r t = if bufTime e (!e.cur) ≠ t then refuseBy 3 else .answer 0 .null none := by
  rw [decideCcmt, if_neg]
  simp [hm.1, hm.2]

theorem mem_allResv {b : Block} {x : CellResv} (hb : blockAt s c k = some b) (hx : x ∈ b.resv) :
    ((c * 16 + k) / 16, (c * 16 + k) % 16, x) ∈ allResv s := by
  obtain ⟨th, hth, hblk⟩ := Option.bind_eq_some_iff.mp hb
  have hth' : (mget Slot.reset s.slots (c * 16 + k)).thread = some th := hth
  have hmem := mem_of_mget (d := Slot.reset) (m := s.slots) (k := c * 16 + k) fun hd => by
    rw [hd] at hth'
    cases hth'
  refine List.mem_flatMap.mpr ⟨_, hmem, ?_⟩
  dsimp only
  rw [hth']
  dsimp only
  rw [hblk]
  exact List.mem_map_of_mem hx

theorem resv_eq_nil {b : Block} (hs : allResv s = []) (hb : blockAt s c k = some b) : b.resv = [] :=
  List.eq_nil_iff_forall_not_mem.mpr fun x hx => by
    have hm := mem_allResv hb hx
    rw [hs] at hm
    cases hm

/-- The decision of CREL for the buffer that its address names, if it names one. -/
def decideCrelOf (s : State) (h i : Nat) (e : CellEntry) (r : CellReq) : Option Bool → Decided
  | none => .answer 0 .null none
  | some y =>
    let held := ((allResv s).filter fun x => resvOn isCrel h i x.2.2 && decide (x.2.2.buffer = y)).length
    let mine := (blockAt s r.id.core r.id.slot).elim [] (·.resv)
    let pins := (threadAt s r.id.core r.id.slot).elim 0 (·.pins)
    let units := pins + (mine.filter fun x => isCrd x.req.op).length - (mine.filter fun x => isCrel x.req.op).length
    if held < bufPins e y ∧ 0 < units then .answer 0 .null (some (y, 0)) else .answer 0 .null none

/-- The definition is unfolded as a function: applied, the kernel would evaluate the buffers' addresses. -/
theorem decideCrel_of_find {a : Word} {o : Option Bool} (ho : ([false, true].find? fun y => decide (cellVa s h e y = a)) = o) :
    decideCrel s h i e r a = decideCrelOf s h i e r o := by
  generalize hF : decideCrel = F
  delta decideCrel at hF
  subst hF
  beta_reduce
  rw [ho]
  cases o <;> rfl

theorem decideCrel_neither {a : Word} (ha : ∀ y, cellVa s h e y ≠ a) : decideCrel s h i e r a = .answer 0 .null none :=
  decideCrel_of_find (o := none) (by simp [ha])

/-- CREL of the address of one buffer, while nothing is reserved. -/
theorem decideCrel_buffer {a : Word} {th : Thread} (hs : allResv s = []) (hth : threadAt s r.id.core r.id.slot = some th)
    (hy : cellVa s h e y = a) (hn : cellVa s h e (!y) ≠ a) :
    decideCrel s h i e r a = if 0 < bufPins e y ∧ 0 < th.pins then .answer 0 .null (some (y, 0)) else .answer 0 .null none := by
  have hfind : ([false, true].find? fun y => decide (cellVa s h e y = a)) = some y := by
    cases y
    · simp [hy]
    · rw [Bool.not_true] at hn
      simp [hy, hn]
  have hmine : (blockAt s r.id.core r.id.slot).elim [] (·.resv) = [] := by
    cases hb : blockAt s r.id.core r.id.slot with
    | none => rfl
    | some b => exact resv_eq_nil hs hb
  rw [decideCrel_of_find hfind, decideCrelOf, hmine, hs, hth]
  rfl

theorem cellReleases : Claims.CellReleases := by
  intro s r i hc
  dsimp only
  intro hv hs
  have h : OwnOp s r i := ⟨hc, hv, hs⟩
  refine ⟨fun t hop => ?_, fun a hop hr => ?_⟩
  · have hclose : ∀ t o, r.op ≠ .close t o := by rw [hop]; nofun
    have hd := h.ccmt hop
    refine ⟨fun hm => decides_status hclose hc (hd.trans (decideCcmt_foreign hm)), fun hm ht => ?_, fun hm ht => ?_⟩
    · exact decides_status hclose hc (hd.trans ((decideCcmt_mine hm).trans (if_pos ht)))
    · refine decides_of_answer hclose hc (hd.trans ((decideCcmt_mine hm).trans (if_neg (not_not.mpr ht)))) fun u hu => ?_
      exact holds_of_heldEff hc.current (heldEff_ccmt hop) hu
  · have hclose : ∀ t o, r.op ≠ .close t o := by rw [hop]; nofun
    have hd := h.crel hop
    have herr : decideCell s r = .answer 0 .null none →
        Decides s r 0 .null fun u => BlockHas u r.id.core r.id.slot fun b => (r.id.idx, .pinErr) ∈ b.effs := fun hd =>
      decides_of_answer hclose hc hd fun u hu => holds_of_heldEff hc.current (heldEff_crel hop) hu
    refine ⟨fun ha => herr (hd.trans (decideCrel_neither ha)), fun y th hy hn hth => ?_⟩
    rw [decideCrel_buffer hr hth hy hn] at hd
    refine ⟨fun hb ht => ?_, fun hp => herr (hd.trans (if_neg (by omega)))⟩
    exact decides_of_answer hclose hc (hd.trans (if_pos (by omega))) fun u hu => holds_of_reserved hc.current hu

end
end Sys2Proof.Machine

namespace Sys2Proof.Machine
open Sys2Proof

/-! ### CBIND and CUNB (R40, R355) -/

/-- Both binding entries of a cell are valid. -/
abbrev BothBound (e : CellEntry) : Prop := e.bva = true ∧ e.bvb = true

/-- The later of the from-times of a cell with two bindings. -/
abbrev newerFrom (e : CellEntry) : Nat := max e.fromA.toNat e.fromB.toNat

/-- A binding from t comes too late (R40). -/
abbrev PastBind (s : State) (h : Nat) (e : CellEntry) (r : CellReq) (t : Word) : Prop :=
  t.toNat < r.time.toNat ∨ (t = r.time ∧ cellState s h e ≠ 0) ∨ (e.bva = true ∧ t.toNat ≤ e.fromA.toNat) ∨
    (e.bvb = true ∧ t.toNat ≤ e.fromB.toNat)

/-- The decision of a binding against which nothing stands: with two valid entries BUSY, or to wait for the older one to retire. -/
def installDecision (e : CellEntry) (r : CellReq) : Decided :=
  if BothBound e then (if r.time.toNat < newerFrom e then refuseBy 2 else .wait) else .answer 0 .null (some (false, 0))

section
variable {s : State} {r : CellReq} {i h n : Nat} {e : CellEntry} {t : Word}

theorem any_bindings {p : Bool × Word × Nat → Bool} : (bindings e).any p = true ↔
    (e.bva = true ∧ p (false, e.fromA, e.brecA.toNat) = true) ∨ (e.bvb = true ∧ p (true, e.fromB, e.brecB.toNat) = true) := by
  cases ha : e.bva <;> cases hb : e.bvb <;> simp [bindings, ha, hb]

theorem bindings_of_both (hb : BothBound e) : bindings e = [(false, e.fromA, e.brecA.toNat), (true, e.fromB, e.brecB.toNat)] := by
  simp [bindings, hb.1, hb.2]

theorem length_bindings_le (hb : ¬BothBound e) : (bindings e).length ≤ 1 := by
  cases ha : e.bva
  · cases hb : e.bvb <;> simp [bindings, ha, hb]
  · simp [bindings, ha, Bool.eq_false_iff.mpr fun h => hb ⟨ha, h⟩]

theorem pastBind_iff : (t.toNat < r.time.toNat || (decide (t = r.time) && decide (cellState s h e ≠ 0)) ||
    (bindings e).any fun b => decide (t.toNat ≤ b.2.1.toNat)) = true ↔ PastBind s h e r t := by
  simp only [Bool.or_eq_true, Bool.and_eq_true, decide_eq_true_eq, any_bindings, or_assoc]

theorem length_unreserved {p : CellOp → Bool} (hr : ∀ x ∈ allResv s, resvOn p h i x.2.2 = false) :
    ((allResv s).filter fun x => resvOn p h i x.2.2).length = 0 := by
  rw [List.filter_eq_nil_iff.mpr fun x hx => by rw [hr x hx]; exact Bool.false_ne_true]
  rfl

section
variable {o : Option Nat}

theorem decideBind_full (ho : 0x12_7000 ≤ 64 * n) : decideBind s h i e r (some n) t = refuseBy 7 := by
  rw [decideBind, Option.elim_some, if_pos (decide_eq_true ho)]

variable (ho : ∀ n ∈ o, 64 * n < 0x12_7000)
include ho

theorem recordFits : (o.elim false fun n => decide (0x12_7000 ≤ 64 * n)) = false := by
  cases o with
  | none => rfl
  | some n => exact decide_eq_false (Nat.not_le.mpr (ho n rfl))

theorem decideBind_past (hp : PastBind s h e r t) : decideBind s h i e r o t = refuseBy 3 := by
  rw [decideBind, recordFits ho, if_neg Bool.false_ne_true, if_pos (pastBind_iff.mpr hp)]

variable (hp : ¬PastBind s h e r t)
include hp

theorem decideBind_refused (hn : precedentStatus s h i e r o t = n) (h0 : n ≠ 0) : decideBind s h i e r o t = refuseBy n := by
  rw [decideBind, recordFits ho, if_neg Bool.false_ne_true, if_neg fun hx => hp (pastBind_iff.mp hx), hn]
  cases n with
  | zero => exact absurd rfl h0
  | succ n => rfl

theorem decideBind_install (hr : ∀ x ∈ allResv s, resvOn isBind h i x.2.2 = false) (hn : precedentStatus s h i e r o t = 0) :
    decideBind s h i e r o t = installDecision e r := by
  rw [decideBind, recordFits ho, if_neg Bool.false_ne_true, if_neg fun hx => hp (pastBind_iff.mp hx), hn, installDecision,
    length_unreserved hr]
  by_cases hb : BothBound e
  · rw [if_pos hb, bindings_of_both hb]
    simp [newerFrom]
  · have hl := length_bindings_le hb
    rw [if_neg hb, if_neg (by omega), if_neg (by omega)]
    rfl

end

/-! ### What stands against a binding in its precedents (R40) -/

/-- A precedent is no cell of the directory. -/
abbrev MissingPrec (s : State) (f : FormulaRec) : Prop := ∃ p ∈ f.precs, cellById s p.1 = none

/-- A precedent belongs to another sheaf. -/
abbrev ForeignPrec (s : State) (r : CellReq) (f : FormulaRec) : Prop :=
  ∃ p ∈ f.precs, ∃ g j x, cellById s p.1 = some (g, j, x) ∧ r.sheaf ≠ some x.sheaf.toNat

/-- There are too many precedents, or the list of one of them has no room. -/
abbrev CrowdedPrec (s : State) (h i : Nat) (f : FormulaRec) : Prop :=
  8 < f.nprec ∨ ∃ p ∈ f.precs, ∃ g j x, cellById s p.1 = some (g, j, x) ∧
    edgesFit s g j x (edgesTo p.1 (cellId h i) f.precs) = false

/-- The precedents over zero-advance edges, where the walk begins. -/
def zeroStarts (s : State) (e : CellEntry) (f : FormulaRec) : List Nat :=
  (f.precs.filter fun p => zeroAdvance (pathsOf s e) p.2).map (·.1)

section
variable {f : FormulaRec}

theorem missingPrec_iff : (f.precs.any fun p => (cellById s p.1).isNone) = true ↔ MissingPrec s f := by
  simp only [List.any_eq_true, Option.isNone_iff_eq_none]

theorem foreignPrec_iff (hm : ¬MissingPrec s f) : (f.precs.any fun p =>
    (cellById s p.1).elim true fun x => decide (some x.2.2.sheaf.toNat ≠ r.sheaf)) = true ↔ ForeignPrec s r f := by
  rw [List.any_eq_true]
  refine exists_congr fun p => and_congr_right fun hp => ?_
  cases hc : cellById s p.1 with
  | none => exact absurd ⟨p, hp, hc⟩ hm
  | some x =>
    obtain ⟨g, j, x⟩ := x
    simp [ne_comm]

theorem crowdedPrec_iff : (decide (8 < f.nprec) || f.precs.any fun p => (cellById s p.1).elim false fun x =>
    !edgesFit s x.1 x.2.1 x.2.2 (edgesTo p.1 (cellId h i) f.precs)) = true ↔ CrowdedPrec s h i f := by
  rw [Bool.or_eq_true, decide_eq_true_eq, List.any_eq_true]
  refine or_congr_right (exists_congr fun p => and_congr_right fun _ => ?_)
  cases hc : cellById s p.1 with
  | none => simp
  | some x =>
    obtain ⟨g, j, x⟩ := x
    simp

end

theorem precedentStatus_missing (hm : MissingPrec s (formulaRec s h n)) : precedentStatus s h i e r (some n) t = 9 := by
  rw [precedentStatus]
  exact if_pos (missingPrec_iff.mpr hm)

section
variable (hm : ¬MissingPrec s (formulaRec s h n))
include hm

theorem precedentStatus_foreign (hf : ForeignPrec s r (formulaRec s h n)) : precedentStatus s h i e r (some n) t = 6 := by
  rw [precedentStatus]
  dsimp only
  rw [if_neg fun hx => hm (missingPrec_iff.mp hx), if_pos ((foreignPrec_iff hm).mpr hf)]

variable (hf : ¬ForeignPrec s r (formulaRec s h n))
include hf

theorem precedentStatus_crowded (hw : CrowdedPrec s h i (formulaRec s h n)) : precedentStatus s h i e r (some n) t = 7 := by
  rw [precedentStatus]
  dsimp only
  rw [if_neg fun hx => hm (missingPrec_iff.mp hx), if_neg fun hx => hf ((foreignPrec_iff hm).mp hx), if_pos (crowdedPrec_iff.mpr hw)]

theorem precedentStatus_walk (hw : ¬CrowdedPrec s h i (formulaRec s h n)) :
    precedentStatus s h i e r (some n) t = zeroWalk s (cellId h i) t 20000 (zeroStarts s e (formulaRec s h n)) [] := by
  rw [precedentStatus]
  dsimp only
  rw [if_neg fun hx => hm (missingPrec_iff.mp hx), if_neg fun hx => hf ((foreignPrec_iff hm).mp hx),
    if_neg fun hx => hw (crowdedPrec_iff.mp hx)]
  rfl

end

theorem zeroWalk_goal {goal fuel : Nat} {rest seen : List Nat} (hfuel : fuel ≠ 0) :
    zeroWalk s goal t fuel (goal :: rest) seen = 1 := by
  obtain ⟨fuel, rfl⟩ := Nat.exists_eq_succ_of_ne_zero hfuel
  rw [zeroWalk, if_pos rfl]

theorem zeroWalk_nil {goal fuel : Nat} {seen : List Nat} (hfuel : fuel ≠ 0) : zeroWalk s goal t fuel [] seen = 0 := by
  obtain ⟨fuel, rfl⟩ := Nat.exists_eq_succ_of_ne_zero hfuel
  rw [zeroWalk]

/-! ### The decisions of CBIND and CUNB -/

/-- The three outcomes of a binding against which nothing stands. -/
theorem installs_of_decided (hop : ∀ t o, r.op ≠ .close t o) (hc : OwnCell s r i) (hd : decideCell s r = installDecision e r) :
    (¬BothBound e → Decides s r 0 .null fun _ => True) ∧
      (BothBound e → r.time.toNat < newerFrom e → Decides s r 2 .null fun _ => True) ∧
      (BothBound e → newerFrom e ≤ r.time.toNat → StaysHeld s r) := by
  rw [installDecision] at hd
  refine ⟨fun hb => decides_status hop hc (hd.trans (if_neg hb)), fun hb hn => ?_, fun hb hn => ?_⟩
  · rw [if_pos hb, if_pos hn] at hd
    exact decides_status hop hc hd
  · rw [if_pos hb, if_neg (Nat.not_lt.mpr hn)] at hd
    exact staysHeld_of_wait hop hc hd

theorem zeroStarts_self {f : FormulaRec} {c z : Nat} (hp : f.precs = [(c, z)]) (hz : zeroAdvance (pathsOf s e) z = true) :
    zeroStarts s e f = [c] := by
  simp [zeroStarts, hp, hz]

theorem zeroStarts_nil {f : FormulaRec} (hz : ∀ p ∈ f.precs, zeroAdvance (pathsOf s e) p.2 = false) : zeroStarts s e f = [] := by
  rw [zeroStarts, List.filter_eq_nil_iff.mpr fun p hp => by rw [hz p hp]; exact Bool.false_ne_true]
  rfl

theorem cellBindings : Claims.CellBindings := by
  intro s r i t hc
  dsimp only
  intro hv hs hr
  have h : OwnOp s r i := ⟨hc, hv, hs⟩
  refine ⟨fun hop => ?_, fun off hop => ?_⟩
  · have hclose : ∀ t o, r.op ≠ .close t o := by rw [hop]; nofun
    have hd := h.cunb hop
    have hfits : ∀ n ∈ (none : Option Nat), 64 * n < 0x12_7000 := nofun
    exact ⟨fun hp => decides_status hclose hc (hd.trans (decideBind_past hfits hp)),
      fun hp => installs_of_decided hclose hc (hd.trans (decideBind_install hfits hp hr rfl))⟩
  · have hclose : ∀ t o, r.op ≠ .close t o := by rw [hop]; nofun
    have hd := h.cbind hop
    generalize off / 64 = n at hd ⊢
    refine ⟨fun hn => decides_status hclose hc (hd.trans (decideBind_full hn)), fun hn hp => ?_, fun hn hp => ?_⟩
    all_goals have hfits : ∀ m ∈ some n, 64 * m < 0x12_7000 := fun m hm => Option.mem_some.mp hm ▸ hn
    · exact decides_status hclose hc (hd.trans (decideBind_past hfits hp))
    have hrefuse {m : Nat} (hm : precedentStatus s r.id.core i (cellAt (coreAt s r.id.core) i) r (some n) t = m) (h0 : m ≠ 0) :
        Decides s r m .null fun _ => True := decides_status hclose hc (hd.trans (decideBind_refused hfits hp hm h0))
    refine ⟨fun hm => hrefuse (precedentStatus_missing hm) (by decide), fun hfound => ?_⟩
    have hm : ¬MissingPrec s (formulaRec s r.id.core n) := fun ⟨p, hp, hnone⟩ => by
      obtain ⟨g, j, x, hx⟩ := hfound p hp
      rw [hnone] at hx
      cases hx
    refine ⟨fun hf => hrefuse (precedentStatus_foreign hm hf) (by decide), fun hown => ?_⟩
    have hf : ¬ForeignPrec s r (formulaRec s r.id.core n) := fun ⟨p, hp, g, j, x, hx, hne⟩ => hne (hown p hp g j x hx)
    refine ⟨fun hw => hrefuse (precedentStatus_crowded hm hf hw) (by decide), fun hw ⟨z, hz, hadv⟩ => ?_, fun hw hz => ?_⟩
    · refine hrefuse ((precedentStatus_walk hm hf hw).trans ?_) (by decide)
      rw [zeroStarts_self hz hadv, zeroWalk_goal (by decide)]
    · refine installs_of_decided hclose hc (hd.trans (decideBind_install hfits hp hr ?_))
      rw [precedentStatus_walk hm hf hw, zeroStarts_nil hz, zeroWalk_nil (by decide)]

end

/-- Settles O53: the decisions of each cell instruction at the issuing core, what a mark does at its cell's home, and the installation
and removal of cells. -/
theorem cellEvents : Obligations.CellEvents :=
  ⟨cellDecisions, cellRefusals, cellReads, cellWrites, cellReleases, cellBindings, markQueuesTask, cellMarks⟩

end Sys2Proof.Machine

namespace Sys2Proof.Machine
open Sys2Proof

/-! ### Instructions of operand tokens -/

/-- An instruction of two scalars that fires with its predicate holding delivers its result. -/
theorem scalar2_fires {s : State} {f : Fire} {p : Pred} {a b : Word} (h : Fires2 s f p a b) (ta tb : Nat)
    (k : Word → Word → Word × NumFlags) :
    scalar2 p ta tb s k = .next (complete s f ta tb (.scalar (k a b).1) (.scalar (k a b).1) (k a b).2 []) := by
  obtain ⟨⟨⟨hf, hp⟩, ha⟩, hb⟩ := h
  simp [scalar2, fire_some _ hf, hp, ha, hb]

/-! ### Integers as their TYPE reads them (R180) -/

theorem sintOf_eq_bmod {w : Nat} (hw : 0 < w) (x : Nat) : sintOf w x = Int.bmod x (2 ^ w) := by
  obtain ⟨n, rfl⟩ := Nat.exists_eq_succ_of_ne_zero hw.ne'
  have hp : 2 ^ (n + 1) = 2 * 2 ^ n := by rw [Nat.pow_succ, Nat.mul_comm]
  simp only [sintOf, Int.bmod, Nat.succ_eq_add_one, Nat.add_sub_cancel, ← Int.natCast_mod, hp]
  split <;> split <;> omega

theorem intWidth_cases (ty : IntType) : intWidth ty = 64 ∨ intWidth ty = 32 ∨ intWidth ty = 16 ∨ intWidth ty = 8 := by
  cases ty <;> decide

theorem intWidth_pos (ty : IntType) : 0 < intWidth ty := by
  rcases intWidth_cases ty with h | h | h | h <;> omega

theorem intWidth_le (ty : IntType) : intWidth ty ≤ 64 := by
  rcases intWidth_cases ty with h | h | h | h <;> omega

theorem intOperand_eq_readAs (ty : IntType) (a : Word) : intOperand ty a = readAs ty a := by
  simp only [intOperand, readAs, sintOf_eq_bmod (intWidth_pos ty)]

/-- The extension of the low bits of a result stands for the number that they stand for. -/
theorem intExtend_value (ty : IntType) (x : Int) :
    (if intSigned ty then (intExtend ty x).toInt else ((intExtend ty x).toNat : Int)) = keptAs ty x := by
  simp only [intExtend, keptAs]
  split
  · rw [BitVec.toInt_signExtend_of_le (intWidth_le ty), BitVec.toInt_ofInt]
  · have hlt : (x % ((2 ^ intWidth ty : Nat) : Int)).toNat < 2 ^ 64 := by
      rcases intWidth_cases ty with h | h | h | h <;> rw [h] <;> omega
    rw [BitVec.toNat_setWidth, BitVec.toNat_ofInt, Nat.mod_eq_of_lt hlt, Int.toNat_of_nonneg]
    exact Int.emod_nonneg _ (by simp)

/-- An integer instruction under wrapping gives the number that the low bits of its exact result stand for. -/
theorem givesInt_of_intOp {s : State} {f : Fire} {p : Pred} {a b : Word} (h : Fires2 s f p a b) {i : Instr} {ty : IntType}
    {tb ta : Target} {k : Int → Int → Int} (hi : exec i s = intOp p ty .wrap tb ta s k) :
    GivesInt i s f ty ta.toNat tb.toNat (keptAs ty (k (readAs ty a) (readAs ty b))) noFlags := by
  refine ⟨intExtend ty (k (readAs ty a) (readAs ty b)), ?_, intExtend_value ty _⟩
  rw [Results, hi, intOp, scalar2_fires h]
  simp [intResult, intOperand_eq_readAs, t9]

/-- The limits of a TYPE, with H half the number of its values. -/
theorem limits_of_half (ty : IntType) : ∃ H : Nat, 0 < H ∧ 2 ^ intWidth ty = 2 * H ∧
    leastInt ty = (if intSigned ty then -(H : Int) else 0) ∧
    greatestInt ty = if intSigned ty then (H : Int) - 1 else 2 * (H : Int) - 1 := by
  obtain ⟨n, hn⟩ := Nat.exists_eq_succ_of_ne_zero (intWidth_pos ty).ne'
  refine ⟨2 ^ n, Nat.two_pow_pos n, ?_, ?_, ?_⟩
  · rw [hn, Nat.pow_succ, Nat.mul_comm]
  · simp [leastInt, hn]
  · simp [greatestInt, hn, Int.pow_succ, Int.mul_comm]

theorem readAs_bounds (ty : IntType) (a : Word) : leastInt ty ≤ readAs ty a ∧ readAs ty a ≤ greatestInt ty := by
  obtain ⟨H, hH, hw, hl, hg⟩ := limits_of_half ty
  have hpos : 0 < 2 * H := by omega
  rw [hl, hg, readAs, hw]
  split
  · have h1 := Int.le_bmod (x := a.toNat) hpos
    have h2 := Int.bmod_lt (x := a.toNat) hpos
    omega
  · have h := Nat.mod_lt a.toNat hpos
    omega

/-- A number within the limits of its TYPE is kept. -/
theorem keptAs_of_bounds {ty : IntType} {x : Int} (h1 : leastInt ty ≤ x) (h2 : x ≤ greatestInt ty) : keptAs ty x = x := by
  obtain ⟨H, hH, hw, hl, hg⟩ := limits_of_half ty
  rw [hl] at h1
  rw [hg] at h2
  rw [keptAs, hw]
  split
  · rename_i hs
    rw [if_pos hs] at h1 h2
    exact Int.bmod_eq_of_le (by omega) (by omega)
  · rename_i hs
    rw [if_neg hs] at h1 h2
    exact Int.emod_eq_of_lt h1 (by omega)

theorem keptAs_neg_one (ty : IntType) : keptAs ty (-1) = if intSigned ty then -1 else greatestInt ty := by
  obtain ⟨H, hH, hw, -, hg⟩ := limits_of_half ty
  rw [keptAs, hw, hg]
  split
  · exact Int.bmod_eq_of_le (by omega) (by omega)
  · have e : (-1 : Int) = 2 * H - 1 + (2 * H : Nat) * -1 := by omega
    rw [e, Int.add_mul_emod_self_left, Int.emod_eq_of_lt (by omega) (by omega)]

/-- The negation of the least number of a signed TYPE is kept as that number. -/
theorem keptAs_neg_least {ty : IntType} (hs : intSigned ty = true) : keptAs ty (-leastInt ty) = leastInt ty := by
  obtain ⟨H, hH, hw, hl, -⟩ := limits_of_half ty
  rw [keptAs, hl, hw, if_pos hs, if_pos hs, Int.neg_neg, Int.bmod, Int.emod_eq_of_lt (by omega) (by omega), if_neg (by omega)]
  omega

/-! ### Division (R52) -/

theorem intQuotient_bounds {ty : IntType} {x y : Int} (hx : leastInt ty ≤ x ∧ x ≤ greatestInt ty)
    (hy : leastInt ty ≤ y ∧ y ≤ greatestInt ty) (h0 : y ≠ 0) (hsp : ¬(intSigned ty = true ∧ x = leastInt ty ∧ y = -1)) :
    leastInt ty ≤ x.tdiv y ∧ x.tdiv y ≤ greatestInt ty := by
  obtain ⟨H, hH, -, hl, hg⟩ := limits_of_half ty
  have habs : (x.tdiv y).natAbs = x.natAbs / y.natAbs := Int.natAbs_tdiv ..
  rw [hl] at hx hy hsp ⊢
  rw [hg] at hx hy ⊢
  by_cases hs : intSigned ty = true
  · simp only [hs, if_true, true_and] at *
    rcases Nat.lt_or_ge 1 y.natAbs with hy2 | hy2
    · have : x.natAbs / y.natAbs ≤ x.natAbs / 2 := Nat.div_le_div_left hy2 (by decide)
      omega
    · obtain rfl | rfl : y = 1 ∨ y = -1 := by omega
      · simpa using hx
      · simp only [Int.tdiv_neg, Int.tdiv_one]
        omega
  · simp only [hs, Bool.false_eq_true, if_false] at *
    have hle : x.natAbs / y.natAbs ≤ x.natAbs := Nat.div_le_self ..
    have hpos : 0 ≤ x.tdiv y := Int.tdiv_nonneg hx.1 hy.1
    omega

theorem intRemainder_bounds {ty : IntType} {x y : Int} (hx : leastInt ty ≤ x ∧ x ≤ greatestInt ty) :
    leastInt ty ≤ x.tmod y ∧ x.tmod y ≤ greatestInt ty := by
  obtain ⟨H, hH, -, hl, hg⟩ := limits_of_half ty
  have habs : (x.tmod y).natAbs ≤ x.natAbs := by
    rw [Int.natAbs_tmod]
    exact Nat.mod_le ..
  have hpos : 0 ≤ x → 0 ≤ x.tmod y := fun h => Int.tmod_nonneg y h
  have hneg : x ≤ 0 → x.tmod y ≤ 0 := fun h => by
    have := Int.tmod_nonneg y (Int.neg_nonneg.mpr h)
    rw [Int.neg_tmod] at this
    omega
  rw [hl, hg] at hx ⊢
  split at hx <;> rename_i hs <;> simp only [hs, if_true, Bool.false_eq_true, if_false] <;> omega

theorem keptAs_intQuotient (ty : IntType) (a b : Word) :
    keptAs ty (intQuotient (readAs ty a) (readAs ty b)) =
      if readAs ty b = 0 then (if intSigned ty then -1 else greatestInt ty)
      else if intSigned ty = true ∧ readAs ty a = leastInt ty ∧ readAs ty b = -1 then leastInt ty
      else (readAs ty a).tdiv (readAs ty b) := by
  rw [intQuotient]
  split
  case isTrue h0 => exact keptAs_neg_one ty
  case isFalse h0 =>
    split
    case isTrue hsp =>
      obtain ⟨hs, hx, hy⟩ := hsp
      rw [hx, hy, Int.tdiv_neg, Int.tdiv_one, keptAs_neg_least hs]
    case isFalse hsp =>
      obtain ⟨h1, h2⟩ := intQuotient_bounds (readAs_bounds ty a) (readAs_bounds ty b) h0 hsp
      exact keptAs_of_bounds h1 h2

theorem keptAs_intRemainder (ty : IntType) (a b : Word) :
    keptAs ty (intRemainder (readAs ty a) (readAs ty b)) =
      if readAs ty b = 0 then readAs ty a
      else if intSigned ty = true ∧ readAs ty a = leastInt ty ∧ readAs ty b = -1 then 0
      else (readAs ty a).tmod (readAs ty b) := by
  have hx := readAs_bounds ty a
  rw [intRemainder]
  split
  case isTrue h0 => exact keptAs_of_bounds hx.1 hx.2
  case isFalse h0 =>
    obtain ⟨h1, h2⟩ := intRemainder_bounds (y := readAs ty b) hx
    rw [keptAs_of_bounds h1 h2]
    split
    case isTrue hsp => rw [hsp.2.2, Int.tmod_neg, Int.tmod_one]
    case isFalse hsp => rfl

/-- Settles O11: the exact quotient and remainder lie within the limits of the TYPE except the two cases that R52 names. -/
theorem divRemResults : Obligations.DivRemResults := by
  intro s f p ty tb ta a b h
  dsimp only
  rw [← keptAs_intQuotient, ← keptAs_intRemainder]
  exact ⟨givesInt_of_intOp h rfl, givesInt_of_intOp h rfl⟩

end Sys2Proof.Machine

namespace Sys2Proof.Machine
open Sys2Proof

/-! ### Elements of vector tokens (R186, R187) -/

section
variable {w k : Nat}

theorem packElems_cons (e : Option Nat) (es : List (Option Nat)) :
    packElems w k (e :: es) = (((packElems w k es).1) * 2 ^ w + e.getD 0 % 2 ^ w,
      (packElems w k es).2 * 2 ^ k + if e.isSome then 2 ^ k - 1 else 0) := by
  cases e <;> simp [packElems]

theorem packElems_lt (es : List (Option Nat)) :
    (packElems w k es).1 < 2 ^ (w * es.length) ∧ (packElems w k es).2 < 2 ^ (k * es.length) := by
  induction es with
  | nil => simp [packElems]
  | cons e es ih =>
    obtain ⟨hd, hl⟩ := ih
    have mix (a b n m : Nat) (ha : a < 2 ^ n) (hb : b < 2 ^ m) : a * 2 ^ m + b < 2 ^ (n + m) := by
      have := Nat.mul_le_mul_right (2 ^ m) (Nat.succ_le_of_lt ha)
      rw [Nat.succ_mul] at this
      rw [Nat.pow_add]
      omega
    have hk : (if e.isSome then 2 ^ k - 1 else 0) < 2 ^ k := by
      have := Nat.two_pow_pos k
      split <;> omega
    simp only [packElems_cons, List.length_cons, Nat.mul_add, Nat.mul_one]
    exact ⟨mix _ _ _ _ hd (Nat.mod_lt _ (Nat.two_pow_pos w)), mix _ _ _ _ hl hk⟩

/-- Element j of packed data. -/
theorem packElems_data (es : List (Option Nat)) (j : Nat) :
    (packElems w k es).1 / 2 ^ (w * j) % 2 ^ w = (es.getD j none).getD 0 % 2 ^ w := by
  induction es generalizing j with
  | nil => simp [packElems]
  | cons e es ih =>
    rw [packElems_cons]
    cases j with
    | zero => simp
    | succ j =>
      have hp := Nat.two_pow_pos w
      rw [Nat.mul_succ, Nat.add_comm (w * j), Nat.pow_add, ← Nat.div_div_eq_div_mul, Nat.add_comm (_ * _),
        Nat.add_mul_div_right _ _ hp, Nat.div_eq_of_lt (Nat.mod_lt _ hp), Nat.zero_add, ih]
      simp

/-- The live bits of element j of packed data. -/
theorem packElems_live (es : List (Option Nat)) (j : Nat) {b : Nat} (hb : b < k) :
    (packElems w k es).2.testBit (k * j + b) = (es.getD j none).isSome := by
  induction es generalizing j with
  | nil => simp [packElems]
  | cons e es ih =>
    rw [packElems_cons]
    have hlt : (if e.isSome then 2 ^ k - 1 else 0) < 2 ^ k := by
      have := Nat.two_pow_pos k
      split <;> omega
    rw [Nat.mul_comm (packElems w k es).2, Nat.testBit_two_pow_mul_add _ hlt]
    cases j with
    | zero =>
      rw [Nat.mul_zero, Nat.zero_add, if_pos hb]
      split <;> simp_all
    | succ j =>
      rw [if_neg (by rw [Nat.mul_succ]; omega), Nat.mul_succ, show k * j + k + b - k = k * j + b by omega, ih]
      simp

end

theorem toNat_packElems {w k : Nat} {es : List (Option Nat)} (h : w * es.length = 1024) :
    (BitVec.ofNat 1024 (packElems w k es).1).toNat = (packElems w k es).1 := by
  have hd := (packElems_lt (w := w) (k := k) es).1
  rw [h] at hd
  exact (BitVec.toNat_ofNat ..).trans (Nat.mod_eq_of_lt hd)

/-- The elements of a token made from data and live bits. -/
theorem elemOf_tokVec (half : Bool) (d : Vec) (l : Word) (j : Nat) :
    elemOf half (tokVec d l) j = if half then liveHalf (d, l) j else liveLane (d, l) j := by
  unfold tokVec
  split
  case isFalse => rfl
  case isTrue h => cases half <;> simp [elemOf, asVec, liveHalf, liveLane, laneLive, h]

theorem elemOf_ofLanes {es : List (Option Nat)} (h : es.length = 32) (j : Nat) :
    elemOf false (ofLanes es) j = (es.getD j none).map (· % 2 ^ 32) := by
  rw [ofLanes, elemOf_tokVec]
  simp only [Bool.false_eq_true, if_false, liveLane, laneLive, laneOf, BitVec.getLsbD_ofNat, toNat_packElems (show 32 * es.length = 1024 by omega)]
  rw [packElems_data]
  by_cases hj : j < 32
  · have h0 := packElems_live (w := 32) es j (b := 0) (k := 2) (by decide)
    have h1 := packElems_live (w := 32) es j (b := 1) (k := 2) (by decide)
    rw [h1, ← Nat.add_zero (2 * j), h0, decide_eq_true (by omega), decide_eq_true (by omega)]
    cases es.getD j none <;> simp
  · rw [decide_eq_false (by omega), List.getD_eq_default _ _ (by omega)]
    simp

theorem elemOf_ofHalves {es : List (Option Nat)} (h : es.length = 64) (j : Nat) :
    elemOf true (ofHalves es) j = (es.getD j none).map (· % 2 ^ 16) := by
  rw [ofHalves, elemOf_tokVec]
  simp only [if_true, liveHalf, halfOf, BitVec.getLsbD_ofNat, toNat_packElems (show 16 * es.length = 1024 by omega)]
  rw [packElems_data]
  by_cases hj : j < 64
  · have h0 := packElems_live (w := 16) es j (b := 0) (k := 1) (by decide)
    rw [Nat.one_mul, Nat.add_zero] at h0
    rw [h0, decide_eq_true hj]
    cases es.getD j none <;> simp
  · rw [decide_eq_false hj, List.getD_eq_default _ _ (by omega)]
    simp

theorem elemOf_lt {half : Bool} {t : Token} {j x : Nat} (h : elemOf half t j = some x) : x < 2 ^ elemWidth half := by
  cases half
  all_goals
    simp only [elemOf, liveLane, liveHalf, laneOf, halfOf, Bool.false_eq_true, if_false, if_true, Option.ite_none_right_eq_some,
      Option.some.injEq] at h
    rw [← h.2]
    exact Nat.mod_lt _ (by decide)

/-- A token has no elements beyond its last one. -/
theorem elemOf_of_count_le {half : Bool} {t : Token} {j : Nat} (h : elemCount half ≤ j) : elemOf half t j = none := by
  cases half
  · have h32 : 32 ≤ j := h
    simp [elemOf, liveLane, laneLive, BitVec.getLsbD_of_ge _ _ (show 64 ≤ 2 * j by omega)]
  · simp [elemOf, liveHalf, BitVec.getLsbD_of_ge _ _ (show 64 ≤ j from h)]

/-- A half is the lower or the upper half of its lane. -/
theorem halfOf_eq_lane (d : Vec) (j : Nat) : halfOf d j = laneOf d (j / 2) / 65536 ^ (j % 2) % 65536 := by
  have hj : 16 * j = 32 * (j / 2) + 16 * (j % 2) := by omega
  rw [halfOf, laneOf, hj, Nat.pow_add, ← Nat.div_div_eq_div_mul]
  rcases Nat.mod_two_eq_zero_or_one j with h | h <;> rw [h] <;> omega

/-- The halves of a token made of lanes. -/
theorem elemOf_half_ofLanes {es : List (Option Nat)} (h : es.length = 32) (j : Nat) :
    elemOf true (ofLanes es) j = (es.getD (j / 2) none).map fun x => x / 65536 ^ (j % 2) % 65536 := by
  rw [ofLanes, elemOf_tokVec]
  simp only [if_true, liveHalf, halfOf_eq_lane, laneOf, BitVec.getLsbD_ofNat, toNat_packElems (show 32 * es.length = 1024 by omega)]
  rw [packElems_data]
  by_cases hj : j < 64
  · have h0 := packElems_live (w := 32) es (j / 2) (b := j % 2) (k := 2) (by omega)
    rw [Nat.div_add_mod] at h0
    rw [h0, decide_eq_true hj]
    cases es.getD (j / 2) none with
    | none => rfl
    | some x =>
      rcases Nat.mod_two_eq_zero_or_one j with h | h
      · simp [h]
      · simp [h]
        omega
  · rw [decide_eq_false hj, List.getD_eq_default _ _ (by omega)]
    simp

/-! ### Results element by element (R190) -/

/-- A result of 64 halves or 32 lanes. -/
def elemsRes (half : Bool) (g : Nat → Option (Nat × NumFlags)) : VRes := if half then halvesRes g else lanesRes g

theorem mapElems_eq (half : Bool) (a : Token) (g : Nat → Nat × NumFlags) :
    mapElems half (asVec a) g = elemsRes half fun j => (elemOf half a j).map g := by
  cases half <;> simp [mapElems, elemsRes, elemOf]

theorem mapElems2_eq (half : Bool) (a b : Token) (g : Nat → Nat → Nat × NumFlags) :
    mapElems2 half (asVec a) (asVec b) g =
      elemsRes half fun j => (elemOf half a j).bind fun x => (elemOf half b j).map (g x) := by
  cases half <;> simp [mapElems2, elemsRes, elemOf]

theorem elemOf_elemsRes {half : Bool} {g : Nat → Option (Nat × NumFlags)} {j : Nat} (h : j < elemCount half) :
    elemOf half (elemsRes half g).1 j = (g j).map fun r => r.1 % 2 ^ elemWidth half := by
  cases half
  · rw [show (elemsRes false g).1 = ofLanes (elemVals ((List.range 32).map g)) from rfl, elemOf_ofLanes (by simp [elemVals])]
    simp [elemVals, show j < 32 from h, elemWidth, Function.comp_def]
  · rw [show (elemsRes true g).1 = ofHalves (elemVals ((List.range 64).map g)) from rfl, elemOf_ofHalves (by simp [elemVals])]
    simp [elemVals, show j < 64 from h, elemWidth, Function.comp_def]

theorem unionFlags_map_range (n : Nat) (g : Nat → Option (Nat × NumFlags)) :
    unionFlags ((List.range n).map g) =
      (List.range n).foldl (fun a j => ((g j).map fun r => r.2).elim a fun x => a.or x) noFlags := by
  rw [unionFlags, List.foldl_map]
  congr 1
  funext a j
  cases g j <;> rfl

theorem elemsRes_flags (half : Bool) (g : Nat → Option (Nat × NumFlags)) :
    (elemsRes half g).2 = allFlags half fun j => (g j).map fun r => r.2 := by
  cases half <;> exact unionFlags_map_range _ g

section
variable {s : State} {f : Fire} {p : Pred} {i : Instr} {ta tb : Target} {k : Fire → Token × NumFlags}

/-- An instruction on operand tokens that fires with its predicate holding delivers its result. -/
theorem results_of_tokenOp (h : Fires s f p) (hi : exec i s = tokenOp p (t9 ta) (t9 tb) s k) :
    Results i s f ta.toNat tb.toNat (k f).1 (k f).2 [] := by
  obtain ⟨hf, hp⟩ := h
  simp [Results, hi, tokenOp, fire_some _ hf, hp, t9]

/-- One whose result is made element by element gives these elements and the flags of the live ones. -/
theorem givesElems_of_elemsRes (h : Fires s f p) (hi : exec i s = tokenOp p (t9 ta) (t9 tb) s k) {half : Bool}
    {g : Nat → Option (Nat × NumFlags)} (hk : k f = elemsRes half g) :
    GivesElems i s f ta.toNat tb.toNat half (fun j => (g j).map fun r => r.1 % 2 ^ elemWidth half)
      (allFlags half fun j => (g j).map fun r => r.2) := by
  refine ⟨(k f).1, ?_, fun j hj => ?_⟩
  · rw [← elemsRes_flags, ← hk]
    exact results_of_tokenOp h hi
  · rw [hk, elemOf_elemsRes hj]

/-- One that raises no flag gives the elements of its token. -/
theorem givesElems_noFlags (h : Fires s f p) (hi : exec i s = tokenOp p (t9 ta) (t9 tb) s k) {half : Bool} {g : Nat → Option Nat}
    {tok : Token} (hk : k f = (tok, noFlags)) (hg : ∀ j, j < elemCount half → elemOf half tok j = g j) :
    GivesElems i s f ta.toNat tb.toNat half g noFlags := by
  have hr := results_of_tokenOp h hi
  rw [hk] at hr
  exact ⟨tok, hr, hg⟩

end

end Sys2Proof.Machine

namespace Sys2Proof.Machine
open Sys2Proof

/-! ### Moves of elements (R197, R198, R200-R204) -/

/-- A token of all the elements of a list of numbers below the size of an element. -/
def ofElems (half : Bool) (g : Nat → Option Nat) : Token :=
  if half then ofHalves ((List.range 64).map g) else ofLanes ((List.range 32).map g)

theorem elemOf_ofElems {half : Bool} {g : Nat → Option Nat} (hg : ∀ j x, g j = some x → x < 2 ^ elemWidth half) {j : Nat}
    (h : j < elemCount half) : elemOf half (ofElems half g) j = g j := by
  have hmod : (g j).map (· % 2 ^ elemWidth half) = g j := by
    cases e : g j with
    | none => rfl
    | some x => simp [Nat.mod_eq_of_lt (hg j x e)]
  cases half
  · rw [show ofElems false g = ofLanes ((List.range 32).map g) from rfl, elemOf_ofLanes (by simp)]
    simpa [show j < 32 from h, elemWidth] using hmod
  · rw [show ofElems true g = ofHalves ((List.range 64).map g) from rfl, elemOf_ofHalves (by simp)]
    simpa [show j < 64 from h, elemWidth] using hmod

/-- Chosen elements of tokens are below the size of an element. -/
theorem elemOf_bind_lt {half : Bool} {a b : Token} {k : Nat → Nat} {j x : Nat}
    (h : ((elemOf half a j).bind fun n => elemOf half b (k n)) = some x) : x < 2 ^ elemWidth half := by
  obtain ⟨n, -, hn⟩ := Option.bind_eq_some_iff.mp h
  exact elemOf_lt hn

section
variable {s : State} {f : Fire} {p : Pred} {i : Instr} {ta tb : Target} {k : Fire → Token × NumFlags}

/-- An instruction that gives chosen elements and no flag. -/
theorem givesElems_of_ofElems (h : Fires s f p) (hi : exec i s = tokenOp p (t9 ta) (t9 tb) s k) {half : Bool} {g : Nat → Option Nat}
    (hk : k f = (ofElems half g, noFlags)) (hg : ∀ j x, g j = some x → x < 2 ^ elemWidth half) :
    GivesElems i s f ta.toNat tb.toNat half g noFlags :=
  givesElems_noFlags h hi hk fun _ hj => elemOf_ofElems hg hj

end

theorem vecSel_eq (half : Bool) (l r p : Token) :
    vecSel half l r p = ofElems half fun j => (elemOf half p j).bind fun c => if c = 0 then elemOf half r j else elemOf half l j := by
  cases half <;> simp only [vecSel, ofElems, elemOf, ne_eq, ite_not, if_true, Bool.false_eq_true, if_false]

theorem vsel_gives {s : State} {f : Fire} {p : Pred} (hf : Fires s f p) (h : Bool) (tb ta : Target) :
    GivesElems (.vsel h tb ta) s f ta.toNat tb.toNat h
      (fun j => (elemOf h f.p j).bind fun c => if c = 0 then elemOf h f.r j else elemOf h f.l j) noFlags := by
  refine givesElems_of_ofElems (p := .always) ⟨hf.1, rfl⟩ rfl (Prod.ext (vecSel_eq ..) rfl) fun j x hx => ?_
  obtain ⟨c, -, hc⟩ := Option.bind_eq_some_iff.mp hx
  split at hc <;> exact elemOf_lt hc

/-- A bitwise operation on vectors, half by half. -/
theorem elemOf_vecBitwise {g : Vec → Vec → Vec} {n : Nat → Nat → Nat}
    (hg : ∀ d e j, halfOf (g d e) j = n (halfOf d j) (halfOf e j)) (a b : Token) (j : Nat) :
    elemOf true (vecBitwise g a b) j = onElems true a b n j := by
  rw [vecBitwise, elemOf_tokVec]
  simp only [if_true, onElems, elemOf, liveHalf, hg, BitVec.getLsbD_and]
  cases (asVec a).2.getLsbD j <;> cases (asVec b).2.getLsbD j <;> rfl

theorem halfOf_and (d e : Vec) (j : Nat) : halfOf (d &&& e) j = halfOf d j &&& halfOf e j := by
  simp only [halfOf, BitVec.toNat_and, Nat.and_div_two_pow, Nat.and_mod_two_pow]

theorem halfOf_or (d e : Vec) (j : Nat) : halfOf (d ||| e) j = halfOf d j ||| halfOf e j := by
  simp only [halfOf, BitVec.toNat_or, Nat.or_div_two_pow, Nat.or_mod_two_pow]

theorem halfOf_xor (d e : Vec) (j : Nat) : halfOf (d ^^^ e) j = halfOf d j ^^^ halfOf e j := by
  simp only [halfOf, BitVec.toNat_xor, Nat.xor_div_two_pow, Nat.xor_mod_two_pow]

/-! ### Broadcasts (R201) -/

theorem packElems_replicate {w k : Nat} (v n : Nat) :
    (packElems w k (List.replicate n (some v))).1 * (2 ^ w - 1) = v % 2 ^ w * (2 ^ (w * n) - 1) ∧
      (packElems w k (List.replicate n (some v))).2 = 2 ^ (k * n) - 1 := by
  induction n with
  | zero => simp [packElems]
  | succ n ih =>
    obtain ⟨hd, hl⟩ := ih
    rw [List.replicate_succ, packElems_cons, hl]
    have hw := Nat.two_pow_pos w
    have hn := Nat.two_pow_pos (w * n)
    have hk := Nat.two_pow_pos k
    have hkn := Nat.two_pow_pos (k * n)
    constructor
    · zify [hw, hn, Nat.two_pow_pos (w * (n + 1))] at hd ⊢
      rw [Nat.mul_succ, pow_add, Option.getD_some]
      linear_combination (2 : Int) ^ w * hd
    · rw [Nat.mul_succ, Nat.pow_add]
      rw [Option.isSome_some, if_pos rfl]
      zify [hk, hkn, Nat.mul_pos hkn hk]
      ring

/-- One value in every lane. -/
theorem splatLane_eq (v : Nat) : splatLane v = ofLanes (List.replicate 32 (some v)) := by
  obtain ⟨hd, hl⟩ := packElems_replicate (w := 32) (k := 2) v 32
  have hdata : (packElems 32 2 (List.replicate 32 (some v))).1 = v % 2 ^ 32 * ((2 ^ 1024 - 1) / (2 ^ 32 - 1)) := by
    have hdvd : 2 ^ 32 - 1 ∣ (2 ^ 32) ^ 32 - 1 ^ 32 := Nat.sub_dvd_pow_sub_pow _ _ _
    rw [one_pow, ← pow_mul] at hdvd
    rw [← Nat.mul_div_assoc _ hdvd, ← hd]
    exact (Nat.mul_div_cancel _ (by decide)).symm
  rw [ofLanes]
  simp only [hl, hdata]
  rfl

/-- One value in every half. -/
theorem elemOf_splatHalf (v : Nat) {j : Nat} (h : j < 64) : elemOf true (splatHalf v) j = some (v % 65536) := by
  rw [splatHalf, splatLane_eq, elemOf_half_ofLanes (by simp), List.getD_eq_getElem?_getD,
    List.getElem?_replicate_of_lt (by omega)]
  rcases Nat.mod_two_eq_zero_or_one j with e | e
  · rw [e, Option.getD_some, Option.map_some, Option.some.injEq, Nat.pow_zero]
    omega
  · rw [e, Option.getD_some, Option.map_some, Option.some.injEq, Nat.pow_one, Nat.mul_succ, Nat.mul_comm _ 65536, Nat.mul_add_div (by decide)]
    omega

theorem elemOf_splatLane {v : Nat} (hv : v < 2 ^ elemWidth false) {j : Nat} (h : j < 32) :
    elemOf false (splatLane v) j = some v := by
  rw [splatLane_eq, elemOf_ofLanes (by simp), List.getD_eq_getElem?_getD, List.getElem?_replicate_of_lt h]
  exact congrArg some (Nat.mod_eq_of_lt hv)

section
variable {s : State} {f : Fire} {p : Pred} {tb ta : Target}

theorem elemOf_null (half : Bool) (j : Nat) : elemOf half .null j = none := by
  cases half <;> simp [elemOf, asVec, liveHalf, liveLane, laneLive]

theorem vbcst_s16_gives (hf : Fires s f p) {a : Word} (ha : asScalar f.l = some a) :
    GivesElems (.vbcst p .s16 tb ta) s f ta.toNat tb.toNat true (fun _ => some (a.toNat % 65536)) noFlags := by
  refine givesElems_noFlags hf rfl (Prod.ext rfl rfl) fun j hj => ?_
  simp only [vecBcast, ha]
  exact elemOf_splatHalf _ hj

theorem vbcst_lane_gives (hf : Fires s f p) {v : Word} (hv : asScalar f.r = some v) :
    GivesElems (.vbcst p .lane tb ta) s f ta.toNat tb.toNat false (fun _ => elemOf false f.l (v.toNat % 32)) noFlags := by
  refine givesElems_noFlags hf rfl (Prod.ext rfl rfl) fun j hj => ?_
  simp only [withScalar, hv, vecBcast]
  change elemOf false (match elemOf false f.l (v.toNat % 32) with | some v => splatLane v | none => .null) j = _
  cases e : elemOf false f.l (v.toNat % 32) with
  | none => exact elemOf_null _ _
  | some x => exact elemOf_splatLane (elemOf_lt e) hj

theorem vbcst_half_gives (hf : Fires s f p) {v : Word} (hv : asScalar f.r = some v) :
    GivesElems (.vbcst p .half tb ta) s f ta.toNat tb.toNat true (fun _ => elemOf true f.l (v.toNat % 64)) noFlags := by
  refine givesElems_noFlags hf rfl (Prod.ext rfl rfl) fun j hj => ?_
  simp only [withScalar, hv, vecBcast]
  change elemOf true (match elemOf true f.l (v.toNat % 64) with | some v => splatHalf v | none => .null) j = _
  cases e : elemOf true f.l (v.toNat % 64) with
  | none => exact elemOf_null _ _
  | some x =>
    have hx : x < 65536 := elemOf_lt e
    exact (elemOf_splatHalf x hj).trans (by rw [Nat.mod_eq_of_lt hx])

end

/-! ### Shuffles, masks, insertion and extraction (R200, R202-R204) -/

section
variable (l r : Token) (v m : Word)

theorem vecShuffle_idx : vecShuffle .idx l r = ofElems false fun j => (elemOf false r j).bind fun n => elemOf false l (n % 32) := by
  simp only [vecShuffle, ofElems, elemOf, Bool.false_eq_true, if_false]

theorem vecShuffle_hidx : vecShuffle .hidx l r = ofElems true fun j => (elemOf true r j).bind fun n => elemOf true l (n % 64) := by
  simp only [vecShuffle, ofElems, elemOf, if_true]

theorem vecMask_eq (half : Bool) :
    vecMask half l v = ofElems half fun j => if v.toNat.testBit j then elemOf half l j else none := by
  cases half <;> simp only [vecMask, ofElems, elemOf, Bool.false_eq_true, if_false, if_true, BitVec.testBit_toNat]

theorem vecInsert_half :
    vecInsert true l v m = ofElems true fun j => if j = m.toNat % 64 then some (v.toNat % 65536) else elemOf true l j := by
  simp only [vecInsert, ofElems, elemOf, if_true]

theorem vecInsert_lane :
    vecInsert false l v m = ofElems false fun j => if j = m.toNat % 32 then some (v.toNat % 2 ^ 32) else elemOf false l j := by
  simp only [vecInsert, ofElems, elemOf, Bool.false_eq_true, if_false]

variable {r v}

theorem vecShuffle_rot (hv : asScalar r = some v) :
    vecShuffle .rot l r = ofElems false fun j => elemOf false l ((j + v.toNat % 32) % 32) := by
  simp only [vecShuffle, hv, Option.getD_some, ofElems, elemOf, Bool.false_eq_true, if_false]

theorem vecShuffle_xor (hv : asScalar r = some v) :
    vecShuffle .xor l r = ofElems false fun j => elemOf false l (j ^^^ (v.toNat % 32)) := by
  simp only [vecShuffle, hv, Option.getD_some, ofElems, elemOf, Bool.false_eq_true, if_false]

theorem vecShuffle_hrot (hv : asScalar r = some v) :
    vecShuffle .hrot l r = ofElems true fun j => elemOf true l ((j + v.toNat % 64) % 64) := by
  simp only [vecShuffle, hv, Option.getD_some, ofElems, elemOf, if_true]

/-- The halves of a token of whole lanes. -/
theorem elemOf_half_ofElems (g : Nat → Option Nat) {j : Nat} (h : j < 64) :
    elemOf true (ofElems false g) j = (g (j / 2)).map fun x => x / 65536 ^ (j % 2) % 65536 := by
  rw [ofElems, if_neg Bool.false_ne_true, elemOf_half_ofLanes (by simp)]
  simp [show j / 2 < 32 by omega]

theorem vecMask_lane_half (v : Word) {j : Nat} (h : j < 64) : elemOf true (vecMask false l v) j =
    if v.toNat.testBit (j / 2) then (elemOf false l (j / 2)).map fun x => x / 65536 ^ (j % 2) % 65536 else none := by
  rw [vecMask_eq, elemOf_half_ofElems _ h]
  cases v.toNat.testBit (j / 2)
  · simp only [Bool.false_eq_true, if_false, Option.map_none]
  · simp only [if_true]

theorem vecInsert_lane_half (v m : Word) {j : Nat} (h : j < 64) : elemOf true (vecInsert false l v m) j =
    if j / 2 = m.toNat % 32 then some (v.toNat / 65536 ^ (j % 2) % 65536)
    else (elemOf false l (j / 2)).map fun x => x / 65536 ^ (j % 2) % 65536 := by
  rw [vecInsert_lane, elemOf_half_ofElems _ h]
  by_cases hm : j / 2 = m.toNat % 32
  · simp only [hm, if_true, Option.map_some, Option.some.injEq]
    rcases Nat.mod_two_eq_zero_or_one j with e | e
    · rw [e, Nat.pow_zero]
      omega
    · rw [e, Nat.pow_one]
      omega
  · simp only [hm, if_false]

end

theorem withScalar_some {r : Token} {v : Word} (h : asScalar r = some v) (k : Word → Token) : withScalar r k = k v := by
  rw [withScalar, h]

section
variable {s : State} {f : Fire} {p : Pred} {tb ta : Target}

theorem vshf_idx_gives (hf : Fires s f p) : GivesElems (.vshf p .idx tb ta) s f ta.toNat tb.toNat false
    (fun j => (elemOf false f.r j).bind fun n => elemOf false f.l (n % 32)) noFlags :=
  givesElems_of_ofElems hf rfl (Prod.ext (vecShuffle_idx ..) rfl) fun _ _ => elemOf_bind_lt

theorem vshf_hidx_gives (hf : Fires s f p) : GivesElems (.vshf p .hidx tb ta) s f ta.toNat tb.toNat true
    (fun j => (elemOf true f.r j).bind fun n => elemOf true f.l (n % 64)) noFlags :=
  givesElems_of_ofElems hf rfl (Prod.ext (vecShuffle_hidx ..) rfl) fun _ _ => elemOf_bind_lt

/-- The shuffles by a scalar. -/
theorem vshf_scalar_gives (hf : Fires s f p) {v : Word} (hv : asScalar f.r = some v) :
    GivesElems (.vshf p .rot tb ta) s f ta.toNat tb.toNat false (fun j => elemOf false f.l ((j + v.toNat % 32) % 32)) noFlags ∧
      GivesElems (.vshf p .xor tb ta) s f ta.toNat tb.toNat false (fun j => elemOf false f.l (j ^^^ (v.toNat % 32))) noFlags ∧
      GivesElems (.vshf p .hrot tb ta) s f ta.toNat tb.toNat true (fun j => elemOf true f.l ((j + v.toNat % 64) % 64)) noFlags := by
  have hk (k : Word → Token) : withScalar f.r k = k v := withScalar_some hv k
  exact ⟨givesElems_of_ofElems hf rfl (Prod.ext ((hk _).trans (vecShuffle_rot _ hv)) rfl) fun _ _ => elemOf_lt,
    givesElems_of_ofElems hf rfl (Prod.ext ((hk _).trans (vecShuffle_xor _ hv)) rfl) fun _ _ => elemOf_lt,
    givesElems_of_ofElems hf rfl (Prod.ext ((hk _).trans (vecShuffle_hrot _ hv)) rfl) fun _ _ => elemOf_lt⟩

theorem vmsk_half_gives (hf : Fires s f p) {v : Word} (hv : asScalar f.r = some v) :
    GivesElems (.vmsk p true tb ta) s f ta.toNat tb.toNat true
      (fun j => if v.toNat.testBit j then elemOf true f.l j else none) noFlags :=
  givesElems_of_ofElems hf rfl (Prod.ext ((withScalar_some hv _).trans (vecMask_eq ..)) rfl) fun _ _ hx =>
    elemOf_lt (Option.ite_none_right_eq_some.mp hx).2

theorem vmsk_lane_gives (hf : Fires s f p) {v : Word} (hv : asScalar f.r = some v) :
    GivesElems (.vmsk p false tb ta) s f ta.toNat tb.toNat true
      (fun j => if v.toNat.testBit (j / 2) then (elemOf false f.l (j / 2)).map fun x => x / 65536 ^ (j % 2) % 65536 else none)
      noFlags :=
  givesElems_noFlags (tok := vecMask false f.l v) hf rfl (Prod.ext (withScalar_some hv _) rfl) fun _ hj => vecMask_lane_half _ _ hj

theorem vins_half_gives (hf : Fires s f p) {v m : Word} (hv : asScalar f.r = some v) (hm : asScalar f.p = some m) :
    GivesElems (.vins true tb ta) s f ta.toNat tb.toNat true
      (fun j => if j = m.toNat % 64 then some (v.toNat % 65536) else elemOf true f.l j) noFlags := by
  have hk : (withScalar f.r fun v => withScalar f.p fun n => vecInsert true f.l v n) = _ :=
    (withScalar_some hv _).trans ((withScalar_some hm _).trans (vecInsert_half ..))
  refine givesElems_of_ofElems (p := .always) ⟨hf.1, rfl⟩ rfl (Prod.ext hk rfl) fun j x hx => ?_
  split at hx
  · cases hx
    exact Nat.mod_lt _ (by decide)
  · exact elemOf_lt hx

theorem vins_lane_gives (hf : Fires s f p) {v m : Word} (hv : asScalar f.r = some v) (hm : asScalar f.p = some m) :
    GivesElems (.vins false tb ta) s f ta.toNat tb.toNat true
      (fun j => if j / 2 = m.toNat % 32 then some (v.toNat / 65536 ^ (j % 2) % 65536)
        else (elemOf false f.l (j / 2)).map fun x => x / 65536 ^ (j % 2) % 65536) noFlags :=
  givesElems_noFlags (p := .always) (tok := vecInsert false f.l v m) ⟨hf.1, rfl⟩ rfl
    (Prod.ext ((withScalar_some hv _).trans (withScalar_some hm _)) rfl) fun _ hj => vecInsert_lane_half _ _ _ hj

theorem vext_lane_gives (hf : Fires s f p) {v : Word} (hv : asScalar f.r = some v) {x : Nat}
    (hx : elemOf false f.l (v.toNat % 32) = some x) :
    Results (.vext p .n32 tb ta) s f ta.toNat tb.toNat (.scalar (BitVec.ofNat 64 x)) noFlags [] ∧
      Results (.vext p .i32 tb ta) s f ta.toNat tb.toNat (.scalar (BitVec.ofInt 64 (Int.bmod x (2 ^ 32)))) noFlags [] := by
  have hx' : liveLane (asVec f.l) (v.toNat % 32) = some x := hx
  have h1 := results_of_tokenOp (i := .vext p .n32 tb ta) (tb := tb) (ta := ta) hf rfl
  have h2 := results_of_tokenOp (i := .vext p .i32 tb ta) (tb := tb) (ta := ta) hf rfl
  simp only [withScalar, hv, vecExtract, hx', sintOf_eq_bmod (show 0 < 32 by decide)] at h1 h2
  exact ⟨h1, h2⟩

theorem vext_half_gives (hf : Fires s f p) {v : Word} (hv : asScalar f.r = some v) {x : Nat}
    (hx : elemOf true f.l (v.toNat % 64) = some x) :
    Results (.vext p .n16 tb ta) s f ta.toNat tb.toNat (.scalar (BitVec.ofNat 64 x)) noFlags [] ∧
      Results (.vext p .i16 tb ta) s f ta.toNat tb.toNat (.scalar (BitVec.ofInt 64 (Int.bmod x (2 ^ 16)))) noFlags [] := by
  have hx' : liveHalf (asVec f.l) (v.toNat % 64) = some x := hx
  have h1 := results_of_tokenOp (i := .vext p .n16 tb ta) (tb := tb) (ta := ta) hf rfl
  have h2 := results_of_tokenOp (i := .vext p .i16 tb ta) (tb := tb) (ta := ta) hf rfl
  simp only [withScalar, hv, vecExtract, hx', sintOf_eq_bmod (show 0 < 16 by decide)] at h1 h2
  exact ⟨h1, h2⟩

end

/-- A bitwise instruction gives the bitwise function of the halves. -/
theorem givesElems_of_bitwise {s : State} {f : Fire} {p : Pred} {tb ta : Target} (hf : Fires s f p) {i : Instr} {g : Vec → Vec → Vec}
    {n : Nat → Nat → Nat} (hi : exec i s = tokenOp p (t9 ta) (t9 tb) s fun f => (vecBitwise g f.l f.r, noFlags))
    (hg : ∀ d e j, halfOf (g d e) j = n (halfOf d j) (halfOf e j)) :
    GivesElems i s f ta.toNat tb.toNat true (onElems true f.l f.r n) noFlags :=
  givesElems_noFlags (tok := vecBitwise g f.l f.r) hf hi rfl fun j _ => elemOf_vecBitwise hg _ _ j

theorem vectorMoves_elements : Claims.VectorMoves := by
  intro s f p h tb ta hf
  dsimp only
  refine ⟨vsel_gives hf h tb ta, givesElems_of_bitwise hf rfl halfOf_and, givesElems_of_bitwise hf rfl halfOf_or,
    givesElems_of_bitwise hf rfl halfOf_xor, vshf_idx_gives hf, vshf_hidx_gives hf, fun a ha => vbcst_s16_gives hf ha, fun v hv => ?_⟩
  obtain ⟨hrot, hxor, hhrot⟩ := vshf_scalar_gives (tb := tb) (ta := ta) hf hv
  exact ⟨hrot, hxor, hhrot, vbcst_lane_gives hf hv, vbcst_half_gives hf hv, vmsk_half_gives hf hv, vmsk_lane_gives hf hv,
    fun m hm => ⟨vins_half_gives hf hv hm, vins_lane_gives hf hv hm⟩, fun x hx => vext_lane_gives hf hv hx,
    fun x hx => vext_half_gives hf hv hx⟩

end Sys2Proof.Machine

namespace Sys2Proof.Machine
open Sys2Proof

/-! ### Elements that are there -/

section
variable {β γ : Type}

/-- The elements of a range that a function gives, in order. -/
def given (n : Nat) (g : Nat → Option β) : List β := (List.range n).filterMap g

theorem given_map (n : Nat) (g : Nat → Option β) (h : β → γ) : given n (fun j => (g j).map h) = (given n g).map h := by
  rw [given, given, List.map_filterMap]

/-- Nothing is given beyond the last element. -/
theorem given_of_none {n m : Nat} {g : Nat → Option β} (h : n ≤ m) (hg : ∀ j, n ≤ j → j < m → g j = none) :
    given m g = given n g := by
  obtain ⟨d, rfl⟩ := Nat.exists_eq_add_of_le h
  rw [given, List.range_add, List.filterMap_append, List.filterMap_map]
  have : (List.range d).filterMap (g ∘ fun x => n + x) = [] := by
    rw [List.filterMap_eq_nil_iff]
    intro j hj
    exact hg _ (Nat.le_add_right ..) (Nat.add_lt_add_left (List.mem_range.mp hj) n)
  rw [this, List.append_nil, given]

theorem given_eq_nil {n : Nat} {g : Nat → Option β} : given n g = [] ↔ ∀ j, j < n → g j = none := by
  simp [given, List.filterMap_eq_nil_iff]

/-- A fold over what is given. -/
theorem foldl_given (n : Nat) (g : Nat → Option β) (op : γ → β → γ) (z : γ) :
    (List.range n).foldl (fun a j => (g j).elim a (op a)) z = (given n g).foldl op z := by
  rw [given, List.foldl_filterMap]
  congr 1
  funext a j
  cases g j <;> rfl

end

/-- The flags of live elements together, as a fold over those that are there. -/
theorem unionFlags_given (n : Nat) (g : Nat → Option (Nat × NumFlags)) :
    unionFlags ((List.range n).map g) = (given n g).foldl (fun a r => a.or r.2) noFlags := by
  rw [unionFlags_map_range, ← foldl_given]
  congr 1
  funext a j
  cases g j <;> rfl

/-! ### Conversions (R205-R207) -/

/-- Whether the source elements and the destination elements of a layout are halves, and the number of elements converted. -/
def srcHalf : CvtLayout → Bool
  | .pack | .lanes => false
  | .unpack | .halves => true
def dstHalf : CvtLayout → Bool
  | .pack | .halves => true
  | .unpack | .lanes => false
def cvtCount : CvtLayout → Nat
  | .halves => 64
  | _ => 32

/-- The conversion of element j. -/
def cvtElem (src dst : Fmt) (half : Bool) (mode : RoundMode) (a : Token) (j : Nat) : Option (Nat × NumFlags × Nat) :=
  (elemOf half a j).map (convertElem src dst mode)

/-- No element is there beyond those that are converted. -/
theorem elemOf_src_none {lay : CvtLayout} {a : Token} {j : Nat} (h : cvtCount lay ≤ j) (hd : j < elemCount (dstHalf lay)) :
    elemOf (srcHalf lay) a j = none := by
  cases lay
  · exact elemOf_of_count_le h
  all_goals exact absurd (Nat.lt_of_lt_of_le hd h) (Nat.lt_irrefl _)

/-- What VCVT makes of its elements: the token, the flags and the saturations of those that are there. -/
def cvtResult (lay : CvtLayout) (g : Nat → Option (Nat × NumFlags × Nat)) : Token × NumFlags × Nat :=
  ((elemsRes (dstHalf lay) fun j => (g j).map fun x => (x.1, x.2.1)).1,
    (given (cvtCount lay) g).foldl (fun f x => f.or x.2.1) noFlags, ((given (cvtCount lay) g).map fun x => x.2.2).sum)

theorem foldl_add_eq_sum {β : Type} (f : β → Nat) (l : List β) (z : Nat) : l.foldl (fun n x => n + f x) z = z + (l.map f).sum := by
  induction l generalizing z with
  | nil => rfl
  | cons x l ih => simp [ih, Nat.add_assoc]

/-- The flags and the saturations of elements that are none beyond those that are converted. -/
theorem cvtResult_counts {lay : CvtLayout} {g : Nat → Option (Nat × NumFlags × Nat)} 
    (hn : ∀ j, cvtCount lay ≤ j → j < elemCount (dstHalf lay) → g j = none) :
    unionFlags ((List.range (elemCount (dstHalf lay))).map fun j => (g j).map fun x => (x.1, x.2.1)) = (cvtResult lay g).2.1 ∧
      (List.range (elemCount (dstHalf lay))).foldl (fun n j => (g j).elim n fun x => n + x.2.2) 0 = (cvtResult lay g).2.2 := by
  have hle : cvtCount lay ≤ elemCount (dstHalf lay) := by cases lay <;> decide
  rw [unionFlags_given, foldl_given, given_map, given_of_none hle hn, List.foldl_map, foldl_add_eq_sum, Nat.zero_add]
  exact ⟨rfl, rfl⟩

theorem vecConvert_eq (c : CvtCode) (mode : RoundMode) (a : Token) :
    vecConvert c mode a =
      cvtResult (cvtSpec c).2.2 (cvtElem (cvtSpec c).1 (cvtSpec c).2.1 (srcHalf (cvtSpec c).2.2) mode a) := by
  unfold vecConvert
  generalize cvtSpec c = x
  obtain ⟨src, dst, lay⟩ := x
  obtain ⟨hf, hs⟩ := cvtResult_counts (lay := lay) (g := cvtElem src dst (srcHalf lay) mode a) fun j h hd => by
    rw [cvtElem, elemOf_src_none h hd, Option.map_none]
  have hhalf (j) : (liveHalf (asVec a) j).map (convertElem src dst mode) = cvtElem src dst true mode a j := by
    simp only [cvtElem, elemOf, if_true]
  have hlane (j) : (liveLane (asVec a) j).map (convertElem src dst mode) = cvtElem src dst false mode a j := by
    simp only [cvtElem, elemOf, Bool.false_eq_true, if_false]
  have hpack (j) : (if j < 32 then cvtElem src dst false mode a j else none) = cvtElem src dst false mode a j := by
    split
    · rfl
    · rw [cvtElem, elemOf_of_count_le (Nat.not_lt.mp ‹_›), Option.map_none]
  refine Prod.ext ?_ (Prod.ext (Eq.trans ?_ hf) (Eq.trans ?_ hs))
  · cases lay
    all_goals simp only [hpack, hhalf, hlane, cvtResult, elemsRes, srcHalf, dstHalf, if_true, Bool.false_eq_true, if_false,
      halvesRes, lanesRes, elemVals, List.map_map, Function.comp_def, Option.map_map]
  · cases lay
    all_goals simp only [hpack, hhalf, hlane, srcHalf, dstHalf, elemCount, if_true, Bool.false_eq_true, if_false, List.map_map,
      Function.comp_def]
  · cases lay
    all_goals
      simp only [hpack, hhalf, hlane, srcHalf, dstHalf, elemCount, if_true, Bool.false_eq_true, if_false, List.foldl_map]
      congr 1
      funext n j
      generalize cvtElem src dst _ mode a j = e
      cases e <;> rfl

theorem vcvt_results {s : State} {f : Fire} {p : Pred} (h : Fires s f p) (c : CvtCode) (tb ta : Target) :
    let r := vecConvert c (roundingOf f) f.l
    Results (.vcvt p c tb ta) s f ta.toNat tb.toNat r.1 r.2.1 (if r.2.2 = 0 then [] else [.saturations r.2.2]) := by
  obtain ⟨hf, hp⟩ := h
  simp only [Results, show exec (.vcvt p c tb ta) s = execVcvt p c tb ta s from rfl, execVcvt, fire_some _ hf, hp, if_true, t9]

/-- The elements, the flags and the saturations of a conversion of a layout. -/
theorem cvtResult_gives (src dst : Fmt) (lay : CvtLayout) (mode : RoundMode) (a : Token) :
    let conv := convertElem src dst mode
    let r := cvtResult lay (cvtElem src dst (srcHalf lay) mode a)
    let live := ((List.range (cvtCount lay)).filterMap (elemOf (srcHalf lay) a)).map conv
    r.2.1 = live.foldl (fun f x => f.or x.2.1) noFlags ∧ r.2.2 = (live.map fun x => x.2.2).sum ∧
      ∀ j, j < elemCount (dstHalf lay) → elemOf (dstHalf lay) r.1 j =
        if elemCount (srcHalf lay) ≤ j then none else (elemOf (srcHalf lay) a j).map fun x => (conv x).1 % 2 ^ elemWidth (dstHalf lay) := by
  have hg : given (cvtCount lay) (cvtElem src dst (srcHalf lay) mode a) =
      ((List.range (cvtCount lay)).filterMap (elemOf (srcHalf lay) a)).map (convertElem src dst mode) := given_map ..
  refine ⟨congrArg (List.foldl _ _) hg, congrArg (fun l => (l.map fun x : Nat × NumFlags × Nat => x.2.2).sum) hg, fun j hj => ?_⟩
  refine (elemOf_elemsRes hj).trans ?_
  rw [cvtElem, Option.map_map, Option.map_map]
  split
  · rw [elemOf_of_count_le ‹_›]
    rfl
  · rfl

theorem vectorConversions_elements : Claims.VectorConversions := by
  intro s f p code tb ta hf
  have hr := vcvt_results hf code tb ta
  dsimp only at hr ⊢
  rw [vecConvert_eq] at hr
  generalize cvtSpec code = x at hr ⊢
  obtain ⟨src, dst, lay⟩ := x
  obtain ⟨hflags, hsats, helems⟩ := cvtResult_gives src dst lay (roundingOf f) f.l
  dsimp only at hr hflags hsats
  rw [hflags, hsats] at hr
  cases lay <;> exact ⟨_, hr, helems⟩

end Sys2Proof.Machine

namespace Sys2Proof.Machine
open Sys2Proof

/-! ### The reduction tree (R65) -/

theorem NumFlags.or_assoc (a b c : NumFlags) : (a.or b).or c = a.or (b.or c) := by
  simp only [NumFlags.or, Bool.or_assoc]

theorem NumFlags.or_comm (a b : NumFlags) : a.or b = b.or a := by
  simp only [NumFlags.or, NumFlags.mk.injEq]
  exact ⟨Bool.or_comm .., Bool.or_comm .., Bool.or_comm ..⟩

@[simp] theorem NumFlags.or_noFlags (a : NumFlags) : a.or noFlags = a := by
  simp [NumFlags.or, noFlags]

@[simp] theorem NumFlags.noFlags_or (a : NumFlags) : noFlags.or a = a := by
  simp [NumFlags.or, noFlags]

theorem NumFlags.or_or_or_comm (a b c d : NumFlags) : (a.or b).or (c.or d) = (a.or c).or (b.or d) := by
  rw [or_assoc, ← or_assoc b, or_comm b c, or_assoc c, ← or_assoc]

section
variable (g : Nat → Nat → Nat × NumFlags)

/-- A node of the tree: its inputs combined, with the flags it raises; a null input passes the other through. -/
def joinNode : Option Nat → Option Nat → Option Nat × NumFlags
  | some x, some y => (some (g x y).1, (g x y).2)
  | some x, none => (some x, noFlags)
  | none, y => (y, noFlags)

/-- The node above two parts of the tree. -/
def joinParts (a b : Option Nat × NumFlags) : Option Nat × NumFlags :=
  ((joinNode g a.1 b.1).1, (a.2.or b.2).or (joinNode g a.1 b.1).2)

theorem treeLevel_cons (a b : Option Nat) (es : List (Option Nat)) :
    treeLevel g (a :: b :: es) = ((joinNode g a b).1 :: (treeLevel g es).1, (treeLevel g es).2.or (joinNode g a b).2) := by
  cases a <;> cases b <;> simp [treeLevel, joinNode]

theorem treeNode_succ (leaf : Nat → Option Nat) (k i : Nat) :
    treeNode g leaf (k + 1) i = joinParts g (treeNode g leaf k (2 * i)) (treeNode g leaf k (2 * i + 1)) := by
  rw [treeNode, joinParts]
  generalize treeNode g leaf k (2 * i) = a
  generalize treeNode g leaf k (2 * i + 1) = b
  obtain ⟨a, fa⟩ := a
  obtain ⟨b, fb⟩ := b
  cases a <;> cases b <;> simp [joinNode]

/-- A level over two lists in a row, the first one of even length. -/
theorem treeLevel_append (n : Nat) (as bs : List (Option Nat)) (h : as.length = 2 * n) :
    (treeLevel g (as ++ bs)).1 = (treeLevel g as).1 ++ (treeLevel g bs).1 ∧
      (treeLevel g (as ++ bs)).2 = (treeLevel g as).2.or (treeLevel g bs).2 ∧ (treeLevel g as).1.length = n := by
  induction n generalizing as with
  | zero =>
    obtain rfl := List.eq_nil_of_length_eq_zero h
    simp [treeLevel]
  | succ n ih =>
    match as, h with
    | a :: b :: es, h =>
      obtain ⟨h1, h2, h3⟩ := ih es (by simp only [List.length_cons] at h; omega)
      simp only [List.cons_append, treeLevel_cons, h1, h2, List.length_cons, h3, and_true, true_and]
      rw [NumFlags.or_assoc, NumFlags.or_comm (treeLevel g bs).2, ← NumFlags.or_assoc]

/-- The tree over a list of two halves is the node above the trees over the halves. -/
theorem treeReduce_append (n : Nat) (as bs : List (Option Nat)) (ha : as.length = 2 ^ n) (hb : bs.length = 2 ^ n) :
    treeReduce g (n + 1) (as ++ bs) = joinParts g (treeReduce g n as) (treeReduce g n bs) := by
  induction n generalizing as bs with
  | zero =>
    match as, bs, ha, hb with
    | [a], [b], _, _ => simp [treeReduce, treeLevel_cons, treeLevel, joinParts]
  | succ n ih =>
    rw [Nat.pow_succ, Nat.mul_comm] at ha hb
    obtain ⟨h1, h2, h3⟩ := treeLevel_append g _ as bs ha
    obtain ⟨-, -, h3'⟩ := treeLevel_append g _ bs [] hb
    have step (m : Nat) (es : List (Option Nat)) : treeReduce g (m + 1) es =
        ((treeReduce g m (treeLevel g es).1).1, (treeLevel g es).2.or (treeReduce g m (treeLevel g es).1).2) := rfl
    rw [step (n + 1), h1, h2, ih _ _ h3 h3', step n as, step n bs]
    simp only [joinParts]
    rw [← NumFlags.or_assoc, NumFlags.or_or_or_comm]

/-- The tree of R65 over a range of leaves is the node above them. -/
theorem treeReduce_eq_treeNode (leaf : Nat → Option Nat) (n i : Nat) :
    treeReduce g n ((List.range' (i * 2 ^ n) (2 ^ n)).map leaf) = treeNode g leaf n i := by
  induction n generalizing i with
  | zero => simp [treeReduce, treeNode]
  | succ n ih =>
    have hsplit : List.range' (i * 2 ^ (n + 1)) (2 ^ (n + 1)) =
        List.range' (2 * i * 2 ^ n) (2 ^ n) ++ List.range' ((2 * i + 1) * 2 ^ n) (2 ^ n) := by
      rw [show (2 * i + 1) * 2 ^ n = 2 * i * 2 ^ n + 2 ^ n by ring, List.range'_append_1]
      congr 1 <;> ring
    rw [hsplit, List.map_append, treeReduce_append g n _ _ (by simp) (by simp), ih, ih, treeNode_succ]

/-- A tree without a live leaf gives none. -/
theorem treeNode_none {leaf : Nat → Option Nat} (k i : Nat) (h : ∀ j, j < 2 ^ k → leaf (i * 2 ^ k + j) = none) :
    treeNode g leaf k i = (none, noFlags) := by
  induction k generalizing i with
  | zero => simpa [treeNode] using h 0
  | succ k ih =>
    rw [treeNode_succ, ih (2 * i) fun j hj => ?_, ih (2 * i + 1) fun j hj => ?_]
    · simp [joinParts, joinNode]
    · have := h (2 ^ k + j) (by rw [Nat.pow_succ]; omega)
      rwa [show i * 2 ^ (k + 1) + (2 ^ k + j) = (2 * i + 1) * 2 ^ k + j by ring] at this
    · have := h j (by rw [Nat.pow_succ]; omega)
      rwa [show i * 2 ^ (k + 1) + j = 2 * i * 2 ^ k + j by ring] at this

theorem treeReduce_range (leaf : Nat → Option Nat) (n : Nat) :
    treeReduce g n ((List.range (2 ^ n)).map leaf) = treeNode g leaf n 0 := by
  rw [List.range_eq_range', ← treeReduce_eq_treeNode, Nat.zero_mul]

end

/-! ### Reductions (R208) -/

theorem elemOf_half_eq (a : Token) : elemOf true a = liveHalf (asVec a) := by
  funext j
  rw [elemOf, if_pos rfl]

theorem elemOf_lane_eq (a : Token) : elemOf false a = liveLane (asVec a) := by
  funext j
  rw [elemOf, if_neg Bool.false_ne_true]

/-- The leaves of a floating reduction with their flags: lanes, or halves that are widened. -/
def redLeaf (half : Bool) (q : FloatFmt) (a : Token) (j : Nat) : Option (Nat × NumFlags) :=
  if half then (elemOf true a j).map (widenHalf q) else (elemOf false a j).map fun x => (x, noFlags)

/-- The tree of a floating reduction. -/
def redTree (half : Bool) (q : FloatFmt) (m : RedMode) (a : Token) : Option Nat × NumFlags :=
  treeNode (redOp m) (fun j => (redLeaf half q a j).map (·.1)) (if half then 6 else 5) 0

theorem redTree_lanes (q : FloatFmt) (m : RedMode) (a : Token) : redTree false q m a = treeNode (redOp m) (elemOf false a) 5 0 := by
  have h : (fun j => (redLeaf false q a j).map (·.1)) = elemOf false a := by
    funext j
    simp only [redLeaf, Bool.false_eq_true, if_false, Option.map_map, Function.comp_def, Option.map_id']
  rw [redTree, h, if_neg Bool.false_ne_true]

/-- A floating reduction delivers the root of its tree, with the flags of the leaves and of every node. -/
theorem vecReduce_float {vt : VecType} {q : FloatFmt} (hq : vtFloat vt = some q) {m : RedMode} (hm : m ≠ .bits) (a : Token) :
    vecReduce vt m a = (redTree (vtHalf vt) q m a).1.elim (.null, noFlags) fun v => (.scalar (BitVec.ofNat 64 v),
      (if vtHalf vt then allFlags true fun j => ((elemOf true a j).map (widenHalf q)).map (·.2) else noFlags).or
        (redTree (vtHalf vt) q m a).2) := by
  have hhalf : treeReduce (redOp m) 6 (elemVals ((List.range 64).map fun h => (liveHalf (asVec a) h).map (widenHalf q))) =
      redTree true q m a := by
    rw [redTree, ← treeReduce_range]
    simp only [elemVals, List.map_map, Function.comp_def, redLeaf, elemOf_half_eq, if_true]
    rfl
  have hlane : treeReduce (redOp m) 5 ((List.range 32).map (liveLane (asVec a))) = redTree false q m a := by
    rw [redTree_lanes, ← treeReduce_range, elemOf_lane_eq]
    rfl
  have hflags : unionFlags ((List.range 64).map fun h => (liveHalf (asVec a) h).map (widenHalf q)) =
      allFlags true fun j => ((elemOf true a j).map (widenHalf q)).map (·.2) := by
    rw [unionFlags_map_range]
    simp only [allFlags, elemCount, elemOf_half_eq, if_true]
  cases hh : vtHalf vt
  all_goals
    cases m
    case bits => exact absurd rfl hm
    all_goals
      simp only [vecReduce, hq, hh, if_true, Bool.false_eq_true, if_false, hhalf, hlane, hflags]
      generalize redTree _ q _ a = r
      obtain ⟨r, fl⟩ := r
      cases r <;> rfl

/-- The elements of a vector as the numbers of an integer VT. -/
def redInts (vt : VecType) (a : Token) : List Int :=
  ((List.range (elemCount (vtHalf vt))).filterMap (elemOf (vtHalf vt) a)).map (elemInt vt)

theorem vtInt_width {vt : VecType} (h : vtFloat vt = none) : (vtInt vt).1 = elemWidth (vtHalf vt) := by
  cases vt <;> first | rfl | cases h

theorem vecInt_eq_elemInt {vt : VecType} (h : vtFloat vt = none) {a : Token} {j x : Nat} (hx : elemOf (vtHalf vt) a j = some x) :
    vecInt vt x = elemInt vt x := by
  have hlt := elemOf_lt hx
  rw [← vtInt_width h] at hlt
  have hpos : 0 < (vtInt vt).1 := by cases vt <;> decide
  simp only [vecInt, elemInt, sintOf_eq_bmod hpos, Nat.mod_eq_of_lt hlt]

/-- An integer reduction of its live elements. -/
def redFold (m : RedMode) (x : Int) (l : List Int) : Int :=
  match m with
  | .max => l.foldl max x
  | .min => l.foldl min x
  | _ => l.foldl (· + ·) x

/-- The number of an integer reduction as a scalar of the type. -/
def redScalar (vt : VecType) (r : Int) : Word :=
  if (vtInt vt).2 then (BitVec.ofInt 32 r).signExtend 64 else (BitVec.ofInt 32 r).setWidth 64

theorem vecReduce_int {vt : VecType} (hv : vtFloat vt = none) {m : RedMode} (hm : m ≠ .bits) (a : Token) :
    vecReduce vt m a = ((redInts vt a).head?.elim .null fun x => .scalar (redScalar vt (redFold m x (redInts vt a).tail)), noFlags) := by
  have hints : (((List.range (elemCount (vtHalf vt))).map (elemOf (vtHalf vt) a)).filterMap id).map (vecInt vt) = redInts vt a := by
    rw [redInts, List.filterMap_map, Function.id_comp]
    refine List.map_congr_left fun x hx => ?_
    obtain ⟨j, -, hj⟩ := List.mem_filterMap.mp hx
    exact vecInt_eq_elemInt hv hj
  have helems : (if vtHalf vt then (List.range 64).map (liveHalf (asVec a)) else (List.range 32).map (liveLane (asVec a))) =
      (List.range (elemCount (vtHalf vt))).map (elemOf (vtHalf vt) a) := by
    cases vtHalf vt <;> simp only [elemCount, elemOf_half_eq, elemOf_lane_eq, if_true, Bool.false_eq_true, if_false]
  cases m
  case bits => exact absurd rfl hm
  all_goals
    simp only [vecReduce, hv, helems, hints]
    generalize redInts vt a = l
    cases l <;> rfl

theorem foldl_min_mem (x : Int) (l : List Int) : l.foldl min x ∈ x :: l ∧ ∀ y ∈ x :: l, l.foldl min x ≤ y := by
  induction l generalizing x with
  | nil => simp
  | cons z l ih =>
    obtain ⟨hmem, hle⟩ := ih (min x z)
    simp only [List.mem_cons, forall_eq_or_imp, List.foldl_cons] at hmem hle ⊢
    refine ⟨?_, by omega, by omega, hle.2⟩
    rcases hmem with h | h
    · omega
    · exact .inr (.inr h)

theorem foldl_max_mem (x : Int) (l : List Int) : l.foldl max x ∈ x :: l ∧ ∀ y ∈ x :: l, y ≤ l.foldl max x := by
  induction l generalizing x with
  | nil => simp
  | cons z l ih =>
    obtain ⟨hmem, hle⟩ := ih (max x z)
    simp only [List.mem_cons, forall_eq_or_imp, List.foldl_cons] at hmem hle ⊢
    refine ⟨?_, by omega, by omega, hle.2⟩
    rcases hmem with h | h
    · omega
    · exact .inr (.inr h)

theorem foldl_add_eq_sum_int (x : Int) (l : List Int) : l.foldl (· + ·) x = (x :: l).sum := by
  induction l generalizing x with
  | nil => simp
  | cons y l ih => simp [ih, Int.add_assoc]

theorem redScalar_eq (vt : VecType) (r : Int) :
    redScalar vt r = BitVec.ofInt 64 (if (vtInt vt).2 then Int.bmod r (2 ^ 32) else r % 2 ^ 32) := by
  rw [redScalar]
  split
  · apply BitVec.eq_of_toInt_eq
    rw [BitVec.toInt_signExtend_of_le (by decide), BitVec.toInt_ofInt, BitVec.toInt_ofInt]
    have h1 := Int.le_bmod (x := r) (m := 2 ^ 32) (by decide)
    have h2 := Int.bmod_lt (x := r) (m := 2 ^ 32) (by decide)
    exact (Int.bmod_eq_of_le (by omega) (by omega)).symm
  · apply BitVec.eq_of_toNat_eq
    simp only [BitVec.toNat_setWidth, BitVec.toNat_ofInt]
    omega

/-- The numbers of an integer VT keep their value in 32 bits. -/
theorem redScalar_of_mem {vt : VecType} (hv : vtFloat vt = none) {a : Token} {x : Int} (h : x ∈ redInts vt a) :
    redScalar vt x = BitVec.ofInt 64 x := by
  obtain ⟨y, hy, rfl⟩ := List.mem_map.mp h
  obtain ⟨j, -, hj⟩ := List.mem_filterMap.mp hy
  have hlt := elemOf_lt hj
  have hw : elemWidth (vtHalf vt) ≤ 32 := by cases vtHalf vt <;> decide
  have hlt32 : y < 2 ^ 32 := Nat.lt_of_lt_of_le hlt (Nat.pow_le_pow_right (by decide) hw)
  rw [redScalar_eq, elemInt]
  split
  · have hpos : 0 < 2 ^ (vtInt vt).1 := Nat.two_pow_pos _
    have hle : 2 ^ (vtInt vt).1 ≤ 2 ^ 32 := by rw [vtInt_width hv]; exact Nat.pow_le_pow_right (by decide) hw
    have h1 := Int.le_bmod (x := y) hpos
    have h2 := Int.bmod_lt (x := y) hpos
    rw [Int.bmod_eq_of_le (by omega) (by omega)]
  · rw [Int.emod_eq_of_lt (by omega) (by omega)]

/-- The sign bit of a lane that is there. -/
def laneSign (a : Token) (j : Nat) : Bool := (elemOf false a j).elim false fun x => x.testBit 31

/-- The sign bits of the lanes below n. -/
def signBits (a : Token) : Nat → Nat
  | 0 => 0
  | n + 1 => 2 ^ n * (laneSign a n).toNat + signBits a n

theorem signBits_lt (a : Token) (n : Nat) : signBits a n < 2 ^ n := by
  induction n with
  | zero => exact Nat.one_pos
  | succ n ih =>
    have := Nat.mul_le_mul_left (2 ^ n) (Bool.toNat_le (laneSign a n))
    rw [signBits, Nat.pow_succ]
    omega

theorem signBits_testBit (a : Token) {n j : Nat} (h : j < n) : (signBits a n).testBit j = laneSign a j := by
  induction n with
  | zero => cases h
  | succ n ih =>
    rw [signBits, Nat.testBit_two_pow_mul_add _ (signBits_lt a n)]
    split
    · exact ih ‹_›
    · obtain rfl : j = n := by omega
      rw [Nat.sub_self]
      cases laneSign a j <;> rfl

theorem foldl_signBits (a : Token) (n : Nat) :
    (List.range n).foldl (fun m i => (elemOf false a i).elim m fun x => m + x / 2 ^ 31 % 2 * 2 ^ i) 0 = signBits a n := by
  induction n with
  | zero => rfl
  | succ n ih =>
    rw [List.range_succ, List.foldl_append, ih, List.foldl_cons, List.foldl_nil, signBits, laneSign]
    cases elemOf false a n with
    | none => simp
    | some x =>
      simp only [Option.elim_some, Nat.toNat_testBit]
      ring

theorem laneLive_eq_isSome (a : Token) (j : Nat) : laneLive (asVec a).2 j = (elemOf false a j).isSome := by
  rw [elemOf_lane_eq, liveLane]
  cases laneLive (asVec a).2 j <;> rfl

theorem vecReduce_bits_none {vt : VecType} {a : Token} (h : ∀ j, j < 32 → elemOf false a j = none) :
    vecReduce vt .bits a = (.null, noFlags) := by
  have hall : (List.range 32).all (fun i => !laneLive (asVec a).2 i) = true := by
    rw [List.all_eq_true]
    intro j hj
    rw [laneLive_eq_isSome, h j (List.mem_range.mp hj)]
    rfl
  rw [vecReduce, if_pos hall]

theorem vecReduce_bits_some {vt : VecType} {a : Token} (h : ∃ j, j < 32 ∧ (elemOf false a j).isSome = true) :
    vecReduce vt .bits a = (.scalar (BitVec.ofNat 64 (signBits a 32)), noFlags) := by
  obtain ⟨j, hj, hs⟩ := h
  have hall : ¬(List.range 32).all (fun i => !laneLive (asVec a).2 i) = true := by
    rw [List.all_eq_true]
    intro hn
    have := hn j (List.mem_range.mpr hj)
    rw [laneLive_eq_isSome, hs] at this
    cases this
  rw [vecReduce, if_neg hall, ← foldl_signBits, elemOf_lane_eq]
  congr 4
  funext m i
  cases liveLane (asVec a) i <;> rfl

theorem redTree_none {half : Bool} {q : FloatFmt} {m : RedMode} {a : Token} (h : ∀ j, j < elemCount half → elemOf half a j = none) :
    redTree half q m a = (none, noFlags) := by
  refine treeNode_none _ _ _ fun j hj => ?_
  cases half
  · rw [redLeaf, if_neg Bool.false_ne_true, Nat.zero_mul, Nat.zero_add, h j hj]
    rfl
  · rw [redLeaf, if_pos rfl, Nat.zero_mul, Nat.zero_add, h j hj]
    rfl

/-- Without a live element the reductions of numbers give Null. -/
theorem vecReduce_none {vt : VecType} {m : RedMode} (hm : m ≠ .bits) {a : Token} (h : redInts vt a = []) :
    vecReduce vt m a = (.null, noFlags) := by
  have hnone (j) (hj : j < elemCount (vtHalf vt)) : elemOf (vtHalf vt) a j = none :=
    given_eq_nil.mp (List.map_eq_nil_iff.mp h) j hj
  cases hv : vtFloat vt with
  | none => rw [vecReduce_int hv hm, h]; rfl
  | some q => rw [vecReduce_float hv hm, redTree_none hnone]; rfl

theorem vecReduce_null (vt : VecType) (m : RedMode) : vecReduce vt m .null = (.null, noFlags) := by
  by_cases hm : m = .bits
  · rw [hm, vecReduce_bits_none fun j _ => elemOf_null _ _]
  · refine vecReduce_none hm (List.map_eq_nil_iff.mpr (given_eq_nil.mpr fun j _ => elemOf_null _ _))

theorem vred_results {s : State} {f : Fire} {p : Pred} (h : Fires s f p) (vt : VecType) (m : RedMode) (tb ta : Target) {tok : Token}
    {fl : NumFlags} (hr : vecReduce vt m f.l = (tok, fl)) : Results (.vred p vt m tb ta) s f ta.toNat tb.toNat tok fl [] := by
  have hk : (if tokIsNull f.l then (.null, noFlags) else vecReduce vt m f.l) = (tok, fl) := by
    rw [← hr]
    cases f.l
    · exact (vecReduce_null vt m).symm
    all_goals rfl
  have hres := results_of_tokenOp (i := .vred p vt m tb ta) (tb := tb) (ta := ta)
    (k := fun f => if tokIsNull f.l then (.null, noFlags) else vecReduce vt m f.l) h rfl
  rwa [hk] at hres

theorem vred_float_gives {s : State} {f : Fire} {p : Pred} (h : Fires s f p) {vt : VecType} {q : FloatFmt} (hq : vtFloat vt = some q)
    {m : RedMode} (hm : m ≠ .bits) {tb ta : Target} {v : Nat} {tree : Option Nat × NumFlags}
    (htree : tree = redTree (vtHalf vt) q m f.l) (hv : tree.1 = some v) :
    Results (.vred p vt m tb ta) s f ta.toNat tb.toNat (.scalar (BitVec.ofNat 64 v))
      (if vtHalf vt then (allFlags true fun j => ((elemOf true f.l j).map (widenHalf q)).map (·.2)).or tree.2 else tree.2) [] := by
  refine vred_results h vt m tb ta ((vecReduce_float hq hm f.l).trans ?_)
  rw [← htree, hv]
  cases vtHalf vt <;> simp

/-- The tree of a floating reduction, its leaves written out. -/
theorem redTree_eq (half : Bool) (q : FloatFmt) (m : RedMode) (a : Token) : redTree half q m a =
    if half then treeNode (redOp m) (fun j => ((elemOf true a j).map (widenHalf q)).map (·.1)) 6 0
    else treeNode (redOp m) (elemOf false a) 5 0 := by
  cases half
  · rw [redTree_lanes, if_neg Bool.false_ne_true]
  · simp only [redTree, redLeaf, if_true]

theorem vectorReductions_elements : Claims.VectorReductions := by
  intro s f p vt tb ta hf
  dsimp only
  change (vtFloat vt = none → redInts vt f.l ≠ [] → _) ∧ _ ∧ (redInts vt f.l = [] → _) ∧ _
  refine ⟨fun hv hne => ?_, fun q hq r hr v => ?_, fun hnil => ?_, fun hs => ?_, fun hn => vred_results hf _ _ _ _ (vecReduce_bits_none hn)⟩
  · obtain ⟨x, l, hxs⟩ := List.exists_cons_of_ne_nil hne
    have hred (m) (hm : m ≠ .bits) := vred_results hf vt m tb ta (vecReduce_int hv hm f.l)
    simp only [hxs, List.head?_cons, Option.elim_some, List.tail_cons] at hred
    have hmin := foldl_min_mem x l
    have hmax := foldl_max_mem x l
    rw [← hxs] at hmin hmax
    refine ⟨?_, ⟨_, hmin.1, ?_, hmin.2⟩, ⟨_, hmax.1, ?_, hmax.2⟩⟩
    · have := hred .add (by decide)
      rw [redScalar_eq, show redFold .add x l = (x :: l).sum from foldl_add_eq_sum_int x l, ← hxs] at this
      exact this
    · have := hred .min (by decide)
      rw [redFold, redScalar_of_mem hv hmin.1] at this
      exact this
    · have := hred .max (by decide)
      rw [redFold, redScalar_of_mem hv hmax.1] at this
      exact this
  · have hm : r ≠ .bits := by
      rintro rfl
      simp at hr
    refine vred_float_gives hf hq hm ?_
    rw [redTree_eq]
    cases r
    case bits => exact absurd rfl hm
    all_goals rfl
  · exact ⟨vred_results hf _ _ _ _ (vecReduce_none (by decide) hnil), vred_results hf _ _ _ _ (vecReduce_none (by decide) hnil),
      vred_results hf _ _ _ _ (vecReduce_none (by decide) hnil)⟩
  · refine ⟨_, vred_results hf _ _ _ _ (vecReduce_bits_some hs), fun j => ?_⟩
    rw [BitVec.getLsbD_ofNat]
    by_cases hj : j < 32
    · rw [signBits_testBit _ hj, decide_eq_true (by omega)]
      rfl
    · rw [elemOf_of_count_le (Nat.not_lt.mp hj), Nat.testBit_lt_two_pow, Bool.and_false]
      · rfl
      · exact Nat.lt_of_lt_of_le (signBits_lt _ _) (Nat.pow_le_pow_right (by decide) (Nat.not_lt.mp hj))

/-- Settles O31: selections and moves from the elements of the token that each makes, conversions from the elements that are there,
reductions from the tree over a range of leaves. -/
theorem vectorMoves : Obligations.VectorMoves := ⟨vectorMoves_elements, vectorConversions_elements, vectorReductions_elements⟩

end Sys2Proof.Machine

namespace Sys2Proof.Machine
open Sys2Proof

/-! ### Floating elements (R190, R194-R196, R199, R209, R213) -/

section
variable {s : State} {f : Fire} {p : Pred} {i : Instr} {tb ta : Target} {half : Bool}

/-- An instruction whose result is made from each element of its left operand. -/
theorem gives_mapElems (h : Fires s f p) {k : Fire → Token × NumFlags} (hi : exec i s = tokenOp p (t9 ta) (t9 tb) s k)
    {g : Nat → Nat × NumFlags} (hk : k f = mapElems half (asVec f.l) g) :
    GivesElems i s f ta.toNat tb.toNat half (onElem half f.l fun x => (g x).1 % 2 ^ elemWidth half)
      (allFlags half fun j => (elemOf half f.l j).map fun x => (g x).2) := by
  have := givesElems_of_elemsRes h hi (hk.trans (mapElems_eq half f.l g))
  simp only [Option.map_map, Function.comp_def] at this
  exact this

/-- One whose result is made from each pair of elements of its two operands. -/
theorem gives_mapElems2 (h : Fires s f p) {g : Nat → Nat → Nat × NumFlags}
    (hi : exec i s = tokenOp p (t9 ta) (t9 tb) s fun f => mapElems2 half (asVec f.l) (asVec f.r) g) :
    GivesElems i s f ta.toNat tb.toNat half (onElems half f.l f.r fun x y => (g x y).1 % 2 ^ elemWidth half)
      (allFlags half fun j => (elemOf half f.l j).bind fun x => (elemOf half f.r j).map fun y => (g x y).2) := by
  have := givesElems_of_elemsRes h hi (mapElems2_eq half f.l f.r g)
  simp only [Option.map_bind, Option.map_map, Function.comp_def] at this
  exact this

variable {vt : VecType} {q : FloatFmt}

theorem arithElem_float (hq : vtFloat vt = some q) (m : SatMode) (ff : FloatFmt → Nat → Nat → Nat × NumFlags)
    (fi : Int → Int → Int) : arithElem vt m ff fi = ff q := by
  funext a b
  simp only [arithElem, hq]

/-- A floating instruction of the vector arithmetic. -/
theorem gives_vecArith (h : Fires s f p) (hq : vtFloat vt = some q) {m : SatMode} {ff : FloatFmt → Nat → Nat → Nat × NumFlags}
    {fi : Int → Int → Int} (hi : exec i s = tokenOp p (t9 ta) (t9 tb) s fun f => vecArith vt m ff fi f.l f.r) :
    GivesElems i s f ta.toNat tb.toNat (vtHalf vt) (onElems (vtHalf vt) f.l f.r fun x y => (ff q x y).1 % 2 ^ elemWidth (vtHalf vt))
      (allFlags (vtHalf vt) fun j => (elemOf (vtHalf vt) f.l j).bind fun x => (elemOf (vtHalf vt) f.r j).map fun y => (ff q x y).2) := by
  refine gives_mapElems2 h (g := ff q) (hi.trans ?_)
  simp only [vecArith, arithElem_float hq]

theorem vecCmp_float (hq : vtFloat vt = some q) (c : Cond) (a b : Token) : vecCmp vt c a b =
    mapElems2 (vtHalf vt) (asVec a) (asVec b) fun x y =>
      (if (fCmp q c x y).1 then (if vtHalf vt then 65535 else 4294967295) else 0, (fCmp q c x y).2) := by
  simp only [vecCmp, hq]

/-- The floating comparison of VCMP on one pair of elements. -/
def cmpElem (vt : VecType) (q : FloatFmt) (c : Cond) (x y : Nat) : Nat × NumFlags :=
  (if (fCmp q c x y).1 then (if vtHalf vt then 65535 else 4294967295) else 0, (fCmp q c x y).2)

theorem gives_vcmp (h : Fires s f p) (hq : vtFloat vt = some q) (c : Cond) :
    GivesElems (.vcmp p vt c tb ta) s f ta.toNat tb.toNat (vtHalf vt)
      (onElems (vtHalf vt) f.l f.r fun x y => (cmpElem vt q c x y).1 % 2 ^ elemWidth (vtHalf vt))
      (allFlags (vtHalf vt) fun j => (elemOf (vtHalf vt) f.l j).bind fun x => (elemOf (vtHalf vt) f.r j).map fun y =>
        (cmpElem vt q c x y).2) := by
  have hi : exec (.vcmp p vt c tb ta) s = tokenOp p (t9 ta) (t9 tb) s fun f => vecCmp vt c f.l f.r := rfl
  refine gives_mapElems2 h (hi.trans ?_)
  simp only [vecCmp_float hq]
  rfl

/-- A floating form of VUN. -/
theorem gives_vecUn (h : Fires s f p) {m : UnMode} {g : Nat → Nat × NumFlags}
    (hg : ∀ x, unElem vt m x = g x) :
    GivesElems (.vun p vt m tb ta) s f ta.toNat tb.toNat (vtHalf vt) (onElem (vtHalf vt) f.l fun x => (g x).1 % 2 ^ elemWidth (vtHalf vt))
      (allFlags (vtHalf vt) fun j => (elemOf (vtHalf vt) f.l j).map fun x => (g x).2) := by
  obtain rfl : unElem vt m = g := funext hg
  exact gives_mapElems h rfl rfl

/-- The function of VFMA on three elements. -/
def fmaElem (q : FloatFmt) (m : FmaMode) (x y z : Nat) : Nat × NumFlags :=
  match m with
  | .plain => fmaV q (q.value x) (q.value y) (q.value z)
  | .ms => fmaV q (q.value x) (q.value y) (q.value z).negate
  | .nma => fmaV q (q.value x).negate (q.value y) (q.value z)

theorem vecFma_eq (ft : FloatType) (m : FmaMode) (a b c : Token) : vecFma ft m a b c =
    elemsRes (decide (ft ≠ .fp32)) fun j => (elemOf (decide (ft ≠ .fp32)) a j).bind fun x =>
      (elemOf (decide (ft ≠ .fp32)) b j).bind fun y => (elemOf (decide (ft ≠ .fp32)) c j).map fun z => fmaElem (floatFmt ft) m x y z := by
  unfold vecFma
  cases ft
  all_goals
    cases m <;> simp only [elemsRes, fmaElem, elemOf_half_eq, elemOf_lane_eq, ne_eq, reduceCtorEq, not_true_eq_false,
      not_false_eq_true, decide_false, decide_true, if_true, Bool.false_eq_true, if_false]

theorem gives_vfma (h : Fires s f p) (ft : FloatType) (m : FmaMode) {g : FVal → FVal → FVal → Nat × NumFlags}
    (hg : ∀ x y z, fmaElem (floatFmt ft) m x y z = g ((floatFmt ft).value x) ((floatFmt ft).value y) ((floatFmt ft).value z)) :
    let hf := decide (ft ≠ .fp32)
    let at_ := fun (j : Nat) => (elemOf hf f.l j).bind fun x => (elemOf hf f.r j).bind fun y => (elemOf hf f.p j).map fun z =>
      g ((floatFmt ft).value x) ((floatFmt ft).value y) ((floatFmt ft).value z)
    GivesElems (.vfma ft m tb ta) s f ta.toNat tb.toNat hf (fun j => (at_ j).map fun r => r.1 % 2 ^ elemWidth hf)
      (allFlags hf fun j => (at_ j).map fun r => r.2) := by
  have hk := vecFma_eq ft m f.l f.r f.p
  simp only [hg] at hk
  exact givesElems_of_elemsRes (p := .always) ⟨h.1, rfl⟩ rfl hk

end

theorem vectorFloatElements_live : Claims.VectorFloatElements := by
  intro s f p vt ft q c buf tb ta hf
  dsimp only
  constructor
  · intro hq
    have hneg (x) : unElem vt .neg x = fNeg q x := by simp only [unElem, hq]
    have habs (x) : unElem vt .abs x = fAbs q x := by simp only [unElem, hq]
    have hsqrt (x) : unElem vt .sqrt x = fSqrt q x := by simp only [unElem, hq]
    have hflr (x) : unElem vt .flr x = fFloor q x := by simp only [unElem, hq]
    exact ⟨gives_vecArith hf hq rfl, gives_vecArith hf hq rfl, gives_vecArith hf hq rfl, gives_vecArith hf hq rfl,
      gives_vecArith hf hq rfl, gives_vcmp hf hq c, gives_vecUn hf hneg, gives_vecUn hf habs, gives_vecUn hf hsqrt, gives_vecUn hf hflr⟩
  · have hplain := gives_vfma (ta := ta) (tb := tb) (g := fun x y z => fmaV (floatFmt ft) x y z) hf ft .plain fun _ _ _ => rfl
    have hms := gives_vfma (ta := ta) (tb := tb) (g := fun x y z => fmaV (floatFmt ft) x y z.negate) hf ft .ms fun _ _ _ => rfl
    have hnma := gives_vfma (ta := ta) (tb := tb) (g := fun x y z => fmaV (floatFmt ft) x.negate y z) hf ft .nma fun _ _ _ => rfl
    exact ⟨gives_mapElems hf rfl rfl, gives_mapElems hf rfl rfl, gives_mapElems hf rfl rfl, gives_mapElems hf rfl rfl, hplain, hms, hnma⟩

end Sys2Proof.Machine

namespace Sys2Proof.Machine
open Sys2Proof

/-! ### Layouts whose numbers are whole units (R49) -/

/-- A layout with a sign, an exponent and a fraction whose least unit is at least 2^−248 (R49). -/
structure FloatFmt.Fits (q : FloatFmt) : Prop where
  eb : 2 ≤ q.eb
  fb : 1 ≤ q.fb
  fb_le : q.fb ≤ 30
  fb_lt : q.fb + 3 ≤ 2 ^ (q.eb - 1)
  least : 2 ^ (q.eb - 1) + q.fb ≤ 250

theorem fits_of_mem {q : FloatFmt} (h : q ∈ [fp32, bf16, fp16]) : q.Fits := by
  simp only [List.mem_cons, List.not_mem_nil, or_false] at h
  rcases h with rfl | rfl | rfl <;> exact ⟨by decide, by decide, by decide, by decide, by decide⟩

section
variable {q : FloatFmt}

theorem two_pow_eb (hq : q.Fits) : 2 ^ q.eb = 2 * 2 ^ (q.eb - 1) := by
  obtain ⟨n, hn⟩ := Nat.exists_eq_add_of_le' (Nat.le_of_succ_le hq.eb)
  rw [hn, Nat.add_sub_cancel, Nat.pow_succ, Nat.mul_comm]

theorem emin_eq (hq : q.Fits) : q.emin = (leastExp q : Int) - 298 := by
  have h := hq.least
  have hp := Nat.two_pow_pos (q.eb - 1)
  simp only [FloatFmt.emin, FloatFmt.bias, leastExp]
  omega

/-- The bits of an encoding below its sign. -/
def magOf (q : FloatFmt) (x : Nat) : Nat := x % q.signBit

theorem signBit_eq (q : FloatFmt) : q.signBit = 2 ^ q.eb * 2 ^ q.fb := Nat.pow_add ..

theorem signBit_pos (q : FloatFmt) : 0 < q.signBit := Nat.two_pow_pos _

theorem infBits_lt_signBit (q : FloatFmt) : q.infBits < q.signBit := by
  have := Nat.two_pow_pos q.eb
  rw [FloatFmt.infBits, signBit_eq]
  exact Nat.mul_lt_mul_of_pos_right (by omega) (Nat.two_pow_pos _)

theorem magOf_lt (q : FloatFmt) (x : Nat) : magOf q x < q.signBit := Nat.mod_lt _ (signBit_pos q)

theorem expOf_eq (q : FloatFmt) (x : Nat) : expOf q x = magOf q x / 2 ^ q.fb := by
  rw [expOf, magOf, signBit_eq, Nat.mod_mul_left_div_self]

theorem fracOf_eq (q : FloatFmt) (x : Nat) : fracOf q x = magOf q x % 2 ^ q.fb := by
  rw [fracOf, magOf, signBit_eq, Nat.mod_mul_left_mod]

theorem expOf_lt (q : FloatFmt) (x : Nat) : expOf q x < 2 ^ q.eb := Nat.mod_lt _ (Nat.two_pow_pos _)

theorem isFinite_iff {x : Nat} : isFinite q x = true ↔ magOf q x < q.infBits := by
  have h := expOf_lt q x
  rw [isFinite, decide_eq_true_iff, FloatFmt.infBits, ← Nat.div_lt_iff_lt_mul (Nat.two_pow_pos _), ← expOf_eq]
  omega

theorem signOf_eq (q : FloatFmt) (x : Nat) : signOf q x = (x / q.signBit % 2 == 1) := by
  rw [signOf, Nat.testBit_eq_decide_div_mod_eq, FloatFmt.signBit]
  rfl

/-- An encoding is its sign and its magnitude. -/
theorem signed_magOf {x : Nat} (h : x < 2 * q.signBit) : signed q (signOf q x) (magOf q x) = x := by
  have hdm := Nat.div_add_mod x q.signBit
  have hlt : x / q.signBit < 2 := Nat.div_lt_of_lt_mul (by rwa [Nat.mul_comm])
  rw [signed, signOf_eq, magOf]
  rcases Nat.lt_or_ge 0 (x / q.signBit) with h1 | h0
  · have h1 : x / q.signBit = 1 := by omega
    rw [h1, Nat.mul_one] at hdm
    simp [h1, hdm]
  · have h0 : x / q.signBit = 0 := Nat.le_zero.mp h0
    rw [h0, Nat.mul_zero, Nat.zero_add] at hdm
    simp [h0, hdm]

theorem signed_lt {neg : Bool} {k : Nat} (h : k < q.signBit) : signed q neg k < 2 * q.signBit := by
  rw [signed]
  split <;> omega

theorem magOf_signed {neg : Bool} {k : Nat} (h : k < q.signBit) : magOf q (signed q neg k) = k := by
  rw [magOf, signed]
  split
  · rw [Nat.add_mod_left, Nat.mod_eq_of_lt h]
  · exact Nat.mod_eq_of_lt h

theorem signOf_signed {neg : Bool} {k : Nat} (h : k < q.signBit) : signOf q (signed q neg k) = neg := by
  rw [signOf_eq, signed]
  cases neg
  · simp [Nat.div_eq_of_lt h]
  · simp [Nat.add_div_left _ (signBit_pos q), Nat.div_eq_of_lt h]

/-! ### Magnitudes in units -/

/-- The significand of a magnitude, the exponent of its last place above that of the least unit, and the magnitude in units of
2^−298. -/
def magSig (q : FloatFmt) (k : Nat) : Nat := if k / 2 ^ q.fb = 0 then k % 2 ^ q.fb else 2 ^ q.fb + k % 2 ^ q.fb
def magPlace (q : FloatFmt) (k : Nat) : Nat := k / 2 ^ q.fb - 1
def magUnits (q : FloatFmt) (k : Nat) : Nat := magSig q k * 2 ^ (leastExp q + magPlace q k)

theorem floatUnits_eq (q : FloatFmt) (x : Nat) : floatUnits q x = (if signOf q x then -1 else 1) * (magUnits q (magOf q x) : Int) := by
  rw [floatUnits, expOf_eq, fracOf_eq]
  rfl

/-- A significand and a place make one magnitude: a carry out of the significand is the next power of two. -/
theorem magSig_place {d n : Nat} (hn : n < 2 ^ (q.fb + 1)) (hd : 2 ^ q.fb ≤ n ∨ d = 0) :
    magSig q (n + d * 2 ^ q.fb) = n ∧ magPlace q (n + d * 2 ^ q.fb) = d := by
  have hp := Nat.two_pow_pos q.fb
  rw [Nat.pow_succ] at hn
  simp only [magSig, magPlace, Nat.add_mul_div_right _ _ hp, Nat.add_mul_mod_self_right]
  rcases Nat.lt_or_ge n (2 ^ q.fb) with h | h
  · obtain rfl : d = 0 := by omega
    simp [Nat.div_eq_of_lt h, Nat.mod_eq_of_lt h]
  · have h1 : n / 2 ^ q.fb = 1 := by
      rw [Nat.div_eq_iff hp]
      omega
    have h2 := Nat.div_add_mod n (2 ^ q.fb)
    rw [h1, Nat.mul_one] at h2
    rw [h1, if_neg (by omega)]
    exact ⟨h2, by omega⟩

/-- The significand and the place of a magnitude make it. -/
theorem magSig_add_place (q : FloatFmt) (k : Nat) : k = magSig q k + magPlace q k * 2 ^ q.fb ∧ magSig q k < 2 ^ (q.fb + 1) ∧
    (2 ^ q.fb ≤ magSig q k ∨ magPlace q k = 0) := by
  have hp := Nat.two_pow_pos q.fb
  have hm := Nat.mod_lt k hp
  have hdm := Nat.div_add_mod k (2 ^ q.fb)
  rw [magSig, magPlace, Nat.pow_succ]
  split
  case isTrue h =>
    rw [h] at hdm ⊢
    omega
  case isFalse h =>
    obtain ⟨n, hn⟩ := Nat.exists_eq_succ_of_ne_zero h
    rw [hn, Nat.succ_eq_add_one, Nat.mul_add, Nat.mul_one, Nat.mul_comm] at hdm
    rw [hn, Nat.succ_eq_add_one, Nat.add_sub_cancel]
    omega

/-- The next magnitude is one last place further on. -/
theorem magUnits_succ (q : FloatFmt) (k : Nat) : magUnits q (k + 1) = magUnits q k + 2 ^ (leastExp q + magPlace q k) := by
  obtain ⟨hk, hlt, hd⟩ := magSig_add_place q k
  rcases Nat.lt_or_ge (magSig q k + 1) (2 ^ (q.fb + 1)) with h | h
  · obtain ⟨hs, hpl⟩ := magSig_place (q := q) (d := magPlace q k) h (by omega)
    rw [show magSig q k + 1 + magPlace q k * 2 ^ q.fb = k + 1 by omega] at hs hpl
    rw [magUnits, hs, hpl, magUnits]
    ring
  · have hfull : magSig q k + 1 = 2 * 2 ^ q.fb := by rw [Nat.pow_succ] at h hlt; omega
    obtain ⟨hs, hpl⟩ := magSig_place (q := q) (n := 2 ^ q.fb) (d := magPlace q k + 1)
      (by rw [Nat.pow_succ]; have := Nat.two_pow_pos q.fb; omega) (.inl (Nat.le_refl _))
    rw [show 2 ^ q.fb + (magPlace q k + 1) * 2 ^ q.fb = k + 1 by rw [Nat.succ_mul]; omega] at hs hpl
    rw [magUnits, hs, hpl, magUnits, ← Nat.add_assoc, Nat.pow_succ, Nat.mul_comm _ 2, ← Nat.mul_assoc, Nat.mul_comm _ 2, ← hfull,
      Nat.succ_mul]

theorem magUnits_strictMono (q : FloatFmt) : StrictMono (magUnits q) :=
  strictMono_nat_of_lt_succ fun k => by
    rw [magUnits_succ]
    have := Nat.two_pow_pos (leastExp q + magPlace q k)
    omega

@[simp] theorem magUnits_zero (q : FloatFmt) : magUnits q 0 = 0 := by
  simp [magUnits, magSig]

end

end Sys2Proof.Machine

namespace Sys2Proof.Machine
open Sys2Proof

/-! ### Rounding to a multiple of a power of two (R59) -/

/-- A magnitude m × 2^e with e ≥ −596 in units of 2^−596. -/
def scaled (m : Nat) (e : Int) : Nat := m * 2 ^ (e + 596).toNat

theorem toNat_add_of_le {a b : Int} (ha : 0 ≤ a) (hab : a ≤ b) : b.toNat = a.toNat + (b - a).toNat := by omega

theorem roundsUp_scale (mode : RoundMode) (neg : Bool) (n r s t : Nat) :
    roundsUp mode neg n (r * 2 ^ t) (s + t) = roundsUp mode neg n r s := by
  have hp := Nat.two_pow_pos t
  have hzero : r * 2 ^ t = 0 ↔ r = 0 := by simp
  have hlt : 2 ^ (s + t) < 2 * (r * 2 ^ t) ↔ 2 ^ s < 2 * r := by
    rw [Nat.pow_add, ← Nat.mul_assoc]
    exact Nat.mul_lt_mul_right hp
  have hle : 2 ^ (s + t) ≤ 2 * (r * 2 ^ t) ↔ 2 ^ s ≤ 2 * r := by
    rw [Nat.pow_add, ← Nat.mul_assoc]
    exact Nat.mul_le_mul_right_iff hp
  have heq : 2 * (r * 2 ^ t) = 2 ^ (s + t) ↔ 2 * r = 2 ^ s := by
    rw [Nat.pow_add, ← Nat.mul_assoc]
    exact Nat.mul_left_inj hp.ne'
  cases mode <;> simp only [roundsUp, gt_iff_lt, ge_iff_le, hzero, hlt, hle, heq, ne_eq]

theorem roundsUp_zero (mode : RoundMode) (neg : Bool) (n s : Nat) : roundsUp mode neg n 0 s = false := by
  have := Nat.two_pow_pos s
  cases mode
  case rne => simp [roundsUp]; omega
  all_goals simp [roundsUp]

theorem roundsUp_parity (mode : RoundMode) (neg : Bool) {n k : Nat} (h : n % 2 = k % 2) (r s : Nat) :
    roundsUp mode neg n r s = roundsUp mode neg k r s := by
  cases mode <;> simp only [roundsUp, h]

/-- A rounding at a place is made on the quotient and the remainder by that place. -/
theorem roundAt_eq (mode : RoundMode) (neg : Bool) (m : Nat) {e p : Int} (he : -596 ≤ e) (hp : -596 ≤ p) :
    let w := 2 ^ (p + 596).toNat
    let v := scaled m e
    roundAt mode neg m e p =
      (if roundsUp mode neg (v / w) (v % w) (p + 596).toNat then v / w + 1 else v / w, decide (v % w ≠ 0)) := by
  dsimp only
  rw [roundAt, scaled]
  split
  case isTrue h =>
    rw [toNat_add_of_le (a := p + 596) (by omega) (show p + 596 ≤ e + 596 by omega), Nat.pow_add, Nat.mul_comm (2 ^ (p + 596).toNat),
      ← Nat.mul_assoc, Nat.mul_mod_left, Nat.mul_div_cancel _ (Nat.two_pow_pos _), roundsUp_zero]
    simp
  case isFalse h =>
    have hs : (p + 596).toNat = (p - e).toNat + (e + 596).toNat := by omega
    rw [hs, Nat.pow_add, Nat.mul_div_mul_right _ _ (Nat.two_pow_pos _), Nat.mul_mod_mul_right, roundsUp_scale]
    simp

/-! ### Rounding to a layout -/

section
variable {q : FloatFmt}

theorem infBits_pos (hq : q.Fits) : 0 < q.infBits := by
  have h := two_pow_eb hq
  have := Nat.two_pow_pos (q.eb - 1)
  exact Nat.mul_pos (by omega) (Nat.two_pow_pos _)

/-- The exponent of the last place of a magnitude above 2^−596, and the magnitude in units of 2^−596. -/
def magGap (q : FloatFmt) (k : Nat) : Nat := leastExp q + magPlace q k + 298
def magScaled (q : FloatFmt) (k : Nat) : Nat := magUnits q k * 2 ^ 298

theorem magScaled_succ (q : FloatFmt) (k : Nat) : magScaled q (k + 1) = magScaled q k + 2 ^ magGap q k := by
  rw [magScaled, magUnits_succ, Nat.add_mul, ← Nat.pow_add]
  rfl

theorem magScaled_le {k j : Nat} : magScaled q k ≤ magScaled q j ↔ k ≤ j := by
  rw [magScaled, magScaled, Nat.mul_le_mul_right_iff (Nat.two_pow_pos _), (magUnits_strictMono q).le_iff_le]

/-- The magnitude mag is what a mode makes of v units of 2^−596 that begin at the magnitude k. -/
structure RoundsMag (q : FloatFmt) (mode : RoundMode) (neg : Bool) (v k mag : Nat) : Prop where
  lo : magScaled q k ≤ v
  hi : v < magScaled q (k + 1)
  mag : mag = if roundsUp mode neg k (v - magScaled q k) (magGap q k) then k + 1 else k

/-- Whether a value is less than the least normal number when it is rounded without a bound on the exponent. -/
def isTiny (q : FloatFmt) (mode : RoundMode) (neg : Bool) (m : Nat) (e : Int) : Bool :=
  let free := e + ((Nat.log2 m : Int) + 1) - (q.fb + 1 : Nat)
  decide (free < q.emin) && !(decide (free + 1 = q.emin) && decide ((roundAt mode neg m e free).1 = 2 ^ (q.fb + 1)))

/-- A rounded result from its magnitude. -/
def roundedOf (q : FloatFmt) (mode : RoundMode) (neg : Bool) (mag : Nat) (tiny inexact : Bool) : Rounded :=
  if q.infBits ≤ mag then ⟨overflowBits q mode neg, true, false, true⟩ else ⟨signed q neg mag, false, tiny && inexact, inexact⟩

theorem scaled_log2 {m : Nat} (hm : m ≠ 0) {e : Int} (he : -596 ≤ e) :
    2 ^ (e + Nat.log2 m + 596).toNat ≤ scaled m e ∧ scaled m e < 2 ^ (e + Nat.log2 m + 597).toNat := by
  have h1 : (e + Nat.log2 m + 596).toNat = Nat.log2 m + (e + 596).toNat := by omega
  have h2 : (e + Nat.log2 m + 597).toNat = Nat.log2 m + 1 + (e + 596).toNat := by omega
  rw [h1, h2, Nat.pow_add, Nat.pow_add, scaled]
  exact ⟨Nat.mul_le_mul_right _ (Nat.log2_self_le hm), Nat.mul_lt_mul_of_pos_right Nat.lt_log2_self (Nat.two_pow_pos _)⟩

/-- A value at a place of a layout: the magnitude at which it begins, and what is left of it. -/
theorem magnitude_at_place (hq : q.Fits) {d v : Nat} (hlt : v / 2 ^ (leastExp q + d + 298) < 2 ^ (q.fb + 1))
    (hd : 2 ^ q.fb ≤ v / 2 ^ (leastExp q + d + 298) ∨ d = 0) :
    let k := v / 2 ^ (leastExp q + d + 298) + d * 2 ^ q.fb
    magGap q k = leastExp q + d + 298 ∧ magScaled q k + v % 2 ^ (leastExp q + d + 298) = v ∧
      v / 2 ^ (leastExp q + d + 298) % 2 = k % 2 := by
  obtain ⟨hs, hp⟩ := magSig_place hlt hd
  have hdm := Nat.div_add_mod v (2 ^ (leastExp q + d + 298))
  refine ⟨by rw [magGap, hp], ?_, ?_⟩
  · rw [magScaled, magUnits, hs, hp, Nat.mul_assoc, ← Nat.pow_add, Nat.mul_comm (_ / _)]
    exact hdm
  · obtain ⟨n, hn⟩ := Nat.exists_eq_add_of_le' hq.fb
    rw [hn, show 2 ^ (n + 1) = 2 ^ n * 2 from rfl, ← Nat.mul_assoc, Nat.add_mul_mod_self_right]

/-- The encoding adds up: a carry out of the significand is the next power of two. -/
theorem carry_eq {b n d : Nat} {up : Bool} (hd : b ≤ n ∨ d = 0) :
    (if (if up = true then n + 1 else n) < b then (if up = true then n + 1 else n) else (if up = true then n + 1 else n) + d * b) =
      if up = true then n + d * b + 1 else n + d * b := by
  have h0 : n < b → d * b = 0 := fun h => by
    obtain rfl : d = 0 := by omega
    exact Nat.zero_mul b
  generalize d * b = x at h0 ⊢
  cases up <;> simp only [if_true, Bool.false_eq_true, if_false] <;> split <;> omega

/-- A rounding to a layout, by the magnitude at which the value begins. -/
theorem roundFin_eq (hq : q.Fits) (mode : RoundMode) (neg : Bool) (m : Nat) {e : Int} (he : -596 ≤ e) :
    ∃ k mag, RoundsMag q mode neg (scaled m e) k mag ∧
      roundFin q mode neg m e = roundedOf q mode neg mag (isTiny q mode neg m e) (decide (scaled m e ≠ magScaled q k)) := by
  have hemin := emin_eq hq
  by_cases hm : m = 0
  · subst hm
    have h0 : scaled 0 e = 0 := by rw [scaled, Nat.zero_mul]
    have hk : magScaled q 0 = 0 := by rw [magScaled, magUnits_zero, Nat.zero_mul]
    refine ⟨0, 0, ⟨?_, ?_, ?_⟩, ?_⟩
    · rw [h0, hk]
    · rw [h0, magScaled_succ]
      exact Nat.lt_of_lt_of_le (Nat.two_pow_pos _) (Nat.le_add_left ..)
    · rw [h0, Nat.zero_sub, roundsUp_zero]
      rfl
    · rw [roundFin, if_pos rfl, roundedOf, if_neg (Nat.not_le.mpr (infBits_pos hq)), h0, hk]
      simp
  · obtain ⟨hlo, hhi⟩ := scaled_log2 hm he
    rw [roundFin, if_neg hm]
    dsimp only
    generalize hp : max (e + ((Nat.log2 m : Int) + 1) - (q.fb + 1 : Nat)) q.emin = p
    generalize hd : (p - q.emin).toNat = d
    have hplace : (p + 596).toNat = leastExp q + d + 298 := by omega
    rw [roundAt_eq mode neg m he (show -596 ≤ p by omega), hplace]
    generalize scaled m e = v at hlo hhi ⊢
    have hw := Nat.two_pow_pos (leastExp q + d + 298)
    have hn : v / 2 ^ (leastExp q + d + 298) < 2 ^ (q.fb + 1) := by
      refine Nat.div_lt_of_lt_mul (Nat.lt_of_lt_of_le hhi ?_)
      rw [← Nat.pow_add]
      exact Nat.pow_le_pow_right (by decide) (by omega)
    have hd : 2 ^ q.fb ≤ v / 2 ^ (leastExp q + d + 298) ∨ d = 0 := by
      by_cases h0 : d = 0
      · exact .inr h0
      · refine .inl ((Nat.le_div_iff_mul_le hw).mpr (Nat.le_trans ?_ hlo))
        rw [← Nat.pow_add]
        exact Nat.pow_le_pow_right (by decide) (by omega)
    obtain ⟨hgap, hrest, hpar⟩ := magnitude_at_place hq hn hd
    generalize hk : v / 2 ^ (leastExp q + d + 298) + d * 2 ^ q.fb = k at hgap hrest hpar
    have hmod := Nat.mod_lt v hw
    generalize v / 2 ^ (leastExp q + d + 298) = n at hn hd hk hpar
    generalize hr : v % 2 ^ (leastExp q + d + 298) = r at hrest hmod
    have hrem : v - magScaled q k = r := by omega
    refine ⟨k, if roundsUp mode neg k r (magGap q k) then k + 1 else k, ⟨?_, ?_, ?_⟩, ?_⟩
    · omega
    · rw [magScaled_succ, hgap]
      omega
    · rw [hrem]
    · have hup : roundsUp mode neg n r (leastExp q + d + 298) = roundsUp mode neg k r (magGap q k) := by
        rw [hgap, roundsUp_parity mode neg hpar]
      have hinexact : decide (r ≠ 0) = decide (v ≠ magScaled q k) := by
        congr 1
        exact propext (by omega)
      rw [hup, hinexact]
      dsimp only
      rw [carry_eq hd, hk]
      rfl

end

end Sys2Proof.Machine

namespace Sys2Proof.Machine
open Sys2Proof

/-! ### The number that a mode picks (R59, R63) -/

/-- A number with its sign. -/
def withSign (neg : Bool) (v : Nat) : Int := if neg then -(v : Int) else v

theorem withSign_mul_nonneg (neg : Bool) (a v : Nat) : 0 ≤ withSign neg a * withSign neg v := by
  cases neg
  · exact Int.mul_nonneg (Int.natCast_nonneg a) (Int.natCast_nonneg v)
  · exact Int.mul_nonneg_of_nonpos_of_nonpos (Int.neg_nonpos_of_nonneg (Int.natCast_nonneg a)) (Int.neg_nonpos_of_nonneg (Int.natCast_nonneg v))

/-- What a mode asks of the number vy that it picks for r, against a candidate vz. -/
def PicksOver (m : RoundMode) (r vy vz : Int) (evenY : Prop) : Prop :=
  match m with
  | .rne => (vy - r).natAbs ≤ (vz - r).natAbs ∧ (vz ≠ vy → (vz - r).natAbs = (vy - r).natAbs → evenY)
  | .rna => (vy - r).natAbs ≤ (vz - r).natAbs ∧ (vz ≠ vy → (vz - r).natAbs = (vy - r).natAbs → vz.natAbs < vy.natAbs)
  | .rtz => vy.natAbs ≤ r.natAbs ∧ 0 ≤ vy * r ∧ (vz.natAbs ≤ r.natAbs → 0 ≤ vz * r → vz.natAbs ≤ vy.natAbs)
  | .rup => r ≤ vy ∧ (r ≤ vz → vy ≤ vz)
  | .rdn => vy ≤ r ∧ (vz ≤ r → vz ≤ vy)

theorem picks_iff {α : Type} {ok : α → Prop} {val : α → Int} {even : α → Prop} {m : RoundMode} {r : Int} {y : α} :
    Picks ok val even m r y ↔ ok y ∧ ∀ z, ok z → PicksOver m r (val y) (val z) (even y) := by
  cases m <;> rfl

/-- Whether a mode rounds up, by the remainder r of a place of size g: `up` with what the mode says of it. -/
def UpIff (m : RoundMode) (neg : Bool) (k r g : Nat) (up : Bool) : Prop :=
  match m with
  | .rne => if up then g ≤ 2 * r ∧ (2 * r = g → k % 2 = 1) else 2 * r ≤ g ∧ (2 * r = g → k % 2 = 0)
  | .rna => if up then g ≤ 2 * r else 2 * r < g
  | .rtz => up = false
  | .rup => if up then neg = false ∧ 0 < r else neg = true ∨ r = 0
  | .rdn => if up then neg = true ∧ 0 < r else neg = false ∨ r = 0

theorem upIff_roundsUp (m : RoundMode) (neg : Bool) (k r s : Nat) : UpIff m neg k r (2 ^ s) (roundsUp m neg k r s) := by
  have hp := Nat.two_pow_pos s
  cases m <;> simp only [UpIff, roundsUp]
  case rne =>
    simp only [gt_iff_lt, Bool.or_eq_true, decide_eq_true_eq, Bool.and_eq_true, beq_iff_eq]
    split <;> omega
  case rna =>
    simp only [ge_iff_le, Bool.and_eq_true, decide_eq_true_eq]
    split <;> omega
  case rup =>
    cases neg
    · simp
      omega
    · simp
  case rdn =>
    cases neg
    · simp
    · simp
      omega

/-- Between two neighbours a and a + g a mode picks the one that its rounding gives, with k the number of the lower one. -/
theorem picksOver_neighbours {mode : RoundMode} {neg up : Bool} {v a g k : Nat} (hlo : a ≤ v) (hhi : v < a + g)
    (hup : UpIff mode neg k (v - a) g up) {sz : Bool} {uz : Nat} (hz : uz ≤ a ∨ a + g ≤ uz) :
    PicksOver mode (withSign neg v) (withSign neg (if up then a + g else a)) (withSign sz uz) ((if up then k + 1 else k) % 2 = 0) := by
  have hmul := withSign_mul_nonneg neg a v
  obtain ⟨r, rfl⟩ := Nat.exists_eq_add_of_le hlo
  rw [Nat.add_sub_cancel_left] at hup
  cases mode <;> cases up <;> simp only [PicksOver, UpIff, if_true, Bool.false_eq_true, Bool.true_eq_false, if_false] at hup ⊢
  case rtz.false =>
    refine ⟨?_, hmul, fun h _ => ?_⟩
    · cases neg <;> simp only [withSign, if_true, Bool.false_eq_true, if_false] <;> omega
    · cases neg <;> cases sz <;> simp only [withSign, if_true, Bool.false_eq_true, if_false] at h ⊢ <;> omega
  all_goals
    cases neg <;> cases sz <;>
      simp only [withSign, if_true, Bool.false_eq_true, Bool.true_eq_false, false_and, true_and, false_or, true_or, if_false] at hup ⊢ <;>
      omega

section
variable {q : FloatFmt} {mode : RoundMode} {neg : Bool} {v k mag : Nat}

theorem floatUnits_scaled (q : FloatFmt) (x : Nat) :
    floatUnits q x * 2 ^ 298 = withSign (signOf q x) (magScaled q (magOf q x)) := by
  rw [floatUnits_eq, withSign, magScaled, Int.natCast_mul, Int.natCast_pow]
  cases signOf q x
  · rw [if_neg Bool.false_ne_true, if_neg Bool.false_ne_true, Int.one_mul]
    rfl
  · rw [if_pos rfl, if_pos rfl, Int.neg_one_mul, Int.neg_mul]
    rfl

theorem signed_mod_two (hq : q.Fits) (neg : Bool) (k : Nat) : signed q neg k % 2 = k % 2 := by
  have : q.signBit % 2 = 0 := by
    obtain ⟨n, hn⟩ := Nat.exists_eq_add_of_le' (Nat.le_trans hq.fb (Nat.le_add_left q.fb q.eb))
    rw [FloatFmt.signBit, hn, Nat.pow_succ, Nat.mul_mod_left]
  rw [signed]
  split <;> omega

theorem isFinite_signed (h : mag < q.infBits) : isFinite q (signed q neg mag) = true := by
  rw [isFinite_iff, magOf_signed (Nat.lt_trans h (infBits_lt_signBit q))]
  exact h

theorem scaled_signed (h : mag < q.infBits) : floatUnits q (signed q neg mag) * 2 ^ 298 = withSign neg (magScaled q mag) := by
  have h' := Nat.lt_trans h (infBits_lt_signBit q)
  rw [floatUnits_scaled, signOf_signed h', magOf_signed h']

/-- What a rounding makes of a value is the finite number that the mode picks, when that is in range. -/
theorem floatPicks_of_roundsMag (hq : q.Fits) (h : RoundsMag q mode neg v k mag) (hfin : mag < q.infBits) :
    FloatPicks q mode (withSign neg v) (signed q neg mag) := by
  obtain ⟨hlo, hhi, hmag⟩ := h
  have hlt := Nat.lt_trans hfin (infBits_lt_signBit q)
  refine ⟨picks_iff.mpr ⟨⟨signed_lt hlt, isFinite_signed hfin⟩, fun z _ => ?_⟩, fun hr => ?_⟩
  · have hz : magScaled q (magOf q z) ≤ magScaled q k ∨ magScaled q (k + 1) ≤ magScaled q (magOf q z) := by
      rw [magScaled_le, magScaled_le]
      omega
    rw [magScaled_succ] at hhi hz
    have := picksOver_neighbours hlo hhi (upIff_roundsUp mode neg k _ _) (sz := signOf q z) hz
    rw [← hmag] at this
    rw [floatUnits_scaled q z, scaled_signed hfin, signed_mod_two hq]
    convert this using 2
    rw [hmag]
    split
    · exact magScaled_succ q k
    · rfl
  · rw [signOf_signed hlt]
    cases neg <;> simp [withSign] at hr ⊢
    omega

end

end Sys2Proof.Machine

namespace Sys2Proof.Machine
open Sys2Proof

/-! ### Results rounded to nearest (R63, R66) -/

section
variable {q : FloatFmt} {neg : Bool} {v k mag : Nat}

/-- The largest finite magnitude, and its last place. -/
theorem magScaled_top (hq : q.Fits) : magScaled q (q.infBits - 1) = topUnits q ∧ 2 ^ magGap q (q.infBits - 1) = lastUnit q ∧
    (q.infBits - 1) % 2 = 1 := by
  have heb := two_pow_eb hq
  obtain ⟨n, hn⟩ := Nat.exists_eq_add_of_le' hq.fb
  have hE : 2 ≤ 2 ^ (q.eb - 1) := by
    have := Nat.pow_le_pow_right (n := 2) (by decide) (show 1 ≤ q.eb - 1 by have := hq.eb; omega)
    simpa using this
  have hp := Nat.two_pow_pos q.fb
  have hk : q.infBits - 1 = 2 ^ (q.fb + 1) - 1 + (2 ^ q.eb - 3) * 2 ^ q.fb := by
    rw [FloatFmt.infBits, show 2 ^ q.eb - 1 = 2 ^ q.eb - 3 + 2 by omega, Nat.add_mul, Nat.pow_succ]
    omega
  obtain ⟨hs, hpl⟩ := magSig_place (q := q) (n := 2 ^ (q.fb + 1) - 1) (d := 2 ^ q.eb - 3)
    (by have := Nat.two_pow_pos (q.fb + 1); omega) (.inl (by rw [Nat.pow_succ]; omega))
  rw [← hk] at hs hpl
  refine ⟨?_, ?_, ?_⟩
  · rw [magScaled, magUnits, hs, hpl, topUnits, lastUnit, Nat.mul_assoc]
  · rw [magGap, hpl, lastUnit, ← Nat.pow_add]
  · rw [hk, hn, show 2 ^ (n + 1) = 2 ^ n * 2 from rfl, ← Nat.mul_assoc, Nat.add_mul_mod_self_right, show 2 ^ (n + 1 + 1) = 2 ^ n * 2 * 2 from rfl]
    have := Nat.two_pow_pos n
    omega

/-- Rounding to nearest overflows from half a last place beyond the largest finite number on. -/
theorem overflow_rne_iff (hq : q.Fits) (h : RoundsMag q .rne neg v k mag) :
    q.infBits ≤ mag ↔ 2 * topUnits q + lastUnit q ≤ 2 * v := by
  obtain ⟨htop, hlast, hodd⟩ := magScaled_top hq
  obtain ⟨hlo, hhi, hmag⟩ := h
  have hup := upIff_roundsUp .rne neg k (v - magScaled q k) (magGap q k)
  have hpos := infBits_pos hq
  have hinf : magScaled q q.infBits = topUnits q + lastUnit q := by
    have := magScaled_succ q (q.infBits - 1)
    rwa [Nat.sub_add_cancel hpos, htop, hlast] at this
  generalize roundsUp .rne neg k (v - magScaled q k) (magGap q k) = up at hmag hup
  rcases Nat.lt_trichotomy (k + 1) q.infBits with hk | hk | hk
  · have : magScaled q (k + 1) ≤ topUnits q := by
      rw [← htop, magScaled_le]
      omega
    cases up <;> simp only [if_true, Bool.false_eq_true, if_false] at hmag <;> omega
  · obtain rfl : k = q.infBits - 1 := by omega
    rw [htop] at hlo hup
    rw [hlast] at hup
    cases up <;> simp only [UpIff, if_true, Bool.false_eq_true, if_false] at hmag hup <;> omega
  · have : topUnits q + lastUnit q ≤ magScaled q k := by
      rw [← hinf, magScaled_le]
      omega
    cases up <;> simp only [if_true, Bool.false_eq_true, if_false] at hmag <;> omega

/-- The result is exact when the value is the magnitude at which it begins. -/
theorem exact_iff {mode : RoundMode} (h : RoundsMag q mode neg v k mag) : magScaled q mag = v ↔ v = magScaled q k := by
  obtain ⟨hlo, hhi, hmag⟩ := h
  constructor
  · intro hm
    split at hmag
    · rw [hmag] at hm
      omega
    · rw [← hm, hmag]
  · intro hv
    rw [← hv, Nat.sub_self, roundsUp_zero] at hmag
    rw [hmag, hv]
    rfl

/-- A value below b places of size w rounds to b places when it is less than half a place below them. -/
theorem carried_iff {v w b : Nat} {up : Bool} (hw : 0 < w) (hb : b % 2 = 0) (hv : v < w * b)
    (hup : UpIff .rne neg (v / w) (v % w) w up) : (if up then v / w + 1 else v / w) = b ↔ 4 * (w * b) ≤ 4 * v + 2 * w := by
  have hdm := Nat.div_add_mod v w
  have hmod := Nat.mod_lt v hw
  have hn : v / w < b := Nat.div_lt_of_lt_mul hv
  generalize v / w = n at *
  generalize v % w = r at *
  rcases Nat.lt_or_ge (n + 1) b with h | h
  · have hle : w * (n + 2) ≤ w * b := Nat.mul_le_mul_left w h
    rw [Nat.mul_add] at hle
    cases up <;> simp only [if_true, Bool.false_eq_true, if_false] <;> omega
  · obtain rfl : b = n + 1 := by omega
    rw [Nat.mul_succ] at hv ⊢
    cases up
    · simp only [UpIff, Bool.false_eq_true, if_false] at hup ⊢
      obtain ⟨hle, htie⟩ := hup
      have hne : 2 * r ≠ w := fun hr => by
        have := htie hr
        omega
      omega
    · simp only [UpIff, if_true] at hup ⊢
      exact iff_of_true trivial (by omega)

/-- A value is tiny when it is less than the least normal number by more than a quarter of the least unit (R63). -/
theorem isTiny_rne (hq : q.Fits) (neg : Bool) {m : Nat} (hm : m ≠ 0) {e : Int} (he : -500 ≤ e) :
    isTiny q .rne neg m e = decide (4 * scaled m e + 2 ^ leastExp q * 2 ^ 298 < 4 * (2 ^ (q.fb + leastExp q) * 2 ^ 298)) := by
  have hemin := emin_eq hq
  have hfb := hq.fb_le
  obtain ⟨hlo, hhi⟩ := scaled_log2 hm (show -596 ≤ e by omega)
  rw [← Nat.pow_add, ← Nat.pow_add, isTiny]
  generalize hf : e + ((Nat.log2 m : Int) + 1) - (q.fb + 1 : Nat) = free
  have hround := roundAt_eq .rne neg m (show -596 ≤ e by omega) (show -596 ≤ free by omega)
  dsimp only at hround
  have hup := upIff_roundsUp .rne neg (scaled m e / 2 ^ (free + 596).toNat) (scaled m e % 2 ^ (free + 596).toNat) (free + 596).toNat
  generalize scaled m e = v at *
  have hK := Nat.two_pow_pos (leastExp q + 298)
  have hN : 2 ^ (leastExp q + 298) ≤ 2 ^ (q.fb + leastExp q + 298) := Nat.pow_le_pow_right (by decide) (by omega)
  rw [Bool.eq_iff_iff]
  simp only [Bool.and_eq_true, Bool.not_eq_true', Bool.and_eq_false_iff, decide_eq_true_iff, decide_eq_false_iff_not]
  rcases Int.lt_trichotomy (free + 1) q.emin with h | h | h
  · have hhalf : 2 * 2 ^ (e + Nat.log2 m + 597).toNat ≤ 2 ^ (q.fb + leastExp q + 298) := by
      rw [← Nat.pow_succ']
      exact Nat.pow_le_pow_right (by decide) (by omega)
    omega
  · have hw : (free + 596).toNat = leastExp q + 297 := by omega
    have hNw : 2 ^ (q.fb + leastExp q + 298) = 2 ^ (leastExp q + 297) * 2 ^ (q.fb + 1) := by
      rw [← Nat.pow_add]
      congr 1
      omega
    have hww : 2 ^ (leastExp q + 298) = 2 * 2 ^ (leastExp q + 297) := Nat.pow_succ'
    have hlt : v < 2 ^ (q.fb + leastExp q + 298) := Nat.lt_of_lt_of_le hhi (Nat.pow_le_pow_right (by decide) (by omega))
    have htiny := carried_iff (v := v) (w := 2 ^ (leastExp q + 297)) (b := 2 ^ (q.fb + 1)) (Nat.two_pow_pos _)
      (by rw [Nat.pow_succ, Nat.mul_mod_left]) (hNw ▸ hlt) (hw ▸ hup)
    rw [hround, hw, hNw, hww]
    dsimp only
    omega
  · have hle : 2 ^ (q.fb + leastExp q + 298) ≤ v :=
      Nat.le_trans (Nat.pow_le_pow_right (by decide) (by omega)) hlo
    omega

/-- A rounding to nearest of a magnitude, as the result of the vector unit. -/
theorem roundedRne_of_roundsMag (hq : q.Fits) (h : RoundsMag q .rne neg v k mag) {tiny : Bool}
    (ht : v ≠ 0 → tiny = decide (4 * v + 2 ^ leastExp q * 2 ^ 298 < 4 * (2 ^ (q.fb + leastExp q) * 2 ^ 298))) :
    RoundedRne q (withSign neg v) ((roundedOf q .rne neg mag tiny (decide (v ≠ magScaled q k))).bits,
      (roundedOf q .rne neg mag tiny (decide (v ≠ magScaled q k))).flags) := by
  have hover := overflow_rne_iff hq h
  have habs : (withSign neg v).natAbs = v := by
    rw [withSign]
    split <;> simp
  rw [RoundedRne, habs]
  by_cases hov : q.infBits ≤ mag
  · have hge := hover.mp hov
    rw [if_neg (Nat.not_lt.mpr hge), roundedOf, if_pos hov]
    have hpos : 0 < v := by
      have : 0 < lastUnit q := Nat.mul_pos (Nat.two_pow_pos _) (Nat.two_pow_pos _)
      omega
    have hsign : withSign neg v < 0 ↔ neg = true := by
      cases neg <;> simp [withSign]
      omega
    have hinf : overflowBits q .rne neg = (if withSign neg v < 0 then q.signBit else 0) + (2 ^ q.eb - 1) * 2 ^ q.fb := by
      cases neg <;> simp [overflowBits, signed, hsign, FloatFmt.infBits]
    rw [← hinf]
    rfl
  · have hlt := Nat.not_le.mp (hover.not.mp hov)
    rw [if_pos hlt, roundedOf, if_neg hov]
    have hfin := Nat.not_le.mp hov
    refine ⟨floatPicks_of_roundsMag hq h hfin, rfl, rfl, ?_⟩
    have hinex : floatUnits q (signed q neg mag) * 2 ^ 298 ≠ withSign neg v ↔ v ≠ magScaled q k := by
      rw [scaled_signed hfin, ne_eq, ne_eq, ← exact_iff h]
      cases neg <;> simp [withSign]
    rw [hinex]
    simp only [Rounded.flags, Bool.and_eq_true, decide_eq_true_eq]
    by_cases hv : v = 0
    · have : v = magScaled q k := by
        have := h.lo
        omega
      simp [this]
    · rw [ht hv, decide_eq_true_eq, and_comm]

/-- A value rounded to nearest is the result of the vector unit for its number of units. -/
theorem roundedRne_roundVal (hq : q.Fits) (neg : Bool) (m : Nat) {e : Int} (he : -500 ≤ e) :
    RoundedRne q (withSign neg (scaled m e)) (roundVal q (.fin neg m e)) := by
  obtain ⟨k, mag, hR, heq⟩ := roundFin_eq hq .rne neg m (show -596 ≤ e by omega)
  rw [roundVal]
  rw [heq]
  refine roundedRne_of_roundsMag hq hR fun hv => isTiny_rne hq neg (fun hm => hv ?_) he
  rw [hm, scaled, Nat.zero_mul]

end

end Sys2Proof.Machine

namespace Sys2Proof.Machine
open Sys2Proof

/-! ### The value of an encoding (R49) -/

section
variable {q : FloatFmt} {x y : Nat}

theorem value_eq (q : FloatFmt) (x : Nat) : q.value x =
    if expOf q x = 2 ^ q.eb - 1 then
      if fracOf q x = 0 then .inf (signOf q x) else .nan (fracOf q x / 2 ^ (q.fb - 1) % 2 == 0)
    else .fin (signOf q x) (magSig q (magOf q x)) (q.emin + magPlace q (magOf q x)) := by
  have hsign : (x / 2 ^ (q.fb + q.eb) % 2 == 1) = signOf q x := by
    rw [signOf_eq, FloatFmt.signBit, Nat.add_comm]
  rw [FloatFmt.value, magSig, magPlace, ← expOf_eq, ← fracOf_eq]
  simp only [hsign]
  change (if expOf q x = _ then (if fracOf q x = 0 then _ else _) else if expOf q x = 0 then _ else _) = _
  split
  · rfl
  · by_cases h : expOf q x = 0
    · simp [h]
      rfl
    · have : (expOf q x : Int) - 1 = (expOf q x - 1 : Nat) := by omega
      simp only [h, if_false, Int.add_sub_assoc]
      rw [← this]
      rfl

theorem value_finite (h : isFinite q x = true) :
    q.value x = .fin (signOf q x) (magSig q (magOf q x)) (q.emin + magPlace q (magOf q x)) := by
  rw [value_eq, if_neg (of_decide_eq_true h)]

theorem isFinite_false (h : isFinite q x = false) : expOf q x = 2 ^ q.eb - 1 := by
  simpa [isFinite] using h

theorem value_inf (h : isInf q x = true) : q.value x = .inf (signOf q x) := by
  simp only [isInf, Bool.and_eq_true, Bool.not_eq_true', decide_eq_true_eq] at h
  rw [value_eq, if_pos (isFinite_false h.1), if_pos h.2]

theorem value_nan (hq : q.Fits) (h : isNaN q x = true) : q.value x = .nan (isSignalling q x) := by
  have hn := h
  simp only [isNaN, Bool.and_eq_true, Bool.not_eq_true', decide_eq_true_eq] at h
  rw [value_eq, if_pos (isFinite_false h.1), if_neg h.2, isSignalling, hn, Bool.true_and, Nat.testBit_eq_decide_div_mod_eq]
  have hbit : fracOf q x / 2 ^ (q.fb - 1) % 2 = x / 2 ^ (q.fb - 1) % 2 := by
    obtain ⟨n, hn⟩ := Nat.exists_eq_add_of_le' hq.fb
    rw [fracOf, hn, Nat.add_sub_cancel, Nat.pow_succ, Nat.mod_mul_right_div_self, Nat.mod_mod]
  rw [hbit]
  rcases Nat.mod_two_eq_zero_or_one (x / 2 ^ (q.fb - 1)) with e | e <;> simp [e]

/-- An encoding is a finite number, an infinity or a NaN. -/
theorem encoding_cases (q : FloatFmt) (x : Nat) :
    isFinite q x = true ∨ (isFinite q x = false ∧ isInf q x = true) ∨ (isFinite q x = false ∧ isInf q x = false ∧ isNaN q x = true) := by
  simp only [isInf, isNaN]
  cases isFinite q x <;> by_cases h : fracOf q x = 0 <;> simp [h]

theorem isInf_of_finite (h : isFinite q x = true) : isInf q x = false := by simp [isInf, h]
theorem isNaN_of_finite (h : isFinite q x = true) : isNaN q x = false := by simp [isNaN, h]
theorem isNaN_of_inf (h : isInf q x = true) : isNaN q x = false := by
  simp only [isInf, Bool.and_eq_true, decide_eq_true_eq] at h
  simp [isNaN, h.2]
theorem isSignalling_of_not_nan (h : isNaN q x = false) : isSignalling q x = false := by simp [isSignalling, h]

theorem quietNaN_eq (q : FloatFmt) : quietNaN q = q.nan := rfl

/-! ### Exact values in units -/

/-- A finite value in units of 2^−596. -/
def FVal.units : FVal → Int
  | .fin n m e => withSign n (scaled m e)
  | _ => 0

theorem units_value (hq : q.Fits) (h : isFinite q x = true) : (q.value x).units = floatUnits q x * 2 ^ 298 := by
  have he := emin_eq hq
  rw [value_finite h, FVal.units, floatUnits_scaled, scaled, magScaled, magUnits, Nat.mul_assoc, ← Nat.pow_add]
  congr 4
  omega

end

end Sys2Proof.Machine

namespace Sys2Proof.Machine
open Sys2Proof

/-! ### Comparison by value (R194, R196) -/

theorem scaled_eq_zero {m : Nat} {e : Int} : scaled m e = 0 ↔ m = 0 := by
  simp [scaled]

theorem ltMag_eq (m1 m2 : Nat) {e1 e2 : Int} (h1 : -596 ≤ e1) (h2 : -596 ≤ e2) :
    ltMag m1 e1 m2 e2 = decide (scaled m1 e1 < scaled m2 e2) := by
  have split (e : Int) (h : min e1 e2 ≤ e) : (e + 596).toNat = (e - min e1 e2).toNat + (min e1 e2 + 596).toNat := by omega
  rw [ltMag, scaled, scaled, split e1 (by omega), split e2 (by omega), Nat.pow_add, Nat.pow_add, ← Nat.mul_assoc, ← Nat.mul_assoc]
  congr 1
  exact propext (Nat.mul_lt_mul_right (Nat.two_pow_pos _)).symm

theorem ltV_fin (n1 n2 : Bool) (m1 m2 : Nat) {e1 e2 : Int} (h1 : -596 ≤ e1) (h2 : -596 ≤ e2) :
    ltV (.fin n1 m1 e1) (.fin n2 m2 e2) = decide (withSign n1 (scaled m1 e1) < withSign n2 (scaled m2 e2)) := by
  have z1 := scaled_eq_zero (m := m1) (e := e1)
  have z2 := scaled_eq_zero (m := m2) (e := e2)
  cases n1 <;> cases n2 <;> simp only [ltV, ltMag_eq _ _ h1 h2, ltMag_eq _ _ h2 h1, withSign, if_true, Bool.false_eq_true, if_false]
  · congr 1
    exact propext (by omega)
  · exact (decide_eq_false (by omega)).symm
  · rw [Bool.eq_iff_iff]
    simp only [Bool.not_eq_true', Bool.and_eq_false_iff, beq_eq_false_iff_ne, decide_eq_true_eq]
    omega
  · congr 1
    exact propext (by omega)

section
variable {q : FloatFmt} {x y : Nat}

/-- The order of the encodings that are no NaN, the infinities beyond every number. -/
def orderUnits (q : FloatFmt) (x : Nat) : Int :=
  if isInf q x then (if signOf q x then -(2 ^ 600 : Int) else 2 ^ 600) else floatUnits q x

theorem magUnits_lt (hq : q.Fits) {k : Nat} (h : k < q.infBits) : magUnits q k < 2 ^ 600 := by
  obtain ⟨-, hsig, -⟩ := magSig_add_place q k
  have hplace : magPlace q k ≤ 2 ^ q.eb - 3 := by
    have := (Nat.div_lt_iff_lt_mul (Nat.two_pow_pos _)).mpr h
    rw [magPlace]
    omega
  have heb := two_pow_eb hq
  have hleast := hq.least
  have hpos := Nat.two_pow_pos (q.eb - 1)
  calc magUnits q k < 2 ^ (q.fb + 1) * 2 ^ (leastExp q + magPlace q k) := Nat.mul_lt_mul_of_pos_right hsig (Nat.two_pow_pos _)
    _ = 2 ^ (q.fb + 1 + (leastExp q + magPlace q k)) := (Nat.pow_add ..).symm
    _ ≤ 2 ^ 600 := Nat.pow_le_pow_right (by decide) (by rw [leastExp]; omega)

theorem orderUnits_finite (hq : q.Fits) (h : isFinite q x = true) :
    orderUnits q x = withSign (signOf q x) (magUnits q (magOf q x)) ∧ magUnits q (magOf q x) < 2 ^ 600 := by
  refine ⟨?_, magUnits_lt hq (isFinite_iff.mp h)⟩
  rw [orderUnits, if_neg (by simp [isInf_of_finite h]), floatUnits_eq, withSign]
  cases signOf q x <;> simp

theorem orderUnits_inf (h : isInf q x = true) : orderUnits q x = withSign (signOf q x) (2 ^ 600) := by
  rw [orderUnits, if_pos h, withSign, Int.natCast_pow]
  rfl

theorem ltV_value (hq : q.Fits) (hx : isNaN q x = false) (hy : isNaN q y = false) :
    ltV (q.value x) (q.value y) = decide (orderUnits q x < orderUnits q y) := by
  have he := emin_eq hq
  have hpos : (0 : Int) < 2 ^ 298 := Int.pow_pos (by decide)
  rcases encoding_cases q x with hfx | ⟨-, hix⟩ | ⟨-, -, hnx⟩
  case inr.inr => rw [hnx] at hx; cases hx
  all_goals
    rcases encoding_cases q y with hfy | ⟨-, hiy⟩ | ⟨-, -, hny⟩
    case inr.inr => rw [hny] at hy; cases hy
  · have hux := units_value hq hfx
    have huy := units_value hq hfy
    rw [orderUnits, orderUnits, isInf_of_finite hfx, isInf_of_finite hfy, if_neg Bool.false_ne_true, if_neg Bool.false_ne_true]
    rw [value_finite hfx] at hux ⊢
    rw [value_finite hfy] at huy ⊢
    rw [ltV_fin _ _ _ _ (by omega) (by omega)]
    rw [FVal.units] at hux huy
    rw [hux, huy]
    congr 1
    exact propext (Int.mul_lt_mul_right hpos)
  · obtain ⟨hox, hlt⟩ := orderUnits_finite hq hfx
    rw [value_finite hfx, value_inf hiy, hox, orderUnits_inf hiy]
    generalize 2 ^ 600 = b at hlt ⊢
    cases signOf q x <;> cases signOf q y <;> simp [ltV, withSign] <;> omega
  · obtain ⟨hoy, hlt⟩ := orderUnits_finite hq hfy
    rw [value_finite hfy, value_inf hix, hoy, orderUnits_inf hix]
    generalize 2 ^ 600 = b at hlt ⊢
    cases signOf q x <;> cases signOf q y <;> simp [ltV, withSign] <;> omega
  · rw [value_inf hix, value_inf hiy, orderUnits_inf hix, orderUnits_inf hiy]
    have hb := Nat.two_pow_pos 600
    generalize 2 ^ 600 = b at hb ⊢
    cases signOf q x <;> cases signOf q y <;> simp [ltV, withSign] <;> omega

@[simp] theorem value_isNan (q : FloatFmt) (x : Nat) : (q.value x).isNan = isNaN q x := by
  rcases encoding_cases q x with h | ⟨-, h⟩ | ⟨hf, -, h⟩
  · rw [value_finite h, isNaN_of_finite h]
    rfl
  · rw [value_inf h, isNaN_of_inf h]
    rfl
  · rw [h]
    simp only [isNaN, hf, Bool.not_false, Bool.true_and, decide_eq_true_eq] at h
    rw [value_eq, if_pos (isFinite_false hf), if_neg h]
    rfl

theorem value_isSig (hq : q.Fits) (x : Nat) : (q.value x).isSig = isSignalling q x := by
  rcases encoding_cases q x with h | ⟨-, h⟩ | ⟨-, -, h⟩
  · rw [value_finite h, isSignalling_of_not_nan (isNaN_of_finite h)]
    rfl
  · rw [value_inf h, isSignalling_of_not_nan (isNaN_of_inf h)]
    rfl
  · rw [value_nan hq h]
    rfl

theorem value_neg (h : isNaN q x = false) : (q.value x).neg? = signOf q x := by
  rcases encoding_cases q x with hf | ⟨-, hi⟩ | ⟨-, -, hn⟩
  · rw [value_finite hf]
    rfl
  · rw [value_inf hi]
    rfl
  · rw [hn] at h
    cases h

theorem eqV_value (hq : q.Fits) (hx : isNaN q x = false) (hy : isNaN q y = false) :
    eqV (q.value x) (q.value y) = decide (orderUnits q x = orderUnits q y) := by
  rw [eqV, value_isNan, value_isNan, hx, hy, ltV_value hq hx hy, ltV_value hq hy hx, Bool.eq_iff_iff]
  simp only [Bool.not_false, Bool.true_and, Bool.and_eq_true, Bool.not_eq_true', decide_eq_false_iff_not, decide_eq_true_eq]
  omega

/-- An encoding is its sign and its place in the order. -/
theorem orderUnits_inj (hq : q.Fits) (hx : isNaN q x = false) (hy : isNaN q y = false) (hlx : x < 2 * q.signBit)
    (hly : y < 2 * q.signBit) (hs : signOf q x = signOf q y) (h : orderUnits q x = orderUnits q y) : x = y := by
  have hmag : magOf q x = magOf q y := by
    have hinf (z : Nat) (hz : isInf q z = true) : magOf q z = q.infBits := by
      simp only [isInf, Bool.and_eq_true, Bool.not_eq_true', decide_eq_true_eq] at hz
      have he := isFinite_false hz.1
      have hm := Nat.div_add_mod (magOf q z) (2 ^ q.fb)
      rw [← expOf_eq, ← fracOf_eq, he, hz.2] at hm
      rw [← hm, FloatFmt.infBits, Nat.add_zero, Nat.mul_comm]
    rcases encoding_cases q x with hfx | ⟨-, hix⟩ | ⟨-, -, hnx⟩
    case inr.inr => rw [hnx] at hx; cases hx
    all_goals
      rcases encoding_cases q y with hfy | ⟨-, hiy⟩ | ⟨-, -, hny⟩
      case inr.inr => rw [hny] at hy; cases hy
    · have ox := (orderUnits_finite hq hfx).1
      have oy := (orderUnits_finite hq hfy).1
      refine (magUnits_strictMono q).injective ?_
      rw [ox, oy, hs, withSign, withSign] at h
      split at h <;> omega
    · obtain ⟨ox, hlt⟩ := orderUnits_finite hq hfx
      have oy := orderUnits_inf hiy
      rw [ox, oy, hs, withSign, withSign] at h
      generalize 2 ^ 600 = b at h hlt
      split at h <;> omega
    · obtain ⟨oy, hlt⟩ := orderUnits_finite hq hfy
      have ox := orderUnits_inf hix
      rw [ox, oy, hs, withSign, withSign] at h
      generalize 2 ^ 600 = b at h hlt
      split at h <;> omega
    · rw [hinf x hix, hinf y hiy]
  rw [← signed_magOf hlx, ← signed_magOf hly, hs, hmag]

theorem two_signBit_mod (h : x < 2 * q.signBit) : x % (2 * q.signBit) = x := Nat.mod_eq_of_lt h

theorem flagInv_false : flagInv false = noFlags := rfl

/-- The minimum, maximum and comparisons with a NaN operand. -/
theorem compare_nan (hq : q.Fits) (h : isNaN q x = true ∨ isNaN q y = true) :
    fMin q x y = (quietNaN q, flagInv (isSignalling q x || isSignalling q y)) ∧
      fMax q x y = (quietNaN q, flagInv (isSignalling q x || isSignalling q y)) ∧
      ∀ c, fCmp q c x y = (decide (c = .ne), flagInv (isSignalling q x || isSignalling q y)) := by
  have hnan : ((q.value x).isNan || (q.value y).isNan) = true := by simpa using h
  have hlt : ltV (q.value x) (q.value y) = false := by
    rcases h with h | h
    · rw [value_nan hq h]; rfl
    · rw [value_nan hq h]
      cases q.value x <;> rfl
  have heq : eqV (q.value x) (q.value y) = false := by
    rw [eqV, ← Bool.not_or, hnan]
    rfl
  refine ⟨?_, ?_, fun c => ?_⟩
  · rw [fMin, if_pos hnan, value_isSig hq, value_isSig hq, quietNaN_eq]
  · rw [fMax, if_pos hnan, value_isSig hq, value_isSig hq, quietNaN_eq]
  · cases c <;> simp only [fCmp, value_isSig hq, hnan, hlt, heq] <;> rfl

/-- Two conditions for the left one of two encodings pick the same when they differ for equal encodings at most. -/
theorem pick_eq {x y : Nat} {a b : Bool} {c : Prop} [Decidable c] (hne : x ≠ y → (a || b) = !decide c) :
    (if (a || b) = true then (x, noFlags) else (y, noFlags)) = (if c then y else x, noFlags) := by
  by_cases hxy : x = y
  · subst hxy
    simp
  · rw [hne hxy]
    by_cases hc : c <;> simp [hc]

/-- Whether a minimum and a maximum keep the left operand, the sign deciding between zeros. -/
theorem keepsLeft_min {a b : Int} {s t : Bool} (h : s = t → a ≠ b) :
    (decide (a < b) || (decide (a = b) && s)) = !decide (b < a ∨ (b = a ∧ t = true ∧ s = false)) := by
  rcases lt_trichotomy a b with hab | rfl | hab
  · simp [hab, hab.ne', hab.not_gt]
  · cases s <;> cases t <;> simp at h ⊢
  · simp [hab, hab.ne', hab.not_gt]

theorem keepsLeft_max {a b : Int} {s t : Bool} (h : s = t → a ≠ b) :
    (decide (b < a) || (decide (a = b) && !s)) = !decide (a < b ∨ (a = b ∧ s = true ∧ t = false)) := by
  rcases lt_trichotomy a b with hab | rfl | hab
  · simp [hab, hab.ne, hab.not_gt]
  · cases s <;> cases t <;> simp at h ⊢
  · simp [hab, hab.ne', hab.not_gt]

/-- The minimum, maximum and comparisons of numbers and infinities, by value. -/
theorem compare_numbers (hq : q.Fits) (hlx : x < 2 * q.signBit) (hly : y < 2 * q.signBit) (hx : isNaN q x = false)
    (hy : isNaN q y = false) :
    let v := orderUnits q
    (fMin q x y = (if v y < v x ∨ (v y = v x ∧ signOf q y = true ∧ signOf q x = false) then y else x, noFlags)) ∧
      (fMax q x y = (if v x < v y ∨ (v x = v y ∧ signOf q x = true ∧ signOf q y = false) then y else x, noFlags)) ∧
      fCmp q .eq x y = (decide (v x = v y), noFlags) ∧ fCmp q .ne x y = (decide (v x ≠ v y), noFlags) ∧
      fCmp q .lt x y = (decide (v x < v y), noFlags) ∧ fCmp q .ge x y = (decide (v y ≤ v x), noFlags) := by
  have hinj := orderUnits_inj hq hx hy hlx hly
  have hlt := ltV_value hq hx hy
  have hgt := ltV_value hq hy hx
  have heq := eqV_value hq hx hy
  have hsx := isSignalling_of_not_nan hx
  have hsy := isSignalling_of_not_nan hy
  dsimp only
  refine ⟨?_, ?_, ?_, ?_, ?_, ?_⟩
  · rw [fMin, value_isNan, value_isNan, hx, hy, hlt, heq, value_neg hx, two_signBit_mod hlx, two_signBit_mod hly,
      Bool.or_false, if_neg Bool.false_ne_true]
    refine pick_eq fun hne => ?_
    exact keepsLeft_min fun hs hv => hne (hinj hs hv)
  · rw [fMax, value_isNan, value_isNan, hx, hy, hgt, heq, value_neg hx, two_signBit_mod hlx, two_signBit_mod hly,
      Bool.or_false, if_neg Bool.false_ne_true]
    refine pick_eq fun hne => ?_
    exact keepsLeft_max fun hs hv => hne (hinj hs hv)
  all_goals
    simp only [fCmp, value_isNan, hx, hy, value_isSig hq, hsx, hsy, hlt, heq, Bool.or_false, Bool.not_false, Bool.true_and,
      Bool.false_or, flagInv_false, Prod.mk.injEq, and_true]
  · exact (decide_not ..).symm
  · rw [← decide_not]
    congr 1
    exact propext Int.not_lt

end

end Sys2Proof.Machine

namespace Sys2Proof.Machine
open Sys2Proof

/-! ### Functions of one element (R199) -/

section
variable {q : FloatFmt} {x : Nat}

theorem magOf_of_lt (h : x < 2 * q.signBit) : magOf q x = if signOf q x then x - q.signBit else x := by
  have hs := signed_magOf h
  rw [signed] at hs
  split at hs
  case isTrue hn => rw [if_pos hn]; omega
  case isFalse hn => rw [if_neg hn, hs]

theorem signOf_add (h : x < 2 * q.signBit) : q.signBit ≤ x ↔ signOf q x = true := by
  have hs := signed_magOf h
  have hl := magOf_lt q x
  rw [signed] at hs
  split at hs
  case isTrue hn => exact iff_of_true (by omega) hn
  case isFalse hn => exact iff_of_false (by omega) hn

theorem magOf_infBits (q : FloatFmt) : magOf q q.infBits = q.infBits := Nat.mod_eq_of_lt (infBits_lt_signBit q)

theorem isInf_iff : isInf q x = true ↔ magOf q x = q.infBits := by
  have hm := Nat.div_add_mod (magOf q x) (2 ^ q.fb)
  have hp := Nat.two_pow_pos q.fb
  simp only [isInf, Bool.and_eq_true, Bool.not_eq_true', decide_eq_true_eq, isFinite, decide_eq_false_iff_not, not_not]
  rw [expOf_eq, fracOf_eq, FloatFmt.infBits, Nat.mul_comm _ (2 ^ q.fb)]
  constructor
  · rintro ⟨he, hf⟩
    rw [← hm, he, hf, Nat.add_zero]
  · intro h
    rw [h, Nat.mul_div_cancel_left _ hp, Nat.mul_mod_right]
    exact ⟨rfl, rfl⟩

theorem value_signed_infBits (q : FloatFmt) (neg : Bool) : q.value (signed q neg q.infBits) = .inf neg := by
  have h := infBits_lt_signBit q
  rw [value_inf (isInf_iff.mpr (magOf_signed h)), signOf_signed h]

/-- The functions of one element of a NaN. -/
theorem unary_nan (hq : q.Fits) (h : isNaN q x = true) :
    ∀ g ∈ [fNeg q, fAbs q, fSqrt q, fFloor q], g x = (quietNaN q, flagInv (isSignalling q x)) := by
  have hv := value_nan hq h
  intro g hg
  simp only [List.mem_cons, List.not_mem_nil, or_false] at hg
  rcases hg with rfl | rfl | rfl | rfl
  · simp only [fNeg, hv]; rfl
  · simp only [fAbs, hv]; rfl
  · simp only [fSqrt, hv]; rfl
  · simp only [fFloor, hv]; rfl

/-- The negation and the absolute value of a number or an infinity change its sign only. -/
theorem fNeg_eq (h : x < 2 * q.signBit) (hx : isNaN q x = false) :
    fNeg q x = (if signOf q x then x - q.signBit else x + q.signBit, noFlags) := by
  have hval : fNeg q x = (signed q (!signOf q x) (magOf q x), noFlags) := by
    rw [← value_neg hx, fNeg]
    have := value_isNan q x
    rw [hx] at this
    cases hv : q.value x <;> simp only [hv] at this ⊢
    case nan => cases this
    all_goals rfl
  rw [hval, magOf_of_lt h, signed]
  cases signOf q x <;> simp [Nat.add_comm]

theorem fAbs_eq (h : x < 2 * q.signBit) (hx : isNaN q x = false) :
    fAbs q x = (if signOf q x then x - q.signBit else x, noFlags) := by
  rw [← magOf_of_lt h, fAbs]
  have := value_isNan q x
  rw [hx] at this
  cases hv : q.value x <;> simp only [hv] at this ⊢
  case nan => cases this
  all_goals rfl

theorem magSig_eq_zero {k : Nat} : magSig q k = 0 ↔ k = 0 := by
  constructor
  · intro h
    obtain ⟨hk, -, hd⟩ := magSig_add_place q k
    have := Nat.two_pow_pos q.fb
    have h0 : magPlace q k = 0 := by omega
    rw [hk, h, h0, Nat.zero_mul]
  · rintro rfl
    simp [magSig]

/-- A number of magnitude 0 is its sign. -/
theorem signed_zero_of_magSig (h : x < 2 * q.signBit) (hm : magSig q (magOf q x) = 0) : signed q (signOf q x) 0 = x := by
  rw [← magSig_eq_zero.mp hm]
  exact signed_magOf h

theorem orderUnits_eq_zero (h : orderUnits q x = 0) : isInf q x = false ∧ magOf q x = 0 := by
  have hp := Nat.two_pow_pos 600
  cases hi : isInf q x
  · rw [orderUnits, hi, if_neg Bool.false_ne_true, floatUnits_eq] at h
    refine ⟨rfl, (magUnits_strictMono q).injective ?_⟩
    rw [magUnits_zero]
    split at h <;> omega
  · rw [orderUnits_inf hi, withSign] at h
    generalize 2 ^ 600 = b at h hp
    split at h <;> omega

theorem orderUnits_neg (h : orderUnits q x < 0) : signOf q x = true ∧ (isInf q x = true ∨ magOf q x ≠ 0) := by
  cases hi : isInf q x
  · rw [orderUnits, hi, if_neg Bool.false_ne_true, floatUnits_eq] at h
    cases hs : signOf q x <;> rw [hs] at h
    · rw [if_neg Bool.false_ne_true] at h
      omega
    · refine ⟨rfl, .inr fun h0 => ?_⟩
      rw [h0, magUnits_zero] at h
      simp at h
  · rw [orderUnits_inf hi, withSign] at h
    cases hs : signOf q x <;> rw [hs] at h
    · rw [if_neg Bool.false_ne_true] at h
      exact absurd h (Int.not_lt.mpr (Int.natCast_nonneg _))
    · exact ⟨rfl, .inl rfl⟩

/-- The square root of a zero is that zero; of a number or an infinity below 0, invalid; of an infinity above, that infinity. -/
theorem fSqrt_zero (h : x < 2 * q.signBit) (hx : isNaN q x = false) (h0 : orderUnits q x = 0) : fSqrt q x = (x, noFlags) := by
  obtain ⟨hi, hm⟩ := orderUnits_eq_zero h0
  rcases encoding_cases q x with hf | ⟨-, hi'⟩ | ⟨-, -, hn⟩
  · have hs : magSig q (magOf q x) = 0 := magSig_eq_zero.mpr hm
    simp only [fSqrt, value_finite hf, hs, if_true, signed_zero_of_magSig h hs]
  · rw [hi] at hi'; cases hi'
  · rw [hx] at hn; cases hn

theorem fSqrt_negative (hx : isNaN q x = false) (h0 : orderUnits q x < 0) : fSqrt q x = (quietNaN q, flagInv true) := by
  obtain ⟨hs, hm⟩ := orderUnits_neg h0
  rcases encoding_cases q x with hf | ⟨-, hi⟩ | ⟨-, -, hn⟩
  · have hm := hm.resolve_left (by simp [isInf_of_finite hf])
    simp only [fSqrt, value_finite hf, hs, magSig_eq_zero, hm, if_false, if_true]
    rfl
  · simp only [fSqrt, value_inf hi, hs]
    rfl
  · rw [hx] at hn; cases hn

theorem infinity_eq (h : x < 2 * q.signBit) (hi : isInf q x = true) : signed q (signOf q x) q.infBits = x := by
  rw [← isInf_iff.mp hi]
  exact signed_magOf h

theorem fSqrt_inf (h : x < 2 * q.signBit) (hi : isInf q x = true) (hs : signOf q x = false) : fSqrt q x = (x, noFlags) := by
  have := infinity_eq h hi
  simp only [fSqrt, value_inf hi]
  rw [hs] at this ⊢
  exact congrArg (·, noFlags) this

theorem fFloor_inf (h : x < 2 * q.signBit) (hi : isInf q x = true) : fFloor q x = (x, noFlags) := by
  simp only [fFloor, value_inf hi, infinity_eq h hi]

/-! ### Exact results -/

/-- A value that is a number of the layout is that number. -/
theorem roundFin_exact (hq : q.Fits) (mode : RoundMode) (neg : Bool) {m : Nat} {e : Int} (he : -596 ≤ e) {k : Nat}
    (hv : scaled m e = magScaled q k) (hk : k < q.infBits) :
    roundFin q mode neg m e = ⟨signed q neg k, false, false, false⟩ := by
  obtain ⟨k', mag, hR, heq⟩ := roundFin_eq hq mode neg m he
  have hexact := exact_iff hR
  obtain ⟨hlo, hhi, -⟩ := hR
  have hlo' := magScaled_le.mp (hv ▸ hlo)
  have hhi' := Nat.not_le.mp (fun h => Nat.not_le.mpr (hv ▸ hhi) (magScaled_le.mpr h))
  obtain rfl : k' = k := by omega
  have hmag := hexact.mpr hv
  obtain rfl : mag = k' := Nat.le_antisymm (magScaled_le.mp (hmag.trans hv).le) (magScaled_le.mp (hmag.trans hv).ge)
  rw [heq, roundedOf, if_neg (Nat.not_le.mpr hk), hv]
  simp

/-- Every significand at a place not below the least is a magnitude. -/
theorem exists_magUnits (d : Nat) : ∀ n, n < 2 ^ (q.fb + 1) → ∃ k, magUnits q k = n * 2 ^ (leastExp q + d) := by
  induction d with
  | zero =>
    intro n hn
    obtain ⟨hs, hp⟩ := magSig_place (q := q) (d := 0) hn (.inr rfl)
    exact ⟨_, by rw [magUnits, hs, hp]⟩
  | succ d ih =>
    intro n hn
    rcases Nat.lt_or_ge n (2 ^ q.fb) with h | h
    · obtain ⟨k, hk⟩ := ih (2 * n) (by rw [Nat.pow_succ]; omega)
      refine ⟨k, hk.trans ?_⟩
      rw [← Nat.add_assoc, Nat.pow_succ]
      ring
    · obtain ⟨hs, hp⟩ := magSig_place (q := q) (d := d + 1) hn (.inl h)
      exact ⟨_, by rw [magUnits, hs, hp]⟩

theorem two_le_bias (hq : q.Fits) : 2 ≤ 2 ^ (q.eb - 1) := by
  have := hq.eb
  exact Nat.pow_le_pow_right (n := 2) (i := 1) (j := q.eb - 1) (by decide) (by omega)

theorem leastExp_le (hq : q.Fits) : leastExp q ≤ 298 := by
  have := two_le_bias hq
  rw [leastExp]
  omega

theorem magUnits_infBits (hq : q.Fits) : magUnits q q.infBits = 2 ^ q.fb * 2 ^ (298 + (2 ^ (q.eb - 1) - q.fb)) := by
  have heb := two_pow_eb hq
  have hle := hq.least
  have hfb := hq.fb_lt
  obtain ⟨hs, hp⟩ := magSig_place (q := q) (n := 2 ^ q.fb) (d := 2 ^ q.eb - 2)
    (Nat.pow_lt_pow_right (by decide) (Nat.lt_succ_self _)) (.inl (Nat.le_refl _))
  have hk : 2 ^ q.fb + (2 ^ q.eb - 2) * 2 ^ q.fb = q.infBits := by
    rw [FloatFmt.infBits, show 2 ^ q.eb - 1 = (2 ^ q.eb - 2) + 1 by omega, Nat.succ_mul, Nat.add_comm]
  rw [hk] at hs hp
  rw [magUnits, hs, hp, leastExp]
  congr 2
  omega

/-- Every integer up to 2^fb is a finite magnitude. -/
theorem integer_magnitude (hq : q.Fits) {n : Nat} (hn : n ≤ 2 ^ q.fb) :
    ∃ k, k < q.infBits ∧ magUnits q k = n * 2 ^ 298 := by
  have hfb := hq.fb_lt
  obtain ⟨k, hk⟩ := exists_magUnits (q := q) (298 - leastExp q) n (by rw [Nat.pow_succ]; have := Nat.two_pow_pos q.fb; omega)
  rw [Nat.add_sub_cancel' (leastExp_le hq)] at hk
  refine ⟨k, (magUnits_strictMono q).lt_iff_lt.mp ?_, hk⟩
  rw [hk, magUnits_infBits hq]
  calc n * 2 ^ 298 ≤ 2 ^ q.fb * 2 ^ 298 := Nat.mul_le_mul_right _ hn
    _ < _ := Nat.mul_lt_mul_of_pos_left (Nat.pow_lt_pow_right (by decide) (by omega)) (Nat.two_pow_pos _)

/-! ### The floor (R199) -/

/-- The integer below a number given by its sign and its magnitude. -/
theorem withSign_ediv (neg : Bool) (n s : Nat) :
    withSign neg n / ((2 ^ s : Nat) : Int) =
      withSign neg (if roundsUp .rdn neg (n / 2 ^ s) (n % 2 ^ s) s = true then n / 2 ^ s + 1 else n / 2 ^ s) := by
  have hw := Nat.two_pow_pos s
  have hdm := Nat.div_add_mod n (2 ^ s)
  have hmod := Nat.mod_lt n hw
  rw [roundsUp]
  generalize 2 ^ s = w at *
  cases neg
  · simp [withSign]
  · simp only [withSign, if_true, Bool.true_and, decide_eq_true_eq]
    refine Int.ediv_eq_iff_of_pos (by omega) |>.mpr ?_
    generalize n / w = k at hdm ⊢
    generalize n % w = r at hdm hmod ⊢
    subst hdm
    have hkw : (k : Int) * w = w * k := Int.mul_comm ..
    split <;> push_cast <;> rw [Int.neg_mul] <;> simp only [Int.add_mul, hkw] <;> omega

/-- A number without a fraction is its own floor. -/
theorem fFloor_of_integer (h : x < 2 * q.signBit) (hf : isFinite q x = true)
    (he : magOf q x = 0 ∨ 0 ≤ q.emin + magPlace q (magOf q x)) : fFloor q x = (x, noFlags) := by
  by_cases hm : magSig q (magOf q x) = 0
  · simp only [fFloor, value_finite hf, hm, if_true, signed_zero_of_magSig h hm]
  · have he := he.resolve_left (fun h0 => hm (magSig_eq_zero.mpr h0))
    simp only [fFloor, value_finite hf, hm, if_false, ge_iff_le, he, if_true, Nat.mod_eq_of_lt h]

theorem floatUnits_withSign (q : FloatFmt) (x : Nat) :
    floatUnits q x = withSign (signOf q x) (magUnits q (magOf q x)) := by
  rw [floatUnits_eq, withSign]
  cases signOf q x <;> simp

theorem scaled_value (hq : q.Fits) (x : Nat) :
    scaled (magSig q (magOf q x)) (q.emin + magPlace q (magOf q x)) = magUnits q (magOf q x) * 2 ^ 298 := by
  have hemin := emin_eq hq
  rw [scaled, magUnits, Nat.mul_assoc, ← Nat.pow_add]
  congr 2
  omega

/-- The rounding of the magnitude of a number to an integer. -/
theorem roundAt_units (hq : q.Fits) (mode : RoundMode) (neg : Bool) (x : Nat) :
    let n := magUnits q (magOf q x)
    (roundAt mode neg (magSig q (magOf q x)) (q.emin + magPlace q (magOf q x)) 0).1 =
      if roundsUp mode neg (n / 2 ^ 298) (n % 2 ^ 298) 298 = true then n / 2 ^ 298 + 1 else n / 2 ^ 298 := by
  have hemin := emin_eq hq
  have h596 : 2 ^ ((0 : Int) + 596).toNat = 2 ^ 298 * 2 ^ 298 := by
    rw [← Nat.pow_add]
    rfl
  have hs : ((0 : Int) + 596).toNat = 298 + 298 := rfl
  dsimp only
  rw [roundAt_eq _ _ _ (by omega) (by decide), scaled_value hq, h596, Nat.mul_div_mul_right _ _ (Nat.two_pow_pos _), Nat.mul_mod_mul_right,
    hs, roundsUp_scale]

theorem fFloor_finite (hq : q.Fits) (h : x < 2 * q.signBit) (hf : isFinite q x = true) :
    let z := (fFloor q x).1
    isFinite q z = true ∧ signOf q z = signOf q x ∧ floatUnits q z = 2 ^ 298 * (floatUnits q x / 2 ^ 298) ∧
      (fFloor q x).2 = noFlags := by
  have hemin := emin_eq hq
  by_cases hint : magOf q x = 0 ∨ 0 ≤ q.emin + magPlace q (magOf q x)
  · have hdvd : (2 ^ 298 : Int) ∣ floatUnits q x := by
      rw [floatUnits_eq]
      refine Dvd.dvd.mul_left ?_ _
      rcases hint with h0 | he
      · rw [h0, magUnits_zero]
        exact dvd_zero _
      · rw [magUnits]
        exact_mod_cast (Nat.pow_dvd_pow 2 (show 298 ≤ leastExp q + magPlace q (magOf q x) by omega)).mul_left _
    rw [fFloor_of_integer h hf hint]
    exact ⟨hf, rfl, (Int.mul_ediv_cancel' hdvd).symm, rfl⟩
  · obtain ⟨hm, he⟩ := not_or.mp hint
    obtain ⟨-, hsig, -⟩ := magSig_add_place q (magOf q x)
    have hsmall : magUnits q (magOf q x) < 2 ^ q.fb * 2 ^ 298 := by
      calc magUnits q (magOf q x) < 2 ^ (q.fb + 1) * 2 ^ (leastExp q + magPlace q (magOf q x)) :=
            Nat.mul_lt_mul_of_pos_right hsig (Nat.two_pow_pos _)
        _ ≤ 2 ^ (q.fb + 1) * 2 ^ 297 := Nat.mul_le_mul_left _ (Nat.pow_le_pow_right (by decide) (by omega))
        _ = 2 ^ q.fb * 2 ^ 298 := by rw [← Nat.pow_add, ← Nat.pow_add]
    have hround := roundAt_units hq .rdn (signOf q x) x
    have hM := floatUnits_withSign q x
    generalize hk : (roundAt .rdn (signOf q x) (magSig q (magOf q x)) (q.emin + magPlace q (magOf q x)) 0).1 = k at hround
    obtain ⟨k0, hfin, hk0⟩ := integer_magnitude hq (n := k) (by
      have := (Nat.div_lt_iff_lt_mul (Nat.two_pow_pos 298)).mpr hsmall
      rw [hround]
      split <;> omega)
    have hlt := Nat.lt_trans hfin (infBits_lt_signBit q)
    have hz : fFloor q x = (signed q (signOf q x) k0, noFlags) := by
      simp only [fFloor, value_finite hf, magSig_eq_zero, hm, if_false, ge_iff_le, he, hk]
      rw [roundFin_exact hq _ _ (by decide) (k := k0) _ hfin]
      rw [magScaled, hk0, Nat.mul_assoc, ← Nat.pow_add]
      rfl
    rw [hz]
    refine ⟨isFinite_signed hfin, signOf_signed hlt, ?_, rfl⟩
    have hediv := withSign_ediv (signOf q x) (magUnits q (magOf q x)) 298
    rw [← hround, Nat.cast_pow] at hediv
    rw [floatUnits_withSign, signOf_signed hlt, magOf_signed hlt, hk0, hM]
    refine Eq.trans ?_ (congrArg ((2 ^ 298 : Int) * ·) hediv.symm)
    rw [withSign, withSign]
    split <;> push_cast <;> ring

end

end Sys2Proof.Machine

namespace Sys2Proof.Machine
open Sys2Proof

/-! ### The table functions outside their range (R209, R213) -/

section
variable {q : FloatFmt} {x : Nat}

theorem fp32_fits : fp32.Fits := fits_of_mem (by simp)

theorem isNaN_signed {neg : Bool} {k : Nat} (h : k ≤ q.infBits) : isNaN q (signed q neg k) = false := by
  rcases Nat.lt_or_eq_of_le h with hlt | rfl
  · exact isNaN_of_finite (isFinite_signed hlt)
  · exact isNaN_of_inf (isInf_iff.mpr (magOf_signed (infBits_lt_signBit q)))

/-- A rounded number or infinity is no NaN. -/
theorem isNaN_roundVal (hq : q.Fits) {v : FVal} (hv : v.isNan = false) (he : ∀ n m e, v = .fin n m e → -596 ≤ e) :
    isNaN q (roundVal q v).1 = false := by
  cases v with
  | nan s => cases hv
  | inf n => exact isNaN_signed (Nat.le_refl _)
  | fin n m e =>
    obtain ⟨k, mag, -, heq⟩ := roundFin_eq hq .rne n m (he n m e rfl)
    rw [roundVal]
    simp only [heq, roundedOf]
    split
    · exact isNaN_signed (Nat.le_refl _)
    · exact isNaN_signed (Nat.le_of_lt (Nat.not_le.mp ‹_›))

theorem roundVal_inv {v : FVal} (hv : v.isNan = false) : (roundVal q v).2.inv = false := by
  cases v with
  | nan s => cases hv
  | inf n => rfl
  | fin n m e => rfl

/-- The functions of one lane of a NaN. -/
theorem lane_nan (h : isNaN fp32 x = true) :
    ∀ g ∈ [vexp2, vrcp, vrsq, tliLane TableBuf.zero], g x = (quietNaN fp32, flagInv (isSignalling fp32 x)) := by
  have hv := value_nan fp32_fits h
  intro g hg
  simp only [List.mem_cons, List.not_mem_nil, or_false] at hg
  rcases hg with rfl | rfl | rfl | rfl
  · simp only [vexp2, hv]; rfl
  · simp only [vrcp, hv]; rfl
  · simp only [vrsq, hv]; rfl
  · cases hs : isSignalling fp32 x <;> simp only [tliLane, fSub, hv, hs] <;> rfl

/-- The table functions of an infinity. -/
theorem approximations_inf (h : isInf fp32 x = true) :
    let minus := if signOf fp32 x then 0x80000000 else 0
    vexp2 x = (if signOf fp32 x then 0 else 0x7F800000, noFlags) ∧ vrcp x = (minus, noFlags) ∧
      vrsq x = if signOf fp32 x then (quietNaN fp32, flagInv true) else (0, noFlags) := by
  have hv := value_inf h
  simp only [vexp2, vrcp, vrsq, hv]
  cases signOf fp32 x <;> exact ⟨rfl, rfl, rfl⟩

/-- A comparison of the magnitude of a number with an integer. -/
theorem ltMag_integer (hq : q.Fits) (x n : Nat) :
    ltMag (magSig q (magOf q x)) (q.emin + magPlace q (magOf q x)) n 0 = decide (magUnits q (magOf q x) < n * 2 ^ 298) ∧
    ltMag n 0 (magSig q (magOf q x)) (q.emin + magPlace q (magOf q x)) = decide (n * 2 ^ 298 < magUnits q (magOf q x)) := by
  have hemin := emin_eq hq
  have hn : scaled n 0 = n * 2 ^ 298 * 2 ^ 298 := by
    rw [Nat.mul_assoc, ← Nat.pow_add]
    rfl
  rw [ltMag_eq _ _ (by omega) (by decide), ltMag_eq _ _ (by decide) (by omega), scaled_value hq, hn]
  exact ⟨decide_eq_decide.mpr (Nat.mul_lt_mul_right (Nat.two_pow_pos _)), decide_eq_decide.mpr (Nat.mul_lt_mul_right (Nat.two_pow_pos _))⟩

/-- VEXP2 beyond its range. -/
theorem vexp2_outside (h : isFinite fp32 x = true) :
    (128 * 2 ^ 298 ≤ floatUnits fp32 x → vexp2 x = (0x7F800000, flagOf)) ∧
      (floatUnits fp32 x < -(151 * 2 ^ 298) → vexp2 x = (0, flagUf)) := by
  have hp := Nat.two_pow_pos 298
  obtain ⟨h128, -⟩ := ltMag_integer fp32_fits x 128
  obtain ⟨-, h151⟩ := ltMag_integer fp32_fits x 151
  have hu := floatUnits_withSign fp32 x
  rw [withSign] at hu
  simp only [vexp2, value_finite h, h128, h151]
  rw [hu]
  have hcast : ((2 ^ 298 : Nat) : Int) = 2 ^ 298 := by norm_cast
  rw [← hcast]
  generalize 2 ^ 298 = b at hp
  cases signOf fp32 x
  · constructor
    · intro hle
      have : ¬ magUnits fp32 (magOf fp32 x) < 128 * b := by
        simp only [Bool.false_eq_true, if_false] at hle
        omega
      simp [this]
      rfl
    · intro hlt
      simp only [Bool.false_eq_true, if_false] at hlt
      omega
  · constructor
    · intro hle
      simp only [if_true] at hle
      omega
    · intro hlt
      have : 151 * b < magUnits fp32 (magOf fp32 x) := by
        simp only [if_true] at hlt
        omega
      simp [this]

theorem floatUnits_eq_zero (q : FloatFmt) (x : Nat) : floatUnits q x = 0 ↔ magOf q x = 0 := by
  rw [floatUnits_withSign, withSign]
  have hz := (magUnits_strictMono q).injective.eq_iff (a := magOf q x) (b := 0)
  rw [magUnits_zero] at hz
  rw [← hz]
  split <;> omega

/-- The reciprocal and the reciprocal root of a zero, and the root of a number below 0. -/
theorem approximations_zero (h : isFinite fp32 x = true) :
    let minus := if signOf fp32 x then 0x80000000 else 0
    (floatUnits fp32 x = 0 → vrcp x = (minus + 0x7F800000, noFlags) ∧ vrsq x = (minus + 0x7F800000, noFlags)) ∧
      (floatUnits fp32 x < 0 → vrsq x = (quietNaN fp32, flagInv true)) := by
  simp only [vrcp, vrsq, value_finite h]
  refine ⟨fun h0 => ?_, fun hneg => ?_⟩
  · have hs : magSig fp32 (magOf fp32 x) = 0 := magSig_eq_zero.mpr ((floatUnits_eq_zero fp32 x).mp h0)
    rw [if_pos hs, if_pos hs]
    cases signOf fp32 x <;> exact ⟨rfl, rfl⟩
  · have hs : magSig fp32 (magOf fp32 x) ≠ 0 := fun hs => by
      rw [(floatUnits_eq_zero fp32 x).mpr (magSig_eq_zero.mp hs)] at hneg
      exact absurd hneg (Int.lt_irrefl 0)
    have hsign : signOf fp32 x = true := by
      rw [floatUnits_withSign, withSign] at hneg
      cases hc : signOf fp32 x
      · rw [hc, if_neg Bool.false_ne_true] at hneg
        omega
      · rfl
    rw [if_neg hs, if_pos hsign]
    rfl

/-- The last step of TLI in the buffer after power-on reset. -/
theorem tliAt_zero (j : Nat) (n : Bool) (m : Nat) (e : Int) : tliAt TableBuf.zero false j (.fin n m e) = (0, noFlags) := by
  have hz : fp32.value 0 = .fin false 0 fp32.emin := rfl
  have hknot : TableBuf.zero.knot j = 0 := rfl
  have hdiff : TableBuf.zero.diff j = 0 := rfl
  simp only [tliAt, hknot, hdiff, hz, mulV, mulExact, finish, roundVal, roundFin, Nat.mul_zero, if_true]
  cases n <;> rfl

/-- The exponent of the value of an encoding. -/
theorem value_fin_exponent (hq : q.Fits) {n : Bool} {m : Nat} {e : Int} (h : q.value x = .fin n m e) : -298 ≤ e := by
  have hemin := emin_eq hq
  rcases encoding_cases q x with hf | ⟨-, hi⟩ | ⟨-, -, hn⟩
  · rw [value_finite hf] at h
    cases h
    omega
  · rw [value_inf hi] at h
    cases h
  · rw [value_nan hq hn] at h
    cases h

/-- A sum with a number is no NaN, is valid and keeps the exponents in range. -/
theorem addExact_number {v : FVal} (hv : v.isNan = false) (he : ∀ n m e, v = .fin n m e → -298 ≤ e) (n' : Bool) (m' : Nat)
    {e' : Int} (he' : -298 ≤ e') :
    (addExact v (.fin n' m' e')).1.isNan = false ∧ (addExact v (.fin n' m' e')).2 = false ∧
      ∀ n m e, (addExact v (.fin n' m' e')).1 = .fin n m e → -298 ≤ e := by
  cases v with
  | nan s => cases hv
  | inf n => exact ⟨rfl, rfl, fun _ _ _ h => by cases h⟩
  | fin n m e =>
    have hmin : -298 ≤ min e e' := Int.le_min.mpr ⟨he n m e rfl, he'⟩
    simp only [addExact, addFin]
    split_ifs <;> exact ⟨rfl, trivial, fun _ _ _ h => by cases h; exact hmin⟩

/-- TLI of a number or an infinity in the buffer after power-on reset. -/
theorem tliLane_zero (h : isNaN fp32 x = false) : tliLane TableBuf.zero x = (0, noFlags) := by
  have hx : (fp32.value x).isNan = false := (value_isNan fp32 x).trans h
  have hsig : (fp32.value x).isSig = false := (value_isSig fp32_fits x).trans (isSignalling_of_not_nan h)
  obtain ⟨hnan, hinv, he⟩ := addExact_number hx (fun _ _ _ => value_fin_exponent fp32_fits) true 0 (e' := fp32.emin) (by decide)
  generalize hp : addExact (fp32.value x) (.fin true 0 fp32.emin) = p at hnan hinv he
  have hdiff : fSub fp32 x TableBuf.zero.lo = ((roundVal fp32 p.1).1, (roundVal fp32 p.1).2.or (flagInv false)) := by
    change addV fp32 (fp32.value x) (.fin true 0 fp32.emin) = _
    rw [addV, hp, hsig, finish, hinv]
    rfl
  have hf1 : ((roundVal fp32 p.1).2.or (flagInv false)).inv = false := by
    simp [NumFlags.or, roundVal_inv hnan, flagInv]
  have hs : isNaN fp32 (roundVal fp32 p.1).1 = false :=
    isNaN_roundVal fp32_fits hnan fun n m e h => Int.le_trans (by decide) (he n m e h)
  generalize (roundVal fp32 p.1).1 = s at hdiff hs
  have hscale : (fp32.value s).scale (-TableBuf.zero.wlog) = fp32.value s := by
    cases fp32.value s <;> simp [FVal.scale, TableBuf.zero]
  have hu : isNaN fp32 (roundVal fp32 (fp32.value s)).1 = false :=
    isNaN_roundVal fp32_fits ((value_isNan fp32 s).trans hs)
      fun n m e h => Int.le_trans (by decide) (value_fin_exponent fp32_fits h)
  simp only [tliLane, hdiff, hscale, hf1]
  generalize (roundVal fp32 (fp32.value s)).1 = u at hu
  cases hv : fp32.value u with
  | nan b =>
    have := value_isNan fp32 u
    rw [hu, hv] at this
    cases this
  | inf n => cases n <;> rfl
  | fin n m e =>
    dsimp only
    split
    · rfl
    · split
      · rfl
      · split <;> exact tliAt_zero ..

/-! ### The functions that round nothing -/

theorem floatFunctions : Claims.FloatFunctions := by
  refine ⟨fun q hmem x y hx hy => ?_, fun x => ⟨lane_nan, approximations_inf, fun hf => ?_, tliLane_zero⟩⟩
  · have hq := fits_of_mem hmem
    refine ⟨compare_nan hq, compare_numbers hq hx hy, unary_nan hq, fun hn => ?_⟩
    refine ⟨fNeg_eq hx hn, fAbs_eq hx hn, fSqrt_negative hn, fSqrt_zero hx hn,
      fun hi => ⟨fFloor_inf hx hi, fSqrt_inf hx hi⟩, fun hi => ?_⟩
    rcases encoding_cases q x with hf | ⟨-, hi'⟩ | ⟨-, -, hn'⟩
    · exact fFloor_finite hq hx hf
    · rw [hi] at hi'; cases hi'
    · rw [hn] at hn'; cases hn'
  · obtain ⟨h128, h151⟩ := vexp2_outside hf
    obtain ⟨hzero, hneg⟩ := approximations_zero hf
    exact ⟨h128, h151, hzero, hneg⟩

end

/-- Settles O30: the lanes, and the functions of one element that round nothing. -/
theorem vectorFloatElements : Obligations.VectorFloatElements := ⟨vectorFloatElements_live, floatFunctions⟩

end Sys2Proof.Machine

namespace Sys2Proof.Machine
open Sys2Proof

/-! ### Sums and products rounded once (R59, R63) -/

theorem withSign_add_same (n : Bool) (a b : Nat) : withSign n (a + b) = withSign n a + withSign n b := by
  cases n <;> simp [withSign]
  omega

theorem withSign_eq_zero {n : Bool} {a : Nat} : withSign n a = 0 ↔ a = 0 := by
  cases n <;> simp [withSign]

theorem withSign_mul (n1 n2 : Bool) (a b : Nat) : withSign (xor n1 n2) (a * b) = withSign n1 a * withSign n2 b := by
  cases n1 <;> cases n2 <;> simp [withSign]

theorem withSign_not (n : Bool) (a : Nat) : withSign (!n) a = -withSign n a := by
  cases n <;> simp [withSign]

/-- A magnitude shifted to a lower place. -/
theorem scaled_shift (m : Nat) {e d : Int} (hd : -596 ≤ d) (h : d ≤ e) : scaled (m * 2 ^ (e - d).toNat) d = scaled m e := by
  rw [scaled, scaled, Nat.mul_assoc, ← Nat.pow_add]
  congr 2
  omega

theorem scaled_add (a b : Nat) (e : Int) : scaled (a + b) e = scaled a e + scaled b e := Nat.add_mul ..

theorem scaled_lt {a b : Nat} {e : Int} : scaled a e < scaled b e ↔ a < b := Nat.mul_lt_mul_right (Nat.two_pow_pos _)

/-- The exact sum in units. -/
theorem addFin_units (n1 n2 : Bool) (m1 m2 : Nat) {e1 e2 : Int} (h1 : -596 ≤ e1) (h2 : -596 ≤ e2) :
    ∃ n m, addFin n1 m1 e1 n2 m2 e2 = .fin n m (min e1 e2) ∧
      withSign n (scaled m (min e1 e2)) = withSign n1 (scaled m1 e1) + withSign n2 (scaled m2 e2) := by
  have hmin : -596 ≤ min e1 e2 := Int.le_min.mpr ⟨h1, h2⟩
  have hs1 := scaled_shift m1 hmin (Int.min_le_left e1 e2)
  have hs2 := scaled_shift m2 hmin (Int.min_le_right e1 e2)
  simp only [addFin]
  rw [← hs1, ← hs2]
  generalize m1 * 2 ^ (e1 - min e1 e2).toNat = a
  generalize m2 * 2 ^ (e2 - min e1 e2).toNat = b
  by_cases hn : n1 = n2
  · subst hn
    exact ⟨n1, a + b, if_pos rfl, by rw [scaled_add, withSign_add_same]⟩
  · obtain rfl : n2 = !n1 := by cases n1 <;> cases n2 <;> simp at hn ⊢
    rw [if_neg hn, withSign_not]
    rcases Nat.lt_trichotomy a b with h | rfl | h
    · have hab := Nat.sub_add_cancel h.le
      refine ⟨!n1, b - a, by rw [if_neg (by omega), if_pos h], ?_⟩
      have := congrArg (withSign n1) (congrArg (scaled · (min e1 e2)) hab)
      rw [scaled_add, withSign_add_same] at this
      rw [withSign_not]
      omega
    · refine ⟨false, 0, by rw [if_neg (Nat.lt_irrefl a), if_neg (Nat.lt_irrefl a)], ?_⟩
      simp [withSign, scaled]
    · have hab := Nat.sub_add_cancel h.le
      refine ⟨n1, a - b, by rw [if_pos h], ?_⟩
      have := congrArg (withSign n1) (congrArg (scaled · (min e1 e2)) hab)
      rw [scaled_add, withSign_add_same] at this
      omega

/-- The exact product in units: both factors are whole numbers of units of 2^−298. -/
theorem scaled_mul {a b m1 m2 : Nat} {e1 e2 : Int} (h1 : -298 ≤ e1) (h2 : -298 ≤ e2) (ha : scaled m1 e1 = a * 2 ^ 298)
    (hb : scaled m2 e2 = b * 2 ^ 298) : scaled (m1 * m2) (e1 + e2) = a * b := by
  have hp := Nat.two_pow_pos 298
  have hsplit (m : Nat) {e : Int} (h : -298 ≤ e) : scaled m e = m * 2 ^ (e + 298).toNat * 2 ^ 298 := by
    rw [scaled, Nat.mul_assoc, ← Nat.pow_add]
    congr 2
    omega
  rw [hsplit m1 h1, Nat.mul_left_inj hp.ne'] at ha
  rw [hsplit m2 h2, Nat.mul_left_inj hp.ne'] at hb
  rw [← ha, ← hb, Nat.mul_mul_mul_comm, ← Nat.pow_add, scaled]
  congr 2
  omega

section
variable {q : FloatFmt} {x y z : Nat}

theorem emin_ge (hq : q.Fits) : -248 ≤ q.emin := by
  have h := emin_eq hq
  have := hq.least
  rw [leastExp] at h
  omega

theorem finish_number (q : FloatFmt) {v : FVal} : finish q false (v, false) = roundVal q v := by
  rw [finish]
  dsimp only
  rw [Bool.or_false, flagInv_false, NumFlags.or_noFlags]

/-- A sum of numbers is rounded once. -/
theorem addV_rounded (hq : q.Fits) (n1 n2 : Bool) (m1 m2 : Nat) {e1 e2 : Int} (h1 : -500 ≤ e1) (h2 : -500 ≤ e2) :
    RoundedRne q (withSign n1 (scaled m1 e1) + withSign n2 (scaled m2 e2)) (addV q (.fin n1 m1 e1) (.fin n2 m2 e2)) := by
  obtain ⟨n, m, hsum, hunits⟩ := addFin_units n1 n2 m1 m2 (show -596 ≤ e1 by omega) (show -596 ≤ e2 by omega)
  rw [addV]
  change RoundedRne q _ (finish q false (addFin n1 m1 e1 n2 m2 e2, false))
  rw [finish_number, hsum, ← hunits]
  exact roundedRne_roundVal hq n m (Int.le_min.mpr ⟨h1, h2⟩)

theorem floatUnits_value (hq : q.Fits) (x : Nat) :
    withSign (signOf q x) (scaled (magSig q (magOf q x)) (q.emin + magPlace q (magOf q x))) = floatUnits q x * 2 ^ 298 := by
  rw [scaled_value hq, floatUnits_scaled]
  rfl

/-- The sum, the difference and the product of two numbers are rounded once. -/
theorem fAdd_rounded (hq : q.Fits) (hx : isFinite q x = true) (hy : isFinite q y = true) :
    RoundedRne q ((floatUnits q x + floatUnits q y) * 2 ^ 298) (fAdd q x y) := by
  have he := emin_ge hq
  rw [fAdd, value_finite hx, value_finite hy, Int.add_mul, ← floatUnits_value hq, ← floatUnits_value hq]
  exact addV_rounded hq _ _ _ _ (by omega) (by omega)

theorem fSub_rounded (hq : q.Fits) (hx : isFinite q x = true) (hy : isFinite q y = true) :
    RoundedRne q ((floatUnits q x - floatUnits q y) * 2 ^ 298) (fSub q x y) := by
  have he := emin_ge hq
  rw [fSub, value_finite hx, value_finite hy, Int.sub_mul, ← floatUnits_value hq, ← floatUnits_value hq, Int.sub_eq_add_neg,
    ← withSign_not]
  exact addV_rounded hq _ _ _ _ (by omega) (by omega)

/-- The exact product of two numbers in units of 2^−596. -/
theorem product_units (hq : q.Fits) (x y : Nat) :
    withSign (xor (signOf q x) (signOf q y))
      (scaled (magSig q (magOf q x) * magSig q (magOf q y)) (q.emin + magPlace q (magOf q x) + (q.emin + magPlace q (magOf q y)))) =
      floatUnits q x * floatUnits q y := by
  have he := emin_ge hq
  rw [scaled_mul (by omega) (by omega) (scaled_value hq x) (scaled_value hq y), withSign_mul, ← floatUnits_withSign,
    ← floatUnits_withSign]

theorem fMul_rounded (hq : q.Fits) (hx : isFinite q x = true) (hy : isFinite q y = true) :
    RoundedRne q (floatUnits q x * floatUnits q y) (fMul q x y) := by
  have he := emin_ge hq
  rw [fMul, value_finite hx, value_finite hy, mulV]
  change RoundedRne q _ (finish q false (.fin _ _ _, false))
  rw [finish_number, ← product_units hq]
  exact roundedRne_roundVal hq _ _ (by omega)

theorem fmaV_rounded (hq : q.Fits) (hx : isFinite q x = true) (hy : isFinite q y = true) (hz : isFinite q z = true) :
    RoundedRne q (floatUnits q x * floatUnits q y + floatUnits q z * 2 ^ 298) (fmaV q (q.value x) (q.value y) (q.value z)) := by
  have he := emin_ge hq
  rw [value_finite hx, value_finite hy, value_finite hz, ← product_units hq, ← floatUnits_value hq z]
  exact addV_rounded hq _ _ _ _ (by omega) (by omega)

/-! ### Signs of zeros, NaNs and invalid operations -/

theorem roundVal_zero (q : FloatFmt) (n : Bool) (e : Int) : roundVal q (.fin n 0 e) = (if n then q.signBit else 0, noFlags) := by
  rw [roundVal, roundFin, if_pos rfl]
  cases n <;> rfl

theorem magSig_of_units_zero (h : floatUnits q x = 0) : magSig q (magOf q x) = 0 := magSig_eq_zero.mpr ((floatUnits_eq_zero q x).mp h)

/-- An exact sum that is zero is −0 exactly when both terms have the sign (R63). -/
theorem addFin_zero {n1 n2 n : Bool} {m1 m2 : Nat} {e1 e2 e : Int} (h : addFin n1 m1 e1 n2 m2 e2 = .fin n 0 e) :
    n = (n1 && n2) := by
  rw [addFin] at h
  split_ifs at h with hn hgt hlt <;> injection h with hsign hmag _
  · rw [← hsign, ← hn, Bool.and_self]
  · omega
  · omega
  · rw [← hsign]
    cases n1 <;> cases n2 <;> simp at hn ⊢

theorem fAdd_zero (hq : q.Fits) (hx : isFinite q x = true) (hy : isFinite q y = true) (h : floatUnits q x + floatUnits q y = 0) :
    (fAdd q x y).1 = if signOf q x ∧ signOf q y then q.signBit else 0 := by
  have he := emin_ge hq
  obtain ⟨n, m, hsum, hunits⟩ := addFin_units (signOf q x) (signOf q y) (magSig q (magOf q x)) (magSig q (magOf q y))
    (show -596 ≤ q.emin + magPlace q (magOf q x) by omega) (show -596 ≤ q.emin + magPlace q (magOf q y) by omega)
  rw [floatUnits_value hq, floatUnits_value hq, ← Int.add_mul, h, Int.zero_mul] at hunits
  obtain rfl : m = 0 := scaled_eq_zero.mp (withSign_eq_zero.mp hunits)
  rw [fAdd, value_finite hx, value_finite hy, addV]
  change (finish q false (addFin .., false)).1 = _
  rw [finish_number, hsum, roundVal_zero, addFin_zero hsum]
  simp

/-- A product that is zero has the sign of the signs. -/
theorem fMul_zero (hx : isFinite q x = true) (hy : isFinite q y = true) (h : floatUnits q x * floatUnits q y = 0) :
    (fMul q x y).1 = if signOf q x = signOf q y then 0 else q.signBit := by
  have hm : magSig q (magOf q x) * magSig q (magOf q y) = 0 := by
    rcases Int.mul_eq_zero.mp h with h | h
    · rw [magSig_of_units_zero h, Nat.zero_mul]
    · rw [magSig_of_units_zero h, Nat.mul_zero]
  rw [fMul, value_finite hx, value_finite hy, mulV]
  change (finish q false (.fin _ _ _, false)).1 = _
  rw [finish_number, hm, roundVal_zero]
  cases signOf q x <;> cases signOf q y <;> rfl

theorem isSig_negate (v : FVal) : v.negate.isSig = v.isSig := by cases v <;> rfl

/-- A NaN operand of a sum or a product. -/
theorem addExact_nan {a b : FVal} (h : a.isNan = true ∨ b.isNan = true) : addExact a b = (.nan false, false) := by
  cases a <;> cases b <;> simp [FVal.isNan] at h <;> rfl

theorem mulExact_nan {a b : FVal} (h : a.isNan = true ∨ b.isNan = true) : mulExact a b = (.nan false, false) := by
  cases a <;> cases b <;> simp [FVal.isNan] at h <;> rfl

theorem finish_nan (q : FloatFmt) (sig inv : Bool) : finish q sig (.nan false, inv) = (quietNaN q, flagInv (sig || inv)) := by
  simp [finish, roundVal, flagInv_false, quietNaN_eq]

theorem sum_product_nan (hq : q.Fits) (h : isNaN q x = true ∨ isNaN q y = true) :
    let fl := flagInv (isSignalling q x || isSignalling q y)
    fAdd q x y = (quietNaN q, fl) ∧ fSub q x y = (quietNaN q, fl) ∧ fMul q x y = (quietNaN q, fl) := by
  have h' : (q.value x).isNan = true ∨ (q.value y).isNan = true := by rwa [value_isNan, value_isNan]
  have hneg : (q.value x).isNan = true ∨ (q.value y).negate.isNan = true := by
    rcases h' with h | h
    · exact .inl h
    · right
      cases hv : q.value y <;> rw [hv] at h <;> exact h
  rw [fAdd, fSub, fMul, addV, addV, mulV, addExact_nan h', addExact_nan hneg, mulExact_nan h', finish_nan, finish_nan, isSig_negate,
    value_isSig hq, value_isSig hq, Bool.or_false]
  exact ⟨rfl, rfl, rfl⟩

/-- Opposite infinities have no sum. -/
theorem fAdd_opposite_inf (hx : isInf q x = true) (hy : isInf q y = true) (h : signOf q x ≠ signOf q y) :
    fAdd q x y = (quietNaN q, flagInv true) := by
  rw [fAdd, value_inf hx, value_inf hy, addV, addExact, if_neg h, finish_nan]
  rfl

/-- An infinity and a zero have no product. -/
theorem fMul_inf_zero (hx : isInf q x = true) (hy : isFinite q y = true) (h : floatUnits q y = 0) :
    fMul q x y = (quietNaN q, flagInv true) ∧ fMul q y x = (quietNaN q, flagInv true) := by
  rw [fMul, fMul, value_inf hx, value_finite hy, magSig_of_units_zero h, mulV, mulV, mulExact, mulExact, if_pos rfl, finish_nan, finish_nan]
  exact ⟨rfl, rfl⟩

end

end Sys2Proof.Machine

namespace Sys2Proof.Machine
open Sys2Proof

/-! ### Narrowing and widening (R61) -/

section
variable {p q : FloatFmt} {mode : RoundMode} {neg : Bool} {v k mag x : Nat}

theorem natAbs_withSign (n : Bool) (v : Nat) : (withSign n v).natAbs = v := by
  cases n <;> simp [withSign]

theorem withSign_neg_iff {n : Bool} : withSign n v < 0 ↔ n = true ∧ v ≠ 0 := by
  cases n <;> simp [withSign]
  omega

theorem withSign_pos_iff {n : Bool} : 0 < withSign n v ↔ n = false ∧ v ≠ 0 := by
  cases n <;> simp [withSign]
  omega

/-- A value of the finite range rounds to a finite number under every mode. -/
theorem mag_of_le_top (hq : q.Fits) (h : RoundsMag q mode neg v k mag) (hv : v ≤ topUnits q) : mag < q.infBits := by
  have hpos := infBits_pos hq
  obtain ⟨htop, -, -⟩ := magScaled_top hq
  have hexact := exact_iff h
  obtain ⟨hlo, hhi, hmag⟩ := h
  rw [← htop] at hv
  have hk := magScaled_le.mp (Nat.le_trans hlo hv)
  rcases Nat.lt_or_eq_of_le hk with hlt | heq
  · split at hmag <;> omega
  · have hv' : v = magScaled q k := Nat.le_antisymm (heq ▸ hv) hlo
    have := magScaled_le.mp ((hexact.mpr hv').trans hv').le
    omega

/-- A value from one last place beyond the largest finite number on overflows under every mode. -/
theorem mag_of_ge_inf (hq : q.Fits) (h : RoundsMag q mode neg v k mag) (hv : topUnits q + lastUnit q ≤ v) : q.infBits ≤ mag := by
  have hpos := infBits_pos hq
  obtain ⟨htop, hlast, -⟩ := magScaled_top hq
  have hinf := magScaled_succ q (q.infBits - 1)
  rw [Nat.sub_add_cancel hpos, htop, hlast] at hinf
  obtain ⟨hlo, hhi, hmag⟩ := h
  have hk := Nat.lt_of_not_le (fun hk => Nat.not_le.mpr hhi (Nat.le_trans (magScaled_le.mpr hk) (hinf ▸ hv)))
  split at hmag <;> omega

theorem beyond_eq (hq : q.Fits) (m : Nat) {e : Int} (he : -596 ≤ e) : beyond q m e = decide (topUnits q < scaled m e) := by
  have hemin := emin_eq hq
  have heb := two_pow_eb hq
  have hbias := two_le_bias hq
  have htop : scaled (2 ^ (q.fb + 1) - 1) (q.emin + (2 ^ q.eb : Nat) - 3) = topUnits q := by
    rw [scaled, topUnits, lastUnit, ← Nat.pow_add]
    congr 2
    omega
  rw [beyond, ltMag_eq _ _ (by omega) he, htop]

/-- The bits of an overflow: the infinity where the mode rounds away, else the largest finite number (R61). -/
theorem overflowBits_eq (hq : q.Fits) (hv : v ≠ 0) :
    let r := withSign neg v
    let toInf := mode = .rne ∨ mode = .rna ∨ mode = .rup ∧ 0 < r ∨ mode = .rdn ∧ r < 0
    overflowBits q mode neg = (if r < 0 then q.signBit else 0) + (if toInf then 2 ^ q.eb - 1 else 2 ^ q.eb - 2) * 2 ^ q.fb +
      (if toInf then 0 else 2 ^ q.fb - 1) := by
  have heb := two_pow_eb hq
  have hbias := two_le_bias hq
  have hp := Nat.two_pow_pos q.fb
  have hmax : q.maxBits = (2 ^ q.eb - 2) * 2 ^ q.fb + (2 ^ q.fb - 1) := by
    rw [FloatFmt.maxBits, FloatFmt.infBits, show 2 ^ q.eb - 1 = 2 ^ q.eb - 2 + 1 by omega, Nat.succ_mul]
    omega
  have hinf : q.infBits = (2 ^ q.eb - 1) * 2 ^ q.fb := rfl
  simp only [withSign_neg_iff, withSign_pos_iff]
  cases mode <;> cases neg <;> simp [overflowBits, signed, hmax, hinf, Nat.add_assoc, hv]

/-- A narrowing rounds once under its mode, and counts a saturation beyond the range. -/
theorem narrow_rounds (hp : p.Fits) (hq : q.Fits) (mode : RoundMode) (hx : isFinite p x = true) :
    let r := floatUnits p x * 2 ^ 298
    let res := narrow q mode (p.value x)
    (r.natAbs ≤ topUnits q → FloatPicks q mode r res.1 ∧ res.2.1.of = false ∧ res.2.1.inv = false ∧ res.2.2 = 0) ∧
      (topUnits q < r.natAbs → res.2.2 = 1) ∧
      (topUnits q + lastUnit q ≤ r.natAbs →
        let toInf := mode = .rne ∨ mode = .rna ∨ mode = .rup ∧ 0 < r ∨ mode = .rdn ∧ r < 0
        res.1 = (if r < 0 then q.signBit else 0) + (if toInf then 2 ^ q.eb - 1 else 2 ^ q.eb - 2) * 2 ^ q.fb +
          (if toInf then 0 else 2 ^ q.fb - 1) ∧ res.2.1 = flagOf) := by
  have he := emin_ge hp
  have heb : -596 ≤ p.emin + magPlace p (magOf p x) := by omega
  obtain ⟨k, mag, hR, heq⟩ := roundFin_eq hq mode (signOf p x) (magSig p (magOf p x)) heb
  have hover := @overflowBits_eq q mode (signOf p x) (scaled (magSig p (magOf p x)) (p.emin + magPlace p (magOf p x))) hq
  dsimp only at hover ⊢
  rw [value_finite hx, narrow, beyond_eq hq _ heb, ← floatUnits_value hp, natAbs_withSign]
  dsimp only
  generalize scaled (magSig p (magOf p x)) (p.emin + magPlace p (magOf p x)) = v at *
  refine ⟨fun hle => ?_, fun hlt => by rw [if_pos (decide_eq_true hlt)], fun hge => ?_⟩
  · have hfin := mag_of_le_top hq hR hle
    rw [heq, roundedOf, if_neg (Nat.not_le.mpr hfin), if_neg (by simpa using hle)]
    exact ⟨floatPicks_of_roundsMag hq hR hfin, rfl, rfl, rfl⟩
  · have hpos : 0 < lastUnit q := Nat.mul_pos (Nat.two_pow_pos _) (Nat.two_pow_pos _)
    rw [heq, roundedOf, if_pos (mag_of_ge_inf hq hR hge)]
    exact ⟨hover (by omega), rfl⟩

/-- Every number of a layout is a number of a wider one. -/
theorem wider_magnitude (hp : p.Fits) (hq : q.Fits) (hfb : p.fb ≤ q.fb) (heb : 2 ^ (p.eb - 1) ≤ 2 ^ (q.eb - 1))
    (hleast : leastExp q ≤ leastExp p) (hk : k < p.infBits) : ∃ j, j < q.infBits ∧ magUnits q j = magUnits p k := by
  obtain ⟨-, hsig, -⟩ := magSig_add_place p k
  obtain ⟨j, hj⟩ := exists_magUnits (q := q) (leastExp p + magPlace p k - leastExp q) (magSig p k)
    (Nat.lt_of_lt_of_le hsig (Nat.pow_le_pow_right (by decide) (by omega)))
  rw [Nat.add_sub_cancel' (by omega)] at hj
  refine ⟨j, (magUnits_strictMono q).lt_iff_lt.mp ?_, hj⟩
  have hpfb := hp.fb_lt
  have hqfb := hq.fb_lt
  calc magUnits q j = magUnits p k := hj
    _ < magUnits p p.infBits := magUnits_strictMono p hk
    _ = 2 ^ (298 + 2 ^ (p.eb - 1)) := by rw [magUnits_infBits hp, ← Nat.pow_add]; congr 1; omega
    _ ≤ 2 ^ (298 + 2 ^ (q.eb - 1)) := Nat.pow_le_pow_right (by decide) (by omega)
    _ = magUnits q q.infBits := by rw [magUnits_infBits hq, ← Nat.pow_add]; congr 1; omega

theorem magUnits_top (hq : q.Fits) (hk : k < q.infBits) : magScaled q k ≤ topUnits q := by
  rw [← (magScaled_top hq).1, magScaled_le]
  omega

/-- A widening is exact. -/
theorem narrow_exact (hp : p.Fits) (hq : q.Fits) (hfb : p.fb ≤ q.fb) (heb : 2 ^ (p.eb - 1) ≤ 2 ^ (q.eb - 1))
    (hleast : leastExp q ≤ leastExp p) (mode : RoundMode) (hx : isFinite p x = true) :
    let res := narrow q mode (p.value x)
    isFinite q res.1 = true ∧ floatUnits q res.1 = floatUnits p x ∧ res.2 = (noFlags, 0) := by
  have he := emin_ge hp
  obtain ⟨j, hj, hunits⟩ := wider_magnitude hp hq hfb heb hleast (isFinite_iff.mp hx)
  have hv : scaled (magSig p (magOf p x)) (p.emin + magPlace p (magOf p x)) = magScaled q j := by
    rw [scaled_value hp, magScaled, hunits]
  have hlt := Nat.lt_trans hj (infBits_lt_signBit q)
  rw [value_finite hx, narrow, beyond_eq hq _ (by omega), roundFin_exact hq mode _ (by omega) hv hj, hv,
    if_neg (by simpa using magUnits_top hq hj)]
  refine ⟨isFinite_signed hj, ?_, rfl⟩
  rw [floatUnits_withSign, signOf_signed hlt, magOf_signed hlt, hunits, floatUnits_withSign]

/-! ### Conversion to an integer (R62) -/

/-- A rounding of a number to an integer does not pass an integer bound. -/
theorem rounded_le {n b s : Nat} {up : Bool} (hn : n ≤ b * 2 ^ s) (hup : up = true → n % 2 ^ s ≠ 0) :
    (if up = true then n / 2 ^ s + 1 else n / 2 ^ s) ≤ b := by
  have hw := Nat.two_pow_pos s
  have hdm := Nat.div_add_mod n (2 ^ s)
  generalize 2 ^ s = w at *
  split
  case isTrue h =>
    have := hup h
    have : n / w < b := by
      rw [Nat.div_lt_iff_lt_mul hw]
      refine Nat.lt_of_le_of_ne hn fun heq => ?_
      rw [heq, Nat.mul_mod_left] at this
      exact this rfl
    omega
  case isFalse => exact Nat.div_le_of_le_mul (by rwa [Nat.mul_comm])

theorem roundsUp_remainder {n r s : Nat} (h : roundsUp mode neg n r s = true) : r ≠ 0 := by
  rintro rfl
  rw [roundsUp_zero] at h
  cases h

theorem withSign_decide (i : Int) : withSign (decide (i < 0)) i.natAbs = i := by
  rw [withSign]
  split <;> simp only [decide_eq_true_eq] at * <;> omega

/-- The integer that a mode makes of a number is the one that it picks. -/
theorem picks_roundAt (mode : RoundMode) (neg : Bool) (n s : Nat) (ok : Int → Prop) {i : Int}
    (hi : i = withSign neg (if roundsUp mode neg (n / 2 ^ s) (n % 2 ^ s) s = true then n / 2 ^ s + 1 else n / 2 ^ s)) (hok : ok i) :
    Picks ok (fun i => i * ((2 ^ s : Nat) : Int)) (fun i => i % 2 = 0) mode (withSign neg n) i := by
  have hw := Nat.two_pow_pos s
  have hdm := Nat.div_add_mod n (2 ^ s)
  have hmod := Nat.mod_lt n hw
  refine picks_iff.mpr ⟨hok, fun z _ => ?_⟩
  have hup := upIff_roundsUp mode neg (n / 2 ^ s) (n % 2 ^ s) s
  generalize roundsUp mode neg (n / 2 ^ s) (n % 2 ^ s) s = up at hi hup
  generalize 2 ^ s = w at *
  generalize n / w = a at *
  have hrem : n - a * w = n % w := by rw [Nat.mul_comm] at hdm; omega
  have hz : z.natAbs * w ≤ a * w ∨ a * w + w ≤ z.natAbs * w := by
    rw [← Nat.succ_mul, Nat.mul_le_mul_right_iff hw, Nat.mul_le_mul_right_iff hw]
    omega
  have := picksOver_neighbours (mode := mode) (neg := neg) (up := up) (k := a) (by rw [Nat.mul_comm]; omega)
    (by rw [Nat.mul_comm]; omega) (hrem ▸ hup) (sz := decide (z < 0)) hz
  have hmul (b : Bool) (c : Nat) : withSign b (c * w) = withSign b c * w := by cases b <;> simp [withSign]
  have hpick : (if up = true then a * w + w else a * w) = (if up = true then a + 1 else a) * w := by
    split
    · rw [Nat.succ_mul]
    · rfl
  rw [hpick, hmul, hmul, ← hi, withSign_decide] at this
  convert this using 2
  rw [hi, withSign]
  split <;> omega

/-- The 32 bits of an integer in range. -/
theorem bmod_bitsOfInt {i : Int} (hlo : -(2 ^ 31) ≤ i) (hhi : i < 2 ^ 31) : Int.bmod (bitsOfInt 32 i) (2 ^ 32) = i := by
  rw [bitsOfInt, Int.toNat_of_nonneg (Int.emod_nonneg _ (by decide))]
  simp only [Int.emod_bmod]
  exact Int.bmod_eq_of_le (by simpa using hlo) (by simpa using hhi)

/-- A number in the range of I32 rounds to an integer of the range. -/
theorem int32_bounds {n k s : Nat} (hle : ∀ b, n ≤ b * 2 ^ s → k ≤ b) (hhi : withSign neg n ≤ (2 ^ 31 - 1) * 2 ^ s)
    (hlo : -(2 ^ 31) * 2 ^ s ≤ withSign neg n) : -(2 ^ 31) ≤ withSign neg k ∧ withSign neg k < 2 ^ 31 := by
  have hcast : ((2 ^ s : Nat) : Int) = 2 ^ s := by norm_cast
  rw [← hcast] at hhi hlo
  generalize 2 ^ s = w at *
  cases neg <;> simp only [withSign, Bool.false_eq_true, if_false, if_true] at *
  · have := hle (2 ^ 31 - 1) (by omega)
    omega
  · have := hle (2 ^ 31) (by omega)
    omega

theorem toInteger_fin (mode : RoundMode) (lo hi : Int) (n : Bool) (m : Nat) (e : Int) :
    toInteger mode lo hi (.fin n m e) =
      let i := withSign n (roundAt mode n m e 0).1
      if i < lo then (lo, flagInv true, 1) else if i > hi then (hi, flagInv true, 1) else (i, noFlags, 0) := rfl

/-- A number in the range of I32 becomes the integer of the mode. -/
theorem toInteger_picks (hq : q.Fits) (mode : RoundMode) (hx : isFinite q x = true) :
    let r := floatUnits q x
    r ≤ (2 ^ 31 - 1) * 2 ^ 298 → -(2 ^ 31) * 2 ^ 298 ≤ r →
      ∃ i : Int, toInteger mode (-(2 ^ 31)) (2 ^ 31 - 1) (q.value x) = (i, noFlags, 0) ∧ -(2 ^ 31) ≤ i ∧ i < 2 ^ 31 ∧
        Picks (fun i : Int => -(2 ^ 31) ≤ i ∧ i < 2 ^ 31) (fun i => i * 2 ^ 298) (fun i => i % 2 = 0) mode r i := by
  intro r hhi hlo
  have hround := roundAt_units hq mode (signOf q x) x
  have hpick := picks_roundAt mode (signOf q x) (magUnits q (magOf q x)) 298 (fun i : Int => -(2 ^ 31) ≤ i ∧ i < 2 ^ 31) rfl
  have hr : r = withSign (signOf q x) (magUnits q (magOf q x)) := floatUnits_withSign q x
  rw [Nat.cast_pow, Nat.cast_ofNat, ← hround, ← hr] at hpick
  have hbounds := int32_bounds (n := magUnits q (magOf q x)) (neg := signOf q x) (s := 298)
    (k := (roundAt mode (signOf q x) (magSig q (magOf q x)) (q.emin + magPlace q (magOf q x)) 0).1)
    (fun b hb => hround.trans_le (rounded_le hb roundsUp_remainder)) (hr ▸ hhi) (hr ▸ hlo)
  refine ⟨_, ?_, hbounds.1, hbounds.2, hpick hbounds⟩
  rw [value_finite hx, toInteger_fin]
  dsimp only
  rw [if_neg (by omega), if_neg (by omega)]

end

theorem floatResultsRounded : Claims.FloatResultsRoundedOnce := by
  refine ⟨fun q hmem x y z => ?_, fun d hd m x hx => ?_, fun d hd m x hx => ?_, fun m x hx => ?_⟩
  · have hq := fits_of_mem hmem
    exact ⟨fun hx hy => ⟨fAdd_rounded hq hx hy, fSub_rounded hq hx hy, fMul_rounded hq hx hy, fAdd_zero hq hx hy, fMul_zero hx hy,
      fmaV_rounded hq hx hy⟩, sum_product_nan hq, fAdd_opposite_inf, fMul_inf_zero⟩
  · simp only [List.mem_cons, List.not_mem_nil, or_false] at hd
    rcases hd with rfl | rfl | rfl | rfl <;> exact narrow_rounds (fits_of_mem (by simp)) (fits_of_mem (by simp)) m hx
  · simp only [List.mem_cons, List.not_mem_nil, or_false] at hd
    rcases hd with rfl | rfl <;>
      exact narrow_exact (fits_of_mem (by simp)) fp32_fits (by decide) (by decide) (by decide) m hx
  · intro r hhi hlo
    obtain ⟨i, heq, hlo', hhi', hpick⟩ := toInteger_picks fp32_fits m hx hhi hlo
    have hres : convertElem .fp32 .i32 m x = (bitsOfInt 32 i, noFlags, 0) := by
      change (bitsOfInt 32 (toInteger m (-(2 ^ 31)) (2 ^ 31 - 1) (fp32.value x)).1, (toInteger m (-(2 ^ 31)) (2 ^ 31 - 1) (fp32.value x)).2) = _
      rw [heq]
    rw [hres]
    exact ⟨(bmod_bitsOfInt hlo' hhi').symm ▸ hpick, rfl⟩

end Sys2Proof.Machine

namespace Sys2Proof.Machine
open Sys2Proof

/-! ### Square roots (R199) -/

/-- A step of Newton's iteration from above stays above the root and halves the distance. -/
theorem newton_step {n x : Nat} (hx : n.sqrt < x) : n.sqrt ≤ (x + n / x) / 2 ∧ n / x ≤ n.sqrt := by
  have hle := Nat.sqrt_le n
  have hlt := Nat.lt_succ_sqrt n
  generalize n.sqrt = s at *
  have hdiv : n / x ≤ s := by
    refine Nat.le_of_lt_succ ((Nat.div_lt_iff_lt_mul (by omega)).mpr (Nat.lt_of_lt_of_le hlt ?_))
    exact Nat.mul_le_mul_left _ hx
  refine ⟨?_, hdiv⟩
  have h : 2 * s - x ≤ n / x := by
    rw [Nat.le_div_iff_mul_le (by omega)]
    refine Nat.le_trans ?_ hle
    rcases Nat.lt_or_ge (2 * s) x with h | h
    · rw [Nat.sub_eq_zero_of_le h.le, Nat.zero_mul]
      exact Nat.zero_le _
    · obtain ⟨d, rfl⟩ := Nat.exists_eq_add_of_le hx.le
      obtain ⟨c, rfl⟩ := Nat.exists_eq_add_of_le (show d ≤ s by omega)
      rw [show 2 * (d + c) - (d + c + d) = c by omega]
      nlinarith
  omega

theorem isqrtFrom_eq {n : Nat} : ∀ fuel x, n.sqrt ≤ x → x < n.sqrt + 2 ^ fuel → isqrtFrom fuel n x = n.sqrt := by
  intro fuel
  induction fuel with
  | zero =>
    intro x hle hlt
    rw [isqrtFrom]
    omega
  | succ fuel ih =>
    intro x hle hlt
    rw [isqrtFrom]
    rcases Nat.lt_or_eq_of_le hle with h | h
    · obtain ⟨hroot, hdiv⟩ := newton_step h
      rw [Nat.pow_succ] at hlt
      rw [if_pos (by omega)]
      exact ih _ hroot (by omega)
    · rw [if_neg, ← h]
      have hsq := Nat.sqrt_le n
      rw [h] at hsq
      rcases Nat.eq_zero_or_pos x with rfl | hpos
      · omega
      · have := (Nat.le_div_iff_mul_le hpos).mpr hsq
        omega

/-- The integer square root. -/
theorem isqrt_eq (n : Nat) : isqrt n = n.sqrt := by
  rw [isqrt]
  split
  case isTrue h => rw [h, Nat.sqrt_zero]
  case isFalse h =>
    have hlt : n.sqrt < 2 ^ (Nat.log2 n / 2 + 1) := by
      refine Nat.sqrt_lt'.mpr (Nat.lt_of_lt_of_le Nat.lt_log2_self ?_)
      rw [← Nat.pow_mul]
      exact Nat.pow_le_pow_right (by decide) (by omega)
    refine isqrtFrom_eq _ _ hlt.le ?_
    have : 2 ^ (Nat.log2 n / 2 + 1) ≤ 2 ^ (Nat.log2 n + 8) := Nat.pow_le_pow_right (by decide) (by omega)
    have := Nat.two_pow_pos (Nat.log2 n + 8)
    rcases Nat.eq_zero_or_pos n.sqrt with h0 | hpos
    · rw [Nat.sqrt_eq_zero] at h0
      exact absurd h0 h
    · omega

/-- A root with its lost part kept as a last bit 1. -/
def stickyRoot (n : Nat) : Nat := 2 * n.sqrt + if n.sqrt * n.sqrt = n then 0 else 1

/-- No even number tells it from the exact root. -/
theorem stickyRoot_lt {n b : Nat} (h : stickyRoot n < 2 * b) : n < b * b := by
  have hlt := Nat.lt_succ_sqrt n
  have hb : n.sqrt + 1 ≤ b := by
    rw [stickyRoot] at h
    omega
  exact Nat.lt_of_lt_of_le hlt (Nat.mul_le_mul hb hb)

theorem lt_stickyRoot {n b : Nat} (h : 2 * b < stickyRoot n) : b * b < n := by
  have hle := Nat.sqrt_le n
  rw [stickyRoot] at h
  split at h
  case isTrue hsq =>
    rw [← hsq]
    exact Nat.mul_self_lt_mul_self (by omega)
  case isFalse hsq =>
    exact Nat.lt_of_le_of_lt (Nat.mul_le_mul (by omega) (by omega)) (Nat.lt_of_le_of_ne hle hsq)

theorem stickyRoot_eq {n b : Nat} (h : stickyRoot n = 2 * b) : b * b = n := by
  rw [stickyRoot] at h
  split at h
  case isTrue hsq =>
    obtain rfl : n.sqrt = b := by omega
    exact hsq
  case isFalse => omega

section
variable {q : FloatFmt} {x : Nat}

/-- A value that is at least the least normal number is not tiny. -/
theorem isTiny_normal (hq : q.Fits) (mode : RoundMode) (neg : Bool) {m : Nat} (hm : m ≠ 0) {e : Int} (he : -596 ≤ e)
    (h : 2 ^ (q.fb + leastExp q + 298) ≤ scaled m e) : isTiny q mode neg m e = false := by
  have hemin := emin_eq hq
  obtain ⟨-, hhi⟩ := scaled_log2 hm he
  have hexp := (Nat.pow_lt_pow_iff_right (by decide)).mp (Nat.lt_of_le_of_lt h hhi)
  rw [isTiny, decide_eq_false (by omega), Bool.false_and]

/-- A number with an odd significand of fb + 2 bits is no root of a number of the layout. -/
theorem square_ne {s m i j : Nat} (hs : 2 ^ q.fb ≤ s) (hm : 0 < m) (hlt : m < 2 ^ (q.fb + 1)) :
    (2 * s + 1) * (2 * s + 1) * 2 ^ i ≠ m * 2 ^ j := by
  intro h
  have hodd : Nat.Coprime ((2 * s + 1) * (2 * s + 1)) (2 ^ j) := by
    have : Nat.Coprime (2 * s + 1) 2 := by
      rw [Nat.coprime_two_right]
      exact odd_two_mul_add_one s
    exact (Nat.Coprime.mul_left this this).pow_right j
  have hdvd := hodd.dvd_of_dvd_mul_right (h ▸ Dvd.intro _ rfl)
  have hle := Nat.le_of_dvd hm hdvd
  rw [Nat.pow_succ] at hlt
  nlinarith

theorem le_stickyRoot {n b : Nat} (h : 2 * b ≤ stickyRoot n) : b * b ≤ n := by
  rcases Nat.lt_or_eq_of_le h with h | h
  · exact (lt_stickyRoot h).le
  · exact (stickyRoot_eq h.symm).le

/-- Squares of sums in units of 4g. -/
theorem square_above {n g b c : Nat} (hg : 0 < g) (hn : n < b * b) (hc : 4 * g * b ≤ c) : 4 * (4 * n * (g * g)) < c ^ 2 :=
  calc 4 * (4 * n * (g * g)) = 16 * (g * g) * n := by ring
    _ < 16 * (g * g) * (b * b) := Nat.mul_lt_mul_of_pos_left hn (by positivity)
    _ = (4 * g * b) ^ 2 := by ring
    _ ≤ c ^ 2 := Nat.pow_le_pow_left hc 2

theorem square_below {n g b c : Nat} (hn : b * b ≤ n) (hc : c < 4 * g * b) : c ^ 2 < 4 * (4 * n * (g * g)) :=
  calc c ^ 2 < (4 * g * b) ^ 2 := Nat.pow_lt_pow_left hc (by decide)
    _ = 16 * (g * g) * (b * b) := by ring
    _ ≤ 16 * (g * g) * n := Nat.mul_le_mul_left _ hn
    _ = 4 * (4 * n * (g * g)) := by ring

theorem square_below_of_lt {n g b c : Nat} (hg : 0 < g) (hn : b * b < n) (hc : c ≤ 4 * g * b) : c ^ 2 < 4 * (4 * n * (g * g)) :=
  calc c ^ 2 ≤ (4 * g * b) ^ 2 := Nat.pow_le_pow_left hc 2
    _ = 16 * (g * g) * (b * b) := by ring
    _ < 16 * (g * g) * n := Nat.mul_lt_mul_of_pos_left hn (by positivity)
    _ = 4 * (4 * n * (g * g)) := by ring

/-- A sticky root at a place that the numbers near it are multiples of rounds to the number nearest to the exact root. -/
theorem root_nearest {n g k mag G P : Nat} (hg : 0 < g) (hR : RoundsMag q .rne false (stickyRoot n * g) k mag)
    (hgap : 2 ^ magGap q k = g * (4 * G)) (hP : magScaled q k = g * (2 * P)) (hne : (P + G) * (P + G) ≠ n) (j : Nat) :
    (mag < j → 4 * (4 * n * (g * g)) < (magScaled q mag + magScaled q j) ^ 2) ∧
      (j < mag → (magScaled q mag + magScaled q j) ^ 2 < 4 * (4 * n * (g * g))) := by
  have hsucc := magScaled_succ q k
  have hmono {a b : Nat} : a ≤ b → magScaled q a ≤ magScaled q b := magScaled_le.mpr
  obtain ⟨hlo, hhi, hmag⟩ := hR
  have hup := upIff_roundsUp .rne false k (stickyRoot n * g - magScaled q k) (magGap q k)
  generalize roundsUp .rne false k (stickyRoot n * g - magScaled q k) (magGap q k) = up at hmag hup
  rw [hgap, hP, Nat.mul_comm _ g, ← Nat.mul_sub] at hup
  rw [hP, hgap, ← Nat.mul_add] at hsucc
  rw [hP, Nat.mul_comm _ g, Nat.mul_le_mul_left_iff hg] at hlo
  rw [hsucc, Nat.mul_comm _ g, Nat.mul_lt_mul_left hg] at hhi
  have heven : stickyRoot n ≠ 2 * (P + G) := fun h => hne (stickyRoot_eq h)
  cases up
  · -- rounded down
    obtain rfl : mag = k := hmag
    have hhalf : stickyRoot n < 2 * (P + G) := by
      have := hup.1
      rw [Nat.mul_left_comm 2 g, Nat.mul_le_mul_left_iff hg] at this
      omega
    refine ⟨fun hj => square_above hg (stickyRoot_lt hhalf) ?_, fun hj => square_below (le_stickyRoot hlo) ?_⟩
    · have := hmono hj
      rw [Nat.succ_eq_add_one, hsucc] at this
      rw [hP]
      nlinarith
    · have := hmono hj
      have hlt := magScaled_succ q j
      have := Nat.two_pow_pos (magGap q j)
      rw [hP] at *
      nlinarith
  · obtain rfl : mag = k + 1 := hmag
    have hhalf : 2 * (P + G) < stickyRoot n := by
      have := hup.1
      rw [Nat.mul_left_comm 2 g, Nat.mul_le_mul_left_iff hg] at this
      omega
    refine ⟨fun hj => square_above hg (b := P + 2 * G) (stickyRoot_lt (by omega)) ?_, fun hj => square_below_of_lt hg (lt_stickyRoot hhalf) ?_⟩
    · have := hmono hj.le
      rw [hsucc] at *
      nlinarith
    · have := hmono (Nat.le_of_lt_succ hj)
      rw [hsucc]
      rw [hP] at this
      nlinarith

/-- The significand whose root is taken, and half its exponent: at least 80 bits are added, the exponent made even. -/
def rootSig (m : Nat) (e : Int) : Nat := if e % 2 = 0 then m * 2 ^ 80 else m * 2 ^ 81
def rootExp (e : Int) : Int := if e % 2 = 0 then e / 2 - 40 else (e - 1) / 2 - 40

theorem rootSig_eq (m : Nat) (e : Int) : ∃ d : Nat, rootSig m e = m * 2 ^ d ∧ 80 ≤ d ∧ e = 2 * rootExp e + d ∧ e / 2 = rootExp e + 40 := by
  rw [rootSig, rootExp]
  split
  · exact ⟨80, rfl, by omega⟩
  · exact ⟨81, rfl, by omega⟩

theorem fSqrt_positive (hf : isFinite q x = true) (h : 0 < floatUnits q x) :
    let e := q.emin + magPlace q (magOf q x)
    let y := roundFin q .rne false (stickyRoot (rootSig (magSig q (magOf q x)) e)) (rootExp e - 1)
    fSqrt q x = (y.bits, y.flags) := by
  have hm : magSig q (magOf q x) ≠ 0 := fun h0 => by
    rw [(floatUnits_eq_zero q x).mpr (magSig_eq_zero.mp h0)] at h
    exact absurd h (Int.lt_irrefl 0)
  have hs : signOf q x = false := by
    rw [floatUnits_withSign, withSign_pos_iff] at h
    exact h.1
  simp only [fSqrt, value_finite hf, hm, hs, if_false, Bool.false_eq_true, isqrt_eq]
  generalize q.emin + magPlace q (magOf q x) = e
  have he2 : (if e % 2 = 0 then e - 80 else e - 81) / 2 = rootExp e := by
    rw [rootExp]
    split <;> omega
  rw [he2]
  rfl

end

end Sys2Proof.Machine

namespace Sys2Proof.Machine
open Sys2Proof

section
variable {q : FloatFmt} {x : Nat}

theorem magScaled_eq (q : FloatFmt) (k : Nat) : magScaled q k = magSig q k * 2 ^ magGap q k := by
  rw [magScaled, magUnits, magGap, Nat.mul_assoc, ← Nat.pow_add]

/-- From the least normal magnitude on the significand has its leading bit. -/
theorem magSig_normal {k : Nat} (h : 2 ^ q.fb ≤ k) : 2 ^ q.fb ≤ magSig q k := by
  obtain ⟨hk, -, hd⟩ := magSig_add_place q k
  rcases hd with hd | hd
  · exact hd
  · rw [hd, Nat.zero_mul] at hk
    omega

theorem magScaled_normal (q : FloatFmt) : magScaled q (2 ^ q.fb) = 2 ^ (q.fb + leastExp q + 298) := by
  obtain ⟨hs, hp⟩ := magSig_place (q := q) (n := 2 ^ q.fb) (d := 0) (Nat.pow_lt_pow_right (by decide) (Nat.lt_succ_self _)) (.inr rfl)
  rw [Nat.zero_mul, Nat.add_zero] at hs hp
  rw [magScaled_eq, hs, magGap, hp, ← Nat.pow_add, Nat.add_zero, Nat.add_assoc]

/-- The place of a magnitude that begins at or below 2^a is not far below 2^a. -/
theorem magGap_ge {k a v : Nat} (ha : 2 ^ a ≤ v) (hv : v < magScaled q (k + 1)) : a < q.fb + 1 + magGap q k := by
  obtain ⟨-, hsig, -⟩ := magSig_add_place q k
  rw [magScaled_succ, magScaled_eq, ← Nat.succ_mul] at hv
  refine (Nat.pow_lt_pow_iff_right (Nat.le_refl 2)).mp (Nat.lt_of_le_of_lt ha (Nat.lt_of_lt_of_le hv ?_))
  rw [Nat.pow_add]
  exact Nat.mul_le_mul_right _ hsig

theorem topUnits_ge (hq : q.Fits) : 2 ^ (595 + 2 ^ (q.eb - 1)) ≤ topUnits q := by
  have heb := two_pow_eb hq
  have hfb := hq.fb_lt
  have hleast := hq.least
  have hp := Nat.two_pow_pos q.fb
  calc 2 ^ (595 + 2 ^ (q.eb - 1)) = 2 ^ (q.fb + (leastExp q + (2 ^ q.eb - 3) + 298)) := by congr 1; rw [leastExp]; omega
    _ = 2 ^ q.fb * lastUnit q := by rw [lastUnit, ← Nat.pow_add, ← Nat.pow_add]
    _ ≤ topUnits q := Nat.mul_le_mul_right _ (by rw [Nat.pow_succ]; omega)

/-- The root of a number of the layout is far below the largest one. -/
theorem root_in_range (hq : q.Fits) {k u : Nat} (hu : u * 2 ^ 298 ≤ topUnits q) (h : magScaled q k ^ 2 ≤ u * 2 ^ 894) :
    k < q.infBits - 1 := by
  obtain ⟨htop, -, -⟩ := magScaled_top hq
  have hgt : 2 ^ 596 < topUnits q :=
    Nat.lt_of_lt_of_le (Nat.pow_lt_pow_right (by decide) (by have := hq.fb_lt; omega)) (topUnits_ge hq)
  refine Nat.lt_of_not_le fun hk => Nat.not_le.mpr hgt ?_
  have hle := (magScaled_le (q := q)).mpr hk
  rw [htop] at hle
  refine Nat.le_of_mul_le_mul_left (c := topUnits q) ?_ (Nat.lt_trans (Nat.two_pow_pos 596) hgt)
  calc topUnits q * topUnits q = topUnits q ^ 2 := (Nat.pow_two _).symm
    _ ≤ magScaled q k ^ 2 := Nat.pow_le_pow_left hle 2
    _ ≤ u * 2 ^ 894 := h
    _ = u * 2 ^ 298 * 2 ^ 596 := by rw [Nat.mul_assoc, ← Nat.pow_add]
    _ ≤ topUnits q * 2 ^ 596 := Nat.mul_le_mul_right _ hu

/-- The root of a positive number, by its magnitude: it is normal and finite, and nearer to the exact root than any other. -/
theorem root_magnitude (hq : q.Fits) (hf : isFinite q x = true) (hm : magOf q x ≠ 0) :
    let e := q.emin + magPlace q (magOf q x)
    let y := roundFin q .rne false (stickyRoot (rootSig (magSig q (magOf q x)) e)) (rootExp e - 1)
    ∃ mag, mag < q.infBits ∧ y.bits = mag ∧ y.flags = noFlags ∧
      ∀ j, (mag < j → 4 * (magUnits q (magOf q x) * 2 ^ 894) < (magScaled q mag + magScaled q j) ^ 2) ∧
        (j < mag → (magScaled q mag + magScaled q j) ^ 2 < 4 * (magUnits q (magOf q x) * 2 ^ 894)) := by
  have hemin := emin_eq hq
  have hge := emin_ge hq
  have hfb := hq.fb_lt
  have hfb' := hq.fb_le
  have hleast := hq.least
  have hbig : magUnits q (magOf q x) * 2 ^ 298 ≤ topUnits q := magUnits_top hq (isFinite_iff.mp hf)
  have hm0 := Nat.pos_of_ne_zero ((magSig_eq_zero (q := q)).not.mpr hm)
  obtain ⟨-, hsig, -⟩ := magSig_add_place q (magOf q x)
  dsimp only
  obtain ⟨d, hn, hd, he, hhalf⟩ := rootSig_eq (magSig q (magOf q x)) (q.emin + magPlace q (magOf q x))
  generalize hE : rootExp (q.emin + magPlace q (magOf q x)) = E at he hhalf
  generalize rootSig (magSig q (magOf q x)) (q.emin + magPlace q (magOf q x)) = n at hn
  have hunits : 4 * n * (2 ^ (E + 595).toNat * 2 ^ (E + 595).toNat) = magUnits q (magOf q x) * 2 ^ 894 := by
    rw [hn, magUnits, Nat.mul_assoc _ _ (2 ^ 894), ← Nat.pow_add, ← Nat.pow_add, show 4 = 2 ^ 2 from rfl, Nat.mul_left_comm,
      Nat.mul_assoc, ← Nat.pow_add, ← Nat.pow_add]
    congr 2
    omega
  generalize magUnits q (magOf q x) = u at *
  generalize magSig q (magOf q x) = m at *
  have hroot : 2 ^ 41 ≤ stickyRoot n := by
    have : 2 ^ 40 ≤ n.sqrt := by
      rw [Nat.le_sqrt', hn, ← Nat.pow_mul]
      exact Nat.le_trans (Nat.pow_le_pow_right (by decide) hd) (Nat.le_mul_of_pos_left _ hm0)
    rw [stickyRoot]
    omega
  have hlow : 2 ^ (E + 636).toNat ≤ scaled (stickyRoot n) (E - 1) := by
    rw [show (E + 636).toNat = 41 + (E + 595).toNat by omega, Nat.pow_add]
    exact Nat.mul_le_mul hroot (Nat.pow_le_pow_right (by decide) (by omega))
  have hnormal : 2 ^ (q.fb + leastExp q + 298) ≤ scaled (stickyRoot n) (E - 1) :=
    Nat.le_trans (Nat.pow_le_pow_right (by decide) (by rw [leastExp] at *; omega)) hlow
  have hm1 : stickyRoot n ≠ 0 := by have := Nat.two_pow_pos 41; omega
  have htiny := isTiny_normal hq .rne false hm1 (show -596 ≤ E - 1 by omega) hnormal
  obtain ⟨k, mag, hR, heq⟩ := roundFin_eq hq .rne false (stickyRoot n) (show -596 ≤ E - 1 by omega)
  have hv : scaled (stickyRoot n) (E - 1) = stickyRoot n * 2 ^ (E + 595).toNat := by
    rw [scaled]
    congr 2
    omega
  -- the place of the result is far above the last bit of the root
  have hgap := magGap_ge hlow hR.hi
  have hk : 2 ^ q.fb ≤ k := by
    refine Nat.le_of_lt_succ (Nat.lt_of_not_le fun hle => ?_)
    have := (magScaled_le (q := q)).mpr hle
    rw [magScaled_normal] at this
    exact Nat.not_le.mpr (Nat.lt_of_le_of_lt hnormal hR.hi) this
  obtain ⟨i, hi⟩ := Nat.exists_eq_add_of_le (show (E + 595).toNat + 2 ≤ magGap q k by omega)
  have hG : 2 ^ magGap q k = 2 ^ (E + 595).toNat * (4 * 2 ^ i) := by
    rw [hi, Nat.add_assoc, Nat.pow_add, Nat.pow_add 2 2]
  have hP : magScaled q k = 2 ^ (E + 595).toNat * (2 * (2 * 2 ^ i * magSig q k)) := by
    rw [magScaled_eq, hG]
    ring
  have hne : (2 * 2 ^ i * magSig q k + 2 ^ i) * (2 * 2 ^ i * magSig q k + 2 ^ i) ≠ n := by
    have := square_ne (i := i + i) (j := d) (magSig_normal hk) hm0 hsig
    rw [← hn, Nat.pow_add] at this
    refine fun h => this (Eq.trans ?_ h)
    ring
  rw [hv] at hR
  have hnear := root_nearest (Nat.two_pow_pos _) hR hG hP hne
  rw [hunits] at hnear
  have hlo : magScaled q k ^ 2 ≤ u * 2 ^ 894 := by
    have hle := hR.lo
    rw [hP, Nat.mul_comm (stickyRoot n), Nat.mul_le_mul_left_iff (Nat.two_pow_pos _)] at hle
    rw [← hunits, hP]
    have := Nat.mul_le_mul_left (4 * (2 ^ (E + 595).toNat * 2 ^ (E + 595).toNat)) (le_stickyRoot hle)
    refine (Nat.le_of_eq ?_).trans (this.trans (Nat.le_of_eq ?_)) <;> ring
  have hfin : mag < q.infBits := by
    have := root_in_range hq hbig hlo
    have := hR.mag
    split at this <;> omega
  refine ⟨mag, hfin, ?_, ?_, hnear⟩
  · rw [heq, roundedOf, if_neg (Nat.not_le.mpr hfin)]
    rfl
  · rw [heq, roundedOf, if_neg (Nat.not_le.mpr hfin), htiny]
    rfl

/-- A square root is nearer to the exact root than any other number of its layout. -/
theorem fSqrt_nearest (hq : q.Fits) (hf : isFinite q x = true) (h : 0 < floatUnits q x) :
    let y := (fSqrt q x).1
    isFinite q y = true ∧ signOf q y = false ∧ y < q.signBit ∧ (fSqrt q x).2 = noFlags ∧
      ∀ z : Nat, isFinite q z = true → signOf q z = false →
        (floatUnits q y < floatUnits q z → 4 * (floatUnits q x * 2 ^ 298) < (floatUnits q y + floatUnits q z) ^ 2) ∧
        (floatUnits q z < floatUnits q y → (floatUnits q y + floatUnits q z) ^ 2 < 4 * (floatUnits q x * 2 ^ 298)) := by
  have hpos := h
  rw [floatUnits_withSign, withSign_pos_iff] at hpos
  obtain ⟨hsign, hne⟩ := hpos
  have hm : magOf q x ≠ 0 := fun h0 => hne (by rw [h0, magUnits_zero])
  obtain ⟨mag, hfin, hbits, hflags, hnear⟩ := root_magnitude hq hf hm
  have heq := fSqrt_positive hf h
  dsimp only at heq ⊢
  rw [heq, hbits, hflags]
  have hlt := Nat.lt_trans hfin (infBits_lt_signBit q)
  have hmag : magOf q mag = mag := Nat.mod_eq_of_lt hlt
  have hs : signOf q mag = false := signOf_signed (neg := false) hlt
  have hunits (z : Nat) (hz : signOf q z = false) : floatUnits q z = magUnits q (magOf q z) := by
    rw [floatUnits_withSign, hz]
    rfl
  refine ⟨isFinite_iff.mpr (hmag.symm ▸ hfin), hs, hlt, rfl, fun z _ hz => ?_⟩
  rw [hunits mag hs, hunits z hz, hunits x hsign, hmag]
  have hscale (j : Nat) : magScaled q j = magUnits q j * 2 ^ 298 := rfl
  have h894 : (2 : Nat) ^ 894 = 2 ^ 298 * (2 ^ 298) ^ 2 := by rw [← Nat.pow_mul, ← Nat.pow_add]
  obtain ⟨hup, hdown⟩ := hnear (magOf q z)
  rw [hscale, hscale, ← Nat.add_mul, Nat.mul_pow, h894, ← Nat.mul_assoc, ← Nat.mul_assoc] at hup hdown
  have hp : 0 < (2 ^ 298) ^ 2 := by positivity
  constructor
  · intro hlt
    have := Nat.lt_of_mul_lt_mul_right (hup ((magUnits_strictMono q).lt_iff_lt.mp (by exact_mod_cast hlt)))
    rw [← Int.mul_assoc]
    exact_mod_cast this
  · intro hlt
    have := Nat.lt_of_mul_lt_mul_right (hdown ((magUnits_strictMono q).lt_iff_lt.mp (by exact_mod_cast hlt)))
    rw [← Int.mul_assoc]
    exact_mod_cast this

end

end Sys2Proof.Machine

namespace Sys2Proof.Machine
open Sys2Proof

/-! ### The tables of the approximations (R209)

Every entry is a real number rounded once. The real is enclosed between two multiples of 2^−128, and both lie strictly between the
midpoints next to one magnitude. -/

section
variable {q : FloatFmt} {neg : Bool} {v k k' mag : Nat}

/-- A value strictly between the midpoints next to a magnitude rounds to it. -/
theorem mag_of_midpoints (hR : RoundsMag q .rne neg v k' mag) (hk : 0 < k) (hlo : magScaled q (k - 1) + magScaled q k < 2 * v)
    (hhi : 2 * v < magScaled q k + magScaled q (k + 1)) : mag = k := by
  have hsucc := magScaled_succ q k'
  obtain ⟨hle, hlt, hmag⟩ := hR
  have hup := upIff_roundsUp .rne neg k' (v - magScaled q k') (magGap q k')
  generalize roundsUp .rne neg k' (v - magScaled q k') (magGap q k') = up at hmag hup
  have hmono {a b : Nat} : a ≤ b → magScaled q a ≤ magScaled q b := magScaled_le.mpr
  have hk' : k' = k ∨ k' + 1 = k := by
    rcases Nat.lt_trichotomy k' k with h | h | h
    · right
      refine Nat.le_antisymm h (Nat.le_of_not_lt fun h' => ?_)
      have h1 := hmono (show k' + 1 ≤ k - 1 by omega)
      have h2 := hmono (show k - 1 ≤ k by omega)
      omega
    · exact .inl h
    · have h1 := hmono (show k + 1 ≤ k' by omega)
      have h2 := hmono (show k ≤ k + 1 by omega)
      omega
  rcases hk' with rfl | rfl
  · cases up
    · exact hmag
    · have := hup.1
      omega
  · rw [Nat.add_sub_cancel] at hlo
    cases up
    · have := hup.1
      omega
    · exact hmag

end

/-- The magnitude that a real between 2^−100 and 1, in units of 2^−128, rounds to but for ties. -/
def nearMag (a : Nat) : Nat := (a + 2 ^ (Nat.log2 a - 24)) / 2 ^ (Nat.log2 a - 23) + (Nat.log2 a - 2) * 2 ^ 23

/-- Every real from lo to hi, in units of 2^−128, rounds to the magnitude k, which is less than 2. -/
def pins (lo hi k : Nat) : Bool :=
  Nat.blt 0 k && Nat.blt k 0x40000000 && Nat.blt (magScaled fp32 (k - 1) + magScaled fp32 k) (2 * (lo * 2 ^ 468)) &&
    Nat.blt (2 * (hi * 2 ^ 468)) (magScaled fp32 k + magScaled fp32 (k + 1))

theorem blt_iff {a b : Nat} : Nat.blt a b = true ↔ a < b := by
  rw [Nat.blt, Nat.ble_eq]
  rfl

structure Pins (lo hi k : Nat) : Prop where
  pos : 0 < k
  lt : k < 0x40000000
  lo : magScaled fp32 (k - 1) + magScaled fp32 k < 2 * (lo * 2 ^ 468)
  hi : 2 * (hi * 2 ^ 468) < magScaled fp32 k + magScaled fp32 (k + 1)

theorem pins_iff {lo hi k : Nat} : pins lo hi k = true ↔ Pins lo hi k := by
  rw [pins, Bool.and_eq_true, Bool.and_eq_true, Bool.and_eq_true, blt_iff, blt_iff, blt_iff, blt_iff]
  exact ⟨fun ⟨⟨⟨h1, h2⟩, h3⟩, h4⟩ => ⟨h1, h2, h3, h4⟩, fun ⟨h1, h2, h3, h4⟩ => ⟨⟨⟨h1, h2⟩, h3⟩, h4⟩⟩

section
variable {lo hi k : Nat}

theorem Pins.finite (h : Pins lo hi k) : k < fp32.infBits := Nat.lt_trans h.lt (by decide)

theorem Pins.lo_pos (h : Pins lo hi k) : 0 < lo := by
  refine Nat.pos_of_ne_zero ?_
  rintro rfl
  have := h.lo
  rw [Nat.zero_mul] at this
  omega

/-- A number of units between the bounds rounds to the magnitude. -/
theorem Pins.rounds (h : Pins lo hi k) (neg : Bool) {m : Nat} {e : Int} (he : -596 ≤ e) (hlo : lo * 2 ^ 468 ≤ scaled m e)
    (hhi : scaled m e ≤ hi * 2 ^ 468) :
    (roundFin fp32 .rne neg m e).bits = signed fp32 neg k ∧ FloatPicks fp32 .rne (withSign neg (scaled m e)) (signed fp32 neg k) := by
  obtain ⟨k', mag, hR, heq⟩ := roundFin_eq fp32_fits .rne neg m he
  have hl := h.lo
  have hh := h.hi
  obtain rfl : mag = k := mag_of_midpoints hR h.pos (by omega) (by omega)
  rw [heq, roundedOf, if_neg (Nat.not_le.mpr h.finite)]
  exact ⟨rfl, floatPicks_of_roundsMag fp32_fits hR h.finite⟩

/-- The entry of a table. -/
theorem Pins.entry (h : Pins lo hi k) (neg : Bool) {m : Nat} {exact : Bool} (hlo : lo ≤ m) (hhi : m + 1 ≤ hi) :
    roundReal neg m exact tableBits = signed fp32 neg k := by
  have hs (n : Nat) : scaled n (-((tableBits : Nat) : Int) - 1) = n * 2 ^ 467 := rfl
  have h468 : 2 ^ 468 = 2 * 2 ^ 467 := Nat.pow_succ'
  refine (h.rounds neg (by decide) ?_ ?_).1 <;> rw [hs, h468, ← Nat.mul_assoc] <;> refine Nat.mul_le_mul_right _ ?_ <;> split <;> omega

theorem Pins.picks (h : Pins lo hi k) (neg : Bool) {r : Int} (hr : r = withSign neg r.natAbs) (hlo : lo ≤ r.natAbs) (hhi : r.natAbs ≤ hi) :
    FloatPicks fp32 .rne (r * 2 ^ 468) (signed fp32 neg k) := by
  have hs : scaled r.natAbs (-128) = r.natAbs * 2 ^ 468 := rfl
  have := (h.rounds neg (m := r.natAbs) (e := -128) (by decide) (by rw [hs]; exact Nat.mul_le_mul_right _ hlo)
    (by rw [hs]; exact Nat.mul_le_mul_right _ hhi)).2
  rw [hs] at this
  convert this using 1
  rw [hr, natAbs_withSign]
  cases neg <;> simp [withSign]

end

/-- A test of the neighbours of a list with their number. -/
def allPairs (p : Nat → Nat → Nat → Bool) : Nat → List Nat → Bool
  | j, a :: b :: l => p j a b && allPairs p (j + 1) (b :: l)
  | _, _ => true

theorem allPairs_get {p : Nat → Nat → Nat → Bool} : ∀ {l : List Nat} {i : Nat}, allPairs p i l = true →
    ∀ n, n + 1 < l.length → p (i + n) (l.getD n 0) (l.getD (n + 1) 0) = true
  | [], _, _, n, hn => absurd hn (Nat.not_lt_zero _)
  | [_], _, _, n, hn => absurd hn (by simp)
  | a :: b :: l, i, h, n, hn => by
    rw [allPairs, Bool.and_eq_true] at h
    cases n with
    | zero => exact h.1
    | succ n =>
      have := allPairs_get h.2 n (by simpa using hn)
      rwa [Nat.add_assoc, Nat.add_comm 1 n] at this

/-- The floors of 2^(128 + j/64), j = 0..64. -/
def exp2Floors : List Nat := [
  0x100000000000000000000000000000000, 0x102c9a3e778060ee6f7caca4f7a29bde9, 0x1059b0d31585743ae7c548eb68ca417fe,
  0x10874518759bc808c35f25d9427fa2b04, 0x10b5586cf9890f6298b92b71842a98364, 0x10e3ec32d3d1a2020742e4f8af6a552ac,
  0x111301d0125b50a4ebbf1aed9318ceac5, 0x11429aaea92ddfb34101943b2586d0184, 0x1172b83c7d517adcdf7c8c50eb14a7920,
  0x11a35beb6fcb753cb698f692d1c835a6c, 0x11d4873168b9aa7805b8028990f07a98b, 0x12063b88628cd63b8eeb02950929d0fc4,
  0x12387a6e75623866c1fadb1c15cb593b0, 0x126b4565e27cdd257a673281d3b249dce, 0x129e9df51fdee12c25d15f5a24aa3bca8,
  0x12d285a6e4030b40091d536d075384589, 0x1306fe0a31b7152de8d5a46305c85edec, 0x133c08b26416ff4c9c8610d96696bf95d,
  0x1371a7373aa9caa7145502f4547987e3e, 0x13a7db34e59ff6ea1bc9299e0a1d33616, 0x13dea64c12342235b41223e13d773fba2,
  0x14160a21f72e29f84325b8f3db61fb352, 0x144e086061892d03136f409df019fbd4f, 0x1486a2b5c13cd013c1a3b69062f03c3dd,
  0x14bfdad5362a271d4397afec42e20e036, 0x14f9b2769d2ca6ad33d8b69aa073ee55e, 0x15342b569d4f81df0a83c49d86a63f4e6,
  0x156f4736b527da66ecb004764eb3c00f2, 0x15ab07dd48542958c93015191eb345d88, 0x15e76f15ad21486e9be4c20399766a065,
  0x16247eb03a5584b1f0fa06fd2da42bb1c, 0x166238825522249127d9e29b8f314a337, 0x16a09e667f3bcc908b2fb1366ea957d3e,
  0x16dfb23c651a2ef220e2cbe1bbaa834b3, 0x171f75e8ec5f73dd2370f2ef0acd6cb43, 0x175feb564267c8bf6e9aa33a48b270718,
  0x17a11473eb0186d7d51023f6cda1f5ef4, 0x17e2f336cf4e62105d02ba15797e170a1, 0x182589994cce128acf88afab34a010f6a,
  0x1868d99b4492ec80e41d90ac251707484, 0x18ace5422aa0db5ba7c55a192c9bb3e6e, 0x18f1ae991577362b982745c72ed804efc,
  0x193737b0cdc5e4f4501c3f2540a22d2fc, 0x197d829fde4e4f8b9e920f91e8bd7edb9, 0x19c49182a3f0901c7c46b071f2be58dda,
  0x1a0c667b5de564b29ada8b8cab349aa04, 0x1a5503b23e255c8b424491caf87bc8050, 0x1a9e6b5579fdbf43eb243bdff4c4c58b5,
  0x1ae89f995ad3ad5e8734d1773205a7fbc, 0x1b33a2b84f15faf6bfd0e7bd947c25757, 0x1b7f76f2fb5e46eaa7b081ab53c5354c8,
  0x1bcc1e904bc1d2247ba0f45b3d08cd0b2, 0x1c199bdd85529c2220cb12a091ba66794, 0x1c67f12e57d14b4a2137fd20f2b301dd9,
  0x1cb720dcef90691503cbd1e949db761d9, 0x1d072d4a07897b8d0f22f21a158e18fbb, 0x1d5818dcfba48725da05aeb66e0dca9f5,
  0x1da9e603db3285708c01a5b6d4c97f624, 0x1dfc97337b9b5eb968cac39ed291b7225, 0x1e502ee78b3ff6273d130153991e8f496,
  0x1ea4afa2a490d9858f73a18f5db301f86, 0x1efa1bee615a27771fd21a92dac1f6dd5, 0x1f50765b6e4540674f84b762862baff99,
  0x1fa7c1819e90d82e90a7e74b263c1dc06, 0x200000000000000000000000000000000]

/-- The floors of 2^128/√(1 + j/32), j = 0..96. -/
def rsqFloors : List Nat := [
  0x100000000000000000000000000000000, 0xfc176441607cd51b342fe0afde0e16de, 0xf85b42469578e14662c4cc8a64441ba6,
  0xf4c866d6aaf691138251cdbc810efee7, 0xf15beeeff7d330b077520cef470e537e, 0xee133df522aa45ec5c6c63b7b2ae4e2c,
  0xeaebf548a5c9b634881ad0784dec39c4, 0xe7e3ed19549097058490176f36da6730, 0xe4f92e2dff6ec9ab294a33804a57d35c,
  0xe229ec8782bd0dff077d1628a1d7a6c1, 0xdf7482b7dce1c57c33d03c1f48702ebc, 0xdcd76dd2c41a3a481ff884116bd07de8,
  0xda5149e0ecaa7db00e7b8bf47e099bec, 0xd7e0cec3030b492249b0f34d3a75549c, 0xd584cd747a9ccdb66b08e129bad8b875,
  0xd33c2da0dd67baa11a307c0a6051de01, 0xd105eb806161efe021660d76bc38eda2, 0xcee115f24222bc04f88f78cd18556c23,
  0xcccccccccccccccccccccccccccccccc, 0xcac83f5c3d5a212f0ec0f12004533582, 0xc8d2ab0a8bb0dc5df70cc29546b9999b,
  0xc6eb5a2b1d004aa62ba9a89be1bff46b, 0xc511a2e602212de165fabedca76e5359, 0xc344e63f03f3e455de999d21ed40048f,
  0xc1848f353fbf344516791d2da5909baa, 0xbfd011f8834686acefb5a2ba51149537, 0xbe26eb31f5dc40b19980e3520c486079,
  0xbc889f5debb94ae34efd81d40819d24b, 0xbaf4ba350584c3c01ecdda5de31945e3, 0xb96ace22f8fe282b98694d3e7a736623,
  0xb7ea73c992a3354d59debf8d9adb2589, 0xb673498eac2c68638e65244f0e0a0581, 0xb504f333f9de6484597d89b3754abe9f,
  0xb39f1977b1d01a570a30f389212913af, 0xb24169bd2d1e8c04465e055f64805b5c, 0xb0eb95bcbc3385b42760cc32765dbc5b,
  0xaf9d5339fd488539fa34d5617857e620, 0xae565bc0179a110a18a646d687456279, 0xad166c634eb0d365f9caf7000ad39627,
  0xabdd4587700dc82b7d2d7d7a4b990108, 0xaaaaaaaaaaaaaaaaaaaaaaaaaaaaaaaa, 0xa97e62346b5aa047243fad392f645847,
  0xa8583547e35b7f447ffa2f9e52dd28b8, 0xa737ef99e7818cb34deb3df89693f14e, 0xa61d5f49de7b9e417a0b4cb03e506f55,
  0xa50854bd7bdc90d6ac57613d67bf525e, 0xa3f8a27f0bfcf8ac85645893b5026af5, 0xa2ee1d1e1a7d14d01ea064bc6e2165e2,
  0xa1e89b12424876d9b744b679ebd7ff75, 0xa0e7f49ffa8ccb204f8c089f84b437a9, 0x9fec03bf382bb62a40fa0f64568aa4f5,
  0x9ef4a403bedac3336906796a446fe52f, 0x9e01b2870070175e708bba2cee499199, 0x9d130dd36bd1b4be3ce38c2fa55ebae8,
  0x9c2895d10fa8f0196ef8ffd8b2fb0106, 0x9b422bb3776491d43bd478db5f9ce282, 0x9a5fb1e8ab412f0ee2991208e3aac822,
  0x99810c093e0701438bf5f776c39e6c6b, 0x98a61ec954f486721b86cd00318fe23d, 0x97cecfea97ea80d160d0384baf3cb6e6,
  0x96fb062ef964ef532eac3e6ba1e6cf78, 0x962aa94c47213c237b97b53c44b927be, 0x955da1e075879f4a23658e31390751c4,
  0x9493d9669907aa8b372196ae681d2962, 0x93cd3a2c8198e2690c7c0f257d92be83, 0x9309af48ed7aa407612f109e3ebe81d8,
  0x92492492492492492492492492492492, 0x918b8695f31c53cab4525d4da95bbd48, 0x90d0c28ffb185069e1313af5f76efee5,
  0x9018c663547aea2eb33ee2e7e3314477, 0x8f63809274c7cb62492c8db832abf634, 0x8eb0e038573e965c6b4f2046f3e36ebc,
  0x8e00d501df44ae2c49352c1139329f5c, 0x8d534f2793bbf7ae383b2660273e5441, 0x8ca83f67adcf44cd9c1760186ddd1c22,
  0x8bff9700761f6c58c1cb7a6087bb3ef2, 0x8b5947aaeb969feac0eeb3a47d7b4917, 0x8ab54395af7b0c7a0caa16bad7d9cfe0,
  0x8a137d6032a6d5ed6645c84087f624a8, 0x8973e816201298b13eab4c696df5b948, 0x88d6772b01214e4aaacbdb3b4a878420,
  0x883b1e7618592ffd314c1c9f998d6151, 0x87a1d22e6f6d66ab379f5478a8f3e7f6, 0x870a86e715b0615a53b57f033d0c371d,
  0x8675318b8c36e3afb077ff9a79a5dca1, 0x85e1c75c5d2092e94f5dd70e2f266667, 0x85503debdba442d21eba9c930487b13d,
  0x84c08b1b0aa4c70a11487260f1640e22, 0x8432a516a7b6d40650aacaf1090ad10a, 0x83a6825458a1bd7786e6efc8554da1e8,
  0x831c198ff983cf9ca9205aef8d3b4514, 0x829361c909dfcc717e901c7f8bb53bee, 0x820c524036f3e6bbcab2fbe248ef40e9,
  0x8186e27501d39247c5d091fb231332c4, 0x81030a237fd4cd836450be1e6e6067c7, 0x8080c14233f7458152d5e406187ef3e4,
  0x80000000000000000000000000000000]

/-! The exponential -/

def isRoot64 (j a : Nat) : Bool := Nat.ble (a ^ 64) (2 ^ (8192 + j)) && Nat.blt (2 ^ (8192 + j)) ((a + 1) ^ 64)

/-- The entries of VEXP2 from two floors. -/
def exp2Entries (j a b : Nat) : Bool :=
  isRoot64 j a && isRoot64 (j + 1) b && pins a (a + 1) (nearMag a) && Nat.ble 0x3F000000 (nearMag a) &&
    pins (64 * (b - a - 1)) (64 * (b - a + 1)) (nearMag (64 * (b - a)))

theorem exp2Entries_all : allPairs exp2Entries 0 exp2Floors = true := by decide +kernel

/-! The reciprocal -/

def rcpEntries (a b : Nat) : Bool :=
  pins a (a + 1) (nearMag a) && Nat.ble 0x3F000000 (nearMag a) && pins b (b + 1) (nearMag b)

theorem rcpEntries_all : ((List.range 64).all fun j =>
    rcpEntries (64 * 2 ^ 128 / (64 + j)) (4096 * 2 ^ 128 / ((64 + j) * (65 + j)))) = true := by decide +kernel

/-! The reciprocal root -/

def isRsq (j a : Nat) : Bool := Nat.ble (a ^ 2 * (32 + j)) (32 * 2 ^ 256) && Nat.blt (32 * 2 ^ 256) ((a + 1) ^ 2 * (32 + j))

def rsqEntries (j a b : Nat) : Bool :=
  isRsq j a && isRsq (j + 1) b && pins a (a + 1) (nearMag a) && Nat.ble 0x3F000000 (nearMag a) &&
    pins (32 * (a - b - 1)) (32 * (a - b + 1)) (nearMag (32 * (a - b)))

theorem rsqEntries_all : allPairs rsqEntries 0 rsqFloors = true := by decide +kernel

end Sys2Proof.Machine

namespace Sys2Proof.Machine
open Sys2Proof

/-! ### The floors of the tables -/

theorem le_exp2Floor {a j : Nat} : a ≤ exp2Floor j ↔ a ^ 64 ≤ 2 ^ (8192 + j) := by
  have h (n m : Nat) : n ≤ isqrt m ↔ n ^ 2 ≤ m := by rw [isqrt_eq, Nat.le_sqrt']
  rw [exp2Floor, h, h, h, h, h, h, ← Nat.pow_mul, ← Nat.pow_mul, ← Nat.pow_mul, ← Nat.pow_mul, ← Nat.pow_mul, Nat.add_comm 8192]
  rfl

/-- A floor is determined by its bounds. -/
theorem exp2Floor_unique {a j : Nat} (hlo : a ^ 64 ≤ 2 ^ (8192 + j)) (hhi : 2 ^ (8192 + j) < (a + 1) ^ 64) : exp2Floor j = a := by
  refine Nat.le_antisymm (Nat.le_of_lt_succ (Nat.lt_of_not_le fun h => ?_)) (le_exp2Floor.mpr hlo)
  exact Nat.not_le.mpr hhi (le_exp2Floor.mp h)

theorem exp2Floor_of_isRoot64 {a j : Nat} (h : isRoot64 j a = true) : exp2Floor j = a := by
  rw [isRoot64, Bool.and_eq_true, Nat.ble_eq, blt_iff] at h
  exact exp2Floor_unique h.1 h.2

theorem le_rsqFloor {a j : Nat} : a ≤ rsqFloor j ↔ a ^ 2 * (32 + j) ≤ 32 * 2 ^ 256 := by
  rw [rsqFloor, isqrt_eq, Nat.le_sqrt', Nat.le_div_iff_mul_le (by omega)]
  rfl

theorem rsqFloor_unique {a j : Nat} (hlo : a ^ 2 * (32 + j) ≤ 32 * 2 ^ 256) (hhi : 32 * 2 ^ 256 < (a + 1) ^ 2 * (32 + j)) :
    rsqFloor j = a := by
  refine Nat.le_antisymm (Nat.le_of_lt_succ (Nat.lt_of_not_le fun h => ?_)) (le_rsqFloor.mpr hlo)
  exact Nat.not_le.mpr hhi (le_rsqFloor.mp h)

theorem rsqFloor_of_isRsq {a j : Nat} (h : isRsq j a = true) : rsqFloor j = a := by
  rw [isRsq, Bool.and_eq_true, Nat.ble_eq, blt_iff] at h
  exact rsqFloor_unique h.1 h.2

/-! ### The entries of the tables -/

/-- Two entries of a table with their reals: A is at least 1/2, and each is less than 2. -/
structure Entries (neg : Bool) (loA hiA loB hiB a b : Nat) : Prop where
  exA : ∃ k, Pins loA hiA k ∧ 0x3F000000 ≤ k ∧ a = signed fp32 false k
  exB : ∃ k, Pins loB hiB k ∧ b = signed fp32 neg k

theorem exp2_entries {j : Nat} (hj : j < 64) :
    let a := exp2Floor j
    let b := exp2Floor (j + 1)
    Entries false a (a + 1) (64 * (b - a - 1)) (64 * (b - a + 1)) (tableEA j) (tableEB j) := by
  have h := allPairs_get exp2Entries_all j (by simp [exp2Floors]; omega)
  rw [Nat.zero_add, exp2Entries, Bool.and_eq_true, Bool.and_eq_true, Bool.and_eq_true, Bool.and_eq_true, pins_iff, pins_iff, Nat.ble_eq] at h
  obtain ⟨⟨⟨⟨ha, hb⟩, hA⟩, hhalf⟩, hB⟩ := h
  rw [← exp2Floor_of_isRoot64 ha, ← exp2Floor_of_isRoot64 hb] at hB
  rw [← exp2Floor_of_isRoot64 ha] at hA hhalf
  have hpos := hB.lo_pos
  refine ⟨⟨_, hA, hhalf, hA.entry false (Nat.le_refl _) (Nat.le_refl _)⟩, ⟨_, hB, hB.entry false ?_ ?_⟩⟩ <;> omega

theorem rcp_entries {j : Nat} (hj : j < 64) :
    let a := 64 * 2 ^ 128 / (64 + j)
    let b := 4096 * 2 ^ 128 / ((64 + j) * (65 + j))
    Entries true a (a + 1) b (b + 1) (tableCA j) (tableCB j) := by
  have h := List.all_eq_true.mp rcpEntries_all j (List.mem_range.mpr hj)
  rw [rcpEntries, Bool.and_eq_true, Bool.and_eq_true, pins_iff, pins_iff, Nat.ble_eq] at h
  obtain ⟨⟨hA, hhalf⟩, hB⟩ := h
  exact ⟨⟨_, hA, hhalf, hA.entry false (Nat.le_refl _) (Nat.le_refl _)⟩, ⟨_, hB, hB.entry true (Nat.le_refl _) (Nat.le_refl _)⟩⟩

theorem rsq_entries {j : Nat} (hj : j < 96) :
    let a := rsqFloor j
    let b := rsqFloor (j + 1)
    Entries true a (a + 1) (32 * (a - b - 1)) (32 * (a - b + 1)) (tableQA j) (tableQB j) := by
  have h := allPairs_get rsqEntries_all j (by simp [rsqFloors]; omega)
  rw [Nat.zero_add, rsqEntries, Bool.and_eq_true, Bool.and_eq_true, Bool.and_eq_true, Bool.and_eq_true, pins_iff, pins_iff, Nat.ble_eq] at h
  obtain ⟨⟨⟨⟨ha, hb⟩, hA⟩, hhalf⟩, hB⟩ := h
  rw [← rsqFloor_of_isRsq ha, ← rsqFloor_of_isRsq hb] at hB
  rw [← rsqFloor_of_isRsq ha] at hA hhalf
  have hpos := hB.lo_pos
  refine ⟨⟨_, hA, hhalf, hA.entry false (Nat.le_refl _) (Nat.le_refl _)⟩, ⟨_, hB, hB.entry true ?_ ?_⟩⟩ <;> omega

section
variable {neg : Bool} {loA hiA loB hiB a b : Nat}

/-- Every real between the bounds of an entry rounds to it. -/
theorem Entries.picksA (h : Entries neg loA hiA loB hiB a b) {r : Int} (hlo : loA ≤ r) (hhi : r ≤ hiA) :
    FloatPicks fp32 .rne (r * 2 ^ 468) a := by
  obtain ⟨k, hp, -, rfl⟩ := h.exA
  have hr : (r.natAbs : Int) = r := by omega
  exact hp.picks false hr.symm (by omega) (by omega)

theorem Entries.picksB_pos (h : Entries false loA hiA loB hiB a b) {r : Int} (hlo : loB ≤ r) (hhi : r ≤ hiB) :
    FloatPicks fp32 .rne (r * 2 ^ 468) b := by
  obtain ⟨k, hp, rfl⟩ := h.exB
  have hr : (r.natAbs : Int) = r := by omega
  exact hp.picks false hr.symm (by omega) (by omega)

theorem Entries.picksB_neg (h : Entries true loA hiA loB hiB a b) {r : Int} (hlo : -(hiB : Int) ≤ r) (hhi : r ≤ -(loB : Int)) :
    FloatPicks fp32 .rne (r * 2 ^ 468) b := by
  obtain ⟨k, hp, rfl⟩ := h.exB
  have hr : r = -(r.natAbs : Int) := by omega
  exact hp.picks true hr (by omega) (by omega)

theorem Entries.loB_pos (h : Entries neg loA hiA loB hiB a b) : 0 < loB := by
  obtain ⟨k, hp, -⟩ := h.exB
  exact hp.lo_pos

end

/-- A floor of a quotient is determined by its bounds. -/
theorem floor_unique {a n d : Nat} (hlo : a * d ≤ n) (hhi : n < (a + 1) * d) : n / d = a :=
  Nat.div_eq_of_lt_le hlo hhi

theorem approximationTables : Claims.ApproximationTables := by
  refine ⟨fun j hj a b ha ha' hb hb' => ?_, fun j hj a => ⟨fun ha ha' => ?_, fun ha ha' => ?_⟩, fun j hj a b ha ha' hb hb' => ?_⟩
  · have h := exp2_entries hj
    rw [show 8193 + j = 8192 + (j + 1) by omega] at hb hb'
    rw [exp2Floor_unique ha ha', exp2Floor_unique (j := j + 1) hb hb'] at h
    have hpos := h.loB_pos
    exact ⟨fun r hlo hhi => h.picksA hlo (by omega), fun r hlo hhi => h.picksB_pos (by omega) (by omega)⟩
  · have h := rcp_entries hj
    rw [floor_unique ha ha'] at h
    exact fun r hlo hhi => h.picksA hlo (by omega)
  · have h := rcp_entries hj
    rw [floor_unique ha ha'] at h
    exact fun r hlo hhi => h.picksB_neg (by omega) (by omega)
  · have h := rsq_entries hj
    rw [show 33 + j = 32 + (j + 1) by omega] at hb hb'
    rw [rsqFloor_unique ha ha', rsqFloor_unique (j := j + 1) hb hb'] at h
    have hpos := h.loB_pos
    exact ⟨fun r hlo hhi => h.picksA hlo (by omega), fun r hlo hhi => h.picksB_neg (by omega) (by omega)⟩

end Sys2Proof.Machine

namespace Sys2Proof.Machine
open Sys2Proof

/-! ### Interpolation (R209) -/

section
variable {q : FloatFmt} {r : Int} {y : Nat} {fl : NumFlags}

/-- A result far below the largest number is finite, and at most twice the exact result. -/
theorem RoundedRne.finite (hq : q.Fits) (h : RoundedRne q r (y, fl)) (hr : r.natAbs ≤ topUnits q) :
    isFinite q y = true ∧ (floatUnits q y * 2 ^ 298).natAbs ≤ 2 * r.natAbs ∧ (r ≠ 0 → signOf q y = decide (r < 0)) := by
  have hlast : 0 < lastUnit q := Nat.mul_pos (Nat.two_pow_pos _) (Nat.two_pow_pos _)
  rw [RoundedRne, if_pos (by omega)] at h
  obtain ⟨⟨hp, hs⟩, -⟩ := h
  obtain ⟨hok, hp⟩ := picks_iff.mp hp
  have hzero := hp 0 ⟨by have := signBit_pos q; omega, isFinite_iff.mpr (by rw [magOf, Nat.zero_mod]; exact infBits_pos hq)⟩
  rw [show floatUnits q 0 = 0 from (floatUnits_eq_zero q 0).mpr (Nat.zero_mod _), Int.zero_mul] at hzero
  have hle := hzero.1
  refine ⟨hok.2, ?_, hs⟩
  generalize floatUnits q y * 2 ^ 298 = v at hle ⊢
  omega

/-- A number times a power of two, rounded. -/
theorem scale_rounded (hq : q.Fits) (y : Nat) {n : Int} (hn : -252 ≤ n) (neg : Bool) :
    RoundedRne q (withSign neg (magUnits q (magOf q y) * 2 ^ (298 + n).toNat))
      (roundVal q (.fin neg (magSig q (magOf q y)) (q.emin + magPlace q (magOf q y) + n))) := by
  have hge := emin_ge hq
  have hemin := emin_eq hq
  have hs : scaled (magSig q (magOf q y)) (q.emin + magPlace q (magOf q y) + n) = magUnits q (magOf q y) * 2 ^ (298 + n).toNat := by
    rw [scaled, magUnits, Nat.mul_assoc, ← Nat.pow_add]
    congr 2
    omega
  rw [← hs]
  exact roundedRne_roundVal hq neg _ (by omega)

end

theorem topUnits_fp32 : 2 ^ 723 ≤ topUnits fp32 := by
  have h := topUnits_ge fp32_fits
  rwa [show 595 + 2 ^ (fp32.eb - 1) = 723 from rfl] at h

theorem magUnits_two : magUnits fp32 0x40000000 = 2 ^ 299 := by decide +kernel
theorem magUnits_half : magUnits fp32 0x3F000000 = 2 ^ 297 := by decide +kernel

section
variable {neg : Bool} {loA hiA loB hiB a b : Nat}

theorem Entries.valueA (h : Entries neg loA hiA loB hiB a b) :
    isFinite fp32 a = true ∧ 2 ^ 297 ≤ floatUnits fp32 a ∧ floatUnits fp32 a < 2 ^ 299 := by
  obtain ⟨k, hp, hge, ha⟩ := h.exA
  have hlt := Nat.lt_trans hp.finite (infBits_lt_signBit fp32)
  have hlo := (magUnits_strictMono fp32).monotone hge
  have hhi := magUnits_strictMono fp32 hp.lt
  rw [magUnits_half] at hlo
  rw [magUnits_two] at hhi
  rw [ha, floatUnits_withSign, signOf_signed hlt, magOf_signed hlt, show withSign false (magUnits fp32 k) = (magUnits fp32 k : Int) from rfl]
  refine ⟨isFinite_signed hp.finite, ?_, ?_⟩
  · exact_mod_cast hlo
  · exact_mod_cast hhi

theorem Entries.valueB (h : Entries neg loA hiA loB hiB a b) :
    isFinite fp32 b = true ∧ (floatUnits fp32 b).natAbs < 2 ^ 299 := by
  obtain ⟨k, hp, rfl⟩ := h.exB
  have hlt := Nat.lt_trans hp.finite (infBits_lt_signBit fp32)
  have hhi := magUnits_strictMono fp32 hp.lt
  rw [magUnits_two] at hhi
  rw [floatUnits_withSign, magOf_signed hlt, natAbs_withSign]
  exact ⟨isFinite_signed hp.finite, hhi⟩

/-- The interpolation between the entries of a table is a positive number. -/
theorem Entries.interp (h : Entries neg loA hiA loB hiB a b) {m d : Nat} {e : Int} (he : -298 ≤ e) (hd : scaled m e = d * 2 ^ 298)
    (hlt : d < 2 ^ 294) :
    ∃ p, Interpolates a b d p ∧ isFinite fp32 p = true ∧ signOf fp32 p = false ∧ interp a b (.fin false m e) = fp32.value p := by
  have hemin := emin_ge fp32_fits
  have htop := topUnits_fp32
  obtain ⟨hfa, hloa, hhia⟩ := h.valueA
  obtain ⟨hfb, hub⟩ := h.valueB
  generalize ht : mulV fp32 (.fin false m e) (fp32.value b) = t
  have hT : RoundedRne fp32 (d * floatUnits fp32 b) (t.1, t.2) := by
    change RoundedRne fp32 (d * floatUnits fp32 b) t
    rw [← ht, value_finite hfb, mulV]
    change RoundedRne fp32 _ (finish fp32 false (.fin (xor false _) _ _, false))
    have hprod := scaled_mul (m1 := m) (e1 := e) he (by omega) hd (scaled_value fp32_fits b)
    have hunits := withSign_mul false (signOf fp32 b) d (magUnits fp32 (magOf fp32 b))
    rw [← hprod, ← floatUnits_withSign] at hunits
    rw [finish_number, show (d : Int) * floatUnits fp32 b = withSign false d * floatUnits fp32 b from rfl, ← hunits]
    have : -149 ≤ fp32.emin := by decide
    exact roundedRne_roundVal fp32_fits _ _ (by omega)
  have hdub : (d * floatUnits fp32 b).natAbs ≤ 2 ^ 294 * 2 ^ 299 := by
    rw [Int.natAbs_mul, Int.natAbs_natCast]
    exact Nat.mul_le_mul hlt.le hub.le
  obtain ⟨hft, hut, -⟩ := hT.finite fp32_fits (Nat.le_trans hdub (Nat.le_trans (by decide +kernel) htop))
  have hut : (floatUnits fp32 t.1).natAbs ≤ 2 ^ 296 := by
    rw [Int.natAbs_mul] at hut
    refine Nat.le_of_mul_le_mul_right (c := 2 ^ 298) ?_ (Nat.two_pow_pos _)
    calc _ ≤ 2 * (d * floatUnits fp32 b).natAbs := hut
      _ ≤ 2 * (2 ^ 294 * 2 ^ 299) := Nat.mul_le_mul_left _ hdub
      _ = 2 ^ 296 * 2 ^ 298 := by decide +kernel
  generalize hp : addV fp32 (fp32.value a) (fp32.value t.1) = p
  have hP : RoundedRne fp32 ((floatUnits fp32 a + floatUnits fp32 t.1) * 2 ^ 298) (p.1, p.2) := by
    change RoundedRne fp32 _ p
    rw [← hp]
    exact fAdd_rounded fp32_fits hfa hft
  have hsum : 0 < floatUnits fp32 a + floatUnits fp32 t.1 ∧ floatUnits fp32 a + floatUnits fp32 t.1 < 2 ^ 300 := by
    have h296 : ((2 ^ 296 : Nat) : Int) = 2 ^ 296 := by norm_cast
    have h297 : (2 : Int) ^ 297 = 2 * 2 ^ 296 := by rw [← pow_succ']
    have h299 : (2 : Int) ^ 299 = 8 * 2 ^ 296 := by rw [show (8 : Int) = 2 ^ 3 from rfl, ← pow_add]
    have h300 : (2 : Int) ^ 300 = 16 * 2 ^ 296 := by rw [show (16 : Int) = 2 ^ 4 from rfl, ← pow_add]
    rw [h297] at hloa
    rw [h299] at hhia
    rw [h300]
    have hpos : (0 : Int) < 2 ^ 296 := by positivity
    generalize 2 ^ 296 = w at *
    omega
  have hr : (0 : Int) < (floatUnits fp32 a + floatUnits fp32 t.1) * 2 ^ 298 := Int.mul_pos hsum.1 (by positivity)
  obtain ⟨hfp, -, hsign⟩ := hP.finite fp32_fits (by
    refine Nat.le_trans ?_ htop
    rw [Int.natAbs_mul]
    have : (floatUnits fp32 a + floatUnits fp32 t.1).natAbs ≤ 2 ^ 300 := by
      zify
      rw [abs_of_pos hsum.1]
      exact hsum.2.le
    exact Nat.le_trans (Nat.mul_le_mul_right _ this) (by decide +kernel))
  refine ⟨p.1, ⟨t.1, t.2, p.2, hT, hP⟩, hfp, ?_, ?_⟩
  · rw [hsign hr.ne', decide_eq_false (Int.not_lt.mpr hr.le)]
  · rw [Machine.interp, ht, hp]

end

end Sys2Proof.Machine

namespace Sys2Proof.Machine
open Sys2Proof

/-! ### VEXP2, VRCP and VRSQ (R209) -/

section
variable {q : FloatFmt} {y x : Nat}

/-- A value times a power of two. -/
theorem scale_value (hf : isFinite q y = true) (n : Int) :
    (q.value y).scale n = .fin (signOf q y) (magSig q (magOf q y)) (q.emin + magPlace q (magOf q y) + n) := by
  rw [value_finite hf]
  rfl

/-- A positive number scaled and rounded. -/
theorem scaled_result (hq : q.Fits) (hf : isFinite q y = true) (hs : signOf q y = false) {n : Int} (hn : -252 ≤ n) {k : Nat}
    (hk : (298 + n).toNat = k) : RoundedRne q (floatUnits q y * 2 ^ k) (roundVal q ((q.value y).scale n)) := by
  have h := scale_rounded hq y hn false
  rw [hk] at h
  rw [scale_value hf, hs, floatUnits_withSign, hs]
  convert h using 1
  simp [withSign]

/-- Rounding to nearest does not depend on the sign. -/
theorem roundVal_sign (q : FloatFmt) (neg : Bool) (m : Nat) (e : Int) :
    roundVal q (.fin neg m e) = (signed q neg (roundVal q (.fin false m e)).1, (roundVal q (.fin false m e)).2) := by
  have hat (p : Int) : roundAt .rne neg m e p = roundAt .rne false m e p := rfl
  have hover : overflowBits q .rne neg = signed q neg (overflowBits q .rne false) := rfl
  rw [roundVal, roundVal, roundFin, roundFin]
  split_ifs
  · rfl
  · simp only [hat, hover]
    split <;> split <;> rfl

theorem div_scale {a b c : Nat} (hc : 0 < c) : a * c / (b * c) = a / b := Nat.mul_div_mul_right a b hc

/-! VEXP2: x = i × 2^e with e ≤ 0; n = ⌊x⌋ and the rest are read off i. -/

/-- The parts of a number i × 64h with 2^298 = unit × 64h. -/
theorem exp2_position (i : Int) {unit h : Nat} (hu : 0 < unit) (hh : 0 < h) :
    let f := (i % unit).toNat
    i * ((64 * h : Nat) : Int) / ((unit * (64 * h) : Nat) : Int) = i / unit ∧
      (i * ((64 * h : Nat) : Int) % ((unit * (64 * h) : Nat) : Int) / ((unit * h : Nat) : Int)).toNat = 64 * f / unit ∧
      i * ((64 * h : Nat) : Int) % ((unit * h : Nat) : Int) = ((64 * f % unit * h : Nat) : Int) ∧ 64 * f / unit < 64 := by
  have hf := Int.emod_nonneg i (show (unit : Int) ≠ 0 by omega)
  have hfl := Int.emod_lt_of_pos i (show 0 < (unit : Int) by omega)
  obtain ⟨f, hf'⟩ := Int.eq_ofNat_of_zero_le hf
  have h64 : 0 < ((64 * h : Nat) : Int) := by omega
  dsimp only
  rw [hf', Int.toNat_natCast]
  rw [hf'] at hfl
  refine ⟨?_, ?_, ?_, (Nat.div_lt_iff_lt_mul hu).mpr (by omega)⟩
  · rw [Int.natCast_mul unit, Int.mul_ediv_mul_of_pos_left _ _ h64]
  · rw [Int.natCast_mul unit, Int.mul_comm i, Int.mul_comm (unit : Int), Int.mul_emod_mul_of_pos _ _ h64, hf', ← Int.natCast_mul,
      ← Int.natCast_ediv, Int.toNat_natCast, show 64 * h * f = 64 * f * h by ring, div_scale hh]
  · have hmod : 64 * i % unit = ((64 * f % unit : Nat) : Int) := by
      have hcong : 64 * (i % unit) % unit = 64 * i % unit := (Int.mod_modEq i unit).mul_left 64
      rw [← hcong, hf']
      norm_cast
    rw [show i * ((64 * h : Nat) : Int) = h * (64 * i) by rw [Int.natCast_mul]; ring, Int.natCast_mul unit, Int.mul_comm (unit : Int),
      Int.mul_emod_mul_of_pos _ _ (by omega), hmod, Int.natCast_mul, Int.mul_comm]

/-- VEXP2 in its range, by the parts of its operand. -/
theorem vexp2_eq (hf : isFinite fp32 x = true) (hlo : -(151 * 2 ^ 298) ≤ floatUnits fp32 x) (hhi : floatUnits fp32 x < 128 * 2 ^ 298) :
    let e := fp32.emin + magPlace fp32 (magOf fp32 x)
    let e0 := min e 0
    let i := withSign (signOf fp32 x) (magSig fp32 (magOf fp32 x)) * ((2 ^ (e - e0).toNat : Nat) : Int)
    let unit : Nat := 2 ^ (-e0).toNat
    let f := (i % (unit : Int)).toNat
    vexp2 x = roundVal fp32 ((interp (tableEA (64 * f / unit)) (tableEB (64 * f / unit)) (.fin false (64 * f % unit) (e0 - 6))).scale
      (i / (unit : Int))) := by
  obtain ⟨h128, -⟩ := ltMag_integer fp32_fits x 128
  obtain ⟨-, h151⟩ := ltMag_integer fp32_fits x 151
  rw [floatUnits_withSign] at hlo hhi
  have hc : (128 * 2 ^ 298 : Int) = ((128 * 2 ^ 298 : Nat) : Int) := by norm_cast
  have hc' : (151 * 2 ^ 298 : Int) = ((151 * 2 ^ 298 : Nat) : Int) := by norm_cast
  rw [hc] at hhi
  rw [hc'] at hlo
  have hup : (!signOf fp32 x && !decide (magUnits fp32 (magOf fp32 x) < 128 * 2 ^ 298)) = false := by
    cases hs : signOf fp32 x
    · rw [hs] at hhi
      simpa using Int.ofNat_lt.mp hhi
    · rfl
  have hdown : (signOf fp32 x && decide (151 * 2 ^ 298 < magUnits fp32 (magOf fp32 x))) = false := by
    cases hs : signOf fp32 x
    · rfl
    · rw [hs] at hlo
      simpa using Int.ofNat_le.mp (Int.neg_le_neg_iff.mp hlo)
  simp only [vexp2, value_finite hf, h128, h151, hup, hdown, if_false, Bool.false_eq_true]
  rfl

theorem vexp2_interpolates (hf : isFinite fp32 x = true) :
    let r := floatUnits fp32 x
    (-(151 * 2 ^ 298) ≤ r → r < 128 * 2 ^ 298 →
      let j := (r % 2 ^ 298 / 2 ^ 292).toNat
      ∃ p, Interpolates (tableEA j) (tableEB j) (r % 2 ^ 292) p ∧
        RoundedRne fp32 (floatUnits fp32 p * 2 ^ (298 + r / 2 ^ 298).toNat) (vexp2 x)) := by
  intro r hlo hhi
  have hval := vexp2_eq hf hlo hhi
  have hge : -149 ≤ fp32.emin + magPlace fp32 (magOf fp32 x) := by
    have : fp32.emin = -149 := rfl
    omega
  have hr : r = withSign (signOf fp32 x) (magUnits fp32 (magOf fp32 x)) := floatUnits_withSign fp32 x
  have hunits := scaled_value fp32_fits x
  dsimp only at hval
  generalize fp32.emin + magPlace fp32 (magOf fp32 x) = e at *
  generalize he0 : min e 0 = e0 at *
  have hri : r = withSign (signOf fp32 x) (magSig fp32 (magOf fp32 x)) * ((2 ^ (e - e0).toNat : Nat) : Int) *
      ((64 * 2 ^ (e0 + 292).toNat : Nat) : Int) := by
    have hmag : magUnits fp32 (magOf fp32 x) = magSig fp32 (magOf fp32 x) * 2 ^ (e - e0).toNat * (64 * 2 ^ (e0 + 292).toNat) := by
      refine Nat.mul_right_cancel (Nat.two_pow_pos 298) ?_
      rw [← hunits, scaled, Nat.mul_assoc, Nat.mul_assoc, show 64 = 2 ^ 6 from rfl, ← Nat.pow_add, ← Nat.pow_add, ← Nat.pow_add]
      congr 2
      omega
    rw [hr, hmag]
    cases signOf fp32 x <;> simp [withSign]
  generalize withSign (signOf fp32 x) (magSig fp32 (magOf fp32 x)) * ((2 ^ (e - e0).toNat : Nat) : Int) = i at *
  have h292 : 2 ^ (-e0).toNat * 2 ^ (e0 + 292).toNat = 2 ^ 292 := by
    rw [← Nat.pow_add]
    congr 1
    omega
  have h298 : 2 ^ (-e0).toNat * (64 * 2 ^ (e0 + 292).toNat) = 2 ^ 298 := by
    rw [Nat.mul_left_comm, h292, show 64 = 2 ^ 6 from rfl, ← Nat.pow_add]
  obtain ⟨hn, hj, hrest, hlt⟩ := exp2_position i (Nat.two_pow_pos (-e0).toNat) (Nat.two_pow_pos (e0 + 292).toNat)
  rw [h298, ← hri] at hn hj
  rw [h292, ← hri] at hrest
  rw [h292] at hj
  simp only [Nat.cast_pow, Nat.cast_ofNat] at hn hj hrest
  have hn' : -151 ≤ i / ((2 ^ (-e0).toNat : Nat) : Int) := by
    rw [Nat.cast_pow, Nat.cast_ofNat, ← hn]
    exact Int.le_ediv_of_mul_le (by positivity) (by rwa [Int.neg_mul])
  simp only [Nat.cast_pow, Nat.cast_ofNat] at hval hn' hlt
  dsimp only
  rw [hj, hrest, hn, hval]
  generalize 64 * (i % 2 ^ (-e0).toNat).toNat = g at *
  have hd : scaled (g % 2 ^ (-e0).toNat) (e0 - 6) = g % 2 ^ (-e0).toNat * 2 ^ (e0 + 292).toNat * 2 ^ 298 := by
    rw [scaled, Nat.mul_assoc, ← Nat.pow_add]
    congr 2
    omega
  obtain ⟨p, hp, hfp, hsp, heq⟩ := (exp2_entries hlt).interp (by omega) hd (by
    calc _ < 2 ^ (-e0).toNat * 2 ^ (e0 + 292).toNat := Nat.mul_lt_mul_of_pos_right (Nat.mod_lt _ (Nat.two_pow_pos _)) (Nat.two_pow_pos _)
      _ = 2 ^ 292 := h292
      _ < 2 ^ 294 := Nat.pow_lt_pow_right (by decide) (by decide))
  rw [heq]
  exact ⟨p, hp, scaled_result fp32_fits hfp hsp (by omega) rfl⟩

/-! VRCP and VRSQ: the significand m over its leading power of two 2^l gives the rest, read off in 64ths or 32nds. -/

/-- The parts of the rest of a significand: w is rest / 2^l in units of 2^−298 = 2^−(s + t). -/
theorem rest_position {rest l s t : Nat} (hl : l ≤ t) :
    let w := rest * 2 ^ (s + t - l)
    w / 2 ^ t = 2 ^ s * rest / 2 ^ l ∧ w % 2 ^ t = 2 ^ s * rest % 2 ^ l * 2 ^ (t - l) := by
  have hw : rest * 2 ^ (s + t - l) = 2 ^ s * rest * 2 ^ (t - l) := by
    rw [show s + t - l = s + (t - l) by omega, Nat.pow_add]
    ring
  have ht : 2 ^ t = 2 ^ l * 2 ^ (t - l) := by rw [← Nat.pow_add, Nat.add_sub_cancel' hl]
  dsimp only
  rw [hw, ht, Nat.mul_mod_mul_right]
  exact ⟨div_scale (Nat.two_pow_pos _), rfl⟩

/-- The significand of a positive number lies between its leading power of two and the next. -/
theorem log2_of_units {m e c : Nat} (hm : m ≠ 0) (hlo : 2 ^ e ≤ m * 2 ^ c) (hhi : m * 2 ^ c < 2 ^ (e + 1)) : e = Nat.log2 m + c := by
  have h1 := Nat.log2_self_le hm
  have h2 := Nat.lt_log2_self (n := m)
  have hle : 2 ^ (Nat.log2 m + c) < 2 ^ (e + 1) := by
    rw [Nat.pow_add]
    exact Nat.lt_of_le_of_lt (Nat.mul_le_mul_right _ h1) hhi
  have hge : 2 ^ e < 2 ^ (Nat.log2 m + 1 + c) := by
    rw [Nat.pow_add]
    exact Nat.lt_of_le_of_lt hlo (Nat.mul_lt_mul_of_pos_right h2 (Nat.two_pow_pos _))
  have := (Nat.pow_lt_pow_iff_right (Nat.le_refl 2)).mp hle
  have := (Nat.pow_lt_pow_iff_right (Nat.le_refl 2)).mp hge
  omega

theorem vrcp_eq (hf : isFinite fp32 x = true) (hm : magSig fp32 (magOf fp32 x) ≠ 0) :
    let m := magSig fp32 (magOf fp32 x)
    let l := Nat.log2 m
    let rest := m - 2 ^ l
    let j := 64 * rest / 2 ^ l
    let b := roundVal fp32 ((interp (tableCA j) (tableCB j) (.fin false (64 * rest % 2 ^ l) (-(l : Int) - 6))).scale
      (-(fp32.emin + magPlace fp32 (magOf fp32 x) + (l : Int))))
    vrcp x = (signed fp32 (signOf fp32 x) b.1, b.2) := by
  simp only [vrcp, value_finite hf, hm, if_false]

/-- The rest of a significand m over 2^l, as a fraction of a number m × 2^(e − l). -/
theorem rest_of_units {m l e : Nat} (he : l ≤ e) (hl : l ≤ 298) :
    (m * 2 ^ (e - l) - 2 ^ e) * 2 ^ 298 / 2 ^ e = (m - 2 ^ l) * 2 ^ (298 - l) := by
  have h1 : 2 ^ e = 2 ^ l * 2 ^ (e - l) := by rw [← Nat.pow_add, Nat.add_sub_cancel' he]
  have h2 : 2 ^ 298 = 2 ^ (298 - l) * 2 ^ l := by rw [← Nat.pow_add, Nat.sub_add_cancel hl]
  rw [h1, ← Nat.sub_mul, Nat.mul_right_comm, div_scale (Nat.two_pow_pos _), h2, ← Nat.mul_assoc, Nat.mul_div_cancel _ (Nat.two_pow_pos _)]

theorem magPlace_le {k : Nat} (h : k < q.infBits) : magPlace q k ≤ 2 ^ q.eb - 3 := by
  have := (Nat.div_lt_iff_lt_mul (Nat.two_pow_pos _)).mpr h
  rw [magPlace]
  omega

/-- The bounds of the parts of an FP32 number. -/
theorem fp32_parts (hf : isFinite fp32 x = true) :
    Nat.log2 (magSig fp32 (magOf fp32 x)) ≤ 23 ∧ magPlace fp32 (magOf fp32 x) ≤ 253 := by
  obtain ⟨-, hsig, -⟩ := magSig_add_place fp32 (magOf fp32 x)
  refine ⟨?_, magPlace_le (isFinite_iff.mp hf)⟩
  by_cases hm : magSig fp32 (magOf fp32 x) = 0
  · rw [hm]
    decide
  · exact Nat.le_of_lt_succ ((Nat.log2_lt hm).mpr hsig)

/-- The distance from the left end of a segment, in units of 2^−298. -/
theorem distance_units (n l s t : Nat) (hl : l ≤ t) (hst : s + t = 298) :
    scaled (n % 2 ^ l) (-(l : Int) - s) = n % 2 ^ l * 2 ^ (t - l) * 2 ^ 298 ∧ n % 2 ^ l * 2 ^ (t - l) < 2 ^ t := by
  constructor
  · rw [scaled, Nat.mul_assoc, ← Nat.pow_add]
    congr 2
    omega
  · calc _ < 2 ^ l * 2 ^ (t - l) := Nat.mul_lt_mul_of_pos_right (Nat.mod_lt _ (Nat.two_pow_pos _)) (Nat.two_pow_pos _)
      _ = 2 ^ t := by rw [← Nat.pow_add, Nat.add_sub_cancel' hl]

theorem vrcp_interpolates (hf : isFinite fp32 x = true) :
    let r := floatUnits fp32 x
    (∀ e : Nat, 2 ^ e ≤ r.natAbs → r.natAbs < 2 ^ (e + 1) →
      let w := (r.natAbs - 2 ^ e) * 2 ^ 298 / 2 ^ e
      ∃ p, Interpolates (tableCA (w / 2 ^ 292)) (tableCB (w / 2 ^ 292)) ((w % 2 ^ 292 : Nat) : Int) p ∧
        RoundedRne fp32 ((if r < 0 then -1 else 1) * floatUnits fp32 p * 2 ^ (596 - e)) (vrcp x)) := by
  intro r e hlo hhi
  have hr : r = withSign (signOf fp32 x) (magUnits fp32 (magOf fp32 x)) := floatUnits_withSign fp32 x
  have habs : r.natAbs = magSig fp32 (magOf fp32 x) * 2 ^ (leastExp fp32 + magPlace fp32 (magOf fp32 x)) := by rw [hr, natAbs_withSign]; rfl
  have hm : magSig fp32 (magOf fp32 x) ≠ 0 := fun h0 => by
    rw [habs, h0, Nat.zero_mul] at hlo
    exact absurd hlo (Nat.not_le.mpr (Nat.two_pow_pos e))
  have hneg : (if r < 0 then -1 else 1 : Int) = if signOf fp32 x then -1 else 1 := by
    have : magUnits fp32 (magOf fp32 x) ≠ 0 := Nat.mul_ne_zero hm (Nat.two_pow_pos _).ne'
    rw [hr]
    simp only [withSign_neg_iff, this, ne_eq, not_false_eq_true, and_true]
  obtain ⟨hl, hplace⟩ := fp32_parts hf
  have he := log2_of_units hm (habs ▸ hlo) (habs ▸ hhi)
  have hbias : fp32.emin = (leastExp fp32 : Int) - 298 := rfl
  have h149 : leastExp fp32 = 149 := rfl
  rw [vrcp_eq hf hm, hneg, habs]
  dsimp only
  generalize hlog : Nat.log2 (magSig fp32 (magOf fp32 x)) = l at *
  have hrest : magSig fp32 (magOf fp32 x) - 2 ^ l < 2 ^ l := by
    have := Nat.lt_log2_self (n := magSig fp32 (magOf fp32 x))
    rw [hlog, Nat.pow_succ] at this
    omega
  rw [show leastExp fp32 + magPlace fp32 (magOf fp32 x) = e - l by omega, rest_of_units (by omega) (by omega)]
  generalize magSig fp32 (magOf fp32 x) - 2 ^ l = rest at hrest ⊢
  obtain ⟨hj, hd⟩ := rest_position (rest := rest) (s := 6) (show l ≤ 292 by omega)
  rw [show 6 + 292 - l = 298 - l by omega, show 2 ^ 6 = 64 from rfl] at hj hd
  obtain ⟨hscaled, hlt⟩ := distance_units (64 * rest) l 6 292 (by omega) rfl
  have hj64 : 64 * rest / 2 ^ l < 64 := (Nat.div_lt_iff_lt_mul (Nat.two_pow_pos _)).mpr (by omega)
  obtain ⟨p, hp, hfp, hsp, heq⟩ := (rcp_entries hj64).interp (by omega) hscaled
    (Nat.lt_trans hlt (Nat.pow_lt_pow_right (by decide) (by decide)))
  rw [hj, hd]
  refine ⟨p, hp, ?_⟩
  rw [show (-(l : Int) - 6) = -(l : Int) - (6 : Nat) from rfl, heq, scale_value hfp, hsp, ← roundVal_sign]
  have hres := scale_rounded fp32_fits p (n := -(fp32.emin + magPlace fp32 (magOf fp32 x) + l)) (by omega) (signOf fp32 x)
  rw [show (298 + -(fp32.emin + magPlace fp32 (magOf fp32 x) + (l : Int))).toNat = 596 - e by omega] at hres
  convert hres using 1
  rw [floatUnits_withSign, hsp]
  cases signOf fp32 x <;> simp [withSign]

/-! VRSQ takes an even exponent: the significand is doubled where the exponent is odd. -/

/-- The significand of VRSQ. -/
def evenSig (m : Nat) (ex : Int) : Nat := if ex % 2 ≠ 0 then 2 * m else m

theorem vrsq_eq (hf : isFinite fp32 x = true) (hm : magSig fp32 (magOf fp32 x) ≠ 0) (hs : signOf fp32 x = false) :
    let m := magSig fp32 (magOf fp32 x)
    let l := Nat.log2 m
    let ex := fp32.emin + magPlace fp32 (magOf fp32 x) + (l : Int)
    let rest := evenSig m ex - 2 ^ l
    let j := 32 * rest / 2 ^ l
    vrsq x = roundVal fp32 ((interp (tableQA j) (tableQB j) (.fin false (32 * rest % 2 ^ l) (-(l : Int) - 5))).scale (-(ex / 2))) := by
  have hhalf (ex : Int) : (if ex % 2 ≠ 0 then ex - 1 else ex) / 2 = ex / 2 := by split <;> omega
  simp only [vrsq, value_finite hf, hm, hs, if_false, Bool.false_eq_true, hhalf]
  rfl

theorem vrsq_interpolates (hf : isFinite fp32 x = true) :
    let r := floatUnits fp32 x
    (∀ e : Nat, e % 2 = 0 → 0 < r → 2 ^ e ≤ r.natAbs → r.natAbs < 2 ^ (e + 2) →
      let w := (r.natAbs - 2 ^ e) * 2 ^ 298 / 2 ^ e
      ∃ p, Interpolates (tableQA (w / 2 ^ 293)) (tableQB (w / 2 ^ 293)) ((w % 2 ^ 293 : Nat) : Int) p ∧
        RoundedRne fp32 (floatUnits fp32 p * 2 ^ (447 - e / 2)) (vrsq x)) := by
  intro r e heven hpos hlo hhi
  have hr : r = withSign (signOf fp32 x) (magUnits fp32 (magOf fp32 x)) := floatUnits_withSign fp32 x
  have habs : r.natAbs = magSig fp32 (magOf fp32 x) * 2 ^ (leastExp fp32 + magPlace fp32 (magOf fp32 x)) := by rw [hr, natAbs_withSign]; rfl
  obtain ⟨hs, -⟩ := withSign_pos_iff.mp (hr ▸ hpos)
  have hm : magSig fp32 (magOf fp32 x) ≠ 0 := fun h0 => by
    rw [habs, h0, Nat.zero_mul] at hlo
    exact absurd hlo (Nat.not_le.mpr (Nat.two_pow_pos e))
  obtain ⟨hl, hplace⟩ := fp32_parts hf
  have hbias : fp32.emin = (leastExp fp32 : Int) - 298 := rfl
  have h149 : leastExp fp32 = 149 := rfl
  rw [vrsq_eq hf hm hs, habs]
  rw [habs] at hlo hhi
  dsimp only
  have he : e = Nat.log2 (magSig fp32 (magOf fp32 x)) + (leastExp fp32 + magPlace fp32 (magOf fp32 x)) ∨
      e + 1 = Nat.log2 (magSig fp32 (magOf fp32 x)) + (leastExp fp32 + magPlace fp32 (magOf fp32 x)) := by
    rcases Nat.lt_or_ge (magSig fp32 (magOf fp32 x) * 2 ^ (leastExp fp32 + magPlace fp32 (magOf fp32 x))) (2 ^ (e + 1)) with h | h
    · exact .inl (log2_of_units hm hlo h)
    · exact .inr (log2_of_units hm h hhi)
  have hlog1 := Nat.log2_self_le hm
  have hlog2 := Nat.lt_log2_self (n := magSig fp32 (magOf fp32 x))
  generalize Nat.log2 (magSig fp32 (magOf fp32 x)) = l at *
  generalize hex : fp32.emin + magPlace fp32 (magOf fp32 x) + (l : Int) = ex
  have hparts : magSig fp32 (magOf fp32 x) * 2 ^ (leastExp fp32 + magPlace fp32 (magOf fp32 x)) =
      evenSig (magSig fp32 (magOf fp32 x)) ex * 2 ^ (e - l) ∧ l ≤ e ∧ evenSig (magSig fp32 (magOf fp32 x)) ex - 2 ^ l < 3 * 2 ^ l := by
    rw [Nat.pow_succ] at hlog2
    rw [evenSig]
    rcases he with he | he
    · rw [if_neg (by omega), show e - l = leastExp fp32 + magPlace fp32 (magOf fp32 x) by omega]
      exact ⟨rfl, by omega, by omega⟩
    · rw [if_pos (by omega), Nat.mul_comm 2, Nat.mul_assoc, ← Nat.pow_succ',
        show (e - l).succ = leastExp fp32 + magPlace fp32 (magOf fp32 x) by omega]
      exact ⟨rfl, by omega, by omega⟩
  obtain ⟨hunits, hle, hrest⟩ := hparts
  rw [hunits, rest_of_units hle (by omega)]
  generalize evenSig (magSig fp32 (magOf fp32 x)) ex - 2 ^ l = rest at hrest ⊢
  obtain ⟨hj, hd⟩ := rest_position (rest := rest) (s := 5) (show l ≤ 293 by omega)
  rw [show 5 + 293 - l = 298 - l by omega, show 2 ^ 5 = 32 from rfl] at hj hd
  obtain ⟨hscaled, hlt⟩ := distance_units (32 * rest) l 5 293 (by omega) rfl
  have hj96 : 32 * rest / 2 ^ l < 96 := (Nat.div_lt_iff_lt_mul (Nat.two_pow_pos _)).mpr (by omega)
  obtain ⟨p, hp, hfp, hsp, heq⟩ := (rsq_entries hj96).interp (by omega) hscaled
    (Nat.lt_trans hlt (Nat.pow_lt_pow_right (by decide) (by decide)))
  rw [hj, hd]
  refine ⟨p, hp, ?_⟩
  rw [show (-(l : Int) - 5) = -(l : Int) - (5 : Nat) from rfl, heq]
  exact scaled_result fp32_fits hfp hsp (by omega) (by omega)

end

theorem rootsAndApproximations : Claims.RootsAndApproximations :=
  ⟨fun _ hmem _ hf h => fSqrt_nearest (fits_of_mem hmem) hf h,
    fun _ hf => ⟨vexp2_interpolates hf, vrcp_interpolates hf, vrsq_interpolates hf⟩⟩

end Sys2Proof.Machine

namespace Sys2Proof.Machine
open Sys2Proof

/-! ### A rounded result is one encoding -/

section
variable {q : FloatFmt} {r : Int} {y z : Nat} {fl fl' : NumFlags}

theorem natAbs_sub_withSign {n : Bool} (a : Nat) (hn : n = decide (r < 0)) : (withSign n a - r).natAbs = ((a : Int) - r.natAbs).natAbs := by
  subst hn
  rw [withSign]
  split <;> simp only [decide_eq_true_eq] at * <;> omega

/-- No two encodings of different magnitudes are nearest to a number with the sign of both. -/
theorem nearest_not_lt {a b v : Nat} (hab : a < b) (hb : b < q.infBits)
    (ha : ∀ c, c < q.infBits → ((magScaled q a : Int) - v).natAbs ≤ ((magScaled q c : Int) - v).natAbs)
    (hb' : ∀ c, c < q.infBits → ((magScaled q b : Int) - v).natAbs ≤ ((magScaled q c : Int) - v).natAbs)
    (hea : ((magScaled q b : Int) - v).natAbs = ((magScaled q a : Int) - v).natAbs → a % 2 = 0)
    (heb : ((magScaled q a : Int) - v).natAbs = ((magScaled q b : Int) - v).natAbs → b % 2 = 0) : False := by
  have hlt {i j : Nat} (h : i < j) : magScaled q i < magScaled q j :=
    Nat.lt_of_not_le fun hle => Nat.not_le.mpr h (magScaled_le.mp hle)
  have h1 := ha b hb
  have h2 := hb' a (Nat.lt_trans hab hb)
  have hpa := hea (by omega)
  have hpb := heb (by omega)
  have h3 := ha (a + 1) (by omega)
  have h4 := hlt (show a < a + 1 by omega)
  have h5 := hlt (show a + 1 < b by omega)
  omega

theorem FloatPicks.nearest (h : FloatPicks q .rne r y) (hr : r ≠ 0) :
    y < 2 * q.signBit ∧ magOf q y < q.infBits ∧ signOf q y = decide (r < 0) ∧
      (∀ c, c < q.infBits → ((magScaled q (magOf q y) : Int) - r.natAbs).natAbs ≤ ((magScaled q c : Int) - r.natAbs).natAbs) ∧
      ∀ c, c < q.infBits → c ≠ magOf q y →
        ((magScaled q c : Int) - r.natAbs).natAbs = ((magScaled q (magOf q y) : Int) - r.natAbs).natAbs → y % 2 = 0 := by
  obtain ⟨hp, hs⟩ := h
  have hs := hs hr
  obtain ⟨⟨hlt, hfin⟩, hp⟩ := picks_iff.mp hp
  have hcand (c : Nat) (hc : c < q.infBits) := hp (signed q (decide (r < 0)) c)
    ⟨signed_lt (Nat.lt_trans hc (infBits_lt_signBit q)), isFinite_signed hc⟩
  refine ⟨hlt, isFinite_iff.mp hfin, hs, fun c hc => ?_, fun c hc hne htie => ?_⟩
  · have := (hcand c hc).1
    rwa [scaled_signed hc, floatUnits_scaled, natAbs_sub_withSign _ rfl, natAbs_sub_withSign _ hs] at this
  · refine (hcand c hc).2 ?_ ?_
    · rw [scaled_signed hc, floatUnits_scaled, hs]
      intro h
      have h' : magScaled q c = magScaled q (magOf q y) := by
        rw [withSign, withSign] at h
        split at h <;> omega
      exact hne (Nat.le_antisymm (magScaled_le.mp h'.le) (magScaled_le.mp h'.ge))
    · rw [scaled_signed hc, floatUnits_scaled, natAbs_sub_withSign _ rfl, natAbs_sub_withSign _ hs]
      exact htie

/-- The number that rounding to nearest picks for a number other than 0 is one encoding. -/
theorem FloatPicks.unique (hq : q.Fits) (hr : r ≠ 0) (hy : FloatPicks q .rne r y) (hz : FloatPicks q .rne r z) : y = z := by
  obtain ⟨hly, hfy, hsy, hny, hey⟩ := hy.nearest hr
  obtain ⟨hlz, hfz, hsz, hnz, hez⟩ := hz.nearest hr
  have heven (x : Nat) (hx : x < 2 * q.signBit) : x % 2 = magOf q x % 2 := by
    conv_lhs => rw [← signed_magOf hx, signed_mod_two hq]
  rw [heven y hly] at hey
  rw [heven z hlz] at hez
  have hmag : magOf q y = magOf q z := by
    rcases Nat.lt_trichotomy (magOf q y) (magOf q z) with h | h | h
    · exact (nearest_not_lt h hfz hny hnz (hey _ hfz h.ne') (hez _ hfy h.ne)).elim
    · exact h
    · exact (nearest_not_lt h hfy hnz hny (hez _ hfy h.ne') (hey _ hfz h.ne)).elim
  rw [← signed_magOf hly, ← signed_magOf hlz, hsy, hsz, hmag]

theorem RoundedRne.unique (hq : q.Fits) (hr : r ≠ 0) (hy : RoundedRne q r (y, fl)) (hz : RoundedRne q r (z, fl')) : y = z := by
  rw [RoundedRne] at hy hz
  split at hy
  case isTrue h =>
    rw [if_pos h] at hz
    exact FloatPicks.unique hq hr hy.1 hz.1
  case isFalse h =>
    rw [if_neg h] at hz
    rw [Prod.mk.injEq] at hy hz
    rw [hy.1, hz.1]

/-- The result for 0 is a zero. -/
theorem RoundedRne.zero (hq : q.Fits) (hy : RoundedRne q 0 (y, fl)) : isFinite q y = true ∧ floatUnits q y = 0 := by
  obtain ⟨hf, hle, -⟩ := hy.finite hq (Nat.zero_le _)
  refine ⟨hf, ?_⟩
  rw [Int.natAbs_mul] at hle
  have hp : 0 < ((2 : Int) ^ 298).natAbs := by decide +kernel
  have : (floatUnits q y).natAbs = 0 := Nat.eq_zero_of_not_pos fun h => by
    have := Nat.mul_pos h hp
    simp at hle
    omega
  exact Int.natAbs_eq_zero.mp this

/-- Rounded results for one number have one value. -/
theorem RoundedRne.units_eq (hq : q.Fits) (hy : RoundedRne q r (y, fl)) (hz : RoundedRne q r (z, fl')) (hf : isFinite q y = true) :
    isFinite q z = true ∧ floatUnits q z = floatUnits q y := by
  by_cases hr : r = 0
  · subst hr
    have h1 := hy.zero hq
    have h2 := hz.zero hq
    exact ⟨h2.1, h2.2.trans h1.2.symm⟩
  · obtain rfl := hy.unique hq hr hz
    exact ⟨hf, rfl⟩

/-- A rounded result is a number or an infinity, and raises no INV. -/
theorem RoundedRne.number (h : RoundedRne q r (y, fl)) : (isFinite q y = true ∨ isInf q y = true) ∧ fl.inv = false := by
  rw [RoundedRne] at h
  split at h
  · exact ⟨.inl (picks_iff.mp h.1.1).1.2, h.2.2.1⟩
  · rw [Prod.mk.injEq] at h
    rw [h.1, h.2]
    refine ⟨.inr (isInf_iff.mpr ?_), rfl⟩
    have := infBits_lt_signBit q
    split
    · exact magOf_signed (neg := true) this
    · exact (Nat.zero_add _).symm ▸ Nat.mod_eq_of_lt this

end

/-! ### TLI (R213) -/

section
variable {t : TableBuf} {x w : Nat} {f : NumFlags}

/-- The last step of TLI. -/
theorem tliAt_rounded {j m d : Nat} {n : Bool} {e : Int} (he : -250 ≤ e) (hd : scaled m e = d * 2 ^ 298) {y : Nat} {g : NumFlags}
    (hy : RoundedRne fp32 (withSign n d * floatUnits fp32 (t.diff j)) (y, g)) (hfy : isFinite fp32 y = true)
    (hfk : isFinite fp32 (t.knot j) = true) (hfd : isFinite fp32 (t.diff j) = true) :
    RoundedRne fp32 ((floatUnits fp32 (t.knot j) + floatUnits fp32 y) * 2 ^ 298) (tliAt t false j (.fin n m e)) := by
  have hemin : -149 ≤ fp32.emin := by decide
  have hp : RoundedRne fp32 (withSign n d * floatUnits fp32 (t.diff j)) (mulV fp32 (.fin n m e) (fp32.value (t.diff j))) := by
    rw [value_finite hfd, mulV]
    change RoundedRne fp32 _ (finish fp32 false (.fin (xor n _) _ _, false))
    have hprod := scaled_mul (m1 := m) (e1 := e) (by omega) (by omega) hd (scaled_value fp32_fits (t.diff j))
    have hunits := withSign_mul n (signOf fp32 (t.diff j)) d (magUnits fp32 (magOf fp32 (t.diff j)))
    rw [← hprod, ← floatUnits_withSign] at hunits
    rw [finish_number, ← hunits]
    exact roundedRne_roundVal fp32_fits _ _ (by omega)
  rw [tliAt]
  generalize mulV fp32 (.fin n m e) (fp32.value (t.diff j)) = p at hp ⊢
  obtain ⟨hfp, hup⟩ := hy.units_eq fp32_fits hp hfy
  have hsum := fAdd_rounded fp32_fits hfk hfp
  rw [hup] at hsum
  have hinv : flagInv (false || p.2.inv) = noFlags := by rw [hp.number.2]; rfl
  simp only [hinv, NumFlags.or_noFlags]
  exact hsum

/-- The table position of TLI, as the model takes it. -/
theorem position_rounded (hf : isFinite fp32 (fSub fp32 x t.lo).1 = true) (hlo : -20 ≤ t.wlog) (hhi : t.wlog ≤ 20) :
    RoundedRne fp32 (floatUnits fp32 (fSub fp32 x t.lo).1 * 2 ^ (298 - t.wlog).toNat)
      (roundVal fp32 ((fp32.value (fSub fp32 x t.lo).1).scale (-t.wlog))) := by
  generalize (fSub fp32 x t.lo).1 = s at hf ⊢
  have h := scale_rounded fp32_fits s (n := -t.wlog) (by omega) (signOf fp32 s)
  rw [scale_value hf]
  convert h using 1
  rw [floatUnits_withSign]
  cases signOf fp32 s <;> simp [withSign, Int.sub_eq_add_neg]

/-- TLI by the value of its table position, when no step before is invalid. -/
def tliFrom (t : TableBuf) (v : FVal) : Nat × NumFlags :=
  match v with
  | .nan _ => (fp32.nan, noFlags)
  | .inf true => if t.lowExtend then tliAt t false 0 (.inf true) else (t.knot 0, noFlags)
  | .inf false => if t.highExtend then tliAt t false 63 (.inf false) else (t.knot 64, noFlags)
  | .fin neg m e =>
    if neg && m ≠ 0 then if t.lowExtend then tliAt t false 0 (.fin neg m e) else (t.knot 0, noFlags)
    else if !ltMag m e 64 0 then
      if t.highExtend then tliAt t false 63 (fp32.value (addV fp32 (.fin false m e) (.fin true 63 0)).1) else (t.knot 64, noFlags)
    else
      tliAt t false (if e ≥ 0 then m * 2 ^ e.toNat else m / 2 ^ (-e).toNat)
        (if e ≥ 0 then .fin neg 0 0 else .fin neg (m % 2 ^ (-e).toNat) e)

theorem tliLane_eq (hx : isFinite fp32 x = true) (hl : isFinite fp32 t.lo = true) :
    tliLane t x = tliFrom t (fp32.value (roundVal fp32 ((fp32.value (fSub fp32 x t.lo).1).scale (-t.wlog))).1) := by
  have hinv : (fSub fp32 x t.lo).2.inv = false := (fSub_rounded fp32_fits hx hl).number.2
  rw [tliLane]
  simp only [hinv]
  rfl

/-- Below the left end of the table. -/
theorem tliFrom_below (hs : signOf fp32 w = true) (hw : isInf fp32 w = true ∨ (isFinite fp32 w = true ∧ floatUnits fp32 w ≠ 0)) :
    (t.lowExtend = false → tliFrom t (fp32.value w) = (t.knot 0, noFlags)) ∧
      (isFinite fp32 w = true → t.lowExtend = true → tliFrom t (fp32.value w) = tliAt t false 0 (fp32.value w)) := by
  rcases hw with hi | ⟨hf, hne⟩
  · rw [value_inf hi, hs, tliFrom]
    exact ⟨fun h => by rw [h]; rfl, fun hf => by simp [isInf_of_finite hf] at hi⟩
  · have hm : magSig fp32 (magOf fp32 w) ≠ 0 := fun h0 => hne ((floatUnits_eq_zero fp32 w).mpr (magSig_eq_zero.mp h0))
    rw [value_finite hf, hs, tliFrom, if_pos (by simp [hm])]
    exact ⟨fun h => by rw [h]; rfl, fun _ h => by rw [if_pos h]⟩

/-- At and beyond the right end of the table. -/
theorem tliFrom_beyond (hs : signOf fp32 w = false) (hw : isInf fp32 w = true ∨ (isFinite fp32 w = true ∧ 64 * 2 ^ 298 ≤ floatUnits fp32 w)) :
    (t.highExtend = false → tliFrom t (fp32.value w) = (t.knot 64, noFlags)) ∧
      (isFinite fp32 w = true → t.highExtend = true →
        tliFrom t (fp32.value w) = tliAt t false 63 (fp32.value (addV fp32 (fp32.value w) (.fin true 63 0)).1)) := by
  rcases hw with hi | ⟨hf, hge⟩
  · rw [value_inf hi, hs, tliFrom]
    exact ⟨fun h => by rw [h]; rfl, fun hf => by simp [isInf_of_finite hf] at hi⟩
  · obtain ⟨h64, -⟩ := ltMag_integer fp32_fits w 64
    have hnot : ¬ magUnits fp32 (magOf fp32 w) < 64 * 2 ^ 298 := by
      rw [floatUnits_withSign, hs] at hge
      have hc : (64 * 2 ^ 298 : Int) = ((64 * 2 ^ 298 : Nat) : Int) := by norm_cast
      rw [hc] at hge
      exact Nat.not_lt.mpr (Int.ofNat_le.mp hge)
    rw [value_finite hf, hs, tliFrom, Bool.false_and, if_neg Bool.false_ne_true, h64, decide_eq_false hnot, Bool.not_false, if_pos rfl]
    exact ⟨fun h => by rw [h]; rfl, fun _ h => by rw [if_pos h]⟩

/-- The segment and the distance from its left end of a position in the table, in units of 2^−298. -/
theorem segment_position {m c : Nat} {e : Int} (he : (e + 298).toNat = c) (hge : -298 ≤ e) :
    (if e ≥ 0 then m * 2 ^ e.toNat else m / 2 ^ (-e).toNat) = m * 2 ^ c / 2 ^ 298 ∧
      ∀ n, ∃ m' e', (if e ≥ 0 then FVal.fin n 0 0 else .fin n (m % 2 ^ (-e).toNat) e) = .fin n m' e' ∧ min e 0 ≤ e' ∧
        scaled m' e' = m * 2 ^ c % 2 ^ 298 * 2 ^ 298 := by
  by_cases h : e ≥ 0
  · have hc : 2 ^ c = 2 ^ e.toNat * 2 ^ 298 := by
      rw [← Nat.pow_add]
      congr 1
      omega
    simp only [if_pos h]
    rw [hc, ← Nat.mul_assoc, Nat.mul_div_cancel _ (Nat.two_pow_pos _), Nat.mul_mod_left]
    exact ⟨rfl, fun n => ⟨0, 0, rfl, Int.min_le_right e 0, by rw [scaled, Nat.zero_mul, Nat.zero_mul]⟩⟩
  · have h298 : 2 ^ 298 = 2 ^ (-e).toNat * 2 ^ c := by
      rw [← Nat.pow_add]
      congr 1
      omega
    simp only [if_neg h]
    refine ⟨?_, fun n => ⟨m % 2 ^ (-e).toNat, e, rfl, Int.min_le_left e 0, ?_⟩⟩
    · rw [h298, div_scale (Nat.two_pow_pos _)]
    · rw [h298, Nat.mul_mod_mul_right, ← h298, scaled, Nat.mul_assoc, ← Nat.pow_add]
      congr 2
      omega

/-- Between the ends of the table. -/
theorem tliFrom_inside (hf : isFinite fp32 w = true) (hlo : 0 ≤ floatUnits fp32 w) (hhi : floatUnits fp32 w < 64 * 2 ^ 298) :
    ∃ n m e, tliFrom t (fp32.value w) = tliAt t false (floatUnits fp32 w / 2 ^ 298).toNat (.fin n m e) ∧ -250 ≤ e ∧
      ∃ d, scaled m e = d * 2 ^ 298 ∧ withSign n d = floatUnits fp32 w % 2 ^ 298 := by
  obtain ⟨h64, -⟩ := ltMag_integer fp32_fits w 64
  have hemin := emin_eq fp32_fits
  have hge := emin_ge fp32_fits
  have hmag : magUnits fp32 (magOf fp32 w) =
      magSig fp32 (magOf fp32 w) * 2 ^ (leastExp fp32 + magPlace fp32 (magOf fp32 w)) := rfl
  have hu : floatUnits fp32 w = magUnits fp32 (magOf fp32 w) := by
    rw [floatUnits_withSign, withSign] at hlo ⊢
    cases hs : signOf fp32 w
    · rfl
    · rw [hs, if_pos rfl] at hlo
      rw [if_pos rfl]
      omega
  have hlt : magUnits fp32 (magOf fp32 w) < 64 * 2 ^ 298 := by
    have hc : (64 * 2 ^ 298 : Int) = ((64 * 2 ^ 298 : Nat) : Int) := by norm_cast
    rw [hu, hc] at hhi
    exact Int.ofNat_lt.mp hhi
  have hneg : (signOf fp32 w && decide (magSig fp32 (magOf fp32 w) ≠ 0)) = false := by
    cases hs : signOf fp32 w
    · rfl
    · have h0 : magUnits fp32 (magOf fp32 w) = 0 := by
        rw [floatUnits_withSign, hs, withSign, if_pos rfl] at hu
        omega
      have := (magUnits_strictMono fp32).injective (h0.trans (magUnits_zero fp32).symm)
      simp [magSig_eq_zero, this]
  obtain ⟨hj, hd⟩ := segment_position (m := magSig fp32 (magOf fp32 w)) (e := fp32.emin + magPlace fp32 (magOf fp32 w))
    (c := leastExp fp32 + magPlace fp32 (magOf fp32 w)) (by omega) (by omega)
  obtain ⟨m', e', heq, he', hscaled⟩ := hd (signOf fp32 w)
  refine ⟨signOf fp32 w, m', e', ?_, by omega, _, hscaled, ?_⟩
  · rw [value_finite hf, tliFrom, hneg, if_neg Bool.false_ne_true, h64, decide_eq_true hlt, Bool.not_true, if_neg Bool.false_ne_true,
      heq, hj, ← hmag, hu]
    congr 1
  · rw [← hmag, hu]
    cases hs : signOf fp32 w
    · rfl
    · rw [hs, Bool.true_and, decide_eq_false_iff_not, not_not] at hneg
      rw [hmag, hneg]
      simp [withSign]

end

theorem tableInterpolation : Claims.TableInterpolation := by
  intro t x w f hx hl hlo hhi
  dsimp only
  intro hs hw
  have hpos := position_rounded hs hlo hhi
  have hlane := tliLane_eq (t := t) hx hl
  generalize roundVal fp32 ((fp32.value (fSub fp32 x t.lo).1).scale (-t.wlog)) = w' at hpos hlane
  generalize floatUnits fp32 (fSub fp32 x t.lo).1 * 2 ^ (298 - t.wlog).toNat = r at hw hpos
  -- the position is w itself, but for the sign of a zero
  have hsame (h : isInf fp32 w = true ∨ floatUnits fp32 w ≠ 0) : w'.1 = w := by
    refine (RoundedRne.unique fp32_fits ?_ hpos hw)
    rintro rfl
    obtain ⟨hf, h0⟩ := hw.zero fp32_fits
    rcases h with h | h
    · rw [isInf_of_finite hf] at h
      cases h
    · exact h h0
  have hfin (h : isInf fp32 w = true ∨ floatUnits fp32 w ≠ 0) : isInf fp32 w = true ∨ (isFinite fp32 w = true ∧ floatUnits fp32 w ≠ 0) := by
    rcases hw.number.1 with hf | hi
    · exact h.imp_right fun h => ⟨hf, h⟩
    · exact .inl hi
  have hp : (0 : Int) < 2 ^ 298 := by positivity
  refine ⟨fun hn hend hext => ?_, fun hn hend hext => ?_, fun hf => ⟨fun h0 h64 y g hy hfy hfk hfd => ?_, fun h0 hext y g hy hfy hfk hfd => ?_,
    fun h64 hext d g hd hfd' y g' hy hfy hfk hfd => ?_⟩⟩
  · rw [hlane, hsame hend]
    exact (tliFrom_below hn (hfin hend)).1 hext
  · have hend' : isInf fp32 w = true ∨ floatUnits fp32 w ≠ 0 := hend.imp_right fun h => by
      generalize (2 : Int) ^ 298 = b at h hp
      omega
    rw [hlane, hsame hend']
    refine (tliFrom_beyond hn ?_).1 hext
    rcases hw.number.1 with hf | hi
    · exact hend.imp_right fun h => ⟨hf, h⟩
    · exact .inl hi
  · obtain ⟨hf', hu⟩ := hw.units_eq fp32_fits hpos hf
    rw [hlane]
    rw [← hu] at h0 h64 hy hfk hfd ⊢
    obtain ⟨n, m, e, heq, he, d, hd, hdu⟩ := tliFrom_inside (t := t) hf' h0 h64
    rw [heq]
    exact tliAt_rounded he hd (hdu.symm ▸ hy) hfy hfk hfd
  · have hne : floatUnits fp32 w ≠ 0 := h0.ne
    have hn : signOf fp32 w = true := by
      rw [floatUnits_withSign] at h0
      exact (withSign_neg_iff.mp h0).1
    rw [hlane, hsame (.inr hne), (tliFrom_below hn (.inr ⟨hf, hne⟩)).2 hf hext, value_finite hf]
    rw [floatUnits_withSign] at hy
    have := emin_ge fp32_fits
    exact tliAt_rounded (by omega) (scaled_value fp32_fits w) hy hfy hfk hfd
  · have hne : floatUnits fp32 w ≠ 0 := by
      generalize (2 : Int) ^ 298 = b at h64 hp
      omega
    have hn : signOf fp32 w = false := by
      have : 0 < floatUnits fp32 w := by
        generalize (2 : Int) ^ 298 = b at h64 hp
        omega
      rw [floatUnits_withSign] at this
      exact (withSign_pos_iff.mp this).1
    have hge := emin_ge fp32_fits
    have hsum := addV_rounded fp32_fits (signOf fp32 w) true (magSig fp32 (magOf fp32 w)) 63
      (e1 := fp32.emin + magPlace fp32 (magOf fp32 w)) (e2 := 0) (by omega) (by decide)
    have h63 : withSign true (scaled 63 0) = -(63 * 2 ^ 298) * 2 ^ 298 := by decide +kernel
    rw [floatUnits_value fp32_fits, h63, ← Int.add_mul, ← Int.sub_eq_add_neg, ← value_finite hf] at hsum
    have hbeyond := (tliFrom_beyond (t := t) hn (.inr ⟨hf, h64⟩)).2 hf hext
    generalize addV fp32 (fp32.value w) (.fin true 63 0) = a at hsum hbeyond
    have hd' := RoundedRne.unique fp32_fits (by
      refine Int.mul_ne_zero ?_ hp.ne'
      generalize (2 : Int) ^ 298 = b at h64 hp
      omega) hsum hd
    rw [hlane, hsame (.inr hne), hbeyond, hd', value_finite hfd']
    rw [floatUnits_withSign] at hy
    exact tliAt_rounded (by omega) (scaled_value fp32_fits d) hy hfy hfk hfd

/-- Settles O32: every result of the floating functions is its exact result rounded once. -/
theorem floatResultsRoundedOnce : Obligations.FloatResultsRoundedOnce :=
  ⟨floatResultsRounded, rootsAndApproximations, approximationTables, tableInterpolation⟩

end Sys2Proof.Machine

namespace Sys2Proof.Machine
open Sys2Proof

/-! ### Commits that leave their thread in its slot -/

/-- The effects of register writes, stores, commands, pushes, loops and time: their commit leaves the thread in its slot with no
wait, and sends no cell, task or system message. -/
def isPlain : Eff → Bool
  | .writeG _ _ | .writeV _ _ _ | .writeS _ _ | .writeSpecial _ _ | .takeReg _ _ | .call _ | .store _ _ _ | .push _ _ _ _
  | .command _ | .loop _ _ _ | .advance _ | .setTime _ => true
  | _ => false

/-- Every effect of a list is plain. -/
def AllPlain (es : List (Nat × Eff)) : Prop := ∀ e ∈ es, isPlain e.2 = true

theorem AllPlain.tail {e : Nat × Eff} {es : List (Nat × Eff)} (h : AllPlain (e :: es)) : AllPlain es :=
  fun y hy => h y (List.mem_cons_of_mem e hy)

section
variable {es : List (Nat × Eff)} (h : AllPlain es)
include h

theorem AllPlain.any_false {p : Nat × Eff → Bool} (hp : ∀ e, isPlain e.2 = true → p e = false) : es.any p = false :=
  List.any_eq_false.mpr fun e he => by simp [hp e (h e he)]

theorem AllPlain.haltsIn : haltsIn es = false :=
  h.any_false fun e he => decide_eq_false fun hh => by simp [hh, isPlain] at he
theorem AllPlain.leavesIn : leavesIn es = false :=
  h.any_false fun e he => decide_eq_false fun hh => by simp [hh, isPlain] at he
theorem AllPlain.joinsIn : joinsIn es = false :=
  h.any_false fun e he => by
    rcases e with ⟨i, e⟩
    cases e
    case joinSheaf => cases he
    all_goals rfl
theorem AllPlain.endsTaskIn : endsTaskIn es = false :=
  h.any_false fun e he => by
    rcases e with ⟨i, e⟩
    cases e
    case cell => cases he
    all_goals rfl
theorem AllPlain.closesIn : closesIn es = false :=
  h.any_false fun e he => by
    rcases e with ⟨i, e⟩
    cases e
    case cell => cases he
    all_goals rfl
theorem AllPlain.parksIn : parksIn es = false :=
  h.any_false fun e he => decide_eq_false fun hh => by simp [hh, isPlain] at he
theorem AllPlain.endsIn : endsIn es = false := by
  simp [Machine.endsIn, h.haltsIn, h.leavesIn, h.endsTaskIn]
theorem AllPlain.returnIn : returnIn es = none :=
  List.findSome?_eq_none_iff.mpr fun e he => by
    have hp := h e he
    rcases e with ⟨i, e⟩
    cases e
    case trapReturn => cases hp
    all_goals rfl

theorem AllPlain.filterMap_nil {α : Type} {f : Nat × Eff → Option α} (hf : ∀ e, isPlain e.2 = true → f e = none) :
    es.filterMap f = [] :=
  List.filterMap_eq_nil_iff.mpr fun e he => hf e (h e he)

theorem waitsAfter_of_plain {s : State} {wakep : Bool} : waitsAfter s wakep es = [] := by
  change (if wakep then (es.filterMap _).erase Wait.parked else es.filterMap _) = []
  rw [h.filterMap_nil]
  · exact ite_self _
  · rintro ⟨i, e⟩ he
    cases e
    case recalcFence | park | yield => cases he
    all_goals rfl

end

/-- What the main step of a commit makes of the thread: its time and frames go on, and it has no block and waits for nothing. -/
def afterMain (s : State) (c : Nat) (t : Thread) (b : Block) (x : ExitFired) (es : List (Nat × Eff)) (u : Thread) : Thread :=
  let le := loopEnd b x t.frames (timeAfter s c t es).1
  let lb := loopBegin x es le.2.1 le.2.2
  { u with
    ltime := le.1, sheaf := t.sheaf, noSheaf := t.noSheaf, frames := lb.1, next := lb.2, retry := none, block := none,
    wait := .marks 0, waits := [] }

/-- The first part of a commit of plain effects: what its effects do. -/
def commitEffects (c k : Nat) (t : Thread) (b : Block) (es : List (Nat × Eff)) : Act Unit := do
  writeRegisters c k (es.map (·.2))
  each (storeWords es) (releaseWord c k t.incarn.toNat ((fenceScope b isRelease).bind decScope))
  sendWords c
  each es fun e => commitCommand c k t.ltime b.sheaf e.2
  each es fun e => commitChannel c t.ltime b.sheaf e.2

/-- The number of new items of a sheaf at ⊤ (R72). -/
def topCounts (l : List (Option Nat × Word × Int)) : Nat :=
  (l.filter fun d => d.1.isSome && decide (d.2.1 = timeTop) && decide (0 < d.2.2)).length

/-- The second part: flags and counts. -/
def commitRecords (s : State) (c k : Nat) (t : Thread) (b : Block) (x : ExitFired) : Act Unit := do
  modThread c k fun t => { t with flags := mergeFlags t.flags b.flags }
  mergeSheaf b.sheaf b.flags
  recordCounts c (deltasOf (blockCounts s c t b x))
  countReg c 0x0E88 (topCounts (blockCounts s c t b x))

/-- The tick at which a sheaf has moved. -/
def sheafMoves (s : State) : Option Nat → Act Unit
  | some n => modSheaf n fun y => { y with moved := s.tick }
  | none => pure ()

/-- What a commit does to its core and its sheaf once its thread has changed: an acquire, COMMITS and the tick of the sheaf. -/
def commitMoves (s : State) (c : Nat) (b : Block) : Act Unit := do
  onlyIf (isAcquireBlock b) (acquireCommit c)
  countReg c 0x0EB0 1
  sheafMoves s b.sheaf

/-- The last part: the thread goes on. -/
def commitSettles (s : State) (c k : Nat) (t : Thread) (b : Block) (x : ExitFired) (es : List (Nat × Eff)) : Act Unit := do
  modThread c k (afterMain s c t b x es)
  retryFills c k
  commitMoves s c b
  afterCommit c k es

theorem timeAfter_membership {es : List (Nat × Eff)} (h : AllPlain es) (s : State) (c : Nat) (t : Thread) :
    (timeAfter s c t es).2 = (t.sheaf, t.noSheaf) := by
  unfold timeAfter
  suffices H : ∀ x : Word × Nat × Bool, (es.foldl (fun x e =>
      match e.2 with
      | .advance u => (u, x.2)
      | .setTime u => (u, x.2)
      | .recalcFence u => (if x.1.toNat ≤ u.toNat then u + 1 else x.1, x.2)
      | .joinSheaf n => (if x.1.toNat < (frontierFor s c n).toNat then frontierFor s c n else x.1, n, false)
      | .leaveSheaf _ => (x.1, x.2.1, true)
      | _ => x) x).2 = x.2 from H _
  induction es with
  | nil => exact fun _ => rfl
  | cons e es ih =>
    intro x
    rw [List.foldl_cons, ih h.tail]
    have hp := h e (List.mem_cons_self ..)
    rcases e with ⟨i, e⟩
    cases e
    case recalcFence | joinSheaf | leaveSheaf => cases hp
    all_goals rfl

section
variable {es : List (Nat × Eff)} (h : AllPlain es)
include h

theorem AllPlain.each_pure {f : Nat × Eff → Act Unit} (hf : ∀ e, isPlain e.2 = true → f e = pure ()) : each es f = pure () := by
  induction es with
  | nil => rfl
  | cons e es ih =>
    have he : f e = pure () := hf e (h e (List.mem_cons_self ..))
    simp only [each, he, ih h.tail, pure_bind]

theorem commitBinding_of_plain {c : Nat} {sheaf : Option Nat} : (each es fun e => commitBinding c sheaf e.2) = pure () :=
  h.each_pure fun e he => by
    rcases e with ⟨i, e⟩
    cases e
    case bindPipe | unbindChannel | bindStream => cases he
    all_goals rfl

theorem commitOther_of_plain {c k : Nat} {t : Thread} {sheaf : Option Nat} :
    (each es fun e => commitOther c k t sheaf e.2) = pure () :=
  h.each_pure fun e he => by
    rcases e with ⟨i, e⟩
    cases e
    case acquire | masks | loadTable | pinErr | spawn | spawnAt | message | readReduce | systemWrite | saturations => cases he
    all_goals rfl

theorem commitCells_of_plain {c k : Nat} {b : Block} : commitCells c k b es = pure () := by
  unfold commitCells
  dsimp only
  rw [h.each_pure, h.each_pure, h.each_pure]
  · rfl
  all_goals
    intro e he
    split
    · simp_all [isPlain]
    · rfl

theorem closing_of_plain : es.filter (fun e => isCellEff isClosing e.2) = [] :=
  List.filter_eq_nil_iff.mpr fun e he => by
    have := h e he
    unfold isCellEff
    split <;> simp_all [isPlain]

theorem owedAfter_of_plain {t : Thread} {time : Word} {sheaf : Option Nat} : owedAfter t es time sheaf = [] := by
  simp [owedAfter, h.closesIn]

end

theorem onlyIf_false {a : Act Unit} : onlyIf false a = pure () := rfl

theorem commitBlock_of_plain {b : Block} (h : AllPlain (orderedEffs b)) (s : State) (c k : Nat) (t : Thread) (x : ExitFired) :
    run (commitBlock c k t b x) s = run (do
      commitEffects c k t b (orderedEffs b)
      commitRecords s c k t b x
      commitSettles s c k t b x (orderedEffs b)) s := by
  unfold commitBlock commitEffects commitRecords commitSettles commitMoves topCounts
  rw [run_look_bind]
  dsimp only
  simp only [h.joinsIn, h.returnIn, timeAfter_membership h, h.parksIn, waitsAfter_of_plain h, h.endsIn, owedAfter_of_plain h,
    closing_of_plain h, commitBinding_of_plain h, commitOther_of_plain h, commitCells_of_plain h,
    Bool.or_false, Bool.not_false, Bool.and_true, Bool.false_and, List.append_nil, Option.isSome_none,
    Bool.false_eq_true, if_false, onlyIf_false, pure_bind, bind_assoc, List.length_nil, id_eq]
  rw [h.any_false, Bool.or_false]
  · cases b.sheaf <;> rfl
  · intro e he
    split <;> simp_all [isPlain]

end Sys2Proof.Machine

namespace Sys2Proof.Machine
open Sys2Proof

/-! ### What the records of a commit leave as it was -/

/-- What counts, counters and acquire commits of core c leave as it was: the state stays but for events, sheaves and the core, whose
counts, batches, channels and registers alone change; of these registers only TOVFCNT does, and the flags of the sheaves stay. -/
structure QuietRel (c : Nat) (s t : State) : Prop where
  fields : t = { s with agenda := t.agenda, cores := t.cores, sheaves := t.sheaves }
  agenda : ∀ e ∈ s.agenda, e ∈ t.agenda
  flags : ∀ n, (sheafAt t n).flags = (sheafAt s n).flags
  core : coreAt t c = { coreAt s c with
    regs := (coreAt t c).regs, counts := (coreAt t c).counts, countsSince := (coreAt t c).countsSince,
    batches := (coreAt t c).batches, chans := (coreAt t c).chans }
  regs : ∀ off, off ≠ 0x0E88 → creg t c off = creg s c off

theorem QuietRel.trans {c : Nat} {s t u : State} (h : QuietRel c s t) (k : QuietRel c t u) : QuietRel c s u where
  fields := by
    have hk := k.fields
    rw [h.fields] at hk
    exact hk
  agenda e he := k.agenda e (h.agenda e he)
  flags n := (k.flags n).trans (h.flags n)
  core := by
    have hk := k.core
    rw [h.core] at hk
    exact hk
  regs off ho := (k.regs off ho).trans (h.regs off ho)

def quietFrame (c : Nat) : Frame where
  rel := QuietRel c
  refl _ := ⟨rfl, fun _ h => h, fun _ => rfl, rfl, fun _ _ => rfl⟩
  trans := QuietRel.trans
  cycle h := by rw [h.fields]

/-- The same without a change of the counts. -/
def calmFrame (c : Nat) : Frame where
  rel s t := QuietRel c s t ∧ (coreAt t c).counts = (coreAt s c).counts
  refl s := ⟨(quietFrame c).refl s, rfl⟩
  trans h k := ⟨h.1.trans k.1, k.2.trans h.2⟩
  cycle h := (quietFrame c).cycle h.1

theorem Keeps.quiet {c : Nat} {α : Type} {a : Act α} (h : Keeps (calmFrame c) a) : Keeps (quietFrame c) a := h.mono fun _ _ k => k.1

section
variable {c : Nat}

/-- A change of the core's counts, batches and channels. -/
theorem quietRel_core {s : State} {x : Core} (hx : x = { coreAt s c with
    counts := x.counts, countsSince := x.countsSince, batches := x.batches, chans := x.chans }) :
    QuietRel c s (applyUpd (.core c x) s) where
  fields := rfl
  agenda _ h := h
  flags _ := rfl
  core := by
    rw [coreAt_changed, if_pos rfl, hx]
  regs off _ := by
    simp only [creg, coreAt_changed, if_pos]
    rw [hx]

theorem quiet_modCore {f : Core → Core} (hf : ∀ x : Core, f x = { x with
    counts := (f x).counts, countsSince := (f x).countsSince, batches := (f x).batches, chans := (f x).chans }) :
    Keeps (quietFrame c) (modCore c f) :=
  ⟨logged_modCore _ _, fun _ => quietRel_core (hf _)⟩

theorem calm_modCore {f : Core → Core} (hf : ∀ x : Core, f x = { x with chans := (f x).chans }) :
    Keeps (calmFrame c) (modCore c f) :=
  ⟨logged_modCore _ _, fun s => ⟨quietRel_core (by rw [hf]), by
    change (coreAt (applyUpd (.core c (f (coreAt s c))) s) c).counts = _
    rw [coreAt_changed, if_pos rfl, hf]⟩⟩

theorem calm_later {n phase place : Nat} {e : Instr} : Keeps (calmFrame c) (later n phase place e) :=
  ⟨logged_later _ _ _ _, fun _ => ⟨⟨rfl, fun _ h => mem_putEvent.mpr (.inr h), fun _ => rfl, rfl, fun _ _ => rfl⟩, rfl⟩⟩

theorem calm_countTop {n : Nat} : Keeps (calmFrame c) (countReg c 0x0E88 n) :=
  keeps_look_bind fun _ => keeps_onlyIf (keeps_of_run (logged_setCreg _ _ _) fun s => by
    have hc : ∀ v, coreAt (run (setCreg c 0x0E88 v) s) c =
        { coreAt s c with regs := mset (coreRegReset 0x0E88) (coreAt s c).regs 0x0E88 v } := fun v => by
      rw [run_setCreg, coreAt_changed, if_pos rfl]
    refine ⟨⟨rfl, fun _ h => h, fun _ => rfl, by rw [hc], fun off ho => ?_⟩, by rw [hc]⟩
    rw [creg_setCreg, if_neg fun h => ho h.2])

theorem calm_modSheaf {n : Nat} {f : Sheaf → Sheaf} (hf : ∀ x : Sheaf, (f x).flags = x.flags) : Keeps (calmFrame c) (modSheaf n f) :=
  ⟨logged_modSheaf _ _, fun s => ⟨⟨rfl, fun _ h => h, fun m => by
    change (sheafAt (applyUpd (.sheaf n (f (sheafAt s n))) s) m).flags = _
    rw [sheafAt_changed]
    split
    case isTrue h => rw [hf, h]
    case isFalse => rfl, rfl, fun _ _ => rfl⟩, rfl⟩⟩

theorem calm_acquireCommit : Keeps (calmFrame c) (acquireCommit c) :=
  keeps_look_bind fun _ => keeps_each fun _ => by
    split
    · exact keeps_bind (calm_modCore fun _ => rfl) fun _ => calm_later
    · exact keeps_pure

theorem quiet_formBatch : Keeps (quietFrame c) (formBatch c) :=
  keeps_look_bind fun _ => quiet_modCore fun x => by split <;> rfl

theorem quiet_recordCounts {ds : List Delta} : Keeps (quietFrame c) (recordCounts c ds) :=
  keeps_onlyIf (keeps_look_bind fun _ => keeps_look_bind fun _ => keeps_bind (keeps_onlyIf quiet_formBatch) fun _ =>
    keeps_look_bind fun _ => keeps_bind (keeps_onlyIf calm_later.quiet) fun _ =>
    keeps_bind (quiet_modCore fun _ => rfl) fun _ => keeps_look_bind fun _ => keeps_onlyIf calm_later.quiet)

end

end Sys2Proof.Machine

namespace Sys2Proof.Machine
open Sys2Proof

/-! ### The thread goes on after a commit -/

theorem threadAt_modThread (c k : Nat) (f : Thread → Thread) (s : State) :
    threadAt (run (modThread c k f) s) c k = (threadAt s c k).map f := by
  unfold threadAt
  rw [run_modThread, slotAt_changed, if_pos rfl, mapThread_thread]

/-- A thread in a state that no swap-out, cut or mark keeps from its next block. -/
structure MayGoOn (s : State) (c k : Nat) (t : Thread) : Prop where
  thread : threadAt s c k = some t
  wait : t.wait = .marks 0
  waits : t.waits = []
  lives : t.ending = false ∧ t.owed = []
  preempt : creg s c 0x0F28 = 0
  cut : (coreAt s c).cutSeen = false

/-- A thread without waits goes on to its next block. -/
theorem run_goOn_of_waits_nil {s : State} {c k : Nat} {t : Thread} (ht : threadAt s c k = some t) (hw : t.waits = []) :
    run (goOn c k) s =
      run (later 0 4 (c * 16 + k) (.blockLoad c k)) (run (modThread c k fun t => nextWaits s c t t.waits) s) := by
  have hpass : (threadAt s c k).elim false (passesFence s c) = false := by
    simp [ht, passesFence, hw]
  have hnext : threadAt (run (modThread c k fun t => nextWaits s c t t.waits) s) c k = some { t with wait := .nothing, waits := [] } := by
    rw [threadAt_modThread, ht, Option.map_some, hw]
    rfl
  unfold goOn
  rw [run_look_bind]
  simp only [id, hpass, onlyIf_false, pure_bind]
  rw [run_bind (logged_modThread _ _ _) fun _ => logged_bind (logged_look _) fun _ => logged_onlyIf _ (logged_later _ _ _ _),
    ← run_eq_st (logged_modThread _ _ _), run_look_bind, hnext]
  rfl

theorem run_marksDone_of_mayGoOn {s : State} {c k : Nat} {t : Thread} (h : MayGoOn s c k t) :
    run (marksDone c k) s = run (goOn c k) (run (modThread c k fun t => { t with owed := [] }) s) := by
  obtain ⟨hth, hwait, -, ⟨hending, howed⟩, -, -⟩ := h
  unfold marksDone
  rw [run_look_bind, hth]
  simp only [hwait, hending, howed, Bool.false_eq_true, if_false, each, pure_bind]
  exact run_seq (logged_modThread _ _ _) clock_goOn.logged s

/-- What the end of a commit leaves: the thread waits for nothing and its next block is to be loaded. -/
theorem run_afterCommit {s : State} {c k : Nat} {t : Thread} {es : List (Nat × Eff)} (hp : AllPlain es) (h : MayGoOn s c k t) :
    run (afterCommit c k es) s = run (goOn c k) (run (modThread c k fun t => { t with owed := [] }) s) := by
  have hpre : preemptsAt s c k es = false := by simp [preemptsAt, h.preempt]
  have hcut : stopsForCut s c k = false := by simp [stopsForCut, h.cut]
  unfold afterCommit
  rw [run_look_bind]
  simp only [id, hp.haltsIn, hp.leavesIn, hpre, hcut, Bool.or_false, Bool.false_and, Bool.false_eq_true, if_false, onlyIf_false,
    pure_bind]
  rw [hp.each_pure, pure_bind, run_look_bind, h.thread]
  · simp only [h.wait]
    exact run_marksDone_of_mayGoOn h
  · rintro ⟨i, e⟩ he
    cases e
    case yield => cases he
    all_goals rfl

/-- A commit has left the thread t in its slot, with no wait and its next block to be loaded. -/
structure GoneOn (s : State) (c k : Nat) (t : Thread) (u : State) : Prop where
  fields : u = { s with slots := u.slots, agenda := u.agenda }
  thread : threadAt u c k = some t
  agenda : ∀ e ∈ s.agenda, e ∈ u.agenda
  load : Pends s u 0 4 (c * 16 + k) (.blockLoad c k)

theorem goneOn_afterCommit {s : State} {c k : Nat} {t : Thread} {es : List (Nat × Eff)} (hp : AllPlain es) (h : MayGoOn s c k t) :
    GoneOn s c k { t with wait := .nothing, waits := [], owed := [] } (run (afterCommit c k es) s) := by
  have hth : threadAt (run (modThread c k fun t => { t with owed := [] }) s) c k = some { t with owed := [] } := by
    rw [threadAt_modThread, h.thread]
    rfl
  rw [run_afterCommit hp h, run_goOn_of_waits_nil hth h.waits, run_later]
  refine ⟨rfl, ?_, fun e he => mem_putEvent.mpr (.inr he), mem_putEvent.mpr (.inl rfl)⟩
  change threadAt (run (modThread c k fun t => nextWaits _ c t t.waits) _) c k = _
  rw [threadAt_modThread, hth, Option.map_some, h.waits]
  rfl

end Sys2Proof.Machine

namespace Sys2Proof.Machine
open Sys2Proof

/-! ### What the parts of a commit after its effects leave -/

/-- What flags, counts and the end of a commit at core c leave as it was. -/
structure KeptRel (c : Nat) (s t : State) : Prop where
  fields : t = { s with slots := t.slots, agenda := t.agenda, cores := t.cores, sheaves := t.sheaves }
  agenda : ∀ e ∈ s.agenda, e ∈ t.agenda
  core : coreAt t c = { coreAt s c with
    regs := (coreAt t c).regs, counts := (coreAt t c).counts, countsSince := (coreAt t c).countsSince,
    batches := (coreAt t c).batches, chans := (coreAt t c).chans }

theorem KeptRel.trans {c : Nat} {s t u : State} (h : KeptRel c s t) (k : KeptRel c t u) : KeptRel c s u where
  fields := by
    have hk := k.fields
    rw [h.fields] at hk
    exact hk
  agenda e he := k.agenda e (h.agenda e he)
  core := by
    have hk := k.core
    rw [h.core] at hk
    exact hk

theorem QuietRel.kept {c : Nat} {s t : State} (h : QuietRel c s t) : KeptRel c s t where
  fields := by rw [h.fields]
  agenda := h.agenda
  core := h.core

theorem GoneOn.kept {c k : Nat} {s u : State} {t : Thread} (h : GoneOn s c k t u) : KeptRel c s u where
  fields := by rw [h.fields]
  agenda := h.agenda
  core := by rw [h.fields]; rfl

theorem kept_modThread {c k : Nat} {f : Thread → Thread} {s : State} : KeptRel c s (run (modThread c k f) s) :=
  ⟨rfl, fun _ h => h, rfl⟩

theorem QuietRel.threadAt {c : Nat} {s t : State} (h : QuietRel c s t) (k : Nat) : threadAt t c k = threadAt s c k := by
  rw [h.fields]
  rfl

theorem run_mergeSheaf_fields {sheaf : Option Nat} {f : NumFlags} {s : State} :
    run (mergeSheaf sheaf f) s = { s with sheaves := (run (mergeSheaf sheaf f) s).sheaves } := by
  unfold mergeSheaf
  split
  · rfl
  · rw [run_onlyIf]
    split <;> rfl

theorem sheafAt_mergeSheaf {sheaf : Option Nat} {f : NumFlags} {s : State} (n : Nat) :
    (sheafAt (run (mergeSheaf sheaf f) s) n).flags =
      if sheaf = some n then mergeFlags (sheafAt s n).flags f else (sheafAt s n).flags := by
  cases sheaf with
  | none => rfl
  | some m =>
    have none : ∀ w : Word, mergeFlags w noFlags = w := fun w => by
      change w ||| 0 = w
      exact BitVec.or_zero
    unfold mergeSheaf
    dsimp only
    rw [run_onlyIf]
    by_cases hf : f = noFlags
    · simp [hf, none]
    · rw [if_pos (by simpa using hf), run_modSheaf, sheafAt_changed]
      by_cases h : m = n
      · simp [h]
      · simp [h, Ne.symm h]

@[simp] theorem coreAt_later (n phase place c : Nat) (e : Instr) (s : State) : coreAt (run (later n phase place e) s) c = coreAt s c :=
  rfl

/-- Counts that stay in range are recorded where the table of the core stands. -/
theorem counts_recordCounts {c : Nat} {ds : List Delta} {s : State} (h : inRange (addDeltas ds (coreAt s c).counts) = true) :
    (coreAt (run (recordCounts c ds) s) c).counts = addDeltas ds (coreAt s c).counts := by
  unfold recordCounts
  rw [run_onlyIf]
  split
  case isFalse hd =>
    have : ds = [] := by simpa using hd
    rw [this]
    rfl
  case isTrue hd =>
    rw [run_look_bind, run_look_bind]
    simp only [h, Bool.not_true, onlyIf_false, pure_bind]
    rw [run_look_bind,
      run_seq (logged_onlyIf _ (logged_later _ _ _ _)) (logged_bind (logged_modCore _ _) fun _ => logged_bind (logged_look _) fun _ =>
        logged_onlyIf _ (logged_later _ _ _ _)),
      run_seq (logged_modCore _ _) (logged_bind (logged_look _) fun _ => logged_onlyIf _ (logged_later _ _ _ _)), run_look_bind]
    simp only [run_onlyIf, apply_ite (coreAt · c), coreAt_later, run_modCore, coreAt_changed, if_pos, ite_self]

/-- The thread with the flags that its block has raised (R68). -/
def withFlags (f : NumFlags) (t : Thread) : Thread := { t with flags := mergeFlags t.flags f }

/-- The flags of a commit go to the thread and to its sheaf, and nothing else changes. -/
theorem run_flags {c k : Nat} {b : Block} {p q : State}
    (hq : run (mergeSheaf b.sheaf b.flags) (run (modThread c k (withFlags b.flags)) p) = q) :
    q = { p with slots := q.slots, sheaves := q.sheaves } ∧ threadAt q c k = (threadAt p c k).map (withFlags b.flags) := by
  have hm : q = { run (modThread c k (withFlags b.flags)) p with sheaves := q.sheaves } := by
    rw [← hq]
    exact run_mergeSheaf_fields
  have hs : q.slots = (run (modThread c k (withFlags b.flags)) p).slots := by rw [hm]
  constructor
  · rw [hs]
    exact hm
  · rw [← threadAt_modThread, threadAt, threadAt, slotAt, slotAt, hs]

/-- What the flags and counts of a commit leave. -/
structure Recorded (c k : Nat) (b : Block) (ds : List Delta) (p q : State) : Prop where
  kept : KeptRel c p q
  thread : threadAt q c k = (threadAt p c k).map (withFlags b.flags)
  regs : ∀ off, off ≠ 0x0E88 → creg q c off = creg p c off
  flags : ∀ n, (sheafAt q n).flags = if b.sheaf = some n then mergeFlags (sheafAt p n).flags b.flags else (sheafAt p n).flags
  counts : inRange (addDeltas ds (coreAt p c).counts) = true → (coreAt q c).counts = addDeltas ds (coreAt p c).counts

theorem recorded_commitRecords (s : State) (c k : Nat) (t : Thread) (b : Block) (x : ExitFired) (p : State) :
    Recorded c k b (deltasOf (blockCounts s c t b x)) p (run (commitRecords s c k t b x) p) := by
  change Recorded c k b _ p (run (modThread c k (withFlags b.flags) >>= fun _ => mergeSheaf b.sheaf b.flags >>= fun _ =>
    recordCounts c _ >>= fun _ => countReg c 0x0E88 _) p)
  rw [run_seq (logged_modThread _ _ _) (logged_bind clock_mergeSheaf.logged fun _ =>
      logged_bind spares_recordCounts.logged fun _ => logged_countReg _ _ _),
    run_seq clock_mergeSheaf.logged (logged_bind spares_recordCounts.logged fun _ => logged_countReg _ _ _),
    run_seq spares_recordCounts.logged (logged_countReg _ _ _)]
  have hsheaf := sheafAt_mergeSheaf (sheaf := b.sheaf) (f := b.flags)
    (s := run (modThread c k (withFlags b.flags)) p)
  generalize hq : run (mergeSheaf b.sheaf b.flags) (run (modThread c k (withFlags b.flags)) p) = p₂ at hsheaf ⊢
  obtain ⟨hf, hth⟩ := run_flags hq
  have hcore : coreAt p₂ c = coreAt p c := by rw [hf]; rfl
  have hk : KeptRel c p p₂ := ⟨by rw [hf], by rw [hf]; exact fun _ h => h, by rw [hcore]⟩
  have hrec : QuietRel c p₂ _ := (quiet_recordCounts (ds := deltasOf (blockCounts s c t b x))).run p₂
  have htop : (calmFrame c).rel _ _ := (calm_countTop (n := topCounts (blockCounts s c t b x))).run
    (run (recordCounts c (deltasOf (blockCounts s c t b x))) p₂)
  have hall := hrec.trans htop.1
  refine ⟨hk.trans hall.kept, (hall.threadAt k).trans hth, fun off ho => ?_, fun n => (hall.flags n).trans (hsheaf n), fun hr => ?_⟩
  · rw [hall.regs off ho]
    unfold creg
    rw [hcore]
  · rw [htop.2, counts_recordCounts (by rwa [hcore]), hcore]

/-- What a commit leaves after its effects. -/
structure Settled (s : State) (c k : Nat) (t : Thread) (b : Block) (x : ExitFired) (es : List (Nat × Eff)) (p : State) (tp : Thread)
    (u : State) : Prop where
  kept : KeptRel c p u
  thread : threadAt u c k = some
    { afterMain s c t b x es (withFlags b.flags tp) with wait := .nothing, waits := [], owed := [] }
  load : Pends p u 0 4 (c * 16 + k) (.blockLoad c k)
  commits : creg u c 0x0EB0 = addSat64 (creg p c 0x0EB0) 1
  flags : ∀ n, (sheafAt u n).flags = if b.sheaf = some n then mergeFlags (sheafAt p n).flags b.flags else (sheafAt p n).flags
  counts : inRange (addDeltas (deltasOf (blockCounts s c t b x)) (coreAt p c).counts) = true →
    (coreAt u c).counts = addDeltas (deltasOf (blockCounts s c t b x)) (coreAt p c).counts

/-- The effects of a commit leave a thread that lives, at a core that no pre-emption, cut, FILL concerns. -/
structure EffectsDone (c k : Nat) (p : State) (tp : Thread) : Prop where
  thread : threadAt p c k = some tp
  lives : tp.ending = false ∧ tp.owed = []
  preempt : creg p c 0x0F28 = 0
  cut : (coreAt p c).cutSeen = false
  fills : (coreAt p c).fills = []

/-- What the acquire, COMMITS and the tick of the sheaf leave. -/
structure MovesDone (c : Nat) (q r : State) : Prop where
  kept : KeptRel c q r
  slots : r.slots = q.slots
  flags : ∀ n, (sheafAt r n).flags = (sheafAt q n).flags
  counts : (coreAt r c).counts = (coreAt q c).counts
  commits : creg r c 0x0EB0 = addSat64 (creg q c 0x0EB0) 1
  preempt : creg r c 0x0F28 = creg q c 0x0F28

theorem calm_sheafMoves {c : Nat} {s : State} {sheaf : Option Nat} : Keeps (calmFrame c) (sheafMoves s sheaf) := by
  cases sheaf
  · exact keeps_pure
  · exact calm_modSheaf fun _ => rfl

theorem moved_countCommits (c : Nat) (s : State) : MovesDone c s (run (countReg c 0x0EB0 1) s) := by
  rw [run_countReg_one]
  have hc : ∀ v, coreAt (run (setCreg c 0x0EB0 v) s) c =
      { coreAt s c with regs := mset (coreRegReset 0x0EB0) (coreAt s c).regs 0x0EB0 v } := fun v => by
    rw [run_setCreg, coreAt_changed, if_pos rfl]
  refine ⟨⟨rfl, fun _ h => h, by rw [hc]⟩, rfl, fun _ => rfl, by rw [hc], ?_, ?_⟩
  · rw [creg_setCreg, if_pos ⟨rfl, rfl⟩]
  · rw [creg_setCreg, if_neg fun h => absurd h.2 (by decide)]

theorem moved_commitMoves (s : State) (c : Nat) (b : Block) (q : State) : MovesDone c q (run (commitMoves s c b) q) := by
  have hacq : Keeps (calmFrame c) (onlyIf (isAcquireBlock b) (acquireCommit c)) := keeps_onlyIf calm_acquireCommit
  have hmv := calm_sheafMoves (c := c) (s := s) (sheaf := b.sheaf)
  unfold commitMoves
  rw [run_seq hacq.logged (logged_bind (logged_countReg _ _ _) fun _ => hmv.logged), run_seq (logged_countReg _ _ _) hmv.logged]
  obtain ⟨h₁, n₁⟩ := hacq.run q
  generalize run (onlyIf (isAcquireBlock b) (acquireCommit c)) q = r₁ at h₁ n₁ ⊢
  obtain ⟨k₂, s₂, f₂, n₂, c₂, p₂⟩ := moved_countCommits c r₁
  generalize run (countReg c 0x0EB0 1) r₁ = r₂ at k₂ s₂ f₂ n₂ c₂ p₂ ⊢
  obtain ⟨h₃, n₃⟩ := hmv.run r₂
  refine ⟨(h₁.kept.trans k₂).trans h₃.kept, ?_, fun n => ?_, n₃.trans (n₂.trans n₁), ?_, ?_⟩
  · rw [h₃.fields, s₂, h₁.fields]
  · rw [h₃.flags, f₂, h₁.flags]
  · rw [h₃.regs _ (by decide), c₂, h₁.regs _ (by decide)]
  · rw [h₃.regs _ (by decide), p₂, h₁.regs _ (by decide)]

theorem retryFills_nothing {c k : Nat} {s : State} (h : (coreAt s c).fills = []) : run (retryFills c k) s = s := by
  unfold retryFills
  rw [run_look_bind, h]
  rfl

theorem MovesDone.threadAt {c : Nat} {q r : State} (h : MovesDone c q r) (k : Nat) : threadAt r c k = threadAt q c k := by
  simp only [Machine.threadAt, slotAt, h.slots]

theorem settled_commit {s : State} {c k : Nat} {t : Thread} {b : Block} {x : ExitFired} {es : List (Nat × Eff)} {p : State}
    {tp : Thread} (hp : AllPlain es) (h : EffectsDone c k p tp) :
    Settled s c k t b x es p tp (run (commitSettles s c k t b x es) (run (commitRecords s c k t b x) p)) := by
  obtain ⟨hkept, hth, hregs, hflags, hcounts⟩ := recorded_commitRecords s c k t b x p
  generalize run (commitRecords s c k t b x) p = q at hkept hth hregs hflags hcounts ⊢
  have hmvl : Logged (commitMoves s c b) :=
    logged_bind (keeps_onlyIf clock_acquireCommit).logged fun _ => logged_bind (logged_countReg _ _ _) fun _ =>
      (calm_sheafMoves (c := c)).logged
  have hfills : (coreAt (run (modThread c k (afterMain s c t b x es)) q) c).fills = [] := by
    change (coreAt q c).fills = []
    rw [hkept.core]
    exact h.fills
  unfold commitSettles
  rw [run_seq (logged_modThread _ _ _) (logged_bind clock_retryFills.logged fun _ => logged_bind hmvl fun _ => clock_afterCommit.logged),
    run_seq clock_retryFills.logged (logged_bind hmvl fun _ => clock_afterCommit.logged), retryFills_nothing hfills,
    run_seq hmvl clock_afterCommit.logged]
  have hr := threadAt_modThread c k (afterMain s c t b x es) q
  have hk₁ : KeptRel c q (run (modThread c k (afterMain s c t b x es)) q) := kept_modThread
  have hfl : ∀ n, sheafAt (run (modThread c k (afterMain s c t b x es)) q) n = sheafAt q n := fun _ => rfl
  have hco : coreAt (run (modThread c k (afterMain s c t b x es)) q) c = coreAt q c := rfl
  generalize run (modThread c k (afterMain s c t b x es)) q = q₁ at hr hk₁ hfl hco ⊢
  have hm := moved_commitMoves s c b q₁
  generalize run (commitMoves s c b) q₁ = r at hm ⊢
  have hkr : KeptRel c p r := (hkept.trans hk₁).trans hm.kept
  have hregq : ∀ off, creg q₁ c off = creg q c off := fun off => by rw [creg, creg, hco]
  have hend := goneOn_afterCommit hp (s := r) (c := c) (k := k) (t := afterMain s c t b x es (withFlags b.flags tp))
    ⟨by rw [hm.threadAt, hr, hth, h.thread]; rfl, rfl, rfl, h.lives,
      by rw [hm.preempt, hregq, hregs _ (by decide), h.preempt], by rw [hkr.core]; exact h.cut⟩
  generalize run (afterCommit c k es) r = u at hend ⊢
  have hsheaf : ∀ n, sheafAt u n = sheafAt r n := fun n => by rw [hend.fields]; rfl
  have hcore : coreAt u c = coreAt r c := by rw [hend.fields]; rfl
  refine ⟨hkr.trans hend.kept, hend.thread, ?_, ?_, fun n => ?_, fun hin => ?_⟩
  · have hd : dueCycle p 0 (.blockLoad c k) = dueCycle r 0 (.blockLoad c k) := by rw [hkr.fields]; rfl
    rw [Pends, hd]
    exact hend.load
  · rw [creg, hcore]
    exact hm.commits.trans (by rw [hregq, hregs _ (by decide)])
  · rw [hsheaf, hm.flags, hfl, hflags]
  · rw [hcore, hm.counts, hco, hcounts hin]

end Sys2Proof.Machine

namespace Sys2Proof.Machine
open Sys2Proof

/-! ### The commit of a block of plain effects -/

theorem AllPlain.ordered {b : Block} (h : AllPlain b.effs) : AllPlain (orderedEffs b) := fun e he => by
  obtain ⟨i, -, hi⟩ := List.mem_flatMap.mp he
  exact h e (List.mem_of_mem_filter hi)

theorem orderedEffs_nil {b : Block} (h : b.effs = []) : orderedEffs b = [] := by
  simp [orderedEffs, h]

theorem flatMap_range_single {α : Type} {y : α} {i n : Nat} (hi : i < n) :
    ((List.range n).flatMap fun j => if i = j then [y] else []) = [y] := by
  induction n with
  | zero => omega
  | succ n ih =>
    rw [List.range_succ, List.flatMap_append]
    by_cases h : i = n
    · have hz : ((List.range n).flatMap fun j => if i = j then [y] else []) = [] :=
        List.flatMap_eq_nil_iff.mpr fun j hj => if_neg (by have := List.mem_range.mp hj; omega)
      rw [hz]
      simp [h]
    · rw [ih (by omega)]
      simp [h]

theorem orderedEffs_single {b : Block} {i : Nat} {e : Eff} (h : b.effs = [(i, e)]) (hi : i < b.words.length) :
    orderedEffs b = [(i, e)] := by
  unfold orderedEffs indices
  have hj : ∀ j, [(i, e)].filter (fun y => decide (y.1 = j)) = if i = j then [(i, e)] else [] := fun j => by
    simp only [List.filter_cons, List.filter_nil, decide_eq_true_eq]
  simp only [h, hj, flatMap_range_single hi]

/-- A block whose commit waits for nothing commits. -/
theorem exec_blockCommit {s : State} {c k : Nat} {t : Thread} {b : Block} {x : ExitFired} (h : MayCommit s c k t b x)
    (hp : AllPlain b.effs) : exec (.blockCommit c k b.gen) s = .next (run (commitBlock c k t b x) s) := by
  change execBlockCommit c k b.gen s = _
  unfold execBlockCommit
  congr 1
  simp only [h.thread, h.block, h.exit, h.running, h.core, h.release, h.fits, Option.elim_none, List.isEmpty_nil, Bool.not_true,
    Bool.false_eq_true, if_false, decide_true, Bool.not_false, Bool.and_true]
  rw [List.filter_eq_nil_iff.mpr]
  · simp only [h.spills, h.stays, List.length_nil, ne_eq, not_false_eq_true, decide_true, Bool.not_true, Bool.false_eq_true, if_false]
    rfl
  · rintro ⟨i, e⟩ he
    have := hp _ he
    cases e
    case spawn => cases this
    all_goals exact Bool.false_ne_true

theorem clock_commitEffects {c k : Nat} {t : Thread} {b : Block} {es : List (Nat × Eff)} :
    Keeps clockFrame (commitEffects c k t b es) :=
  keeps_bind clock_writeRegisters fun _ => keeps_bind (keeps_each fun _ => clock_releaseWord) fun _ =>
  keeps_bind clock_sendWords fun _ => keeps_bind (keeps_each fun _ => clock_commitCommand) fun _ =>
  keeps_each fun _ => clock_commitChannel

theorem logged_commitRecords {s : State} {c k : Nat} {t : Thread} {b : Block} {x : ExitFired} : Logged (commitRecords s c k t b x) :=
  logged_bind (logged_modThread _ _ _) fun _ => logged_bind clock_mergeSheaf.logged fun _ =>
  logged_bind spares_recordCounts.logged fun _ => logged_countReg _ _ _

theorem logged_commitMoves {s : State} {c : Nat} {b : Block} : Logged (commitMoves s c b) :=
  logged_bind (keeps_onlyIf clock_acquireCommit).logged fun _ => logged_bind (logged_countReg _ _ _) fun _ =>
  (calm_sheafMoves (c := c)).logged

theorem logged_commitSettles {s : State} {c k : Nat} {t : Thread} {b : Block} {x : ExitFired} {es : List (Nat × Eff)} :
    Logged (commitSettles s c k t b x es) :=
  logged_bind (logged_modThread _ _ _) fun _ => logged_bind clock_retryFills.logged fun _ =>
  logged_bind logged_commitMoves fun _ => clock_afterCommit.logged

/-- A commit gives what follows from what its effects leave. -/
theorem commitGives_of_effects {s : State} {c k : Nat} {t : Thread} {b : Block} {x : ExitFired} {P : State → Thread → Prop}
    (h : MayCommit s c k t b x) (hp : AllPlain b.effs) {p : State} (hr : run (commitEffects c k t b (orderedEffs b)) s = p) {tp : Thread}
    (hd : EffectsDone c k p tp)
    (hP : ∀ u th, Settled s c k t b x (orderedEffs b) p tp u → threadAt u c k = some th →
      th = { afterMain s c t b x (orderedEffs b) (withFlags b.flags tp) with wait := .nothing, waits := [], owed := [] } → P u th) :
    CommitGives s c k b P := by
  have hset := settled_commit (s := s) (t := t) (b := b) (x := x) hp.ordered hd
  refine ⟨_, _, exec_blockCommit h hp, ?_, rfl, rfl, hP _ _ ?_ ?_ rfl⟩
  all_goals
    rw [commitBlock_of_plain hp.ordered, run_seq clock_commitEffects.logged (logged_bind logged_commitRecords fun _ => logged_commitSettles),
      run_seq logged_commitRecords logged_commitSettles, hr]
  · exact hset.thread
  · exact hset
  · exact hset.thread

/-! ### What register writes, loops and times do at a commit -/

/-- The effects that change registers, or only the thread: their commit makes no store word, command or push. -/
def isLocal : Eff → Bool
  | .store _ _ _ | .push _ _ _ _ | .command _ => false
  | e => isPlain e

/-- What the register writes of a block leave. -/
structure RegsWritten (s : State) (c k : Nat) (t : Thread) (e : Eff) (p : State) : Prop where
  fields : p = { s with slots := p.slots, cores := p.cores }
  thread : threadAt p c k = some (writeEff (emptyEff t e) e)
  core : coreAt p c = writeS (emptyS (coreAt s c) e) e

theorem and_timeTop (v : Word) : v &&& timeTop = v := by
  change v &&& BitVec.allOnes 64 = v
  exact BitVec.and_allOnes

theorem specialMask_mbox {n : Nat} (h : 0x10 ≤ n) : specialMask n = timeTop := by
  unfold specialMask
  split
  case h_5 => rfl
  all_goals omega

/-- A special register keeps what its fields keep of the value, and the other registers stay. -/
theorem setSpecial_eq (n : Nat) (v : Word) (t : Thread) : setSpecial n v t = { t with
    slack := if n = 0x08 then v &&& 0xFF#64 else t.slack
    round := if n = 0x09 then (if (v &&& 7#64).toNat ≤ 4 then v &&& 7#64 else 0) else t.round
    flags := if n = 0x0A then v &&& 0x107#64 else t.flags
    trapcause := if n = 0x0D then v &&& 0x80FFFFFF#64 else t.trapcause
    trapinfo0 := if n = 0x0E then v else t.trapinfo0
    trapinfo1 := if n = 0x0F then v else t.trapinfo1
    mbox := if 0x10 ≤ n ∧ n < 0x18 then mset 0 t.mbox (n - 0x10) v else t.mbox } := by
  unfold setSpecial
  dsimp only
  split
  case h_5 => rw [show v &&& specialMask 0x0E = v from and_timeTop v]; rfl
  case h_6 => rw [show v &&& specialMask 0x0F = v from and_timeTop v]; rfl
  case h_7 h₁ h₂ h₃ h₄ h₅ h₆ =>
    rw [if_neg h₁, if_neg h₂, if_neg h₃, if_neg h₄, if_neg h₅, if_neg h₆]
    split
    case isTrue h =>
      have h : 0x10 ≤ n ∧ n < 0x18 := by simpa using h
      rw [if_pos h, specialMask_mbox h.1, and_timeTop]
    case isFalse h =>
      rw [if_neg (by simpa using h)]
  all_goals rfl

theorem setSpecial_lives (n : Nat) (v : Word) (t : Thread) :
    (setSpecial n v t).ending = t.ending ∧ (setSpecial n v t).owed = t.owed := by
  rw [setSpecial_eq]
  exact ⟨rfl, rfl⟩

theorem emptyEff_lives (t : Thread) (e : Eff) : (emptyEff t e).ending = t.ending ∧ (emptyEff t e).owed = t.owed := by
  unfold emptyEff
  split <;> exact ⟨rfl, rfl⟩

/-- The register writes of a commit leave what concerns the life of the thread. -/
theorem writeEff_lives (t : Thread) (e : Eff) : (writeEff t e).ending = t.ending ∧ (writeEff t e).owed = t.owed := by
  cases e
  case writeSpecial n v => exact setSpecial_lives n v t
  all_goals exact ⟨rfl, rfl⟩

theorem writeS_emptyS_keeps (x : Core) (e : Eff) :
    writeS (emptyS x e) e = { x with s := (writeS (emptyS x e) e).s } := by
  cases e
  case takeReg cls n =>
    unfold writeS emptyS
    dsimp only
    split <;> rfl
  all_goals rfl

theorem regsWritten_writeRegisters {s : State} {c k : Nat} {t : Thread} (h : threadAt s c k = some t) (e : Eff) :
    RegsWritten s c k t e (run (writeRegisters c k [e]) s) := by
  unfold writeRegisters
  rw [run_seq (logged_modThread _ _ _) (logged_onlyIf _ (logged_modCore _ _)), run_onlyIf]
  have hth : threadAt (run (modThread c k fun t => [e].foldl writeEff ([e].foldl emptyEff t)) s) c k =
      some (writeEff (emptyEff t e) e) := by
    rw [threadAt_modThread, h]
    rfl
  split
  case isTrue =>
    refine ⟨rfl, hth, ?_⟩
    rw [run_modCore, coreAt_changed, if_pos rfl]
    rfl
  case isFalse hs =>
    refine ⟨rfl, hth, ?_⟩
    change coreAt s c = _
    cases e
    case writeS => simp at hs
    case takeReg cls n =>
      unfold writeS emptyS
      dsimp only
      split
      case h_1 heq =>
        cases heq
        exact absurd rfl hs
      case h_2 => rfl
    all_goals rfl

theorem sendWords_nothing {c : Nat} {s : State} (h : (coreAt s c).sent = []) : run (sendWords c) s = s := by
  unfold sendWords
  rw [run_look_bind, h]
  rfl

theorem RegsWritten.sent {s p : State} {c k : Nat} {t : Thread} {e : Eff} (h : RegsWritten s c k t e p) :
    (coreAt p c).sent = (coreAt s c).sent := by
  rw [h.core, writeS_emptyS_keeps]

/-- Where no store leaves, the commands and pushes of a block follow its register writes. -/
theorem run_commitEffects {s : State} {c k i : Nat} {t : Thread} {b : Block} {x : ExitFired} {e : Eff} (h : MayCommit s c k t b x)
    (he : storeWords [(i, e)] = []) :
    run (commitEffects c k t b [(i, e)]) s =
      run (commitChannel c t.ltime b.sheaf e) (run (commitCommand c k t.ltime b.sheaf e) (run (writeRegisters c k [e]) s)) := by
  have hsent : (coreAt (run (writeRegisters c k [e]) s) c).sent = [] :=
    (regsWritten_writeRegisters h.thread e).sent.trans h.sent
  have hch : Logged (each [(i, e)] fun e => commitChannel c t.ltime b.sheaf e.2) :=
    (keeps_each fun _ => clock_commitChannel).logged
  have hco : Logged (each [(i, e)] fun e => commitCommand c k t.ltime b.sheaf e.2) :=
    (keeps_each fun _ => clock_commitCommand).logged
  have hst : Logged (each [] (releaseWord c k t.incarn.toNat ((fenceScope b isRelease).bind decScope))) :=
    (keeps_each fun _ => clock_releaseWord).logged
  unfold commitEffects
  rw [he, run_seq clock_writeRegisters.logged (logged_bind hst fun _ => logged_bind clock_sendWords.logged fun _ =>
      logged_bind hco fun _ => hch), run_seq hst (logged_bind clock_sendWords.logged fun _ => logged_bind hco fun _ => hch),
    run_each_nil, run_seq clock_sendWords.logged (logged_bind hco fun _ => hch), run_seq hco hch]
  change run _ (run _ (run (sendWords c) (run (writeRegisters c k [e]) s))) = _
  rw [sendWords_nothing hsent, run_each_cons _ _ fun _ => clock_commitCommand.logged, run_each_cons _ _ fun _ => clock_commitChannel.logged]
  rfl

theorem RegsWritten.effectsDone {s p : State} {c k : Nat} {t : Thread} {b : Block} {x : ExitFired} {e : Eff}
    (h : MayCommit s c k t b x) (hw : RegsWritten s c k t e p) : EffectsDone c k p (writeEff (emptyEff t e) e) where
  thread := hw.thread
  lives := by
    rw [(writeEff_lives _ e).1, (writeEff_lives _ e).2, (emptyEff_lives t e).1, (emptyEff_lives t e).2]
    exact h.lives
  preempt := by
    rw [creg, hw.core, writeS_emptyS_keeps]
    exact h.preempt
  cut := by
    rw [hw.core, writeS_emptyS_keeps]
    exact h.cut
  fills := by
    rw [hw.core, writeS_emptyS_keeps]
    exact h.fills

theorem plain_of_local {e : Eff} (h : isLocal e = true) : isPlain e = true := by
  unfold isLocal at h
  split at h
  case h_4 => exact h
  all_goals cases h

/-- The effects of a block with one local effect are its register writes. -/
theorem run_commitEffects_local {s : State} {c k i : Nat} {t : Thread} {b : Block} {x : ExitFired} {e : Eff} (h : MayCommit s c k t b x)
    (he : isLocal e = true) : run (commitEffects c k t b [(i, e)]) s = run (writeRegisters c k [e]) s := by
  have hs : storeWords [(i, e)] = [] := by
    cases e
    case store => cases he
    all_goals rfl
  have hco : commitCommand c k t.ltime b.sheaf e = (look id >>= fun _ => pure ()) := by
    cases e
    case command | stage => cases he
    all_goals rfl
  have hch : commitChannel c t.ltime b.sheaf e = pure () := by
    cases e
    case push | streamOut | unbound => cases he
    all_goals rfl
  rw [run_commitEffects h hs, hco, hch]
  rfl

/-- A commit with one local effect. -/
theorem commitGives_of_local {s : State} {c k i : Nat} {t : Thread} {b : Block} {x : ExitFired} {e : Eff} {P : State → Thread → Prop}
    (h : MayCommit s c k t b x) (hb : b.effs = [(i, e)]) (hi : i < b.words.length) (he : isLocal e = true)
    (hP : ∀ p u th, RegsWritten s c k t e p → Settled s c k t b x [(i, e)] p (writeEff (emptyEff t e) e) u → threadAt u c k = some th →
      th = { afterMain s c t b x [(i, e)] (withFlags b.flags (writeEff (emptyEff t e) e)) with
        wait := .nothing, waits := [], owed := [] } → P u th) :
    CommitGives s c k b P := by
  have hp : AllPlain b.effs := by
    rw [hb]
    exact fun y hy => by
      rw [List.mem_singleton.mp hy]
      exact plain_of_local he
  have hw := regsWritten_writeRegisters (c := c) (k := k) h.thread e
  have ho := orderedEffs_single hb hi
  refine commitGives_of_effects h hp (by rw [ho, run_commitEffects_local h he]) (hw.effectsDone h) ?_
  rw [ho]
  exact fun u th hset ht hth => hP _ u th hw hset ht hth

end Sys2Proof.Machine

namespace Sys2Proof.Machine
open Sys2Proof

/-! ### Commits of register writes -/

section
variable {s p u : State} {c k i : Nat} {t tp : Thread} {b : Block} {x : ExitFired} {e : Eff} {es : List (Nat × Eff)}

theorem loopEnd_elsewhere (hl : x.lpx = false) (hb : isLoopEnd b = false) (frames : List LoopFrame) (time : Word) :
    loopEnd b x frames time = (time, frames, x.target) := by
  simp [loopEnd, hb, hl]

/-- What the main step makes of the thread outside the end of a loop. -/
theorem afterMain_elsewhere (hl : x.lpx = false) (hb : isLoopEnd b = false) (w : Thread) : afterMain s c t b x es w = { w with
    ltime := (timeAfter s c t es).1, sheaf := t.sheaf, noSheaf := t.noSheaf, frames := (loopBegin x es t.frames x.target).1,
    next := (loopBegin x es t.frames x.target).2, retry := none, block := none, wait := .marks 0, waits := [] } := by
  unfold afterMain
  rw [loopEnd_elsewhere hl hb]

theorem dueCycle_congr (hc : p.cycle = s.cycle) (hd : p.dies = s.dies) {n : Nat} {e : Instr} : dueCycle p n e = dueCycle s n e := by
  have hskip : dieSkips p = dieSkips s := by
    funext d
    simp only [dieSkips, hd]
  have he : eventSkips p e = eventSkips s e := by simp only [eventSkips, hskip]
  unfold dueCycle
  rw [hc, he]

theorem Settled.pends (h : Settled s c k t b x es p tp u) (hc : p.cycle = s.cycle) (hd : p.dies = s.dies) :
    Pends s u 0 4 (c * 16 + k) (.blockLoad c k) := by
  rw [Pends, ← dueCycle_congr hc hd]
  exact h.load

theorem Settled.mem (h : Settled s c k t b x es p tp u) : u.mem = p.mem ∧ u.empty = p.empty := by
  rw [h.kept.fields]
  exact ⟨rfl, rfl⟩

theorem Settled.sReg (h : Settled s c k t b x es p tp u) (m : Nat) : sReg (coreAt u c) m = sReg (coreAt p c) m := by
  rw [h.kept.core]
  rfl

theorem RegsWritten.commits (h : RegsWritten s c k t e p) (hs : Settled s c k t b x es p tp u) :
    creg u c 0x0EB0 = addSat64 (creg s c 0x0EB0) 1 := by
  rw [hs.commits]
  unfold creg
  rw [h.core, writeS_emptyS_keeps]

theorem RegsWritten.mem (h : RegsWritten s c k t e p) (hs : Settled s c k t b x es p tp u) : u.mem = s.mem := by
  rw [hs.mem.1, h.fields]

theorem RegsWritten.pends (h : RegsWritten s c k t e p) (hs : Settled s c k t b x es p tp u) :
    Pends s u 0 4 (c * 16 + k) (.blockLoad c k) :=
  hs.pends (by rw [h.fields]) (by rw [h.fields])

end

theorem gReg_setG (n m : Nat) (v : Word) (full : Bool) (t : Thread) : gReg (setG n v full t) m = if m = n then (v, full) else gReg t m :=
  mget_mset _ _ _ _ _
theorem vReg_setV (n m : Nat) (v : Vec) (full : Bool) (t : Thread) : vReg (setV n v full t) m = if m = n then (v, full) else vReg t m :=
  mget_mset _ _ _ _ _
theorem sReg_setS (n m : Nat) (v : Word) (full : Bool) (x : Core) : sReg (setS n v full x) m = if m = n then (v, full) else sReg x m :=
  mget_mset _ _ _ _ _

theorem mget_mbox (n m : Nat) (v : Word) (t : Thread) (hm : m < 8) :
    mget 0 (if 0x10 ≤ n ∧ n < 0x18 then mset 0 t.mbox (n - 0x10) v else t.mbox) m = if n = 0x10 + m then v else mget 0 t.mbox m := by
  split
  case isTrue hn =>
    rw [mget_mset]
    exact if_congr (by omega) rfl rfl
  case isFalse hn => rw [if_neg (by omega)]

theorem commitWritesRegister_claim : Claims.CommitWritesRegister := by
  intro s c k i t b x e h hl hb heffs hi he
  have hloc : isLocal e = true := by
    obtain ⟨n, v, rfl | rfl | rfl | ⟨d, rfl⟩⟩ := he <;> rfl
  refine commitGives_of_local h heffs hi hloc fun p u th hw hset _ hth => ?_
  have hS : ∀ m, sReg (coreAt u c) m = sReg (writeS (emptyS (coreAt s c) e) e) m := fun m => by rw [hset.sReg, hw.core]
  have hmem := hw.mem hset
  have hload := hw.pends hset
  have hcommits := hw.commits hset
  rw [afterMain_elsewhere hl hb] at hth
  subst hth
  obtain ⟨n, v, rfl | rfl | rfl | ⟨d, rfl⟩⟩ := he
  · exact ⟨rfl, rfl, rfl, hmem, hload, hcommits, fun m => gReg_setG .., fun _ => rfl, hS, rfl, rfl, rfl, rfl, rfl, rfl, fun _ _ => rfl⟩
  · exact ⟨rfl, rfl, rfl, hmem, hload, hcommits, fun _ => rfl, fun _ => rfl, fun m => (hS m).trans (sReg_setS ..), rfl, rfl, rfl, rfl, rfl,
      rfl, fun _ _ => rfl⟩
  · rw [show writeEff (emptyEff t (.writeSpecial n v)) (.writeSpecial n v) = _ from setSpecial_eq n v t]
    exact ⟨rfl, rfl, rfl, hmem, hload, hcommits, fun _ => rfl, fun _ => rfl, hS, rfl, rfl, rfl, rfl, rfl, rfl,
      fun m hm => mget_mbox n m v t hm⟩
  · exact ⟨rfl, rfl, rfl, hmem, hload, hcommits, fun _ => rfl, fun m => vReg_setV .., hS, rfl, rfl, rfl, rfl, rfl, rfl, fun _ _ => rfl⟩

/-! ### Commits of blocks without effects -/

/-- A block without effects leaves the state as it was but for the slots. -/
theorem run_commitEffects_nil {s : State} {c k : Nat} {t : Thread} {b : Block} {x : ExitFired} (h : MayCommit s c k t b x) :
    run (commitEffects c k t b []) s = run (modThread c k fun t => t) s := by
  have hsent : (coreAt (run (modThread c k fun t => t) s) c).sent = [] := h.sent
  calc run (commitEffects c k t b []) s = run (modThread c k (fun t => t) >>= fun _ => sendWords c) s := rfl
    _ = run (sendWords c) (run (modThread c k fun t => t) s) := run_seq (logged_modThread _ _ _) clock_sendWords.logged s
    _ = run (modThread c k fun t => t) s := sendWords_nothing hsent

theorem commitGives_of_nothing {s : State} {c k : Nat} {t : Thread} {b : Block} {x : ExitFired} {P : State → Thread → Prop}
    (h : MayCommit s c k t b x) (hb : b.effs = [])
    (hP : ∀ p u, p.sheaves = s.sheaves → Settled s c k t b x [] p t u →
      P u { afterMain s c t b x [] (withFlags b.flags t) with wait := .nothing, waits := [], owed := [] }) :
    CommitGives s c k b P := by
  have hp : AllPlain b.effs := by
    rw [hb]
    exact fun y hy => nomatch hy
  have hth : threadAt (run (modThread c k fun t => t) s) c k = some t := by
    rw [threadAt_modThread, h.thread]
    rfl
  have ho := orderedEffs_nil hb
  refine commitGives_of_effects h hp (tp := t) (by rw [ho, run_commitEffects_nil h]) ⟨hth, h.lives, h.preempt, h.cut, h.fills⟩ ?_
  rw [ho]
  rintro u th hset - rfl
  exact hP (run (modThread c k fun t => t) s) u rfl hset

theorem commitMergesFlags_claim : Claims.CommitMergesFlags := fun s c k t b x h hb =>
  commitGives_of_nothing h hb fun p u hp hset => ⟨rfl, fun n => by
    have hs : sheafAt p n = sheafAt s n := by rw [sheafAt, sheafAt, hp]
    rw [hset.flags, hs]
    rfl⟩

theorem commitEndsLoop_claim : Claims.CommitEndsLoop := by
  intro s c k t b x h hb
  refine ⟨fun f rest hl hf => commitGives_of_nothing h hb fun p u _ _ => ?_,
    fun hl => commitGives_of_nothing h hb fun p u _ _ => ?_⟩
  · have hend : loopEnd b x t.frames t.ltime = if x.lpx || decide (f.count = 1)
        then (advanceTime t.ltime f.level.toNat 1, rest, x.target)
        else (advanceTime t.ltime f.level.toNat 1, { f with count := f.count - 1 } :: rest, f.start) := by
      unfold loopEnd
      rw [if_pos hl, hf]
    have htime : (timeAfter s c t []).1 = t.ltime := rfl
    unfold afterMain
    rw [htime, hend]
    by_cases hx : x.lpx = true ∨ f.count = 1
    · rw [if_pos hx, if_pos (by simpa using hx)]
      exact ⟨rfl, rfl, rfl⟩
    · rw [if_neg hx, if_neg (by simpa using hx)]
      exact ⟨rfl, rfl, rfl⟩
  · have hend : loopEnd b x t.frames t.ltime = (t.ltime, if x.lpx then t.frames.drop 1 else t.frames, x.target) := by
      simp [loopEnd, hl]
    have htime : (timeAfter s c t []).1 = t.ltime := rfl
    unfold afterMain
    rw [htime, hend]
    exact ⟨rfl, rfl, rfl⟩

end Sys2Proof.Machine

namespace Sys2Proof.Machine
open Sys2Proof

/-! ### The commits of commands and pushes (R247, R274) -/

theorem threadAt_of_slots {s t : State} (h : t.slots = s.slots) (c k : Nat) : threadAt t c k = threadAt s c k := by
  simp only [threadAt, slotAt, h]

theorem coreAt_modCore (c : Nat) (f : Core → Core) (s : State) : coreAt (run (modCore c f) s) c = f (coreAt s c) := by
  rw [run_modCore, coreAt_changed, if_pos rfl]

/-- An item of a colour that leaves counts at its core alone. -/
theorem coreAt_colourSent (c : Nat) (col : Bool) (s : State) : coreAt (run (colourSent c col) s) c = { coreAt s c with
    sent0 := (coreAt (run (colourSent c col) s) c).sent0, sent1 := (coreAt (run (colourSent c col) s) c).sent1 } := by
  unfold colourSent
  rw [coreAt_modCore]
  split <;> rfl

theorem run_maybeSent (a : Bool) (c : Nat) (col : Bool) (s : State) :
    let u := run (onlyIf a (colourSent c col)) s
    u = { s with cores := u.cores } ∧
      coreAt u c = { coreAt s c with sent0 := (coreAt u c).sent0, sent1 := (coreAt u c).sent1 } := by
  cases a
  · exact ⟨rfl, rfl⟩
  · exact ⟨rfl, coreAt_colourSent c col s⟩

/-- All that the commit of a command or of a push changes. -/
def SameElsewhere (s t : State) : Prop :=
  t = { s with slots := t.slots, cores := t.cores, agenda := t.agenda, nextId := t.nextId }

theorem SameElsewhere.trans {s t u : State} (h : SameElsewhere s t) (k : SameElsewhere t u) : SameElsewhere s u := by
  unfold SameElsewhere at h k ⊢
  rw [h] at k
  exact k

theorem same_modCore {c : Nat} {f : Core → Core} {s : State} : SameElsewhere s (run (modCore c f) s) := rfl
theorem same_modThread {c k : Nat} {f : Thread → Thread} {s : State} : SameElsewhere s (run (modThread c k f) s) := rfl
theorem same_later {n phase place : Nat} {e : Instr} {s : State} : SameElsewhere s (run (later n phase place e) s) := rfl

theorem SameElsewhere.due {s t : State} (h : SameElsewhere s t) {n : Nat} {e : Instr} : dueCycle t n e = dueCycle s n e :=
  dueCycle_congr (by rw [h]) (by rw [h])

/-- A command in an entry of the buffer, with its backlog (R247). -/
def withCommand (n : Nat) (y : Cmd) (x : Core) : Core := { x with cmds := x.cmds ++ [(n, y)], backlog := x.backlog + y.backlog }

/-- One more command of the thread under way. -/
def withEng (t : Thread) : Thread := { t with engs := t.engs + 1 }

/-- What the commit of a command leaves. -/
structure CommandEntered (s : State) (c k : Nat) (t : Thread) (sheaf : Option Nat) (y : Cmd) (p : State) : Prop where
  fields : SameElsewhere s p
  thread : threadAt p c k = some (withEng t)
  core : coreAt p c = { withCommand (freeEntry s c k) (committedCmd s c t.ltime sheaf t.flags s.nextId y) (coreAt s c) with
    sent0 := (coreAt p c).sent0, sent1 := (coreAt p c).sent1 }
  handover : if isCopy y then Pends s p 1 5 (22000 + c) (.commandHandover c) else Pends s p 1 5 (26800 + c) (.matrixHandover c)

/-- A command enters, and its handover follows. -/
theorem run_withCommand {s s₁ : State} {c k n place : Nat} {t : Thread} {y : Cmd} {e : Instr} (ht : threadAt s₁ c k = some t)
    (hf : SameElsewhere s s₁) :
    let p := run (later 1 5 place e) (run (modThread c k withEng) (run (modCore c (withCommand n y)) s₁))
    SameElsewhere s p ∧ threadAt p c k = some (withEng t) ∧ coreAt p c = withCommand n y (coreAt s₁ c) ∧ Pends s p 1 5 place e := by
  generalize hq : run (modCore c (withCommand n y)) s₁ = q
  generalize hr : run (modThread c k withEng) q = r
  have hqs : SameElsewhere s q := hf.trans (hq ▸ same_modCore)
  have hrs : SameElsewhere s r := hqs.trans (hr ▸ same_modThread)
  have htq : threadAt q c k = some t := by
    rw [← hq]
    exact ht
  refine ⟨hrs.trans same_later, ?_, ?_, ?_⟩
  · change threadAt r c k = _
    rw [← hr, threadAt_modThread, htq]
    rfl
  · change coreAt r c = _
    have hrq : coreAt r c = coreAt q c := by
      rw [← hr]
      rfl
    rw [hrq, ← hq, coreAt_modCore]
  · rw [Pends, ← hrs.due]
    exact mem_putEvent.mpr (.inl rfl)

theorem commandEntered_commitCommand {s : State} {c k : Nat} {t : Thread} {sheaf : Option Nat} {y : Cmd} (ht : threadAt s c k = some t)
    (hd : isDiscarded sheaf t.ltime = false) : CommandEntered s c k t sheaf y (run (commitCommand c k t.ltime sheaf (.command y)) s) := by
  have hlater : Logged (if isCopy y then later 1 5 (22000 + c) (.commandHandover c) else later 1 5 (26800 + c) (.matrixHandover c)) := by
    split <;> exact logged_later _ _ _ _
  have hsent : Logged (onlyIf sheaf.isSome (colourSent c (coreAt s c).colour)) := (keeps_onlyIf clock_colourSent).logged
  unfold commitCommand
  rw [run_look_bind]
  simp only [id, hd, ht, Bool.not_false, Option.elim_some]
  rw [run_onlyIf, if_pos rfl,
    run_freshId fun n => logged_bind hsent fun _ => logged_bind (logged_modCore _ _) fun _ => logged_bind (logged_modThread _ _ _) fun _ =>
      hlater,
    run_seq hsent (logged_bind (logged_modCore _ _) fun _ => logged_bind (logged_modThread _ _ _) fun _ => hlater)]
  obtain ⟨hf, hc⟩ := run_maybeSent sheaf.isSome c (coreAt s c).colour (applyUpd .newId s)
  generalize run (onlyIf sheaf.isSome (colourSent c (coreAt s c).colour)) (applyUpd .newId s) = s₁ at hf hc ⊢
  rw [run_seq (logged_modCore _ _) (logged_bind (logged_modThread _ _ _) fun _ => hlater), run_seq (logged_modThread _ _ _) hlater]
  have hs₁ : SameElsewhere s s₁ := by
    unfold SameElsewhere
    rw [hf]
    rfl
  have ht₁ : threadAt s₁ c k = some t := by
    rw [hf]
    exact ht
  have henter := fun place e => run_withCommand (n := freeEntry s c k) (y := committedCmd s c t.ltime sheaf t.flags s.nextId y)
      (place := place) (e := e) ht₁ hs₁
  have hcore : ∀ u : State, coreAt u c = withCommand (freeEntry s c k) (committedCmd s c t.ltime sheaf t.flags s.nextId y) (coreAt s₁ c) →
      coreAt u c = { withCommand (freeEntry s c k) (committedCmd s c t.ltime sheaf t.flags s.nextId y) (coreAt s c) with
        sent0 := (coreAt u c).sent0, sent1 := (coreAt u c).sent1 } := fun u hu => by
    rw [hu, hc]
    rfl
  split
  case isTrue hy =>
    obtain ⟨h₁, h₂, h₃, h₄⟩ := henter (22000 + c) (.commandHandover c)
    exact ⟨h₁, h₂, hcore _ h₃, by rw [if_pos hy]; exact h₄⟩
  case isFalse hy =>
    obtain ⟨h₁, h₂, h₃, h₄⟩ := henter (26800 + c) (.matrixHandover c)
    exact ⟨h₁, h₂, hcore _ h₃, by rw [if_neg hy]; exact h₄⟩

/-- What the commit of a push leaves. -/
structure PushSent (s : State) (c k : Nat) (p : State) (place : Nat) (e : Instr) : Prop where
  fields : SameElsewhere s p
  thread : threadAt p c k = threadAt s c k
  core : coreAt p c = { coreAt s c with sent0 := (coreAt p c).sent0, sent1 := (coreAt p c).sent1 }
  push : Pends s p 1 5 place e

theorem pushSent_commitChannel {s : State} {c k q sl : Nat} {t0 : Word} {sheaf : Option Nat} {dst : Nat × Nat} {tok : Token}
    (hd : isDiscarded sheaf t0 = false) :
    PushSent s c k (run (commitChannel c t0 sheaf (.push q dst tok sl)) s) (46400 + dst.1)
      (.standpipePush (c, q) dst tok sheaf t0 sl (coreAt s c).colour) := by
  unfold commitChannel
  simp only [hd, Bool.not_false]
  rw [run_onlyIf, if_pos rfl, run_look_bind, run_seq clock_colourSent.logged (logged_later _ _ _ _)]
  have hc := coreAt_colourSent c (coreAt s c).colour s
  have hs : SameElsewhere s (run (colourSent c (coreAt s c).colour) s) := same_modCore
  have ht : threadAt (run (colourSent c (coreAt s c).colour) s) c k = threadAt s c k := rfl
  generalize run (colourSent c (coreAt s c).colour) s = r at hc hs ht ⊢
  refine ⟨hs.trans same_later, ht, hc, ?_⟩
  rw [Pends, ← hs.due]
  exact mem_putEvent.mpr (.inl rfl)

/-- A block with one plain effect. -/
theorem plain_single {b : Block} {i : Nat} {e : Eff} (hb : b.effs = [(i, e)]) (he : isPlain e = true) : AllPlain b.effs := by
  rw [hb]
  exact fun y hy => by
    rw [List.mem_singleton.mp hy]
    exact he

/-- A command or push writes no register. -/
theorem run_writeRegisters_none {s : State} {c k : Nat} {t : Thread} {e : Eff} (ht : threadAt s c k = some t)
    (he : writeEff (emptyEff t e) e = t) (hs : writeS (emptyS (coreAt s c) e) e = coreAt s c) :
    let p := run (writeRegisters c k [e]) s
    SameElsewhere s p ∧ threadAt p c k = some t ∧ coreAt p c = coreAt s c ∧ p.nextId = s.nextId := by
  have h := regsWritten_writeRegisters ht e
  refine ⟨?_, by rw [h.thread, he], by rw [h.core, hs], by rw [h.fields]⟩
  unfold SameElsewhere
  rw [h.fields]

end Sys2Proof.Machine

namespace Sys2Proof.Machine
open Sys2Proof

/-! ### Commits of calls, RDT, commands, pushes, loops and times -/

section
variable {s p : State} {c k i : Nat} {t : Thread} {b : Block} {x : ExitFired} {y : Cmd}

/-- What concerns the life of a thread after a change of its core that leaves registers, cut and fills. -/
theorem MayCommit.effectsDone (h : MayCommit s c k t b x) {tp : Thread} (ht : threadAt p c k = some tp)
    (hl : tp.ending = t.ending ∧ tp.owed = t.owed)
    (hc : (coreAt p c).regs = (coreAt s c).regs ∧ (coreAt p c).cutSeen = (coreAt s c).cutSeen ∧ (coreAt p c).fills = (coreAt s c).fills) :
    EffectsDone c k p tp where
  thread := ht
  lives := by
    rw [hl.1, hl.2]
    exact h.lives
  preempt := by
    rw [creg, hc.1]
    exact h.preempt
  cut := by rw [hc.2.1, h.cut]
  fills := by rw [hc.2.2, h.fills]

theorem notDiscarded {sheaf : Option Nat} {u : Word} (h : sheaf = none ∨ u ≠ timeTop) : isDiscarded sheaf u = false := by
  rcases h with rfl | h
  · rfl
  · simp [isDiscarded, h]

/-- The commit of a command. -/
theorem commitGives_of_command (h : MayCommit s c k t b x) (hb : b.effs = [(i, .command y)]) (hi : i < b.words.length)
    (hd : b.sheaf = none ∨ t.ltime ≠ timeTop) : CommitGives s c k b fun u th =>
      (coreAt u c).cmds = (coreAt s c).cmds ++ [(freeEntry s c k,
        { y with id := s.nextId, time := t.ltime, sheaf := b.sheaf, commit := s.cycle, nanTrap := t.flags.getLsbD 8,
                 col := (coreAt s c).colour })] ∧
      (coreAt u c).backlog = (coreAt s c).backlog + y.backlog ∧ th.engs = t.engs + 1 ∧ u.mem = s.mem ∧
      (if isCopy y then Pends s u 1 5 (22000 + c) (.commandHandover c) else Pends s u 1 5 (26800 + c) (.matrixHandover c)) := by
  have ho := orderedEffs_single hb hi
  obtain ⟨hsame, hth, hcore, hid⟩ := run_writeRegisters_none (c := c) (k := k) (e := .command y) h.thread rfl rfl
  have hrun := run_commitEffects (i := i) (e := .command y) h rfl
  generalize run (writeRegisters c k [.command y]) s = q at hsame hth hcore hid hrun
  have hent := commandEntered_commitCommand (y := y) hth (notDiscarded hd)
  have hch : ∀ r, run (commitChannel c t.ltime b.sheaf (.command y)) r = r := fun _ => rfl
  rw [hch] at hrun
  generalize run (commitCommand c k t.ltime b.sheaf (.command y)) q = p at hent hrun
  have hfree : freeEntry q c k = freeEntry s c k := by rw [freeEntry, freeEntry, hcore]
  have hcmd : committedCmd q c t.ltime b.sheaf t.flags q.nextId y = committedCmd s c t.ltime b.sheaf t.flags s.nextId y := by
    have hcyc : q.cycle = s.cycle := by rw [hsame]
    rw [committedCmd, committedCmd, hcore, hid, hcyc]
  have hc := hent.core
  rw [hfree, hcmd, hcore] at hc
  have hsp := hsame.trans hent.fields
  refine commitGives_of_effects h (plain_single hb rfl) (by rw [ho]; exact hrun)
    (h.effectsDone hent.thread ⟨rfl, rfl⟩ (by rw [hc]; exact ⟨rfl, rfl, rfl⟩)) ?_
  rintro u th hset - rfl
  refine ⟨?_, ?_, rfl, ?_, ?_⟩
  · rw [hset.kept.core, hc]
    rfl
  · rw [hset.kept.core, hc]
    rfl
  · rw [hset.mem.1, hsp]
  · have hh := hent.handover
    have hpend : ∀ {n ph pl e}, Pends q p n ph pl e → Pends s u n ph pl e := fun hp => by
      rw [Pends, ← hsame.due]
      exact hset.kept.agenda _ hp
    split
    case isTrue hy =>
      rw [if_pos hy] at hh
      exact hpend hh
    case isFalse hy =>
      rw [if_neg hy] at hh
      exact hpend hh

/-- The commit of a push. -/
theorem commitGives_of_push {q sl : Nat} {dst : Nat × Nat} {tok : Token} (h : MayCommit s c k t b x)
    (hb : b.effs = [(i, .push q dst tok sl)]) (hi : i < b.words.length)
    (hd : b.sheaf = none ∨ t.ltime ≠ timeTop) : CommitGives s c k b fun u _ =>
      Pends s u 1 5 (46400 + dst.1) (.standpipePush (c, q) dst tok b.sheaf t.ltime sl (coreAt s c).colour) ∧ u.mem = s.mem := by
  have ho := orderedEffs_single hb hi
  obtain ⟨hsame, hth, hcore, hid⟩ := run_writeRegisters_none (c := c) (k := k) (e := .push q dst tok sl) h.thread rfl rfl
  have hrun := run_commitEffects (i := i) (e := .push q dst tok sl) h rfl
  generalize run (writeRegisters c k [.push q dst tok sl]) s = r at hsame hth hcore hid hrun
  have hco : ∀ r, run (commitCommand c k t.ltime b.sheaf (.push q dst tok sl)) r = r := fun _ => rfl
  rw [hco] at hrun
  have hsent := pushSent_commitChannel (s := r) (c := c) (k := k) (q := q) (sl := sl) (dst := dst) (tok := tok) (notDiscarded hd)
  generalize run (commitChannel c t.ltime b.sheaf (.push q dst tok sl)) r = p at hsent hrun
  have hc := hsent.core
  rw [hcore] at hc
  have hsp := hsame.trans hsent.fields
  refine commitGives_of_effects h (plain_single hb rfl) (by rw [ho]; exact hrun)
    (h.effectsDone (hsent.thread.trans hth) ⟨rfl, rfl⟩ (by rw [hc]; exact ⟨rfl, rfl, rfl⟩)) ?_
  rintro u th hset - rfl
  refine ⟨?_, by rw [hset.mem.1, hsp]⟩
  have hp := hsent.push
  rw [Pends, hsame.due, hcore] at hp
  exact hset.kept.agenda _ hp

end

/-! ### Time (R79, R357, R358) -/

theorem addDelta_pair {m n : Nat} {t₁ t₂ : Word} (h : t₂ ≠ t₁) : addDeltas [⟨n, t₁, -1⟩, ⟨m, t₂, 1⟩] [] = [⟨n, t₁, -1⟩, ⟨m, t₂, 1⟩] := by
  simp [addDeltas, addDelta, Ne.symm h]

/-- A time that changes moves the thread's own count. -/
theorem deltasOf_timeChange {s : State} {c i n : Nat} {t : Thread} {b : Block} {x : ExitFired} {e : Eff} {v : Word}
    (he : e = .advance v ∨ e = .setTime v) (ho : orderedEffs b = [(i, e)]) (hpop : popCounts t.retry = []) (hl : x.lpx = false)
    (hb : isLoopEnd b = false) (hn : sheafOf t = some n) (hv : v ≠ t.ltime) (hvt : v ≠ timeTop) (htt : t.ltime ≠ timeTop) :
    deltasOf (blockCounts s c t b x) = [⟨n, t.ltime, -1⟩, ⟨n, v, 1⟩] := by
  have htime : timeAfter s c t [(i, e)] = (v, t.sheaf, t.noSheaf) := by rcases he with rfl | rfl <;> rfl
  have heff : effCounts t b.sheaf e = [] := by rcases he with rfl | rfl <;> rfl
  have hplain : AllPlain [(i, e)] := fun y hy => by
    rw [List.mem_singleton.mp hy]
    rcases he with rfl | rfl <;> rfl
  have hmove : threadCounts t [(i, e)] v (sheafOf t) = [(some n, t.ltime, -1), (some n, v, 1)] := by
    unfold threadCounts countMoves
    simp [hplain.endsIn, hplain.closesIn, hn, Ne.symm hv]
  have hsheaf : (if t.noSheaf then none else some t.sheaf) = sheafOf t := rfl
  have hcounts : blockCounts s c t b x = [(some n, t.ltime, -1), (some n, v, 1)] := by
    unfold blockCounts
    simp only [ho, htime, loopEnd_elsewhere hl hb, hplain.returnIn, hpop, hsheaf, hmove, List.flatMap_cons, List.flatMap_nil, heff,
      List.append_nil, List.nil_append, reduceCtorEq, if_false]
  rw [hcounts]
  simp [deltasOf, hvt, htt]

theorem commitAppliesEffect_claim : Claims.CommitAppliesEffect := by
  intro s c k i t b x e h hl hb heffs hi
  refine ⟨?_, ?_, ?_, ?_, ?_, ?_, ?_, ?_⟩
  · rintro ret rfl
    refine commitGives_of_local h heffs hi rfl fun p u th hw hset _ hth => ?_
    subst hth
    exact ⟨hw.mem hset, (gReg_setG ..).trans (if_pos rfl), fun m hm => (gReg_setG ..).trans (if_neg hm)⟩
  · rintro n rfl
    refine commitGives_of_local h heffs hi rfl fun p u th hw hset _ hth => ?_
    subst hth
    exact ⟨(gReg_setG ..).trans (if_pos rfl), fun m hm => (gReg_setG ..).trans (if_neg hm)⟩
  · rintro n rfl
    refine commitGives_of_local h heffs hi rfl fun p u th hw hset _ hth => ?_
    subst hth
    exact ⟨(vReg_setV ..).trans (if_pos rfl), fun m hm => (vReg_setV ..).trans (if_neg hm)⟩
  · rintro n rfl
    refine commitGives_of_local h heffs hi rfl fun p u th hw hset _ hth => ?_
    have hS : ∀ m, sReg (coreAt u c) m = if m = n then ((sReg (coreAt s c) n).1, false) else sReg (coreAt s c) m := fun m => by
      rw [hset.sReg, hw.core]
      exact sReg_setS ..
    exact ⟨(hS n).trans (if_pos rfl), fun m hm => (hS m).trans (if_neg hm)⟩
  · rintro y rfl hd
    exact commitGives_of_command h heffs hi hd
  · rintro q dst tok sl rfl hd
    exact commitGives_of_push h heffs hi hd
  · rintro level count exit rfl
    refine commitGives_of_local h heffs hi rfl fun p u th hw hset _ hth => ?_
    rw [afterMain_elsewhere hl hb] at hth
    subst hth
    have hbegin : loopBegin x [(i, .loop level count exit)] t.frames x.target =
        if count = 0 then (t.frames, exit) else (⟨count, level, x.target, exit⟩ :: t.frames, x.target) := rfl
    rw [hbegin]
    split <;> exact ⟨rfl, rfl⟩
  · intro v he
    have hloc : isLocal e = true := by rcases he with rfl | rfl <;> rfl
    refine commitGives_of_local h heffs hi hloc fun p u th hw hset _ hth => ?_
    rw [afterMain_elsewhere hl hb] at hth
    subst hth
    refine ⟨?_, ?_, fun n hn hc hv hvt htt => ?_⟩
    · rcases he with rfl | rfl <;> rfl
    · rcases he with rfl | rfl <;> rfl
    · have hd := deltasOf_timeChange (s := s) (c := c) he (orderedEffs_single heffs hi) h.pops hl hb hn hv hvt htt
      have hcp : (coreAt p c).counts = [] := by
        rw [hw.core, writeS_emptyS_keeps]
        exact hc
      have := hset.counts
      rw [hd, hcp, addDelta_pair hv] at this
      exact this rfl

end Sys2Proof.Machine

namespace Sys2Proof.Machine
open Sys2Proof

/-! ### The store word of a store (R230) -/

/-- Bytes of a store, all of one word, put together. -/
structure Joined (w slack : Nat) (bytes : List (Nat × Word × Byte)) (a : WordSum) : Prop where
  word : a.word = w
  slack : a.slack = slack
  length : a.bytes.length = bytes.length
  listed : ∀ y ∈ bytes, (y.1 % 8, y.2.2) ∈ a.bytes
  only : ∀ e ∈ a.bytes, ∃ y ∈ bytes, e = (y.1 % 8, y.2.2)

theorem mdel_of_absent {α : Type} {m : Map α} {k : Nat} (h : ∀ e ∈ m, e.1 ≠ k) : mdel m k = m := by
  induction m with
  | nil => rfl
  | cons e m ih =>
    obtain ⟨a, v⟩ := e
    rw [mdel, if_neg (h (a, v) (List.mem_cons_self ..)), ih fun e he => h e (List.mem_cons_of_mem _ he)]

theorem length_mins {α : Type} (m : Map α) (k : Nat) (x : α) : (mins m k x).length = m.length + 1 := by
  induction m with
  | nil => rfl
  | cons e m ih =>
    obtain ⟨a, v⟩ := e
    rw [mins]
    split
    · rfl
    · rw [List.length_cons, ih, List.length_cons]

theorem mem_mins_iff {α : Type} {m : Map α} {k : Nat} {x : α} {e : Nat × α} : e ∈ mins m k x ↔ e = (k, x) ∨ e ∈ m := by
  refine ⟨mem_mins, fun h => ?_⟩
  induction m with
  | nil =>
    rcases h with rfl | h
    · exact List.mem_singleton.mpr rfl
    · cases h
  | cons y m ih =>
    obtain ⟨a, v⟩ := y
    rw [mins]
    split
    · rcases h with rfl | h
      · exact List.mem_cons_self ..
      · exact List.mem_cons_of_mem _ h
    · rcases h with rfl | h
      · exact List.mem_cons_of_mem _ (ih (.inl rfl))
      · rcases List.mem_cons.mp h with rfl | h
        · exact List.mem_cons_self ..
        · exact List.mem_cons_of_mem _ (ih (.inr h))

/-- One more byte of the same word joins it. -/
theorem Joined.snoc {w slack : Nat} {bytes : List (Nat × Word × Byte)} {a : WordSum} (h : Joined w slack bytes a)
    {x : Nat × Word × Byte} (hw : ∀ y ∈ bytes ++ [x], y.1 / 8 = w) (hd : x.1 ∉ bytes.map (·.1)) :
    ∃ a', joinByte slack x [a] = [a'] ∧ Joined w slack (bytes ++ [x]) a' := by
  have hx : x.1 / 8 = w := hw x (by simp)
  have habs : ∀ e ∈ a.bytes, e.1 ≠ x.1 % 8 := by
    intro e he heq
    obtain ⟨y, hy, rfl⟩ := h.only e he
    refine hd (List.mem_map.mpr ⟨y, hy, ?_⟩)
    have := hw y (List.mem_append_left _ hy)
    dsimp only at heq
    omega
  refine ⟨{ a with slack := min a.slack slack, bytes := mins a.bytes (x.1 % 8) x.2.2 }, ?_, h.word, ?_, ?_, fun y hy => ?_, fun e he => ?_⟩
  · rw [joinByte, if_pos (h.word.trans hx.symm), mdel_of_absent habs]
  · change min a.slack slack = slack
    rw [h.slack, Nat.min_self]
  · rw [length_mins, h.length, List.length_append, List.length_singleton]
  · refine mem_mins_iff.mpr ?_
    rcases List.mem_append.mp hy with hy | hy
    · exact .inr (h.listed y hy)
    · rw [List.mem_singleton.mp hy]
      exact .inl rfl
  · rcases mem_mins_iff.mp he with rfl | he
    · exact ⟨x, by simp, rfl⟩
    · obtain ⟨y, hy, rfl⟩ := h.only e he
      exact ⟨y, List.mem_append_left _ hy, rfl⟩

theorem joined_foldl {w slack : Nat} (rest : List (Nat × Word × Byte)) : ∀ {bytes : List (Nat × Word × Byte)} {a : WordSum},
    Joined w slack bytes a → (∀ y ∈ bytes ++ rest, y.1 / 8 = w) → ((bytes ++ rest).map (·.1)).Nodup →
    ∃ a', rest.foldl (fun ws x => joinByte slack x ws) [a] = [a'] ∧ Joined w slack (bytes ++ rest) a' := by
  induction rest with
  | nil =>
    intro bytes a h _ _
    exact ⟨a, rfl, by rw [List.append_nil]; exact h⟩
  | cons x rest ih =>
    intro bytes a h hw hd
    have hsplit : bytes ++ x :: rest = (bytes ++ [x]) ++ rest := by simp
    have hnew : x.1 ∉ bytes.map (·.1) := by
      rw [List.map_append, List.map_cons] at hd
      exact fun hm => (List.nodup_append.mp hd).2.2 _ hm _ (List.mem_cons_self ..) rfl
    obtain ⟨a', hj, ha'⟩ := h.snoc (x := x) (fun y hy => hw y (by rw [hsplit]; exact List.mem_append_left _ hy)) hnew
    rw [List.foldl_cons, hj, hsplit]
    exact ih ha' (by rwa [← hsplit]) (by rwa [← hsplit])

/-- A store whose bytes lie in one word is one store word. -/
theorem storeWords_of_one_word {i lsid slack w : Nat} {bytes : List (Nat × Word × Byte)} (hne : bytes ≠ [])
    (hw : ∀ y ∈ bytes, y.1 / 8 = w) (hd : (bytes.map (·.1)).Nodup) :
    ∃ a, storeWords [(i, .store lsid slack bytes)] = [a] ∧ Joined w slack bytes a := by
  obtain ⟨x, rest, rfl⟩ := List.exists_cons_of_ne_nil hne
  have hfirst : Joined w slack [x] ⟨x.1 / 8, x.2.1 - word (x.1 % 8), slack, [(x.1 % 8, x.2.2)]⟩ :=
    ⟨hw x (List.mem_cons_self ..), rfl, rfl, fun y hy => by rw [List.mem_singleton.mp hy]; exact List.mem_cons_self ..,
      fun e he => ⟨x, List.mem_cons_self .., List.mem_singleton.mp he⟩⟩
  exact joined_foldl rest hfirst hw hd

/-! ### A store word of the own cistern (R230, R233) -/

/-- Bytes put into memory change nothing else, and no byte that they do not name. -/
theorem run_putBytesAt (base : Nat) (l : List (Nat × Byte)) (s : State) :
    let u := run (each l fun b => emit (.mem (base + b.1) b.2)) s
    u = { s with mem := u.mem } ∧ (∀ q, (∀ b ∈ l, q ≠ base + b.1) → byteAt u q = byteAt s q) ∧
      ∀ q v, (∀ b ∈ l, base + b.1 = q → b.2 = v) → (∃ b ∈ l, base + b.1 = q) → byteAt u q = v := by
  induction l generalizing s with
  | nil => exact ⟨rfl, fun _ _ => rfl, fun q v _ ⟨b, hb, _⟩ => nomatch hb⟩
  | cons b l ih =>
    rw [run_each_cons b l fun _ => logged_emit _]
    obtain ⟨hf, hother, hput⟩ := ih (run (emit (.mem (base + b.1) b.2)) s)
    generalize run (each l fun b => emit (.mem (base + b.1) b.2)) (run (emit (.mem (base + b.1) b.2)) s) = u at hf hother hput ⊢
    have hb : ∀ q, byteAt (run (emit (.mem (base + b.1) b.2)) s) q = if q = base + b.1 then b.2 else byteAt s q := fun q =>
      byteAt_changed _ _ _ _
    refine ⟨by rw [hf]; rfl, fun q hq => ?_, fun q v hv hq => ?_⟩
    · rw [hother q fun y hy => hq y (List.mem_cons_of_mem _ hy), hb, if_neg (hq b (List.mem_cons_self ..))]
    · by_cases hl : ∃ y ∈ l, base + y.1 = q
      · exact hput q v (fun y hy => hv y (List.mem_cons_of_mem _ hy)) hl
      · have hqb : q = base + b.1 := by
          obtain ⟨y, hy, rfl⟩ := hq
          rcases List.mem_cons.mp hy with rfl | hy
          · rfl
          · exact absurd ⟨y, hy, rfl⟩ hl
        rw [hother q fun y hy heq => hl ⟨y, hy, heq.symm⟩, hb, if_pos hqb]
        exact hv b (List.mem_cons_self ..) hqb.symm

theorem isFull_wordFull (s : State) (w q : Nat) : isFull (run (emit (.wordFull w)) s) q = (decide (q / 8 = w) || isFull s q) := by
  simp only [isFull, run_emit]
  change (!(s.empty.filter fun x => decide (x ≠ w)).contains (q / 8)) = _
  by_cases h : q / 8 = w
  · simp [h]
  · simp [h]

/-- What leaves the state but for its pending events. -/
def eventFrame : Frame where
  rel s t := t = { s with agenda := t.agenda } ∧ ∀ e ∈ s.agenda, e ∈ t.agenda
  refl _ := ⟨rfl, fun _ h => h⟩
  trans h k := by
    refine ⟨?_, fun e he => k.2 e (h.2 e he)⟩
    have hk := k.1
    rw [h.1] at hk
    exact hk
  cycle h := by rw [h.1]

theorem event_later {n phase place : Nat} {e : Instr} : Keeps eventFrame (later n phase place e) :=
  ⟨logged_later _ _ _ _, fun _ => ⟨rfl, fun _ h => mem_putEvent.mpr (.inr h)⟩⟩

theorem event_pokeWaits {pa n : Nat} : Keeps eventFrame (pokeWaits pa n) :=
  keeps_look_bind fun _ => keeps_each fun _ => event_later

/-- A store word is written in the own cistern of its core. -/
structure WordWritten (a : WordSum) (s u : State) : Prop where
  fields : u = { s with mem := u.mem, empty := u.empty, agenda := u.agenda }
  agenda : ∀ e ∈ s.agenda, e ∈ u.agenda
  other : ∀ q, (∀ b ∈ a.bytes, q ≠ a.word * 8 + b.1) → byteAt u q = byteAt s q
  put : ∀ q v, (∀ b ∈ a.bytes, a.word * 8 + b.1 = q → b.2 = v) → (∃ b ∈ a.bytes, a.word * 8 + b.1 = q) → byteAt u q = v
  full : ∀ q, isFull u q = (decide (q / 8 = a.word) || isFull s q)

theorem wordWritten_applyWord {s : State} {c k sid off : Nat} {a : WordSum} (h : localOwner (a.word * 8) = .cistern c off) :
    WordWritten a s (run (applyWord ⟨c, k, sid, a.va, a.word, a.bytes, a.slack, false, none, .own, none⟩) s) := by
  have hbar : ringBarred s .own (a.word * 8) = false := by
    unfold ringBarred
    rw [h]
  have hin : inCistern (a.word * 8) = true := by
    unfold inCistern
    rw [h]
  have htrace : ∀ m, traceAt (a.word * 8) m .own none c k 0 = pure () := fun m => by
    unfold traceAt
    rw [h]
    simp [traceCore, isSiphon]
    rfl
  have hput : Logged (each a.bytes fun b => emit (.mem (a.word * 8 + b.1) b.2)) := logged_each _ fun _ => logged_emit _
  have hword : a.word * 8 / 8 = a.word := Nat.mul_div_cancel _ (by decide)
  have hpoke : Logged (pokeWaits (a.word * 8) 8) := event_pokeWaits.logged
  unfold applyWord fillWord
  rw [run_look_bind]
  simp only [hbar, hin, Bool.not_false, isSiphon, Bool.false_eq_true, if_false, htrace]
  rw [run_onlyIf, if_pos rfl, run_seq hput (logged_bind (logged_onlyIf _ (logged_emit _)) fun _ => logged_bind hpoke fun _ => logged_pure _),
    run_seq (logged_onlyIf _ (logged_emit _)) (logged_bind hpoke fun _ => logged_pure _), run_onlyIf, if_pos rfl, hword,
    run_seq hpoke (logged_pure _), run_pure]
  obtain ⟨hf, hother, hp⟩ := run_putBytesAt (a.word * 8) a.bytes s
  generalize run (each a.bytes fun b => emit (.mem (a.word * 8 + b.1) b.2)) s = r at hf hother hp ⊢
  have hev : eventFrame.rel _ _ := (event_pokeWaits (pa := a.word * 8) (n := 8)).run (run (emit (.wordFull a.word)) r)
  obtain ⟨hf', hag⟩ := hev
  have hfull := isFull_wordFull r a.word
  have hfr : run (emit (.wordFull a.word)) r = { r with empty := (run (emit (.wordFull a.word)) r).empty } := rfl
  generalize run (emit (.wordFull a.word)) r = v at hf' hag hfull hfr ⊢
  generalize run (pokeWaits (a.word * 8) 8) v = u at hf' hag ⊢
  have hmem : ∀ q, byteAt u q = byteAt r q := fun q => by
    rw [byteAt, byteAt, hf', hfr]
  have hempty : ∀ q, isFull r q = isFull s q := fun q => by
    rw [isFull, isFull, hf]
  have hfields : u.mem = r.mem ∧ u.empty = v.empty := by
    rw [hf', hfr]
    exact ⟨rfl, rfl⟩
  refine ⟨?_, fun e he => hag e ?_, fun q hq => (hmem q).trans (hother q hq), fun q b hb hq => (hmem q).trans (hp q b hb hq), fun q => ?_⟩
  · rw [hfields.1, hfields.2]
    rw [hfr, hf] at hf'
    exact hf'
  · rw [hfr, hf]
    exact he
  · have : isFull u q = isFull v q := by rw [isFull, isFull, hfields.2]
    rw [this, hfull, hempty]

end Sys2Proof.Machine

namespace Sys2Proof.Machine
open Sys2Proof

/-! ### The release of a store word (R157, R230, R326) -/

/-- The store word that a commit of core c and slot k makes of the bytes put together. -/
def releasedWord (c k sid : Nat) (a : WordSum) : StoreWord := ⟨c, k, sid, a.va, a.word, a.bytes, a.slack, false, none, .own, none⟩

section
variable {s p : State} {c d k i lsid slack w off inc : Nat} {t : Thread} {b : Block} {x : ExitFired}
  {bytes : List (Nat × Word × Byte)} {a : WordSum}

/-- A block with one store releases its word and sends what may leave. -/
theorem run_commitEffects_store (h : MayCommit s c k t b x) (ha : storeWords [(i, .store lsid slack bytes)] = [a]) :
    run (commitEffects c k t b [(i, .store lsid slack bytes)]) s =
      run (sendWords c) (run (releaseWord c k t.incarn.toNat none a) (run (writeRegisters c k [.store lsid slack bytes]) s)) := by
  have htag : (fenceScope b isRelease).bind decScope = none := by rw [h.release]; rfl
  calc run (commitEffects c k t b [(i, .store lsid slack bytes)]) s
      = run (writeRegisters c k [.store lsid slack bytes] >>= fun _ =>
          each [a] (releaseWord c k t.incarn.toNat none) >>= fun _ => sendWords c) s := by
        unfold commitEffects
        rw [ha, htag]
        rfl
    _ = run (each [a] (releaseWord c k t.incarn.toNat none) >>= fun _ => sendWords c)
          (run (writeRegisters c k [.store lsid slack bytes]) s) :=
        run_seq clock_writeRegisters.logged
          (logged_bind (logged_each _ fun _ => clock_releaseWord.logged) fun _ => clock_sendWords.logged) s
    _ = run (sendWords c) (run (each [a] (releaseWord c k t.incarn.toNat none)) (run (writeRegisters c k [.store lsid slack bytes]) s)) :=
        run_seq (logged_each _ fun _ => clock_releaseWord.logged) clock_sendWords.logged _
    _ = _ := by
        rw [run_each_cons _ _ fun _ => clock_releaseWord.logged, run_each_nil]

theorem ownerOf_cistern (h : localOwner (w * 8) = .cistern d off) (s : State) : ownerOf s (w * 8) = .cistern d off := by
  have hlt : w * 8 < 2 ^ 51 := by
    by_contra hn
    have hg : ¬ w * 8 < gddrTop := by unfold gddrTop; omega
    have hc : ¬ w * 8 < cisternBase + 0x20_0000 * 2304 := by unfold cisternBase; omega
    have hk : ¬ w * 8 < controlBase + 0x1000_0000 := by unfold controlBase; omega
    unfold localOwner at h
    simp [hg, hc, hk] at h
  have hl : localPa s (w * 8) = w * 8 := by
    unfold localPa
    rw [if_neg]
    rw [Bool.and_eq_true, decide_eq_true_eq]
    exact fun hle => absurd hle.1 (Nat.not_le.mpr hlt)
  unfold ownerOf
  rw [hl]
  dsimp only
  rw [if_neg (Nat.not_le.mpr hlt), h]

/-- The store word of a commit as the release makes it. -/
theorem run_releaseWord (h : localOwner (a.word * 8) = .cistern d off) (s : State) :
    run (releaseWord c k inc none a) s = run (if d = c then applyWord (releasedWord c k s.nextId a)
      else modCore c fun x => { x with sent := x.sent ++ [⟨inc, s.cycle, releasedWord c k s.nextId a, false, false, false⟩] })
      (applyUpd .newId s) := by
  unfold releaseWord
  rw [run_freshId]
  · rw [run_look_bind]
    simp only [id, ownerOf_cistern h]
    rfl
  · intro n
    refine logged_bind (logged_look _) fun _ => ?_
    dsimp only
    split
    · split
      · exact clock_applyWord.logged
      · exact logged_modCore _ _
    · exact logged_modCore _ _

/-- A store of the own cistern is written at its commit. -/
theorem commitGives_of_own_store (h : MayCommit s c k t b x) (hb : b.effs = [(i, .store lsid slack bytes)]) (hi : i < b.words.length)
    (hne : bytes ≠ []) (hw : ∀ y ∈ bytes, y.1 / 8 = w) (hd : (bytes.map (·.1)).Nodup) (hown : localOwner (w * 8) = .cistern c off) :
    CommitGives s c k b fun u _ => (∀ y ∈ bytes, byteAt u y.1 = y.2.2) ∧ isFull u (w * 8) = true ∧
      (∀ q, (∀ y ∈ bytes, q ≠ y.1) → byteAt u q = byteAt s q) ∧ (∀ q, q / 8 ≠ w → isFull u q = isFull s q) := by
  obtain ⟨a, ha, hj⟩ := storeWords_of_one_word (i := i) (lsid := lsid) (slack := slack) hne hw hd
  have ho := orderedEffs_single hb hi
  obtain ⟨hsame, hth, hcore, hid⟩ := run_writeRegisters_none (c := c) (k := k) (e := .store lsid slack bytes) h.thread rfl rfl
  have hrun := run_commitEffects_store h ha
  rw [run_releaseWord (by rw [hj.word]; exact hown), if_pos rfl] at hrun
  generalize run (writeRegisters c k [.store lsid slack bytes]) s = q at hsame hth hcore hid hrun
  have hwr := wordWritten_applyWord (s := applyUpd .newId q) (c := c) (k := k) (sid := q.nextId) (a := a) (by rw [hj.word]; exact hown)
  change WordWritten a _ (run (applyWord (releasedWord c k q.nextId a)) _) at hwr
  generalize run (applyWord (releasedWord c k q.nextId a)) (applyUpd .newId q) = p at hwr hrun
  have hcp : coreAt p c = coreAt s c := by
    rw [← hcore, coreAt, hwr.fields]
    rfl
  have htp : threadAt p c k = some t := by
    rw [← hth, threadAt, slotAt, hwr.fields]
    rfl
  rw [sendWords_nothing (by rw [hcp]; exact h.sent)] at hrun
  have hbyte : ∀ q', byteAt (applyUpd .newId q) q' = byteAt s q' := fun q' => by
    rw [byteAt, byteAt, hsame]
    rfl
  have hfull : ∀ q', isFull (applyUpd .newId q) q' = isFull s q' := fun q' => by
    rw [isFull, isFull, hsame]
    rfl
  have hplace : ∀ y ∈ bytes, a.word * 8 + y.1 % 8 = y.1 := fun y hy => by
    have := hw y hy
    rw [hj.word]
    omega
  refine commitGives_of_effects h (plain_single hb rfl) (by rw [ho]; exact hrun)
    (h.effectsDone htp ⟨rfl, rfl⟩ (by rw [hcp]; exact ⟨rfl, rfl, rfl⟩)) ?_
  rintro u th hset - -
  have hbu : ∀ q', byteAt u q' = byteAt p q' := fun q' => by rw [byteAt, byteAt, hset.mem.1]
  have hfu : ∀ q', isFull u q' = isFull p q' := fun q' => by rw [isFull, isFull, hset.mem.2]
  refine ⟨fun y hy => ?_, ?_, fun q' hq => ?_, fun q' hq => ?_⟩
  · rw [hbu]
    refine hwr.put _ _ (fun e he heq => ?_) ⟨_, hj.listed y hy, hplace y hy⟩
    obtain ⟨z, hz, rfl⟩ := hj.only e he
    rw [List.inj_on_of_nodup_map hd hz hy ((hplace z hz).symm.trans heq)]
  · rw [hfu, hwr.full, hj.word, Nat.mul_div_cancel _ (by decide)]
    simp
  · rw [hbu, hwr.other, hbyte]
    intro e he
    obtain ⟨z, hz, rfl⟩ := hj.only e he
    rw [hplace z hz]
    exact hq z hz
  · rw [hfu, hwr.full, hj.word, hfull]
    simp [hq]

end

end Sys2Proof.Machine

namespace Sys2Proof.Machine
open Sys2Proof

/-! ### A store word of another core (R230, R326) -/

/-- Whether an owner in a cistern is reached depends on the fenced dies alone. -/
theorem reaches_cistern_congr {s t : State} (h : t.mregs = s.mregs) (c d off : Nat) :
    reaches t c (.cistern d off) = reaches s c (.cistern d off) := by
  have hf : ∀ n, dieFenced t n = dieFenced s n := fun n => by rw [dieFenced, dieFenced, mreg, mreg, h]
  simp only [reaches, reachable, ownerDie, transitBlocked, hf, Option.elim_some]

/-- A message that leaves a core waits in its router. -/
theorem queued_sendMsg (src slack core : Nat) (dst : Dest) (exh : Bool) (slot : Option Nat) (m : Msg) (s : State) :
    ∃ x, Queued (run (sendMsg src dst slack exh core slot m) s) src x ∧ x.1 = 6 ∧ x.2.msg = m ∧ x.2.dst = dst ∧ x.2.slack = slack := by
  have hrun : run (sendMsg src dst slack exh core slot m) s =
      run (enterRouter src 6 ⟨s.nextId, dst, slack, exh, core, slot, m, 6, 0, none⟩) (applyUpd .newId s) :=
    run_freshId fun _ => mail_enterRouter.logged
  exact ⟨_, by rw [hrun]; exact enterRouter_queued, rfl, rfl, rfl, rfl⟩

/-- The store words of a core with one of them on its way. -/
def markGoing (sid : Nat) (x : Core) : Core :=
  { x with sent := x.sent.map fun e => if e.word.sid = sid then { e with going := true } else e }

/-- A store word of another core that is reached leaves as a message. -/
theorem run_launchWord {w : StoreWord} {d off : Nat} {s : State} (ho : localOwner (w.word * 8) = .cistern d off) (hd : d ≠ w.core)
    (ht : w.tag = none) (hr : reaches s w.core (.cistern d off) = true) :
    run (launchWord w) s = run (sendMsg w.core (.core d) w.slack w.exh w.core (some w.slot) (.store w))
      (run (modCore w.core (markGoing w.sid)) s) := by
  have hsend : sendToOwner w.core w.slot (.cistern d off) w.slack w.exh (.store w) (pure ()) =
      sendMsg w.core (.core d) w.slack w.exh w.core (some w.slot) (.store w) := by
    unfold sendToOwner sendFromTo
    exact if_neg hd
  unfold launchWord
  rw [run_look_bind]
  simp only [id, ownerOf_cistern ho, ht, hr, reduceCtorEq, if_false, if_true, hsend]
  exact run_seq (logged_modCore _ _) mail_sendMsg.logged s

/-- The one store word that a core has to send leaves. -/
theorem run_sendWords_one {c : Nat} {e : SentWord} {s : State} (h : (coreAt s c).sent = [e]) (hg : e.going = false) :
    run (sendWords c) s = run (launchWord e.word) s := by
  have hfree : freeWords [] [e] = [e.word] := by simp [freeWords, hg]
  unfold sendWords
  rw [run_look_bind, h, hfree, run_each_cons _ _ fun _ => clock_launchWord.logged, run_each_nil]

/-- A store of another core's cistern leaves at its commit and waits for its acknowledgement. -/
structure WordSent (s : State) (c k d inc : Nat) (a : WordSum) (p : State) : Prop where
  mem : p.mem = s.mem
  empty : p.empty = s.empty
  slots : p.slots = s.slots
  core : coreAt p c = { coreAt s c with sent := [⟨inc, s.cycle, releasedWord c k s.nextId a, true, false, false⟩] }
  queued : ∃ x, Queued p c x ∧ x.1 = 6 ∧ x.2.msg = .store (releasedWord c k s.nextId a) ∧ x.2.dst = .core d ∧ x.2.slack = a.slack

theorem wordSent_release {s : State} {c k d off inc : Nat} {a : WordSum} (ho : localOwner (a.word * 8) = .cistern d off) (hd : d ≠ c)
    (hr : reaches s c (.cistern d off) = true) (hs : (coreAt s c).sent = []) :
    WordSent s c k d inc a (run (sendWords c) (run (releaseWord c k inc none a) s)) := by
  rw [run_releaseWord ho, if_neg hd]
  -- the word joins those that wait for their acknowledgements
  generalize hq : run (modCore c _) (applyUpd .newId s) = q
  have hqc : coreAt q c = { coreAt s c with sent := [⟨inc, s.cycle, releasedWord c k s.nextId a, false, false, false⟩] } := by
    rw [← hq, coreAt_modCore]
    have hid : coreAt (applyUpd .newId s) c = coreAt s c := rfl
    rw [hid, hs]
    rfl
  have hqf : q = { s with cores := q.cores, nextId := q.nextId } := by
    rw [← hq]
    rfl
  have hqr : reaches q c (.cistern d off) = true := by
    rw [reaches_cistern_congr (s := s) (by rw [hqf])]
    exact hr
  rw [run_sendWords_one (by rw [hqc]) rfl, run_launchWord (w := releasedWord c k s.nextId a) ho hd rfl hqr]
  -- it is marked as on its way, and its message waits in the router
  generalize hv : run (modCore _ (markGoing _)) q = v
  have hvc : coreAt v c = { coreAt s c with sent := [⟨inc, s.cycle, releasedWord c k s.nextId a, true, false, false⟩] } := by
    rw [← hv]
    refine (coreAt_modCore c _ q).trans ?_
    rw [hqc]
    simp [markGoing]
  have hvf : v = { s with cores := v.cores, nextId := v.nextId } := by
    rw [← hv, hqf]
    rfl
  have hqueue := queued_sendMsg c a.slack c (.core d) false (some k) (.store (releasedWord c k s.nextId a)) v
  generalize hu : run (sendMsg c (.core d) a.slack false c (some k) (.store (releasedWord c k s.nextId a))) v = u at hqueue
  have hnet : NetRel v u := by
    rw [← hu]
    exact net_sendMsg.run v
  have hmail : MailRel v u := by
    rw [← hu]
    exact mail_sendMsg.run v
  change WordSent s c k d inc a (run (sendMsg c (.core d) a.slack false c (some k) (.store (releasedWord c k s.nextId a))) v)
  rw [hu]
  refine ⟨hmail.mem.trans (by rw [hvf]), ?_, hmail.slots.trans (by rw [hvf]), (hnet.coreAt c).trans hvc, hqueue⟩
  rw [hnet.fields, hvf]

theorem commitGives_of_far_store {s : State} {c d k i lsid slack w off : Nat} {t : Thread} {b : Block} {x : ExitFired}
    {bytes : List (Nat × Word × Byte)} (h : MayCommit s c k t b x) (hb : b.effs = [(i, .store lsid slack bytes)])
    (hi : i < b.words.length) (hne : bytes ≠ []) (hw : ∀ y ∈ bytes, y.1 / 8 = w) (hdup : (bytes.map (·.1)).Nodup) (hd : d ≠ c)
    (ho : localOwner (w * 8) = .cistern d off) (hr : reaches s c (.cistern d off) = true) :
    CommitGives s c k b fun u _ => u.mem = s.mem ∧ u.empty = s.empty ∧
      ∃ e : SentWord, (coreAt u c).sent = [e] ∧ e.inc = t.incarn.toNat ∧ e.going = true ∧ e.missed = false ∧
        e.word.core = c ∧ e.word.slot = k ∧ e.word.word = w ∧ e.word.slack = slack ∧ e.word.tag = none ∧
        e.word.bytes.length = bytes.length ∧ (∀ y ∈ bytes, (y.1 % 8, y.2.2) ∈ e.word.bytes) ∧
        ∃ p ∈ (routerAt u c).packets ++ (routerAt u c).offered,
          p.1 = 6 ∧ p.2.msg = .store e.word ∧ p.2.dst = .core d ∧ p.2.slack = slack := by
  obtain ⟨a, ha, hj⟩ := storeWords_of_one_word (i := i) (lsid := lsid) (slack := slack) hne hw hdup
  have hord := orderedEffs_single hb hi
  obtain ⟨hsame, hth, hcore, hid⟩ := run_writeRegisters_none (c := c) (k := k) (e := .store lsid slack bytes) h.thread rfl rfl
  have hrun := run_commitEffects_store h ha
  generalize run (writeRegisters c k [.store lsid slack bytes]) s = q at hsame hth hcore hid hrun
  have hrq : reaches q c (.cistern d off) = true := by
    rw [reaches_cistern_congr (s := s) (by rw [hsame])]
    exact hr
  have hsent := wordSent_release (k := k) (inc := t.incarn.toNat) (by rw [hj.word]; exact ho) hd hrq (by rw [hcore]; exact h.sent)
  generalize run (sendWords c) (run (releaseWord c k t.incarn.toNat none a) q) = p at hsent hrun
  have hc := hsent.core
  rw [hcore] at hc
  have htp : threadAt p c k = some t := by rw [threadAt_of_slots hsent.slots, hth]
  refine commitGives_of_effects h (plain_single hb rfl) (by rw [hord]; exact hrun)
    (h.effectsDone htp ⟨rfl, rfl⟩ (by rw [hc]; exact ⟨rfl, rfl, rfl⟩)) ?_
  rintro u th hset - -
  have hrouter : routerAt u c = routerAt p c := by
    rw [routerAt, hset.kept.fields]
    rfl
  obtain ⟨y, hy, h6, hmsg, hdst, hsl⟩ := hsent.queued
  refine ⟨hset.mem.1.trans (hsent.mem.trans (by rw [hsame])), hset.mem.2.trans (hsent.empty.trans (by rw [hsame])),
    ⟨t.incarn.toNat, q.cycle, releasedWord c k q.nextId a, true, false, false⟩, ?_, rfl, rfl, rfl, rfl, rfl, hj.word, hj.slack, rfl,
    hj.length, hj.listed, y, ?_, h6, hmsg, hdst, hsl.trans hj.slack⟩
  · rw [hset.kept.core, hc]
  · rw [hrouter]
    exact hy

theorem commitReleasesStores_claim : Claims.CommitReleasesStores :=
  fun _ _ _ _ _ _ _ _ _ _ _ h hb hi hne hw hd =>
    ⟨fun _ ho => commitGives_of_own_store h hb hi hne hw hd ho, fun _ _ hdc ho hr => commitGives_of_far_store h hb hi hne hw hd hdc ho hr⟩

/-- Settles O45: what a commit does is read off the three parts of it, its effects, its records and the thread's going on. -/
theorem commitWritesRegister : Obligations.CommitWritesRegister :=
  ⟨commitWritesRegister_claim, commitMergesFlags_claim, commitReleasesStores_claim, commitAppliesEffect_claim, commitEndsLoop_claim⟩

end Sys2Proof.Machine
